-- ==== Sys2Proof/Word.lean ====
section
/-!
DEFINITION. The word types of the C8160 and the numbers that name its parts (spec/01 R12-R17, spec/00 R3).
-/

namespace Sys2Proof

/-- One byte of memory. -/
abbrev Byte := BitVec 8
/-- One 16-bit parcel of an instruction stream (R29). -/
abbrev Parcel := BitVec 16
/-- A vector cell, and every 32-bit field (R66, R117). -/
abbrev Word32 := BitVec 32
/-- A scalar, queue or address register (R86, R87, Table 1-7). -/
abbrev Word64 := BitVec 64

/-- A device-wide core number, die × 32 + local core (R12). -/
abbrev CoreId := Fin 256
/-- A task slot of a core (R13). -/
abbrev SlotId := Fin 4
/-- A compute die (R12). -/
abbrev DieId := Fin 8
/-- A home agent, die × 8 + agent (R23, Table 19-15). -/
abbrev HomeId := Fin 64
/-- A DRAM stack (R21). -/
abbrev StackId := Fin 16
/-- A pavilion in the 8-bit form, 128 being the management pavilion (R28). -/
abbrev PavId := Fin 129
/-- A peer port (R24). -/
abbrev PortId := Fin 16

/-- The four streams of a task, in the order S, V, M, C of the header's stream tag (R31). -/
inductive Stream where
  | s | v | m | c
  deriving DecidableEq, Repr

/-- The stream-tag code (Table 2-2). -/
def Stream.code : Stream → Nat
  | .s => 0 | .v => 1 | .m => 2 | .c => 3

/-- The stream that a 2-bit tag names (Table 2-2). -/
def Stream.ofCode (n : Nat) : Stream :=
  if n % 4 = 0 then .s else if n % 4 = 1 then .v else if n % 4 = 2 then .m else .c

/-- One stream context: a core, a task slot and a stream (R14). -/
structure Ctx where
  core : CoreId
  slot : SlotId
  stream : Stream
  deriving DecidableEq, Repr

end Sys2Proof
end

