-- ==== Sys2Proof/Syntax.lean ====
section
/-!
DEFINITION. The instruction set as data: one constructor of Instr per row of spec/opcode_table.json, instructions of the
four streams first and the device's events and host commands after them, in the table's order. Reserved fields do not
appear: decoding refuses them (spec/02 R42).
-/

namespace Sys2Proof

/-- A scalar source field: S0-S15, or Q1-Q16 as q 0 to q 15 (R44). -/
inductive SSrc where
  | s (n : Fin 16)
  | q (n : Fin 16)
  deriving DecidableEq, Repr

/-- A scalar destination field: S0-S15, or NONE (R44). -/
inductive SDst where
  | s (n : Fin 16)
  | none
  deriving DecidableEq, Repr

/-- A vector source operand (Table 2-6). -/
inductive VSrc where
  | v (n : Fin 384)
  | zero
  | cellIdx
  | rowIdx
  | colIdx
  | a (n : Fin 8)
  deriving DecidableEq, Repr

/-- The element types of Table 2-10. -/
inductive ETy where
  | f32 | bf16 | f16 | i32 | i16 | i8 | i6 | n32 | n16 | n8
  deriving DecidableEq, Repr

/-- The rounding modes of R50 and R67. -/
inductive RMode where
  | rne | rz | rd | ru | rna
  deriving DecidableEq, Repr

/-- The scopes of Table 16-2. -/
inductive Scope where
  | task | core | die | dev | sys
  deriving DecidableEq, Repr

/-- The access sizes of format SM (Table 2-8). -/
inductive Size where
  | b1 | b2 | b4 | b8
  deriving DecidableEq, Repr

/-- The VT hint codes (Table 2-9). -/
inductive Hint where
  | none | pin | last | strm
  deriving DecidableEq, Repr

/-- The ALU operation selected for an atomic (Table 2-15). -/
inductive AmoOp where
  | add | and | or | xor | min | max | minu | maxu | swap
  deriving DecidableEq, Repr

/-- The VCMP conditions (Table 2-16). -/
inductive Cond where
  | eq | ne | lt | le | gt | ge | unord | ord
  deriving DecidableEq, Repr

/-- The reduction operations of R136. -/
inductive RedOp where
  | sum | max | min
  deriving DecidableEq, Repr

/-- The reductions of a remote put (Table 7-6). -/
inductive PutOp where
  | plain | addI32 | addI64 | minI32 | maxI32 | minF32 | maxF32
  deriving DecidableEq, Repr

/-- The product formats of Table 6-1. -/
inductive MFmt where
  | bf16 | f16 | i8 | i6
  deriving DecidableEq, Repr

/-- The control field of a product command (Table 2-11). -/
inductive MCtl where
  | ovw | acc | rdy | sub
  deriving DecidableEq, Repr

/-- The scale mode of MSCA (Table 2-11). -/
inductive ScaMode where
  | scalar | row | col
  deriving DecidableEq, Repr

abbrev VReg := Fin 384
abbrev KReg := Fin 8
abbrev AReg := Fin 8
abbrev BankNo := Fin 64
abbrev TSlot := Fin 32

/-- Format SR with its .W bit (Table 2-8, R54). -/
structure Alu where
  d : SDst
  a : SSrc
  b : SSrc
  w : Bool
  deriving DecidableEq, Repr

/-- The unary ALU operations CLZ, CTZ and POPC, whose b field is zero (R54). -/
structure Alu1 where
  d : SDst
  a : SSrc
  w : Bool
  deriving DecidableEq, Repr

/-- Format SI (Table 2-8). -/
structure ImmOp where
  d : SDst
  a : SSrc
  imm : BitVec 14
  deriving DecidableEq, Repr

/-- SHLI, SHRI and SARI: the amount is imm bits 5:0 (R99). -/
structure ShiftImm where
  d : SDst
  a : SSrc
  amt : BitVec 6
  deriving DecidableEq, Repr

/-- Format SX (Table 2-8). -/
structure BField where
  d : SDst
  a : SSrc
  off : BitVec 6
  width : BitVec 7
  deriving DecidableEq, Repr

/-- Format SB (Table 2-8). -/
structure CmpBr where
  a : SSrc
  b : SSrc
  off : BitVec 14
  deriving DecidableEq, Repr

/-- Format SM for a load (R107). -/
structure LoadOp where
  d : SDst
  base : SSrc
  size : Size
  sx : Bool
  rd : Fin 4
  off : BitVec 9
  deriving DecidableEq, Repr

/-- Format SM for a store (R108). -/
structure StoreOp where
  src : SSrc
  base : SSrc
  size : Size
  rd : Fin 4
  off : BitVec 9
  deriving DecidableEq, Repr

/-- Format SA of an AMO: its size is a word or, with `dword`, a dword (R113). -/
structure AmoF where
  d : SDst
  addr : SSrc
  val : SSrc
  dword : Bool
  scope : Scope
  deriving DecidableEq, Repr

/-- Format V3 (Table 2-9). -/
structure V3 where
  d : VReg
  a : VSrc
  b : VSrc
  ta : Bool
  tb : Bool
  k : KReg
  ty : ETy
  zm : Bool
  deriving DecidableEq, Repr

/-- Format V3 of a unary operation: b and tb are zero (R124). -/
structure V3u where
  d : VReg
  a : VSrc
  ta : Bool
  k : KReg
  ty : ETy
  zm : Bool
  deriving DecidableEq, Repr

/-- Format VM (Table 2-9): `v` a destination, or a source of Table 2-6. -/
structure VMem (α : Type) where
  v : α
  base : AReg
  stride : AReg
  k : KReg
  rd : Fin 4
  ty : ETy
  off : BitVec 16
  deriving DecidableEq, Repr

/-- Format VMX (Table 2-9). -/
structure VMemX (α : Type) where
  v : α
  base : AReg
  stride : AReg
  k : KReg
  rd : Fin 4
  ty : ETy
  idx : VSrc
  scale : Fin 8
  deriving DecidableEq, Repr

/-- Format VT (Table 2-9). -/
structure VTile (α : Type) where
  v : α
  slot : TSlot
  coord : AReg
  sub : Fin 16
  hint : Hint
  xv : Bool
  rd : Fin 4
  k : KReg
  deriving DecidableEq, Repr

/-- Format VA: `band` is none for all bands (Table 2-9, R145). -/
structure VAcc (α : Type) where
  v : α
  bank : BankNo
  band : Option (Fin 4)
  ty : ETy
  deriving DecidableEq, Repr

/-- The operand fields that MM, MG and MK share (Table 2-11). -/
structure MOps where
  bank : BankNo
  aslot : TSlot
  acoord : AReg
  bslot : TSlot
  bcoord : AReg
  ctl : MCtl
  fmt : MFmt
  xv : Bool
  deriving DecidableEq, Repr

/-- The sync-word fields of format CP (Table 2-12). -/
structure SwF where
  sw : AReg
  use : Bool
  deriving DecidableEq, Repr

/-- The two-dimensional fields of CPY2 and CPYX (Table 2-12). -/
structure Dim2 where
  cnt : AReg
  dstr : AReg
  sstr : AReg
  deriving DecidableEq, Repr

/-- The range of a tile instruction (Table 7-8). -/
inductive TRange where
  | one
  | run (lane : Fin 4) (n : BitVec 16)
  | all
  deriving DecidableEq, Repr

/-- The tile form of TCPIN, TCUNP, TCINV and TCFLS (Table 7-8). -/
structure TileF where
  range : TRange
  slot : TSlot
  coord : AReg
  xv : Bool
  deriving DecidableEq, Repr

/-- A view of a peer link: width code 1:0, rate bit 2, lane map 7:3 (R270). -/
abbrev View := BitVec 8

/-- A Shulos Link frame as it arrives at a peer port (Table 21-4); `good` is the verdict of its check sequence. -/
structure ShulosFrame where
  good : Bool
  etype : BitVec 16
  ver : BitVec 8
  kind : BitVec 8
  seq : Word32
  ack : Word32
  dnode : BitVec 16
  snode : BitVec 16
  flits : List (BitVec 64 × BitVec 512)
  deriving DecidableEq, Repr

/-- What a host-port frame carries once its headers are read (R247, R248). -/
inductive FrameBody where
  | act (msg : List Byte)
  | roce
  | rdmaReply (core : CoreId) (n : Nat) (ok : Bool) (data : List Byte)
  | cnp
  | arp
  | echo
  | other
  deriving DecidableEq, Repr

/-- The options of a host-port frame that Table 10-1 speaks of: its length, VLAN tags, the IP header, a UDP checksum of zero, and
for RoCEv2 the service (true: reliable connected), path MTU, and whether it is an RDMA atomic, carries immediate data or names a
type 2 window. -/
structure FrameOpts where
  len : Nat
  tags : Nat
  fragment : Bool
  ipOptions : Bool
  multicast : Bool
  sumZero : Bool
  reliable : Bool
  mtu : Nat
  atomic : Bool
  immediate : Bool
  window2 : Bool
  deriving DecidableEq, Repr

/-- A host-port frame: addresses, VLAN, options and body. -/
structure HostFrame where
  mac : BitVec 48
  vlan : Option (BitVec 12)
  ip4 : Option (BitVec 32)
  ip6 : Option (BitVec 128)
  port : BitVec 16
  opts : FrameOpts
  body : FrameBody
  deriving DecidableEq, Repr

/-- Is a body one of RoCEv2? -/
def FrameBody.isRoce : FrameBody → Bool
  | .roce | .rdmaReply .. | .cnp => true
  | _ => false

/-- Does a frame use no option outside Table 10-1 (R247)? -/
def HostFrame.supported (f : HostFrame) : Bool :=
  let o := f.opts
  decide (o.len ≤ 9216) && decide (o.tags ≤ 1) && !o.fragment && !o.ipOptions && !o.multicast && !(o.sumZero && f.ip6.isSome)
    && (!f.body.isRoce || (o.reliable && [1024, 2048, 4096].contains o.mtu && !o.atomic && !o.immediate && !o.window2))

/-- A remote request as it reaches its target (R237, R197, R421); a tile request carries the descriptor and coordinates,
from which its footprint and its tag at the target follow. -/
inductive RemoteKind where
  | load (dword : Bool)
  | store (dword : Bool) (val : Word64)
  | amo (op : AmoOp) (dword : Bool) (val : Word64)
  | get (len : Nat)
  | put (op : PutOp) (bytes : List Byte) (poison : Bool)
  | tile (desc : List Byte) (coord : Word64) (exact : Bool) (ver : Option (BitVec 16))
  | tileP (desc : List Byte) (coord : Word64)
  | tileWb (desc : List Byte) (coord : Word64) (ver : BitVec 16) (data : List Byte)
  deriving DecidableEq, Repr

/-- A turn of a pseudo-channel's scheduler: the pseudo-channel, and the banks whose timing allows a column command (R362). -/
structure DramTurn where
  pc : Fin 512
  banks : BitVec 16
  deriving DecidableEq, Repr

/-- The end of the copy of a retired row of a stack: the symbols in error in both halves of its lines, in order (R364, R367). -/
structure RowCopy where
  stack : StackId
  errs : List (Nat × Nat)
  deriving DecidableEq, Repr

/-- A remote request on the wire: who asks, the token and the window offset (R237, R418). -/
structure RemoteReq where
  snode : BitVec 16
  spav : Fin 128
  tpav : Fin 128
  token : Word64
  off : Nat
  kind : RemoteKind
  deriving DecidableEq, Repr

/-- The fields of PAV_CREATE, PAVNET and MGMTCFG that Table 19-12 puts at 0x00-0x2F. -/
structure NetCfg where
  pav : BitVec 8
  pflags : BitVec 8
  vlan : BitVec 16
  actport : BitVec 16
  ipv4 : BitVec 32
  ipv6 : BitVec 128
  cmdkey : BitVec 128
  deriving DecidableEq, Repr

/-- A launch record (Table 10-7), as its two 128-bit halves hold it. -/
structure LaunchRec where
  argb : Word64
  energy : Word64
  join : Word64
  image : BitVec 16
  region : BitVec 16
  opts : Word32
  deriving DecidableEq, Repr

/-- Every operation of the machine: one constructor per row of spec/opcode_table.json. -/
inductive Instr where
  | blockHeaderEntry (hdr : BitVec 30)
  | blockComplete (x : Ctx)
  | tokenPushDeferred (x : Ctx)
  | addC (d : Fin 16) (a : SSrc)
  | subC (d : Fin 16) (a : SSrc)
  | andC (d : Fin 16) (a : SSrc)
  | orC (d : Fin 16) (a : SSrc)
  | addiC (d : Fin 16) (imm : BitVec 5)
  | movC (d : Fin 16) (a : SSrc)
  | nopC
  | add (o : Alu)
  | sub (o : Alu)
  | and (o : Alu)
  | or (o : Alu)
  | xor (o : Alu)
  | andn (o : Alu)
  | shl (o : Alu)
  | shr (o : Alu)
  | sar (o : Alu)
  | mul (o : Alu)
  | mulh (o : Alu)
  | mulhu (o : Alu)
  | div (o : Alu)
  | divu (o : Alu)
  | rem (o : Alu)
  | remu (o : Alu)
  | min (o : Alu)
  | max (o : Alu)
  | minu (o : Alu)
  | maxu (o : Alu)
  | slt (o : Alu)
  | sltu (o : Alu)
  | seq (o : Alu)
  | clz (o : Alu1)
  | ctz (o : Alu1)
  | popc (o : Alu1)
  | addi (o : ImmOp)
  | andi (o : ImmOp)
  | ori (o : ImmOp)
  | xori (o : ImmOp)
  | shli (o : ShiftImm)
  | shri (o : ShiftImm)
  | sari (o : ShiftImm)
  | slti (o : ImmOp)
  | sltiu (o : ImmOp)
  | lui (d : SDst) (imm : BitVec 19)
  | li (d : SDst) (imm : BitVec 31)
  | bfx (o : BField)
  | bfxs (o : BField)
  | bfi (o : BField)
  | beq (o : CmpBr)
  | bne (o : CmpBr)
  | blt (o : CmpBr)
  | bge (o : CmpBr)
  | bltu (o : CmpBr)
  | bgeu (o : CmpBr)
  | call (off : BitVec 24)
  | ret
  | jr (a : SSrc)
  | ld (o : LoadOp)
  | st (o : StoreOp)
  | ldacq (o : LoadOp)
  | strel (o : StoreOp)
  | amoadd (o : AmoF)
  | amoand (o : AmoF)
  | amoor (o : AmoF)
  | amoxor (o : AmoF)
  | amomin (o : AmoF)
  | amomax (o : AmoF)
  | amominu (o : AmoF)
  | amomaxu (o : AmoF)
  | amoswap (o : AmoF)
  | cas (o : AmoF) (cmp : SSrc)
  | rld (d : SDst) (addr : SSrc) (dword : Bool) (scope : Scope) (tok : SSrc)
  | rst (addr : SSrc) (val : SSrc) (dword : Bool) (scope : Scope) (tok : SSrc)
  | ramo (op : AmoOp) (o : AmoF) (tok : SSrc)
  | fence (scope : Scope) (kinds : BitVec 4) (acq : Bool) (rel : Bool) (d : SDst)
  | ifence (d : SDst)
  | tfence (d : SDst)
  | fork (d : SDst) (a : SSrc)
  | join (a : SSrc)
  | spawn (t : Stream) (off : BitVec 22)
  | exit
  | yield
  | launch (d : SDst) (a : SSrc)
  | tdld (t : TSlot) (a : SSrc)
  | tdver (t : TSlot) (a : SSrc)
  | swinit (a : SSrc) (b : SSrc)
  | barr (a : SSrc)
  | hnotify (a : SSrc) (b : SSrc)
  | trap (code : BitVec 16)
  | resume (d : SDst) (a : SSrc) (b : SSrc)
  | kill (d : SDst) (a : SSrc) (b : SSrc)
  | rqrel (d : SDst) (a : SSrc) (b : SSrc)
  | tlbinv (d : SDst) (a : SSrc) (b : SSrc)
  | snaprd (d : SDst) (a : SSrc) (b : SSrc)
  | snapwr (d : SDst) (a : SSrc) (b : SSrc)
  | keyret (d : SDst) (a : SSrc) (b : SSrc)
  | grant (d : SDst) (a : SSrc) (b : SSrc)
  | nop
  | br (off : BitVec 24)
  | bzS (a : SSrc) (off : BitVec 14)
  | bzA (a : AReg) (off : BitVec 14)
  | bnzS (a : SSrc) (off : BitVec 14)
  | bnzA (a : AReg) (off : BitVec 14)
  | loopImm (lvl2 : Bool) (len : BitVec 9) (cnt : BitVec 12)
  | loopRegS (lvl2 : Bool) (len : BitVec 9) (a : SSrc)
  | loopRegA (lvl2 : Bool) (len : BitVec 9) (a : AReg)
  | waitGenS (addr : SSrc) (gen : SSrc)
  | waitGenA (addr : AReg) (gen : AReg)
  | waitTok (src : Stream) (n : Fin 16)
  | tksend (dst : Stream) (n : Fin 16)
  | halt
  | beacon (tag : BitVec 16)
  | mfsrS (d : SDst) (idx : BitVec 10)
  | mfsrA (d : AReg) (idx : BitVec 10)
  | mtsrS (a : SSrc) (idx : BitVec 10)
  | mtsrA (a : AReg) (idx : BitVec 10)
  | awr (t : Stream) (n : AReg) (a : SSrc)
  | amov (d : AReg) (a : AReg)
  | aadd (d : AReg) (a : AReg) (imm : BitVec 18)
  | acset (d : AReg) (lane : Fin 4) (imm : BitVec 16)
  | acinc (d : AReg) (lane : Fin 4) (imm : BitVec 16)
  | vadd (o : V3)
  | vsub (o : V3)
  | vmul (o : V3)
  | vmin (o : V3)
  | vmax (o : V3)
  | vabs (o : V3u)
  | vneg (o : V3u)
  | vcpsgn (o : V3)
  | vfma (o : V3)
  | vfms (o : V3)
  | vfnma (o : V3)
  | vrcp (o : V3u)
  | vsqrt (o : V3u)
  | vrsqrt (o : V3u)
  | vexp2 (o : V3u)
  | vlog2 (o : V3u)
  | viadd (o : V3)
  | visub (o : V3)
  | vimul (o : V3)
  | vimin (o : V3)
  | vimax (o : V3)
  | vqadd (o : V3)
  | vqsub (o : V3)
  | vimulh (o : V3)
  | vand (o : V3)
  | vor (o : V3)
  | vxor (o : V3)
  | vandn (o : V3)
  | vshl (o : V3)
  | vshr (o : V3)
  | vsar (o : V3)
  | vcmp (cond : Cond) (d : KReg) (a : VSrc) (b : VSrc) (ta : Bool) (tb : Bool) (k : KReg) (ty : ETy) (zm : Bool)
  | vsel (d : VReg) (a : VSrc) (b : VSrc) (ta : Bool) (tb : Bool) (k : KReg)
  | kand (d : KReg) (a : KReg)
  | kor (d : KReg) (a : KReg)
  | kxor (d : KReg) (a : KReg)
  | knot (d : KReg) (a : KReg)
  | kmov (d : KReg) (a : KReg)
  | vcvt (d : VReg) (a : VSrc) (ta : Bool) (k : KReg) (sty : ETy) (dty : ETy) (rm : RMode) (zm : Bool)
  | vmov (d : VReg) (a : VSrc)
  | vmovi (d : VReg) (imm : BitVec 31)
  | vext (x : AReg) (v : VSrc) (n : Fin 1024)
  | vrotr (d : VReg) (a : VSrc) (n : Fin 64)
  | vrotc (d : VReg) (a : VSrc) (n : Fin 16)
  | vbcr (d : VReg) (a : VSrc) (n : Fin 64)
  | vbcc (d : VReg) (a : VSrc) (n : Fin 16)
  | vredr (d : VReg) (a : VSrc) (op : RedOp) (ty : ETy)
  | vredc (d : VReg) (a : VSrc) (op : RedOp) (ty : ETy)
  | vtr16 (d : VReg) (a : VSrc)
  | vperm (d : VReg) (a : VSrc) (b : VSrc) (ta : Bool) (tb : Bool) (k : KReg) (zm : Bool)
  | vld (o : VMem VReg)
  | vst (o : VMem VSrc)
  | vgath (o : VMemX VReg)
  | vscat (o : VMemX VSrc)
  | vtld (o : VTile VReg)
  | vtst (o : VTile VSrc) (pub : Bool)
  | vacvt (o : VAcc VReg) (rm : RMode)
  | vafil (o : VAcc VSrc)
  | vfeEmpty (v : VReg)
  | vfeFull (v : VReg)
  | vfeC (v : VReg)
  | mma (o : MOps) (asub : Fin 16) (bsub : Fin 16) (ah : Hint) (bh : Hint) (tb : Bool)
  | mmaC (bank : BankNo)
  | mmag (o : MOps) (idx : VSrc) (ah : Hint) (bh : Hint)
  | mmk (o : MOps) (n : BitVec 8) (la : Fin 4) (lb : Fin 4)
  | mres (bank : BankNo) (a : AReg)
  | msca (d : BankNo) (src : BankNo) (scale : VSrc) (mode : ScaMode)
  | mrnm (bank : BankNo) (k : BitVec 12)
  | mzero (bank : BankNo) (n : Fin 64) (imm : BitVec 12)
  | manch (bank : BankNo) (imm : BitVec 12)
  | mcopy (d : BankNo) (src : BankNo)
  | aalloc (bank : BankNo) (n : Fin 64) (wait : Bool)
  | afree (bank : BankNo) (n : Fin 64)
  | aband (bank : BankNo) (q : BankNo) (owners : BitVec 12)
  | msync (bank : BankNo)
  | mstb (a : AReg) (per : BitVec 12)
  | mstamp (off : BitVec 9)
  | gload (a : AReg)
  | gslot (bank : BankNo) (n : BitVec 7)
  | gxwin (v : Fin 512) (bf16 : Bool)
  | geval (lvl : Fin 16)
  | grow (a : AReg) (bank : BankNo) (ovw : Bool) (n : Fin 32)
  | cpy (dst : AReg) (src : AReg) (len : AReg) (sw : SwF) (rd : Fin 4)
  | cpy2 (dst : AReg) (src : AReg) (len : AReg) (sw : SwF) (rd : Fin 4) (dim : Dim2)
  | cpyf (dst : AReg) (src : AReg) (len : AReg) (sw : SwF) (rd : Fin 4) (size : Size)
  | cpyxExp (dst : AReg) (src : AReg) (len : AReg) (sw : SwF) (rd : Fin 4) (dim : Dim2)
  | cpyxPack (dst : AReg) (src : AReg) (len : AReg) (sw : SwF) (rd : Fin 4) (dim : Dim2)
  | cpyt (coord : AReg) (deliver : Option AReg) (sw : SwF) (rd : Fin 4) (slot : TSlot) (xv : Bool) (hint : Hint)
  | cpyw (coord : AReg) (sw : SwF) (slot : TSlot) (xv : Bool) (last : Bool)
  | cpyrGet (dst : AReg) (src : AReg) (len : AReg) (sw : SwF) (rd : Fin 4) (tok : AReg) (tgt : AReg)
  | cpyrPut (dst : AReg) (src : AReg) (len : AReg) (sw : SwF) (rd : Fin 4) (tok : AReg) (tgt : AReg) (op : PutOp)
  | cpyhRd (dst : AReg) (src : AReg) (len : AReg) (sw : SwF) (rd : Fin 4) (win : AReg)
  | cpyhWr (dst : AReg) (src : AReg) (len : AReg) (sw : SwF) (rd : Fin 4) (win : AReg)
  | tcpin (o : TileF)
  | tcunp (o : TileF)
  | tcinv (o : TileF)
  | tcfls (o : TileF)
  | tcitn (addr : AReg) (cnt : AReg) (hint : Hint) (win : BitVec 6)
  | tcqry (d : AReg) (slot : TSlot) (coord : AReg) (xv : Bool)
  | swadd (sw : AReg) (amt : AReg)
  | scalarResultArrival (core : CoreId) (slot : SlotId) (tag : Nat)
  | translationWalkEnd (id : Nat)
  | vectorFillLand (core : CoreId) (slot : SlotId) (v : VReg)
  | feTimeout (x : Ctx)
  | bankLanding (core : CoreId) (slot : SlotId) (n : Nat)
  | bankReadyToken (core : CoreId) (slot : SlotId)
  | bankRelease (core : CoreId) (bank : BankNo)
  | stampedIssue (core : CoreId) (slot : SlotId)
  | replayReentry (core : CoreId)
  | tarnFillArrival (id : Nat)
  | reassemblyFlit (id : Nat) (off : Fin 64)
  | itineraryPrefetch (core : CoreId) (slot : SlotId)
  | tileDirRequest (id : Nat)
  | tileVersionQuery (id : Nat)
  | tileWritebackBegin (id : Nat)
  | tilePublish (id : Nat)
  | tileDropReport (id : Nat)
  | holderForward (id : Nat)
  | directoryRecallDone (home : HomeId)
  | copySlotEnd (core : CoreId) (n : Nat)
  | copySlotFail (core : CoreId) (n : Nat)
  | copySlotPause (core : CoreId) (n : Nat)
  | syncWordAdd (id : Nat)
  | generationReport (x : Ctx)
  | joinAtHome (id : Nat)
  | homeLoad (id : Nat)
  | homeStore (id : Nat)
  | homeAtomic (id : Nat)
  | storeAck (id : Nat)
  | ltimeTick
  | floorBroadcast
  | crEnqueue (id : Nat)
  | dispatchDecision (die : DieId)
  | crPriorityRise (die : DieId) (n : Nat)
  | crMigrate (die : DieId)
  | gangReserve (die : DieId)
  | imemFillDone (core : CoreId) (slot : SlotId)
  | taskStart (core : CoreId) (slot : SlotId)
  | taskEnd (core : CoreId) (slot : SlotId)
  | taskSaveDone (core : CoreId) (slot : SlotId)
  | taskRestoreDone (core : CoreId) (slot : SlotId)
  | watchdogFire (core : CoreId) (slot : SlotId)
  | energyExhausted (acct : BitVec 20)
  | thermalWithhold (core : CoreId)
  | stateLoss (core : CoreId)
  | freezeComplete (pav : PavId)
  | dramRequestServe (stack : StackId) (turn : DramTurn) (e0 : Nat) (e1 : Nat)
  | patrolRead (stack : StackId) (pc : Fin 512) (e0 : Nat) (e1 : Nat)
  | hotListScrub (stack : StackId) (n : Nat) (lo : Nat) (e0 : Nat) (e1 : Nat)
  | rowRemapDone (copy : RowCopy)
  | scoreHalving (stack : StackId)
  | pressureWindow
  | oldFlit (n : Nat)
  | noticeReceive (core : CoreId) (payload : BitVec 512)
  | shulosFrameReceive (port : PortId) (f : ShulosFrame)
  | shulosAckSend (port : PortId)
  | shulosRetransmit (port : PortId)
  | linkDownTimer (port : PortId)
  | linkTrained (port : PortId) (view : View)
  | linkViewReceive (port : PortId) (view : View)
  | linkLoss (port : PortId)
  | peerLost (port : PortId)
  | remoteIngress (r : RemoteReq)
  | remoteResponse (id : Nat) (code : BitVec 8) (data : List Byte) (ver : BitVec 16)
  | deviceReset (fwOk : Bool) (dramOk : Bool) (portsUp : BitVec 16)
  | hostFrameReceive (f : HostFrame)
  | neighbourEchoReply (f : HostFrame)
  | actMessageReceive (pav : PavId) (msg : List Byte)
  | imgReg (pav : PavId) (seq : Word32) (va : Word64) (len : Word64) (base : Word32)
  | imgDrop (pav : PavId) (seq : Word32) (handle : BitVec 16)
  | actLaunch (pav : PavId) (seq : Word32) (r : LaunchRec)
  | mbox (pav : PavId) (seq : Word32) (core : BitVec 16) (r : LaunchRec)
  | statusLaunch (pav : PavId) (seq : Word32) (id : Word64)
  | statusPavilion (pav : PavId) (seq : Word32) (id : Word64)
  | statusCounters (pav : PavId) (seq : Word32) (id : Word64)
  | nqCreate (pav : PavId) (seq : Word32) (q : BitVec 8) (window : Word32) (rate : Word32) (ip : BitVec 128) (port : BitVec 16)
  | nqDestroy (pav : PavId) (seq : Word32) (q : BitVec 8)
  | winHostCreate (pav : PavId) (seq : Word32) (idx : BitVec 16) (qp : Word32) (raddr : Word64) (rkey : Word32) (len : Word64) (ip : BitVec 128)
  | winHostDestroy (pav : PavId) (seq : Word32) (idx : BitVec 16)
  | winDeviceCreate (pav : PavId) (seq : Word32) (idx : BitVec 16) (va : Word64) (len : Word64) (rights : BitVec 8)
  | winDeviceDestroy (pav : PavId) (seq : Word32) (idx : BitVec 16)
  | attest (pav : PavId) (seq : Word32) (nonce : BitVec 256)
  | notifyAck (pav : PavId) (seq : Word32)
  | notificationSend (pav : PavId) (q : BitVec 8)
  | notificationRetransmit (pav : PavId) (seq : Word32)
  | hostRdmaWrite (pav : PavId) (win : BitVec 8) (off : Nat) (data : List Byte)
  | hostRdmaRead (pav : PavId) (win : BitVec 8) (off : Nat) (len : Nat)
  | pavCreate (pav : PavId) (seq : Word32) (net : NetCfg) (rtab : Word64) (rtlen : Word32) (shost : BitVec 16) (sdram : BitVec 16) (sinj : BitVec 16) (troot : Word64) (ranges : List (Word64 × Word64)) (keys : List (List Byte))
  | pavDestroy (seq : Word32) (pav : BitVec 8)
  | freeze (seq : Word32) (pav : BitVec 8)
  | unfreeze (seq : Word32) (pav : BitVec 8)
  | reset (seq : Word32) (pav : BitVec 8)
  | memstatErrorRing (seq : Word32) (sel : BitVec 8) (clr : Bool)
  | memstatDeadlines (seq : Word32) (sel : BitVec 8) (clr : Bool)
  | memstatHotList (seq : Word32) (sel : BitVec 8) (clr : Bool) (start : Word32)
  | shares (seq : Word32) (pav : BitVec 8) (shost : BitVec 16) (sdram : BitVec 16) (sinj : BitVec 16)
  | counters (seq : Word32) (pav : BitVec 8) (clr : Bool)
  | nodecfg (seq : Word32) (node : BitVec 16) (etype : BitVec 16) (ents : List (BitVec 16 × BitVec 16))
  | pavmem (seq : Word32) (pav : BitVec 8) (mflags : BitVec 8) (troot : Word64) (ranges : List (Word64 × Word64))
  | pavnet (seq : Word32) (net : NetCfg)
  | errring (seq : Word32) (stack : BitVec 8) (va : Word64)
  | mgmtcfg (seq : Word32) (net : NetCfg)
  | grantkey (seq : Word32) (pav : BitVec 8)
  | routerPortAssignment (plane : Fin 4)
  | rocev2Retransmit (core : CoreId) (n : Nat) (lost : Bool)
  | coreStateCleared (core : CoreId)
  | powerLoss
  deriving DecidableEq, Repr

end Sys2Proof
end

