-- ==== Sys2Proof/Machine/State.lean ====
section
/-!
DEFINITION. The state of the device as plain data: everything the spec names, listed in INVENTORY.md under State. Large
regular stores are maps of (number, entry) pairs in which an absent entry reads as the reset value of the entry.
-/

namespace Sys2Proof.Machine

/-- A sparse store by number, in rising order of number; what an absent number reads as is said by its reader. -/
abbrev SMap (α : Type) := List (Nat × α)

/-- A 1,024-cell vector register value, by cell index (R117). -/
abbrev Cells := List Word32

/-! ## Memory side -/

/-- The page classes of Table 16-1. -/
inductive PClass where
  | priv | rshr | coh | dev
  deriving DecidableEq, Repr

/-- A leaf translation (Table 16-6): the page's virtual base, size, physical base, class, permissions and key id. -/
structure Leaf where
  va : Nat
  size : Nat
  pa : Nat
  cls : PClass
  r : Bool
  w : Bool
  key : Nat
  deriving DecidableEq, Repr

/-- An entry of a die's translation cache (R358): a leaf, or a pointer entry named by its level and virtual base. -/
inductive TcEntry where
  | leaf (pav : Nat) (l : Leaf)
  | ptr (pav : Nat) (level : Nat) (va : Nat) (pa : Nat)
  deriving DecidableEq, Repr

/-- An access that has asked for a walk: its task, its stream and its address (R358). -/
abbrev Asker := Word32 × Stream × BitVec 17

/-- A page walk in flight: the die, the pavilion and the page it is for, the accesses that asked for it; `failed` once it found
no translation (R356, R358). -/
structure Walk where
  die : Nat
  pav : Nat
  va : Nat
  asks : List Asker
  failed : Bool
  deriving DecidableEq, Repr

/-- What a request to memory carries: its requester, its region's service class and DEADLINE (R361, R363). -/
structure Orig where
  req : Nat
  svc : Nat
  deadline : Nat
  deriving DecidableEq, Repr

/-- A cached 128-byte line: an L1 line of any class or a DLC line (R332-R334, R345); the bytes that it holds, all of them but
in a DLC line that a write-back from an L1 made; what the write-back of its dirty bytes carries (R361). -/
structure CLine where
  line : Nat
  key : Nat
  pav : Nat
  coh : Bool
  data : List Byte
  valid : BitVec 128
  dirty : BitVec 128
  orig : Orig
  wts : Word32
  rts : Word32
  poison : Bool
  deriving DecidableEq, Repr

/-- What a memory request asks of its home, or of the line it misses (R345, R354, R233). -/
inductive ReqKind where
  | load (n : Nat) (sx : Bool) (acq : Bool)
  | store (mask : BitVec 128) (data : List Byte) (rel : Bool)
  | storeBits (mask : BitVec 1024) (data : BitVec 1024)
  | amo (op : AmoOp) (n : Nat) (v : Word64)
  | cas (n : Nat) (cmp : Word64) (v : Word64)
  | swadd (amt : Nat)
  | swinit (target : Nat)
  | join (pav : Nat) (region : Nat) (acct : BitVec 20)
  | desc (t : Nat)
  | gen
  | notifD
  deriving DecidableEq, Repr

/-- How far a request has come: issued and not sent, while an access of its stream to its line is unacknowledged (R412); sent; or
performed at its agent with the value read and the write time (R345). -/
inductive ReqStage where
  | held
  | sent
  | done (val : List Byte) (wts : Word32) (rts : Word32) (poison : Bool)
  deriving DecidableEq, Repr

/-- A memory request between its issue and its end (R339, R345, R412), with the LTIME that it carries. One of class PRIV or
RSHR brings its line to the die, where the access is then made (R332). -/
structure Req where
  ctx : Ctx
  task : Word32
  pav : Nat
  orig : Orig
  blk : Nat
  tag : Nat
  iaddr : BitVec 17
  va : Word64
  pa : Nat
  cls : PClass
  key : Nat
  scope : Scope
  rd : Nat
  lt : Word32
  kind : ReqKind
  stage : ReqStage
  deriving DecidableEq, Repr

/-! ## Scalar stream -/

/-- What a pending scalar result becomes when it arrives (R88, R93, R238); a FENCE keeps what it orders and the peer port
whose loss ends it (R226, R227). `fixed` is a result of a fixed latency, which its destination and the queue hold already, with
the destination's earlier value and the cycle on which it becomes visible (R88, R92, R380). -/
inductive SRes where
  | waiting
  | fixed (v old vis : Word64)
  | tfence
  | fence (scope : Scope) (kinds : BitVec 4) (acq : Bool) (rel : Bool) (lost : Option Nat)
  | value (v : Word64)
  | poisoned (v : Word64)
  | remote (code : BitVec 8)
  deriving DecidableEq, Repr

/-- A result in flight: its destination register, the queue position that waits for it (none once pushed out of Q16), the
instruction and address that a fault would name (R88, R91). -/
structure SPend where
  tag : Nat
  dst : SDst
  qpos : Option Nat
  iaddr : BitVec 17
  faddr : Word64
  holds : Bool
  acq : Bool
  res : SRes
  deriving DecidableEq, Repr

/-! ## Streams -/

/-- A pending WAIT condition (R221-R223). -/
inductive WaitCond where
  | gen (va : Word64) (pa : Nat) (g : Word32) (seen : Option Word64)
  | tok (src : Stream) (n : Nat)
  deriving DecidableEq, Repr

/-- What a block's completion leads to (R36, R221, R224, R230). -/
inductive After where
  | header
  | wait (w : WaitCond)
  | halt
  | yield
  | exit
  deriving DecidableEq, Repr

/-- Where a stream stands: stopped, at its next header, in a block, or holding at a block whose effects or PUSH tokens
are not all out. -/
inductive Phase where
  | halted
  | atHeader
  | inBlock
  | draining (a : After)
  deriving DecidableEq, Repr

/-- A token: the M-stream changes that it orders, up to `upto`, on every bank or on one physical bank; the V-stream
drains up to `upto` for a token of the V stream (R148, R171); `seen` the accesses that it orders, of each stream those with a
lower number (R112); the cycle on which it was sent (R285). -/
structure Tok where
  upto : Nat
  seen : List Nat
  bank : Option Nat
  at_ : Word64
  deriving DecidableEq, Repr

/-- A stream context (R14); `seen` the accesses of each stream that the tokens it has popped order before its next ones, by the
number below which they lie (R112). -/
structure StreamCtx where
  pc : BitVec 17
  phase : Phase
  spawned : Bool
  hdr : Word32
  blk : BitVec 17
  lbuf : List Parcel
  lc0 : Word32
  lc1 : Word32
  lc2 : Word32
  reps : Word32
  l1 : Option (BitVec 17 × BitVec 17)
  l2 : Option (BitVec 17 × BitVec 17)
  wait : Option WaitCond
  owed : List Stream
  seen : List Nat
  blkId : Nat
  passed : Nat
  since : Word64
  served : Option Word64
  feSince : Option Word64
  feOn : List Nat
  faulted : Bool
  deriving DecidableEq, Repr

/-! ## Vector -/

/-- A tarn tag without its version (Table 12-1). -/
structure TTag where
  pav : Nat
  key : Nat
  tid : Nat
  c0 : Nat
  c1 : Nat
  c2 : Nat
  c3 : Nat
  deriving DecidableEq, Repr

/-- What a lookup asks: version mode 1 with its required version, or mode 0 (R296, R297). -/
structure TNeed where
  exact : Bool
  ver : Nat
  hint : Hint
  rd : Nat
  deriving DecidableEq, Repr

/-- Bytes of one vector element in one line: address, length, key and class of the page. -/
structure VPart where
  pa : Nat
  n : Nat
  key : Nat
  cls : PClass
  deriving DecidableEq, Repr

/-- A vector element in memory: its cell, its virtual address, its bytes and the bit at which it starts in them (R137). -/
structure VEl where
  cell : Nat
  va : Nat
  parts : List VPart
  shift : Nat
  deriving DecidableEq, Repr

/-- A fill of a vector register between its issue and its landing (R119, R143, R202). -/
inductive FillKind where
  | mem (id : Nat) (els : List VEl) (ty : ETy) (rd : Nat)
  | ready (cells : Cells) (mask : BitVec 1024)
  | tile (id : Nat) (tag : TTag) (desc : List Byte) (need : TNeed) (sub : Nat) (mask : BitVec 1024)
  | parked (els : List (Nat × Nat × Nat)) (ty : ETy) (rd : Nat)
  | parkedTile (tag : TTag) (desc : List Byte) (need : TNeed) (sub : Nat) (mask : BitVec 1024)
  deriving DecidableEq, Repr

/-- A fill; `n` its place in the order of issue, `parkN` that in the order of parking where it is parked (R386), `waited` once it has
waited for a tile's line to land (R299). -/
structure VFill where
  n : Nat
  parkN : Nat
  waited : Bool
  v : Nat
  blk : Nat
  iaddr : BitVec 17
  kind : FillKind
  deriving DecidableEq, Repr

/-- A destination of a vector result: a vector register, a mask register, an A register (R380). -/
inductive VDst where
  | v (n : Nat)
  | k (n : Nat)
  | a (n : Nat)
  deriving DecidableEq, Repr

/-- A value that a destination held. -/
inductive VVal where
  | cells (c : Cells)
  | mask (m : BitVec 1024)
  | word (w : Word64)
  deriving DecidableEq, Repr

/-- A vector result of a fixed latency that is not yet visible (R122, R380): its destination, which holds it already, what that
held before, the cycle on which it becomes visible, and whether ACC_UNALLOC is set then (R424). -/
structure VFly where
  dst : VDst
  old : VVal
  vis : Word64
  accu : Bool
  deriving DecidableEq, Repr

/-- A tarn store that waits for its tile (R144); `waited` once it has waited for a line to land (R299). -/
structure VStore where
  id : Nat
  waited : Bool
  blk : Nat
  iaddr : BitVec 17
  tag : TTag
  desc : List Byte
  need : TNeed
  sub : Nat
  mask : BitVec 1024
  cells : Cells
  pub : Bool
  deriving DecidableEq, Repr

/-! ## Accumulators and matrix stream -/

/-- A residue accumulator element with its special bits (Table 3-5, R74). -/
structure Elem where
  r0 : BitVec 43
  r1 : BitVec 43
  r2 : BitVec 42
  sp : BitVec 2
  deriving DecidableEq, Repr

/-- A physical bank: elements by 64 × row + column, bank state word, rule mode, band owners (R76, R170, R175). -/
structure Bank where
  els : List Elem
  count : BitVec 20
  inexact : Bool
  range : Bool
  anchor : BitVec 12
  rule : Bool
  owners : Option (List Nat)
  deriving DecidableEq, Repr

/-- What a task-relative bank number names (R170, R313): its own physical bank, or an alias of another slot's. -/
inductive BankRef where
  | own (p : Nat)
  | alias_ (p : Nat) (issuer : Nat)
  deriving DecidableEq, Repr

/-- A change to a bank between its issue and its landing (R153, R154). -/
inductive Change where
  | product (fmt : MFmt) (ovw : Bool) (neg : Bool) (a : List (BitVec 16)) (b : List (BitVec 16)) (tok : Bool)
  | scale (src : Option Nat) (cells : Cells) (mode : ScaMode)
  | renorm (k : Nat)
  | zero (anchor : BitVec 12)
  | anchor (a : BitVec 12)
  | copy (src : Option Nat)
  | slotOn (anchor : BitVec 12)
  | slotOff
  | rows (els : List Elem) (n : Nat) (ovw : Bool) (range inexact : Bool) (count : Nat)
  | slots (first : Nat) (els : List (List Elem)) (range inexact : Bool)
  | token
  deriving DecidableEq, Repr

/-- A change in the order of issue; `open_` while its operands have not arrived, so that nothing later on its bank
lands before it (R154, R155); `due` the first cycle on which it may land (Table 6-2); `mix` the rows of a VAFIL with which it is unordered: first row, rows, free value (R148). -/
structure Pending where
  n : Nat
  due : Word64
  blk : Nat
  bank : Nat
  open_ : Bool
  mix : List (Nat × Nat × Nat)
  op : Change
  deriving DecidableEq, Repr

/-- A product command as issued: its bank, both tiles with their descriptors and lookups, what its operands are read as
and how the product enters (R151, R158-R161); `idx` the tile rows of a gathered A, none where the row is zero. -/
structure Prod where
  bank : Nat
  fmt : MFmt
  ovw : Bool
  neg : Bool
  tok : Bool
  asub : Nat
  tb : Bool
  idx : Option (List (Option Nat))
  atag : TTag
  btag : TTag
  adesc : List Byte
  bdesc : List Byte
  aneed : TNeed
  bneed : TNeed
  deriving DecidableEq, Repr

/-- The MMK counter record (Table 6-4); the descriptors where an MRES has read them (R163), none where each step reads its
slots; `stamped` as the instruction was (R157). -/
structure MRun where
  descs : Option (List Byte × List Byte)
  stamped : Bool
  word : Word32
  ext : BitVec 16
  step : Nat
  acrd : Word64
  bcrd : Word64
  bank : Nat
  iaddr : BitVec 17
  parked : Bool
  stopped : Bool
  deriving DecidableEq, Repr

/-- An operand-latch entry (R303): tile, version, content. -/
structure Latch where
  tag : TTag
  ver : Nat
  data : List Byte
  spec : Bool
  deriving DecidableEq, Repr

/-- An entry of the replay queue (R305): its task slot, the change of the M stream that it stands for, the product, or the
run of which this is the next step; the fills and queries it waits for, the entries it parked behind, whether it waits for
RQREL (R386), its place in the order of parking, whether its instruction is stamped and a miss is still to be counted for it (R287),
whether it is a step of a run that is still to issue (R400), the tiles whose fills it has waited for (R299), the operands that its own fills brought, with the content then taken (R156), and the answers to its queries (R297). -/
structure Parked where
  slot : Nat
  n : Nat
  blk : Nat
  iaddr : BitVec 17
  prod : Prod
  run : Option MRun
  waits : List Nat
  behind : List Nat
  recovery : Bool
  parkN : Nat
  stamped : Bool
  late : Bool
  fresh : Bool
  waited : List TTag
  took : List Latch
  known : List (TTag × Nat)
  deriving DecidableEq, Repr

/-- A bank-ready token not yet sent (R171): the change it waits for, the physical bank, and, once its changes have landed,
the owners whose FIFOs have had no room yet. -/
structure ReadyTok where
  after_ : Nat
  bank : Nat
  left : Option (List Nat)
  deriving DecidableEq, Repr

/-- The state of a rule-value slot beside its elements (R177): evaluated, RANGE, INEXACT, count. -/
structure RuleSlot where
  ev : Bool
  range : Bool
  inexact : Bool
  cnt : Nat
  deriving DecidableEq, Repr

/-- The grammar unit's state of a task (R174-R178): the page as read, the window, the rule-mode banks and the anchor that
GSLOT gave them, the slots. -/
structure Grammar where
  page : Option (List Byte × List Byte)
  pageVa : Word64
  win : Option (Nat × Bool)
  base : Nat
  count : Nat
  anchor : BitVec 12
  slots : SMap RuleSlot
  deriving DecidableEq, Repr

/-- A store of a drained register: the cells that held the drain when they were stored, with what they held then. By VST or VSCAT its
elements as they lie in memory; by VTST the store's number, its tile and its elements there. -/
inductive Kept where
  | mem (ty : ETy) (els : List VEl) (old : Cells)
  | tile (id : Nat) (pav : Nat) (tag : TTag) (desc : List Byte) (sub : Nat) (mask : BitVec 1024) (old : Cells)
  deriving DecidableEq, Repr

/-- An accumulator drain that no later M change may pass unordered (R148): the bank, the rows, the register, its number, the
cells of the register that still hold it, and the stores that have taken it to memory and to tiles. -/
structure Drain where
  bank : Nat
  row0 : Nat
  rows : Nat
  v : Nat
  serial : Nat
  left : BitVec 1024
  stored : List Kept
  deriving DecidableEq, Repr

/-! ## Copy stream -/

/-- What a tile instruction does with each tile (R201-R205); a fill may deliver to a register and sub-block. -/
inductive TAct where
  | fill (deliver : Option (Nat × Nat))
  | wb
  | pin
  | unpin
  | inv
  | flush
  deriving DecidableEq, Repr

/-- How far a slot is: not begun or to be tried again, its request sent, answered, waiting for a tarn line or for the
home's P, all effects performed, or failed and not yet reported. -/
inductive CStage where
  | start
  | sent
  | back (code : BitVec 8) (data : List Byte)
  | wait
  | landed
  | failed
  deriving DecidableEq, Repr

/-- A copy slot's work (R195-R211). -/
inductive CopyOp where
  | mem (dst src len cnt : Nat) (ds ss : Word64)
  | fill (dst len n : Nat) (pat : Word64)
  | expand (dst src n cnt : Nat) (ds ss : Word64)
  | pack (dst src n cnt : Nat) (ds ss : Word64)
  | get (dst : Nat) (off len : Nat) (tok : Word64) (node pav : Nat)
  | put (off src len : Nat) (tok : Word64) (node pav : Nat) (op : PutOp)
  | hostRd (dst off len : Nat) (win : Nat)
  | hostWr (off src len : Nat) (win : Nat)
  | tile (act : TAct) (ts : List TTag) (all : Bool) (need : TNeed)
  | itin
  | swadd (amt : Nat)
  deriving DecidableEq, Repr

/-- A copy slot and its record (R180, Table 7-2): `id` its number in the order of claiming, `seen` the accesses of each stream ordered before it (R112), `adds` the additions to its sync word that are on their way (R189), `parkN` its place in the order of parking where it is PAUSED (R386), `waited` once it has waited for a line to land (R299), `carry` the source bytes last read of a group that feeds its next destination line too (R187). -/
structure CopySlot where
  id : Nat
  seen : List Nat
  ctx : Ctx
  uid : Nat
  task : Word32
  pav : Nat
  key : Nat
  region : Nat
  acct : Nat
  blk : Nat
  iaddr : BitVec 17
  major : BitVec 8
  state : Nat
  cause : BitVec 8
  detail : BitVec 8
  bytes : Nat
  count2 : Nat
  faddr : Word64
  sync : Option (Nat × Nat)
  desc : List Byte
  rd : Nat
  op : CopyOp
  stage : CStage
  adds : List Nat
  parkN : Nat
  waited : Bool
  carry : List Byte
  deriving DecidableEq, Repr

/-- A prefetch of an itinerary's entry under way (R209): the entry, its tile, descriptor and lookup; the home's P once it has
answered; whether it has waited for a fill (R299). -/
structure Pre where
  n : Nat
  tag : TTag
  desc : List Byte
  need : TNeed
  known : Option Nat
  waited : Bool
  deriving DecidableEq, Repr

/-- A task's itinerary (R209). -/
structure Itin where
  va : Word64
  count : Nat
  win : Nat
  hint : Hint
  p : Nat
  f : Nat
  got : List (Nat × TTag)
  open_ : List Pre
  deriving DecidableEq, Repr

/-- Pins of a task on a tile (R206): the task slot, the tile, the number. -/
structure Pin where
  slot : Nat
  tag : TTag
  n : Nat
  deriving DecidableEq, Repr

/-! ## Tasks -/

/-- A continuation record (Table 11-2), and the address at which the record that it comes from stood, 0 where it came from outside
(Table 19-9). -/
structure CR where
  fp : Word64
  join : Word64
  image : BitVec 16
  region : BitVec 16
  entry : BitVec 24
  mbox : Bool
  resume : Bool
  prio : BitVec 5
  win : BitVec 4
  banks : BitVec 7
  gang : BitVec 7
  rank : BitVec 6
  core : BitVec 8
  lacct : BitVec 20
  addr : Nat := 0
  deriving DecidableEq, Repr

/-- A region's effective values (R274). -/
structure Eff where
  accu : Bool
  recovery : Bool
  sysSvc : Bool
  policy : Nat
  wdMode : Nat
  maxCores : Nat
  lineCap : Nat
  wayMask : BitVec 16
  banks : Nat
  winLim : Nat
  prio : Nat
  floor : Nat
  ceil : Nat
  lease : Nat
  weight : Nat
  svc : Nat
  deadline : Nat
  injCap : Nat
  storm : Nat
  energy : Nat
  wdWin : Nat
  fq : Nat
  deriving DecidableEq, Repr

/-- A resident task (R276, Table 10-8); `uid` names it through its saves, and so its copy slots (R384); `faddr` the address that its fault named; `flagged` the STATUS
flags set on this cycle and `srCyc` the special registers written on it, with their values before and the stream that wrote
last (R215); `inv` the pavilions whose translations it has removed, with the number of each TLBINV, until a TFENCE has waited
for it (R228); `wdDue` a watchdog firing
not yet posted (R292). -/
structure Task where
  uid : Nat
  pav : Nat
  key : Nat
  cr : CR
  eff : Eff
  taskid : Word32
  gangId : Option Nat
  prio : Nat
  lease : BitVec 8
  started : Word64
  exiting : Bool
  stopped : Bool
  held : Bool
  saving : Option Nat
  fault : BitVec 8
  faddr : Word64
  skipTo : Option (BitVec 17)
  stopAt : Word64
  status : Word64
  flagged : Word64
  srCyc : SMap (Word64 × Nat)
  inv : List (Nat × Nat)
  relts : Word32
  rdts : Word32
  wdCount : Nat
  wdDue : Bool
  beacon : BitVec 16 × Word64
  s : SMap Word64
  q : List Word64
  pend : List SPend
  strm : SMap StreamCtx
  areg : SMap Word64
  acopy : List (Nat × Word64 × Word64)
  toks : SMap (List Tok)
  v : SMap Cells
  empty : List Nat
  k : SMap (BitVec 1024)
  fly : List VFly
  fills : List VFill
  stores : List VStore
  drains : List Drain
  bfills : List Drain
  mlast : SMap Nat
  past : List Pending
  vseen : SMap Nat
  mseen : Nat
  bmap : SMap BankRef
  mq : List Pending
  run : Option MRun
  stamp : Option (BitVec 9)
  stbase : Word64
  stper : BitVec 12
  rtoks : List ReadyTok
  gram : Grammar
  tslot : SMap (List Byte)
  tver : SMap (BitVec 16)
  obs : List (TTag × Nat)
  ovf : Bool
  itin : Option Itin
  report : Option (TTag × Nat)
  repins : List Pin
  mAsk : Option (Nat × Word64)
  deriving DecidableEq, Repr

/-! ## Cores and dies -/

/-- The engine of one stream kind on a core (R285): the slot whose block it runs. -/
structure Engine where
  busy : Option Nat
  deriving DecidableEq, Repr

/-- A record placed on a slot and not yet started or restored: its pavilion, CR, level, gang, the saved context that it
continues, whether its image has been loaded, and the time that its start acquires (R258, R280, R340, R380); `floor` as its
queue entry had it (R289). -/
structure Starting where
  pav : Nat
  cr : CR
  prio : Nat
  floor : Nat
  gangId : Option Nat
  saved : Option Nat
  filled : Bool
  ts : Word32
  deriving DecidableEq, Repr

/-- A core (Table 1-1); `srCyc` as a task's, of the core's own special register ECNT (R215, R393); `reasm` the entries in use, with the
request or fill and the line whose answer each waits for (R401, R411). The window of each taken slot is kept as its first unit and its length in units (R18, R279). -/
structure Core where
  ltime : Word32
  raised : Bool
  srCyc : SMap (Word64 × Nat)
  seqs : SMap (BitVec 22)
  imem : SMap Parcel
  resident : List (BitVec 16)
  filling : List (Nat × BitVec 16)
  slots : SMap Task
  starting : SMap Starting
  vwin : SMap (Nat × Nat)
  l1 : List CLine
  banks : SMap Bank
  freeing : List Nat
  latch : List Latch
  replay : List Parked
  copies : SMap CopySlot
  reasm : SMap (Nat × Nat)
  pins : List Pin
  notices : List (BitVec 512)
  spill : List (BitVec 512)
  mbox : Option LaunchRec
  badFlits : Word32
  ecnt : Word32
  divAt : Word64
  quarantine : Option Word64
  withheld : Bool
  engines : SMap Engine
  deriving DecidableEq, Repr

/-- A tarn line (Table 12-2): `home` the agent of its directory, none on a peer (R421); `pub` the time at which its version
was published (R343). -/
structure TLine where
  tag : TTag
  ver : Nat
  data : List Byte
  filling : Bool
  dirty : Bool
  rrpv : Nat
  lastref : Nat
  region : Nat × Nat
  zero : Bool
  spec : Bool
  desc : List Byte
  home : Option Nat
  pub : Option Word32
  deriving DecidableEq, Repr

/-- A CR standing in a ready queue (R278, R281): its pavilion, its region's values as read when it was enqueued (R273), since when it stands at its level, its age, the saved
context it continues, the core that a decision frees for it (none for a gang's) with the tasks that leave for it (R283), and
the time of the release that its start acquires (R340). -/
structure QCr where
  pav : Nat
  cr : CR
  eff : Eff
  since : Word64
  age : Nat
  saved : Option Nat
  claim : Option (Option Nat × List Word32)
  ts : Word32
  deriving DecidableEq, Repr

/-- One level of a die's dispatcher (R278, R280): its CRs by age, the round-robin pointer, the deficits. -/
structure Level where
  crs : List QCr
  ptr : Option (Nat × Nat)
  deficit : List (Nat × Nat × Nat)
  headSince : Option (Nat × Word64)
  deriving DecidableEq, Repr

/-- A die (Table 1-3); `top` is the level and age of the head CR of its highest nonempty level, and since when it stands
there (R280); `reserves` the gangs that reserve slots, by age, with the slots that have freed since (R284); `capped` the
allocations, by task, tile and region, whose cap step is done and whose way step waits (R300). -/
structure Die where
  tarn : SMap TLine
  dlc : List CLine
  tc : List TcEntry
  levels : SMap Level
  top : Option (Nat × Nat × Word64)
  reserves : List (Nat × List (Nat × Nat))
  capped : List (Nat × TTag × (Nat × Nat))
  oldFlits : Word32
  deriving DecidableEq, Repr

/-! ## Home agents and DRAM -/

/-- A timestamp record (R347), marked by a floor broadcast. -/
structure TsRec where
  line : Nat
  wts : Word32
  rts : Word32
  mark : Bool
  deriving DecidableEq, Repr

/-- The states of a tile-directory entry (Table 12-4). -/
inductive DirState where
  | present | filling | writing | recalling
  deriving DecidableEq, Repr

/-- A tile directory entry (R307, R308): the published version and its time, the holders with their versions, requests
queued and being served, write-backs held until a fill completes. -/
structure DirEntry where
  tag : TTag
  p : Nat
  ts : Option Word32
  st : DirState
  holders : List (Nat × Nat)
  queue : List Nat
  serving : List Nat
  wbHeld : List Nat
  lastReq : Nat
  deriving DecidableEq, Repr

/-- A home agent (R347, R307, R309, R363); `places` the descriptors of the tiles that it knows, which say where they lie (R396). -/
structure Home where
  mts : Word32
  recs : SMap TsRec
  dir : SMap DirEntry
  vers : List (TTag × Nat × Option Word32)
  places : List (TTag × List Byte)
  missed : SMap Word32
  deriving DecidableEq, Repr

/-- The reader that waits for a query's answer (R297). -/
inductive TReader where
  | fill (core : Nat) (slot : Nat) (id : Nat)
  | store (core : Nat) (slot : Nat) (id : Nat)
  | copy (core : Nat) (n : Nat)
  | product (core : Nat) (n : Nat)
  | prefetch (core : Nat) (slot : Nat) (n : Nat)
  | report (core : Nat) (slot : Nat)
  deriving DecidableEq, Repr

/-- A tile message between a die and a home agent (R304, R307, R308). -/
inductive TMsgKind where
  | request (exact : Bool) (ver : Option Nat)
  | forward (holder : Nat)
  | query (r : TReader)
  | wbBegin (ver : Nat)
  | writing (ver : Nat)
  | publish (ver : Nat)
  | drop
  deriving DecidableEq, Repr

/-- A tile message: its home agent (none: the peer of the tile's descriptor, R421), its die, the fill that a request
serves, the line that a write-back leaves in place, the core and number of the copy slot that asked, the peer that a request came from,
the task that caused it and the region whose line it is of (R361), the P with which the home has answered a query. -/
structure TMsg where
  home : Option Nat
  die : Nat
  core : Nat
  pav : Nat
  key : Nat
  tag : TTag
  desc : List Byte
  kind : TMsgKind
  fill : Nat
  way : Option Nat
  slot : Option (Nat × Nat)
  data : List Byte
  ts : Option Word32
  remote : Option (BitVec 16 × Nat)
  uid : Nat := 0
  region : Nat := 0
  known : Option Nat := none
  deriving DecidableEq, Repr

/-- A flit (Table 21-2): destination, source, age, type, tag, offset, count, pavilion; where it is; the INJCAP of the region
that caused it, 0 for none (R410); whether OLD_FLIT has counted it (R408); the message that it is of and its payload (R406). -/
structure Flit where
  dx : Nat
  dy : Nat
  sx : Nat
  sy : Nat
  age : Nat
  typ : Nat
  tag : Nat
  off : Nat
  cnt : Nat
  pav : Nat
  x : Nat
  y : Nat
  cap : Nat
  old : Bool
  msg : Nat × Nat
  data : BitVec 512
  deriving DecidableEq, Repr

/-- Where the data of a tile fill comes from (Table 11-5). -/
inductive FillFrom where
  | memory | tarn | peer
  deriving DecidableEq, Repr

/-- A tile fill in flight (R304, R401): the way it fills, the core whose reassembly entry it holds, the task and account
that caused it, whether its request is sent, the version, time and kind of what the home or holder sent, the flits received,
the write-backs it waits for; whether the task was pre-empted, so that its entry is orphaned, and the flits that its save area took
since (R384). -/
structure TFill where
  die : Nat
  way : Nat
  core : Nat
  entry : Bool
  uid : Nat
  acct : Nat
  pav : Nat
  tag : TTag
  desc : List Byte
  exact : Bool
  ver : Option Nat
  sent : Bool
  data : Option (Nat × Option Word32 × FillFrom)
  flits : BitVec 64
  got : SMap Flit
  waitWb : List Nat
  orphan : Bool := false
  spilled : List Nat := []
  deriving DecidableEq, Repr

/-- The bytes that a write-back brings to memory (R334, R365): a byte mask, the line's bytes, whether they are poisoned, and the
pavilion that it is of (R387). -/
structure WPay where
  mask : BitVec 128
  data : List Byte
  poison : Bool
  pav : Nat := 0
  deriving DecidableEq, Repr

/-- A request at a pseudo-channel from its arrival until it has been performed (R360-R362): `own` the request, register fill,
slot, tile fill or write-back that it is for; `served` once its column command has issued; `pay` the bytes of a write-back
of cached lines, performed with it; `ahead` stands before a copy of its row that began after its arrival (R369). -/
structure DReq where
  pa : Nat
  write : Bool
  key : Nat
  requester : Nat
  cls : Nat
  stamp : BitVec 24
  since : Word64
  own : Nat
  served : Bool
  ahead : Bool
  pay : Option WPay
  deriving DecidableEq, Repr

/-- A DRAM stack (R359-R369): queues by channel × 16 + pseudo-channel; scores, the hot list in order of entering, rows being
copied, spare rows used by bank, rows without a spare, patrol positions, last reads and pass starts, the times at which lines of
hot rows were last scrubbed, the last halving and whether one falls on this cycle, the error ring. Rows are numbered
channel × 2^24 + pseudo-channel × 2^20 + bank × 2^16 + row. -/
structure Stack where
  queues : SMap (List DReq)
  scores : SMap Nat
  hot : List Nat
  remapping : List Nat
  spares : SMap Nat
  noSpare : List Nat
  patrol : SMap Nat
  lastPatrol : SMap Word64
  passAt : SMap Word64
  hotAt : SMap Word64
  halvedAt : Word64
  halving : Bool
  ring : Word64
  head : Word32
  tail : Word32
  overflow : Word32
  deriving DecidableEq, Repr

/-! ## Pavilions, launches, images -/

/-- A launch account (R288); the charge is held in units of 0.05 nJ; `exhAt` the cycle of its exhaustion (R370). -/
structure Acct where
  pav : Nat
  lid : Nat
  budget : Nat
  charge : Nat
  exhausted : Bool
  exhAt : Word64
  deriving DecidableEq, Repr

/-- A launch's record (Table 10-11), kept after its account is freed. -/
structure Launch where
  acct : Nat
  region : Nat
  live : Bool
  budget : Nat
  charge : Nat
  exhausted : Bool
  started : Word32
  ended : Word32
  faults : Word32
  deriving DecidableEq, Repr

/-- A registered image (R255-R258). -/
structure Image where
  pav : Nat
  base : Nat
  code : List Parcel
  entry : Nat
  manifest : List Byte
  dropping : Bool
  deriving DecidableEq, Repr

/-- A notification queue (R263): window and rate, address, pending values with their posting cycles, dropped count, sends
in the current interval. -/
structure NQueue where
  window : Word32
  rate : Word32
  ip : BitVec 128
  port : BitVec 16
  vals : List (Word64 × Word64)
  dropped : Word32
  dropSince : Option Word64
  sent : Nat × Nat
  deriving DecidableEq, Repr

/-- A notification message not yet acknowledged (R263): where it goes, its bytes, the cycle of the last sending, the resends. -/
structure NMsg where
  ip : BitVec 128
  port : BitVec 16
  bytes : List Byte
  last : Word64
  resent : Nat
  deriving DecidableEq, Repr

/-- A host window (R262, kind 0). -/
structure HostWin where
  qp : Word32
  raddr : Word64
  rkey : Word32
  len : Word64
  ip : BitVec 128
  deriving DecidableEq, Repr

/-- A device window (R262, kind 1). -/
structure DevWin where
  va : Word64
  len : Word64
  rights : BitVec 8
  rkey : Word32
  deriving DecidableEq, Repr

/-- The running state of a pavilion (Table 10-12). -/
inductive PState where
  | running | freezing | frozen | resetting
  deriving DecidableEq, Repr

/-- Endpoint counters (Table 10-13). -/
structure Counters where
  rxf : Word64
  txf : Word64
  dropOpt : Word64
  dropAct : Word64
  retx : Word64
  cnp : Word64
  nqDisc : Word64
  deriving DecidableEq, Repr

/-- A pavilion (R267, R395). -/
structure Pav where
  st : PState
  net : NetCfg
  imgKeys : List (List Byte)
  key : Nat
  retired : List Nat
  troot : Nat
  ranges : List (Nat × Nat)
  rtab : Word64
  rtlen : Nat
  shost : BitVec 16
  sdram : BitVec 16
  sinj : BitVec 16
  grantKey : BitVec 128
  prevKey : Option (BitVec 128)
  nseq : Word32
  heldCmds : SMap (List Byte)
  replies : SMap (List Byte)
  pendingReply : List (Nat × Nat)
  outSeq : Word32
  unacked : SMap NMsg
  nqs : SMap NQueue
  hwins : SMap HostWin
  dwins : SMap DevWin
  nextLid : Nat
  launches : SMap Launch
  ctr : Counters
  viol : Word32
  forged : Word32
  undeliv : Word32
  viocnt : BitVec 8 × Nat
  fltcnt : SMap (BitVec 16 × Nat)
  heldRegions : List (Nat × Word32)
  handlers : List (Nat × Nat)
  items : List (List Byte)
  hts : Word32
  wasReset : Bool
  deriving DecidableEq, Repr

/-- A saved context (R382): the task as it was stopped, the banks it held, its pins, the slots that a freeze
ended with the first address that each has not performed (R390), the LTIME of the core that it left. -/
structure Saved where
  task : Task
  core : Nat
  tstop : Word64
  byFault : Bool
  held : Bool
  watchdog : Bool
  banks : List (Nat × Bank)
  parked : List Parked
  pins : List Pin
  slots : List (List Byte)
  nexts : List Word64
  ltime : Word32
  released : Bool
  deriving DecidableEq, Repr

/-- A gang (R284, R388): its size, its placed members, its join address, the first member lost. -/
structure Gang where
  pav : Nat
  size : Nat
  join : Word64
  members : List Word32
  ended : Nat
  aborted : Bool
  deriving DecidableEq, Repr

/-- A record on its way to a dispatcher (CR_ENQUEUE): who submits it and what becomes of the answer. -/
inductive CrFrom where
  | fork (ctx : Ctx) (tag : Nat)
  | launch (ctx : Ctx) (tag : Nat) (energy : Word64)
  | join (task : Word32) (region : Nat) (home : Nat) (acct : BitVec 20)
  | handler (fq : Nat) (region : Nat) (home : Nat)
  deriving DecidableEq, Repr

/-- A record on its way, with its bytes, the address they were read at, its account once it has one, the time that its start acquires. -/
structure CrSub where
  pav : Nat
  rec_ : List Byte
  addr : Nat
  src : CrFrom
  acct : Option (BitVec 20)
  checked : Bool
  ts : Word32
  deriving DecidableEq, Repr

/-! ## Remote operations, fabric, links, host -/

/-- A remote operation outstanding (R237, R197, R421). -/
inductive RemoteOwner where
  | scalar (ctx : Ctx) (tag : Nat)
  | copy (core : Nat) (slot : Nat)
  | fill (id : Nat)
  | query (id : Nat)
  | wb (id : Nat)
  deriving DecidableEq, Repr

structure RemoteOp where
  core : Nat
  pav : Nat
  task : Word32
  region : Nat
  iaddr : BitVec 17
  node : Nat
  port : Option Nat
  req : RemoteReq
  owner : RemoteOwner
  n : Nat
  sx : Bool
  scope : Scope
  writes : Bool
  deriving DecidableEq, Repr

/-- The fabric (R404-R411): flits in flight and waiting per plane, the flits ejected last, the tile data that has come to its
destination and waits for its reassembly entry, deflections and levels per
router, the dies that saw an old flit, the requests injected in the window, its number. -/
structure Fabric where
  flight : SMap (List Flit)
  waiting : SMap (List Flit)
  ejected : List Flit
  arrived : List Flit
  defl : SMap Nat
  level : SMap Nat
  oldDies : List Nat
  injected : SMap Nat
  win : Nat
  deriving DecidableEq, Repr

/-- Link states (Table 21-5), with the numbers of Table 10-15. -/
inductive LinkState where
  | down | training | exchange | disagree | up
  deriving DecidableEq, Repr

/-- A peer port (R413-R416, R422). -/
structure Port where
  st : LinkState
  downSince : Word64
  lostSince : Option Word64
  lost : Bool
  disagreements : Nat
  lview : View
  rview : View
  txSeq : Word32
  unacked : SMap (BitVec 16 × List (BitVec 64 × BitVec 512))
  waiting : List (BitVec 16 × List (BitVec 64 × BitVec 512))
  rxSeq : Word32
  ackDue : Bool
  lastAck : Word64
  timeouts : Nat
  sent : List ShulosFrame
  delivered : List (BitVec 64 × BitVec 512)
  drop : Word32
  deriving DecidableEq, Repr

/-- An answer to a remote request, in the order of sending (R238, R418); `op` the request's number, that of the operation
where this device asked itself. -/
structure PeerAns where
  op : Nat
  node : BitVec 16
  pav : Nat
  code : BitVec 8
  ver : BitVec 16
  data : List Byte
  deriving DecidableEq, Repr

/-- What leaves by the host port, in order (R251, R263, R247, R199). -/
inductive HostMsg where
  | act (pav : Nat) (bytes : List Byte)
  | notice (pav : Nat) (ip : BitVec 128) (port : BitVec 16) (bytes : List Byte)
  | echo (pav : Nat) (f : HostFrame)
  | rdmaAck (pav : Nat) (ok : Bool)
  | rdmaData (pav : Nat) (bytes : List Byte)
  | rdmaWrite (pav core n : Nat) (win : HostWin) (off : Nat) (bytes : List Byte)
  | rdmaRead (pav core n : Nat) (win : HostWin) (off : Nat) (len : Nat)
  deriving DecidableEq, Repr

/-- Where bring-up stands (Table 10-10). -/
inductive Stage where
  | off
  | released
  | noFirmware
  | noDram
  | running
  deriving DecidableEq, Repr

/-- One turn of the machine: a stream issues, or an event of the device happens; `cycles` pass with it (log 1); `ecc` the cores in whose
state an error is corrected with it (R387). -/
structure Turn where
  ev : Option Instr
  ctx : Ctx
  cycles : Nat
  ecc : List (Fin 256) := []
  deriving DecidableEq, Repr

/-- What a pavilion is created with (Table 19-12). -/
structure PavCfg where
  net : NetCfg
  rtab : Word64
  rtlen : Word32
  shost : BitVec 16
  sdram : BitVec 16
  sinj : BitVec 16
  troot : Word64
  ranges : List (Word64 × Word64)
  keys : List (List Byte)
  deriving DecidableEq, Repr

/-- The device's own configuration and device-wide counters; `flashPavs` the pavilions that a configuration in flash creates at
bring-up (Table 10-10), `bridges` the dies of the host bridges in service (R25): no event of the spec changes either. -/
structure Dev where
  node : Option (BitVec 16)
  etype : BitVec 16
  nodes : List (BitVec 16 × BitVec 16)
  flash : Option (NetCfg × BitVec 256)
  flashPavs : List PavCfg
  bridges : List Nat
  floor : Word32
  floorTick : Nat
  ticks : Nat
  signed : Nat
  keyPool : List Nat
  deriving DecidableEq, Repr

/-- The state of the device; `losses` the poisoned write-backs whose device events are still to be posted: pavilion, key id, line
(R387). -/
structure State where
  cyc : Word64
  stage : Stage
  agenda : List Turn
  cur : Ctx
  rr : Nat
  nextId : Nat
  free : Nat
  mem : List Host.Cell
  memKey : SMap Nat
  poison : List Nat
  losses : List (Nat × Nat × Nat)
  cores : SMap Core
  dies : SMap Die
  homes : SMap Home
  drams : SMap Stack
  pavs : SMap Pav
  ports : SMap Port
  images : SMap Image
  accts : SMap Acct
  saved : SMap Saved
  gangs : SMap Gang
  reqs : SMap Req
  walks : SMap Walk
  tmsgs : SMap TMsg
  tfills : SMap TFill
  crsubs : SMap CrSub
  rops : SMap RemoteOp
  fab : Fabric
  dev : Dev
  out : List HostMsg
  answers : List PeerAns
  deriving DecidableEq, Repr

/-- The reasons for which the model itself stops. Every fault of the spec is a NEXT state (spec/19); this is not one. -/
inductive Fault where
  /-- An instruction of a stream was executed for a slot that holds no task: raised by every meaning of a stream
  instruction. Safe: `step` never does it, it only lets a task's stream issue. -/
  | noTask
  deriving DecidableEq, Repr

/-- The reasons for which the model refuses an instruction. -/
inductive Refusal where
  /-- An instruction that has no meaning yet, by its name in the opcode table. Safe: nothing is claimed of it. -/
  | notModelled (mnemonic : String)
  deriving DecidableEq, Repr

/-! ## Reset -/

/-- A stream context before any task (R224: never spawned counts as halted; log 4). -/
def StreamCtx.reset : StreamCtx :=
  { pc := 0, phase := .halted, spawned := false, hdr := 0, blk := 0, lbuf := [], lc0 := 0, lc1 := 0, lc2 := 0, reps := 0,
    l1 := none, l2 := none, wait := none, owed := [], seen := [], blkId := 0, passed := 0, since := 0, served := none,
    feSince := none, feOn := [], faulted := false }

/-- A core at device reset (R213, R344, R393; log 4). -/
def Core.reset : Core :=
  { ltime := 0, raised := false, srCyc := [], seqs := [], imem := [], resident := [], filling := [], slots := [], starting := [],
    vwin := [], l1 := [], banks := [], freeing := [], latch := [], replay := [], copies := [], reasm := [],
    pins := [], notices := [], spill := [], mbox := none, badFlits := 0, ecnt := 0, divAt := 0, quarantine := none, withheld := false,
    engines := [] }

/-- A die at device reset. -/
def Die.reset : Die :=
  { tarn := [], dlc := [], tc := [], levels := [], top := none, reserves := [], capped := [], oldFlits := 0 }

/-- A home agent at device reset (R344, R347, R363). -/
def Home.reset : Home :=
  { mts := 0, recs := [], dir := [], vers := [], places := [], missed := [] }

/-- A DRAM stack at device reset (R367: every score 0). -/
def Stack.reset : Stack :=
  { queues := [], scores := [], hot := [], remapping := [], spares := [], noSpare := [], patrol := [],
    lastPatrol := [], passAt := [], hotAt := [], halvedAt := 0, halving := false, ring := 0, head := 0, tail := 0, overflow := 0 }

/-- A peer port at device reset: DOWN (Table 21-5). -/
def Port.reset : Port :=
  { st := .down, downSince := 0, lostSince := none, lost := false, disagreements := 0, lview := 0, rview := 0,
    txSeq := 0, unacked := [], waiting := [], rxSeq := 0, ackDue := false, lastAck := 0, timeouts := 0, sent := [],
    delivered := [], drop := 0 }

/-- The device right after device reset: CYC zero (R16), nothing resident, memory with nothing listed; bring-up has not
run (Table 10-10). The values the spec does not give are those of logs 1 to 4. -/
def State.reset : State :=
  { cyc := 0, stage := .released, agenda := [], cur := { core := 0, slot := 0, stream := .s }, rr := 0, nextId := 0,
    free := 0, mem := [], memKey := [], poison := [], losses := [], cores := [], dies := [], homes := [], drams := [], pavs := [],
    ports := [], images := [], accts := [], saved := [], gangs := [], reqs := [], walks := [], tmsgs := [],
    tfills := [], crsubs := [], rops := [],
    fab := { flight := [], waiting := [], ejected := [], arrived := [], defl := [], level := [], oldDies := [], injected := [], win := 0 },
    dev := { node := none, etype := 0x88B5, nodes := [], flash := none, flashPavs := [], bridges := [0, 3], floor := 0, floorTick := 0, ticks := 0,
             signed := 0, keyPool := (List.range 128).drop 1 }
    out := [], answers := [] }

end Sys2Proof.Machine
end

