-- ==== Sys2Proof/Machine/Maps.lean ====
section
/-!
DEFINITION. Reading and writing the sparse stores of State, byte lists, and the canonical form of memory. Not from the spec:
these say only how the model keeps what the spec gives it.
-/

namespace Sys2Proof.Machine

/-! ## Sparse stores -/

/-- The entry of number k. -/
def mfind {α : Type} (k : Nat) : SMap α → Option α
  | [] => none
  | (j, v) :: m => if j = k then some v else mfind k m

/-- The entry of number k, or the value an absent one reads as. -/
def mget {α : Type} (k : Nat) (d : α) (m : SMap α) : α := (mfind k m).getD d

/-- The store with entry k set, in rising order. -/
def mset {α : Type} (k : Nat) (v : α) : SMap α → SMap α
  | [] => [(k, v)]
  | (j, w) :: m => if k < j then (k, v) :: (j, w) :: m else if k = j then (k, v) :: m else (j, w) :: mset k v m

/-- The store without entry k. -/
def mdel {α : Type} (k : Nat) : SMap α → SMap α
  | [] => []
  | (j, w) :: m => if j = k then mdel k m else (j, w) :: mdel k m

/-- The store with entry k changed by f; an absent entry is first d. -/
def mmod {α : Type} (k : Nat) (d : α) (f : α → α) (m : SMap α) : SMap α := mset k (f (mget k d m)) m

/-- The entries in rising order of number, without their numbers. -/
def mvals {α : Type} (m : SMap α) : List α := m.map (·.2)

theorem mfind_mset_same {α : Type} (k : Nat) (v : α) (m : SMap α) : mfind k (mset k v m) = some v := by
  induction m with
  | nil => simp [mset, mfind]
  | cons p m ih =>
    obtain ⟨j, w⟩ := p
    simp only [mset]
    split
    · simp [mfind]
    · split
      · simp [mfind]
      · have : ¬ j = k := by omega
        simp [mfind, this, ih]

theorem mfind_mset_other {α : Type} {j k : Nat} (h : j ≠ k) (v : α) (m : SMap α) :
    mfind j (mset k v m) = mfind j m := by
  induction m with
  | nil => simp [mset, mfind, Ne.symm h]
  | cons p m ih =>
    obtain ⟨i, w⟩ := p
    simp only [mset]
    split
    · simp [mfind, Ne.symm h]
    · split
      · next h2 => subst h2; simp [mfind, Ne.symm h]
      · simp only [mfind, ih]

@[simp] theorem mget_mset_same {α : Type} (k : Nat) (d v : α) (m : SMap α) : mget k d (mset k v m) = v := by
  simp [mget, mfind_mset_same]

theorem mget_mset_other {α : Type} {j k : Nat} (h : j ≠ k) (d v : α) (m : SMap α) :
    mget j d (mset k v m) = mget j d m := by
  simp [mget, mfind_mset_other h]

/-! ## Bytes and words -/

/-- n bytes of w, little-endian (R4). -/
def bytesOf (n w : Nat) : List Byte :=
  match n with
  | 0 => []
  | m + 1 => BitVec.ofNat 8 w :: bytesOf m (w / 256)

/-- The number that bytes hold, little-endian (R4). -/
def natOf : List Byte → Nat
  | [] => 0
  | b :: bs => b.toNat + 256 * natOf bs

/-- Bytes off to off + n - 1 of a list, absent ones zero. -/
def slice (bs : List Byte) (off n : Nat) : List Byte :=
  let xs := (bs.drop off).take n
  xs ++ List.replicate (n - xs.length) 0

/-- The number in bytes off to off + n - 1. -/
def field (bs : List Byte) (off n : Nat) : Nat := natOf (slice bs off n)

/-- A list with its bytes from off replaced. -/
def splice (bs : List Byte) (off : Nat) (new : List Byte) : List Byte :=
  slice bs 0 off ++ new ++ bs.drop (off + new.length)

/-- Bits high:low of a number (R3). -/
def nbits (w hi lo : Nat) : Nat := w / 2 ^ lo % 2 ^ (hi + 1 - lo)

/-- Bit i of a number. -/
def nbit (w i : Nat) : Bool := w / 2 ^ i % 2 = 1

/-- sext(bits(x, w), w) as an integer (R10). -/
def sext (x w : Nat) : Int := if x % 2 ^ w < 2 ^ (w - 1) then (x % 2 ^ w : Nat) else (x % 2 ^ w : Nat) - (2 ^ w : Nat)

/-- bits(x, w) of an integer (R10). -/
def ibits (x : Int) (w : Nat) : Nat := (x % (2 ^ w : Nat)).toNat

/-- A boolean as a bit. -/
def b2n (b : Bool) : Nat := if b then 1 else 0

/-- u is later than v among values modulo 2^w (R296, R344). -/
def later (w u v : Nat) : Bool := decide (sext ((u + 2 ^ w - v % 2 ^ w) % 2 ^ w) w > 0)

/-- The later of two 32-bit times (R344). -/
def tmax (u v : Word32) : Word32 := if later 32 u.toNat v.toNat then u else v

/-- The list that a count and a reader give. -/
def tab {α : Type} (n : Nat) (f : Nat → α) : List α := (List.range n).map f

/-- Element i replaced. -/
def lset {α : Type} (l : List α) (i : Nat) (x : α) : List α := l.take i ++ (if i < l.length then [x] else []) ++ l.drop (i + 1)

/-- The numbers present once, without the given one. -/
def ldel (x : Nat) (l : List Nat) : List Nat := l.filter (· ≠ x)

/-- A number added to a set kept as a list. -/
def ladd (x : Nat) (l : List Nat) : List Nat := if x ∈ l then l else l ++ [x]

/-- The numbers of a list, each once, in order of first appearance. -/
def uniq (l : List Nat) : List Nat := l.foldl (fun a x => ladd x a) []

/-- Apply a change for each element, in order. -/
def each {α σ : Type} (l : List α) (f : α → σ → σ) (s : σ) : σ := l.foldl (fun s a => f a s) s

/-! ## Physical memory (R21): unlisted bytes read 0x00 (log 3) -/

/-- The byte that memory holds at a physical address. -/
def memRead (a : Nat) : List Host.Cell → Byte
  | [] => 0
  | (j, v) :: m => if j = a then v else memRead a m

/-- Memory with one byte written; a byte that reads as an unlisted one is not listed. -/
def memWrite (a : Nat) (b : Byte) : List Host.Cell → List Host.Cell
  | [] => if b = 0 then [] else [(a, b)]
  | (j, v) :: m =>
    if a < j then (if b = 0 then (j, v) :: m else (a, b) :: (j, v) :: m)
    else if a = j then (if b = 0 then m else (a, b) :: m)
    else (j, v) :: memWrite a b m

/-- Addresses rise strictly from `lo`, and no listed byte is the one an unlisted address reads as. -/
def memWfFrom (lo : Nat) : List Host.Cell → Bool
  | [] => true
  | (j, v) :: m => decide (lo ≤ j) && decide (v ≠ 0) && memWfFrom (j + 1) m

/-- The canonical form of memory. -/
def Memory.wf (m : List Host.Cell) : Bool := memWfFrom 0 m

/-- Bytes written at rising addresses. -/
def memWrites (a : Nat) : List Byte → List Host.Cell → List Host.Cell
  | [], m => m
  | b :: bs, m => memWrites (a + 1) bs (memWrite a b m)

/-- n bytes read at rising addresses. -/
def memReads (a n : Nat) (m : List Host.Cell) : List Byte := tab n (fun i => memRead (a + i) m)

theorem memRead_of_lt {lo a : Nat} {m : List Host.Cell} (h : memWfFrom lo m = true) (ha : a < lo) : memRead a m = 0 := by
  induction m generalizing lo with
  | nil => rfl
  | cons p m ih =>
    obtain ⟨j, v⟩ := p
    simp only [memWfFrom, Bool.and_eq_true, decide_eq_true_eq] at h
    have : ¬ j = a := by omega
    simp only [memRead, this, if_false]
    exact ih h.2 (by omega)

theorem memWfFrom_mono {lo lo' : Nat} {m : List Host.Cell} (h : memWfFrom lo m = true) (hl : lo' ≤ lo) :
    memWfFrom lo' m = true := by
  cases m with
  | nil => rfl
  | cons p m =>
    obtain ⟨j, v⟩ := p
    simp only [memWfFrom, Bool.and_eq_true, decide_eq_true_eq] at h ⊢
    exact ⟨⟨by omega, h.1.2⟩, h.2⟩

theorem memWfFrom_write {lo a : Nat} (b : Byte) {m : List Host.Cell} (h : memWfFrom lo m = true) (ha : lo ≤ a) :
    memWfFrom lo (memWrite a b m) = true := by
  induction m generalizing lo with
  | nil =>
    simp only [memWrite]
    split
    · rfl
    · next hb => simp only [memWfFrom, Bool.and_eq_true, decide_eq_true_eq]; exact ⟨⟨ha, hb⟩, trivial⟩
  | cons p m ih =>
    obtain ⟨j, v⟩ := p
    have h0 := h
    simp only [memWfFrom, Bool.and_eq_true, decide_eq_true_eq] at h
    obtain ⟨⟨h1, h2⟩, h3⟩ := h
    simp only [memWrite]
    split
    · split
      · exact h0
      · next hlt hb =>
        simp only [memWfFrom, Bool.and_eq_true, decide_eq_true_eq]
        exact ⟨⟨ha, hb⟩, ⟨by omega, h2⟩, h3⟩
    · split
      · split
        · exact memWfFrom_mono h3 (by omega)
        · next heq hb =>
          subst heq
          simp only [memWfFrom, Bool.and_eq_true, decide_eq_true_eq]
          exact ⟨⟨h1, hb⟩, h3⟩
      · simp only [memWfFrom, Bool.and_eq_true, decide_eq_true_eq]
        exact ⟨⟨h1, h2⟩, ih h3 (by omega)⟩

theorem Memory.wf_write (a : Nat) (b : Byte) {m : List Host.Cell} (h : Memory.wf m = true) :
    Memory.wf (memWrite a b m) = true := memWfFrom_write b h (Nat.zero_le a)

theorem Memory.wf_writes (a : Nat) (bs : List Byte) {m : List Host.Cell} (h : Memory.wf m = true) :
    Memory.wf (memWrites a bs m) = true := by
  induction bs generalizing a m with
  | nil => exact h
  | cons b bs ih => exact ih (a + 1) (Memory.wf_write a b h)

theorem memRead_write_same (a : Nat) (b : Byte) {lo : Nat} {m : List Host.Cell} (h : memWfFrom lo m = true) :
    memRead a (memWrite a b m) = b := by
  induction m generalizing lo with
  | nil =>
    simp only [memWrite]
    split
    · next hb => simp [memRead, hb]
    · simp [memRead]
  | cons p m ih =>
    obtain ⟨j, v⟩ := p
    have h0 := h
    simp only [memWfFrom, Bool.and_eq_true, decide_eq_true_eq] at h
    obtain ⟨⟨h1, h2⟩, h3⟩ := h
    simp only [memWrite]
    split
    · split
      · next hlt hb =>
        have : ¬ j = a := by omega
        simp only [memRead, this, if_false, hb]
        exact memRead_of_lt h3 (by omega)
      · simp [memRead]
    · split
      · next heq =>
        subst heq
        split
        · next hb => rw [hb]; exact memRead_of_lt h3 (by omega)
        · simp [memRead]
      · next hne =>
        have : ¬ j = a := fun e => hne e.symm
        simp only [memRead, this, if_false]
        exact ih h3

theorem memRead_write_other {a c : Nat} (hc : c ≠ a) (b : Byte) {lo : Nat} {m : List Host.Cell}
    (h : memWfFrom lo m = true) : memRead c (memWrite a b m) = memRead c m := by
  induction m generalizing lo with
  | nil =>
    simp only [memWrite]
    split
    · rfl
    · simp [memRead, Ne.symm hc]
  | cons p m ih =>
    obtain ⟨j, v⟩ := p
    simp only [memWfFrom, Bool.and_eq_true, decide_eq_true_eq] at h
    obtain ⟨⟨h1, h2⟩, h3⟩ := h
    simp only [memWrite]
    split
    · split
      · rfl
      · simp [memRead, Ne.symm hc]
    · split
      · next heq =>
        subst heq
        split
        · simp only [memRead, Ne.symm hc, if_false]
        · simp only [memRead, Ne.symm hc, if_false]
      · simp only [memRead, ih h3]

theorem memRead_writes_other {a c : Nat} (bs : List Byte) (hc : c < a ∨ a + bs.length ≤ c) {m : List Host.Cell}
    (h : Memory.wf m = true) : memRead c (memWrites a bs m) = memRead c m := by
  induction bs generalizing a m with
  | nil => rfl
  | cons b bs ih =>
    simp only [memWrites]
    rw [ih (by simp only [List.length_cons] at hc; omega) (Memory.wf_write a b h)]
    exact memRead_write_other (by simp only [List.length_cons] at hc; omega) b h

end Sys2Proof.Machine
end

