-- ==== Sys2Proof/Machine/Hash.lean ====
section
/-!
DEFINITION. The published functions the device computes: SipHash-2-4 (spec/10 R249, spec/08 R243), SHA-256
(spec/10 R255, R265, spec/19 R398) and HSS (R255). The spec names them; their text is the published standards' (logs 9, 11, PRESUMED).
-/

namespace Sys2Proof.Machine

/-! ## SipHash-2-4 -/

structure SipSt where
  v0 : Word64
  v1 : Word64
  v2 : Word64
  v3 : Word64
  deriving DecidableEq, Repr

/-- One SipRound. -/
def sipRound (s : SipSt) : SipSt :=
  let a := s.v0 + s.v1
  let b := (s.v1.rotateLeft 13) ^^^ a
  let a := a.rotateLeft 32
  let c := s.v2 + s.v3
  let d := (s.v3.rotateLeft 16) ^^^ c
  let a := a + d
  let d := (d.rotateLeft 21) ^^^ a
  let c := c + b
  let b := (b.rotateLeft 17) ^^^ c
  { v0 := a, v1 := b, v2 := c.rotateLeft 32, v3 := d }

/-- One 64-bit block. -/
def sipBlock (s : SipSt) (m : Word64) : SipSt :=
  let s := sipRound (sipRound { s with v3 := s.v3 ^^^ m })
  { s with v0 := s.v0 ^^^ m }

/-- The blocks of a message: eight bytes each, the last with the length in its top byte. -/
def sipBlocks (n : Nat) (bs : List Byte) (i : Nat) : List Word64 :=
  match n with
  | 0 => [BitVec.ofNat 64 (field bs i (bs.length - i) + (bs.length % 256) * 2 ^ 56)]
  | k + 1 => BitVec.ofNat 64 (field bs i 8) :: sipBlocks k bs (i + 8)

/-- SipHash-2-4 of a byte string under a 128-bit key (key byte 0 in bits 7:0). -/
def sipHash (key : BitVec 128) (bs : List Byte) : Word64 :=
  let k0 : Word64 := key.setWidth 64
  let k1 : Word64 := (key >>> 64).setWidth 64
  let s : SipSt := { v0 := k0 ^^^ 0x736f6d6570736575, v1 := k1 ^^^ 0x646f72616e646f6d,
                     v2 := k0 ^^^ 0x6c7967656e657261, v3 := k1 ^^^ 0x7465646279746573 }
  let s := (sipBlocks (bs.length / 8) bs 0).foldl sipBlock s
  let s := sipRound (sipRound (sipRound (sipRound { s with v2 := s.v2 ^^^ 0xff })))
  s.v0 ^^^ s.v1 ^^^ s.v2 ^^^ s.v3

/-! ## SHA-256: the constants are those of FIPS 180-4, read off the roots of the first primes -/

/-- The largest r of `bits` bits whose k-th power is at most n, bit by bit from the top. -/
def rootDown (k n : Nat) : Nat → Nat → Nat
  | 0, r => r
  | bits + 1, r => rootDown k n bits (if (r + 2 ^ bits) ^ k ≤ n then r + 2 ^ bits else r)

/-- The first 32 bits of the fraction of the k-th root of p. -/
def rootFraction (k p : Nat) : Word32 := BitVec.ofNat 32 (rootDown k (p * 2 ^ (32 * k)) 36 0)

/-- The primes below 312, of which there are 64. -/
def shaPrimes : List Nat := (List.range 312).filter (fun p => decide (2 ≤ p) && (List.range 18).all (fun d =>
  decide (d < 2) || decide (p ≤ d) || p % d ≠ 0))

/-- The sum of three turns of a word to the right; the third is a plain shift where `cut`. -/
def turns (cut : Bool) (i j k : Nat) (x : Word32) : Word32 :=
  x.rotateRight i ^^^ x.rotateRight j ^^^ (if cut then x >>> k else x.rotateRight k)

/-- The number that bytes hold, big-endian. -/
def natOfBE (bs : List Byte) : Nat := natOf bs.reverse

/-- n bytes of w, big-endian. -/
def bytesBE (n w : Nat) : List Byte := (bytesOf n w).reverse

/-- The eight working words: the four of the first half and the four of the second. -/
structure ShaSt where
  lo : Word32 × Word32 × Word32 × Word32
  hi : Word32 × Word32 × Word32 × Word32
  deriving DecidableEq, Repr

/-- A round that adds the word `x`: each half moves by one place, the first takes the new word. -/
def ShaSt.round (s : ShaSt) (x : Word32) : ShaSt :=
  let (p, q, r, v) := s.lo
  let (e, f, g, y) := s.hi
  let n := y + x + turns false 6 11 25 e + (g ^^^ (e &&& (f ^^^ g)))
  { lo := (n + turns false 2 13 22 p + ((p &&& q) ||| (r &&& (p ||| q))), p, q, r), hi := (v + n, e, f, g) }

def add4 (x y : Word32 × Word32 × Word32 × Word32) : Word32 × Word32 × Word32 × Word32 :=
  (x.1 + y.1, x.2.1 + y.2.1, x.2.2.1 + y.2.2.1, x.2.2.2 + y.2.2.2)

/-- The rounds of a block: the constants still to come beside the window of the next sixteen message words, from which each
round makes the word sixteen places on. -/
def shaRounds : List Word32 → List Word32 → ShaSt → ShaSt
  | [], _, s => s
  | k :: ks, win, s =>
    let at_ := fun (i : Nat) => win.getD i 0
    let next := turns true 17 19 10 (at_ 14) + at_ 9 + turns true 7 18 3 (at_ 1) + at_ 0
    shaRounds ks (win.drop 1 ++ [next]) (s.round (k + at_ 0))

/-- One 64-byte block added to the state. -/
def ShaSt.block (ks : List Word32) (s : ShaSt) (b : List Byte) : ShaSt :=
  let t := shaRounds ks (tab 16 (fun i => BitVec.ofNat 32 (natOfBE (slice b (4 * i) 4)))) s
  { lo := add4 s.lo t.lo, hi := add4 s.hi t.hi }

/-- The round constants. -/
def shaConst : List Word32 := shaPrimes.map (rootFraction 3)

/-- The state before any block: the square roots of the first eight primes. -/
def ShaSt.start : ShaSt :=
  let r := fun (p : Nat) => rootFraction 2 p
  { lo := (r 2, r 3, r 5, r 7), hi := (r 11, r 13, r 17, r 19) }

/-- SHA-256 of a byte string, as 32 bytes: padded to a multiple of 64 bytes with its length in bits at the end. -/
def sha256 (bs : List Byte) : List Byte :=
  let n := (bs.length + 72) / 64
  let m := bs ++ (0x80 : Byte) :: List.replicate (64 * n - bs.length - 9) 0 ++ bytesBE 8 (8 * bs.length)
  let s := (tab n (fun i => slice m (64 * i) 64)).foldl (ShaSt.block shaConst) ShaSt.start
  [s.lo.1, s.lo.2.1, s.lo.2.2.1, s.lo.2.2.2, s.hi.1, s.hi.2.1, s.hi.2.2.1, s.hi.2.2.2].flatMap (fun w => bytesBE 4 w.toNat)

/-! ## HSS of two levels with LMS_SHA256_M32_H20 and LMOTS_SHA256_N32_W8 (R255, R264; RFC 8554, log 9) -/

/-- The hash of RFC 8554 under a tree's identifier: a number of four bytes, a tag of two, then the content. -/
def lmHash (ident : List Byte) (n tag : Nat) (bs : List Byte) : List Byte :=
  sha256 (ident ++ bytesBE 4 n ++ bytesBE 2 tag ++ bs)

/-- The rest of a chain of 255 steps from step j. -/
def otsChain (ident : List Byte) (q i : Nat) : Nat → Nat → List Byte → List Byte
  | 0, _, x => x
  | n + 1, j, x => otsChain ident q i n (j + 1) (lmHash ident q i (BitVec.ofNat 8 j :: x))

/-- The one-time public key that a one-time signature of 1,124 bytes gives for a message. -/
def otsKey (ident : List Byte) (q : Nat) (sig msg : List Byte) : List Byte :=
  let d := lmHash ident q 0x8181 (slice sig 4 32 ++ msg)
  let sum := d.foldl (fun n b => n + (255 - b.toNat)) 0
  let digits := d ++ bytesBE 2 sum
  lmHash ident q 0x8080 ((tab 34 (fun i =>
    let a := (digits.getD i 0).toNat
    otsChain ident q i (255 - a) a (slice sig (36 + 32 * i) 32))).flatMap id)

/-- The root that a node and the path above it lead to. -/
def lmsClimb (ident : List Byte) (path : List Byte) : Nat → Nat → List Byte → List Byte
  | 0, _, x => x
  | n + 1, node, x =>
    let y := path.take 32
    lmsClimb ident (path.drop 32) n (node / 2) (lmHash ident (node / 2) 0x8383 (if node % 2 = 1 then y ++ x else x ++ y))

/-- Does an LMS signature of 1,772 bytes over a message verify under an LMS public key of 56 bytes? -/
def lmsVerify (key msg sig : List Byte) : Bool :=
  let ident := slice key 8 16
  let q := natOfBE (sig.take 4)
  let leaf := 2 ^ 20 + q
  key.take 8 = bytesBE 4 8 ++ bytesBE 4 4 && sig.length = 1772 && slice sig 4 4 = bytesBE 4 4
    && slice sig 1128 4 = bytesBE 4 8 && decide (q < 2 ^ 20)
    && lmsClimb ident (sig.drop 1132) 20 leaf (lmHash ident leaf 0x8282 (otsKey ident q (slice sig 4 1124) msg)) = slice key 24 32

/-- Does an HSS signature of 3,604 bytes over a message verify under a public key of two levels? -/
def hssVerify (key msg sig : List Byte) : Bool :=
  key.take 4 = bytesBE 4 2 && key.length = 60 && sig.length = 3604 && sig.take 4 = bytesBE 4 1
    && lmsVerify (key.drop 4) (slice sig 1776 56) (slice sig 4 1772)
    && lmsVerify (slice sig 1776 56) msg (sig.drop 1832)

end Sys2Proof.Machine
end

