-- ==== Sys2Proof/Config.lean ====
section
/-!
DEFINITION. What one implementation fixes, and the free values: constants with no body, so that nothing can be proved
about what they are. Each is named in notes/assumptions.
-/

namespace Sys2Proof.Config

/-- An unpredictable vector cell (R8, R148): log 6. -/
opaque freeCell : Nat → BitVec 32
/-- A byte read under a key other than the one it was written under (R351, R391): log 7. -/
opaque freeByte : Nat → BitVec 8
/-- The choice between the two outcomes R148 lists for an unordered VAFIL: log 6. -/
opaque freeBit : Nat → Bool
/-- Which of several accesses that the spec does not order goes next (R339, R412): log 60. -/
opaque freeChoice : Nat → Nat
/-- A grant key drawn from the on-die random bit generator (R420): log 8. -/
opaque freeKey : Nat → BitVec 128

/-- The payload of a flit whose layout the spec does not give (R406, R413): log 21. -/
opaque freeFlit : Nat → BitVec 512
/-- An rkey that the device assigns (R262): log 22. -/
opaque freeRkey : Nat → BitVec 32
/-- The window offset that a frame's flits carry, in a layout that the spec does not give (R415): log 21. -/
opaque frameOffset : List (BitVec 64 × BitVec 512) → Nat
/-- The mesh coordinates that an endpoint writes into a flit that arrives from a peer (R413): log 21. -/
opaque ingressCoords : BitVec 64 → BitVec 9
/-- The record that names a failed stack or router after step 3 of bring-up (Table 10-10): log 22. -/
opaque bringupRecord : List (BitVec 8)

/-- The base MAC address fused at manufacture (R248, R272): log 5. -/
opaque baseMac : BitVec 48
/-- The device serial number (Table 10-9): log 5. -/
opaque serial : BitVec 96
/-- The 128-bit provisioning key fused at manufacture (R272): log 5. -/
opaque provisioningKey : BitVec 128
/-- SHA-256 of the running firmware image, and its version (Table 10-9): log 5. -/
opaque firmwareDigest : BitVec 256
/-- The firmware version (Table 10-9): log 5. -/
opaque firmwareVersion : BitVec 32
/-- The management pavilion's translation root, set by firmware (R266 step 5, R356): log 5. -/
opaque mgmtRoot : Nat
/-- The management pavilion's region table address and length, set by firmware (R267): log 5. -/
opaque mgmtRegionTable : BitVec 64 × Nat

/-- The n-th HSS signature of the identity key over a message (R264, R265): log 9. -/
opaque hssSign : Nat → List (BitVec 8) → List (BitVec 8)
/-- The certificate chain of the identity key (R264): log 9. -/
opaque certChain : List (BitVec 8)
/-- The bytes whose digest is CFGDIG, out of the fields that R265 names but does not lay out: log 9. -/
opaque configBytes : List (List (BitVec 8)) → List (BitVec 8)

end Sys2Proof.Config
end

