-- ==== Sys2Proof/Machine/Access.lean ====
section
/-!
DEFINITION. Reading and writing the parts of State by name: cores, dies, homes, tasks, streams, registers; the fault codes of
Table 19-1; the numbering of dies and homes (spec/01 R12, R23, spec/17 R359).
-/

namespace Sys2Proof.Machine

/-- What a meaning answers. -/
abbrev Out := Host.Outcome State Fault Refusal

/-! ## Fault codes (Table 19-1) -/

def fIllegalInsn : BitVec 8 := 0x01
def fIllegalStream : BitVec 8 := 0x02
def fIllegalTarget : BitVec 8 := 0x03
def fIllegalOperand : BitVec 8 := 0x04
def fPrivOp : BitVec 8 := 0x05
def fFeTrap : BitVec 8 := 0x06
def fFeTimeout : BitVec 8 := 0x07
def fTrans : BitVec 8 := 0x10
def fPerm : BitVec 8 := 0x11
def fAlign : BitVec 8 := 0x12
def fKeyRetired : BitVec 8 := 0x13
def fSyncClass : BitVec 8 := 0x14
def fSchedMiss : BitVec 8 := 0x20
def fAccUnalloc : BitVec 8 := 0x21
def fAccBand : BitVec 8 := 0x22
def fRuleOrder : BitVec 8 := 0x30
def fRuleDepth : BitVec 8 := 0x31
def fRuleUndef : BitVec 8 := 0x32
def fTokenForged : BitVec 8 := 0x40
def fTokenExpired : BitVec 8 := 0x41
def fTokenBounds : BitVec 8 := 0x42
def fRemoteFault : BitVec 8 := 0x43
def fDataLoss : BitVec 8 := 0x50
def fStateLoss : BitVec 8 := 0x51
def fProgress : BitVec 8 := 0x60
def fEnergy : BitVec 8 := 0x61
def fPeerLost : BitVec 8 := 0x70
def fDescInvalid : BitVec 8 := 0x71
def fCopyFault : BitVec 8 := 0x72
def fTrapSw : BitVec 8 := 0x7E
def fGangAbort : BitVec 8 := 0x7F

/-! ## Numbering -/

/-- A counter of 32 bits that saturates. -/
def satInc (c : Word32) : Word32 := if c = BitVec.allOnes 32 then c else c + 1

/-- The die of a device-wide core number (R12). -/
def dieOf (core : Nat) : Nat := core / 32

/-- The 128-byte line of a physical address. -/
def lineOf (pa : Nat) : Nat := pa / 128

/-- H of R359: the granule's six-bit fields XORed. -/
def hashOf (pa : Nat) : Nat :=
  let g := pa / 2 ^ 12
  (((g % 64) ^^^ (g / 2 ^ 6 % 64)) ^^^ ((g / 2 ^ 12 % 64) ^^^ (g / 2 ^ 18 % 64))) ^^^ (g / 2 ^ 24 % 64)

/-- The stack of a physical address (R359). -/
def stackOf (pa : Nat) : Nat := hashOf pa % 16

/-- The quadrant of a physical address (R359). -/
def quadOf (pa : Nat) : Nat := hashOf pa / 16

/-- The home agent of a physical address, die × 8 + agent (R23). -/
def homeOf (pa : Nat) : Nat :=
  let m := stackOf pa
  let q := quadOf pa
  ((m + 2 * q) % 8) * 8 + 2 * q + m / 8

/-- Channel, pseudo-channel, bank, row and column of a physical address (R359). -/
structure DramLoc where
  ch : Nat
  pc : Nat
  bank : Nat
  row : Nat
  col : Nat
  deriving DecidableEq, Repr

def dramLoc (pa : Nat) : DramLoc :=
  let l := pa / 2 ^ 7 % 32
  let gl := pa / 2 ^ 12 / 64
  let p := (gl % 4 * 32 + l) ^^^ (gl / 4 % 128)
  let lo := gl / 4
  { ch := 8 * quadOf pa + p % 8, pc := p / 8, bank := lo / 16 % 16, row := lo / 256, col := lo % 16 }

/-- The first address past physical memory (R21). -/
def physTop : Nat := 0x018000000000

/-! ## Parts of the device -/

def State.core (s : State) (c : Nat) : Core := mget c Core.reset s.cores
def State.setCore (s : State) (c : Nat) (x : Core) : State := { s with cores := mset c x s.cores }
def State.modCore (s : State) (c : Nat) (f : Core → Core) : State := s.setCore c (f (s.core c))
def State.die (s : State) (d : Nat) : Die := mget d Die.reset s.dies
def State.modDie (s : State) (d : Nat) (f : Die → Die) : State := { s with dies := mset d (f (s.die d)) s.dies }
def State.home (s : State) (h : Nat) : Home := mget h Home.reset s.homes
def State.modHome (s : State) (h : Nat) (f : Home → Home) : State := { s with homes := mset h (f (s.home h)) s.homes }
def State.stack (s : State) (m : Nat) : Stack := mget m Stack.reset s.drams
def State.modStack (s : State) (m : Nat) (f : Stack → Stack) : State := { s with drams := mset m (f (s.stack m)) s.drams }
def State.port (s : State) (p : Nat) : Port := mget p Port.reset s.ports
def State.modPort (s : State) (p : Nat) (f : Port → Port) : State := { s with ports := mset p (f (s.port p)) s.ports }
def State.pav? (s : State) (p : Nat) : Option Pav := mfind p s.pavs
def State.modPav (s : State) (p : Nat) (f : Pav → Pav) : State :=
  match s.pav? p with
  | some x => { s with pavs := mset p (f x) s.pavs }
  | none => s
def State.modDev (s : State) (f : Dev → Dev) : State := { s with dev := f s.dev }

/-- A fresh name and the state that has used it. -/
def State.fresh (s : State) : State := { s with nextId := s.nextId + 1 }

/-! ## Tasks -/

def State.task? (s : State) (c l : Nat) : Option Task := mfind l (s.core c).slots
def State.setTask (s : State) (c l : Nat) (t : Task) : State :=
  s.modCore c (fun k => { k with slots := mset l t k.slots })
def State.modTask (s : State) (c l : Nat) (f : Task → Task) : State :=
  match s.task? c l with
  | some t => s.setTask c l (f t)
  | none => s

/-- The task of the stream that issues. -/
def State.curTask (s : State) : Option Task := s.task? s.cur.core.val s.cur.slot.val
def State.modCur (s : State) (f : Task → Task) : State := s.modTask s.cur.core.val s.cur.slot.val f
/-- The core on which the issuing stream runs. -/
def State.curCore (s : State) : Core := s.core s.cur.core.val
def State.modCurCore (s : State) (f : Core → Core) : State := s.modCore s.cur.core.val f
/-- The die of the issuing core. -/
def State.curDie (s : State) : Nat := dieOf s.cur.core.val

/-- Every resident task with its core and slot, in order. -/
def State.tasks (s : State) : List (Nat × Nat × Task) :=
  s.cores.flatMap (fun p => p.2.slots.map (fun q => (p.1, q.1, q.2)))

/-! ## Streams and registers of a task -/

def Task.st (t : Task) (k : Stream) : StreamCtx := mget k.code StreamCtx.reset t.strm
def Task.setSt (t : Task) (k : Stream) (x : StreamCtx) : Task := { t with strm := mset k.code x t.strm }
def Task.modSt (t : Task) (k : Stream) (f : StreamCtx → StreamCtx) : Task := t.setSt k (f (t.st k))
/-- The context of the stream that issues. -/
def State.curSt (s : State) : StreamCtx :=
  match s.curTask with
  | some t => t.st s.cur.stream
  | none => StreamCtx.reset
def State.modSt (s : State) (f : StreamCtx → StreamCtx) : State := s.modCur (fun t => t.modSt s.cur.stream f)

/-- S0-S15 (R86). -/
def Task.sreg (t : Task) (n : Nat) : Word64 := mget n 0 t.s
def Task.setSreg (t : Task) (n : Nat) (v : Word64) : Task := { t with s := mset n v t.s }

/-- The number of an A register among the 24 of a task (Table 19-6). -/
def aIndex (k : Stream) (n : Nat) : Nat :=
  match k with
  | .m => 8 + n
  | .c => 16 + n
  | _ => n
/-- A register n of a stream (Table 1-7). -/
def Task.a (t : Task) (k : Stream) (n : Nat) : Word64 := mget (aIndex k n) 0 t.areg
def Task.setA (t : Task) (k : Stream) (n : Nat) (v : Word64) : Task := { t with areg := mset (aIndex k n) v t.areg }

/-- A vector register's cells (R117); every cell 0 until written (R261). -/
def zeroCells : Cells := List.replicate 1024 0
def Task.vreg (t : Task) (n : Nat) : Cells := mget n zeroCells t.v
/-- A mask register: K0 reads as all ones and ignores writes (R118). -/
def Task.kreg (t : Task) (n : Nat) : BitVec 1024 := if n = 0 then BitVec.allOnes 1024 else mget n 0 t.k
def Task.setK (t : Task) (n : Nat) (v : BitVec 1024) : Task := if n = 0 then t else { t with k := mset n v t.k }
/-- Cells of a vector register written, those that a mask names: its drains no longer hold them (R148). -/
def Task.setV (t : Task) (n : Nat) (mask : BitVec 1024) (c : Cells) : Task :=
  let keep := fun (d : Drain) => if d.v = n then { d with left := d.left &&& ~~~mask } else d
  { t with v := mset n c t.v, drains := (t.drains.map keep).filter (fun d => d.left ≠ 0 || !d.stored.isEmpty) }
/-- A vector register filled: written, and full (R119). -/
def Task.fillV (t : Task) (n : Nat) (mask : BitVec 1024) (c : Cells) : Task :=
  { t.setV n mask c with empty := t.empty.filter (· ≠ n) }

/-- A result of the V stream in flight for so many cycles: results of one register land in program order (R122, R123). -/
def Task.flying (t : Task) (d : VDst) (old : VVal) (cyc : Word64) (lat : Nat) (accu : Bool) : Task :=
  let vis := t.fly.foldl (fun n f => if f.dst = d then max n f.vis.toNat else n) (cyc.toNat + lat)
  { t with fly := t.fly ++ [{ dst := d, old := old, vis := BitVec.ofNat 64 vis, accu := accu }] }

/-- The number of registers in the task's window (R18). -/
def Task.window (t : Task) : Nat := t.cr.win.toNat * 32

/-- The larger of two lists' entries, absent ones being 0: what both order (R112). -/
def seenBoth (a b : List Nat) : List Nat := tab 4 (fun i => max (a.getD i 0) (b.getD i 0))
/-- Is an access of a stream with a number ordered before what has seen so much (R112)? -/
def seenBefore (seen : List Nat) (k : Stream) (n : Nat) : Bool := decide (n < seen.getD k.code 0)

/-- The FIFO from one stream to another (R32). -/
def fifoIndex (i j : Stream) : Nat := 4 * i.code + j.code
def Task.fifo (t : Task) (i j : Stream) : List Tok := mget (fifoIndex i j) [] t.toks
def Task.setFifo (t : Task) (i j : Stream) (l : List Tok) : Task := { t with toks := mset (fifoIndex i j) l t.toks }
/-- The depth of a token FIFO (R32). -/
def fifoDepth : Nat := 15

/-- The other streams in the order S, V, M, C (Table 2-3). -/
def otherStreams : Stream → List Stream
  | .s => [.v, .m, .c]
  | .v => [.s, .m, .c]
  | .m => [.s, .v, .c]
  | .c => [.s, .v, .m]

/-- The streams that a three-bit mask names, its highest bit first (Table 2-3). -/
def maskStreams (k : Stream) (mask : Nat) : List Stream :=
  (((otherStreams k).zip [nbit mask 2, nbit mask 1, nbit mask 0]).filter (·.2)).map (·.1)

/-- Has a core's reassembly table room (R17, R18, R401)? -/
def reasmFree (s : State) (c : Nat) : Bool := decide ((s.core c).reasm.length < 256)
/-- The lowest number not in a store. -/
def lowestFree {α : Type} (m : SMap α) : Nat := ((List.range (m.length + 1)).find? (fun i => (mfind i m).isNone)).getD 0
/-- An entry of it taken for an answer of several flits, the lowest that is free, and freed (R411). -/
def State.takeEntry (s : State) (c id line : Nat) : State :=
  s.modCore c (fun k => { k with reasm := mset (lowestFree k.reasm) (id, line) k.reasm })
def State.freeEntry (s : State) (c id : Nat) : State := s.modCore c (fun k => { k with reasm := k.reasm.filter (fun e => e.2.1 ≠ id) })
/-- The entry of one line's answer freed. -/
def State.freeLine (s : State) (c id line : Nat) : State := s.modCore c (fun k => { k with reasm := k.reasm.filter (fun e => e.2 ≠ (id, line)) })

/-- A meaning of a stream instruction: it needs the issuing task. -/
def onTask (s : State) (f : Task → State) : Out :=
  match s.curTask with
  | none => .fault .noTask
  | some t => .next (f t)

end Sys2Proof.Machine
end

