-- ==== Sys2Proof/Machine/Fabric.lean ====
section
/-!
DEFINITION. The package fabric and the sending side of the peer ports: placement, flits, routing and arbitration, pressure,
notices; node routes, frames and their sequence numbers (spec/21 R404-R415). The fabric carries the traffic of requests and
answers; when an operation of the machine happens is the agenda's to say, whatever the fabric does (R410, R412, log 21).
-/

namespace Sys2Proof.Machine

/-! ## Orders -/

/-- A number put into a list in order of a key, after those of equal key. -/
def insertBy (key : Nat → Nat) (x : Nat) : List Nat → List Nat
  | [] => [x]
  | y :: ys => if key x < key y then x :: y :: ys else y :: insertBy key x ys
/-- A list sorted by a key; equal keys keep their order. -/
def sortBy (key : Nat → Nat) (l : List Nat) : List Nat := l.foldl (fun a x => insertBy key x a) []

/-! ## Routers and endpoints (R404) -/

/-- The router at a local column and row of a die. -/
def routerAt (d lx ly : Nat) : Nat := 32 * (6 * (d / 4) + ly) + 8 * (d % 4) + lx
/-- The router of a core. -/
def routerOf (c : Nat) : Nat := routerAt (c / 32) (c % 8) (1 + c % 32 / 8)
/-- The router of a home agent. -/
def homeRouter (h : Nat) : Nat := routerAt (h / 8) (h % 8) 0
/-- The router at which a die's tarn puts a tile that it sends to another die before the fabric: that of the die's home agent of the
same number as the tile's (log 21). -/
def tarnRouter (d hm : Nat) : Nat := routerAt d (hm % 8) 0
/-- The router of one of the two endpoints of a peer port, which share its messages (R24, R404). -/
def portRouter (p k : Nat) : Nat := routerAt (p / 2) (2 * (p % 2) + k % 2) 5
/-- The 48 endpoints of a die (R19): its home agents and cores by their local numbers, the peer-port endpoints, the host bridge of D0 and
D3 or the service endpoint of another die, the dispatcher, the overlay loader and the translation unit. -/
inductive Endpoint
  | home (n : Fin 8)
  | core (n : Fin 32)
  | port (e : Fin 4)
  | host
  | dispatcher
  | overlay
  | xlate
  deriving DecidableEq, Repr
/-- The router that serves an endpoint of a die (Table 21-1). -/
def Endpoint.router (d : Nat) : Endpoint → Nat
  | .home n => homeRouter (8 * d + n.val)
  | .core n => routerOf (32 * d + n.val)
  | .port e => portRouter (2 * d + e.val / 2) e.val
  | .host => routerAt d 4 5
  | .dispatcher => routerAt d 5 5
  | .overlay => routerAt d 6 5
  | .xlate => routerAt d 7 5
/-- The endpoints of a die, in the order of Table 21-1's rows. -/
def endpoints : List Endpoint :=
  (List.finRange 8).map .home ++ (List.finRange 32).map .core ++ (List.finRange 4).map .port ++ [.host, .dispatcher, .overlay, .xlate]
/-- The 48 routers of a die. -/
def dieRouters (d : Nat) : List Nat := (List.range 48).map (fun i => routerAt d (i % 8) (i / 8))
/-- The die of a router. -/
def routerDie (r : Nat) : Nat := 4 * (r / 32 / 6) + r % 32 / 8
/-- The level of a router (R409). -/
def levelAt (s : State) (r : Nat) : Nat := mget r 0 s.fab.level
/-- FPRESS of a core (Table 8-1). -/
def fpress (s : State) (c : Nat) : Nat := levelAt s (routerOf c)
/-- 48 times the mean FPRESS of a die (R409). -/
def diePress (s : State) (d : Nat) : Nat := (dieRouters d).foldl (fun n r => n + levelAt s r) 0

/-! ## Flits (R405, R406) -/

/-- The types of Table 21-2 that the model's messages have. -/
def flRead : Nat := 0
def flWrite : Nat := 1
def flAtomic : Nat := 2
def flTile : Nat := 3
def flData : Nat := 4
def flAck : Nat := 5
def flTileData : Nat := 6
def flForward : Nat := 8
def flPublish : Nat := 9
def flSwadd : Nat := 10

/-- Is a type a response? -/
def isResponse (typ : Nat) : Bool := decide (typ = flData) || decide (typ = flAck) || decide (typ = flTileData)

/-- The plane of a flit (R405). -/
def planeOf (f : Flit) : Nat := if isResponse f.typ then 2 + f.off % 2 else (f.off + f.tag) % 2

/-- The header of a flit (Table 21-2). -/
def Flit.header (f : Flit) : BitVec 64 :=
  BitVec.ofNat 64 (f.dx * 2 ^ 59 + f.dy * 2 ^ 55 + f.sx * 2 ^ 50 + f.sy * 2 ^ 46 + f.age * 2 ^ 34 + f.typ * 2 ^ 30
    + f.tag * 2 ^ 22 + f.off * 2 ^ 16 + f.cnt * 2 ^ 10 + f.pav * 2 ^ 2)

/-- The tag of the flits about a request of a core for a line: the entry of its reassembly table that the answer has, or the request's
own number where the answer is one flit (R406). -/
def flitTag (s : State) (c id line : Nat) : Nat :=
  (((s.core c).reasm.find? (fun e => e.2 = (id, line))).map (·.1)).getD id

/-- Flit number off of a message of n flits between two routers, standing at its source with age 0 (R407). -/
def mkFlit (src dst typ tag : Nat) (msg : Nat × Nat) (n off pav cap : Nat) : Flit :=
  { dx := dst % 32, dy := dst / 32, sx := src % 32, sy := src / 32, age := 0, typ := typ, tag := tag % 256, off := off,
    cnt := n - 1, pav := pav, x := src % 32, y := src / 32, cap := if isResponse typ then 0 else cap, old := false, msg := msg,
    data := 0 }

/-- Flits put before the fabric at their source's endpoint. -/
def Fabric.put (x : Fabric) (fs : List Flit) : Fabric :=
  { x with waiting := fs.foldl (fun w f => mmod (planeOf f) [] (fun q => q ++ [f]) w) x.waiting }

/-- The flits of a message put before the fabric, of a kind whose payload the spec does not lay out (log 21). -/
def State.inject (s : State) (src dst typ tag : Nat) (msg : Nat × Nat) (n pav cap : Nat) : State :=
  { s with fab := s.fab.put ((List.range n).map (fun o => mkFlit src dst typ tag msg n o pav cap)) }

/-- The flits of a message that brings bytes, 64 in each, under a tag (R401, R406). -/
def State.injectData (s : State) (src dst typ tag : Nat) (msg : Nat × Nat) (pav : Nat) (bs : List Byte) (cap : Nat := 0) : State :=
  let n := (bs.length + 63) / 64
  { s with fab := s.fab.put ((List.range n).map (fun o =>
    { mkFlit src dst typ tag msg n o pav cap with data := BitVec.ofNat 512 (natOf (slice bs (64 * o) 64)) })) }

/-- A core's request for a line put before the fabric, to the home of the line, under the INJCAP of the region that it is for, and its
answer (R405, R410). -/
def State.lineRequest (s : State) (c typ id n pa pav cap : Nat) : State :=
  s.inject (routerOf c) (homeRouter (homeOf pa)) typ (flitTag s c id (lineOf pa)) (id, lineOf pa) n pav cap
def State.lineAnswer (s : State) (c typ id n pa pav : Nat) : State :=
  s.inject (homeRouter (homeOf pa)) (routerOf c) typ (flitTag s c id (lineOf pa)) (id, lineOf pa) n pav 0

/-- Is no flit of a message still in an endpoint or in flight? -/
def Fabric.clear (x : Fabric) (m : Nat × Nat) : Bool :=
  (x.flight ++ x.waiting).all (fun q => q.2.all (fun f => f.msg ≠ m))

/-- A message brought to its router at once: for what the device does within one step (log 20). -/
def State.bringNow (s : State) (id : Nat) : State :=
  let rest := fun (l : SMap (List Flit)) => l.map (fun q => (q.1, q.2.filter (fun f => f.msg.1 ≠ id)))
  { s with fab := { s.fab with flight := rest s.fab.flight, waiting := rest s.fab.waiting } }

/-- Have all flits of an operation's message about a line (0 for one about none) come to their router (R20, R411)? -/
def State.come (s : State) (id line : Nat) : Bool := s.fab.clear (id, line)

/-! ## Routing and arbitration (R407, R408) -/

/-- Mesh ports: 0 north, 1 east, 2 south, 3 west; is it inside the mesh of 32 by 12? North is towards row 0 (log 21). -/
def portInside (x y p : Nat) : Bool :=
  if p = 0 then decide (0 < y) else if p = 1 then decide (x < 31) else if p = 2 then decide (y < 11) else decide (0 < x)

/-- The productive ports of a flit, X before Y. -/
def Flit.productive (f : Flit) : List Nat :=
  (if f.x < f.dx then [1] else if f.dx < f.x then [3] else []) ++ (if f.y < f.dy then [2] else if f.dy < f.y then [0] else [])

/-- A flit one hop further. -/
def Flit.hop (f : Flit) (p : Nat) : Flit :=
  if p = 0 then { f with y := f.y - 1 } else if p = 1 then { f with x := f.x + 1 }
  else if p = 2 then { f with y := f.y + 1 } else { f with x := f.x - 1 }

/-- The number of a flit's router, of its source. -/
def Flit.at_ (f : Flit) : Nat := 32 * f.y + f.x
def Flit.src (f : Flit) : Nat := 32 * f.sy + f.sx

/-- Is a flit handled before another: older, or of a lower source (R407)? -/
def Flit.before (f g : Flit) : Bool := decide (g.age < f.age) || (decide (f.age = g.age) && decide (f.src < g.src))

/-- A flit put into a list in that order, after those that it does not precede. -/
def insertFlit (f : Flit) : List Flit → List Flit
  | [] => [f]
  | g :: gs => if f.before g then f :: g :: gs else g :: insertFlit f gs

/-- A plane as its routers assign ports: flits that have moved, ejected flits, ports taken by router, deflections. -/
structure Assign where
  moved : List Flit
  out : List Flit
  taken : List (Nat × Nat)
  defl : SMap Nat
  deriving DecidableEq, Repr

/-- The first port of a list that is inside the mesh and not taken. -/
def Assign.free (a : Assign) (f : Flit) (ps : List Nat) : Option Nat :=
  ps.find? (fun p => portInside f.x f.y p && !a.taken.contains (f.at_, p))

/-- One flit takes the first free port of R407's list; at most two are ejected at a router. -/
def Assign.step (a : Assign) (f : Flit) : Assign :=
  let older := { f with age := min 4095 (f.age + 1) }
  if f.productive.isEmpty && decide ((a.out.filter (fun g => g.at_ = f.at_)).length < 2) then { a with out := a.out ++ [f] }
  else
    match a.free f f.productive with
    | some p => { a with moved := a.moved ++ [older.hop p], taken := (f.at_, p) :: a.taken }
    | none =>
      match a.free f [0, 1, 2, 3] with
      | some p => { a with
          moved := a.moved ++ [older.hop p]
          taken := (f.at_, p) :: a.taken
          defl := mmod f.at_ 0 (· + 1) a.defl }
      | none => { a with moved := a.moved ++ [older] }

/-- The cap of a level on the requests of a window; 0 stands for none (R410). -/
def levelCap (n : Nat) : Nat := [0, 192, 128, 96, 64, 32, 16, 8].getD n 8

/-- May an endpoint inject a request now: the smaller of its level's cap and the region's is not reached (R410)? -/
def mayInject (s : State) (injected : SMap Nat) (plane : Nat) (f : Flit) : Bool :=
  let n := mget f.src 0 injected
  let under := fun (c : Nat) => decide (c = 0) || decide (n < c)
  decide (2 ≤ plane) || (under (levelCap (levelAt s f.src)) && under f.cap)

/-- An endpoint's flit injected into a free productive port, or kept waiting; one for its own router needs no port, and leaves as one of the
two that the router ejects (R407). -/
def takeIn (s : State) (plane : Nat) (x : Assign × List Flit × SMap Nat) (f : Flit) : Assign × List Flit × SMap Nat :=
  let (a, kept, inj) := x
  if f.productive.isEmpty then
    if (a.out.filter (fun g => g.at_ = f.at_)).length < 2 then ({ a with out := a.out ++ [f] }, kept, inj) else (a, kept ++ [f], inj)
  else if !mayInject s inj plane f then (a, kept ++ [f], inj)
  else
    match a.free f f.productive with
    | none => (a, kept ++ [f], inj)
    | some p => ({ a with moved := a.moved ++ [f.hop p], taken := (f.at_, p) :: a.taken }, kept,
        if plane < 2 then mmod f.src 0 (· + 1) inj else inj)

/-- The flit at a place of a plane that has reached age 1,024: its die counts it once and stands at level 7 in the next window (R408,
R409). -/
def State.countOld (s : State) (p i : Nat) : State :=
  let q := mget p [] s.fab.flight
  match q[i]? with
  | none => s
  | some f =>
    if f.old || decide (f.age < 1024) then s
    else
      let d := routerDie f.at_
      let s := s.modDie d (fun x => { x with oldFlits := satInc x.oldFlits })
      { s with fab := { s.fab with
        flight := mset p (lset q i { f with old := true }) s.fab.flight
        oldDies := ladd d s.fab.oldDies } }

/-! ## Pressure (R408, R409) -/

/-- The level of a count of deflections (R409). -/
def levelOf (n : Nat) : Nat :=
  if n < 8 then 0 else if n < 16 then 1 else if n < 32 then 2 else if n < 64 then 3 else if n < 128 then 4
  else if n < 256 then 5 else if n < 512 then 6 else 7

/-- At a new window of 64 cycles each router takes its level from the deflections of the last (R409). -/
def State.pressure (s : State) : State :=
  if s.cyc.toNat / 64 = s.fab.win then s
  else
    { s with fab := { s.fab with
      level := if s.fab.defl.isEmpty && s.fab.oldDies.isEmpty then []
        else (List.range 384).map (fun r => (r, if s.fab.oldDies.contains (routerDie r) then 7 else levelOf (mget r 0 s.fab.defl)))
      defl := []
      oldDies := []
      injected := []
      win := s.cyc.toNat / 64 } }
/-- PRESSURE_WINDOW: a window that has begun is taken up; the passing of time does the same as it begins. -/
def execPressureWindow (s : State) : Out := .next s.pressure

/-- OLD_FLIT: flit n / 4 of plane n mod 4 has reached age 1,024 (R408). -/
def execOldFlit (n : Nat) (s : State) : Out := .next (s.countOld (n % 4) (n / 4))

/-- NOTICE_RECEIVE: a notice enters the core's FIFO of 64, which spills to memory when full (R411, Table 1-1). -/
def execNoticeReceive (core : CoreId) (payload : BitVec 512) (s : State) : Out :=
  .next (s.modCore core.val (fun k =>
    if k.notices.length < 64 then { k with notices := k.notices ++ [payload] } else { k with spill := k.spill ++ [payload] }))

/-! ## Nodes and routes (R397, R415, R422) -/

/-- The peer ports of a node's set. -/
def nodePorts (s : State) (node : Nat) : Option (List Nat) :=
  (s.dev.nodes.find? (fun e => e.1.toNat = node)).map (fun e => (List.range 16).filter (fun p => nbit e.2.toNat p))

/-- Where a request to a node goes: this device (none), a peer port, or an answer at once (R397, R415, R422). -/
inductive Route where
  | here
  | out (p : Nat)
  | fail (code : BitVec 8)
  deriving DecidableEq, Repr

def routeTo (s : State) (node off : Nat) : Route :=
  match s.dev.node with
  | none => .fail fRemoteFault
  | some self =>
    if self.toNat = node then .here
    else
      match nodePorts s node with
      | none => .fail fRemoteFault
      | some ps =>
        if ps.all (fun p => (s.port p).lost) then .fail fPeerLost
        else
          let x := off / 128
          .out (ps.getD (((x % 2 ^ 16) ^^^ (x / 2 ^ 16 % 2 ^ 16)) % ps.length) 0)

/-- Where a pavilion's request to a node goes: the management pavilion is never a requester (R28; log 56, DESIGN CHOICE: the code of its failure). -/
def routeFor (s : State) (pav node off : Nat) : Route := if pav = 128 then .fail fRemoteFault else routeTo s node off

/-- The source node that a request carries. -/
def selfNode (s : State) : BitVec 16 := s.dev.node.getD 0xFFFF

/-! ## Frames (R413, R414) -/

/-- A list cut into pieces of at most 64. -/
def chunks {α : Type} : Nat → List α → List (List α)
  | 0, _ => []
  | n + 1, l => if l.isEmpty then [] else l.take 64 :: chunks n (l.drop 64)

/-- A frame of a port (Table 21-4). -/
def Port.frame (p : Port) (etype self : BitVec 16) (kind : BitVec 8) (seq : Word32) (x : BitVec 16 × List (BitVec 64 × BitVec 512)) :
    ShulosFrame :=
  { good := true, etype := etype, ver := 1, kind := kind, seq := seq, ack := p.rxSeq, dnode := x.1, snode := self, flits := x.2 }

/-- The waiting frames sent while the link is UP and fewer than 256 are unacknowledged; each carries ACK (R414, R416). -/
def Port.pump (etype self : BitVec 16) (cyc : Word64) : List (BitVec 16 × List (BitVec 64 × BitVec 512)) → Port → Port
  | [], p => { p with waiting := [] }
  | x :: xs, p =>
    if p.st = LinkState.up && decide (p.unacked.length < 256) then
      Port.pump etype self cyc xs { p with
        sent := p.sent ++ [p.frame etype self 0 p.txSeq x]
        lastAck := if p.unacked.isEmpty then cyc else p.lastAck
        unacked := mset p.txSeq.toNat x p.unacked
        txSeq := p.txSeq + 1
        ackDue := false }
    else { p with waiting := x :: xs }

/-- A port that sends what it can. -/
def State.pumpPort (s : State) (n : Nat) : State :=
  s.modPort n (fun p => Port.pump s.dev.etype (selfNode s) s.cyc p.waiting p)

/-- Flits for a node given to a port, a frame for each 64 (R413). -/
def State.toPort (s : State) (n : Nat) (node : BitVec 16) (flits : List (BitVec 64 × BitVec 512)) : State :=
  (s.modPort n (fun p => { p with waiting := p.waiting ++ (chunks flits.length flits).map (fun c => (node, c)) })).pumpPort n

/-- A message of n flits to a peer, its payload a free value (log 21). -/
def State.peerFlits (s : State) (port : Nat) (node : BitVec 16) (typ tag n pav : Nat) : State :=
  let fs := (List.range n).map (fun o =>
    ((mkFlit (portRouter port tag) (portRouter port tag) typ tag (tag, 0) (min n 64) (o % 64) pav 0).header, Config.freeFlit (s.free + o)))
  ({ s with free := s.free + n } : State).toPort port node fs

/-- The flits of bytes that go with a message. -/
def flitsOf (n : Nat) : Nat := (n + 63) / 64

/-- The type of a remote request and the number of its flits. -/
def reqFlits (r : RemoteReq) : Nat × Nat :=
  match r.kind with
  | .load _ => (flRead, 1)
  | .store _ _ => (flWrite, 1)
  | .amo .. => (flAtomic, 1)
  | .get _ => (flRead, 1)
  | .put _ bs _ => (flWrite, 1 + flitsOf bs.length)
  | .tile .. => (flTile, 1)
  | .tileP .. => (flTile, 1)
  | .tileWb _ _ _ d => (flPublish, 1 + flitsOf d.length)

/-- A remote operation under a fresh number; through a port, its request crosses the mesh to an endpoint of the port, under its region's
INJCAP, from where it leaves in frames (R24, R410). -/
def State.addRop (s : State) (op : RemoteOp) (cap : Nat) : State :=
  let id := s.nextId
  let s := { s.fresh with rops := mset id op s.rops }
  match op.port with
  | none => s
  | some p =>
    let f := reqFlits op.req
    s.inject (routerOf op.core) (portRouter p id) f.1 id (id, 0) (min f.2 64) op.pav cap

/-- The frames of a remote operation whose request has come to its port (R413). -/
def State.sendFrames (s : State) (id : Nat) : State :=
  match (mfind id s.rops).bind (fun op => op.port.map (fun p => (op, p))) with
  | some (op, p) => s.peerFlits p (BitVec.ofNat 16 op.node) (reqFlits op.req).1 id (reqFlits op.req).2 op.pav
  | none => s

/-- An answer to a remote request sent: to this device's own operation, or in frames to its node. -/
def State.answer (s : State) (a : PeerAns) : State :=
  let s := { s with answers := s.answers ++ [a] }
  match routeTo s a.node.toNat 0 with
  | .out p => s.peerFlits p a.node (if a.data.isEmpty then flAck else flData) a.op (1 + flitsOf a.data.length) a.pav
  | _ => s

end Sys2Proof.Machine
end

