-- ==== Sys2Proof/WellFormed.lean ====
section
/-!
DEFINITION. Which instructions are well formed: the stream each belongs to (spec/02 R53-R58) and the field values that the
encoding tables leave unassigned although the field can hold them (spec/02 R42, R48-R53).
-/

namespace Sys2Proof

/-- The floating types (R124). -/
def ETy.isFloat : ETy → Bool
  | .f32 | .bf16 | .f16 => true
  | _ => false

/-- The streams that execute an instruction; a device event belongs to none (Tables 2-7, 2-13 to 2-18). -/
def Instr.inStream (st : Stream) : Instr → Bool
  | .blockHeaderEntry _ | .nopC | .nop | .br _ | .loopImm .. | .waitTok .. | .tksend .. | .halt | .beacon _ => true
  | .addC .. | .subC .. | .andC .. | .orC .. | .addiC .. | .movC .. | .add _ | .sub _ | .and _ | .or _ | .xor _
  | .andn _ | .shl _ | .shr _ | .sar _ | .mul _ | .mulh _ | .mulhu _ | .div _ | .divu _ | .rem _ | .remu _
  | .min _ | .max _ | .minu _ | .maxu _ | .slt _ | .sltu _ | .seq _ | .clz _ | .ctz _ | .popc _ | .addi _
  | .andi _ | .ori _ | .xori _ | .shli _ | .shri _ | .sari _ | .slti _ | .sltiu _ | .lui .. | .li .. | .bfx _
  | .bfxs _ | .bfi _ | .beq _ | .bne _ | .blt _ | .bge _ | .bltu _ | .bgeu _ | .call _ | .ret | .jr _ | .ld _
  | .st _ | .ldacq _ | .strel _ | .amoadd _ | .amoand _ | .amoor _ | .amoxor _ | .amomin _ | .amomax _
  | .amominu _ | .amomaxu _ | .amoswap _ | .cas .. | .rld .. | .rst .. | .ramo .. | .fence .. | .ifence _
  | .tfence _ | .fork .. | .join _ | .spawn .. | .exit | .yield | .launch .. | .tdld .. | .tdver ..
  | .swinit .. | .barr _ | .hnotify .. | .trap _ | .resume .. | .kill .. | .rqrel .. | .tlbinv .. | .snaprd ..
  | .snapwr .. | .keyret .. | .grant .. | .bzS .. | .bnzS .. | .loopRegS .. | .waitGenS .. | .mfsrS ..
  | .mtsrS .. | .awr .. => st = .s
  | .bzA .. | .bnzA .. | .loopRegA .. | .waitGenA .. | .mfsrA .. | .mtsrA .. | .amov .. | .aadd .. | .acset ..
  | .acinc .. => st ≠ .s
  | .vadd _ | .vsub _ | .vmul _ | .vmin _ | .vmax _ | .vabs _ | .vneg _ | .vcpsgn _ | .vfma _ | .vfms _
  | .vfnma _ | .vrcp _ | .vsqrt _ | .vrsqrt _ | .vexp2 _ | .vlog2 _ | .viadd _ | .visub _ | .vimul _
  | .vimin _ | .vimax _ | .vqadd _ | .vqsub _ | .vimulh _ | .vand _ | .vor _ | .vxor _ | .vandn _ | .vshl _
  | .vshr _ | .vsar _ | .vcmp .. | .vsel .. | .kand .. | .kor .. | .kxor .. | .knot .. | .kmov .. | .vcvt ..
  | .vmov .. | .vmovi .. | .vext .. | .vrotr .. | .vrotc .. | .vbcr .. | .vbcc .. | .vredr .. | .vredc ..
  | .vtr16 .. | .vperm .. | .vld _ | .vst _ | .vgath _ | .vscat _ | .vtld _ | .vtst .. | .vacvt .. | .vafil _
  | .vfeEmpty _ | .vfeFull _ | .vfeC _ => st = .v
  | .mma .. | .mmaC _ | .mmag .. | .mmk .. | .mres .. | .msca .. | .mrnm .. | .mzero .. | .manch .. | .mcopy ..
  | .aalloc .. | .afree .. | .aband .. | .msync _ | .mstb .. | .mstamp _ | .gload _ | .gslot .. | .gxwin ..
  | .geval _ | .grow .. => st = .m
  | .cpy .. | .cpy2 .. | .cpyf .. | .cpyxExp .. | .cpyxPack .. | .cpyt .. | .cpyw .. | .cpyrGet .. | .cpyrPut ..
  | .cpyhRd .. | .cpyhWr .. | .tcpin _ | .tcunp _ | .tcinv _ | .tcfls _ | .tcitn .. | .tcqry .. | .swadd .. => st = .c
  | _ => false

/-- The field checks that the operand types do not already make (R42). -/
def Instr.fieldsOk (st : Stream) : Instr → Bool
  -- R107: a dword load has no sign-extension bit
  | .ld o | .ldacq o => !(o.size = .b8 && o.sx)
  -- R102: BFI reads its destination
  | .bfi o => o.d ≠ .none
  -- Table 2-4
  | .loopImm _ len cnt => len ≠ 0 && cnt ≠ 0
  | .loopRegS _ len _ => len ≠ 0
  | .loopRegA _ len _ => len ≠ 0
  -- R53, R220, R223
  | .waitTok src n => src ≠ st && n ≠ 0
  | .tksend dst n => dst ≠ st && n ≠ 0
  | .awr t _ _ => t ≠ .s
  | .spawn t _ => t ≠ .s
  -- R124
  | .vadd o | .vsub o | .vmul o | .vmin o | .vmax o | .vcpsgn o | .vfma o | .vfms o | .vfnma o => o.ty.isFloat
  | .vabs o | .vneg o | .vrcp o | .vsqrt o | .vrsqrt o | .vexp2 o | .vlog2 o => o.ty.isFloat
  -- R126
  | .viadd o | .visub o | .vimul o | .vimin o | .vimax o | .vqadd o | .vqsub o | .vimulh o => !o.ty.isFloat
  -- R127
  | .vand o | .vor o | .vxor o | .vandn o | .vshl o | .vshr o | .vsar o => o.ty = .i32 || o.ty = .n32
  -- R139
  | .vgath o => o.ty ≠ .i6
  | .vscat o => o.ty ≠ .i6
  -- R204
  | .tcpin o | .tcunp o =>
    match o.range with
    | .one => true
    | .run _ n => n ≠ 0
    | .all => false
  | .tcinv o | .tcfls o =>
    match o.range with
    | .one => true
    | .run _ n => n ≠ 0
    | .all => o.coord = 0 && !o.xv
  -- R209
  | .tcitn _ _ hint win => hint ≠ .pin && (win.toNat = 0 || 4 ≤ win.toNat)
  | _ => true

/-- An instruction that stream `st` can execute with the fields it has. -/
def Instr.wf (st : Stream) (i : Instr) : Bool :=
  i.inStream st && i.fieldsOk st

end Sys2Proof
end

