-- ==== Sys2Proof/Machine/Number.lean ====
section
/-!
DEFINITION. Element formats, placement in cells, exact values and the one rounding rule (spec/03 R64-R71), the arithmetic of
vector cells (spec/05 R124-R128) and the special functions (R125).
-/

namespace Sys2Proof

/-- The width of an integer type (Table 3-1), and of a floating type its bits. -/
def ETy.bits : ETy → Nat
  | .f32 | .i32 | .n32 => 32
  | .bf16 | .f16 | .i16 | .n16 => 16
  | .i8 | .n8 => 8
  | .i6 => 6

/-- Signed integer types. -/
def ETy.signed : ETy → Bool
  | .i32 | .i16 | .i8 | .i6 => true
  | _ => false

/-- The least value of an integer type. -/
def ETy.lo (t : ETy) : Int := if t.signed then -(2 ^ (t.bits - 1) : Nat) else 0
/-- The greatest value of an integer type. -/
def ETy.hi (t : ETy) : Int := if t.signed then (2 ^ (t.bits - 1) : Nat) - 1 else (2 ^ t.bits : Nat) - 1

/-- An integer clamped to a type's range. -/
def ETy.clamp (t : ETy) (x : Int) : Int := if x < t.lo then t.lo else if x > t.hi then t.hi else x

end Sys2Proof

namespace Sys2Proof.Machine

/-- An exact input of the conversion rule (R70): a special, or ±m × 2^e. A zero keeps its sign. -/
inductive FNum where
  | nan
  | inf (neg : Bool)
  | fin (neg : Bool) (m : Nat) (e : Int)
  deriving DecidableEq, Repr

/-- A floating format: exponent bits, significand bits, and the exponent of its least subnormal (Table 3-1). -/
structure Fmt where
  eb : Nat
  p : Nat
  qmin : Int
  deriving DecidableEq, Repr

def fmtF32 : Fmt := { eb := 8, p := 24, qmin := -149 }
def fmtBF16 : Fmt := { eb := 8, p := 8, qmin := -133 }
def fmtF16 : Fmt := { eb := 5, p := 11, qmin := -24 }

/-- The floating format of a type; integers have none, and F32 stands for them where it is not used. -/
def fmtOf : ETy → Fmt
  | .bf16 => fmtBF16
  | .f16 => fmtF16
  | _ => fmtF32

/-- 2^e × m for an exponent at or above e0, as a natural number of units 2^e0. -/
def shiftUp (m : Nat) (e e0 : Int) : Nat := m * 2 ^ (e - e0).toNat

/-- The value of a floating bit pattern (R64). -/
def decodeF (f : Fmt) (w : Nat) : FNum :=
  let neg := nbit w (f.eb + f.p - 1)
  let x := nbits w (f.eb + f.p - 2) (f.p - 1)
  let fr := nbits w (f.p - 2) 0
  if x = 2 ^ f.eb - 1 then (if fr = 0 then .inf neg else .nan)
  else if x = 0 then .fin neg fr f.qmin
  else .fin neg (fr + 2 ^ (f.p - 1)) (f.qmin + (x : Int) - 1)

/-- The canonical NaN of a format (R68). -/
def nanF (f : Fmt) : Nat := (2 ^ (f.eb + 1) - 1) * 2 ^ (f.p - 2)

/-- An infinity of a format. -/
def infF (f : Fmt) (neg : Bool) : Nat := b2n neg * 2 ^ (f.eb + f.p - 1) + (2 ^ f.eb - 1) * 2 ^ (f.p - 1)

/-- The largest finite value of a format. -/
def maxF (f : Fmt) (neg : Bool) : Nat := infF f neg - 1

/-- Does the quotient n with remainder r of 2^k round away from zero (R67)? -/
def roundsUp (rm : RMode) (neg : Bool) (n r k : Nat) : Bool :=
  let half := 2 ^ k / 2
  match rm with
  | .rz => false
  | .rd => neg && r ≠ 0
  | .ru => !neg && r ≠ 0
  | .rna => k ≠ 0 && decide (r ≥ half)
  | .rne => k ≠ 0 && (decide (r > half) || (r = half && n % 2 = 1))

/-- m × 2^e rounded to a multiple of 2^q, in units of 2^q. -/
def roundTo (rm : RMode) (neg : Bool) (m : Nat) (e q : Int) : Nat :=
  if q ≤ e then shiftUp m e q
  else
    let k := (q - e).toNat
    let n := m / 2 ^ k
    if roundsUp rm neg n (m % 2 ^ k) k then n + 1 else n

/-- The bit length of a number. -/
def bitLen (m : Nat) : Nat := if m = 0 then 0 else Nat.log2 m + 1

/-- Conversion of an exact input to a floating format (R70, Table 3-3). -/
def encodeF (f : Fmt) (rm : RMode) : FNum → Nat
  | .nan => nanF f
  | .inf neg => infF f neg
  | .fin neg m e =>
    if m = 0 then b2n neg * 2 ^ (f.eb + f.p - 1)
    else
      let q0 := (bitLen m : Int) + e - (f.p : Int)
      let q := if q0 < f.qmin then f.qmin else q0
      let n := roundTo rm neg m e q
      let (n, q) := if n = 2 ^ f.p then (n / 2, q + 1) else (n, q)
      let x := (q - f.qmin).toNat + 1
      if n < 2 ^ (f.p - 1) then b2n neg * 2 ^ (f.eb + f.p - 1) + n
      else if x ≥ 2 ^ f.eb - 1 then
        match rm with
        | .rne | .rna => infF f neg
        | .rz => maxF f neg
        | .rd => if neg then infF f neg else maxF f neg
        | .ru => if neg then maxF f neg else infF f neg
      else b2n neg * 2 ^ (f.eb + f.p - 1) + x * 2 ^ (f.p - 1) + (n - 2 ^ (f.p - 1))

/-- Conversion of an exact input to an integer type (R70). -/
def toInt (t : ETy) (rm : RMode) : FNum → Int
  | .nan => 0
  | .inf neg => if neg then t.lo else t.hi
  | .fin neg m e => t.clamp (if neg then -(roundTo rm neg m e 0 : Nat) else (roundTo rm neg m e 0 : Nat))

/-- An integer as an exact value. -/
def ofInt (x : Int) : FNum := .fin (decide (x < 0)) x.natAbs 0

/-- The integer that a cell holds under an integer type (Table 3-2). -/
def cellInt (t : ETy) (c : Word32) : Int :=
  if t.signed then sext c.toNat t.bits else ((c.toNat % 2 ^ t.bits : Nat) : Int)

/-- The cell of an integer, sign- or zero-extended by its type (Table 3-2). -/
def intCell (t : ETy) (x : Int) : Word32 :=
  if t.signed then BitVec.ofInt 32 (sext (ibits x t.bits) t.bits) else BitVec.ofNat 32 (ibits x t.bits)

/-- The value that a cell holds under a type (Table 3-2). -/
def cellNum (t : ETy) (c : Word32) : FNum :=
  match t with
  | .f32 => decodeF fmtF32 c.toNat
  | .bf16 => decodeF fmtBF16 (c.toNat / 2 ^ 16)
  | .f16 => decodeF fmtF16 (c.toNat / 2 ^ 16)
  | t => ofInt (cellInt t c)

/-- The cell of an exact value converted to a type (R70, Table 3-2). -/
def numCell (t : ETy) (rm : RMode) (x : FNum) : Word32 :=
  match t with
  | .f32 => BitVec.ofNat 32 (encodeF fmtF32 rm x)
  | .bf16 => BitVec.ofNat 32 (encodeF fmtBF16 rm x * 2 ^ 16)
  | .f16 => BitVec.ofNat 32 (encodeF fmtF16 rm x * 2 ^ 16)
  | t => intCell t (toInt t rm x)

/-! ## Exact arithmetic (R67, R124) -/

/-- The value negated. -/
def FNum.neg : FNum → FNum
  | .nan => .nan
  | .inf n => .inf (!n)
  | .fin n m e => .fin (!n) m e

/-- The exact sum; an exact zero is +0 unless both addends are −0 (R124). -/
def FNum.add (x y : FNum) : FNum :=
  match x, y with
  | .nan, _ | _, .nan => .nan
  | .inf a, .inf b => if a = b then .inf a else .nan
  | .inf a, _ => .inf a
  | _, .inf b => .inf b
  | .fin a m e, .fin b n f =>
    let g := if e ≤ f then e else f
    let u : Int := shiftUp m e g
    let v : Int := shiftUp n f g
    let t := (if a then -u else u) + (if b then -v else v)
    if t = 0 then .fin (a && b) 0 g else .fin (decide (t < 0)) t.natAbs g

/-- The exact product. -/
def FNum.mul (x y : FNum) : FNum :=
  match x, y with
  | .nan, _ | _, .nan => .nan
  | .inf a, .inf b => .inf (a ^^ b)
  | .inf a, .fin b n _ => if n = 0 then .nan else .inf (a ^^ b)
  | .fin a m _, .inf b => if m = 0 then .nan else .inf (a ^^ b)
  | .fin a m e, .fin b n f => .fin (a ^^ b) (m * n) (e + f)

/-- An ordering key: x < y exactly when the sign and magnitude say so, −0 and +0 equal. Only for values that are no NaN. -/
def FNum.lt (x y : FNum) : Bool :=
  match x, y with
  | .nan, _ | _, .nan => false
  | .inf a, .inf b => a && !b
  | .inf a, _ => a
  | _, .inf b => !b
  | .fin a m e, .fin b n f =>
    let g := if e ≤ f then e else f
    let u : Int := shiftUp m e g
    let v : Int := shiftUp n f g
    decide ((if a then -u else u) < (if b then -v else v))

/-- Equality of values, −0 and +0 equal. -/
def FNum.eqv (x y : FNum) : Bool :=
  match x, y with
  | .nan, _ | _, .nan => false
  | x, y => !(x.lt y) && !(y.lt x)

/-- The sign of a value that is no NaN. -/
def FNum.sign : FNum → Bool
  | .nan => false
  | .inf a => a
  | .fin a _ _ => a

/-- VMIN and VMAX (Table 5-4): −0 counts as less than +0. -/
def FNum.min (x y : FNum) : FNum :=
  match x, y with
  | .nan, _ | _, .nan => .nan
  | x, y => if x.lt y then x else if y.lt x then y else if x.sign then x else y

def FNum.max (x y : FNum) : FNum :=
  match x, y with
  | .nan, _ | _, .nan => .nan
  | x, y => if y.lt x then x else if x.lt y then y else if x.sign then y else x

/-! ## Integer roots with a sticky bit (R125) -/

/-- The integer square root of n below 2^k, by bits from the highest. -/
def isqrtFrom : Nat → Nat → Nat → Nat
  | 0, _, r => r
  | k + 1, n, r => isqrtFrom k n (if (r + 2 ^ k) * (r + 2 ^ k) ≤ n then r + 2 ^ k else r)

/-- floor(√n). -/
def isqrt (n : Nat) : Nat := isqrtFrom (bitLen n / 2 + 1) n 0

/-- 2q, plus one where the quotient is not exact: a value that rounds as the exact one does. -/
def sticky (q : Nat) (exact : Bool) : Nat := 2 * q + b2n (!exact)

/-- 1/x for x = ±m × 2^e (Table 5-5). -/
def rcpNum : FNum → FNum
  | .nan => .nan
  | .inf a => .fin a 0 0
  | .fin a m e =>
    if m = 0 then .inf a
    else .fin a (sticky (2 ^ (bitLen m + 64) / m) (2 ^ (bitLen m + 64) % m = 0)) (-e - ((bitLen m + 64 : Nat) : Int) - 1)

/-- √x (Table 5-5). -/
def sqrtNum : FNum → FNum
  | .nan => .nan
  | .inf a => if a then .nan else .inf false
  | .fin a m e =>
    if m = 0 then .fin a 0 0
    else if a then .nan
    else
      let m := if e % 2 = 0 then m else 2 * m
      let e := if e % 2 = 0 then e else e - 1
      let r := isqrt (m * 2 ^ 128)
      .fin false (sticky r (r * r = m * 2 ^ 128)) (e / 2 - 65)

/-- 1/√x (Table 5-5). -/
def rsqrtNum : FNum → FNum
  | .nan => .nan
  | .inf a => if a then .nan else .fin false 0 0
  | .fin a m e =>
    if m = 0 then .inf a
    else if a then .nan
    else
      let m := if e % 2 = 0 then m else 2 * m
      let e := if e % 2 = 0 then e else e - 1
      let k := bitLen m + 64
      let n := 2 ^ (2 * k)
      let r := isqrt (n / m)
      .fin false (sticky r (r * r * m = n)) (-(e / 2) - (k : Int) - 1)

/-! ## Powers and logarithms of two by 256-bit fixed point; the last place kept is far below any rounding tie (log 10) -/

/-- The working precision of VEXP2 and VLOG2. -/
def expPrec : Nat := 256

/-- 2^f for the fraction bits f below 2^k (most significant first), each factor the square root of the one before. -/
def pow2Frac : Nat → Nat → Nat → Nat → Nat
  | 0, _, _, acc => acc
  | k + 1, f, c, acc =>
    let c := isqrt (c * 2 ^ expPrec)
    pow2Frac k f c (if nbit f k then acc * c / 2 ^ expPrec else acc)

/-- 2^x (Table 5-5). -/
def exp2Num : FNum → FNum
  | .nan => .nan
  | .inf a => if a then .fin false 0 0 else .inf false
  | .fin a m e =>
    if m = 0 then .fin false 1 0
    else if (bitLen m : Int) + e > 12 then (if a then .fin false 1 (-4096) else .fin false 1 4096)
    else if (bitLen m : Int) + e < -30 then .fin false (if a then 2 ^ 80 - 1 else 2 ^ 80 + 1) (-80)
    else
      let k := if e < 0 then (-e).toNat else 0
      let u : Int := (if a then -(1 : Int) else 1) * (m : Int) * (2 : Int) ^ (e + k).toNat
      let n := u / (2 ^ k : Nat)
      let f := (u % (2 ^ k : Nat)).toNat
      if f = 0 then .fin false 1 n
      else .fin false (sticky (pow2Frac k f (2 * 2 ^ expPrec) (2 ^ expPrec)) false) (n - expPrec - 1)

/-- Bits of log2 y, for y in [1, 2) held in units of 2^-400. -/
def log2Frac : Nat → Nat → Nat → Nat
  | 0, _, acc => acc
  | k + 1, y, acc =>
    let z := y * y / 2 ^ 400
    if z ≥ 2 ^ 401 then log2Frac k (z / 2) (2 * acc + 1) else log2Frac k z (2 * acc)

/-- log2 x (Table 5-5). -/
def log2Num : FNum → FNum
  | .nan => .nan
  | .inf a => if a then .nan else .inf false
  | .fin a m e =>
    if m = 0 then .inf true
    else if a then .nan
    else
      let w := bitLen m
      let x : Int := (w : Int) - 1 + e
      if m = 2 ^ (w - 1) then ofInt x
      else
        let t := x * 2 ^ 160 + (log2Frac 160 (m * 2 ^ (401 - w)) 0 : Nat)
        -- the exact value lies strictly between t and t + 1
        let t2 := 2 * t + 1
        .fin (decide (t2 < 0)) t2.natAbs (-161)

/-- A special function on a cell (R125): F32 correctly rounded, then once more to the narrower type. -/
def specialCell (f : FNum → FNum) (t : ETy) (c : Word32) : Word32 :=
  let y := f (cellNum t c)
  match t with
  | .f32 => numCell .f32 .rne y
  | t => numCell t .rne (decodeF fmtF32 (encodeF fmtF32 .rne y))

/-! ## Cell operations (Tables 5-4 to 5-6) -/

def faddCell (t : ETy) (x y : Word32) : Word32 := numCell t .rne ((cellNum t x).add (cellNum t y))
def fsubCell (t : ETy) (x y : Word32) : Word32 := numCell t .rne ((cellNum t x).add (cellNum t y).neg)
def fmulCell (t : ETy) (x y : Word32) : Word32 := numCell t .rne ((cellNum t x).mul (cellNum t y))
def fminCell (t : ETy) (x y : Word32) : Word32 := numCell t .rne ((cellNum t x).min (cellNum t y))
def fmaxCell (t : ETy) (x y : Word32) : Word32 := numCell t .rne ((cellNum t x).max (cellNum t y))

/-- The magnitude with a given sign; a NaN stays a NaN. -/
def FNum.withSign (neg : Bool) : FNum → FNum
  | .nan => .nan
  | .inf _ => .inf neg
  | .fin _ m e => .fin neg m e

def fabsCell (t : ETy) (x : Word32) : Word32 := numCell t .rne ((cellNum t x).withSign false)
def fnegCell (t : ETy) (x : Word32) : Word32 := numCell t .rne (cellNum t x).neg
/-- VCPSGN takes the sign bit of y even when y is NaN; every floating type has its sign in cell bit 31. -/
def fcpsgnCell (t : ETy) (x y : Word32) : Word32 := numCell t .rne ((cellNum t x).withSign (nbit y.toNat 31))

/-- round(±(x × y) ± z), fused (R67). -/
def ffmaCell (np nz : Bool) (t : ETy) (x y z : Word32) : Word32 :=
  let p := (cellNum t x).mul (cellNum t y)
  let z := cellNum t z
  numCell t .rne ((if np then p.neg else p).add (if nz then z.neg else z))

def iaddCell (t : ETy) (x y : Word32) : Word32 := intCell t (cellInt t x + cellInt t y)
def isubCell (t : ETy) (x y : Word32) : Word32 := intCell t (cellInt t x - cellInt t y)
def imulCell (t : ETy) (x y : Word32) : Word32 := intCell t (cellInt t x * cellInt t y)
def iminCell (t : ETy) (x y : Word32) : Word32 := intCell t (min (cellInt t x) (cellInt t y))
def imaxCell (t : ETy) (x y : Word32) : Word32 := intCell t (max (cellInt t x) (cellInt t y))
def iqaddCell (t : ETy) (x y : Word32) : Word32 := intCell t (t.clamp (cellInt t x + cellInt t y))
def iqsubCell (t : ETy) (x y : Word32) : Word32 := intCell t (t.clamp (cellInt t x - cellInt t y))
def imulhCell (t : ETy) (x y : Word32) : Word32 := intCell t (cellInt t x * cellInt t y / (2 ^ t.bits : Nat))

/-- VCMP of one cell (R128). -/
def cmpCell (c : Cond) (t : ETy) (x y : Word32) : Bool :=
  let a := cellNum t x
  let b := cellNum t y
  let un := a = .nan || b = .nan
  match c with
  | .eq => a.eqv b
  | .ne => !(a.eqv b)
  | .lt => a.lt b
  | .le => a.lt b || a.eqv b
  | .gt => b.lt a
  | .ge => b.lt a || a.eqv b
  | .unord => un
  | .ord => !un

/-- VCVT of one cell (R131). -/
def cvtCell (st dt : ETy) (rm : RMode) (x : Word32) : Word32 := numCell dt rm (cellNum st x)

/-- One pairwise step of a reduction (R136). -/
def redCell (op : RedOp) (t : ETy) (x y : Word32) : Word32 :=
  if t.isFloat then
    match op with
    | .sum => faddCell t x y
    | .max => fmaxCell t x y
    | .min => fminCell t x y
  else
    match op with
    | .sum => iaddCell t x y
    | .max => imaxCell t x y
    | .min => iminCell t x y

/-- One level of the tree of R136. -/
def redLevel (op : RedOp) (t : ETy) : List Word32 → List Word32
  | x :: y :: l => redCell op t x y :: redLevel op t l
  | l => l

/-- The tree of R136 with n levels. -/
def redTree (op : RedOp) (t : ETy) : Nat → List Word32 → List Word32
  | 0, l => l
  | n + 1, l => redTree op t n (redLevel op t l)

end Sys2Proof.Machine
end

