-- ==== Sys2Proof/Machine/Acc.lean ====
section
/-!
DEFINITION. Residue accumulator elements and banks: reading, entering products, scaling, renormalising, converting
(spec/03 R72-R85, spec/05 R145-R146).
-/

namespace Sys2Proof.Machine

/-- The moduli of Table 3-5 and their product. -/
def mod0 : Nat := 2 ^ 43 - 1
def mod1 : Nat := 2 ^ 43
def mod2 : Nat := 2 ^ 42 - 1
def modAll : Nat := mod0 * mod1 * mod2

/-- The number below M that is 1 in one channel and 0 in the others. -/
def crt0 : Nat := 0xffffffffff6000000000180000000000
def crt1 : Nat := 0x7fffffffffeffffffffff80000000001
def crt2 : Nat := 0x7ffffffffff000000000000000000000

/-- The three numbers are what their description says. -/
theorem crt_units : crt0 % mod0 = 1 ∧ crt0 % mod1 = 0 ∧ crt0 % mod2 = 0 ∧ crt1 % mod0 = 0 ∧ crt1 % mod1 = 1 ∧
    crt1 % mod2 = 0 ∧ crt2 % mod0 = 0 ∧ crt2 % mod1 = 0 ∧ crt2 % mod2 = 1 := by decide

/-- The integer that an element stands for (R73). -/
def elemInt (x : Elem) : Int :=
  let y := (x.r0.toNat % mod0 * crt0 + x.r1.toNat * crt1 + x.r2.toNat % mod2 * crt2) % modAll
  if y ≥ modAll / 2 then (y : Int) - (modAll : Int) else (y : Int)

/-- n modulo a channel's modulus, canonical (R73). -/
def resid (n : Int) (m : Nat) : Nat := (n % (m : Int)).toNat

/-- The residues of an integer, with given special bits. -/
def ofElemInt (n : Int) (sp : BitVec 2) : Elem :=
  { r0 := BitVec.ofNat 43 (resid n mod0), r1 := BitVec.ofNat 43 (resid n mod1), r2 := BitVec.ofNat 42 (resid n mod2),
    sp := sp }

/-- The zero element (R75). -/
def zeroElem : Elem := { r0 := 0, r1 := 0, r2 := 0, sp := 0 }

/-- An element with n added channel by channel and special bits ORed in (R74, R78). -/
def elemAdd (x : Elem) (n : Int) (sp : BitVec 2) : Elem :=
  { r0 := BitVec.ofNat 43 ((x.r0.toNat + resid n mod0) % mod0),
    r1 := BitVec.ofNat 43 ((x.r1.toNat + resid n mod1) % mod1),
    r2 := BitVec.ofNat 42 ((x.r2.toNat + resid n mod2) % mod2), sp := x.sp ||| sp }

/-- Two elements added channel by channel (R177). -/
def elemSum (x y : Elem) : Elem :=
  { r0 := BitVec.ofNat 43 ((x.r0.toNat + y.r0.toNat) % mod0), r1 := x.r1 + y.r1,
    r2 := BitVec.ofNat 42 ((x.r2.toNat + y.r2.toNat) % mod2), sp := x.sp ||| y.sp }

/-- A bank in the state of R75. -/
def freshBank : Bank :=
  { els := List.replicate 1024 zeroElem, count := 0, inexact := false, range := false, anchor := 0, rule := false,
    owners := none }

/-- Element (r, c) of a bank. -/
def bankEl (b : Bank) (i : Nat) : Elem := b.els.getD i zeroElem

/-- The bank state word (Table 3-6). -/
def bankWord (b : Bank) : Nat := b.count.toNat * 2 ^ 14 + b2n b.inexact * 2 ^ 13 + b2n b.range * 2 ^ 12 + b.anchor.toNat

/-- COUNT with n more products, saturating (R76). -/
def countAdd (c : BitVec 20) (n : Nat) : BitVec 20 := BitVec.ofNat 20 (min (c.toNat + n) (2 ^ 20 - 1))

/-- What a product or a sum of products enters: an integer, special bits, and the two flags. -/
structure Contrib where
  n : Int
  sp : BitVec 2
  range : Bool
  inexact : Bool
  deriving DecidableEq, Repr

def noContrib : Contrib := { n := 0, sp := 0, range := false, inexact := false }

/-- Contributions combined: exact sums, ORed bits. -/
def Contrib.add (x y : Contrib) : Contrib :=
  { n := x.n + y.n, sp := x.sp ||| y.sp, range := x.range || y.range, inexact := x.inexact || y.inexact }

/-- Special bits of an infinity of given sign (R74). -/
def infBits (neg : Bool) : BitVec 2 := if neg then 2 else 1

/-- floor(x × 2^s) and whether a remainder was dropped. -/
def floorShift (x : Int) (s : Int) : Int × Bool :=
  if s ≥ 0 then (x * (2 ^ s.toNat : Nat), false)
  else ((x / (2 ^ (-s).toNat : Nat)), decide (x % (2 ^ (-s).toNat : Nat) ≠ 0))

/-- A floating product entering a bank with anchor a, negated for ctl 11 (R77, R78). -/
def floatContrib (neg : Bool) (a : Int) (x y : FNum) : Contrib :=
  match x.mul y with
  | .nan => { noContrib with sp := 3 }
  | .inf s => { noContrib with sp := infBits (s ^^ neg) }
  | .fin s m e =>
    if m = 0 then noContrib
    else if (bitLen m : Int) + e > a + 110 then { noContrib with range := true }
    else
      let v : Int := if s ^^ neg then -(m : Int) else m
      let r := floorShift v (e - a)
      { noContrib with n := r.1, inexact := r.2 }

/-- An integer product (R79). -/
def intContrib (neg : Bool) (x y : Int) : Contrib := { noContrib with n := if neg then -(x * y) else x * y }

/-- The number that a product operand's bits stand for: BF16, F16, or a sign-extended byte (R77, R79). -/
def operandNum (f : MFmt) (w : BitVec 16) : FNum :=
  match f with
  | .bf16 => decodeF fmtBF16 w.toNat
  | .f16 => decodeF fmtF16 w.toNat
  | _ => ofInt (sext w.toNat 8)

/-- One product of two operand elements. -/
def prodContrib (f : MFmt) (neg : Bool) (a : Int) (x y : BitVec 16) : Contrib :=
  match f with
  | .i8 | .i6 => intContrib neg (sext x.toNat 8) (sext y.toNat 8)
  | _ => floatContrib neg a (operandNum f x) (operandNum f y)

/-- The products of a row of A by a column of B. -/
def dotContrib (f : MFmt) (neg : Bool) (a : Int) : List (BitVec 16) → List (BitVec 16) → Contrib
  | x :: xs, y :: ys => (prodContrib f neg a x y).add (dotContrib f neg a xs ys)
  | _, _ => noContrib

/-- The anchor as an integer. -/
def anchorOf (b : Bank) : Int := b.anchor.toInt

/-- K of a product format (Table 6-1). -/
def kOf : MFmt → Nat
  | .bf16 | .f16 => 32
  | .i8 | .i6 => 64

/-- Elements i, i + d, i + 2d, … of a list, n of them. -/
def every (l : List (BitVec 16)) (i d n : Nat) : List (BitVec 16) := tab n (fun k => l.getD (i + d * k) 0)

/-- A product of operands entering a bank: A by rows (16 × K), B by rows (K × 64) (R158). -/
def bankProduct (f : MFmt) (ovw neg : Bool) (av bv : List (BitVec 16)) (b : Bank) : Bank :=
  let k := kOf f
  let b := if ovw then { b with els := List.replicate 1024 zeroElem, count := 0 } else b
  let cols := tab 64 (fun j => every bv j 64 k)
  let cs := (tab 16 (fun i => (av.drop (k * i)).take k)).flatMap
    (fun row => cols.map (fun col => dotContrib f neg (anchorOf b) row col))
  { b with
    els := List.zipWith (fun x c => elemAdd x c.n c.sp) b.els cs
    count := countAdd b.count k
    range := b.range || cs.any (·.range)
    inexact := b.inexact || cs.any (·.inexact) }

/-- The special bits that MSCA enters (Table 3-9); none where it enters a number. -/
def scaleBits (x : Elem) (sc : FNum) : Option (BitVec 2) :=
  let xs := elemInt x
  match sc with
  | .nan => some 3
  | .inf s =>
    if x.sp = 3 then some 3
    else if x.sp = 0 then (if xs = 0 then some 3 else some (infBits (decide (xs < 0) ^^ s)))
    else some (infBits (decide (x.sp = 2) ^^ s))
  | .fin s m _ =>
    if x.sp = 3 then some 3
    else if x.sp = 0 then none
    else if m = 0 then some 3
    else some (if s then (if x.sp = 1 then 2 else 1) else x.sp)

/-- What MSCA adds to one destination element (R82): source element and anchor, scale, destination anchor. -/
def scaleContrib (x : Elem) (asrc adst : Int) (sc : FNum) : Contrib :=
  match scaleBits x sc with
  | some sp => { noContrib with sp := sp }
  | none =>
    match sc with
    | .fin s m e =>
      let v : Int := elemInt x * (if s then -(m : Int) else m)
      let r := floorShift v (asrc + e - adst)
      { noContrib with n := r.1, inexact := r.2 }
    | _ => noContrib

/-- The scale that a mode selects for element (r, c) (R167). -/
def scaleCell (mode : ScaMode) (cells : Cells) (i : Nat) : FNum :=
  cellNum .bf16 (match mode with
    | .scalar => cells.getD 0 0
    | .row => cells.getD (64 * (i / 64)) 0
    | .col => cells.getD (i % 64) 0)

/-- MSCA of a source bank into a destination bank (R82, R167). -/
def bankScale (src : Bank) (mode : ScaMode) (cells : Cells) (b : Bank) : Bank :=
  let cs := tab 1024 (fun i => scaleContrib (bankEl src i) (anchorOf src) (anchorOf b) (scaleCell mode cells i))
  { b with els := List.zipWith (fun x c => elemAdd x c.n c.sp) b.els cs, inexact := b.inexact || cs.any (·.inexact) }

/-- MRNM with shift k (R83). -/
def bankRenorm (k : Nat) (b : Bank) : Bank :=
  if k = 0 then b
  else
    let rs := b.els.map (fun x => (floorShift (elemInt x) (-(k : Int)), x.sp))
    { b with els := rs.map (fun r => ofElemInt r.1.1 r.2), inexact := b.inexact || rs.any (·.1.2),
             anchor := BitVec.ofInt 12 (anchorOf b + k) }

/-- MZERO (R164). -/
def bankZero (a : BitVec 12) (b : Bank) : Bank :=
  { b with els := List.replicate 1024 zeroElem, count := 0, range := false, inexact := false, anchor := a }

/-- MCOPY (R168). -/
def bankCopy (src b : Bank) : Bank :=
  { b with els := src.els, count := src.count, range := src.range, inexact := src.inexact, anchor := src.anchor }

/-- VACVT of one element (R81). -/
def drainCell (t : ETy) (rm : RMode) (a : Int) (x : Elem) : Word32 :=
  if x.sp = 0 then
    let v := elemInt x
    numCell t rm (.fin (decide (v < 0)) v.natAbs a)
  else numCell t rm (if x.sp = 3 then .nan else .inf (decide (x.sp = 2)))

/-- VAFIL of one cell (R146): the element and the flags it sets. -/
def fillElem (t : ETy) (a : Int) (c : Word32) : Elem × Bool × Bool :=
  match cellNum t c with
  | .nan => ({ zeroElem with sp := 3 }, false, false)
  | .inf s => ({ zeroElem with sp := infBits s }, false, false)
  | .fin s m e =>
    if !t.isFloat then (ofElemInt (cellInt t c) 0, false, false)
    else if m = 0 then (zeroElem, false, false)
    else if (bitLen m : Int) + e > a + 110 then (zeroElem, true, false)
    else
      let r := floorShift (if s then -(m : Int) else m) (e - a)
      (ofElemInt r.1 0, false, r.2)

/-- VAFIL of rows r0 to r0 + n - 1 (R146). -/
def bankFill (t : ETy) (r0 n : Nat) (cells : Cells) (b : Bank) : Bank :=
  let fs := tab 1024 (fun i => if r0 ≤ i / 64 ∧ i / 64 < r0 + n then some (fillElem t (anchorOf b) (cells.getD i 0)) else none)
  { b with
    els := List.zipWith (fun x f => match f with | some (y, _, _) => y | none => x) b.els fs
    range := b.range || fs.any (fun f => match f with | some (_, r, _) => r | none => false)
    inexact := b.inexact || fs.any (fun f => match f with | some (_, _, i) => i | none => false) }

end Sys2Proof.Machine
end

