-- ==== Sys2Proof/Machine/Desc.lean ====
section
/-!
DEFINITION. Tensor descriptors: their fields and validity, the tiles that they name, the memory footprint of a tile and how its
elements stand in tarn lines and registers (spec/07 R190-R194, spec/12 R293, R296, spec/05 R142-R144, spec/03 R71).
-/

namespace Sys2Proof.Machine

/-! ## Tensor descriptors (Table 7-4) -/

/-- A descriptor's fields. -/
structure Desc where
  base : Nat
  tid : Nat
  ty : Nat
  layout : Nat
  trans : Bool
  remote : Bool
  rddef : Nat
  vpol : Nat
  rows : Nat
  cols : Nat
  dim0 : Nat
  dim1 : Nat
  dim2 : Nat
  dim3 : Nat
  peer : Nat
  rpav : Nat
  str1 : Int
  str2 : Int
  str3 : Int
  token : Word64
  deriving DecidableEq, Repr

/-- The type of a type code (Table 2-10). -/
def tyOf (n : Nat) : ETy :=
  match n with
  | 0 => .f32 | 1 => .bf16 | 2 => .f16 | 3 => .i32 | 4 => .i16 | 5 => .i8 | 6 => .i6 | 7 => .n32 | 8 => .n16 | _ => .n8

/-- Tarn bytes per element (R192). -/
def tyBytes (t : ETy) : Nat :=
  match t with
  | .f32 | .i32 | .n32 => 4
  | .bf16 | .f16 | .i16 | .n16 => 2
  | .i8 | .i6 | .n8 => 1

/-- The fields of a descriptor's 64 bytes. -/
def readDesc (b : List Byte) : Desc :=
  let f := field b 0x0A 2
  { base := field b 0 8, tid := field b 8 2, ty := nbits f 3 0, layout := nbits f 5 4, trans := nbit f 6,
    remote := nbit f 7, rddef := nbits f 9 8, vpol := nbits f 11 10, rows := field b 0x0C 2, cols := field b 0x0E 2,
    dim0 := field b 0x10 4, dim1 := field b 0x14 4, dim2 := field b 0x18 2, dim3 := field b 0x1A 2,
    peer := field b 0x1C 2, rpav := field b 0x1E 2 % 128, str1 := sext (field b 0x20 8) 64,
    str2 := sext (field b 0x28 8) 64, str3 := sext (field b 0x30 8) 64, token := BitVec.ofNat 64 (field b 0x38 8) }

/-- Is a descriptor valid (R194)? -/
def descOk (b : List Byte) : Bool :=
  let d := readDesc b
  let f := field b 0x0A 2
  let t := tyOf d.ty
  let e : Int := tyBytes t
  d.ty ≤ 9 && (d.layout ≠ 3 || d.ty = 6) && (d.layout ≠ 2 || !d.trans) && decide (1 ≤ d.rows) && decide (1 ≤ d.cols)
  && decide (d.rows * d.cols * tyBytes t ≤ 4096) && d.dim0 ≠ 0 && d.dim1 ≠ 0 && d.dim2 ≠ 0 && d.dim3 ≠ 0
  && decide (d.base < 2 ^ 48)
  && (d.layout = 3 || ((d.base : Int) % e = 0 && d.str1 % e = 0 && d.str2 % e = 0 && d.str3 % e = 0))
  && d.vpol ≠ 3 && nbits f 15 12 = 0 && field b 0x1E 2 < 128
  && (d.remote || (d.peer = 0 && d.rpav = 0 && d.token = 0))

/-- The valid descriptor of a slot (R190, R194). -/
def Task.desc (t : Task) (n : Nat) : Option (List Byte) :=
  match mfind n t.tslot with
  | some b => if descOk b then some b else none
  | none => none

/-- The tile that a descriptor and a coordinate register name, for a task (R293). -/
def tileTag (t : Task) (d : Desc) (coord : Word64) : TTag :=
  { pav := t.pav % 128, key := t.key, tid := d.tid, c0 := nbits coord.toNat 15 0, c1 := nbits coord.toNat 31 16,
    c2 := nbits coord.toNat 47 32, c3 := nbits coord.toNat 63 48 }

/-- A coordinate value with k added to one lane (R161, R204). -/
def laneAdd (coord : Word64) (lane k : Nat) : Word64 :=
  let w := coord.toNat
  let c := w / 2 ^ (16 * lane) % 2 ^ 16
  BitVec.ofNat 64 (w - c * 2 ^ (16 * lane) + (c + k) % 2 ^ 16 * 2 ^ (16 * lane))

/-- The version mode in effect and the version it requires (R296): VPOL 1 and 2 force it, 0 takes the instruction's. -/
def needOf (t : Task) (d : Desc) (slot : Nat) (xv : Bool) (hint : Hint) (rd : Nat) : TNeed :=
  { exact := if d.vpol = 1 then true else if d.vpol = 2 then false else xv, ver := (mget slot 0 t.tver).toNat,
    hint := hint, rd := rd }

/-- The tensor element (y, x) of element (i, j) of a tile (R192). -/
def tensorYX (d : Desc) (g : TTag) (i j : Nat) : Nat × Nat :=
  if d.trans then (g.c0 * d.cols + j, g.c1 * d.rows + i) else (g.c0 * d.rows + i, g.c1 * d.cols + j)

/-- Is element (i, j) of a tile in bounds (R192)? -/
def inBounds (d : Desc) (g : TTag) (i j : Nat) : Bool :=
  let p := tensorYX d g i j
  decide (p.2 < d.dim0) && decide (p.1 < d.dim1) && decide (g.c2 < d.dim2) && decide (g.c3 < d.dim3)

/-- The address of element (i, j) of a tile, or of its packed group (R192). -/
def elemAddr (d : Desc) (g : TTag) (i j : Nat) : Nat :=
  let (y, x) := tensorYX d g i j
  let e := tyBytes (tyOf d.ty)
  let o : Int := (g.c2 : Int) * d.str2 + (g.c3 : Int) * d.str3
  let a : Int :=
    if d.layout = 0 then (d.base : Int) + (y : Int) * d.str1 + ((x * e : Nat) : Int) + o
    else if d.layout = 1 then (d.base : Int) + (x : Int) * d.str1 + ((y * e : Nat) : Int) + o
    else if d.layout = 2 then
      (d.base : Int) + (g.c0 : Int) * d.str1 + ((g.c1 * (d.rows * d.cols * e) + (i * d.cols + j) * e : Nat) : Int) + o
    else (d.base : Int) + (y : Int) * d.str1 + ((3 * (x / 4) : Nat) : Int) + o
  ibits a 64

/-- The memory bytes of one element: those of its packed group in layout 3. -/
def elemSpan (d : Desc) : Nat := if d.layout = 3 then 3 else tyBytes (tyOf d.ty)

/-- The in-bounds elements of a tile, by number i × C + j (R142, R192). -/
def tileElems (d : Desc) (g : TTag) : List (Nat × Nat × Nat) :=
  (List.range (d.rows * d.cols)).filterMap (fun n =>
    let i := n / d.cols
    let j := n % d.cols
    if inBounds d g i j then some (n, i, j) else none)

/-- The memory footprint of a tile: the addresses and lengths of its in-bounds elements (R192). -/
def footprint (d : Desc) (g : TTag) : List (Nat × Nat) := (tileElems d g).map (fun e => (elemAddr d g e.2.1 e.2.2, elemSpan d))

/-- The addresses of a list of ranges at which it first meets each of its pages, in order. -/
def rangePages (l : List (Nat × Nat)) : List Nat :=
  (l.flatMap (fun f => [f.1, (f.1 + f.2 - 1) % 2 ^ 64])).foldl
    (fun a va => if a.any (fun x => x / 4096 = va / 4096) then a else a ++ [va]) []

/-- The addresses of a footprint at which it first meets each of its pages, in element order. -/
def footPages (d : Desc) (g : TTag) : List Nat := rangePages (footprint d g)

/-- Those of the elements of a sub-block whose mask bit is 1 (R118, R138, R144). -/
def maskPages (d : Desc) (g : TTag) (sub : Nat) (mask : BitVec 1024) : List Nat :=
  rangePages (((tileElems d g).filter (fun e => decide (e.1 / 1024 = sub) && mask.getLsbD (e.1 % 1024))).map
    (fun e => (elemAddr d g e.2.1 e.2.2, elemSpan d)))

/-- The bytes of a tile's footprint, counted once (R189). -/
def footBytes (d : Desc) (g : TTag) : Nat :=
  if d.layout = 3 then 3 * (uniq ((footprint d g).map (·.1))).length else (footprint d g).length * elemSpan d

/-- The address of a tile's first in-bounds byte; its home is that byte's (R304). -/
def firstByte (d : Desc) (g : TTag) : Nat :=
  match footprint d g with
  | f :: _ => f.1
  | [] => d.base

/-- The tarn value of element n of a tile as a number of its bytes (R193). -/
def tileElem (data : List Byte) (b n : Nat) : Nat := field data (b * n) b

/-- The cell of a tarn element under its type (R143, Table 3-2); I6 is the low six bits of its byte. -/
def tarnCell (ty : ETy) (w : Nat) : Word32 :=
  match ty with
  | .f32 => BitVec.ofNat 32 w
  | .bf16 | .f16 => BitVec.ofNat 32 (w * 2 ^ 16)
  | ty => intCell ty (cellInt ty (BitVec.ofNat 32 w))

/-- The tarn value of a cell under a type (R144). -/
def cellTarn (ty : ETy) (c : Word32) : Nat :=
  match ty with
  | .f32 => c.toNat
  | .bf16 | .f16 => c.toNat / 2 ^ 16
  | .i6 => ibits (cellInt .i6 c) 8
  | ty => c.toNat % 2 ^ ty.bits

/-- The sub-blocks of a type (R142). -/
def subBlocks (ty : ETy) : Nat := 4 / tyBytes ty

/-- Sub-block s of a tile as cells; elements at or beyond R × C read as zero (R142). -/
def tileCells (d : Desc) (data : List Byte) (sub : Nat) : Cells :=
  let ty := tyOf d.ty
  tab 1024 (fun i =>
    let n := 1024 * sub + i
    if n < d.rows * d.cols then tarnCell ty (tileElem data (tyBytes ty) n) else 0)

end Sys2Proof.Machine
end

