-- ==== Sys2Proof/Machine/Mem.lean ====
section
/-!
DEFINITION. Memory: bytes under keys, translation, the caches of PRIV and RSHR lines, logical time and the timestamps that
home agents keep (spec/16 R332-R358, spec/17 R365, spec/04 Table 4-7).
-/

namespace Sys2Proof.Machine

/-! ## Bytes under keys and poison (R351, R365) -/

/-- The byte that a reader with a key gets: a byte written under another key reads as a free value (log 7). -/
def State.byteK (s : State) (key a : Nat) : Byte :=
  match mfind a s.memKey with
  | none => memRead a s.mem
  | some k => if k = key then memRead a s.mem else Config.freeByte (a + 2 ^ 48 * s.free)

def State.bytesK (s : State) (key a n : Nat) : List Byte := tab n (fun i => s.byteK key (a + i))

/-- One byte stored under a key. -/
def State.putByte (s : State) (key a : Nat) (b : Byte) : State :=
  { s with mem := memWrite a b s.mem, memKey := mset a key s.memKey }

/-- Bytes stored under a key; a store of a whole line clears its poison (R365). -/
def State.putBytes (s : State) (key : Nat) : Nat → List Byte → State
  | _, [] => s
  | a, b :: bs => (s.putByte key a b).putBytes key (a + 1) bs

/-- The bytes of a line that a mask names, stored under a key; all 128 of them clear the line's poison (R365). -/
def State.putLine (s : State) (key line : Nat) (mask : BitVec 128) (data : List Byte) : State :=
  let s := each (List.range 128) (fun i s => if mask.getLsbD i then s.putByte key (128 * line + i) (data.getD i 0) else s) s
  if mask = BitVec.allOnes 128 then { s with poison := ldel line s.poison } else s

/-- Bytes stored at any address of a range, with the poison of every line they cover whole cleared. -/
def State.store (s : State) (key a : Nat) (bs : List Byte) : State :=
  let s' := s.putBytes key a bs
  { s' with poison := s'.poison.filter (fun l => !(decide (a ≤ 128 * l) && decide (128 * l + 128 ≤ a + bs.length))) }

/-- Is any line of a range poisoned? -/
def State.poisoned (s : State) (a n : Nat) : Bool :=
  s.poison.any (fun l => decide (128 * l < a + n) && decide (a < 128 * l + 128))

/-- The poison of a line of memory set. -/
def State.setPoison (s : State) (line : Nat) : State := { s with poison := ladd line s.poison }

/-! ## Requests at the stacks (R360-R362) -/

/-- What the requests of a task's region carry (R361). -/
def Eff.orig (e : Eff) (req : Nat) : Orig := { req := req, svc := e.svc, deadline := e.deadline }

/-- The number of a home agent as a requester (R399). -/
def homeReq (h : Nat) : Nat := 256 + h

/-- The place of a line's queue: its stack, and its number among the stack's. -/
def dramQueue (pa : Nat) : Nat × Nat := (stackOf pa, 16 * (dramLoc pa).ch + (dramLoc pa).pc)

/-- A request to memory put before the scheduler of its pseudo-channel, with its class and the stamp of R361. -/
def State.toDram (s : State) (o : Orig) (pa : Nat) (write : Bool) (key own : Nat) (pay : Option WPay) : State :=
  let d := if o.deadline = 0 then 2 ^ 23 - 1 else o.deadline
  let r : DReq := { pa := pa / 128 * 128, write := write, key := key, requester := o.req, cls := o.svc,
                    stamp := BitVec.ofNat 24 (s.cyc.toNat + d), since := s.cyc, own := own, served := false, ahead := false, pay := pay }
  let q := dramQueue pa
  s.modStack q.1 (fun m => { m with queues := mmod q.2 [] (fun l => l ++ [r]) m.queues })

/-- Has a request come to its home? -/
def State.here (s : State) (r : DReq) : Bool := s.come r.own (lineOf r.pa)

/-- The requests of a queue with one of them behind the others: its last flit has come now, and the home performs requests in the order in
which that happens (R412). -/
def toEnd (p : DReq → Bool) (q : List DReq) : List DReq := q.filter (fun r => !p r) ++ q.filter p

/-- A request of an operation for a line that has come to the line's home takes its place there (R360, R412). -/
def State.reachHome (s : State) (id line : Nat) : State :=
  let q := dramQueue (128 * line)
  s.modStack q.1 (fun m => { m with queues := m.queues.map (fun x =>
    (x.1, if x.1 = q.2 then toEnd (fun r => r.own = id && r.pa = 128 * line && !r.served) x.2 else x.2)) })

/-- The request to memory that stands for an owner on the line of an address. -/
def dramOf (s : State) (own pa : Nat) : Option DReq :=
  (mget (dramQueue pa).2 [] (s.stack (dramQueue pa).1).queues).find? (fun r => r.own = own && r.pa = pa / 128 * 128)

/-- Does a request or fill still wait for the column command of a line? -/
def atDram (s : State) (own : Nat) : Bool :=
  s.drams.any (fun m => m.2.queues.any (fun q => q.2.any (fun r => r.own = own && !r.served)))

/-- The requests that pass a test taken out of the queues. -/
def State.dropDram (s : State) (f : DReq → Bool) : State :=
  { s with drams := s.drams.map (fun (m : Nat × Stack) => (m.1, { m.2 with
      queues := m.2.queues.map (fun (q : Nat × List DReq) => (q.1, q.2.filter (fun r => !f r))) })) }

/-- A performed access of an owner no longer holds back later ones to its lines (R360). -/
def State.undram (s : State) (own : Nat) : State := s.dropDram (fun r => r.own = own)

/-- The bytes of a write-back performed; a poisoned one makes a device event of its pavilion and key (R334, R365, R387). -/
def State.applyPay (s : State) (r : DReq) : State :=
  match r.pay with
  | none => s
  | some w =>
    let s := s.putLine r.key (lineOf r.pa) w.mask w.data
    if w.poison then { s.setPoison (lineOf r.pa) with losses := s.losses ++ [(w.pav, r.key, lineOf r.pa)] } else s

/-- A missed deadline counted at the home of the line for its requester and class (R363). -/
def State.countMiss (s : State) (r : DReq) : State :=
  if 0 < sext (BitVec.ofNat 24 s.cyc.toNat - r.stamp).toNat 24 then
    s.modHome (homeOf r.pa) (fun h => { h with missed := mmod (4 * r.requester + r.cls) 0 satInc h.missed })
  else s

/-- Does a request that has come to its home still wait for the column command of the line of an address? A later access to the line
stands behind it (R360). -/
def lineWaits (s : State) (pa : Nat) : Bool :=
  (mget (dramQueue pa).2 [] (s.stack (dramQueue pa).1).queues).any (fun r => !r.served && r.pay.isNone && r.pa = pa / 128 * 128 && s.here r)

/-- The write-backs that stand before an access of the device itself performed with it, as the order of their lines asks
(R360, log 20). -/
def State.settle (s : State) (f : DReq → Bool) : State :=
  let all := (s.drams.flatMap (fun m => m.2.queues.flatMap (·.2))).filter (fun r => r.pay.isSome && f r)
  if all.isEmpty then s else (each all (fun r s => (s.countMiss r).applyPay r) s).dropDram (fun r => r.pay.isSome && f r)

/-- The dword that the device reads at a physical address whatever its key (R358). -/
def State.dword (s : State) (a : Nat) : Nat := natOf (memReads a 8 (s.settle (fun r => r.pa = a / 128 * 128)).mem)

/-! ## Translation (R356-R358, Table 4-7) -/

/-- What an access needs of its page: a read; a core store, AMO or CAS; a copy-engine or host write (R357). -/
inductive AccKind where
  | read | store | write
  deriving DecidableEq, Repr

/-- The outcome of a translation: a page, a walk still to be made, or a fault code. -/
inductive Xl where
  | ok (l : Leaf) (pa : Nat)
  | miss
  | bad (c : BitVec 8)
  deriving DecidableEq, Repr

/-- Do ranges, at most so many of them in turn, hold every byte of a range? -/
def covers (rs : List (Nat × Nat)) : Nat → Nat → Nat → Bool
  | 0, _, _ => false
  | k + 1, a, n =>
    match rs.find? (fun r => decide (r.1 ≤ a) && decide (a < r.1 + r.2)) with
    | none => false
    | some r => decide (a + n ≤ r.1 + r.2) || covers rs k (r.1 + r.2) (a + n - (r.1 + r.2))

/-- Does a pavilion own a physical range (R357)? The management pavilion owns all. -/
def ownsRange (pav : Nat) (p : Pav) (a n : Nat) : Bool := pav = 128 || covers p.ranges p.ranges.length a n

/-- Checks 3 to 5 of Table 4-7 on a leaf. -/
def leafCheck (p : Pav) (acc : AccKind) (va : Nat) (l : Leaf) : Xl :=
  let pa := l.pa + va % l.size
  if (acc = .read && !l.r) || (acc ≠ .read && !l.w) || (acc = .store && l.cls = .rshr) then .bad fPerm
  else if l.key ≠ p.key && p.retired.contains l.key then .bad fKeyRetired
  else if l.pa + l.size > physTop then .bad fTrans
  else .ok l pa

/-- The class of a CLASS field (Table 16-6). -/
def classOf (n : Nat) : PClass := if n = 0 then .priv else if n = 1 then .rshr else if n = 2 then .coh else .dev

/-- The reserved bits of a translation entry at a level (Table 16-6). -/
def entryReserved (level e : Nat) : Bool :=
  nbits e 63 57 ≠ 0 || nbits e 49 48 ≠ 0 || nbits e 11 8 ≠ 0 || nbit e 2 || (nbit e 7 && level ≠ 1)

/-- Is the 64 KiB group of an entry valid (R357)? -/
def groupValid (s : State) (t idx : Nat) : Bool :=
  let es := tab 16 (fun i => s.dword (t + 8 * (idx / 16 * 16 + i)))
  let e0 := es.getD 0 0
  let b := nbits e0 47 12 * 4096
  (es.zip (List.range 16)).all (fun p =>
    nbit p.1 0 && nbit p.1 1 && nbit p.1 7 && !entryReserved 1 p.1 && nbits p.1 56 50 = nbits e0 56 50
      && nbits p.1 6 3 = nbits e0 6 3 && nbits p.1 47 12 * 4096 = b + 4096 * p.2) && b % 65536 = 0

/-- A cached pointer entry's table (R358). -/
def tcPtr (tc : List TcEntry) (pav level va : Nat) : Option Nat :=
  match tc with
  | [] => none
  | .ptr p l v t :: r =>
    if p = pav ∧ l = level ∧ v = va / 2 ^ (3 + 9 * level) * 2 ^ (3 + 9 * level) then some t else tcPtr r pav level va
  | .leaf .. :: r => tcPtr r pav level va

/-- The walk of R356 from a table of a level: the leaf, and the pointer entries it passed. -/
def walkFrom (s : State) (pav : Nat) (p : Pav) (tc : List TcEntry) (va : Nat) : Nat → Nat → Option (Leaf × List TcEntry)
  | 0, _ => none
  | level + 1, t =>
    let span := 2 ^ (3 + 9 * (level + 1))
    match tcPtr tc pav (level + 1) va with
    | some t' => walkFrom s pav p tc va level t'
    | none =>
      if !ownsRange pav p t 4096 then none
      else
        let idx := va / span % 512
        let e := s.dword (t + 8 * idx)
        let pa := nbits e 47 12 * 4096
        if !nbit e 0 || entryReserved (level + 1) e then none
        else if nbit e 1 then
          let key := nbits e 56 50
          if level + 1 = 4 || pa % span ≠ 0 || !ownsRange pav p pa span then none
          else if nbit e 7 && !groupValid s t idx then none
          else if key ≠ p.key && !p.retired.contains key then none
          else if nbit e 7 then
            some ({ va := va / 65536 * 65536, size := 65536, pa := pa - 4096 * (idx % 16), cls := classOf (nbits e 4 3),
                    r := nbit e 5, w := nbit e 6, key := key }, [])
          else some ({ va := va / span * span, size := span, pa := pa, cls := classOf (nbits e 4 3), r := nbit e 5,
                       w := nbit e 6, key := key }, [])
        else if level = 0 || nbits e 4 3 ≠ 0 || nbit e 5 || nbit e 6 || nbits e 56 50 ≠ 0 || nbit e 7 then none
        else
          match walkFrom s pav p tc va level pa with
          | none => none
          | some (l, ps) => some (l, .ptr pav (level + 1) (va / span * span) pa :: ps)

/-- A whole walk for an address (R356, R357 check 2). -/
def walk (s : State) (pav va : Nat) (tc : List TcEntry) : Option (Leaf × List TcEntry) :=
  if va ≥ 2 ^ 48 then none
  else
    match s.pav? pav with
    | none => none
    | some p => walkFrom s pav p tc va 4 p.troot

/-- The leaf that a die's translation cache holds for an address. -/
def tcLeaf (tc : List TcEntry) (pav va : Nat) : Option Leaf :=
  match tc with
  | [] => none
  | .leaf p l :: r => if p = pav ∧ l.va ≤ va ∧ va < l.va + l.size then some l else tcLeaf r pav va
  | .ptr .. :: r => tcLeaf r pav va

/-- The access of a stream that now asks for a translation (R358). -/
def State.asker (s : State) : Asker :=
  match s.curTask with
  | some t => (t.taskid, s.cur.stream, (t.st s.cur.stream).pc)
  | none => (0, s.cur.stream, 0)

/-- Did a walk for this page end without a translation for the access that asks? -/
def walkFailed (s : State) (die pav va : Nat) : Bool :=
  s.walks.any (fun w => w.2.failed && w.2.die = die && w.2.pav = pav && w.2.va = va / 4096 && w.2.asks.contains s.asker)

/-- Translation of one access by the die's translation cache (Table 4-7, checks 2 to 5). -/
def xlate (s : State) (die pav va : Nat) (acc : AccKind) : Xl :=
  if va ≥ 2 ^ 48 then .bad fTrans
  else
    match s.pav? pav with
    | none => .bad fTrans
    | some p =>
      match tcLeaf (s.die die).tc pav va with
      | some l => leafCheck p acc va l
      | none => if walkFailed s die pav va then .bad fTrans else .miss

/-- Translation with any walk made at once: for the slots, fills and the device's own accesses. -/
def xlateNow (s : State) (die pav va : Nat) (acc : AccKind) : Xl :=
  if va ≥ 2 ^ 48 then .bad fTrans
  else
    match s.pav? pav with
    | none => .bad fTrans
    | some p =>
      match tcLeaf (s.die die).tc pav va with
      | some l => leafCheck p acc va l
      | none =>
        match walk s pav va (s.die die).tc with
        | some (l, _) => leafCheck p acc va l
        | none => .bad fTrans

/-- Is a walk in flight for a page? -/
def Walk.for_ (w : Walk) (die pav va : Nat) : Bool := !w.failed && w.die = die && w.pav = pav && w.va = va / 4096

/-- An access joins the walk in flight for its page, or has one begun by a walker of the die that is free, of its 32 (R19, R358). -/
def startWalk (s : State) (die pav va : Nat) : State :=
  let join := fun (w : Walk) => if w.for_ die pav va && !w.asks.contains s.asker then { w with asks := w.asks ++ [s.asker] } else w
  if s.walks.any (fun w => w.2.for_ die pav va) then { s with walks := s.walks.map (fun w => (w.1, join w.2)) }
  else if 32 ≤ (s.walks.filter (fun w => !w.2.failed && w.2.die = die)).length then s
  else
    let w : Walk := { die := die, pav := pav, va := va / 4096, asks := [s.asker], failed := false }
    { s.fresh with walks := mset s.nextId w s.walks }

/-- The failed walk of a page forgotten by the access that asked for it: its next attempt walks again (R358). -/
def dropFailed (s : State) (die pav va : Nat) : State :=
  let off := fun (w : Walk) => if w.failed && w.die = die && w.pav = pav && w.va = va / 4096 then
      { w with asks := w.asks.filter (· ≠ s.asker) } else w
  { s with walks := (s.walks.map (fun w => (w.1, off w.2))).filter (fun w => !w.2.asks.isEmpty) }

/-- An entry of a die's translation cache entered, the earliest entered of 8,192 making room for it (R19, log 20). -/
def tcAdd (tc : List TcEntry) (e : TcEntry) : List TcEntry :=
  let tc := tc.filter (· ≠ e) ++ [e]
  tc.drop (tc.length - 8192)

/-- The walks that accesses of slots and fills to some pages make, entered in a die's translation cache (R358). -/
def State.walkIn (s : State) (die pav : Nat) (vas : List Nat) : State :=
  each vas (fun va s =>
    if (tcLeaf (s.die die).tc pav va).isSome then s
    else match walk s pav va (s.die die).tc with
      | some (l, ps) => s.modDie die (fun d => { d with tc := (ps ++ [TcEntry.leaf pav l]).foldl tcAdd d.tc })
      | none => s) s

/-- The outcome of a list of accesses: the first that fails or misses decides (R138: lowest cell index first). -/
inductive Xls where
  | ok (l : List (Leaf × Nat))
  | miss (va : Nat)
  | bad (c : BitVec 8) (va : Nat)
  deriving DecidableEq, Repr

def xlateAll (s : State) (die pav : Nat) (acc : AccKind) : List Nat → Xls
  | [] => .ok []
  | va :: vas =>
    match xlate s die pav va acc with
    | .bad c => .bad c va
    | .miss => .miss va
    | .ok l pa =>
      match xlateAll s die pav acc vas with
      | .ok r => .ok ((l, pa) :: r)
      | x => x

/-- Addresses of a range, one for each 4 KiB page it meets. -/
def pagesOf (va n : Nat) : List Nat :=
  if n = 0 then [] else va :: (List.range ((va + n - 1) / 4096 - va / 4096)).map (fun i => (va / 4096 + i + 1) * 4096)

/-! ## Logical time (R344, R345) -/

/-- A core's LTIME raised to at least v; the tick notes a real increase. -/
def State.raiseLtime (s : State) (c : Nat) (v : Word32) : State :=
  s.modCore c (fun k => if later 32 v.toNat k.ltime.toNat then { k with ltime := v, raised := true } else k)

/-- The record of a line at a home; a line without one reads wts = rts = mts, a marked one is first raised (R347, R348). -/
def tsGet (h : Home) (floor : Word32) (line : Nat) : Word32 × Word32 :=
  match (mvals h.recs).find? (fun r => r.line = line) with
  | none => (h.mts, h.mts)
  | some r =>
    let f := floor - 0x40000000
    if r.mark then (tmax f r.wts, tmax f r.rts) else (r.wts, r.rts)

/-- The record that goes when all are in use: the earliest rts, the lowest index (R347). -/
def tsVictim (recs : SMap TsRec) : Option (Nat × TsRec) :=
  recs.foldl (fun best p => match best with
    | none => some p
    | some b => if later 32 b.2.rts.toNat p.2.rts.toNat then some p else some b) none

/-- The lines with an access in progress at their home: a request sent and not performed, or one of a register's fill or a copy slot
that stands at the stack (R347). -/
def busyLines (s : State) : List Nat :=
  (mvals s.reqs).filterMap (fun r => match r.stage with
    | .sent => if r.cls = .coh then some (lineOf r.pa) else none
    | _ => none) ++ s.drams.flatMap (fun m => m.2.queues.flatMap (fun q => q.2.map (fun r => lineOf r.pa)))

/-- A home with the record of a line set (R347); its 65,536 records make room by eviction into mts, those of busy lines apart. -/
def tsSet (busy : List Nat) (h : Home) (line : Nat) (wts rts : Word32) : Home :=
  let r : TsRec := { line := line, wts := wts, rts := rts, mark := false }
  match h.recs.find? (fun p => p.2.line = line) with
  | some (i, _) => { h with recs := mset i r h.recs }
  | none =>
    if h.recs.length < 65536 then { h with recs := mset (lowestFree h.recs) r h.recs }
    else
      match tsVictim (h.recs.filter (fun p => !busy.contains p.2.line)) with
      | none => h
      | some (i, v) => { h with recs := mset i r h.recs, mts := tmax v.rts h.mts }

/-- The write time that a store gets at its home: max(rts + 1, lt) and, for releases and atomics, RELTS (Table 16-3). -/
def storeTime (h : Home) (floor : Word32) (line : Nat) (lts : List Word32) : Word32 :=
  lts.foldl tmax ((tsGet h floor line).2 + 1)

/-- A home after a store to a line at a write time. -/
def State.stamp (s : State) (pa : Nat) (w : Word32) : State :=
  s.modHome (homeOf pa) (fun h => tsSet (busyLines s) h (lineOf pa) w w)

/-- A home after a load of a line by a core (Table 16-3): rts := max(rts, LTIME + lease). -/
def loadTime (h : Home) (floor : Word32) (line : Nat) (lt : Word32) (lease : Nat) : Word32 × Word32 :=
  let t := tsGet h floor line
  (t.1, tmax (lt + BitVec.ofNat 32 lease) t.2)

/-- A time that only a floor broadcast may let be set (R348). -/
def beyondFloor (s : State) (v : Word32) : Bool := later 32 v.toNat (s.dev.floor + 0x20000000).toNat

/-! ## Ticks and floor broadcasts (R344, R348) -/

/-- The end of a tick at one core. -/
def Core.tick (k : Core) : Core := { k with ltime := if k.raised then k.ltime else k.ltime + 1, raised := false }

/-- A core at a broadcast: raised to the floor, its old COH copies dropped. -/
def Core.atFloor (f : Word32) (k : Core) : Core :=
  { k with
    ltime := tmax f k.ltime
    raised := k.raised || later 32 f.toNat k.ltime.toNat
    l1 := k.l1.filter (fun l => !(l.coh && later 32 f.toNat l.rts.toNat)) }

/-- A home at a broadcast: mts raised, the records that no access has touched since the last one evicted, the others
marked; `old` is the floor until now. -/
def Home.atFloor (old f : Word32) (h : Home) : Home :=
  let low := f - 0x40000000
  let mts := tmax low h.mts
  let gone := h.recs.filter (fun r => r.2.mark)
  { h with
    mts := gone.foldl (fun m r => tmax (tmax (old - 0x40000000) r.2.rts) m) mts
    recs := (h.recs.filter (fun r => !r.2.mark)).map (fun r => (r.1, { r.2 with mark := true })) }

/-- The latest LTIME of the 256 cores, measured from the floor. -/
def latestLtime (s : State) : Word32 :=
  (List.range 256).foldl (fun m c =>
    let v := (s.core c).ltime
    if sext (v - s.dev.floor).toNat 32 > sext (m - s.dev.floor).toNat 32 then v else m) (s.core 0).ltime

/-- A floor broadcast (R348). -/
def State.broadcast (s : State) : State :=
  let old := s.dev.floor
  let f := latestLtime s - 0x01000000
  let s := each (List.range 256) (fun c s => s.modCore c (Core.atFloor f)) s
  let s := each (List.range 64) (fun h s => s.modHome h (Home.atFloor old f)) s
  s.modDev (fun d => { d with floor := f, floorTick := d.ticks })

/-- An access that would set a time past the limit waits until an early broadcast has ended (R348). -/
def State.floorFor (s : State) (w : State → Word32) : State := if beyondFloor s (w s) then s.broadcast else s

/-- Has a tick ended that the cores have not counted (R344)? -/
def tickDue (s : State) : Bool := decide (s.dev.ticks < s.cyc.toNat / 256)

/-- The tick that has ended counted by every core, with the broadcasts that it calls for (R344, R348). -/
def State.endTick (s : State) : State :=
  if !tickDue s then s
  else
    let s := if (List.range 256).any (fun c => beyondFloor s ((s.core c).tick.ltime)) then s.broadcast else s
    let s := (each (List.range 256) (fun c s => s.modCore c Core.tick) s).modDev (fun d => { d with ticks := d.ticks + 1 })
    if s.dev.floorTick + 2 ^ 24 ≤ s.dev.ticks then s.broadcast else s

/-! ## Cached lines (R332-R334) -/

def lineFind (ls : List CLine) (key line : Nat) (coh : Bool) : Option CLine :=
  ls.find? (fun l => l.line = line && l.key = key && l.coh = coh)

/-- Is it the same line? -/
def CLine.same (x y : CLine) : Bool := x.line = y.line && x.key = y.key && x.coh = y.coh

/-- Lines stand from the least to the most recently used. A line changed where it stands, and put at the end or, with
`lru`, at the front (R110). -/
def lineSet (ls : List CLine) (l : CLine) : List CLine := ls.map (fun x => if x.same l then l else x)
def linePut (ls : List CLine) (l : CLine) (lru : Bool) : List CLine :=
  let r := ls.filter (fun x => !x.same l)
  if lru then l :: r else r ++ [l]

/-- Bytes of a line overwritten by those a mask names. -/
def maskMerge (mask : BitVec 128) (new old : List Byte) : List Byte :=
  tab 128 (fun i => if mask.getLsbD i then new.getD i 0 else old.getD i 0)

/-- The mask of n bytes from an offset in a line. -/
def spanMask (off n : Nat) : BitVec 128 := BitVec.ofNat 128 ((2 ^ n - 1) * 2 ^ off)

/-- 128 bytes with n bytes at an offset. -/
def spanData (off : Nat) (bs : List Byte) : List Byte := splice (List.replicate 128 0) off bs

/-- Does a cache hold every byte of a line? -/
def CLine.full (l : CLine) : Bool := l.valid = BitVec.allOnes 128

/-- The dirty bytes of one DLC line sent to memory, which the line's next readers there stand behind (R334, R360). -/
def State.toMem (s : State) (d : Nat) (l : CLine) : State :=
  (s.fresh.toDram l.orig (128 * l.line) true l.key s.nextId (some { mask := l.dirty, data := l.data, poison := l.poison, pav := l.pav })).modDie d
    (fun x => { x with dlc := lineSet x.dlc { l with dirty := 0 } })

/-- Room made in a DLC set of 16 ways: its least recently used line leaves (Table 1-3, log 14). -/
def State.roomDlc (s : State) (d line : Nat) : State :=
  let set := (s.die d).dlc.filter (fun l => l.line % 8192 = line % 8192)
  if set.length < 16 then s
  else
    match set with
    | [] => s
    | v :: _ =>
      let s := if v.dirty = 0 then s else s.toMem d v
      s.modDie d (fun x => { x with dlc := x.dlc.filter (fun y => !y.same v) })

/-- A line put into a die's DLC. -/
def State.putDlc (s : State) (d : Nat) (l : CLine) (lru : Bool) : State :=
  let s := if (lineFind (s.die d).dlc l.key l.line l.coh).isSome then s else s.roomDlc d l.line
  s.modDie d (fun x => { x with dlc := linePut x.dlc l lru })

/-- A DLC line with the bytes of a mask written over it: poison stays but for a write of the whole line (R365). -/
def CLine.merge (b : CLine) (mask : BitVec 128) (data : List Byte) (poison : Bool) (o : Orig) : CLine :=
  { b with
    data := maskMerge mask data b.data
    valid := b.valid ||| mask
    dirty := b.dirty ||| mask
    orig := o
    poison := poison || (b.poison && decide (mask ≠ BitVec.allOnes 128)) }

/-- The dirty bytes of one L1 line written back to the DLC, which holds only them where it did not hold the line (R334). -/
def State.toDlc (s : State) (c : Nat) (l : CLine) : State :=
  let b := match lineFind (s.die (dieOf c)).dlc l.key l.line false with
    | some b => b
    | none => { l with valid := 0, dirty := 0, poison := false }
  let s := s.putDlc (dieOf c) (b.merge l.dirty l.data l.poison l.orig) false
  s.modCore c (fun x => { x with l1 := lineSet x.l1 { l with dirty := 0 } })

/-- Room made in an L1 set of 4 ways: its least recently used line leaves, a copy of a COH line with no message (R345). -/
def State.roomL1 (s : State) (c line : Nat) : State :=
  let set := (s.core c).l1.filter (fun l => l.line % 128 = line % 128)
  if set.length < 4 then s
  else
    match set with
    | [] => s
    | v :: _ =>
      let s := if v.dirty = 0 then s else s.toDlc c v
      s.modCore c (fun x => { x with l1 := x.l1.filter (fun y => !y.same v) })

/-- A line put into a core's L1. -/
def State.putL1 (s : State) (c : Nat) (l : CLine) (lru : Bool) : State :=
  let s := if (lineFind (s.core c).l1 l.key l.line l.coh).isSome then s else s.roomL1 c l.line
  s.modCore c (fun x => { x with l1 := linePut x.l1 l lru })

/-- A line as memory gives it, with the bytes that the die's DLC holds of it (R332). -/
def dlcLine (s : State) (d pav key line : Nat) : CLine :=
  let data := s.bytesK key (128 * line) 128
  match lineFind (s.die d).dlc key line false with
  | some l => if l.full then l else { l with
      data := maskMerge l.valid l.data data
      valid := BitVec.allOnes 128
      poison := l.poison || s.poison.contains line }
  | none => { line := line, key := key, pav := pav, coh := false, data := data, valid := BitVec.allOnes 128, dirty := 0,
              orig := { req := 0, svc := 0, deadline := 0 }, wts := 0, rts := 0, poison := s.poison.contains line }

/-- Does a core find a whole PRIV or RSHR line in its L1 or its die's DLC, with no access to memory (R332)? -/
def privHit (s : State) (c key line : Nat) : Bool :=
  (lineFind (s.core c).l1 key line false).isSome || ((lineFind (s.die (dieOf c)).dlc key line false).any CLine.full)

/-- A PRIV or RSHR line read by a core: from its L1, or through the DLC under the hint rd (R110, R332): what misses there comes
from memory, whose request has been served. A store with rd 3 makes its line the least recently used of its L1 set, and rd 2 or 3
also that of the DLC set, where the DLC held it already (log 48, DESIGN CHOICE: R110 speaks of a load miss and a missing line). -/
def State.fetchPriv (s : State) (c pav key line rd : Nat) (load : Bool) : State × CLine :=
  match lineFind (s.core c).l1 key line false with
  | some l => (s.putL1 c l false, l)
  | none =>
    let l := dlcLine s (dieOf c) pav key line
    let s := s.putDlc (dieOf c) l (decide (2 ≤ rd))
    let l1 : CLine := { l with dirty := 0 }
    if load && rd = 3 then (s, l1) else (s.putL1 c l1 (decide (2 ≤ rd)), l1)

/-- A PRIV or RSHR line that memory gives put into a die's DLC, under what the DLC holds of it (R110, R332, R365). -/
def State.fillPriv (s : State) (c pav key line rd : Nat) : State :=
  s.putDlc (dieOf c) (dlcLine s (dieOf c) pav key line) (decide (2 ≤ rd))

/-- The lines that a list of parts meets, each once, with key and class. -/
def partLines (ps : List VPart) : List VPart :=
  ps.foldl (fun a p => if a.any (fun q => lineOf q.pa = lineOf p.pa && q.key = p.key && q.cls = p.cls) then a else a ++ [p]) []

/-- The copy of a COH line in a core's L1 whose lease has not run out (R345, R349). -/
def cohValid (s : State) (c key line : Nat) : Option CLine :=
  (lineFind (s.core c).l1 key line true).filter (fun x => !later 32 (s.core c).ltime.toNat x.rts.toNat)

/-- Does a core read a line's bytes from memory, having no copy that it may use? -/
def readsMemory (s : State) (c : Nat) (p : VPart) : Bool :=
  match p.cls with
  | .dev => true
  | .coh => (cohValid s c p.key (lineOf p.pa)).isNone
  | _ => !privHit s c p.key (lineOf p.pa)

/-- Has an owner's request for the line of an address been served, and its answer come? -/
def State.servedHere (s : State) (own pa : Nat) : Bool := (dramOf s own pa).any (fun r => r.served && s.here r)

/-- The requests to memory that an owner's reads need sent, each line's once, while the core's reassembly table has an entry for its
answer of two flits, which the answer frees; true once all answers have come (R361, R410, R411). -/
def State.needLines (s : State) (c : Nat) (o : Orig) (own pav cap : Nat) (ps : List VPart) : State × Bool :=
  let need := (partLines ps).filter (readsMemory s c)
  let back := each (need.filter (fun p => s.servedHere own p.pa)) (fun p s => s.freeLine c own (lineOf p.pa)) s
  let ask := fun (s : State) (p : VPart) =>
    if reasmFree s c then ((s.takeEntry c own (lineOf p.pa)).lineRequest c flRead own 1 p.pa pav cap).toDram o p.pa false p.key own none
    else s
  let s' := each (need.filter (fun p => (dramOf s own p.pa).isNone)) (fun p s => ask s p) back
  (s', need.all (fun p => s.servedHere own p.pa))

/-- The request that a write of n bytes of a line at its home needs sent, 64 in each flit; true once it has been served. -/
def State.needWrite (s : State) (c : Nat) (o : Orig) (own pav cap pa key n : Nat) : State × Bool :=
  match dramOf s own pa with
  | some r => (s, r.served)
  | none => ((s.lineRequest c flWrite own ((n + 63) / 64) pa pav cap).toDram o pa true key own none, false)

/-- Bytes written into a PRIV line of a core's L1 (R332); a write of the whole line clears its poison (R365). -/
def State.writePriv (s : State) (o : Orig) (c pav key line rd : Nat) (mask : BitVec 128) (data : List Byte) : State :=
  let (s, l) := s.fetchPriv c pav key line rd false
  s.modCore c (fun x => { x with l1 := lineSet x.l1 { l with
    data := maskMerge mask data l.data
    dirty := l.dirty ||| mask
    orig := o
    poison := l.poison && decide (mask ≠ BitVec.allOnes 128) } })

/-- Release action of PRIV lines up to die or device scope (R334). -/
def State.releaseCaches (s : State) (c pav key : Nat) (dev : Bool) : State :=
  let s := each ((s.core c).l1.filter (fun l => !l.coh && l.key = key && l.pav = pav && l.dirty ≠ 0)) (fun l s => s.toDlc c l) s
  if dev then
    each ((s.die (dieOf c)).dlc.filter (fun l => l.key = key && l.pav = pav && l.dirty ≠ 0)) (fun l s => s.toMem (dieOf c) l) s
  else s

/-- Acquire action: clean PRIV and RSHR lines dropped from the L1, and from the DLC at device scope (R334). -/
def State.acquireCaches (s : State) (c pav key : Nat) (dev : Bool) : State :=
  let stay := fun (l : CLine) => l.coh || l.key ≠ key || l.pav ≠ pav || l.dirty ≠ 0
  let s := s.modCore c (fun x => { x with l1 := x.l1.filter stay })
  if dev then s.modDie (dieOf c) (fun x => { x with dlc := x.dlc.filter stay }) else s

def scopeNum : Scope → Nat
  | .task => 0 | .core => 1 | .die => 2 | .dev => 3 | .sys => 4

/-- The release actions of Table 16-2 up to a scope: caches, and at device scope LTIME := max(LTIME, RELTS). -/
def State.releaseAt (s : State) (c : Nat) (t : Task) (sc : Scope) : State :=
  let s := if scopeNum sc ≥ 2 then s.releaseCaches c t.pav t.key (scopeNum sc ≥ 3) else s
  if scopeNum sc ≥ 3 then s.raiseLtime c t.relts else s

/-- The acquire actions of Table 16-2 up to a scope; w is the write time of what was read, or RDTS (R345). -/
def State.acquireAt (s : State) (c : Nat) (t : Task) (sc : Scope) (w : Word32) : State :=
  let s := if scopeNum sc ≥ 2 then s.acquireCaches c t.pav t.key (scopeNum sc ≥ 3) else s
  if scopeNum sc ≥ 3 then s.raiseLtime c w else s

/-! ## Device accesses to a pavilion's memory at device scope -/

/-- Bytes at a virtual address as the device reads them at their homes: none where a page fails as a read. -/
def State.readVa (s : State) (die pav va n : Nat) : Option (List Byte) :=
  let pages := pagesOf va n
  let now := s.settle (fun r => r.pay.isSome)
  if pages.all (fun p => match xlateNow s die pav p .read with | .ok _ _ => true | _ => false) then
    some (tab n (fun i => match xlateNow s die pav (va + i) .read with | .ok l pa => now.byteK l.key pa | _ => 0))
  else none

/-- Bytes written by the device at a virtual address, as a store of their lines at their homes, not before some times (R345); unchanged
where a page fails as a write. -/
def State.writeVa (s : State) (die pav va : Nat) (bs : List Byte) (lts : List Word32 := []) : State :=
  match xlateNow s die pav va .write with
  | .ok l pa =>
    let s' := (s.settle (fun r => decide (r.pa < pa + bs.length) && decide (pa < r.pa + 128))).store l.key pa bs
    let w := fun (s : State) => storeTime (s.home (homeOf pa)) s.dev.floor (lineOf pa) lts
    if l.cls = .coh then (s'.floorFor w).stamp pa (w (s'.floorFor w)) else s'
  | _ => s

/-- The class of the page of a virtual address, if it translates. -/
def State.classAt (s : State) (die pav va : Nat) : Option PClass :=
  match xlateNow s die pav va .read with
  | .ok l _ => some l.cls
  | _ => none

/-- Does a request read for its stream? -/
def Req.loads (r : Req) : Bool :=
  match r.kind with
  | .load .. | .amo .. | .cas .. | .desc _ => true
  | _ => false

end Sys2Proof.Machine
end

