-- ==== Sys2Proof/Machine/Region.lean ====
section
/-!
DEFINITION. Region control blocks read from memory: validity and effective values (spec/11 R273-R275, Table 11-1).
-/

namespace Sys2Proof.Machine

/-- The die on which the device's own accesses for a pavilion are made: that of its host bridge (R25). -/
def bridgeDie (pav : Nat) : Nat := if pav = 128 ∨ pav % 2 = 0 then 0 else 3

/-- Is the host bridge of a pavilion in service (R25)? -/
def bridgeUp (s : State) (pav : Nat) : Bool := s.dev.bridges.contains (bridgeDie pav)

/-- Endpoint counters changed. -/
def State.count (s : State) (pav : Nat) (f : Counters → Counters) : State := s.modPav pav (fun p => { p with ctr := f p.ctr })

/-- A message sent by a pavilion's endpoint through its host bridge, counted in TXF (R25, R248, R268). -/
def State.send (s : State) (pav : Nat) (m : HostMsg) : State :=
  if bridgeUp s pav then { (s.count pav (fun c => { c with txf := c.txf + 1 })) with out := s.out ++ [m] } else s

/-- The bytes of region g's control block: 64-byte aligned, on a COH page (R273). -/
def rcbAt (s : State) (pav g : Nat) : Option (List Byte) :=
  match s.pav? pav with
  | none => none
  | some p =>
    if g ≥ p.rtlen then none
    else
      match s.readVa (bridgeDie pav) pav (p.rtab.toNat + 8 * g) 8 with
      | none => none
      | some b =>
        let a := natOf b
        if a % 64 ≠ 0 ∨ s.classAt (bridgeDie pav) pav a ≠ some .coh then none
        else s.readVa (bridgeDie pav) pav a 64

/-- The control blocks from region g up to the root, at most n of them (R275). -/
def rcbChain (s : State) (pav : Nat) : Nat → Nat → Option (List (List Byte))
  | 0, _ => none
  | n + 1, g =>
    match rcbAt s pav g with
    | none => none
    | some b =>
      let parent := field b 0 2
      if g = 0 then (if parent = 0xFFFF then some [b] else none)
      else if parent = 0xFFFF then none
      else
        match rcbChain s pav n parent with
        | none => none
        | some r => some (b :: r)

/-- Override bit n of a control block; region 0 reads every one as set (R274). -/
def ovr (root : Bool) (b : List Byte) (n : Nat) : Bool := root || nbit (field b 2 2) n

/-- One control block's fields within Table 11-1. -/
def rcbOk (pav : Nat) (b : List Byte) : Bool :=
  let top := if pav = 128 then 23 else 21
  let flags := field b 4 4
  let inR := fun (x lo hi : Nat) => decide (lo ≤ x) && decide (x ≤ hi)
  nbits (field b 2 2) 15 11 = 0 && flags / 128 = 0 && nbits flags 4 3 ≠ 3 && nbits flags 6 5 ≠ 3
  && inR (field b 0x08 2) 1 256 && inR (field b 0x0A 2) 1 16384 && field b 0x0C 2 ≠ 0 && inR (field b 0x0E 1) 0 64
  && inR (field b 0x0F 1) 1 12 && inR (field b 0x10 1) 0 top && inR (field b 0x11 1) 0 (field b 0x10 1)
  && inR (field b 0x12 1) (field b 0x10 1) 255 && field b 0x13 1 ≠ 0 && field b 0x14 2 ≠ 0 && field b 0x16 1 ≤ 3
  && field b 0x17 1 = 0 && field b 0x1B 1 = 0 && field b 0x1C 1 ≤ 128 && field b 0x1D 1 ≠ 0 && field b 0x1E 2 = 0
  && field b 0x28 4 ≠ 0 && field b 0x2C 4 = 0 && field b 0x38 8 = 0

/-- The smaller cap, 0 counting as none (INJCAP). -/
def capMin (x y : Nat) : Nat := if x = 0 then y else if y = 0 then x else min x y

/-- A control block's own values. -/
def ownEff (b : List Byte) : Eff :=
  let flags := field b 4 4
  { accu := nbit flags 0, recovery := nbit flags 1, sysSvc := nbit flags 2, policy := nbits flags 4 3,
    wdMode := nbits flags 6 5, maxCores := field b 0x08 2, lineCap := field b 0x0A 2,
    wayMask := BitVec.ofNat 16 (field b 0x0C 2), banks := field b 0x0E 1, winLim := field b 0x0F 1,
    prio := field b 0x10 1, floor := field b 0x11 1, ceil := field b 0x12 1, lease := field b 0x13 1,
    weight := field b 0x14 2, svc := nbits (field b 0x16 1) 1 0, deadline := field b 0x18 3, injCap := field b 0x1C 1,
    storm := field b 0x1D 1, energy := field b 0x20 8, wdWin := field b 0x28 4, fq := field b 0x30 8 }

/-- A child's effective values under its parent's (R274). -/
def underParent (b : List Byte) (p : Eff) : Eff :=
  let o := ownEff b
  let v := ovr false b
  { accu := if v 0 then o.accu else p.accu, recovery := if v 0 then o.recovery else p.recovery
    sysSvc := if v 0 then o.sysSvc else p.sysSvc, policy := if v 0 then o.policy else p.policy
    wdMode := if v 0 then o.wdMode else p.wdMode
    maxCores := if v 1 then min o.maxCores p.maxCores else p.maxCores
    lineCap := if v 2 then min o.lineCap p.lineCap else p.lineCap
    wayMask := if v 2 then o.wayMask &&& p.wayMask else p.wayMask
    banks := if v 3 then min o.banks p.banks else p.banks
    winLim := if v 3 then min o.winLim p.winLim else p.winLim
    prio := if v 4 then o.prio else p.prio, floor := if v 4 then o.floor else p.floor
    ceil := if v 4 then min o.ceil p.ceil else p.ceil
    lease := if v 5 then o.lease else p.lease, weight := if v 6 then o.weight else p.weight
    svc := if v 7 then o.svc else p.svc, deadline := if v 7 then o.deadline else p.deadline
    injCap := if v 8 then capMin o.injCap p.injCap else p.injCap, storm := if v 8 then o.storm else p.storm
    energy := if v 9 then o.energy else p.energy, wdWin := if v 9 then o.wdWin else p.wdWin
    fq := if v 10 then o.fq else p.fq }

/-- Effective values along a chain, own block first. -/
def effOf : List (List Byte) → Option Eff
  | [] => none
  | [b] => some (ownEff b)
  | b :: r =>
    match effOf r with
    | none => none
    | some p => some (underParent b p)

/-- A region's effective values, if it is valid (R274, R275); the management pavilion always has the system-service flag
(R241), and CEIL and PRIO of tenants are limited to 21. -/
def regionEff (s : State) (pav g : Nat) : Option Eff :=
  match rcbChain s pav 8 g with
  | none => none
  | some c =>
    if !c.all (rcbOk pav) then none
    else
      match effOf c with
      | none => none
      | some e =>
        some (if pav = 128 then { e with sysSvc := true } else { e with ceil := min e.ceil 21, prio := min e.prio 21 })

/-- The values that stand for a region with no valid control block: nothing allowed, every fault kills (R376). -/
def noEff : Eff :=
  { accu := false, recovery := false, sysSvc := false, policy := 0, wdMode := 0, maxCores := 0, lineCap := 0, wayMask := 0,
    banks := 0, winLim := 0, prio := 0, floor := 0, ceil := 0, lease := 0, weight := 0, svc := 0, deadline := 0,
    injCap := 0, storm := 0, energy := 0, wdWin := 0, fq := 0 }

end Sys2Proof.Machine
end

