-- ==== Sys2Proof/Machine/Ops.lean ====
section
/-!
DEFINITION. The operations that many meanings share: moving past an instruction, ending a block, tokens; the scalar result
queue; event values, fault records and fault queues; stopping, ending and killing tasks; taking a fault and RESUME's
return from one (spec/02 R35-R41, spec/04 R86-R91, spec/10 R263, R270-R271, spec/19 R373-R394).
-/

namespace Sys2Proof.Machine

/-! ## Streams: the next instruction, loops, blocks (R35-R41) -/

/-- The body length L of a header (Table 2-2). -/
def hdrLen (h : Word32) : Nat := nbits h.toNat 27 19
/-- The first parcel after a context's block. -/
def StreamCtx.blkEnd (x : StreamCtx) : BitVec 17 := x.blk + 2 + BitVec.ofNat 17 (hdrLen x.hdr)

/-- A count after one pass: it drops by one, and a written 0 stays (R35, R40, R216). -/
def dropCount (c : Word32) : Word32 := if c = 0 then 0 else c - 1

/-- A block ended: what its completion leads to is kept, both loop levels are inactive (R40). -/
def StreamCtx.endBlock (x : StreamCtx) (a : After) : StreamCtx := { x with phase := .draining a, l1 := none, l2 := none }

/-- The end of the body reached: a repeat ends, or the block does (R35, R37). -/
def StreamCtx.endRepeat (x : StreamCtx) : StreamCtx :=
  let n := dropCount x.lc0
  if n = 0 then { x with lc0 := n }.endBlock .header
  else { x with lc0 := n, pc := x.blk + 2, l1 := none, l2 := none }

/-- Does an active level end at the pc? -/
def endsAt (l : Option (BitVec 17 × BitVec 17)) (pc : BitVec 17) : Option (BitVec 17) :=
  match l with
  | some (b, e) => if e = pc then some b else none
  | none => none

/-- Loop and block ends at the pc, the inner level first (R40). -/
def StreamCtx.settle : Nat → StreamCtx → StreamCtx
  | 0, x => x
  | n + 1, x =>
    let one := fun (b : BitVec 17) =>
      let c := dropCount x.lc1
      if c = 0 then StreamCtx.settle n { x with lc1 := c, l1 := none } else { x with lc1 := c, pc := b }
    let two := fun (b : BitVec 17) =>
      let c := dropCount x.lc2
      if c = 0 then StreamCtx.settle n { x with lc2 := c, l2 := none } else { x with lc2 := c, pc := b }
    match endsAt x.l1 x.pc, endsAt x.l2 x.pc with
    | some b1, some b2 => if b1.toNat ≤ b2.toNat then two b2 else one b1
    | some b1, none => one b1
    | none, some b2 => two b2
    | none, none => if x.pc = x.blkEnd then x.endRepeat else x

/-- A context moved past n parcels. -/
def StreamCtx.advance (x : StreamCtx) (n : Nat) : StreamCtx := StreamCtx.settle 3 { x with pc := x.pc + BitVec.ofNat 17 n, feSince := none }

/-- An amount charged to an account, in units of 0.05 nJ (Table 11-5). -/
def State.charge (s : State) (acct n : Nat) : State :=
  match mfind acct s.accts with
  | none => s
  | some a => { s with accts := mset acct { a with charge := a.charge + n } s.accts }

/-- An amount charged to the issuing task's account. -/
def State.chargeCur (s : State) (n : Nat) : State :=
  match s.curTask with
  | none => s
  | some t => s.charge t.cr.lacct.toNat n

/-- The issue charge of a scalar instruction (Table 11-5); the common group of the other streams charges nothing (R288). -/
def State.chargeIssue (s : State) : State := if s.cur.stream = .s then s.chargeCur 1 else s

/-- The issuing stream moved past an instruction of n parcels that has issued. -/
def State.finish (s : State) (n : Nat) : State := s.chargeIssue.modSt (fun x => x.advance n)

/-! ## Tokens (R32, R36, R148) -/

/-- A token of a stream k of a task: it orders every change that the stream has made so far, its accesses, and those that were
ordered before them (R36, R112). -/
def newTok (s : State) (t : Task) (k : Stream) : Tok :=
  { upto := s.nextId, seen := tab 4 (fun i => if i = k.code then s.nextId else (t.st k).seen.getD i 0), bank := none, at_ := s.cyc }

/-- Tokens put into the FIFO between two streams. -/
def Task.sendToks (t : Task) (i j : Stream) (ts : List Tok) : Task := t.setFifo i j (t.fifo i j ++ ts)

/-- Has a FIFO room for n tokens? -/
def Task.room (t : Task) (i j : Stream) (n : Nat) : Bool := decide ((t.fifo i j).length + n ≤ fifoDepth)

/-- What a task knows of the orders that popped tokens make: the accesses ordered before what follows in the stream (R112); the M
changes its V stream has seen, per physical bank, the V drains its M stream has seen (R148). -/
def Task.observe (t : Task) (i j : Stream) (k : Tok) : Task :=
  let t := t.modSt j (fun x => { x with seen := seenBoth x.seen k.seen })
  match i, j with
  | .m, .v =>
    match k.bank with
    | some b => { t with vseen := mset b (max k.upto (mget b 0 t.vseen)) t.vseen }
    | none => { t with vseen := (t.bmap.foldl (fun m p => match p.2 with
        | .own b => mset b (max k.upto (mget b 0 m)) m
        | .alias_ .. => m) t.vseen) }
  | .v, .m => { t with mseen := max k.upto t.mseen }
  | _, _ => t

/-- n tokens taken from a FIFO, with the orders they make. -/
def Task.popToks (t : Task) (i j : Stream) (n : Nat) : Task :=
  let l := t.fifo i j
  (l.take n).foldl (fun t k => t.observe i j k) (t.setFifo i j (l.drop n))

/-! ## The scalar result queue (R86-R91) -/

/-- The value of a scalar source (R44). -/
def Task.src (t : Task) : SSrc → Word64
  | .s n => t.sreg n.val
  | .q n => t.q.getD n.val 0

/-- No earlier result is still to come into a source (R90). -/
def Task.srcReady (t : Task) : SSrc → Bool
  | .s n => t.pend.all (fun p => p.dst ≠ .s n)
  | .q n => t.pend.all (fun p => p.qpos ≠ some n.val)

/-- No earlier write of a destination is pending (R90). -/
def Task.dstReady (t : Task) : SDst → Bool
  | .s n => t.pend.all (fun p => p.dst ≠ .s n)
  | .none => true

/-- The queue shifted by one, with a new entry in Q1 (R87). -/
def Task.shiftQ (t : Task) (v : Word64) : Task :=
  { t with
    q := v :: t.q.take 15
    pend := t.pend.map (fun p => { p with qpos := match p.qpos with
      | some n => if n < 15 then some (n + 1) else none
      | none => none }) }

/-- A value written to a destination register. -/
def Task.setDst (t : Task) (d : SDst) (v : Word64) : Task :=
  match d with
  | .s n => t.setSreg n.val v
  | .none => t

/-- A result known at issue: it enters Q1 and its destination (R87). -/
def Task.result (t : Task) (d : SDst) (v : Word64) : Task := (t.shiftQ v).setDst d v

/-- At most eight results of a stream are in flight (R91). -/
def Task.canPend (t : Task) : Bool := decide (t.pend.length < 8)

/-- A result reserved at issue and filled when it arrives (R88). -/
def Task.reserve (t : Task) (p : SPend) : Task :=
  let t := t.shiftQ 0
  { t with pend := t.pend ++ [{ p with qpos := some 0 }] }

/-- The arrival of a reserved result. -/
def Task.arrive (t : Task) (p : SPend) (v : Word64) : Task :=
  let t := { t with pend := t.pend.filter (fun x => x.tag ≠ p.tag) }
  let t := match p.qpos with
    | some n => { t with q := lset t.q n v }
    | none => t
  t.setDst p.dst v

/-! ## Notification queues and device events (R239, R263, R270, R271) -/

/-- A value posted to a queue: stored while fewer than 256 are pending, else counted as dropped (R263). -/
def NQueue.post (q : NQueue) (cyc v : Word64) : NQueue :=
  if q.vals.length < 256 then { q with vals := q.vals ++ [(v, cyc)] }
  else
    { q with
      dropped := if q.dropped = BitVec.allOnes 32 then q.dropped else q.dropped + 1
      dropSince := some (q.dropSince.getD cyc) }

/-- A value posted to a pavilion's notification queue; none if the queue is not set up. -/
def State.postNq (s : State) (pav q : Nat) (v : Word64) : Option State :=
  match s.pav? pav with
  | none => none
  | some p =>
    match mfind q p.nqs with
    | none => none
    | some nq => some (s.modPav pav (fun p => { p with nqs := mset q (nq.post s.cyc v) p.nqs }))

/-- A device event value for a pavilion: to queue 0, or counted as undelivered (R271). -/
def State.postEvent (s : State) (pav : Nat) (v : Word64) : State :=
  match s.postNq pav 0 v with
  | some s => s
  | none => s.modPav pav (fun p => { p with undeliv := satInc p.undeliv })

/-! ## Fault records and fault queues (R375-R378) -/

/-- A fault record before it is written (Table 19-2). -/
structure FRec where
  code : BitVec 8
  stream : Nat
  flags : Nat
  pav : Nat
  region : Nat
  aux : Nat
  taskid : Word32
  iaddr : Nat
  faddr : Word64
  attach : List Byte
  deriving DecidableEq, Repr

/-- The 64 bytes of a record. -/
def FRec.bytes (r : FRec) (cyc : Word64) : List Byte :=
  bytesOf 1 r.code.toNat ++ bytesOf 1 r.stream ++ bytesOf 1 r.flags ++ bytesOf 1 r.pav ++ bytesOf 2 r.region
    ++ bytesOf 2 r.aux ++ bytesOf 4 r.taskid.toNat ++ bytesOf 4 r.iaddr ++ bytesOf 8 cyc.toNat ++ bytesOf 8 r.faddr.toNat
    ++ slice r.attach 0 32

/-- A fault queue's header, if it is valid: CAP, HEAD, TAIL, LOST (R376, Table 19-3). -/
structure FqHead where
  cap : Nat
  head : Nat
  tail : Nat
  lost : Nat
  deriving DecidableEq, Repr

def fqHead (s : State) (pav fq : Nat) : Option FqHead :=
  let d := bridgeDie pav
  if fq = 0 ∨ fq % 64 ≠ 0 ∨ s.classAt d pav fq ≠ some .coh then none
  else
    match s.readVa d pav fq 64 with
    | none => none
    | some b =>
      let cap := field b 0 4
      if cap < 16 ∨ cap > 65536 ∨ 2 ^ Nat.log2 cap ≠ cap ∨ field b 0x10 16 ≠ 0 then none
      else some { cap := cap, head := field b 4 4, tail := field b 8 4, lost := field b 12 4 }

/-- The home agent of an address of a pavilion, and the write time of its line. -/
def agentAt (s : State) (pav va : Nat) : Nat × Word32 :=
  match xlateNow s (bridgeDie pav) pav va .read with
  | .ok _ pa => (homeOf pa, (tsGet (s.home (homeOf pa)) s.dev.floor (lineOf pa)).1)
  | _ => (0, 0)

/-- The handler CR of a queue submitted to a dispatcher, unless one of the queue is still queued and unstarted (R376). -/
def State.submitHandler (s : State) (pav region fq : Nat) : State :=
  match s.pav? pav with
  | none => s
  | some p =>
    let waits := p.handlers.any (fun h => h.1 = fq) || s.crsubs.any (fun c => c.2.pav = pav && match c.2.src with
      | .handler q .. => q = fq
      | _ => false)
    if waits then s
    else
      let rec_ := (s.readVa (bridgeDie pav) pav (fq + 0x20) 32).getD []
      let at_ := agentAt s pav fq
      { s.fresh with crsubs := mset s.nextId { pav := pav, rec_ := rec_, addr := fq + 0x20, src := .handler fq region at_.1, acct := none, checked := false, ts := at_.2 }
                       s.crsubs }

/-- Faults of a region in the current 2^20-cycle window (R378). -/
def faultWindow (s : State) : Nat := s.cyc.toNat / 2 ^ 20
def fltCount (s : State) (p : Pav) (region : Nat) : Nat :=
  match mfind region p.fltcnt with
  | some (n, w) => if w = faultWindow s then n.toNat else 0
  | none => 0

/-- A record written to a fault queue with its event value and handler, or LOST counted; false where the queue is none or
invalid (R376). -/
def State.writeRecord (s : State) (fq : Nat) (r : FRec) : State × Bool :=
  match fqHead s r.pav fq with
  | none => (s, false)
  | some h =>
    let d := bridgeDie r.pav
    if (h.head + 2 ^ 32 - h.tail) % 2 ^ 32 < h.cap then
      let s := s.writeVa d r.pav (fq + 64 + 64 * (h.head % h.cap)) (r.bytes s.cyc)
      let s := s.writeVa d r.pav (fq + 4) (bytesOf 4 (h.head + 1))
      let ev := BitVec.ofNat 64 (h.head * 2 ^ 32 + r.region * 2 ^ 16 + 2 * 2 ^ 8 + r.code.toNat)
      let g := if r.region = 0xFFFF then 0 else r.region
      (((s.postEvent r.pav ev).submitHandler r.pav g fq), true)
    else
      (s.writeVa d r.pav (fq + 12) (bytesOf 4 (min (h.lost + 1) (2 ^ 32 - 1))), true)

/-- A device-event record for a pavilion: to region 0's queue, or counted as undelivered (R271, R387). -/
def State.deviceEvent (s : State) (pav : Nat) (code : BitVec 8) (key : Nat) (faddr : Word64) (phys : Bool) : State :=
  let fq := ((regionEff s pav 0).getD noEff).fq
  let r : FRec := { code := code, stream := 5, flags := if phys then 4 else 0, pav := pav, region := 0xFFFF, aux := key,
                    taskid := 0, iaddr := 0, faddr := faddr, attach := [] }
  match s.writeRecord fq r with
  | (s, true) => s
  | (s, false) => s.modPav pav (fun p => { p with undeliv := satInc p.undeliv })

/-- An item status record (Table 19-9). -/
def itemRec (kind istat : Nat) (code : BitVec 8) (region len id count : Nat) (faddr : Word64) : List Byte :=
  bytesOf 1 kind ++ bytesOf 1 istat ++ bytesOf 1 code.toNat ++ bytesOf 1 0 ++ bytesOf 2 region ++ bytesOf 2 len
    ++ bytesOf 8 id ++ bytesOf 8 count ++ bytesOf 8 faddr.toNat

/-- The 32 bytes of a copy slot record (Table 7-2): a failure shows once the slot is FAILED or PAUSED. -/
def slotRec (x : CopySlot) : List Byte :=
  let bad := x.state = 2 || x.state = 4
  bytesOf 4 x.iaddr.toNat ++ bytesOf 1 x.major.toNat ++ bytesOf 1 x.state ++ bytesOf 1 (if bad then x.cause.toNat else 0)
    ++ bytesOf 1 x.detail.toNat ++ bytesOf 8 x.bytes ++ bytesOf 4 x.count2 ++ bytesOf 4 0
    ++ bytesOf 8 (if bad then x.faddr.toNat else 0)

/-- The 32 bytes of an MMK counter record (Table 6-4). -/
def runRec (x : MRun) : List Byte :=
  bytesOf 4 x.word.toNat ++ bytesOf 2 x.ext.toNat ++ bytesOf 2 x.step ++ bytesOf 8 0 ++ bytesOf 8 x.acrd.toNat
    ++ bytesOf 8 x.bcrd.toNat

/-! ## Scores (R367, R369) -/

/-- The end of a cycle on which a stack's scores are halved: rounding down, rows at 0 leave the hot list. -/
def Stack.endCycle (k : Stack) : Stack :=
  if !k.halving then k
  else
    let scores := (k.scores.map (fun p => (p.1, p.2 / 2))).filter (fun p => p.2 ≠ 0)
    { k with scores := scores, hot := k.hot.filter (fun r => (mfind r scores).isSome), halving := false }

/-! ## Launch accounts (R288, R289) -/

/-- The launch record that an account belongs to, changed. -/
def State.modLaunch (s : State) (acct : Nat) (f : Launch → Launch) : State :=
  match mfind acct s.accts with
  | none => s
  | some a => s.modPav a.pav (fun p => match mfind a.lid p.launches with
      | some l => { p with launches := mset a.lid (f l) p.launches }
      | none => p)

/-- Every queued CR of the device. -/
def State.queued (s : State) : List QCr := s.dies.flatMap (fun d => d.2.levels.flatMap (fun l => l.2.crs))

/-- Is an account still in use: by a task, a CR or a record on its way (R288)? -/
def acctInUse (s : State) (acct : Nat) : Bool :=
  s.tasks.any (fun t => t.2.2.cr.lacct.toNat = acct) || s.queued.any (fun q => q.cr.lacct.toNat = acct)
    || s.crsubs.any (fun c => match c.2.acct with | some a => a.toNat = acct | none => false)
    || s.saved.any (fun v => v.2.task.cr.lacct.toNat = acct)
    || s.cores.any (fun c => c.2.starting.any (fun r => r.2.cr.lacct.toNat = acct))

/-- An account freed once nothing of its launch is left; the launch record keeps its charge (R288, R268). -/
def State.freeAcct (s : State) (acct : Nat) : State :=
  if acctInUse s acct then s
  else
    match mfind acct s.accts with
    | none => s
    | some a =>
      let s := s.modLaunch acct (fun l => { l with live := false, charge := a.charge, exhausted := a.exhausted })
      let s := s.modPav a.pav (fun p => { p with handlers := p.handlers.filter (fun h => h.2 ≠ acct) })
      { s with accts := mdel acct s.accts }

/-! ## Stopping a task (R374, R379, R389) -/

/-- An engine that leaves a slot's block. -/
def freeEngine (l : Nat) (e : Engine) : Engine := if e.busy = some l then { busy := none } else e

/-- A task's streams stop on this cycle: it issues nothing, its engines serve others, a run stops at its step. -/
def State.stopStreams (s : State) (c l : Nat) : State :=
  let halt := fun (e : Parked) => if e.slot = l then { e with run := e.run.map (fun r => { r with stopped := true }) } else e
  s.modCore c (fun k => { k with
    engines := k.engines.map (fun e => (e.1, freeEngine l e.2))
    replay := k.replay.map halt })

/-- Has the watchdog of a task come to fire (R291)? -/
def Task.watchdogDue (t : Task) : Bool := t.eff.wdMode ≠ 0 && !t.stopped && decide (t.eff.wdWin * 2 ^ 10 ≤ t.wdCount)

/-- A task stopped so that it will be saved; 0 pre-emption, 1 watchdog, 2 freeze, 3 held by its region's policy (R379). A watchdog
that is due on this cycle comes before the others, and its record follows (R292). -/
def State.beginSave (s : State) (c l why : Nat) : State :=
  (s.stopStreams c l).modTask c l (fun t =>
    let due := why ≠ 1 && t.watchdogDue && t.saving.isNone
    { t with
    saving := some (t.saving.getD (if due then 1 else why))
    wdDue := t.wdDue || due
    held := t.held || why = 2
    stopAt := if t.stopped || t.saving.isSome then t.stopAt else s.cyc })

/-- A freeze of a pavilion begun (R389): dispatch stops, its tasks are stopped and will be saved held. -/
def State.beginFreeze (s : State) (pav : Nat) : State :=
  match s.pav? pav with
  | none => s
  | some p =>
    if p.st ≠ .running then s
    else
      let s := s.modPav pav (fun p => { p with st := .freezing })
      each (s.tasks.filter (fun t => t.2.2.pav = pav)) (fun t s => s.beginSave t.1 t.2.1 2) s

/-- A violation of a pavilion (R389): counted, and it freezes the pavilion. -/
def State.violation (s : State) (pav : Nat) : State :=
  (s.modPav pav (fun p => { p with viol := satInc p.viol })).beginFreeze pav

/-- A posted fault of a region counted in FLTCNT and its launch; the first beyond STORM in a window is a violation (R378). -/
def State.countFault (s : State) (pav region storm acct : Nat) : State :=
  match s.pav? pav with
  | none => s
  | some p =>
    let n := min (fltCount s p region + 1) 65535
    let s := s.modPav pav (fun p => { p with fltcnt := mset region (BitVec.ofNat 16 n, faultWindow s) p.fltcnt })
    let s := s.modLaunch acct (fun l => { l with faults := satInc l.faults })
    if n = storm + 1 then s.violation pav else s

/-- A record posted to a region's queue and, if it is written there, counted (R376, R378); false where the queue is none or invalid. -/
def State.postRecord (s : State) (fq : Nat) (r : FRec) (storm acct : Nat) : State × Bool :=
  let room := match fqHead s r.pav fq with
    | some h => decide ((h.head + 2 ^ 32 - h.tail) % 2 ^ 32 < h.cap)
    | none => false
  let w := s.writeRecord fq r
  (if room then w.1.countFault r.pav r.region storm acct else w.1, w.2)

/-- A watchdog that is due on this cycle, or has fired and is not yet posted, posts its record before what ends the task (R292, R394). -/
def State.noteTimeout (s : State) (t : Task) : State :=
  if t.wdDue || (t.watchdogDue && t.saving.isNone) then
    (s.postRecord t.eff.fq { code := fProgress, stream := 4, flags := 0, pav := t.pav, region := t.cr.region.toNat, aux := 0,
                             taskid := t.taskid, iaddr := 0, faddr := 0, attach := [] } t.eff.storm t.cr.lacct.toNat).1
  else s

/-! ## Ending tasks (R230, R313, R377, R388) -/

/-- The copy slots of a task, on whatever core it claimed them (R181, R384): core, number, slot. -/
def taskSlots (s : State) (uid : Nat) : List (Nat × Nat × CopySlot) :=
  s.cores.flatMap (fun c => (c.2.copies.filter (fun p => p.2.uid = uid)).map (fun p => (c.1, p.1, p.2)))

/-- The physical banks a task holds, aliases apart (R313). -/
def heldBanks (t : Task) : List Nat := t.bmap.filterMap (fun p => match p.2 with | .own b => some b | .alias_ .. => none)

/-- A task's aliases of one issuing slot removed (R170). -/
def dropAliases (issuer : Nat) (banks : List Nat) (t : Task) : Task :=
  { t with bmap := t.bmap.filter (fun p => match p.2 with
      | .own _ => true
      | .alias_ b i => !(i = issuer && banks.contains b)) }

/-- The owners of a bank with one slot's bands returned to the issuer (R170). -/
def returnBands (slot issuer : Nat) (b : Bank) : Bank :=
  { b with owners := b.owners.map (fun o => o.map (fun x => if x = slot then issuer else x)) }

/-- Everything a task held on its core given up: banks to be zeroed and freed, aliases, bands, pins, replay entries,
engines, its outstanding loads; its stores go on (R230, R313, R206). The freed slot is noted for the gangs that reserve (R284). -/
def State.vacate (s : State) (c l : Nat) (t : Task) : State :=
  let own := heldBanks t
  let issuerOf := fun (b : Nat) => ((s.core c).slots.find? (fun u => (heldBanks u.2).contains b)).map (·.1)
  let back := fun (p : Nat × Bank) =>
    if own.contains p.1 then (p.1, freshBank)
    else
      match issuerOf p.1 with
      | some i => (p.1, returnBands l i p.2)
      | none => p
  let reads := fun (r : Req) => match r.kind with
    | .load .. | .desc _ | .gen | .notifD => true
    | _ => false
  let lost := ((s.reqs.filter (fun r => r.2.task = t.taskid && reads r.2)).map (·.1)) ++ (t.mAsk.toList.map (·.1))
    ++ t.fills.filterMap (fun f => match f.kind with | .mem id .. => some id | _ => none)
  let s := s.modCore c (fun k => { k with
    slots := (mdel l k.slots).map (fun p => (p.1, dropAliases l own p.2))
    vwin := mdel l k.vwin
    banks := k.banks.map back
    freeing := k.freeing ++ own
    pins := k.pins.filter (fun p => p.slot ≠ l)
    replay := k.replay.filter (fun p => p.slot ≠ l)
    engines := k.engines.map (fun e => (e.1, freeEngine l e.2))
    reasm := k.reasm.filter (fun e => !lost.contains e.2.1) })
  let note := fun (d : Die) => ({ d with reserves := d.reserves.map (fun r => (r.1, r.2 ++ [(c, l)])) } : Die)
  let s := ({ s with dies := s.dies.map (fun (d : Nat × Die) => (d.1, note d.2)) } : State).dropDram (fun r => lost.contains r.own)
  let keep := fun (w : Walk) => { w with asks := w.asks.filter (fun a => a.1 ≠ t.taskid) }
  { s with
    reqs := s.reqs.filter (fun r => !(r.2.task = t.taskid && reads r.2))
    walks := (s.walks.map (fun w => (w.1, keep w.2))).filter (fun w => !w.2.asks.isEmpty || !w.2.failed) }

/-- The first address that a slot has not performed: of its destination, or of its source where that alone is local; a tile's first byte
(Table 19-9; log 63, DESIGN CHOICE: the table does not say of which side). -/
def CopySlot.next (x : CopySlot) : Word64 :=
  let row := fun (base len : Nat) (stride : Word64) =>
    BitVec.ofInt 64 ((base : Int) + (x.bytes / max len 1 : Nat) * stride.toInt + (x.bytes % max len 1 : Nat))
  if x.state = 2 || x.state = 4 then x.faddr
  else match x.op with
    | .mem dst _ len _ ds _ => row dst len ds
    | .fill dst .. => BitVec.ofNat 64 (dst + x.bytes)
    | .expand dst _ n _ ds _ => row dst n ds
    | .pack dst _ n _ ds _ => row dst (3 * ((n + 3) / 4)) ds
    | .get dst .. | .hostRd dst .. => BitVec.ofNat 64 (dst + x.bytes)
    | .put _ src .. | .hostWr _ src .. => BitVec.ofNat 64 (src + x.bytes)
    | .tile _ (g :: _) .. => BitVec.ofNat 64 (firstByte (readDesc x.desc) g)
    | _ => 0

/-- The item records of a task that ends early, and of its slots, which end PARTIAL (R377, R242). -/
def State.itemRecords (s : State) (t : Task) : State :=
  let rid := t.cr.region.toNat
  let steps := match t.run with | some r => r.step | none => 0
  let tid := t.taskid.toNat
  let rec1 : FRec :=
    { code := if t.stopped then t.fault else 0, stream := 4, flags := 0x18, pav := t.pav, region := rid,
      aux := 0, taskid := t.taskid, iaddr := 0, faddr := 0,
      attach := itemRec 2 (if t.stopped then 2 else 3) (if t.stopped then t.fault else 0) rid steps tid 0 (if t.stopped then t.faddr else 0) }
  let post := fun (s : State) (r : FRec) => (s.postRecord t.eff.fq r t.eff.storm t.cr.lacct.toNat).1
  let s := post s rec1
  each (taskSlots s t.uid) (fun p s =>
    let x := p.2.2
    let item := itemRec 3 3 0 rid 0 (tid + x.iaddr.toNat * 2 ^ 32) x.bytes x.next
    post s { rec1 with code := 0, flags := 0x10, attach := item }) s

/-- A task's slots removed: they end PARTIAL, their requests to memory and reassembly entries with them. -/
def State.dropSlots (s : State) (uid : Nat) : State :=
  let ids := (taskSlots s uid).map (fun x => x.2.2.id)
  let prune := fun (c : Core) => ({ c with
    copies := c.copies.filter (fun p => p.2.uid ≠ uid)
    reasm := c.reasm.filter (fun e => !ids.contains e.2.1) } : Core)
  ({ s with cores := s.cores.map (fun (c : Nat × Core) => (c.1, prune c.2)) } : State).dropDram (fun r => ids.contains r.own)

/-- No core's IMEM holds the image of a handle any more (R258). -/
def State.unloadImage (s : State) (h : BitVec 16) : State :=
  let off := fun (k : Core) => ({ k with resident := k.resident.filter (· ≠ h) } : Core)
  { s with cores := s.cores.map (fun (k : Nat × Core) => (k.1, off k.2)) }

/-- An image whose drop waits is freed once no task or CR uses it (R257). -/
def State.freeImage (s : State) (h : BitVec 16) : State :=
  match mfind h.toNat s.images with
  | none => s
  | some i =>
    if i.dropping && !(s.tasks.any (fun t => t.2.2.cr.image = h) || s.queued.any (fun q => q.cr.image = h)
        || s.crsubs.any (fun c => field c.2.rec_ (match c.2.src with | .launch .. => 0x18 | _ => 0x10) 2 = h.toNat)
        || s.saved.any (fun v => v.2.task.cr.image = h) || s.cores.any (fun c => c.2.starting.any (fun r => r.2.cr.image = h))) then
      ({ s with images := mdel h.toNat s.images } : State).unloadImage h
    else s

/-- The end of a task's life on its core, however it ended. -/
def State.endTask (s : State) (c l : Nat) (t : Task) : State :=
  let s := (s.vacate c l t).modLaunch t.cr.lacct.toNat (fun x => { x with ended := x.ended + 1 })
  (s.freeAcct t.cr.lacct.toNat).freeImage t.cr.image

/-- A gang's join after an abort (R388): the status dword, the counter 0, and the CR at 0x20 on its way. -/
def State.gangJoin (s : State) (g : Gang) (rank code : Nat) (acct : BitVec 20) (region : Nat) : State :=
  if g.join = 0 then s
  else
    let d := bridgeDie g.pav
    let a := g.join.toNat
    let s := s.writeVa d g.pav (a + 8) (bytesOf 8 (0x7F + rank * 2 ^ 8 + code * 2 ^ 16))
    let s := s.writeVa d g.pav a (bytesOf 8 0)
    let at_ := agentAt s g.pav a
    let sub : CrSub := { pav := g.pav, rec_ := (s.readVa d g.pav (a + 0x20) 32).getD [], addr := a + 0x20,
                         src := .join 0 region at_.1 acct, acct := some acct, checked := false, ts := at_.2 }
    { s.fresh with crsubs := mset s.nextId sub s.crsubs }

/-- The item records of a task's remote operations, as a gang abort posts them (R388). -/
def State.remoteItems (s : State) (t : Task) : State :=
  let rid := t.cr.region.toNat
  each (s.rops.filter (fun r => r.2.task = t.taskid && t.taskid ≠ 0)) (fun r s =>
    let item := itemRec 4 3 0 rid 0 (t.taskid.toNat + r.2.iaddr.toNat * 2 ^ 32) 0 (BitVec.ofNat 64 r.2.req.off)
    (s.postRecord t.eff.fq { code := 0, stream := 4, flags := 0x10, pav := t.pav, region := rid, aux := 0,
                             taskid := t.taskid, iaddr := r.2.iaddr.toNat, faddr := 0, attach := item } t.eff.storm t.cr.lacct.toNat).1) s

/-- The records of a list of queues' CRs kept that pass a test. -/
def State.keepCrs (s : State) (f : QCr → Bool) : State :=
  let prune := fun (l : Level) => ({ l with crs := l.crs.filter f } : Level)
  let pruneDie := fun (d : Die) => ({ d with levels := d.levels.map (fun l => (l.1, prune l.2)) } : Die)
  { s with dies := s.dies.map (fun (d : Nat × Die) => (d.1, pruneDie d.2)) }

/-- A placed record taken off its slot, with its window and the fill of its image for it (R258). -/
def Core.unstart (l : Nat) (k : Core) : Core :=
  { k with starting := mdel l k.starting, vwin := mdel l k.vwin, filling := k.filling.filter (fun f => f.1 ≠ l) }

/-- The placed records that pass a test taken off their slots. -/
def State.unplace (s : State) (f : Starting → Bool) : State :=
  let off := fun (k : Core) => (k.starting.filter (fun r => f r.2)).foldl (fun k r => k.unstart r.1) k
  { s with cores := s.cores.map (fun (k : Nat × Core) => (k.1, off k.2)) }

/-- A saved task ended: its records, its place in the queues or on a core, its account (R242, R374). -/
def State.endSaved (s : State) (id : Nat) (t : Task) : State :=
  let s := ((((s.noteTimeout t).itemRecords t).dropSlots t.uid).keepCrs (fun q => q.saved ≠ some id)).unplace (fun r => r.saved = some id)
  let s := { s with saved := mdel id s.saved }
  let s := s.modLaunch t.cr.lacct.toNat (fun x => { x with ended := x.ended + 1 })
  (s.freeAcct t.cr.lacct.toNat).freeImage t.cr.image

/-- Discarded CRs of a region reported as NOT_STARTED, one for each record of a gang (R377). -/
def State.notStarted (s : State) (pav : Nat) (cr : CR) (fq storm n : Nat) : State :=
  let region := cr.region.toNat
  each (List.replicate n ()) (fun _ s => (s.postRecord fq
    { code := 0, stream := 4, flags := 0x10, pav := pav, region := region, aux := 0, taskid := 0, iaddr := 0, faddr := 0,
      attach := itemRec 5 5 0 region 0 cr.addr 0 0 } storm cr.lacct.toNat).1) s

/-- The new tasks of some placed records, not yet started, given up. -/
def State.dropPlaced (s : State) (f : Starting → Bool) (fq storm : Nat) : State :=
  let gone := s.cores.flatMap (fun c => (c.2.starting.filter (fun r => f r.2 && r.2.saved.isNone)).map (fun r => r.2))
  each gone (fun r s => ((s.notStarted r.pav r.cr fq storm 1).freeAcct r.cr.lacct.toNat).freeImage r.cr.image)
    (s.unplace (fun r => f r && r.saved.isNone))

/-- The members of a gang that are placed and not yet started given up. -/
def State.dropStarting (s : State) (gid : Nat) (fq storm : Nat) : State := s.dropPlaced (fun r => r.gangId = some gid) fq storm

/-- The other members of a gang stopped and ended with GANG_ABORT, and the gang's one join performed (R388). -/
def State.gangAbort (s : State) (lost : Task) (code : BitVec 8) : State :=
  match lost.gangId with
  | none => s
  | some gid =>
    match mfind gid s.gangs with
    | none => s
    | some g =>
      if g.aborted then s
      else
        let s := ({ s with gangs := mset gid { g with aborted := true } s.gangs } : State).remoteItems lost
        let others := s.tasks.filter (fun p => p.2.2.gangId = some gid && p.2.2.taskid ≠ lost.taskid)
        let s := each others (fun p s =>
          let t := { p.2.2 with stopped := true, fault := fGangAbort }
          ((((s.noteTimeout p.2.2).itemRecords t).remoteItems t).dropSlots t.uid).endTask p.1 p.2.1 t) s
        let s := each (s.saved.filter (fun v => v.2.task.gangId = some gid)) (fun v s =>
          let t := { v.2.task with stopped := true, fault := fGangAbort }
          (s.remoteItems t).endSaved v.1 t) s
        let s := s.dropStarting gid lost.eff.fq lost.eff.storm
        let s := s.gangJoin g lost.cr.rank.toNat code.toNat lost.cr.lacct lost.cr.region.toNat
        { s with gangs := mdel gid s.gangs }

/-- KILL (R242): the task ends, its slots end PARTIAL, no join is performed; a gang of its is aborted. -/
def State.killTask (s : State) (c l : Nat) (t : Task) : State :=
  let s := ((s.noteTimeout t).itemRecords t).dropSlots t.uid
  (s.endTask c l t).gangAbort t (if t.stopped then t.fault else 0)

/-- A saved task ended by KILL (R242). -/
def State.killSaved (s : State) (id : Nat) (v : Saved) : State :=
  (s.endSaved id v.task).gangAbort v.task (if v.task.stopped then v.task.fault else 0)

/-- Queued CRs of a region discarded, each reported as NOT_STARTED (R377), and with them the records placed and not yet started and those
on their way for which no task waits. -/
def State.discardCrs (s : State) (pav region fq storm : Nat) : State :=
  let ours := fun (q : QCr) => q.pav = pav && q.cr.region.toNat = region && q.saved.isNone
  let gone := s.queued.filter ours
  let s := s.keepCrs (fun q => !ours q)
  let s := each gone (fun q s => ((s.notStarted pav q.cr fq storm q.cr.gang.toNat).freeAcct q.cr.lacct.toNat).freeImage
    q.cr.image) s
  let mine := fun (r : Starting) => r.pav = pav && r.cr.region.toNat = region
  let gangs := s.cores.flatMap (fun c => c.2.starting.filterMap (fun r => if mine r.2 && r.2.saved.isNone then r.2.gangId else none))
  let s := s.dropPlaced mine fq storm
  let s := { s with gangs := s.gangs.filter (fun g => !(gangs.contains g.1 && s.tasks.all (fun t => t.2.2.gangId ≠ some g.1))) }
  let asker := fun (k : Ctx) (tag : Nat) => (s.task? k.core.val k.slot.val).any (fun t => t.pend.any (fun p => p.tag = tag))
  let lost := s.crsubs.filter (fun x => x.2.pav = pav && match x.2.src with
    | .fork k tag => field x.2.rec_ 0x12 2 = region && !asker k tag
    | .launch k tag _ => field x.2.rec_ 0x1A 2 = region && !asker k tag
    | _ => field x.2.rec_ 0x12 2 = region)
  each lost (fun x s =>
    let acct := (x.2.acct.getD 0)
    let h := BitVec.ofNat 16 (field x.2.rec_ (match x.2.src with | .launch .. => 0x18 | _ => 0x10) 2)
    let s := (({ s with crsubs := mdel x.1 s.crsubs } : State).postRecord fq
      { code := 0, stream := 4, flags := 0x10, pav := pav, region := region, aux := 0, taskid := 0, iaddr := 0, faddr := 0,
        attach := itemRec 5 5 0 region 0 x.2.addr 0 0 } storm acct.toNat).1
    (if x.2.acct.isSome then s.freeAcct acct.toNat else s).freeImage h) s

/-- The kill-region policy (R377). -/
def State.killRegion (s : State) (pav region fq storm : Nat) : State :=
  let s := each ((s.tasks.filter (fun p => p.2.2.pav = pav && p.2.2.cr.region.toNat = region)).map (fun p => (p.1, p.2.1)))
    (fun p s => match s.task? p.1 p.2 with
      | some t => if t.pav = pav && t.cr.region.toNat = region then s.killTask p.1 p.2 t else s
      | none => s) s
  let s := each ((s.saved.filter (fun v => v.2.task.pav = pav && v.2.task.cr.region.toNat = region)).map (·.1))
    (fun id s => match mfind id s.saved with
      | some v => s.killSaved id v
      | none => s) s
  s.discardCrs pav region fq storm

/-! ## Taking a fault (R373-R378) and returning from one (R385) -/

/-- A record of a task posted and counted; then the region's policy, kill-region where there is no valid queue (R376,
R377): the faulting task, which `kill` ends, is the first that is lost (R388); `other` tells the region's tasks apart from it.
`policy` is false for records that stop nothing. -/
def State.postFaultOf (s : State) (t : Task) (r : FRec) (policy : Bool) (kill : State → State) (other : Nat → Nat → Bool) : State :=
  let (s, ok) := s.postRecord t.eff.fq r t.eff.storm t.cr.lacct.toNat
  if !policy then s
  else if !ok || t.eff.policy = 0 then
    (kill s).killRegion t.pav t.cr.region.toNat t.eff.fq t.eff.storm
  else if t.eff.policy = 2 then
    let s := s.modPav t.pav (fun p => { p with heldRegions := p.heldRegions ++ [(t.cr.region.toNat, t.taskid)] })
    each (s.tasks.filter (fun p => p.2.2.pav = t.pav && p.2.2.cr.region = t.cr.region && other p.1 p.2.1))
      (fun p s => s.beginSave p.1 p.2.1 3) s
  else s

/-- A record of a resident task posted. -/
def State.postFault (s : State) (c l : Nat) (t : Task) (r : FRec) (policy : Bool) : State :=
  s.postFaultOf t r policy
    (fun s => match s.task? c l with
      | some u => s.killTask c l u
      | none => s)
    (fun c' l' => !(c' = c && l' = l))

/-- The record of a fault of one stream of a task (Table 19-2). -/
def faultRec (t : Task) (k : Stream) (code : BitVec 8) (precise : Bool) (aux : Nat) (iaddr : BitVec 17) (faddr : Word64)
    (attach : List Byte) : FRec :=
  { code := code, stream := k.code, flags := b2n precise, pav := t.pav, region := t.cr.region.toNat, aux := aux,
    taskid := t.taskid, iaddr := iaddr.toNat, faddr := faddr, attach := attach }

/-- TAKING A FAULT: the whole task stops where it stands, the faulting stream at the instruction, the record is posted, the
region's policy applies (R374-R378). -/
def State.takeFaultOf (s : State) (c l : Nat) (k : Stream) (code : BitVec 8) (precise : Bool) (aux : Nat)
    (iaddr : BitVec 17) (faddr : Word64) (attach : List Byte) : State :=
  match s.task? c l with
  | none => s
  | some t =>
    let s := (s.stopStreams c l).modTask c l (fun t =>
      let run := t.run.map (fun r => { r with stopped := true })
      { (t.modSt k (fun x => { x with faulted := true, feSince := none })) with
        stopped := true
        fault := code
        faddr := faddr
        run := run
        stopAt := if t.stopped || t.saving.isSome then t.stopAt else s.cyc })
    s.postFault c l t (faultRec t k code precise aux iaddr faddr attach) true

/-- A fault of the instruction that the issuing stream has reached (R43): precise, but for poison (Table 19-1). -/
def State.takeFault (s : State) (code : BitVec 8) (faddr : Word64) : State :=
  s.takeFaultOf s.cur.core.val s.cur.slot.val s.cur.stream code (decide (code ≠ fDataLoss)) 0 s.curSt.pc faddr []

/-- A precise fault of a memory access: a failed walk of the page is forgotten with it. -/
def State.takeMemFault (s : State) (code : BitVec 8) (va : Nat) : State :=
  match s.curTask with
  | none => s
  | some t => (dropFailed s s.curDie t.pav va).takeFault code (BitVec.ofNat 64 va)

/-- A record posted while the task goes on: parked accesses and further failed slots (R183, R184, R386). -/
def State.postOnly (s : State) (c l : Nat) (r : FRec) : State :=
  match s.task? c l with
  | none => s
  | some t => s.postFault c l t r false

/-- RESUME's effect on a stopped task (R385, Table 19-8): it continues at the faulting instruction, after a TRAP, once
without its stamp after SCHED_MISS; its watchdog window restarts in mode 2 (R291). A stopped run goes on at its counter record's step,
as MRES does (R162). -/
def Task.resumed (t : Task) : Task :=
  let t := match t.skipTo with
    | some pc => t.modSt .s (fun x => { x with pc := pc }.advance 0)
    | none => t
  { t with
    stopped := false, fault := 0, faddr := 0, skipTo := none
    stamp := if t.fault = fSchedMiss then none else t.stamp
    strm := t.strm.map (fun p => (p.1, { p.2 with faulted := false }))
    wdCount := if t.eff.wdMode = 2 || t.fault = fProgress then 0 else t.wdCount }

/-! ## Branches (R41, R103-R106) -/

/-- A core's IMEM parcel (R29). -/
def Core.parcel (k : Core) (p : Nat) : Parcel := mget p 0 k.imem

/-- The header word at a parcel address. -/
def Core.headerAt (k : Core) (p : Nat) : Word32 := (k.parcel p ++ k.parcel (p + 1) : BitVec 32)

/-- The IMEM range of a task's image: base and length in parcels (R258). -/
def imageRange (s : State) (t : Task) : Nat × Nat :=
  match mfind t.cr.image.toNat s.images with
  | some i => (i.base, i.code.length)
  | none => (0, 0)

/-- The fault of a branch to a parcel address, if it has one (R41, R105): out of the image, not a header, a header of
another stream. DESIGN CHOICE (log 46): a parcel of class 11 inside a body is taken for a header, since the spec names no fault
for a target that happens to look like one. -/
def targetFault (s : State) (c : Nat) (t : Task) (k : Stream) (p : Int) : Option (BitVec 8) :=
  let r := imageRange s t
  if p < r.1 ∨ p ≥ ((r.1 + r.2 : Nat) : Int) then some fIllegalTarget
  else
    let h := (s.core c).parcel p.toNat
    if nbits h.toNat 15 14 ≠ 3 then some fIllegalTarget
    else if nbits h.toNat 13 12 ≠ k.code then some fIllegalStream
    else none

/-- A branch taken by the issuing stream (R41, R106): its block ends and it continues at the target header. -/
def State.branchTo (s : State) (t : Task) (p : Int) : State :=
  match targetFault s s.cur.core.val t s.cur.stream p with
  | some c => s.takeFault c 0
  | none => s.chargeIssue.modSt (fun x => { x with pc := BitVec.ofInt 17 p }.endBlock .header)

/-- The issuing stream's block ended by WAIT, HALT, YIELD or EXIT of n parcels (R221, R224, R230). -/
def State.endBlockWith (s : State) (n : Nat) (a : After) : State :=
  s.chargeIssue.modSt (fun x => { x with pc := x.pc + BitVec.ofNat 17 n, feSince := none }.endBlock a)

/-! ## The task of a number -/

/-- Where the task of a number lives. -/
inductive Owner where
  | resident (c l : Nat) (t : Task)
  | saved (id : Nat) (v : Saved)
  | gone

def ownerOf (s : State) (uid : Nat) : Owner :=
  match s.tasks.find? (fun p => p.2.2.uid = uid) with
  | some (c, l, t) => .resident c l t
  | none =>
    match s.saved.find? (fun v => v.2.task.uid = uid) with
    | some (id, v) => .saved id v
    | none => .gone

/-- The task of a number, resident or saved. -/
def State.byUid (s : State) (uid : Nat) : Option Task :=
  match ownerOf s uid with
  | .resident _ _ t => some t
  | .saved _ v => some v.task
  | .gone => none

def State.modUid (s : State) (uid : Nat) (f : Task → Task) : State :=
  match ownerOf s uid with
  | .resident c l _ => s.modTask c l f
  | .saved id v => { s with saved := mset id { v with task := f v.task } s.saved }
  | .gone => s

end Sys2Proof.Machine
end

