-- ==== Sys2Proof/Machine/Flags.lean ====
section
/-!
DEFINITION. The flags the spec gives the machine: the STATUS register of a task (spec/08 R214, R215, R424). The arithmetic
flags of a bank, RANGE and INEXACT, are set where products enter (Acc.lean).
-/

namespace Sys2Proof.Machine

/-- A sticky bit of STATUS set by an event of this cycle, on which no write clears it (R215). -/
def Task.setFlag (t : Task) (i : Nat) : Task :=
  { t with status := t.status ||| BitVec.ofNat 64 (2 ^ i), flagged := t.flagged ||| BitVec.ofNat 64 (2 ^ i) }

def statAccUnalloc : Nat := 0
def statAllocF : Nat := 1
def statEnex : Nat := 2
def statJoinU : Nat := 3
def statNotifD : Nat := 4

/-- MISSES (Table 8-2). -/
def statMisses (w : Word64) : Nat := nbits w.toNat 63 48
/-- MFMT (Table 8-2), with the MM format codes. -/
def statMfmt (w : Word64) : MFmt :=
  let n := nbits w.toNat 9 8
  if n = 0 then .bf16 else if n = 1 then .f16 else if n = 2 then .i8 else .i6

/-- MISSES counts one more, saturating at 65,535 (Table 11-4). -/
def Task.missed (t : Task) : Task :=
  { t with status := BitVec.ofNat 64 (t.status.toNat % 2 ^ 48 + min (statMisses t.status + 1) 65535 * 2 ^ 48) }

/-- A write of STATUS: MISSES and MFMT take the value, the five flags are cleared where a 1 is written, the reserved bits
stay zero (R214, R5, R6). -/
def writeStatus (old new : Word64) : Word64 :=
  (new &&& 0xFFFF000000000300) ||| (old &&& ~~~new &&& 0x1F)

end Sys2Proof.Machine
end

