-- ==== Sys2Proof/Machine/Operands.lean ====
section
/-!
DEFINITION. Operand forms: scalar sources and destinations (spec/02 R44, spec/04 R86-R91), vector operands and their
full/empty rules (spec/02 R45-R46, spec/05 R118-R123), tensor descriptors and tile coordinates (spec/07 R190-R194,
spec/05 R142, spec/06 R151), bank numbers (spec/05 R147).
-/

namespace Sys2Proof.Machine

/-! ## Scalar operands -/

/-- An instruction of the S stream whose result is known at issue: it waits for its sources and its destination (R90) and
while eight results are in flight (R91), then writes the result and moves on. -/
def scalarOp (srcs : List SSrc) (d : SDst) (len : Nat) (f : Task → Word64) (s : State) : Out :=
  onTask s fun t =>
    if srcs.all t.srcReady && t.dstReady d && t.canPend then (s.modCur (fun t => t.result d (f t))).finish len else s

/-- A result of more than one cycle's latency: known at once, and in flight until a later cycle (R88, R91, R92); a `load`'s lands before
its block completes and before a save (R36, Table 19-4). -/
def Task.slowResult (t : Task) (d : SDst) (v : Word64) (tag : Nat) (pc : BitVec 17) (vis : Word64) (load : Bool := false) : Task :=
  let old := match d with | .s n => t.sreg n.val | .none => 0
  let u := t.result d v
  { u with pend := u.pend ++ [{ tag := tag, dst := d, qpos := some 0, iaddr := pc, faddr := 0, holds := load, acq := false,
                                res := .fixed v old vis }] }

/-- An instruction of the S stream of a fixed latency of several cycles, on a unit that is free or not and that it then takes. -/
def slowOp (lat : Nat) (free : Bool) (take_ : State → State) (srcs : List SSrc) (d : SDst) (len : Nat) (f : Task → Word64)
    (s : State) : Out :=
  onTask s fun t =>
    if srcs.all t.srcReady && t.dstReady d && t.canPend && free then
      (take_ (s.fresh.modCur (fun t => t.slowResult d (f t) s.nextId s.curSt.pc (s.cyc + BitVec.ofNat 64 lat)))).finish len
    else s

/-- The sources of an S instruction hold their values (R90). -/
def Task.ready (t : Task) (srcs : List SSrc) : Bool := srcs.all t.srcReady

/-- A register A of the issuing stream as it stands: an instruction that would read it while a result for it is in
flight does not issue (R90, log 12). -/
def State.areg (s : State) (t : Task) (n : Nat) : Word64 := t.a s.cur.stream n

/-! ## Vector operands -/

/-- The cells of a vector source (Table 2-6). -/
def Task.vsrc (t : Task) : VSrc → Cells
  | .v n => t.vreg n.val
  | .zero => zeroCells
  | .cellIdx => tab 1024 (fun i => BitVec.ofNat 32 i)
  | .rowIdx => tab 1024 (fun i => BitVec.ofNat 32 (i / 64))
  | .colIdx => tab 1024 (fun i => BitVec.ofNat 32 (i % 64))
  | .a n => List.replicate 1024 ((t.a .v n.val).setWidth 32)

/-- Is a source inside the task's window (R45)? -/
def Task.inWindow (t : Task) : VSrc → Bool
  | .v n => decide (n.val < t.window)
  | _ => true

/-- Is a source full (R46, R119)? -/
def Task.full (t : Task) : VSrc → Bool
  | .v n => !t.empty.contains n.val
  | _ => true

/-- Has a register a fill of this task in flight (R121)? -/
def Task.filling (t : Task) (n : Nat) : Bool := t.fills.any (fun f => f.v = n)

/-- The stream waits on empty sources: the cycle since which one of them has held it is kept for FE_TIMEOUT (R120). -/
def State.waitEmpty (s : State) (srcs : List VSrc) : State :=
  match s.curTask with
  | none => s
  | some t =>
    let on := srcs.filterMap (fun v => match v with | .v n => if t.full v then none else some n.val | _ => none)
    s.modSt (fun x => { x with
      feSince := if x.feOn.any t.empty.contains then some (x.feSince.getD s.cyc) else some s.cyc
      feOn := on })

/-- A vector source with its trap bit. -/
structure VUse where
  src : VSrc
  trap : Bool
  deriving DecidableEq, Repr

/-- The issue checks of a vector instruction: registers inside the window, blocking sources full, destinations with no fill
pending, trapping sources full; then it has its effect (R45, R120, R121). -/
def vecIssue (uses : List VUse) (dsts : List Nat) (s : State) (f : Task → State) : Out :=
  onTask s fun t =>
    if !(uses.all (fun u => t.inWindow u.src) && dsts.all (fun d => decide (d < t.window))) then s.takeFault fIllegalOperand 0
    else if uses.any (fun u => !u.trap && !t.full u.src) then s.waitEmpty ((uses.filter (fun u => !u.trap)).map (·.src))
    else if dsts.any t.filling then s
    else if uses.any (fun u => u.trap && !t.full u.src) then s.takeFault fFeTrap 0
    else f t

/-- Is a pending result one that a snapshot keeps: of fixed latency, and no load's (R380, Table 19-4)? -/
def SPend.isFixed (p : SPend) : Bool := (match p.res with | .fixed .. => true | _ => false) && !p.holds

/-- Is a result of fixed latency still to come after a cycle? -/
def SPend.after (p : SPend) (cyc : Word64) : Bool :=
  match p.res with
  | .fixed _ _ vis => decide (cyc.toNat < vis.toNat)
  | _ => true

/-- The results that a cycle makes visible: a vector register that one of them writes turns full (R88, R119, R424). Of a stopped
task only the loads that it has issued complete (Table 19-4). -/
def Task.land (t : Task) (cyc : Word64) : Task :=
  if t.stopped || t.saving.isSome then { t with pend := t.pend.filter (fun p => p.isFixed || p.after cyc) }
  else
    let due := t.fly.filter (fun f => decide (f.vis.toNat ≤ cyc.toNat))
    { (if due.any (fun f => f.accu && f.vis = cyc) then t.setFlag statAccUnalloc
        else if due.any (·.accu) then { t with status := t.status ||| BitVec.ofNat 64 (2 ^ statAccUnalloc) } else t) with
      fly := t.fly.filter (fun f => decide (cyc.toNat < f.vis.toNat))
      empty := t.empty.filter (fun n => due.all (fun f => f.dst ≠ .v n))
      pend := t.pend.filter (fun p => p.after cyc) }

/-- The results in flight of a task that stopped at one cycle and goes on at another keep what was left of their latencies
(R380). -/
def Task.refly (t : Task) (stop on : Word64) : Task :=
  let move := fun (v : Word64) => on + (v - stop)
  { t with
    fly := t.fly.map (fun f => { f with vis := move f.vis })
    pend := t.pend.map (fun p => if !p.isFixed then p else { p with res := match p.res with
      | .fixed v old vis => .fixed v old (move vis)
      | r => r }) }

/-- The cells that a masked write names. -/
def wrote (k : BitVec 1024) (zm : Bool) : BitVec 1024 := if zm then BitVec.allOnes 1024 else k

/-- The new cells of a masked write (R118): kept or zeroed where the mask bit is 0. -/
def maskCells (k : BitVec 1024) (zm : Bool) (old new : Cells) : Cells :=
  tab 1024 (fun i => if k.getLsbD i then new.getD i 0 else if zm then 0 else old.getD i 0)

/-- The mask that a cell predicate makes. -/
def maskOf (f : Nat → Bool) : BitVec 1024 := BitVec.ofNat 1024 ((List.range 1024).foldl (fun n i => if f i then n + 2 ^ i else n) 0)

/-! ## Banks -/

/-- What a task-relative bank number names. -/
def Task.bank (t : Task) (n : Nat) : Option BankRef := mfind n t.bmap

/-- The physical bank of a task's own bank. -/
def Task.ownBank (t : Task) (n : Nat) : Option Nat :=
  match t.bank n with
  | some (.own p) => some p
  | _ => none

/-- A physical bank of a core. -/
def Core.bank (k : Core) (p : Nat) : Bank := mget p freshBank k.banks
def State.modBank (s : State) (c p : Nat) (f : Bank → Bank) : State :=
  s.modCore c (fun k => { k with banks := mset p (f (k.bank p)) k.banks })

end Sys2Proof.Machine
end

