-- ==== Sys2Proof/Machine/Place.lean ====
section
/-!
DEFINITION. Where a queued record can run: placeability, the order of cores and dies, gangs (spec/11 R279, R280, R284,
spec/10 R258, spec/12 R314), and the fabric level that FPRESS reads (spec/21 R404, R409).
-/

namespace Sys2Proof.Machine

/-! ## Orders -/

/-- Distance on the die grid (R284, R308). -/
def dieDist (a b : Nat) : Nat :=
  (max (a % 4) (b % 4) - min (a % 4) (b % 4)) + (max (a / 4) (b / 4) - min (a / 4) (b / 4))
/-- The dies from d outwards, ties going to the lower number (R284). -/
def dieOrder (d : Nat) : List Nat := sortBy (dieDist d) (List.range 8)
/-- The cores of a die in the order in which a decision tries them (R280). -/
def coreOrder (s : State) (d : Nat) : List Nat := sortBy (fpress s) ((List.range 32).map (fun i => 32 * d + i))

/-! ## Resources of a core (R18, R258, R279) -/

/-- Is a slot free: no task, no placed record? -/
def Core.slotFree (k : Core) (l : Nat) : Bool :=
  (mfind l k.slots).isNone && (mfind l k.starting).isNone && (mfind l k.vwin).isNone
/-- The first unit of the lowest free run of n window units. -/
def Core.fitRun (k : Core) (n : Nat) : Option Nat :=
  (List.range 13).find? (fun b => decide (b + n ≤ 12) && (mvals k.vwin).all (fun w => decide (w.1 + w.2 ≤ b) || decide (b + n ≤ w.1)))
/-- The free physical banks, lowest first (R313). -/
def Core.freeBanks (k : Core) : List Nat :=
  let used := (mvals k.slots).flatMap heldBanks
  (List.range 64).filter (fun p => !used.contains p && !k.freeing.contains p)

/-- The banks that a record needs: those its saved context held, or its CR's (R314). -/
def needBanks (s : State) (saved : Option Nat) (cr : CR) : Nat :=
  match saved with
  | some v => match mfind v s.saved with | some x => x.banks.length | none => 0
  | none => cr.banks.toNat
/-- The free banks of a core less those that placed records will take. -/
def banksLeft (s : State) (k : Core) : Nat :=
  k.freeBanks.length - (mvals k.starting).foldl (fun n r => n + needBanks s r.saved r.cr) 0

/-- Does an image's IMEM range meet that of another image in use on the core (R258)? -/
def imageFits (s : State) (k : Core) (h : BitVec 16) : Bool :=
  let used := (mvals k.slots).map (fun t => t.cr.image) ++ (mvals k.starting).map (fun r => r.cr.image)
  match mfind h.toNat s.images with
  | none => false
  | some i => used.all (fun u => u = h || (match mfind u.toNat s.images with
      | none => true
      | some j => decide (i.base + i.code.length ≤ j.base) || decide (j.base + j.code.length ≤ i.base)))

/-- The cores that hold tasks of a region, or records placed for it. -/
def regionCores (s : State) (pav : Nat) (r : BitVec 16) : List Nat :=
  (s.cores.filter (fun c => (mvals c.2.slots).any (fun t => t.pav = pav && t.cr.region = r)
    || (mvals c.2.starting).any (fun t => t.pav = pav && t.cr.region = r))).map (·.1)

/-- May records of a region be dispatched: its pavilion runs and the region is not held (R377, R389)? -/
def dispatches (s : State) (pav : Nat) (r : BitVec 16) : Bool :=
  match s.pav? pav with
  | none => false
  | some p => p.st = .running && !(p.heldRegions.any (fun h => h.1 = r.toNat))

/-- The slot and window run that a queued record takes on a core, if it fits there (R279). -/
def fitOn (s : State) (c : Nat) (q : QCr) : Option (Nat × Nat) :=
  let k := s.core c
  let cr := q.cr
  let on := regionCores s q.pav cr.region
  if k.quarantine.isSome || !dispatches s q.pav cr.region || !imageFits s k cr.image
      || !(on.contains c || decide (on.length < q.eff.maxCores)) || decide (banksLeft s k < needBanks s q.saved cr)
      || (cr.mbox && decide (cr.core.toNat ≠ c)) then none
  else
    match (List.range 4).find? k.slotFree, k.fitRun cr.win.toNat with
    | some l, some b => some (l, b)
    | _, _ => none

/-- A record's place taken on a core (R279). -/
def placeOn (s : State) (c l b : Nat) (r : Starting) : State :=
  s.modCore c (fun k => { k with starting := mset l r k.starting, vwin := mset l (b, r.cr.win.toNat) k.vwin })

/-! ## Units: a record, or all the records of a gang (R284) -/

/-- The gang that a queued record's saved task belongs to. -/
def savedGang (s : State) (q : QCr) : Option Nat :=
  match q.saved with
  | none => none
  | some v => match mfind v s.saved with | some x => x.task.gangId | none => none

/-- The queued records of a die with their levels. -/
def dieCrs (s : State) (d : Nat) : List (Nat × QCr) := (s.die d).levels.flatMap (fun p => p.2.crs.map (fun q => (p.1, q)))

/-- The queued records of a die, `crs`, that are placed together with one: itself; the members of a new gang; the saved members of its
gang, whatever their levels. -/
def unitOf (s : State) (crs : List QCr) (q : QCr) : List QCr :=
  if q.cr.gang.toNat ≤ 1 then [q]
  else
    match q.saved with
    | none => List.replicate q.cr.gang.toNat q
    | some _ =>
      match savedGang s q with
      | none => [q]
      | some g => crs.filter (fun x => savedGang s x = some g)

/-- A place: core, slot, first window unit. -/
structure Place where
  core : Nat
  slot : Nat
  run : Nat
  deriving DecidableEq, Repr

/-- The record that is put on a slot for a queued one. -/
def QCr.starting (q : QCr) (level : Nat) : Starting :=
  { pav := q.pav, cr := q.cr, prio := level, floor := q.eff.floor, gangId := none, saved := q.saved, filled := false, ts := q.ts }

/-- As many records of a list as fit on one core, each on its lowest free slot. -/
def fillCore (c : Nat) : Nat → List QCr → State → List Place → State × List QCr × List Place
  | 0, qs, s, ps => (s, qs, ps)
  | _, [], s, ps => (s, [], ps)
  | n + 1, q :: qs, s, ps =>
    match fitOn s c q with
    | none => (s, q :: qs, ps)
    | some (l, b) => fillCore c n qs (placeOn s c l b (q.starting 0)) (ps ++ [{ core := c, slot := l, run := b }])

/-- The places of a list of records on cores in order, or none if they do not all fit (R284). -/
def fillCores (cores : List Nat) (qs : List QCr) (s : State) : Option (List Place) :=
  let r := cores.foldl (fun (x : State × List QCr × List Place) c => fillCore c 4 x.2.1 x.1 x.2.2) (s, qs, [])
  if r.2.1.isEmpty then some r.2.2 else none

/-- Does a member of a saved record's gang still leave its core, or stand saved and stopped and not queued again, so that the gang cannot
yet be placed in one decision (R284)? -/
def gangLeaves (s : State) (q : QCr) : Bool :=
  match savedGang s q with
  | none => false
  | some g => s.tasks.any (fun t => t.2.2.gangId = some g && t.2.2.saving.isSome && t.2.2.saving ≠ some 1)
    || s.saved.any (fun v => v.2.task.gangId = some g && !v.2.watchdog && !s.queued.any (fun x => x.saved = some v.1))

/-- Where the dispatcher of a die places a queued record, or its gang (R280, R284). -/
def placesFor (s : State) (d : Nat) (q : QCr) : Option (List Place) :=
  if gangLeaves s q then none
  else if q.cr.gang.toNat ≤ 1 then
    (coreOrder s d).findSome? (fun c => (fitOn s c q).map (fun p => [{ core := c, slot := p.1, run := p.2 }]))
  else fillCores ((dieOrder d).flatMap (coreOrder s)) (unitOf s ((dieCrs s d).map (·.2)) q) s

/-- The state in which a task has left its core, for a question of placing (R230, R283). -/
def State.without (s : State) (c l : Nat) : State :=
  s.modCore c (fun k => { k with slots := mdel l k.slots, vwin := mdel l k.vwin })

/-- The older of two queued records. -/
def older (b : Option QCr) (q : QCr) : Option QCr :=
  match b with
  | none => some q
  | some x => if q.age < x.age then some q else some x

/-- The ready record of at least a task's level that the dispatcher of its die holds and that could run on its core once it
has left: of the highest such level, the oldest (R230). -/
def yieldsTo (s : State) (c l : Nat) (t : Task) : Option QCr :=
  let s' := s.without c l
  let fits := fun (q : QCr) => q.claim.isNone &&
    if q.cr.gang.toNat ≤ 1 then (fitOn s' c q).isSome
    else match placesFor s' (dieOf c) q with
      | some ps => ps.any (fun x => x.core = c)
      | none => false
  ((s.die (dieOf c)).levels.filter (fun p => decide (t.prio ≤ p.1))).reverse.findSome? (fun p =>
    (p.2.crs.filter fits).foldl older none)

/-- The tasks that leave for a queued record, and the core that it takes then (R230, R283). -/
def State.setClaim (s : State) (d age : Nat) (x : Option (Option Nat × List Word32)) : State :=
  let put := fun (l : Level) => ({ l with crs := l.crs.map (fun q => if q.age = age then { q with claim := x } else q) } : Level)
  s.modDie d (fun y => { y with levels := y.levels.map (fun (p : Nat × Level) => (p.1, put p.2)) })

end Sys2Proof.Machine
end

