-- ==== Sys2Proof/Machine/Queue.lean ====
section
/-!
DEFINITION. The ready queues of the dispatchers: levels, regions around the pointer, ages (spec/11 R278, R280, R281, R283).
A level's CRs are a list; a region's FIFO is its CRs by rising age.
-/

namespace Sys2Proof.Machine

def Level.empty : Level := { crs := [], ptr := none, deficit := [], headSince := none }

/-- Order of pavilion and then region (R280). -/
def regionLt (a b : Nat × Nat) : Bool := decide (a.1 < b.1) || (decide (a.1 = b.1) && decide (a.2 < b.2))
def QCr.region (q : QCr) : Nat × Nat := (q.pav, q.cr.region.toNat)

/-- A region put in its place with deficit 0, unless it stands there. -/
def enterRegion (g : Nat × Nat) : List (Nat × Nat × Nat) → List (Nat × Nat × Nat)
  | [] => [(g.1, g.2, 0)]
  | (p, r, d) :: rest =>
    if (p, r) = g then (p, r, d) :: rest
    else if regionLt g (p, r) then (g.1, g.2, 0) :: (p, r, d) :: rest
    else (p, r, d) :: enterRegion g rest

/-- The region after one in the order of a level, around its end. -/
def nextRegion (l : List (Nat × Nat × Nat)) (g : Nat × Nat) : Option (Nat × Nat) :=
  match l.find? (fun x => regionLt g (x.1, x.2.1)) with
  | some x => some (x.1, x.2.1)
  | none => l.head?.map (fun x => (x.1, x.2.1))

/-- A region's deficit set. -/
def setDeficit (l : List (Nat × Nat × Nat)) (g : Nat × Nat) (n : Nat) : List (Nat × Nat × Nat) :=
  l.map (fun x => if (x.1, x.2.1) = g then (x.1, x.2.1, n) else x)
def getDeficit (l : List (Nat × Nat × Nat)) (g : Nat × Nat) : Nat :=
  match l.find? (fun x => (x.1, x.2.1) = g) with | some x => x.2.2 | none => 0

/-- The oldest CR of a region at a level that passes a test. -/
def Level.oldest (l : Level) (g : Nat × Nat) (f : QCr → Bool) : Option QCr :=
  (l.crs.filter (fun q => q.region = g && f q)).foldl (fun b q => match b with
    | none => some q
    | some x => if q.age < x.age then some q else b) none

/-- The head CR of a level: the oldest of the region at its pointer (log 15). -/
def Level.head (l : Level) : Option QCr :=
  match l.ptr with
  | none => none
  | some g => l.oldest g (fun _ => true)

/-- A CR added. -/
def Level.add (l : Level) (q : QCr) : Level :=
  { l with crs := l.crs ++ [q], ptr := some (l.ptr.getD q.region), deficit := enterRegion q.region l.deficit }

/-- Every CR that passes a test removed; regions left with none leave the order, and the pointer goes on (R280). -/
def Level.drop (l : Level) (f : QCr → Bool) : Level :=
  let crs := l.crs.filter (fun q => !f q)
  let stays := fun (g : Nat × Nat) => crs.any (fun q => q.region = g)
  let deficit := l.deficit.filter (fun x => stays (x.1, x.2.1))
  let ptr := match l.ptr with
    | none => none
    | some g => if stays g then some g else nextRegion deficit g
  { l with crs := crs, ptr := ptr, deficit := deficit }

/-- The note of since when a level's head stands there. -/
def Level.touch (l : Level) (cyc : Word64) : Level :=
  { l with headSince := match l.head, l.headSince with
      | none, _ => none
      | some q, some (a, c) => if a = q.age then some (a, c) else some (q.age, cyc)
      | some q, none => some (q.age, cyc) }

/-- The highest nonempty level of a die. -/
def Die.topLevel (d : Die) : Option (Nat × Level) :=
  (d.levels.filter (fun p => !p.2.crs.isEmpty)).getLast?

/-- A die's queues changed: regions with no CR leave the order, before and after; the notes of heads are brought up to date. -/
def State.modLevels (s : State) (d : Nat) (f : SMap Level → SMap Level) : State :=
  let tidy := fun (m : SMap Level) => m.map (fun (p : Nat × Level) => (p.1, p.2.drop (fun _ => false)))
  s.modDie d (fun x =>
    let y : Die := { x with levels := (tidy (f (tidy x.levels))).map (fun (p : Nat × Level) => (p.1, p.2.touch s.cyc)) }
    let top : Option (Nat × Level) := y.topLevel
    { y with top := match top with
        | none => none
        | some (p, l) =>
          match l.head, x.top with
          | some q, some (p', a, c) => if p' = p ∧ a = q.age then some (p, a, c) else some (p, q.age, s.cyc)
          | some q, none => some (p, q.age, s.cyc)
          | none, _ => none })

/-- The largest age below one that no queued record has. -/
def ageBelow (used : List Nat) (a : Nat) : Nat :=
  (((List.range (used.length + 1)).map (fun i => a - 1 - i)).find? (fun x => !used.contains x)).getD 0

/-- A record put into a die's queue at a level, with its region's values as they now stand (R273): at the end of its region's FIFO,
or at its front. -/
def State.enqueue (s : State) (d level : Nat) (pav : Nat) (cr : CR) (saved : Option Nat) (front : Bool) (ts : Word32) : State :=
  let eff := (regionEff s pav cr.region.toNat).getD noEff
  let l := mget level Level.empty (s.die d).levels
  let new := 2 ^ 64 + 2 ^ 32 * s.nextId
  let age := if front then
      match l.oldest (pav, cr.region.toNat) (fun _ => true) with
      | some q => ageBelow (s.queued.map (·.age)) q.age
      | none => new
    else new
  let q : QCr := { pav := pav, cr := cr, eff := eff, since := s.cyc, age := age, saved := saved, claim := none, ts := ts }
  s.fresh.modLevels d (fun m => mmod level Level.empty (fun l => l.add q) m)

/-- The home die of a record's frame pointer, or the one given (R278). -/
def queueDie (s : State) (pav : Nat) (fp : Word64) (other : Nat) : Nat :=
  if fp.toNat ≥ 2 ^ 48 then other
  else
    match s.pav? pav with
    | none => other
    | some _ =>
      match walk s pav fp.toNat (s.die other).tc with
      | none => other
      | some (l, _) => if l.pa + l.size > physTop then other else homeOf (l.pa + fp.toNat % l.size) / 8

/-- The records of one queue entry: all of a new gang's, else one. -/
def QCr.count (q : QCr) : Nat := if q.saved.isSome then 1 else q.cr.gang.toNat

/-- Does a die's queue have room for n records at a level: 64 on chip at each level, the rest spilled, up to 2^22 (R278)? -/
def roomFor (s : State) (d level n : Nat) : Bool :=
  let held := fun (p : Nat) => (mget p Level.empty (s.die d).levels).crs.foldl (fun n q => n + q.count) 0
  let spilled := (List.range 24).foldl (fun n p => n + (held p - 64)) 0
  decide (spilled + ((held level + n - 64) - (held level - 64)) ≤ 2 ^ 22)

/-- Is a saved context in some queue, or placed on a core? -/
def savedQueued (s : State) (id : Nat) : Bool :=
  s.queued.any (fun q => q.saved = some id) || s.cores.any (fun c => c.2.starting.any (fun r => r.2.saved = some id))

/-- A saved task's record queued again with RESUME set, at its level, at the front of its region's FIFO (R283, R385), on the die where
a member of its gang already is (R284); of a record with MBOX set, on that of its core (R278). -/
def State.requeue (s : State) (id : Nat) : State :=
  match mfind id s.saved with
  | none => s
  | some v =>
    if savedQueued s id then s
    else
      let t := v.task
      let cr : CR := { t.cr with resume := true }
      let v := { v with task := { t with cr := cr }, held := false, watchdog := false }
      let mate := fun (q : QCr) => match q.saved.bind (fun n => mfind n s.saved) with
        | some x => x.task.gangId.isSome && decide (x.task.gangId = t.gangId)
        | none => false
      let die := match s.dies.find? (fun d => d.2.levels.any (fun l => l.2.crs.any mate)) with
        | some d => d.1
        | none => if cr.mbox then dieOf cr.core.toNat else queueDie s t.pav t.cr.fp (dieOf v.core)
      ({ s with saved := mset id v s.saved }).enqueue die t.prio t.pav cr (some id) true v.ltime

/-- A region held by its policy released (R377): dispatch restarts, its held tasks are queued again. -/
def State.releaseRegion (s : State) (pav region : Nat) : State :=
  let s := s.modPav pav (fun p => { p with heldRegions := p.heldRegions.filter (fun h => h.1 ≠ region) })
  each (s.saved.filter (fun v => v.2.task.pav = pav && v.2.task.cr.region.toNat = region && !v.2.held && !v.2.watchdog && !v.2.task.stopped))
    (fun v s => s.requeue v.1) s

end Sys2Proof.Machine
end

