-- ==== Sys2Proof/Machine/Common.lean ====
section
/-!
DEFINITION. The instructions that every stream decodes alike and the block events: headers, block ends, tokens, waits,
loops, branches, special registers, address registers (spec/02 R31-R41, spec/08 R213-R225, spec/11 R285, R286, spec/19
R393).
-/

namespace Sys2Proof.Machine

/-! ## Block entry (R32-R35, R38, R285) -/

/-- The POP and PUSH masks and the repeat field of a header (Table 2-2). -/
def popMask (h : Word32) : Nat := nbits h.toNat 7 5
def pushMask (h : Word32) : Nat := nbits h.toNat 4 2
def hdrRepeat (h : Word32) : Nat := nbits h.toNat 18 8

/-- The fault of a header that a stream has reached, if it has one (R33). DESIGN CHOICE (log 45): of a wrong stream tag beside a
zero length or a set stamp bit, which the spec does not order, the tag is reported. -/
def headerFault (k : Stream) (h : Word32) : Option (BitVec 8) :=
  if nbits h.toNat 29 28 ≠ k.code then some fIllegalStream
  else if hdrLen h = 0 ∨ (k ≠ .m ∧ nbits h.toNat 1 0 ≠ 0) then some fIllegalInsn
  else none

/-- The tokens that an entry needs from each other stream: one for a POP, n more for a pending WAIT.tok (R32, R223). -/
def entryNeeds (k : Stream) (h : Word32) (w : Option WaitCond) : List (Stream × Nat) :=
  (otherStreams k).map (fun i => (i, b2n ((maskStreams k (popMask h)).contains i) + (match w with
    | some (.tok src n) => if src = i then n else 0
    | _ => 0)))

/-- The tokens of a FIFO that count now: those sent on an earlier cycle (R32). -/
def agedToks (s : State) (t : Task) (i j : Stream) : List Tok := (t.fifo i j).filter (fun x => x.at_ ≠ s.cyc)

/-- Is a pending generation condition reported to hold (R222)? -/
def genHolds (s : State) (w : Option WaitCond) : Bool :=
  match w with
  | some (.gen _ _ _ seen) => match seen with | some c => c ≠ s.cyc | none => false
  | _ => true

/-- Do a WAIT and a POP hold together (R221)? -/
def entryHolds (s : State) (t : Task) (k : Stream) (h : Word32) (w : Option WaitCond) : Bool :=
  genHolds s w && (entryNeeds k h w).all (fun p => decide (p.2 ≤ (agedToks s t p.1 k).length))

/-- The first cycle on which a stream's conditions held together. -/
def heldSince (t : Task) (k : Stream) (x : StreamCtx) (h : Word32) : Nat :=
  let toks := (entryNeeds k h x.wait).map (fun p => if p.2 = 0 then 0 else
    match (t.fifo p.1 k)[p.2 - 1]? with | some y => y.at_.toNat + 1 | none => 0)
  let gen := match x.wait with | some (.gen _ _ _ (some c)) => c.toNat + 1 | _ => 0
  toks.foldl max (max gen x.since.toNat)

/-- A stream's ready block (R285): the cycle since which it is ready. -/
def readyAt (s : State) (c : Nat) (k : Stream) (t : Task) : Option Nat :=
  let x := t.st k
  let h := (s.core c).headerAt x.pc.toNat
  if x.phase = .atHeader && decide (x.since.toNat ≤ s.cyc.toNat) && !t.stopped && t.saving.isNone && nbits h.toNat 31 30 = 3 && (headerFault k h).isNone
      && entryHolds s t k h x.wait then some (heldSince t k x h) else none

/-- A ready block of an engine: its slot, since when, its passed count, its level, when it was last served. -/
structure ReadyBlk where
  slot : Nat
  since : Nat
  passed : Nat
  prio : Nat
  served : Nat
  deriving DecidableEq, Repr

/-- The ready blocks of an engine, by slot. -/
def readyBlocks (s : State) (c : Nat) (k : Stream) : List ReadyBlk :=
  (s.core c).slots.filterMap (fun p => (readyAt s c k p.2).map (fun n =>
    let x := p.2.st k
    { slot := p.1, since := n, passed := x.passed, prio := p.2.prio
      served := match x.served with | some y => y.toNat + 1 | none => 0 }))

/-- The first of a list that no earlier one and no later one beats. -/
def bestOf (better : ReadyBlk → ReadyBlk → Bool) (l : List ReadyBlk) : Option ReadyBlk :=
  l.foldl (fun b x => match b with
    | none => some x
    | some y => if better x y then some x else some y) none

/-- The block that an engine enters next (R285). -/
def chosenSlot (s : State) (c : Nat) (k : Stream) : Option Nat :=
  let rs := readyBlocks s c k
  let old := rs.filter (fun r => decide (64 ≤ r.passed))
  if old.isEmpty then
    (bestOf (fun x y => decide (y.prio < x.prio) || (decide (x.prio = y.prio) && decide (x.served < y.served))) rs).map (·.slot)
  else (bestOf (fun x y => decide (x.since < y.since)) old).map (·.slot)

/-- The slot that holds an engine. -/
def Core.engine (k : Core) (st : Stream) : Option Nat := (mget st.code { busy := none } k.engines).busy
def State.setEngine (s : State) (c : Nat) (k : Stream) (b : Option Nat) : State :=
  s.modCore c (fun x => { x with engines := mset k.code { busy := b } x.engines })

/-- The pending A copies of a stream adopted, those of this cycle kept (R38). -/
def Task.adopt (t : Task) (k : Stream) (cyc : Word64) : Task :=
  let mine := fun (p : Nat × Word64 × Word64) => k ≠ .s && decide (p.1 / 8 = aIndex k 0 / 8) && p.2.2 ≠ cyc
  { t with
    areg := (t.acopy.filter mine).foldl (fun m p => mset p.1 p.2.1 m) t.areg
    acopy := t.acopy.filter (fun p => !mine p) }

/-- A context after entry of a block at its pc (R34, R35). -/
def StreamCtx.enter (x : StreamCtx) (h : Word32) (body : List Parcel) (id : Nat) (cyc : Word64) : StreamCtx :=
  let n : Word32 := if hdrRepeat h = 0 then x.lc0 else BitVec.ofNat 32 (hdrRepeat h)
  let y : StreamCtx := { x with
    hdr := h
    blk := x.pc
    lbuf := body
    lc0 := n
    reps := n
    pc := x.pc + 2
    phase := .inBlock
    l1 := none
    l2 := none
    wait := none
    owed := []
    blkId := id
    passed := 0
    served := some cyc
    feSince := none }
  if n = 0 then { y with pc := y.blkEnd, phase := .draining .header } else y

/-- The entry of a block by the issuing stream (R32, R34, R35, R38, R285): the tokens leave, the copies are adopted, the
other ready streams of the engine have been passed over. -/
def State.enterBlock (s : State) (t : Task) (h : Word32) : State :=
  let c := s.cur.core.val
  let l := s.cur.slot.val
  let k := s.cur.stream
  let others := (readyBlocks s c k).map (·.slot)
  let s := each (others.filter (· ≠ l)) (fun m s => s.modTask c m (fun u => u.modSt k (fun x => { x with passed := x.passed + 1 }))) s
  let body := tab (hdrLen h) (fun i => (s.core c).parcel ((t.st k).pc.toNat + 2 + i))
  let t := (entryNeeds k h (t.st k).wait).foldl (fun u p => u.popToks p.1 k p.2) t
  let t := (t.adopt k s.cyc).modSt k (fun x => x.enter h body s.nextId s.cyc)
  (s.fresh.setTask c l t).setEngine c k (some l)

/-- A WAIT.tok of 15 and a POP of the same source could never hold (R223). -/
def waitPopClash (k : Stream) (h : Word32) (w : Option WaitCond) : Bool :=
  (entryNeeds k h w).any (fun p => decide (fifoDepth < p.2))

def execBlockHeaderEntry (hdr : BitVec 30) (s : State) : Out :=
  onTask s fun t =>
    let c := s.cur.core.val
    let k := s.cur.stream
    let x := t.st k
    let h : Word32 := (3#2 ++ hdr : BitVec 32)
    if x.phase ≠ .atHeader then s.takeFault fIllegalInsn 0
    else
      match headerFault k h with
      | some f => s.takeFault f 0
      | none =>
        if waitPopClash k h x.wait then s.takeFault fIllegalOperand 0
        else if entryHolds s t k h x.wait && (s.curCore.engine k).isNone && chosenSlot s c k = some s.cur.slot.val then
          s.enterBlock t h
        else s

/-! ## Block ends (R36, R37, R220, R224, R230) -/

/-- Is every memory and tile effect of the instructions of one block of a stream performed at task scope (R36)? A store is so once
it has issued: no later access of the task to its line overtakes it, and every release that is ordered after it waits for it (Table 16-2,
R112, R423). -/
def effectsDone (s : State) (t : Task) (k : Stream) (blk : Nat) : Bool :=
  s.reqs.all (fun r => !(r.2.task = t.taskid && r.2.ctx.stream = k && r.2.blk = blk && r.2.loads)) &&
  match k with
  | .s => t.pend.all (fun p => !p.holds)
  | .v => t.fills.all (fun f => f.blk ≠ blk) && t.stores.all (fun f => f.blk ≠ blk)
  | .m => t.mq.all (fun p => p.blk ≠ blk)
  | .c => (taskSlots s t.uid).all (fun p => p.2.2.blk ≠ blk)

/-- The tokens of a completed block sent into the FIFOs that have room; the rest stay owed (R36). -/
def Task.pushOwed (t : Task) (k : Stream) (owed : List Stream) (x : Tok) : Task × List Stream :=
  owed.foldl (fun (p : Task × List Stream) j =>
    if p.1.room k j 1 then (p.1.sendToks k j [x], p.2) else (p.1, p.2 ++ [j])) (t, [])

/-- What follows a block whose tokens are all sent: the next header, a WAIT, the stream's or the task's end, a
pre-emption that YIELD asks for (R221, R224, R230). -/
def State.afterBlock (s : State) (c l : Nat) (k : Stream) (a : After) : State :=
  let goOn := fun (s : State) (w : Option WaitCond) =>
    s.modTask c l (fun t => t.modSt k (fun x => { x with phase := .atHeader, since := s.cyc, wait := w }))
  let stop := fun (s : State) => s.modTask c l (fun t => t.modSt k (fun x => { x with phase := .halted }))
  match a with
  | .header => goOn s none
  | .wait w => goOn s (some w)
  | .halt => stop s
  | .exit => (stop s).modTask c l (fun t => { t with exiting := true })
  | .yield =>
    let s := goOn s none
    match s.task? c l with
    | some t =>
      match yieldsTo s c l t with
      | some q => (s.setClaim (dieOf c) q.age (some (if q.cr.gang.toNat ≤ 1 then some c else none, [t.taskid]))).beginSave c l 4
      | none => s
    | none => s

/-- Owed tokens sent; when none is left the block is behind the stream. -/
def State.sendOwed (s : State) (c l : Nat) (k : Stream) (a : After) (owed : List Stream) : State :=
  match s.task? c l with
  | none => s
  | some t =>
    let r := t.pushOwed k owed (newTok s t k)
    let s := s.setTask c l (r.1.modSt k (fun x => { x with owed := r.2 }))
    if r.2.isEmpty then s.afterBlock c l k a else s

/-- The context of an event, if its task is there. -/
def atCtx (s : State) (x : Ctx) (f : Task → StreamCtx → State) : Out :=
  match s.task? x.core.val x.slot.val with
  | none => .next s
  | some t => .next (f t (t.st x.stream))

def execBlockComplete (x : Ctx) (s : State) : Out :=
  atCtx s x fun t y =>
    match y.phase with
    | .draining a =>
      if y.owed.isEmpty && !y.faulted && effectsDone s t x.stream y.blkId then
        let s := s.modCore x.core.val (fun k => { k with
          engines := k.engines.map (fun e => if e.1 = x.stream.code then (e.1, freeEngine x.slot.val e.2) else e) })
        s.sendOwed x.core.val x.slot.val x.stream a (maskStreams x.stream (pushMask y.hdr))
      else s
    | _ => s

def execTokenPushDeferred (x : Ctx) (s : State) : Out :=
  atCtx s x fun _ y =>
    match y.phase with
    | .draining a => if y.owed.isEmpty then s else s.sendOwed x.core.val x.slot.val x.stream a y.owed
    | _ => s

/-- May a stream issue now: a task not stopped nor being saved, on a core whose issue no limit withholds, at a header or in
a block of which the engine is not another slot's (R285, R290, R374, R379)? -/
def canIssue (s : State) (x : Ctx) : Bool :=
  match s.task? x.core.val x.slot.val with
  | none => false
  | some t =>
    let k := s.core x.core.val
    decide (s.stage = .running) && !t.stopped && t.saving.isNone && !k.withheld &&
    match (t.st x.stream).phase with
    | .atHeader => true
    | .inBlock =>
      match (mget x.stream.code { busy := none } k.engines).busy with
      | none => true
      | some l => l = x.slot.val
    | _ => false

def execNop (s : State) : Out := onTask s fun _ => s.finish 2
def execHalt (s : State) : Out :=
  onTask s fun _ => s.endBlockWith 2 (if s.cur.stream = .s then .exit else .halt)

/-- BEACON restarts the watchdog window of a persistent task (R225, R291). -/
def execBeacon (tag : BitVec 16) (s : State) : Out :=
  onTask s fun _ => (s.modCur (fun t => { t with
    beacon := (tag, s.cyc)
    wdCount := if t.eff.wdMode = 2 then 0 else t.wdCount })).finish 2

def execTksend (dst : Stream) (n : Fin 16) (s : State) : Out :=
  onTask s fun t =>
    let k := s.cur.stream
    if effectsDone s t k (t.st k).blkId && t.room k dst n.val then
      (s.modCur (fun t => t.sendToks k dst (List.replicate n.val (newTok s t k)))).finish 2
    else s

def execWaitTok (src : Stream) (n : Fin 16) (s : State) : Out :=
  onTask s fun _ => s.endBlockWith 2 (.wait (.tok src n.val))

/-- WAIT.gen of an address and a generation (R222). -/
def waitGen (t : Task) (va g : Word64) (s : State) : State :=
  if va.toNat % 16 ≠ 0 then s.takeFault fAlign va
  else
    match xlate s s.curDie t.pav va.toNat .read with
    | .bad c => s.takeMemFault c va.toNat
    | .miss => startWalk s s.curDie t.pav va.toNat
    | .ok l pa =>
      if l.cls ≠ .coh then s.takeFault fSyncClass va
      else s.endBlockWith 2 (.wait (.gen va pa (g.setWidth 32) none))

def execWaitGenS (addr gen : SSrc) (s : State) : Out :=
  onTask s fun t => if t.ready [addr, gen] then waitGen t (t.src addr) (t.src gen) s else s
def execWaitGenA (addr gen : AReg) (s : State) : Out :=
  onTask s fun t => waitGen t (s.areg t addr.val) (s.areg t gen.val) s

/-! ## Branches in any stream (R219) -/

def execBr (off : BitVec 24) (s : State) : Out :=
  onTask s fun t => s.branchTo t ((s.curSt.pc.toNat : Int) + off.toInt)

/-- BZ and BNZ: taken where the tested value is zero as asked. -/
def testBranch (zero : Bool) (t : Task) (v : Word64) (off : BitVec 14) (s : State) : State :=
  if decide (v = 0) = zero then s.branchTo t ((s.curSt.pc.toNat : Int) + off.toInt) else s.finish 2

def execBzS (a : SSrc) (off : BitVec 14) (s : State) : Out :=
  onTask s fun t => if t.srcReady a then testBranch true t (t.src a) off s else s
def execBnzS (a : SSrc) (off : BitVec 14) (s : State) : Out :=
  onTask s fun t => if t.srcReady a then testBranch false t (t.src a) off s else s
def execBzA (a : AReg) (off : BitVec 14) (s : State) : Out :=
  onTask s fun t => testBranch true t (s.areg t a.val) off s
def execBnzA (a : AReg) (off : BitVec 14) (s : State) : Out :=
  onTask s fun t => testBranch false t (s.areg t a.val) off s

/-! ## Loops (R39, R40) -/

/-- The parcels of an instruction, from its first one (Table 2-1). -/
def parcelLen (p : Parcel) : Nat :=
  match nbits p.toNat 15 14 with
  | 0 => 1
  | 2 => 3
  | _ => 2

/-- Does an instruction of a body end at parcel e of it, going on from parcel i? -/
def boundaryAt (body : List Parcel) (e : Nat) : Nat → Nat → Bool
  | 0, i => i = e
  | n + 1, i => i = e || (decide (i < e) && boundaryAt body e n (i + parcelLen (body.getD i 0)))

/-- The effect of LOOP (R40). -/
def openLoop (lvl2 : Bool) (len : BitVec 9) (n : Word32) (s : State) : State :=
  let x := s.curSt
  let b := x.pc + 2
  let e := b + len.setWidth 17
  let off := (b - x.blk - 2).toNat
  let inside := fun (l : Option (BitVec 17 × BitVec 17)) => match l with
    | none => true
    | some (_, e') => decide ((e - x.blk).toNat ≤ (e' - x.blk).toNat)
  if (if lvl2 then x.l2 else x.l1).isSome || !boundaryAt x.lbuf (off + len.toNat) len.toNat off
      || !decide (off + len.toNat ≤ hdrLen x.hdr) || !inside x.l1 || !inside x.l2 then s.takeFault fIllegalInsn 0
  else
    let s := s.modSt (fun x => if lvl2 then { x with lc2 := n } else { x with lc1 := n })
    if n = 0 then s.finish (2 + len.toNat)
    else s.chargeIssue.modSt (fun x =>
      let y := { x with pc := b, feSince := none }
      if lvl2 then { y with l2 := some (b, e) } else { y with l1 := some (b, e) })

def execLoopImm (lvl2 : Bool) (len : BitVec 9) (cnt : BitVec 12) (s : State) : Out :=
  onTask s fun _ => openLoop lvl2 len (cnt.setWidth 32) s
def execLoopRegS (lvl2 : Bool) (len : BitVec 9) (a : SSrc) (s : State) : Out :=
  onTask s fun t => if t.srcReady a then openLoop lvl2 len ((t.src a).setWidth 32) s else s
def execLoopRegA (lvl2 : Bool) (len : BitVec 9) (a : AReg) (s : State) : Out :=
  onTask s fun t => openLoop lvl2 len ((s.areg t a.val).setWidth 32) s

/-! ## Special registers (R213-R216, R241, R393) -/

/-- ENERGY (Table 8-1, R288). -/
def energyLeft (s : State) (acct : Nat) : Word64 :=
  match mfind acct s.accts with
  | none => 0
  | some a => if a.budget = 0 then BitVec.allOnes 64 else BitVec.ofNat 64 (a.budget - a.charge / 20000)

/-- VIOCNT of a pavilion in the current window (Table 19-11, R389). -/
def vioCount (s : State) (p : Pav) : Nat := if p.viocnt.2 = faultWindow s then p.viocnt.1.toNat else 0

/-- Is a special register index assigned (Tables 8-1, 19-11)? -/
def srAssigned (i : Nat) : Bool := decide (i < 0x10) || (decide (0x100 ≤ i) && decide (i ≤ 0x106))

/-- The fault of naming a special register, if it has one (R213, R241). -/
def srFault (t : Task) (i : Nat) : Option (BitVec 8) :=
  if 0x100 ≤ i ∧ !t.eff.sysSvc then some fPrivOp
  else if !srAssigned i then some fIllegalInsn
  else none

/-- The value of a special register for a stream (Tables 8-1, 19-11). -/
def readSr (s : State) (t : Task) (k : Stream) (i : Nat) : Word64 :=
  let x := t.st k
  let c := s.cur.core.val
  let p := s.pav? t.pav
  match i with
  | 0x000 => s.cyc
  | 0x001 => (s.core c).ltime.setWidth 64
  | 0x002 => t.taskid.setWidth 64
  | 0x003 => BitVec.ofNat 64 c
  | 0x004 => BitVec.ofNat 64 (t.cr.rank.toNat + t.cr.gang.toNat * 2 ^ 16)
  | 0x005 => BitVec.ofNat 64 t.prio
  | 0x006 => energyLeft s t.cr.lacct.toNat
  | 0x007 => BitVec.ofNat 64 (fpress s c)
  | 0x008 => t.stbase
  | 0x009 => t.stper.setWidth 64
  | 0x00A => x.lc0.setWidth 64
  | 0x00B => x.lc1.setWidth 64
  | 0x00C => x.lc2.setWidth 64
  | 0x00D => t.status
  | 0x00E => t.relts.setWidth 64
  | 0x00F => t.lease.setWidth 64
  | 0x100 => 1
  | 0x101 => BitVec.ofNat 64 t.pav
  | 0x102 => BitVec.ofNat 64 t.key
  | 0x103 => t.cr.region.setWidth 64
  | 0x104 => match p with | some p => BitVec.ofNat 64 (fltCount s p t.cr.region.toNat) | none => 0
  | 0x105 => match p with | some p => BitVec.ofNat 64 (vioCount s p) | none => 0
  | 0x106 => (s.core c).ecnt.setWidth 64
  | _ => 0

/-- The level that a write of PRIO asks for (R213): within FLOOR and CEIL, at most 21 for tenants, FLOOR once the launch is
exhausted. -/
def prioOf (s : State) (t : Task) (v : Nat) : Nat :=
  let gone := match mfind t.cr.lacct.toNat s.accts with | some a => a.exhausted | none => false
  if gone then t.eff.floor
  else
    let p := max t.eff.floor (min v t.eff.ceil)
    if t.pav = 128 then p else min p 21

/-- A saved task's record moved to a level of its die's queue, where it stands in one. -/
def State.relevel (s : State) (id p : Nat) : State :=
  each s.dies (fun d s =>
    match d.2.levels.flatMap (fun l => (l.2.crs.filter (fun q => q.saved = some id)).map (fun q => (l.1, q))) with
    | [] => s
    | (l, q) :: _ =>
      if l = p then s
      else s.modLevels d.1 (fun m =>
        mmod p Level.empty (fun x => x.add { q with since := s.cyc }) (mmod l Level.empty (fun x => x.drop (fun y => y.age = q.age)) m))) s

/-- A task's level set, and with it that of every member of its gang, wherever it is (R282). -/
def State.setPrio (s : State) (t : Task) (p : Nat) : State :=
  match t.gangId with
  | none => s.modCur (fun t => { t with prio := p })
  | some g =>
    let old := fun (t : Task) => if (mfind 0x005 t.srCyc).isSome then t.srCyc else mset 0x005 (BitVec.ofNat 64 t.prio, 0) t.srCyc
    let s := each (s.tasks.filter (fun x => x.2.2.gangId = some g)) (fun x s =>
      s.modTask x.1 x.2.1 (fun t => { t with prio := p, srCyc := old t })) s
    let put := fun (v : Saved) => if v.task.gangId = some g then { v with task := { v.task with prio := p } } else v
    let placed := fun (r : Starting) => if r.gangId = some g then { r with prio := p } else r
    let core := fun (k : Core) => ({ k with starting := k.starting.map (fun r => (r.1, placed r.2)) } : Core)
    let s := { s with
      saved := s.saved.map (fun v => (v.1, put v.2))
      cores := s.cores.map (fun (k : Nat × Core) => (k.1, core k.2)) }
    each (s.saved.filter (fun v => v.2.task.gangId = some g)) (fun v s => s.relevel v.1 p) s

/-- What an MFSR reads: the value before the writes of this cycle (R215); ECNT is its core's (R393). -/
def srNow (s : State) (t : Task) (k : Stream) (i : Nat) : Word64 :=
  match mfind i (if i = 0x106 then s.curCore.srCyc else t.srCyc) with
  | some (v, _) => v
  | none => readSr s t k i

/-- A register noted as written on this cycle by a stream, with its value before. -/
def noteSr (i : Nat) (old : Word64) (k : Stream) (m : SMap (Word64 × Nat)) : SMap (Word64 × Nat) :=
  match mfind i m with
  | some (v, n) => mset i (v, max n k.code) m
  | none => mset i (old, k.code) m

/-- A write of a special register under its access code (R5, R213-R216, R393). -/
def writeSr (s : State) (t : Task) (k : Stream) (i : Nat) (v : Word64) : State :=
  let st := fun (f : StreamCtx → StreamCtx) => s.modCur (fun t => t.modSt k f)
  let w : Word32 := v.setWidth 32
  match i with
  | 0x005 => s.setPrio t (prioOf s t (v.toNat % 32))
  | 0x00A => st (fun x => { x with lc0 := w })
  | 0x00B => st (fun x => { x with lc1 := w })
  | 0x00C => st (fun x => { x with lc2 := w })
  | 0x00D => s.modCur (fun t => { t with status := writeStatus t.status (v &&& ~~~t.flagged) })
  | 0x00F => s.modCur (fun t => { t with lease := if v.setWidth 8 = (0 : BitVec 8) then BitVec.ofNat 8 t.eff.lease else v.setWidth 8 })
  | 0x106 => s.modCurCore (fun c => { c with ecnt := c.ecnt &&& ~~~w })
  | _ => s

/-- An MTSR: of the writes of one cycle those of V follow those of S, then M, then C (R215). A counter is its own stream's
alone (R216). -/
def State.mtsr (s : State) (t : Task) (k : Stream) (i : Nat) (v : Word64) : State :=
  if decide (0x00A ≤ i) && decide (i ≤ 0x00C) then writeSr s t k i v
  else
    let behind : Bool := match mfind i t.srCyc with | some (_, n) => decide (k.code < n) | none => false
    let v := if behind && i = 0x00D then (t.status &&& 0xFFFF000000000300) ||| (v &&& 0x1F) else v
    let old := readSr s t k i
    let s := if behind && (i = 0x005 || i = 0x00F) then s else writeSr s t k i v
    if i = 0x106 then s.modCurCore (fun c => { c with srCyc := noteSr i old k c.srCyc })
    else s.modCur (fun u => { u with srCyc := noteSr i old k u.srCyc })

def execMfsrS (d : SDst) (idx : BitVec 10) (s : State) : Out :=
  onTask s fun t =>
    match srFault t idx.toNat with
    | some c => s.takeFault c 0
    | none => if t.dstReady d && t.canPend then (s.modCur (fun t => t.result d (srNow s t .s idx.toNat))).finish 2 else s

def execMfsrA (d : AReg) (idx : BitVec 10) (s : State) : Out :=
  onTask s fun t =>
    match srFault t idx.toNat with
    | some c => s.takeFault c 0
    | none => (s.modCur (fun t => t.setA s.cur.stream d.val (srNow s t s.cur.stream idx.toNat))).finish 2

def execMtsrS (a : SSrc) (idx : BitVec 10) (s : State) : Out :=
  onTask s fun t =>
    match srFault t idx.toNat with
    | some c => s.takeFault c 0
    | none => if t.srcReady a then (s.mtsr t .s idx.toNat (t.src a)).finish 2 else s

def execMtsrA (a : AReg) (idx : BitVec 10) (s : State) : Out :=
  onTask s fun t =>
    match srFault t idx.toNat with
    | some c => s.takeFault c 0
    | none => (s.mtsr t s.cur.stream idx.toNat (s.areg t a.val)).finish 2

/-! ## Address registers (R217, R218) -/

def execAwr (k : Stream) (n : AReg) (a : SSrc) (s : State) : Out :=
  onTask s fun t =>
    if t.srcReady a then
      (s.modCur (fun t => { t with acopy := t.acopy ++ [(aIndex k n.val, t.src a, s.cyc)] })).finish 2
    else s

/-- An A register of the issuing stream written with latency 1 (R218). -/
def aregOp (d : AReg) (f : Task → Word64) (s : State) : Out :=
  onTask s fun t => (s.modCur (fun u => u.setA s.cur.stream d.val (f t))).finish 2

/-- One 16-bit lane of an A register. -/
def laneOf (w : Word64) (lane : Nat) : Nat := w.toNat / 2 ^ (16 * lane) % 2 ^ 16

def execAmov (d a : AReg) (s : State) : Out := aregOp d (fun t => s.areg t a.val) s
def execAadd (d a : AReg) (imm : BitVec 18) (s : State) : Out := aregOp d (fun t => s.areg t a.val + imm.signExtend 64) s
def execAcset (d : AReg) (lane : Fin 4) (imm : BitVec 16) (s : State) : Out :=
  aregOp d (fun t => let w := s.areg t d.val
    BitVec.ofNat 64 (w.toNat - laneOf w lane.val * 2 ^ (16 * lane.val) + imm.toNat * 2 ^ (16 * lane.val))) s
def execAcinc (d : AReg) (lane : Fin 4) (imm : BitVec 16) (s : State) : Out :=
  aregOp d (fun t => laneAdd (s.areg t d.val) lane.val imm.toNat) s

end Sys2Proof.Machine
end

