-- ==== Sys2Proof/Machine/Memory.lean ====
section
/-!
DEFINITION. Scalar loads, stores and atomics, their requests at the home agents and what the core does with the answers
(spec/04 R107-R116, spec/16 R332-R349, R354, R412, R423).
-/

namespace Sys2Proof

/-- Bytes of an access size (R107). -/
def Size.bytes : Size → Nat
  | .b1 => 1 | .b2 => 2 | .b4 => 4 | .b8 => 8

end Sys2Proof

namespace Sys2Proof.Machine

/-! ## Values -/

/-- The register value of n bytes read, sign- or zero-extended (R107, R113). -/
def loadValue (sx : Bool) (n : Nat) (bs : List Byte) : Word64 :=
  if sx then BitVec.ofInt 64 (sext (natOf bs) (8 * n)) else BitVec.ofNat 64 (natOf bs)

/-- The value that an atomic writes over `old` (R113). -/
def amoNew (op : AmoOp) (n old v : Nat) : Nat :=
  let w := 2 ^ (8 * n)
  match op with
  | .add => (old + v) % w
  | .and => old &&& v
  | .or => old ||| v
  | .xor => old ^^^ v
  | .min => if sext v (8 * n) < sext old (8 * n) then v else old
  | .max => if sext v (8 * n) > sext old (8 * n) then v else old
  | .minu => if v < old then v else old
  | .maxu => if v > old then v else old
  | .swap => v

/-- The value of a sync word after an addition (R354). -/
def swAdd (w n : Nat) : Nat :=
  let target := nbits w 35 0
  let s := nbits w 71 36 + n
  let hit := decide (target ≠ 0) && decide (target ≤ s)
  let gen := if hit then (nbits w 103 72 + 1) % 2 ^ 32 else nbits w 103 72
  let s1 := if hit then s - target else s
  let past := nbit w 104 || (hit && decide (s1 ≠ 0)) || decide (2 ^ 36 - 1 < s1)
  target + min s1 (2 ^ 36 - 1) * 2 ^ 36 + gen * 2 ^ 72 + b2n past * 2 ^ 104 + nbits w 127 105 * 2 ^ 105

/-- The value of a sync word after SWINIT (R236). -/
def swInit (w target : Nat) : Nat := target + nbits w 103 72 * 2 ^ 72 + nbits w 127 105 * 2 ^ 105

/-! ## What an S stream has outstanding (R112, R335, R339, R412) -/

/-- The memory requests of a task's S stream. -/
def sReqs (s : State) (t : Task) : List Req := (mvals s.reqs).filter (fun r => r.task = t.taskid && r.ctx.stream = .s)

/-- The memory requests of a task that are ordered before what a stream of it does next: its own earlier ones, and those of the blocks
of the other streams whose tokens it has popped, as far as it has `seen` them (R112). -/
def earlier (s : State) (t : Task) (k : Stream) (seen : List Nat) : List Req :=
  (mvals s.reqs).filter (fun r => r.task = t.taskid && (r.ctx.stream = k || seenBefore seen r.ctx.stream r.tag))

/-- Is a request an atomic, which a FENCE counts as a load and as a store (R226)? -/
def Req.atomic (r : Req) : Bool :=
  match r.kind with
  | .amo .. | .cas .. | .swadd _ | .swinit _ | .join .. => true
  | _ => false

/-- The remote operations of a context's scalar stream. -/
def sRops (s : State) : List RemoteOp := (mvals s.rops).filter (fun r => match r.owner with
  | .scalar x _ => x.core = s.cur.core && x.slot = s.cur.slot
  | _ => false)

/-- Is an access of the task's scalar requests or vector stores to the line of an address still unacknowledged (R412, Table 16-2:
its four streams see what has been performed at task scope)? -/
def lineBusy (s : State) (t : Task) (pa : Nat) : Bool := s.reqs.any (fun r => r.2.task = t.taskid && lineOf r.2.pa = lineOf pa)

/-- Does a request of the stream that issues to the line of an address stand before a store there, which then is sent later (R412)? -/
def ownLine (s : State) (t : Task) (pa : Nat) : Bool :=
  s.reqs.any (fun r => r.2.task = t.taskid && r.2.ctx.stream = s.cur.stream && lineOf r.2.pa = lineOf pa)

/-- Must a store wait at issue for what the task has outstanding at its line? One to a COH line need not wait for stores of its own
stream: it is sent after them (R339, R412). -/
def storeBusy (s : State) (t : Task) (cls : PClass) (pa : Nat) : Bool :=
  s.reqs.any (fun r => r.2.task = t.taskid && lineOf r.2.pa = lineOf pa
    && !(cls = .coh && r.2.cls = .coh && r.2.ctx.stream = s.cur.stream && !r.2.loads))

/-- Is a later load, or a later store, held by what is pending: an acquire, a FENCE of a kind that names it, a DEV
access (R112, R115, R226, R335)? -/
def heldBack (s : State) (t : Task) (load : Bool) : Bool :=
  !(sRops s).isEmpty || (sReqs s t).any (fun r => r.cls = .dev) || t.pend.any (fun p => p.acq || match p.res with
    | .fence _ kinds acq rel _ => acq || (if load then kinds.getLsbD 3 || kinds.getLsbD 1 else rel || kinds.getLsbD 2 || kinds.getLsbD 0)
    | _ => false)

/-- Have the accesses ordered before a release of the S stream been performed as its scope asks: from core scope on all of the
stream's own and those of the blocks whose tokens it has popped, at task scope its loads and atomics; the remote ones at system
scope (R112, R339, R423)? -/
def releaseReady (s : State) (t : Task) (sc : Scope) : Bool :=
  (if scopeNum sc = 0 then (sReqs s t).all (fun r => !r.loads) else (earlier s t .s (t.st .s).seen).isEmpty)
    && (decide (scopeNum sc < 4) || (sRops s).isEmpty)

/-! ## Issuing a request -/

/-- The flit type of a request, and that of its answer with its flits (Table 21-2). -/
def ReqKind.flit : ReqKind → Nat
  | .load .. | .desc _ | .gen => flRead
  | .store .. | .storeBits .. => flWrite
  | .swadd _ => flSwadd
  | .amo .. | .cas .. | .swinit _ | .join .. => flAtomic
  | .notifD => flAck
def ReqKind.answerFlits : ReqKind → Nat × Nat
  | .load .. | .desc _ => (flData, 2)
  | .gen | .amo .. | .cas .. | .notifD => (flData, 1)
  | .store .. | .storeBits .. | .swadd _ | .swinit _ | .join .. => (flAck, 1)

/-- The request flit of a core's access put before the fabric, under its region's INJCAP (R405, R410). -/
def State.sendFlit (s : State) (e : Eff) (c pa : Nat) (k : ReqKind) (pav id : Nat) : State := s.lineRequest c k.flit id 1 pa pav e.injCap

/-- The answer of a home to a request put before the fabric. -/
def State.answerFlits (s : State) (r : Req) : State :=
  s.lineAnswer r.ctx.core.val r.kind.answerFlits.1 r.tag r.kind.answerFlits.2 r.pa r.pav

/-- Does a request's answer take more than one flit, and so an entry of the reassembly table (R411)? -/
def Req.long (r : Req) : Bool := decide (1 < r.kind.answerFlits.2)

/-- A request of the issuing stream with the number that comes next, which is also its tag. -/
def State.reqOf (s : State) (t : Task) (va pa : Nat) (l : Leaf) (sc : Scope) (rd : Nat) (k : ReqKind) (stage : ReqStage) : Req :=
  { ctx := s.cur, task := t.taskid, pav := t.pav, orig := t.eff.orig s.cur.core.val, blk := s.curSt.blkId, tag := s.nextId, iaddr := s.curSt.pc, va := BitVec.ofNat 64 va,
    pa := pa, cls := l.cls, key := l.key, scope := sc, rd := rd, lt := s.curCore.ltime, kind := k, stage := stage }

/-- Does a request only write its line, so that its home reads nothing for it (R364)? -/
def Req.writesOnly (r : Req) : Bool :=
  match r.kind with
  | .store .. | .storeBits .. => true
  | _ => false

/-- A request of the issuing stream sent; an answer of several flits has its entry reserved. -/
def State.request (s : State) (t : Task) (va pa : Nat) (l : Leaf) (sc : Scope) (rd : Nat) (k : ReqKind) : State :=
  let r := s.reqOf t va pa l sc rd k .sent
  let s := if r.long then s.takeEntry s.cur.core.val s.nextId (lineOf pa) else s
  (({ s.fresh with reqs := mset s.nextId r s.reqs } : State).toDram r.orig pa (r.cls ≠ .priv && r.cls ≠ .rshr && r.writesOnly) l.key s.nextId none).sendFlit
    t.eff s.cur.core.val pa k t.pav s.nextId

/-- A store of the issuing stream sent, or kept until the stream's earlier accesses to its line are acknowledged (R412). -/
def State.requestStore (s : State) (t : Task) (va pa : Nat) (l : Leaf) (rd : Nat) (k : ReqKind) : State :=
  if l.cls = .coh && ownLine s t pa then { s.fresh with reqs := mset s.nextId (s.reqOf t va pa l .dev rd k .held) s.reqs }
  else s.request t va pa l .dev rd k

/-- A result of the issuing instruction reserved, with the number of its request (R88). -/
def State.pendResult (s : State) (d : SDst) (va : Nat) (acq : Bool) (res : SRes) : State :=
  let p : SPend := { tag := s.nextId, dst := d, qpos := some 0, iaddr := s.curSt.pc, faddr := BitVec.ofNat 64 va,
                     holds := true, acq := acq, res := res }
  s.modCur (fun t => t.reserve p)

/-- A checked access of the issuing stream at n aligned bytes (Table 4-7): a fault, a walk to wait for, or the access. -/
def withAccess (s : State) (t : Task) (va : Word64) (n : Nat) (acc : AccKind) (f : Leaf → Nat → State) : State :=
  if va.toNat % n ≠ 0 then s.takeFault fAlign va
  else
    match xlate s s.curDie t.pav va.toNat acc with
    | .bad c => s.takeMemFault c va.toNat
    | .miss => startWalk s s.curDie t.pav va.toNat
    | .ok l pa => f l pa

/-- The valid copy of a COH line in the issuing core's L1 (R345). -/
def cohCopy (s : State) (key pa : Nat) : Option CLine := cohValid s s.cur.core.val key (lineOf pa)

/-- A DEV access goes only once the PRIV stores that its stream made before it have been written back to memory (R335): the
write-backs of a core's lines of a pavilion and key begun, and whether none is left. -/
def State.devReadyAt (s : State) (c pav key : Nat) : State × Bool :=
  let dirty := fun (l : CLine) => !l.coh && l.key = key && l.pav = pav && l.dirty ≠ 0
  let open_ := s.drams.any (fun m => m.2.queues.any (fun q => q.2.any (fun r => r.pay.isSome && r.key = key)))
  if (s.core c).l1.any dirty || (s.die (dieOf c)).dlc.any dirty then (s.releaseCaches c pav key true, false)
  else (s, !open_)

/-- The same for the stream that issues. -/
def State.devReady (s : State) (t : Task) : State × Bool := s.devReadyAt s.cur.core.val t.pav t.key

/-- The read-time accumulator of a task raised (R344). -/
def Task.sawTime (t : Task) (w : Word32) : Task := { t with rdts := tmax w t.rdts }

/-- A value out of a line that the core's caches have: visible after the latency of a hit in the L1, arriving at some time from the
DLC, or as poison, whose fault comes with it (R88, R91-R93, Table 4-2). -/
def State.hitResult (s : State) (d : SDst) (va : Nat) (v : Word64) (poison : Bool) (lat : Option Nat) : State :=
  if poison then (s.pendResult d va false (.poisoned v)).fresh
  else match lat with
    | some n => s.fresh.modCur (fun t => t.slowResult d v s.nextId s.curSt.pc (s.cyc + BitVec.ofNat 64 n) true)
    | none => (s.pendResult d va false (.value v)).fresh

/-- A load's value out of a line that the core has. -/
def State.lineResult (s : State) (l : CLine) (d : SDst) (va pa n : Nat) (sx : Bool) (lat : Option Nat) : State :=
  s.hitResult d va (loadValue sx n (slice l.data (pa % 128) n)) l.poison lat

/-- The latency of a hit on a line that is in the core's L1, none where only the DLC has it (Table 4-2). -/
def hitLat (s : State) (key pa lat : Nat) : Option Nat :=
  if (lineFind s.curCore.l1 key (lineOf pa) false).isSome then some lat else none

/-- A load of n bytes (R107, R109-R112). -/
def loadAt (t : Task) (d : SDst) (va : Word64) (n : Nat) (sx acq : Bool) (rd : Nat) (s : State) : State :=
  withAccess s t va n .read fun l pa =>
    if heldBack s t true || lineBusy s t pa || !t.canPend then s
    else
      let ask := fun (s : State) => if !reasmFree s s.cur.core.val then s else
        (((s.pendResult d va.toNat acq .waiting).request t va.toNat pa l .dev rd (.load n sx acq))).finish 2
      match l.cls with
      | .dev =>
        if (sReqs s t).isEmpty then
          let r := s.devReady t
          if r.2 then ask r.1 else r.1
        else s
      | .coh =>
        match cohCopy s l.key pa with
        | none => ask s
        | some c =>
          let s := (s.modCur (fun t => t.sawTime c.wts)).putL1 s.cur.core.val c false
          let s := s.lineResult c d va.toNat pa n sx (some 4)
          (if acq then s.acquireAt s.cur.core.val t .dev c.wts else s).finish 2
      | _ =>
        if !privHit s s.cur.core.val l.key (lineOf pa) then ask s
        else
        let lat := hitLat s l.key pa 4
        let (s, c) := s.fetchPriv s.cur.core.val t.pav l.key (lineOf pa) rd true
        let s := s.lineResult c d va.toNat pa n sx lat
        (if acq then s.acquireAt s.cur.core.val t .dev s.curCore.ltime else s).finish 2

/-- A store of n bytes (R108, R109, R111, R112, R339). -/
def storeAt (t : Task) (v va : Word64) (n : Nat) (rel : Bool) (rd : Nat) (s : State) : State :=
  withAccess s t va n .store fun l pa =>
    if heldBack s t false || storeBusy s t l.cls pa || (sReqs s t).any Req.loads || (rel && !releaseReady s t .dev)
        || (l.cls = .dev && !(sReqs s t).isEmpty) then s
    else if l.cls = .dev && !(s.devReady t).2 then (s.devReady t).1
    else
      let s := if rel then s.releaseAt s.cur.core.val t .dev else s
      let mask := spanMask (pa % 128) n
      let data := spanData (pa % 128) (bytesOf n v.toNat)
      let hit := (l.cls = .priv || l.cls = .rshr) && privHit s s.cur.core.val l.key (lineOf pa)
      if hit then (s.writePriv (t.eff.orig s.cur.core.val) s.cur.core.val t.pav l.key (lineOf pa) rd mask data).finish 2
      else (s.requestStore t va.toNat pa l rd (.store mask data rel)).finish 2

/-- The old value that an atomic returns (R113). -/
def oldValue (n old : Nat) : Word64 := loadValue (decide (n = 4)) n (bytesOf n old)

/-- An atomic of n bytes at a scope, `f` the value it writes over an old one, none where it writes nothing (R113-R116). -/
def atomicAt (t : Task) (d : SDst) (va : Word64) (n : Nat) (sc : Scope) (f : Nat → Option Nat) (k : ReqKind) (len : Nat)
    (s : State) : State :=
  withAccess s t va n .store fun l pa =>
    if heldBack s t true || heldBack s t false || lineBusy s t pa || (sReqs s t).any Req.loads || !releaseReady s t sc
        || (l.cls = .dev && !(sReqs s t).isEmpty) || !t.canPend then s
    else if l.cls = .dev && !(s.devReady t).2 then (s.devReady t).1
    else
      let c := s.cur.core.val
      let s := s.releaseAt c t sc
      if !((l.cls = .priv || l.cls = .rshr) && privHit s c l.key (lineOf pa)) then
        ((s.pendResult d va.toNat true .waiting).request t va.toNat pa l sc 0 k).finish len
      else
        let lat := hitLat s l.key pa 6
        let (s, x) := s.fetchPriv c t.pav l.key (lineOf pa) 0 false
        let old := natOf (slice x.data (pa % 128) n)
        let s := match f old with
          | some v => s.writePriv (t.eff.orig c) c t.pav l.key (lineOf pa) 0 (spanMask (pa % 128) n) (spanData (pa % 128) (bytesOf n v))
          | none => s
        let s := s.hitResult d va.toNat (oldValue n old) x.poison lat
        (s.acquireAt c t sc s.curCore.ltime).finish len

/-! ## Meanings of the S stream's accesses -/

/-- The effective address of format SM (R107). -/
def smAddr (b : Word64) (off : BitVec 9) (n : Nat) : Word64 := b + off.signExtend 64 * BitVec.ofNat 64 n

/-- LD and LDACQ. -/
def execLoad (acq : Bool) (o : LoadOp) (s : State) : Out :=
  onTask s fun t =>
    if t.ready [o.base] && t.dstReady o.d then
      loadAt t o.d (smAddr (t.src o.base) o.off o.size.bytes) o.size.bytes o.sx acq o.rd.val s
    else s

/-- ST and STREL. -/
def execStore (rel : Bool) (o : StoreOp) (s : State) : Out :=
  onTask s fun t =>
    if t.ready [o.src, o.base] then
      storeAt t (t.src o.src) (smAddr (t.src o.base) o.off o.size.bytes) o.size.bytes rel o.rd.val s
    else s

def execLd (o : LoadOp) (s : State) : Out := execLoad false o s
def execSt (o : StoreOp) (s : State) : Out := execStore false o s
def execLdacq (o : LoadOp) (s : State) : Out := execLoad true o s
def execStrel (o : StoreOp) (s : State) : Out := execStore true o s

/-- The bytes of an atomic (R113). -/
def wordBytes (dword : Bool) : Nat := if dword then 8 else 4

/-- An AMO (R113). -/
def execAmo (op : AmoOp) (o : AmoF) (s : State) : Out :=
  onTask s fun t =>
    let n := wordBytes o.dword
    let v := (t.src o.val).toNat % 2 ^ (8 * n)
    if t.ready [o.addr, o.val] && t.dstReady o.d then
      atomicAt t o.d (t.src o.addr) n o.scope (fun old => some (amoNew op n old v)) (.amo op n (BitVec.ofNat 64 v)) 2 s
    else s

def execAmoadd (o : AmoF) (s : State) : Out := execAmo .add o s
def execAmoand (o : AmoF) (s : State) : Out := execAmo .and o s
def execAmoor (o : AmoF) (s : State) : Out := execAmo .or o s
def execAmoxor (o : AmoF) (s : State) : Out := execAmo .xor o s
def execAmomin (o : AmoF) (s : State) : Out := execAmo .min o s
def execAmomax (o : AmoF) (s : State) : Out := execAmo .max o s
def execAmominu (o : AmoF) (s : State) : Out := execAmo .minu o s
def execAmomaxu (o : AmoF) (s : State) : Out := execAmo .maxu o s
def execAmoswap (o : AmoF) (s : State) : Out := execAmo .swap o s

def execCas (o : AmoF) (cmp : SSrc) (s : State) : Out :=
  onTask s fun t =>
    let n := wordBytes o.dword
    let v := (t.src o.val).toNat % 2 ^ (8 * n)
    let c := (t.src cmp).toNat % 2 ^ (8 * n)
    if t.ready [o.addr, o.val, cmp] && t.dstReady o.d then
      atomicAt t o.d (t.src o.addr) n o.scope (fun old => if old = c then some v else none)
        (.cas n (BitVec.ofNat 64 c) (BitVec.ofNat 64 v)) 3 s
    else s

/-! ## Sync words and joins from the S stream (R233, R236) -/

/-- A release at device scope that names a sync word or a join record: the checks of R222 with the access a write (Table 4-7), then
its request. -/
def syncReq (t : Task) (va : Word64) (align : Nat) (k : ReqKind) (s : State) : State :=
  withAccess s t va align .store fun l pa =>
    if l.cls ≠ .coh then s.takeFault fSyncClass va
    else if heldBack s t true || heldBack s t false || !releaseReady s t .dev then s
    else ((s.releaseAt s.cur.core.val t .dev).request t va.toNat pa l .dev 0 k).finish 2

def execSwinit (a b : SSrc) (s : State) : Out :=
  onTask s fun t =>
    if !t.ready [a, b] then s
    else
      let n := (t.src b).toNat
      if n = 0 ∨ 2 ^ 36 - 1 < n then s.takeFault fIllegalOperand 0
      else syncReq t (t.src a) 16 (.swinit n) s

def execBarr (a : SSrc) (s : State) : Out :=
  onTask s fun t => if t.ready [a] then syncReq t (t.src a) 16 (.swadd 1) s else s

def execJoin (a : SSrc) (s : State) : Out :=
  onTask s fun t => if t.ready [a] then syncReq t (t.src a) 64 (.join t.pav t.cr.region.toNat t.cr.lacct) s else s

/-! ## At the home agent (Table 16-3) -/

/-- The task that a request is of, resident or saved. -/
def State.taskOf (s : State) (r : Req) : Option Task :=
  match (s.task? r.ctx.core.val r.ctx.slot.val).filter (fun t => t.taskid = r.task) with
  | some t => some t
  | none => ((s.saved.find? (fun v => v.2.task.taskid = r.task)).map (·.2.task)).filter (fun _ => r.task ≠ 0)

/-- The write time of a request at its home: the sender's LTIME, and RELTS for releases and atomics (R345). -/
def reqTime (s : State) (r : Req) (rel : Bool) : Word32 :=
  let h := s.home (homeOf r.pa)
  storeTime h s.dev.floor (lineOf r.pa) (if rel then [r.lt, ((s.taskOf r).map (·.relts)).getD 0] else [r.lt])

/-- Is a request at its home: of this kind and not yet performed? -/
def Req.waiting (r : Req) : Bool := r.stage = .sent

/-- The line of an address as its home answers it. -/
def homeLine (s : State) (r : Req) : List Byte := s.bytesK r.key (128 * lineOf r.pa) 128
def homePoison (s : State) (r : Req) : Bool := s.poison.contains (lineOf r.pa)

/-- A write performed at the home: a COH line takes its write time; the answer carries what was read before and the line
as it now is (log 13). -/
def State.performWrite (s : State) (id : Nat) (r : Req) (rel : Bool) (mask : BitVec 128) (data old : List Byte) : State :=
  let s := if r.cls = .coh then s.floorFor (fun s => reqTime s r rel) else s
  let w := if r.cls = .coh then reqTime s r rel else 0
  if r.cls = .coh && beyondFloor s w then s
  else
    let s := s.putLine r.key (lineOf r.pa) mask data
    let s := if r.cls = .coh then s.stamp r.pa w else s
    ({ s with reqs := mset id { r with stage := .done (old ++ homeLine s r) w w (homePoison s r) } s.reqs } : State).answerFlits r

/-- Is a request one for a line that the die's caches take (R332)? -/
def Req.cached (r : Req) : Bool := r.cls = .priv || r.cls = .rshr

/-- A PRIV or RSHR line brought into the DLC of the die that asked for it; the access itself is the core's (R332). -/
def State.bringLine (s : State) (id : Nat) (r : Req) : State :=
  let s := s.fillPriv r.ctx.core.val r.pav r.key (lineOf r.pa) r.rd
  ({ s with reqs := mset id { r with stage := .done [] 0 0 false } s.reqs } : State).answerFlits r

/-- A PRIV or RSHR line that has left the DLC before its core could use it asked for again. -/
def State.askAgain (s : State) (id : Nat) (r : Req) : State :=
  let cap := match s.taskOf r with | some t => t.eff.injCap | none => 0
  (({ s with reqs := mset id { r with stage := .sent } s.reqs } : State).toDram r.orig r.pa false r.key id none).lineRequest
    r.ctx.core.val r.kind.flit id 1 r.pa r.pav cap

/-- Does an earlier DEV access of a request's stream wait to be performed (R335)? -/
def devBehind (s : State) (id : Nat) (r : Req) : Bool :=
  s.reqs.any (fun x => decide (x.1 < id) && x.2.task = r.task && x.2.ctx.stream = r.ctx.stream && x.2.cls = .dev && x.2.waiting)

/-- A request still to be performed, which the stack has served, in the order of its stream's DEV accesses (R335, R360). -/
def atReq (s : State) (id : Nat) (f : Req → State) : Out :=
  match mfind id s.reqs with
  | some r => .next (if r.waiting && !atDram s id && !(r.cls = .dev && devBehind s id r) then
      (if r.cached then s.bringLine id r else f r) else s)
  | none => .next s

/-- The write time and lease end that a load leaves its line at the home (Table 16-3). -/
def loadTimes (s : State) (r : Req) : Word32 × Word32 :=
  let lease := match s.taskOf r with | some t => t.lease.toNat | none => 1
  loadTime (s.home (homeOf r.pa)) s.dev.floor (lineOf r.pa) r.lt lease

/-- The latest time that a request sets at its home. -/
def timeOf (s : State) (r : Req) : Word32 :=
  match r.kind with
  | .load .. | .desc _ | .gen => (loadTimes s r).2
  | .store _ _ rel => reqTime s r rel
  | .storeBits .. => reqTime s r false
  | _ => reqTime s r true

/-- A load at its home extends the line's rts (Table 16-3); DEV pages are read with no timestamp. -/
def State.performLoad (s : State) (id : Nat) (r : Req) : State :=
  let s := if r.cls = .coh then s.floorFor (fun s => (loadTimes s r).2) else s
  let ts := if r.cls = .coh then loadTimes s r else (0, 0)
  if r.cls = .coh && beyondFloor s ts.2 then s
  else
    let s := if r.cls = .coh then s.modHome (homeOf r.pa) (fun h => tsSet (busyLines s) h (lineOf r.pa) ts.1 ts.2) else s
    ({ s with reqs := mset id { r with stage := .done (homeLine s r) ts.1 ts.2 (homePoison s r) } s.reqs } : State).answerFlits r

def execHomeLoad (id : Nat) (s : State) : Out :=
  atReq s id fun r =>
    match r.kind with
    | .load .. | .desc _ => s.performLoad id r
    | _ => s

/-- The bytes of a line that a bit mask touches. -/
def touched (mask : BitVec 1024) : BitVec 128 :=
  BitVec.ofNat 128 ((List.range 128).foldl (fun n i => if mask.toNat / 2 ^ (8 * i) % 256 = 0 then n else n + 2 ^ i) 0)
/-- A line with the bits of a mask replaced (R137). -/
def mergeBits (mask data : BitVec 1024) (line : List Byte) : List Byte :=
  bytesOf 128 ((BitVec.ofNat 1024 (natOf line) &&& ~~~mask) ||| (data &&& mask)).toNat

def execHomeStore (id : Nat) (s : State) : Out :=
  atReq s id fun r =>
    match r.kind with
    | .store mask data rel => s.performWrite id r rel mask data []
    | .storeBits mask data => s.performWrite id r false (touched mask) (mergeBits mask data (homeLine s r)) []
    | _ => s

/-- A read-modify-write at the home of the n bytes at a request's address; none writes nothing but is still performed. -/
def State.performAtomic (s : State) (id : Nat) (r : Req) (n : Nat) (f : Nat → Option Nat) : State :=
  let off := r.pa % 128
  let old := slice (homeLine s r) off n
  match f (natOf old) with
  | some v => s.performWrite id r true (spanMask off n) (spanData off (bytesOf n v)) old
  | none => s.performWrite id r true 0 [] old

def execHomeAtomic (id : Nat) (s : State) : Out :=
  atReq s id fun r =>
    match r.kind with
    | .amo op n v => s.performAtomic id r n (fun old => some (amoNew op n old v.toNat))
    | .cas n c v => s.performAtomic id r n (fun old => if old = c.toNat then some v.toNat else none)
    | .swinit target => s.performAtomic id r 16 (fun old => some (swInit old target))
    | _ => s

def execSyncWordAdd (id : Nat) (s : State) : Out :=
  atReq s id fun r =>
    match r.kind with
    | .swadd n => s.performAtomic id r 16 (fun old => some (swAdd old n))
    | _ => s

/-- A record submitted to a dispatcher. -/
def State.submit (s : State) (x : CrSub) : State := { s.fresh with crsubs := mset s.nextId x s.crsubs }

/-- JOIN at the home (R233): the counter is decremented, and the CR at 0x20 submitted when it reaches 0. The answer's old
value says whether it was already 0. -/
def State.performJoin (s : State) (id : Nat) (r : Req) (pav region : Nat) (acct : BitVec 20) : State :=
  let off := r.pa % 128
  let n := natOf (slice (homeLine s r) off 8)
  if n = 0 then s.performWrite id r true 0 [] (bytesOf 8 0)
  else
    let s' := s.performWrite id r true (spanMask off 8) (spanData off (bytesOf 8 (n - 1))) (bytesOf 8 n)
    if n = 1 && (match mfind id s'.reqs with | some x => !x.waiting | none => false) then
      s'.submit { pav := pav, rec_ := s'.bytesK r.key (r.pa + 0x20) 32, addr := r.va.toNat + 0x20, src := .join r.task region (homeOf r.pa) acct,
                  acct := some acct, checked := false, ts := (tsGet (s'.home (homeOf r.pa)) s'.dev.floor (lineOf r.pa)).1 }
    else s'

def execJoinAtHome (id : Nat) (s : State) : Out :=
  atReq s id fun r =>
    match r.kind with
    | .join pav region acct => s.performJoin id r pav region acct
    | _ => s

/-! ## Back at the core -/

/-- A copy of a COH line in a core's L1 with its times: renewed where it is of the same write, replaced where it is older, and kept
where an answer on its way was overtaken (R341, Table 16-3). -/
def State.installCoh (s : State) (c pav : Nat) (pa key rd : Nat) (line : List Byte) (wts rts : Word32) (poison : Bool) : State :=
  let new : CLine :=
    { line := lineOf pa, key := key, pav := pav, coh := true, data := line, valid := BitVec.allOnes 128, dirty := 0,
      orig := { req := 0, svc := 0, deadline := 0 }, wts := wts, rts := rts, poison := poison }
  match lineFind (s.core c).l1 key (lineOf pa) true with
  | none => if rd = 3 then s else s.putL1 c new (decide (rd = 2))
  | some x =>
    if x.wts = wts then s.putL1 c { x with rts := tmax rts x.rts } (decide (2 ≤ rd))
    else if later 32 x.wts.toNat wts.toNat then s
    else s.putL1 c new (decide (2 ≤ rd))

/-- The line that a load's answer gives its core: its own copy, where only the lease was renewed (Table 16-3). -/
def renewed (s : State) (c pa key : Nat) (line : List Byte) (wts : Word32) (poison : Bool) : List Byte × Bool :=
  match lineFind (s.core c).l1 key (lineOf pa) true with
  | some x => if x.wts = wts then (x.data, x.poison) else (line, poison)
  | none => (line, poison)

/-- What an acknowledged write of a COH line does at its core (Table 16-3): LTIME and RELTS rise, a copy takes the line. -/
def State.acked (s : State) (r : Req) (line : List Byte) (w : Word32) (poison : Bool) : State :=
  if r.cls ≠ .coh then s
  else
    let c := r.ctx.core.val
    let s := s.raiseLtime c w
    let up := fun (t : Task) => if t.taskid = r.task then { t with relts := tmax w t.relts } else t
    let s := s.modTask c r.ctx.slot.val up
    let s := { s with saved := s.saved.map (fun v => (v.1, { v.2 with task := up v.2.task })) }
    match lineFind (s.core c).l1 r.key (lineOf r.pa) true with
    | some x =>
      if later 32 x.wts.toNat w.toNat then s
      else s.modCore c (fun k => { k with l1 := lineSet k.l1 { x with data := line, wts := w, rts := w, poison := poison } })
    | none => s

/-- The bytes that a store is to write; of other requests all are taken to be written. -/
def Req.mask (r : Req) : BitVec 128 :=
  match r.kind with
  | .store mask _ _ => mask
  | .storeBits mask _ => touched mask
  | _ => BitVec.allOnes 128

/-- A request of a stream acknowledged: of its stores that wait to be sent to the line, one that no earlier one overlaps goes, chosen
freely (R339, R412, log 60). -/
def State.sendHeld (s : State) (r : Req) : State :=
  let same := s.reqs.filter (fun x => x.2.task = r.task && x.2.ctx = r.ctx && lineOf x.2.pa = lineOf r.pa)
  if same.any (fun x => x.2.stage ≠ .held) then s
  else
    let may := same.filter (fun x => same.all (fun y => decide (x.1 ≤ y.1) || x.2.mask &&& y.2.mask = 0))
    match may[Config.freeChoice s.free % may.length]? with
    | none => s
    | some (id, x) =>
      let c := x.ctx.core.val
      let cap := match s.taskOf x with | some t => t.eff.injCap | none => 0
      ((({ s with free := s.free + 1, reqs := mset id { x with stage := .sent, lt := (s.core c).ltime } s.reqs } : State).toDram x.orig x.pa
        true x.key id none).lineRequest c x.kind.flit id 1 x.pa x.pav cap)

/-- The request of a number forgotten, its reassembly entry freed, and a store that waited behind it sent. -/
def State.dropReq (s : State) (id : Nat) : State :=
  match mfind id s.reqs with
  | none => s
  | some r =>
    let s := { s with reqs := mdel id s.reqs }
    (if r.long then s.freeEntry r.ctx.core.val id else s).sendHeld r

/-- Bits of a PRIV line written in a core's L1 (R137, R332). -/
def State.writeBits (s : State) (o : Orig) (c pav key line rd : Nat) (mask data : BitVec 1024) : State :=
  let r := s.fetchPriv c pav key line rd false
  r.1.writePriv o c pav key line rd (touched mask) (mergeBits mask data r.2.data)

/-- A store whose PRIV line has been brought, made in its core's L1. -/
def State.storeBrought (s : State) (id : Nat) (r : Req) : State :=
  let c := r.ctx.core.val
  if !privHit s c r.key (lineOf r.pa) then s.askAgain id r
  else
    let s := { s with reqs := mdel id s.reqs }
    match r.kind with
    | .store mask data _ => s.writePriv r.orig c r.pav r.key (lineOf r.pa) r.rd mask data
    | .storeBits mask data => s.writeBits r.orig c r.pav r.key (lineOf r.pa) r.rd mask data
    | _ => s

/-- STORE_ACK: the acknowledgement of a request that returns no value, once its flit has come; a JOIN's report sets JOINU, that of a dropped notification
NOTIFD (R233, R345, R424). -/
def execStoreAck (id : Nat) (s : State) : Out :=
  match mfind id s.reqs with
  | none => .next s
  | some r =>
    if !s.come id (lineOf r.pa) then .next s
    else if r.cached then .next (match r.stage, r.kind with
      | .done .., .store .. | .done .., .storeBits .. => s.storeBrought id r
      | _, _ => s)
    else match r.stage, r.kind with
    | .done v w _ p, .store .. => .next ((s.acked r v w p).dropReq id)
    | .done v w _ p, .storeBits .. => .next ((s.acked r v w p).dropReq id)
    | .done v w _ p, .swadd _ => .next ((s.acked r (v.drop 16) w p).dropReq id)
    | .done v w _ p, .swinit _ => .next ((s.acked r (v.drop 16) w p).dropReq id)
    | .done .., .notifD =>
      .next ((s.dropReq id).modTask r.ctx.core.val r.ctx.slot.val (fun t => if t.taskid = r.task then t.setFlag statNotifD else t))
    | .done v w _ p, .join .. =>
      let s := (s.acked r (v.drop 8) w p).dropReq id
      .next (if natOf (v.take 8) = 0 then
        s.modTask r.ctx.core.val r.ctx.slot.val (fun t => if t.taskid = r.task then t.setFlag statJoinU else t) else s)
    | _, _ => .next s

/-- A DATA_LOSS of a load: not precise, it names its own instruction and address (R93). -/
def State.lossFault (s : State) (c l : Nat) (k : Stream) (code : BitVec 8) (iaddr : BitVec 17) (faddr : Word64) : State :=
  s.takeFaultOf c l k code false 0 iaddr faddr []

/-- A pending result delivered, poison raising its fault (R88, R93). -/
def State.deliver (s : State) (c l : Nat) (p : SPend) (v : Word64) (poison : Bool) : State :=
  let s := s.modTask c l (fun t => t.arrive p v)
  if poison then s.lossFault c l .s fDataLoss p.iaddr p.faddr else s

/-- The value of a scalar request that has been performed, with its line and times. -/
structure Answer where
  val : Word64
  line : List Byte
  wts : Word32
  rts : Word32
  poison : Bool
  deriving DecidableEq, Repr

def Req.answer (r : Req) : Option Answer :=
  match r.stage, r.kind with
  | .done v w rt p, .load n sx _ =>
    some { val := loadValue sx n (slice v (r.pa % 128) n), line := v, wts := w, rts := rt, poison := p }
  | .done v w rt p, .amo _ n _ => some { val := oldValue n (natOf (v.take n)), line := v.drop n, wts := w, rts := rt, poison := p }
  | .done v w rt p, .cas n _ _ => some { val := oldValue n (natOf (v.take n)), line := v.drop n, wts := w, rts := rt, poison := p }
  | _, _ => none

/-- A load's answer with the bytes of the copy that it renews (Table 16-3). -/
def Answer.renew (a : Answer) (s : State) (c : Nat) (r : Req) : Answer :=
  match r.kind with
  | .load n sx _ =>
    if r.cls = PClass.coh then
      let x := renewed s c r.pa r.key a.line a.wts a.poison
      { a with val := loadValue sx n (slice x.1 (r.pa % 128) n), poison := x.2 }
    else a
  | _ => a

/-- A load's or atomic's answer at the core: copies and times (Table 16-3), then the result (R88). -/
def State.answered (s : State) (c l : Nat) (t : Task) (p : SPend) (id : Nat) (r : Req) (a : Answer) : State :=
  let s := s.dropReq id
  let s := match r.kind with
    | .load _ _ acq =>
      let s := if r.cls = PClass.coh then
          (s.installCoh c t.pav r.pa r.key r.rd a.line a.wts a.rts a.poison).modTask c l (fun t => t.sawTime a.wts)
        else s
      if acq then s.acquireAt c t .dev (if r.cls = PClass.coh then a.wts else (s.core c).ltime) else s
    | _ =>
      let s := (s.acked r a.line a.wts a.poison).modTask c l (fun t => if r.cls = PClass.coh then t.sawTime a.wts else t)
      s.acquireAt c t r.scope (if r.cls = PClass.coh then a.wts else (s.core c).ltime)
  s.deliver c l p a.val a.poison

/-- A load or atomic whose PRIV or RSHR line has been brought, made at its core: the result, its copies, its acquire (R88,
R115, R332). -/
def State.answerBrought (s : State) (c l : Nat) (t : Task) (p : SPend) (id : Nat) (r : Req) : State :=
  if !privHit s c r.key (lineOf r.pa) then s.askAgain id r
  else
    let s := s.dropReq id
    let load : Bool := match r.kind with | .load .. => true | _ => false
    let x := s.fetchPriv c r.pav r.key (lineOf r.pa) r.rd load
    let off := r.pa % 128
    let put := fun (s : State) (n v : Nat) =>
      s.writePriv r.orig c r.pav r.key (lineOf r.pa) 0 (spanMask off n) (spanData off (bytesOf n v))
    let a : State × Word64 × Option Scope := match r.kind with
      | .load n sx acq => (x.1, loadValue sx n (slice x.2.data off n), if acq then some .dev else none)
      | .amo op n v =>
        let old := natOf (slice x.2.data off n)
        (put x.1 n (amoNew op n old v.toNat), oldValue n old, some r.scope)
      | .cas n cmp v =>
        let old := natOf (slice x.2.data off n)
        (if old = cmp.toNat then put x.1 n v.toNat else x.1, oldValue n old, some r.scope)
      | _ => (x.1, 0, none)
    let s := match a.2.2 with | some sc => a.1.acquireAt c t sc (a.1.core c).ltime | none => a.1
    s.deliver c l p a.2.1 x.2.poison

/-- Does a FENCE's order hold: every access that it orders before it, of those issued earlier, has been performed at its
scope (R226, R423)? -/
def fenceHolds (s : State) (c l : Nat) (t : Task) (p : SPend) (sc : Scope) (kinds : BitVec 4) (acq rel : Bool) : Bool :=
  let early := (earlier s t .s (t.st .s).seen).filter (fun r => decide (r.tag < p.tag))
  let rops := s.rops.filter (fun r => decide (r.1 < p.tag) && match r.2.owner with
    | .scalar x _ => x.core.val = c && x.slot.val = l
    | _ => false)
  let wLoads := acq || rel || kinds.getLsbD 3 || kinds.getLsbD 2
  let wStores := rel || kinds.getLsbD 1 || kinds.getLsbD 0
  early.all (fun r => !((wLoads && (r.loads || r.atomic)) || (wStores && (!r.loads || r.atomic) && decide (1 ≤ scopeNum sc))))
    && (decide (scopeNum sc < 4) || !(wLoads || wStores) || rops.isEmpty)

/-- A FENCE completed (R226, R227): the write-backs of the stores it orders, its release and acquire actions, its status. -/
def State.fenceDone (s : State) (c l : Nat) (t : Task) (p : SPend) (sc : Scope) (kinds : BitVec 4) (acq rel : Bool)
    (lost : Option Nat) : State :=
  let stores := kinds.getLsbD 1 || kinds.getLsbD 0
  let s := if stores && !rel && decide (2 ≤ scopeNum sc) then s.releaseCaches c t.pav t.key (decide (3 ≤ scopeNum sc)) else s
  let s := if rel then s.releaseAt c t sc else s
  let s := if acq then s.acquireAt c t sc t.rdts else s
  s.deliver c l p (match lost with | some n => BitVec.ofNat 64 (0x70 + n * 2 ^ 8) | none => 0) false

/-- Have the accesses of a pavilion that may have used a translation removed before a TFENCE been performed (R228)? Removal
itself is immediate, and a walk in flight reads its entries when it ends. -/
def tfenceHolds (s : State) (t : Task) (p : SPend) : Bool :=
  let pavs := (t.inv.filter (fun x => decide (x.2 < p.tag))).map (·.1)
  let mem := fun (f : VFill) => match f.kind with | .mem id .. => decide (id < p.tag) | _ => false
  s.reqs.all (fun r => !(decide (r.1 < p.tag) && pavs.contains r.2.pav && (r.2.waiting || r.2.stage = .held || r.2.cached)))
    && s.tasks.all (fun x => !pavs.contains x.2.2.pav || x.2.2.fills.all (fun f => !mem f))
    && s.cores.all (fun c => c.2.copies.all (fun x => !(pavs.contains x.2.pav && decide (x.2.id < p.tag) && atDram s x.2.id)))

/-- The new content of a descriptor slot (R234). -/
def Task.setSlot (t : Task) (n : Nat) (b : List Byte) : Task := { t with tslot := mset n b t.tslot }

/-- SCALAR_RESULT_ARRIVAL: what has come back, all its flits, for one pending result, or for a descriptor load (R88, R93, R227, R234, R238,
R411). -/
def execScalarResultArrival (core : CoreId) (slot : SlotId) (tag : Nat) (s : State) : Out :=
  let c := core.val
  let l := slot.val
  match s.task? c l with
  | none => .next s
  | some t =>
    match t.pend.find? (fun p => p.tag = tag) with
    | some p =>
      .next (match p.res with
        | .value v => s.deliver c l p v false
        | .fixed .. => s.modTask c l (fun t => t.land s.cyc)
        | .poisoned v => s.deliver c l p v true
        | .remote code => (s.deliver c l p 0 false).lossFault c l .s code p.iaddr p.faddr
        | .tfence => if tfenceHolds s t p then (s.deliver c l p 0 false).modTask c l (fun t => { t with inv := t.inv.filter (fun x => decide (p.tag ≤ x.2)) }) else s
        | .fence sc kinds acq rel lost =>
          if fenceHolds s c l t p sc kinds acq rel then s.fenceDone c l t p sc kinds acq rel lost else s
        | .waiting =>
          match mfind tag s.reqs with
          | none => s
          | some r =>
            if !s.come tag (lineOf r.pa) then s
            else if r.cached then (if r.waiting then s else s.answerBrought c l t p tag r)
            else match r.answer with
            | none => s
            | some a => s.answered c l t p tag r (a.renew s c r))
    | none =>
      match mfind tag s.reqs with
      | none => .next s
      | some r =>
        match r.stage, r.kind with
        | .done v w rt p, .desc n =>
          if r.task ≠ t.taskid || !s.come tag (lineOf r.pa) then .next s
          else if r.cached then
            .next (if !privHit s c r.key (lineOf r.pa) then s.askAgain tag r
              else
                let x := (s.dropReq tag).fetchPriv c r.pav r.key (lineOf r.pa) 0 true
                let s := x.1.modTask c l (fun t => t.setSlot n (slice x.2.data (r.pa % 128) 64))
                if x.2.poison then s.lossFault c l .s fDataLoss r.iaddr r.va else s)
          else
            let x := if r.cls = PClass.coh then renewed s c r.pa r.key v w p else (v, p)
            let s := s.dropReq tag
            let s := if r.cls = PClass.coh then (s.installCoh c t.pav r.pa r.key r.rd x.1 w rt x.2).modTask c l (fun t => t.sawTime w) else s
            let s := s.modTask c l (fun t => t.setSlot n (slice x.1 (r.pa % 128) 64))
            .next (if x.2 then s.lossFault c l .s fDataLoss r.iaddr r.va else s)
        | _, _ => .next s

/-- TRANSLATION_WALK_END: the walk's page and pointers enter the die's translation cache, or it found no translation
(R356-R358). -/
def execTranslationWalkEnd (id : Nat) (s : State) : Out :=
  match mfind id s.walks with
  | none => .next s
  | some w =>
    if w.failed then .next s
    else
      match walk s w.pav (w.va * 4096) (s.die w.die).tc with
      | some (l, ps) =>
        .next { (s.modDie w.die (fun d => { d with tc := (ps ++ [TcEntry.leaf w.pav l]).foldl tcAdd d.tc }))
          with walks := mdel id s.walks }
      | none => .next { s with walks := mset id { w with failed := true } s.walks }

/-- GENERATION_REPORT: the home's generation reaches a context that waits for it; where the condition holds it is observed,
an acquire at device scope (R222, R354). -/
def execGenerationReport (x : Ctx) (s : State) : Out :=
  match s.task? x.core.val x.slot.val with
  | none => .next s
  | some t =>
    match (t.st x.stream).wait with
    | some (.gen va pa g none) =>
      let key := match xlateNow s (dieOf x.core.val) t.pav va.toNat .read with | .ok l _ => l.key | _ => t.key
      let now := nbits (natOf (s.bytesK key pa 16)) 103 72
      if sext (now + 2 ^ 32 - g.toNat) 32 ≥ 0 then
        let w := (tsGet (s.home (homeOf pa)) s.dev.floor (lineOf pa)).1
        .next ((s.modTask x.core.val x.slot.val (fun t => t.modSt x.stream (fun y =>
          { y with wait := some (.gen va pa g (some s.cyc)) }))).acquireAt x.core.val t .dev w)
      else .next s
    | _ => .next s

end Sys2Proof.Machine
end

