-- ==== Sys2Proof/Machine/System.lean ====
section
/-!
DEFINITION. The system instructions of the S stream: fences, tasks, descriptor slots, remote access, notification, traps and
the SYSOP functions that need no other unit (spec/08 R226-R243, spec/21 R415, R417). SNAPRD, SNAPWR, RQREL and KEYRET stand
in Save.lean and Keys.lean.
-/

namespace Sys2Proof.Machine

/-! ## Fences (R226-R228) -/

def execFence (scope : Scope) (kinds : BitVec 4) (acq rel : Bool) (d : SDst) (s : State) : Out :=
  onTask s fun t =>
    if t.dstReady d && t.canPend then ((s.pendResult d 0 false (.fence scope kinds acq rel none)).fresh).finish 2 else s

/-- IFENCE: no fill of the task's image is in flight on its core, and a block loads its buffer at its entry (R228, R34). -/
def execIfence (d : SDst) (s : State) : Out :=
  onTask s fun t =>
    if !(t.dstReady d && t.canPend) || s.curCore.filling.any (fun f => f.2 = t.cr.image) then s
    else (s.modCur (fun t => t.result d 0)).finish 2

def execTfence (d : SDst) (s : State) : Out :=
  onTask s fun t =>
    if t.dstReady d && t.canPend then ((s.pendResult d 0 false .tfence).fresh).finish 2 else s

/-! ## Tasks (R229-R231) -/

/-- FORK and LAUNCH: the 32 bytes at a are submitted once every earlier access is performed at device scope; the status
arrives when the dispatcher has answered (R231). -/
def submitRecord (d : SDst) (a : SSrc) (src : Nat → CrFrom) (acct : Task → Option (BitVec 20)) (s : State) : Out :=
  onTask s fun t =>
    if !(t.ready [a] && t.dstReady d) then s
    else
      let va := t.src a
      withAccess s t va 32 .read fun l pa =>
        if heldBack s t true || !releaseReady s t .dev || lineWaits s pa || !t.canPend then s
        else
          let s := (s.releaseAt s.cur.core.val t .dev).settle (fun r => r.pa = pa / 128 * 128)
          if s.poison.contains (lineOf pa) then ((s.pendResult d va.toNat false (.poisoned 0)).fresh).finish 2
          else
            let tag := s.nextId
            ((s.pendResult d va.toNat false .waiting).submit
              { pav := t.pav, rec_ := s.bytesK l.key pa 32, addr := va.toNat, src := src tag, acct := acct t, checked := false, ts := s.curCore.ltime }).finish 2

def execFork (d : SDst) (a : SSrc) (s : State) : Out :=
  submitRecord d a (fun tag => .fork s.cur tag) (fun t => some t.cr.lacct) s
def execLaunch (d : SDst) (a : SSrc) (s : State) : Out :=
  submitRecord d a (fun tag => .launch s.cur tag 0) (fun _ => none) s

def execSpawn (k : Stream) (off : BitVec 22) (s : State) : Out :=
  onTask s fun t =>
    let p : Int := (s.curSt.pc.toNat : Int) + off.toInt
    let h := s.curCore.parcel p.toNat
    if p < 0 ∨ (2 ^ 17 : Int) ≤ p ∨ nbits h.toNat 15 14 ≠ 3 then s.takeFault fIllegalTarget 0
    else if nbits h.toNat 13 12 ≠ k.code then s.takeFault fIllegalStream 0
    else if (t.st k).phase ≠ .halted then s.takeFault fIllegalOperand 0
    else (s.modCur (fun t => t.modSt k (fun x => { x with
      pc := BitVec.ofInt 17 p, phase := .atHeader, spawned := true, since := s.cyc + 1, wait := none, l1 := none, l2 := none }))).finish 2

def execExit (s : State) : Out := onTask s fun _ => s.endBlockWith 2 .exit
def execYield (s : State) : Out := onTask s fun _ => s.endBlockWith 2 .yield

/-! ## Descriptor slots (R234, R235) -/

def execTdld (n : TSlot) (a : SSrc) (s : State) : Out :=
  onTask s fun t =>
    if !t.ready [a] then s
    else
      let va := t.src a
      withAccess s t va 64 .read fun l pa =>
        if heldBack s t true || lineBusy s t pa || (l.cls = .dev && !(sReqs s t).isEmpty) then s
        else if l.cls = .dev && !(s.devReady t).2 then (s.devReady t).1
        else
          let take := fun (s : State) (c : CLine) =>
            if c.poison then s.takeFaultOf s.cur.core.val s.cur.slot.val .s fDataLoss false 0 (t.st .s).pc va [] else s
          let set := fun (s : State) (c : CLine) =>
            let r := s.modCur (fun t => t.setSlot n.val (slice c.data (pa % 128) 64))
            take (r.finish 2) c
          let ask := if reasmFree s s.cur.core.val then (s.request t va.toNat pa l .dev 0 (.desc n.val)).finish 2 else s
          match l.cls with
          | .dev => ask
          | .coh =>
            match cohCopy s l.key pa with
            | none => ask
            | some c => set (s.modCur (fun t => t.sawTime c.wts)) c
          | _ =>
            if !privHit s s.cur.core.val l.key (lineOf pa) then ask
            else
              let (s, c) := s.fetchPriv s.cur.core.val t.pav l.key (lineOf pa) 0 true
              set s c

def execTdver (n : TSlot) (a : SSrc) (s : State) : Out :=
  onTask s fun t =>
    if t.ready [a] then (s.modCur (fun u => { u with tver := mset n.val ((t.src a).setWidth 16) u.tver })).finish 2 else s

/-! ## Remote access (R237, R238, R415, R422) -/

/-- A scalar remote operation: the offset, node and pavilion of its address operand are checked, its ordering waited for,
then it is sent (R237). -/
def remoteAt (t : Task) (d : Option SDst) (addr tok : Word64) (n : Nat) (sc : Scope) (kind : RemoteKind) (s : State) : State :=
  let a := addr.toNat
  let off := nbits a 35 0
  if nbits a 63 59 ≠ 0 then s.takeFault fIllegalOperand addr
  else if off % n ≠ 0 then s.takeFault fAlign addr
  else if heldBack s t true || heldBack s t false || (sReqs s t).any Req.loads || !releaseReady s t sc || !t.canPend then s
  else
    let s := s.releaseAt s.cur.core.val t sc
    let node := nbits a 51 36
    let req : RemoteReq :=
      { snode := selfNode s, spav := ⟨t.pav % 128, Nat.mod_lt _ (by decide)⟩, tpav := ⟨nbits a 58 52 % 128, Nat.mod_lt _ (by decide)⟩,
        token := tok, off := off, kind := kind }
    let op := fun (p : Option Nat) => ({
      core := s.cur.core.val, pav := t.pav, task := t.taskid, region := t.cr.region.toNat, iaddr := s.curSt.pc, node := node, port := p, req := req,
      owner := .scalar s.cur s.nextId, n := n, sx := decide (n = 4), scope := sc
      writes := match kind with | .load _ => false | _ => true } : RemoteOp)
    let pend := fun (s : State) (r : SRes) => match d with
      | some d => s.pendResult d a true r
      | none => s
    match routeFor s t.pav node off with
    | .fail c =>
      match d with
      | some _ => ((pend s (.remote c)).fresh).finish 3
      | none => (s.finish 3).takeFaultOf s.cur.core.val s.cur.slot.val .s c false 0 s.curSt.pc addr []
    | .here => ((pend s .waiting).addRop (op none) t.eff.injCap).finish 3
    | .out p => ((pend s .waiting).addRop (op (some p)) t.eff.injCap).finish 3

def execRld (d : SDst) (addr : SSrc) (dword : Bool) (scope : Scope) (tok : SSrc) (s : State) : Out :=
  onTask s fun t =>
    if t.ready [addr, tok] && t.dstReady d then
      remoteAt t (some d) (t.src addr) (t.src tok) (wordBytes dword) scope (.load dword) s
    else s
def execRst (addr val : SSrc) (dword : Bool) (scope : Scope) (tok : SSrc) (s : State) : Out :=
  onTask s fun t =>
    if t.ready [addr, val, tok] then
      remoteAt t none (t.src addr) (t.src tok) (wordBytes dword) scope (.store dword (t.src val)) s
    else s
def execRamo (op : AmoOp) (o : AmoF) (tok : SSrc) (s : State) : Out :=
  onTask s fun t =>
    if t.ready [o.addr, o.val, tok] && t.dstReady o.d then
      remoteAt t (some o.d) (t.src o.addr) (t.src tok) (wordBytes o.dword) o.scope (.amo op o.dword (t.src o.val)) s
    else s

/-! ## Notification and traps (R239, R240) -/

/-- The report of a dropped notification on its way to the core (R424). -/
def State.reportDrop (s : State) (t : Task) : State :=
  let r : Req :=
    { ctx := s.cur, task := t.taskid, pav := t.pav, orig := t.eff.orig s.cur.core.val, blk := s.curSt.blkId, tag := s.nextId,
      iaddr := s.curSt.pc, va := 0, pa := physTop, cls := .coh, key := t.key, scope := .sys, rd := 0, lt := s.curCore.ltime,
      kind := .notifD, stage := .done [] 0 0 false }
  { s.fresh with reqs := mset s.nextId r s.reqs }

def execHnotify (a b : SSrc) (s : State) : Out :=
  onTask s fun t =>
    if !t.ready [a, b] then s
    else if 2 ^ 8 ≤ (t.src a).toNat then s.takeFault fIllegalOperand 0
    else if heldBack s t false || !releaseReady s t .sys then s
    else
      let s := s.releaseAt s.cur.core.val t .sys
      match s.postNq t.pav (t.src a).toNat (t.src b) with
      | some s => s.finish 2
      | none => (s.reportDrop t).finish 2

/-- TRAP (R240): RESUME continues after it. -/
def execTrap (code : BitVec 16) (s : State) : Out :=
  onTask s fun _ =>
    let pc := s.curSt.pc
    (s.modCur (fun t => { t with skipTo := some (pc + 2) })).takeFaultOf s.cur.core.val s.cur.slot.val .s fTrapSw true
      code.toNat pc 0 []

/-! ## SYSOP (R241-R243) -/

/-- A SYSOP: the privilege check, the sources, and a status into d. `f` answers the status and the new state. -/
def sysop (d : SDst) (a b : SSrc) (mgmtOnly : Bool) (f : Task → Word64 → Word64 → State × Word64) (s : State) : Out :=
  onTask s fun t =>
    if !t.eff.sysSvc || (mgmtOnly && t.pav ≠ 128) then s.takeFault fPrivOp 0
    else if !(t.ready [a, b] && t.dstReady d && t.canPend) then s
    else
      let r := f t (t.src a) (t.src b)
      (r.1.modCur (fun u => if u.taskid = t.taskid then u.result d r.2 else u)).finish 2

/-- The pavilion of a task operand; none where bits 63:40 are not zero (R242). -/
def taskPav (t : Task) (a : Word64) : Option Nat :=
  if nbits a.toNat 63 40 ≠ 0 then none else if t.pav = 128 then some (nbits a.toNat 39 32) else some t.pav

/-- Where a named task is. -/
inductive Found where
  | resident (c l : Nat) (t : Task)
  | saved (id : Nat) (v : Saved)
  | nowhere

/-- The task of a TASKID in a pavilion: resident or saved. -/
def findTask (s : State) (pav : Nat) (tid : Word32) : Found :=
  match s.tasks.find? (fun p => p.2.2.pav = pav && p.2.2.taskid = tid) with
  | some (c, l, t) => .resident c l t
  | none =>
    match s.saved.find? (fun v => v.2.task.pav = pav && v.2.task.taskid = tid) with
    | some (id, v) => .saved id v
    | none => .nowhere

/-- The b that RESUME, KILL and RQREL ask to be zero (Table 8-6): a word whose b field is left 0 names none, as Table 20-7 writes RESUME
(log 62, DEDUCED). -/
def zeroB (b : SSrc) (y : Word64) : Word64 := if b = .s 0 then 0 else y

/-- The task that an operand names, where b is zero as RESUME, KILL and RQREL ask. -/
def namedTask (s : State) (t : Task) (a b : Word64) : Found :=
  if b ≠ 0 then .nowhere
  else
    match taskPav t a with
    | none => .nowhere
    | some p => findTask s p (a.setWidth 32)

/-- The region that a task's fault holds, released with its RESUME (R377). -/
def State.releaseBy (s : State) (t : Task) : State :=
  match s.pav? t.pav with
  | none => s
  | some p => if p.heldRegions.any (fun h => h.2 = t.taskid) then s.releaseRegion t.pav t.cr.region.toNat else s

def execResume (d : SDst) (a b : SSrc) (s : State) : Out :=
  sysop d a b false (fun t x y =>
    match namedTask s t x (zeroB b y) with
    | .resident c l u =>
      if !u.stopped then (s, 0x04)
      else
        let go := fun (t : Task) => if t.saving.isNone then (t.refly t.stopAt s.cyc).resumed else t.resumed
        ((s.modTask c l go).releaseBy u, 0)
    | .saved id v =>
      if v.task.stopped || v.watchdog then
        let v' := { v with task := v.task.resumed }
        let s := { s with saved := mset id v' s.saved }
        ((if v.held then s else s.requeue id).releaseBy v.task, 0)
      else (s, 0x04)
    | .nowhere => (s, 0x04)) s

def execKill (d : SDst) (a b : SSrc) (s : State) : Out :=
  sysop d a b false (fun t x y =>
    match namedTask s t x (zeroB b y) with
    | .resident c l u => (s.killTask c l u, 0)
    | .saved id v => (s.killSaved id v, 0)
    | .nowhere => (s, 0x04)) s

/-- The cached translations that a TLBINV removes (R358). -/
def tlbStays (pav va size : Nat) (whole : Bool) : TcEntry → Bool
  | .leaf p l => !(p = pav && (whole || (l.size = size && decide (l.va ≤ va) && decide (va < l.va + l.size))))
  | .ptr p level v _ => !(p = pav && (whole || v = va / 2 ^ (3 + 9 * level) * 2 ^ (3 + 9 * level)))

/-- TLBINV on every die. -/
def State.tlbInv (s : State) (pav va size : Nat) (whole : Bool) : State :=
  { s with dies := s.dies.map (fun (d : Nat × Die) => (d.1, ({ d.2 with tc := d.2.tc.filter (tlbStays pav va size whole) } : Die))) }

/-- The page sizes of TLBINV's b bits 1:0 (Table 8-6). -/
def pageSize (n : Nat) : Nat := if n = 0 then 4096 else if n = 1 then 65536 else if n = 2 then 2 ^ 21 else 2 ^ 30

/-- TLBINV: a tenant that names another pavilion takes PRIV_OP, and it is a violation (R241, log 16). -/
def execTlbinv (d : SDst) (a b : SSrc) (s : State) : Out :=
  onTask s fun t =>
    let p := nbits (t.src b).toNat 23 16
    if t.eff.sysSvc && t.ready [a, b] && t.pav ≠ 128 && p ≠ 0 && p ≠ t.pav then (s.takeFault fPrivOp 0).violation t.pav
    else
      match sysop d a b false (fun t x y =>
        let w := y.toNat
        let p := if t.pav = 128 then nbits w 23 16 else t.pav
        ((s.fresh.modCur (fun u => { u with inv := u.inv ++ [(p, s.nextId)] })).tlbInv p (x.toNat / 4096 * 4096) (pageSize (nbits w 1 0)) (nbit w 2), 0)) s with
      | .next s => s
      | _ => s

/-- A grant window of a pavilion: its base and length, if its entry is valid (R417). -/
def grantWindow (s : State) (pav idx : Nat) : Option (Nat × Nat) :=
  let va := 0x0000FFFFFFFE0000 + 32 * idx
  if s.classAt (bridgeDie pav) pav va ≠ some .coh then none
  else
    match s.readVa (bridgeDie pav) pav va 32 with
    | none => none
    | some b =>
      let len := field b 8 8
      if field b 17 1 % 2 = 1 ∧ field b 16 1 = pav ∧ field b 17 1 < 2 ∧ field b 18 14 = 0 ∧ 1 ≤ len ∧ len ≤ 2 ^ 36 - 1 then
        some (field b 0 8, len)
      else none

/-- The 8 bytes m of R243. -/
def grantMsg (window rights expiry node pav : Nat) : List Byte :=
  bytesOf 8 (window + rights * 2 ^ 12 + expiry * 2 ^ 16 + node * 2 ^ 32 + pav * 2 ^ 48)
/-- The 32 check bits of a token under a grant key. -/
def grantCheck (key : BitVec 128) (window rights expiry node pav : Nat) : Nat :=
  (sipHash key (grantMsg window rights expiry node pav)).toNat % 2 ^ 32
/-- The token of R243. -/
def grantToken (key : BitVec 128) (window rights expiry node pav : Nat) : Word64 :=
  BitVec.ofNat 64 (window * 2 ^ 52 + rights * 2 ^ 48 + expiry * 2 ^ 32 + grantCheck key window rights expiry node pav)

def execGrant (d : SDst) (a b : SSrc) (s : State) : Out :=
  sysop d a b false (fun t x y =>
    let w := x.toNat
    let life := nbits w 31 16
    match s.pav? t.pav with
    | none => (s, 0x04)
    | some p =>
      if t.pav = 128 || nbits w 63 32 ≠ 0 || nbits y.toNat 63 23 ≠ 0 || life = 0 || decide (32767 < life)
          || (grantWindow s t.pav (nbits w 11 0)).isNone then (s, 0x04)
      else
        let exp := (s.cyc.toNat / 2 ^ 20 + life) % 2 ^ 16
        (s, grantToken p.grantKey (nbits w 11 0) (nbits w 15 12) exp (nbits y.toNat 15 0) (nbits y.toNat 22 16))) s

end Sys2Proof.Machine
end

