-- ==== Sys2Proof/Machine/Vector.lean ====
section
/-!
DEFINITION. The vector engine's arithmetic, comparison, mask, conversion, movement and reduction instructions, and VFE
(spec/05 R117-R136, R149; charges of spec/11 Table 11-5).
-/

namespace Sys2Proof.Machine

/-- The issuing V stream moved past an instruction of n parcels that charges an amount in units of 0.05 nJ. -/
def State.vDone (s : State) (charge n : Nat) : State := (s.chargeCur charge).finish n

/-- 3 nJ (Table 11-5). -/
def vCharge : Nat := 60

/-- A result of a latency written to the cells of a vector register that a mask names (R118, R119, R122). -/
def State.putV (s : State) (d : VReg) (mask : BitVec 1024) (lat : Nat) (c : Cells) : State :=
  s.modCur (fun t => (t.setV d.val mask c).flying (.v d.val) (.cells (t.vreg d.val)) s.cyc lat false)

/-- A masked result. -/
def State.putMasked (s : State) (t : Task) (d : VReg) (k : KReg) (zm : Bool) (lat : Nat) (c : Cells) : State :=
  s.putV d (wrote (t.kreg k.val) zm) lat (maskCells (t.kreg k.val) zm (t.vreg d.val) c)

/-- A result that writes every cell. -/
def State.putAll (s : State) (d : VReg) (lat : Nat) (c : Cells) : State := s.putV d (BitVec.allOnes 1024) lat c

/-- Cells combined one by one. -/
def zipCells (f : Word32 → Word32 → Word32) (a b : Cells) : Cells := List.zipWith f a b

/-- A masked two-source operation of format V3 of a latency (Table 5-1). -/
def vec3 (lat : Nat) (f : ETy → Word32 → Word32 → Word32) (o : V3) (s : State) : Out :=
  vecIssue [{ src := o.a, trap := o.ta }, { src := o.b, trap := o.tb }] [o.d.val] s fun t =>
    (s.putMasked t o.d o.k o.zm lat (zipCells (f o.ty) (t.vsrc o.a) (t.vsrc o.b))).vDone vCharge 3

/-- A masked one-source operation of format V3. -/
def vec3u (lat : Nat) (f : ETy → Word32 → Word32) (o : V3u) (s : State) : Out :=
  vecIssue [{ src := o.a, trap := o.ta }] [o.d.val] s fun t =>
    (s.putMasked t o.d o.k o.zm lat ((t.vsrc o.a).map (f o.ty))).vDone vCharge 3

/-- A fused multiply-add: its destination is its blocking addend (R120, Table 5-4). -/
def vecFma (np nz : Bool) (o : V3) (s : State) : Out :=
  vecIssue [{ src := o.a, trap := o.ta }, { src := o.b, trap := o.tb }, { src := .v o.d, trap := false }] [o.d.val] s fun t =>
    let z := t.vreg o.d.val
    let new := List.zipWith (fun (xy : Word32 × Word32) w => ffmaCell np nz o.ty xy.1 xy.2 w) ((t.vsrc o.a).zip (t.vsrc o.b)) z
    (s.putMasked t o.d o.k o.zm 10 new).vDone vCharge 3

/-- An unmasked one-source operation of format V2 on whole registers. -/
def vec2 (lat : Nat) (f : Cells → Cells) (d : VReg) (a : VSrc) (s : State) : Out :=
  vecIssue [{ src := a, trap := false }] [d.val] s fun t => (s.putAll d lat (f (t.vsrc a))).vDone vCharge 2

def execVadd (o : V3) (s : State) : Out := vec3 8 faddCell o s
def execVsub (o : V3) (s : State) : Out := vec3 8 fsubCell o s
def execVmul (o : V3) (s : State) : Out := vec3 8 fmulCell o s
def execVmin (o : V3) (s : State) : Out := vec3 8 fminCell o s
def execVmax (o : V3) (s : State) : Out := vec3 8 fmaxCell o s
def execVabs (o : V3u) (s : State) : Out := vec3u 8 fabsCell o s
def execVneg (o : V3u) (s : State) : Out := vec3u 8 fnegCell o s
def execVcpsgn (o : V3) (s : State) : Out := vec3 8 fcpsgnCell o s
def execVfma (o : V3) (s : State) : Out := vecFma false false o s
def execVfms (o : V3) (s : State) : Out := vecFma false true o s
def execVfnma (o : V3) (s : State) : Out := vecFma true false o s
def execVrcp (o : V3u) (s : State) : Out := vec3u 16 (specialCell rcpNum) o s
def execVsqrt (o : V3u) (s : State) : Out := vec3u 16 (specialCell sqrtNum) o s
def execVrsqrt (o : V3u) (s : State) : Out := vec3u 16 (specialCell rsqrtNum) o s
def execVexp2 (o : V3u) (s : State) : Out := vec3u 16 (specialCell exp2Num) o s
def execVlog2 (o : V3u) (s : State) : Out := vec3u 16 (specialCell log2Num) o s
def execViadd (o : V3) (s : State) : Out := vec3 6 iaddCell o s
def execVisub (o : V3) (s : State) : Out := vec3 6 isubCell o s
def execVimul (o : V3) (s : State) : Out := vec3 8 imulCell o s
def execVimin (o : V3) (s : State) : Out := vec3 6 iminCell o s
def execVimax (o : V3) (s : State) : Out := vec3 6 imaxCell o s
def execVqadd (o : V3) (s : State) : Out := vec3 6 iqaddCell o s
def execVqsub (o : V3) (s : State) : Out := vec3 6 iqsubCell o s
def execVimulh (o : V3) (s : State) : Out := vec3 8 imulhCell o s
def execVand (o : V3) (s : State) : Out := vec3 4 (fun _ x y => x &&& y) o s
def execVor (o : V3) (s : State) : Out := vec3 4 (fun _ x y => x ||| y) o s
def execVxor (o : V3) (s : State) : Out := vec3 4 (fun _ x y => x ^^^ y) o s
def execVandn (o : V3) (s : State) : Out := vec3 4 (fun _ x y => x &&& ~~~y) o s
def execVshl (o : V3) (s : State) : Out := vec3 4 (fun _ x y => x <<< (y.toNat % 32)) o s
def execVshr (o : V3) (s : State) : Out := vec3 4 (fun _ x y => x >>> (y.toNat % 32)) o s
def execVsar (o : V3) (s : State) : Out := vec3 4 (fun _ x y => x.sshiftRight (y.toNat % 32)) o s

/-! ## Compare, select, masks (R128-R130) -/

/-- The new value of a mask register under a mask (R118). -/
def maskBits (k : BitVec 1024) (zm : Bool) (old new : BitVec 1024) : BitVec 1024 :=
  (k &&& new) ||| (if zm then 0 else ~~~k &&& old)

def execVcmp (cond : Cond) (d : KReg) (a b : VSrc) (ta tb : Bool) (k : KReg) (ty : ETy) (zm : Bool) (s : State) : Out :=
  vecIssue [{ src := a, trap := ta }, { src := b, trap := tb }] [] s fun t =>
    let x := t.vsrc a
    let y := t.vsrc b
    let new := maskOf (fun i => cmpCell cond ty (x.getD i 0) (y.getD i 0))
    let write := fun (u : Task) =>
      let u' := u.setK d.val (maskBits (t.kreg k.val) zm (t.kreg d.val) new)
      if d.val = 0 then u' else u'.flying (.k d.val) (.mask (t.kreg d.val)) s.cyc 4 false
    (s.modCur write).vDone vCharge 3

def execVsel (d : VReg) (a b : VSrc) (ta tb : Bool) (k : KReg) (s : State) : Out :=
  vecIssue [{ src := a, trap := ta }, { src := b, trap := tb }] [d.val] s fun t =>
    (s.putAll d 4 (maskCells (t.kreg k.val) false (t.vsrc b) (t.vsrc a))).vDone vCharge 3

/-- A mask-register operation; it charges nothing (R130, R288). -/
def kop (f : BitVec 1024 → BitVec 1024 → BitVec 1024) (d a : KReg) (s : State) : Out :=
  onTask s fun t => (s.modCur (fun u => u.setK d.val (f (t.kreg d.val) (t.kreg a.val)))).finish 2

def execKand (d a : KReg) (s : State) : Out := kop (fun x y => x &&& y) d a s
def execKor (d a : KReg) (s : State) : Out := kop (fun x y => x ||| y) d a s
def execKxor (d a : KReg) (s : State) : Out := kop (fun x y => x ^^^ y) d a s
def execKnot (d a : KReg) (s : State) : Out := kop (fun _ y => ~~~y) d a s
def execKmov (d a : KReg) (s : State) : Out := kop (fun _ y => y) d a s

/-! ## Conversion, moves, cell movement (R131-R135) -/

def execVcvt (d : VReg) (a : VSrc) (ta : Bool) (k : KReg) (sty dty : ETy) (rm : RMode) (zm : Bool) (s : State) : Out :=
  vecIssue [{ src := a, trap := ta }] [d.val] s fun t =>
    (s.putMasked t d k zm 8 ((t.vsrc a).map (cvtCell sty dty rm))).vDone vCharge 3

def execVmov (d : VReg) (a : VSrc) (s : State) : Out := vec2 4 id d a s

def execVmovi (d : VReg) (imm : BitVec 31) (s : State) : Out :=
  vecIssue [] [d.val] s fun _ => (s.putAll d 4 (List.replicate 1024 ((imm ++ 0#1 : BitVec 32)))).vDone vCharge 3

/-- VEXT charges nothing (R133, R288). -/
def execVext (i : AReg) (v : VSrc) (n : Fin 1024) (s : State) : Out :=
  vecIssue [{ src := v, trap := false }] [] s fun t =>
    (s.modCur (fun u => (u.setA .v i.val (((t.vsrc v).getD n.val 0).setWidth 64)).flying (.a i.val) (.word (t.a .v i.val)) s.cyc 6
      false)).finish 2

/-- Cells moved: cell i takes the source cell that f names. -/
def moveCells (f : Nat → Nat) (c : Cells) : Cells := tab 1024 (fun i => c.getD (f i) 0)

def execVrotr (d : VReg) (a : VSrc) (n : Fin 64) (s : State) : Out :=
  vec2 6 (moveCells (fun i => i / 64 * 64 + (i % 64 + 64 - n.val) % 64)) d a s
def execVrotc (d : VReg) (a : VSrc) (n : Fin 16) (s : State) : Out :=
  vec2 4 (moveCells (fun i => (i / 64 + 16 - n.val) % 16 * 64 + i % 64)) d a s
def execVbcr (d : VReg) (a : VSrc) (n : Fin 64) (s : State) : Out := vec2 6 (moveCells (fun i => i / 64 * 64 + n.val)) d a s
def execVbcc (d : VReg) (a : VSrc) (n : Fin 16) (s : State) : Out := vec2 4 (moveCells (fun i => n.val * 64 + i % 64)) d a s
def execVtr16 (d : VReg) (a : VSrc) (s : State) : Out :=
  vec2 12 (moveCells (fun i => (i % 64) % 16 * 64 + 16 * ((i % 64) / 16) + i / 64)) d a s

/-- VPERM charges eight times a V instruction (Table 11-5). -/
def execVperm (d : VReg) (a b : VSrc) (ta tb : Bool) (k : KReg) (zm : Bool) (s : State) : Out :=
  vecIssue [{ src := a, trap := ta }, { src := b, trap := tb }] [d.val] s fun t =>
    let x := t.vsrc a
    let new := (t.vsrc b).map (fun i => if i.getLsbD 31 then 0 else x.getD (i.toNat % 1024) 0)
    (s.putMasked t d k zm 72 new).vDone (8 * vCharge) 3

/-! ## Reductions (R136) -/

/-- The cell that a reduction gives for a list of 2^n cells. -/
def reduce (op : RedOp) (ty : ETy) (n : Nat) (l : List Word32) : Word32 := (redTree op ty n l).getD 0 0

def execVredr (d : VReg) (a : VSrc) (op : RedOp) (ty : ETy) (s : State) : Out :=
  vec2 14 (fun c => (tab 16 (fun r => reduce op ty 6 ((c.drop (64 * r)).take 64))).flatMap (List.replicate 64)) d a s
def execVredc (d : VReg) (a : VSrc) (op : RedOp) (ty : ETy) (s : State) : Out :=
  vec2 8 (fun c =>
    let row := tab 64 (fun j => reduce op ty 4 (tab 16 (fun r => c.getD (64 * r + j) 0)))
    (List.replicate 16 row).flatten) d a s

/-! ## VFE and FE_TIMEOUT (R120, R121, R149) -/

/-- VFE waits for a fill of its register, then changes the bit. -/
def vfe (n : Nat) (empty : Bool) (len : Nat) (s : State) : Out :=
  vecIssue [] [n] s fun _ =>
    (s.modCur (fun t => { t with empty := if empty then ladd n t.empty else ldel n t.empty })).finish len

def execVfeEmpty (v : VReg) (s : State) : Out := vfe v.val true 2 s
def execVfeFull (v : VReg) (s : State) : Out := vfe v.val false 2 s
def execVfeC (v : VReg) (s : State) : Out := vfe v.val true 1 s

/-- FE_TIMEOUT: a context that has waited 2^24 cycles for an empty source, which is still empty (R120). -/
def execFeTimeout (x : Ctx) (s : State) : Out :=
  atCtx s x fun t y =>
    match y.feSince with
    | some c =>
      if !t.stopped && t.saving.isNone && y.feOn.any t.empty.contains && decide (c.toNat + 2 ^ 24 ≤ s.cyc.toNat) then
        s.takeFaultOf x.core.val x.slot.val x.stream fFeTimeout true 0 y.pc 0 []
      else s
    | none => s

end Sys2Proof.Machine
end

