-- ==== Sys2Proof/Machine/VecMem.lean ====
section
/-!
DEFINITION. Vector loads and stores, gathers and scatters, and the accumulator drain and fill with their order against the
matrix stream (spec/05 R137-R141, R145-R148).
-/

namespace Sys2Proof.Machine

/-! ## Elements (R137-R139) -/

/-- An element before translation: cell, address, bytes, first bit, and the bytes its address must be a multiple of. -/
structure VAddr where
  cell : Nat
  va : Nat
  n : Nat
  shift : Nat
  align : Nat
  deriving DecidableEq, Repr

/-- The bytes of an element of a type at an address: for I6 those of its group that hold it (R71, R137). -/
def vaddr (ty : ETy) (cell : Nat) (ea : Nat) (j : Nat) : VAddr :=
  match ty with
  | .i6 =>
    let lo := 6 * j / 8
    let hi := (6 * j + 5) / 8
    { cell := cell, va := (ea + lo) % 2 ^ 64, n := hi - lo + 1, shift := 6 * j - 8 * lo, align := 1 }
  | ty => { cell := cell, va := ea, n := tyBytes ty, shift := 0, align := tyBytes ty }

/-- The address of row r (R137). -/
def rowEa (base stride : Word64) (off : Int) (r : Nat) : Nat := ibits (base.toInt + r * stride.toInt + off) 64

/-- The elements of VLD and VST whose mask bit is 1, in cell order. -/
def rowElems (ty : ETy) (base stride : Word64) (off : Int) (k : BitVec 1024) : List VAddr :=
  ((List.range 1024).filter (fun i => k.getLsbD i)).map (fun i =>
    let ea := rowEa base stride off (i / 64)
    let c := i % 64
    match ty with
    | .i6 => vaddr ty i ((ea + 3 * (c / 4)) % 2 ^ 64) (c % 4)
    | ty => vaddr ty i ((ea + c * tyBytes ty) % 2 ^ 64) 0)

/-- The elements of VGATH and VSCAT whose mask bit is 1 (R139). -/
def gatherElems (ty : ETy) (base stride : Word64) (x : Cells) (scale : Nat) (k : BitVec 1024) : List VAddr :=
  ((x.zip (List.range 1024)).filter (fun p => k.getLsbD p.2)).map (fun p =>
    vaddr ty p.2 (ibits (base.toInt + (p.2 / 64 : Nat) * stride.toInt + p.1.toInt * (2 ^ scale : Nat)) 64) 0)

/-- The checks of every element in cell order (R138). -/
inductive VChk where
  | ok (els : List VEl)
  | miss (va : Nat)
  | bad (code : BitVec 8) (va : Nat)
  deriving DecidableEq, Repr

/-- The parts of n bytes at an address: one line, or two for an I6 element that straddles them. -/
def elemParts (s : State) (die pav : Nat) (acc : AccKind) (a : VAddr) : Xls × List VPart :=
  let first := min a.n (128 - a.va % 128)
  let vas := if first < a.n then [a.va, a.va + first] else [a.va]
  let x := xlateAll s die pav acc vas
  match x with
  | .ok [(l, pa)] => (x, [{ pa := pa, n := a.n, key := l.key, cls := l.cls }])
  | .ok [(l, pa), (l', pa')] => (x, [{ pa := pa, n := first, key := l.key, cls := l.cls },
                                     { pa := pa', n := a.n - first, key := l'.key, cls := l'.cls }])
  | _ => (x, [])

def checkElems (s : State) (die pav : Nat) (acc : AccKind) : List VAddr → VChk
  | [] => .ok []
  | a :: as =>
    if a.va % a.align ≠ 0 then .bad fAlign a.va
    else
      match elemParts s die pav acc a with
      | (.bad c va, _) => .bad c va
      | (.miss va, _) => .miss va
      | (.ok _, ps) =>
        match checkElems s die pav acc as with
        | .ok r => .ok ({ cell := a.cell, va := a.va, parts := ps, shift := a.shift } :: r)
        | x => x

/-! ## Lines as a core reads them (R332, R345) -/

/-- A line read by a core for a task: through the L1 for PRIV and RSHR, a valid copy or the home for COH, the home for
DEV; a COH value's write time is seen by the task. -/
def State.readLine (s : State) (c l : Nat) (pa key : Nat) (cls : PClass) (rd : Nat) : State × List Byte × Bool :=
  match s.task? c l with
  | none => (s, [], false)
  | some t =>
    let line := lineOf pa
    match cls with
    | .dev => (s, s.bytesK key (128 * line) 128, s.poison.contains line)
    | .coh =>
      match cohValid s c key line with
      | some x => ((s.putL1 c x false).modTask c l (fun t => t.sawTime x.wts), x.data, x.poison)
      | none =>
        let ts := loadTime (s.home (homeOf pa)) s.dev.floor line (s.core c).ltime t.lease.toNat
        let x := renewed s c pa key (s.bytesK key (128 * line) 128) ts.1 (s.poison.contains line)
        let s := (s.modHome (homeOf pa) (fun h => tsSet (busyLines s) h line ts.1 ts.2)).modTask c l (fun t => t.sawTime ts.1)
        (s.installCoh c t.pav pa key rd x.1 ts.1 ts.2 x.2, x.1, x.2)
    | _ =>
      let s := if privHit s c key line then s else s.fillPriv c t.pav key line rd
      let r := s.fetchPriv c t.pav key line rd true
      (r.1, r.2.data, r.2.poison)

/-- The lines of a list of parts, read one after another. -/
def State.readLines (s : State) (c l rd : Nat) (ps : List VPart) : State × List (VPart × List Byte × Bool) :=
  (partLines ps).foldl (fun (x : State × List (VPart × List Byte × Bool)) p =>
    let r := x.1.readLine c l p.pa p.key p.cls rd
    (r.1, x.2 ++ [(p, r.2.1, r.2.2)])) (s, [])

/-- The bytes of a part out of the lines read. -/
def partBytes (ls : List (VPart × List Byte × Bool)) (p : VPart) : List Byte :=
  match ls.find? (fun x => lineOf x.1.pa = lineOf p.pa && x.1.key = p.key && x.1.cls = p.cls) with
  | some x => slice x.2.1 (p.pa % 128) p.n
  | none => []

/-! ## Loads (R137-R139, R141) -/

/-- The memory requests of a task's V stream, and its fills from memory. -/
def vReqs (s : State) (t : Task) : List Req := (mvals s.reqs).filter (fun r => r.task = t.taskid && r.ctx.stream = .v)
/-- Is a fill a load from memory not yet performed, parked ones among them (R339)? -/
def VFill.fromMem (f : VFill) : Bool := match f.kind with | .mem .. | .parked .. => true | _ => false
def VFill.fromDev (f : VFill) : Bool := match f.kind with | .mem _ els .. => els.any (fun e => e.parts.any (fun p => p.cls = .dev)) | _ => false

/-- Is a DEV access of the task's V stream still to be performed, which its later accesses stand behind (R335)? -/
def vDevOpen (s : State) (t : Task) : Bool := (vReqs s t).any (fun r => r.cls = .dev) || t.fills.any VFill.fromDev

/-- May elements be accessed now: a DEV access only once every earlier access of the stream has been performed, those of tiles among
them (R140, R335, R339, R412)? -/
def vecMayGo (s : State) (t : Task) (els : List VEl) (store : Bool) : Bool :=
  let ps := els.flatMap (·.parts)
  !vDevOpen s t
    && ps.all (fun p => if store then !storeBusy s t p.cls p.pa else !lineBusy s t p.pa)
    && (!store || !(t.fills.any VFill.fromMem))
    && (!(ps.any (fun p => p.cls = .dev)) || ((vReqs s t).isEmpty && t.fills.isEmpty && t.stores.isEmpty))

/-- A fill begun with a number: its register is empty from the issue cycle on (R119). -/
def Task.beginFill (t : Task) (n v blk : Nat) (iaddr : BitVec 17) (k : FillKind) : Task :=
  { t with empty := ladd v t.empty, fills := t.fills ++ [{ n := n, parkN := n, waited := false, v := v, blk := blk, iaddr := iaddr, kind := k }] }

/-- The record of a parked access (R386). -/
def parkRec (t : Task) (k : Stream) (code : BitVec 8) (iaddr : BitVec 17) (faddr : Word64) : FRec :=
  { faultRec t k code false 0 iaddr faddr [] with flags := 2 }

/-- Does a failing access of a task park (R141)? -/
def parks (t : Task) (code : BitVec 8) : Bool := t.eff.recovery && (code = fTrans || code = fPerm)

/-- A load of elements into a register (R137, R138, R141). One that faults has no effect: its register keeps its earlier contents,
and stays empty where VFE had emptied it (log 51, DESIGN CHOICE: R121 calls it full, R43 says no effect). -/
def vecLoad (uses : List VUse) (v : VReg) (ty : ETy) (rd : Nat) (els : Task → List VAddr) (s : State) : Out :=
  vecIssue uses [v.val] s fun t =>
    let as := els t
    let go := fun (s : State) (k : FillKind) =>
      (s.fresh.modCur (fun t => t.beginFill s.nextId v.val s.curSt.blkId s.curSt.pc k)).vDone vCharge 3
    match checkElems s s.curDie t.pav .read as with
    | .miss va => startWalk s s.curDie t.pav va
    | .bad c va =>
      if parks t c then
        let r := parkRec t .v c s.curSt.pc (BitVec.ofNat 64 va)
        (go (dropFailed s s.curDie t.pav va) (.parked (as.map (fun a => (a.cell, a.va, a.shift))) ty rd)).postOnly
          s.cur.core.val s.cur.slot.val r
      else s.takeMemFault c va
    | .ok es =>
      let ps := es.flatMap (·.parts)
      if !vecMayGo s t es false then s
      else if ps.any (fun p => p.cls = .dev) && !(s.devReady t).2 then (s.devReady t).1
      else
        if !reasmFree s s.cur.core.val && ps.any (readsMemory s s.cur.core.val) then s
        else
          let s' := (s.fresh.needLines s.cur.core.val (t.eff.orig s.cur.core.val) s.nextId t.pav t.eff.injCap ps).1
          go s' (.mem s.nextId es ty rd)

def execVld (o : VMem VReg) (s : State) : Out :=
  vecLoad [] o.v o.ty o.rd.val (fun t => rowElems o.ty (t.a .v o.base.val) (t.a .v o.stride.val) o.off.toInt (t.kreg o.k.val)) s

def execVgath (o : VMemX VReg) (s : State) : Out :=
  vecLoad [{ src := o.idx, trap := false }] o.v o.ty o.rd.val
    (fun t => gatherElems o.ty (t.a .v o.base.val) (t.a .v o.stride.val) (t.vsrc o.idx) o.scale.val (t.kreg o.k.val)) s

/-- Cells placed over a register's old ones, for the elements of a fill. -/
def placeCells (old : Cells) (new : List (Nat × Word32)) : Cells := new.foldl (fun c p => lset c p.1 p.2) old

/-- The cells that a fill writes. -/
def VFill.mask (f : VFill) : BitVec 1024 :=
  match f.kind with
  | .mem _ els .. => els.foldl (fun m e => m ||| BitVec.ofNat 1024 (2 ^ e.cell)) 0
  | .ready _ mask | .tile _ _ _ _ _ mask | .parkedTile _ _ _ _ mask => mask
  | .parked els .. => els.foldl (fun m e => m ||| BitVec.ofNat 1024 (2 ^ e.1)) 0

/-- A fill of a register landed: its cells written, the register full (R119). -/
def Task.landFill (t : Task) (f : VFill) (c : Cells) : Task :=
  { t.fillV f.v f.mask c with fills := t.fills.filter (fun g => g.v ≠ f.v) }

/-- Reads of COH lines that would set a time past the limit wait for the early broadcast (R348). -/
def State.loadFloor (s : State) (c : Nat) (t : Task) (ps : List VPart) : State :=
  if ps.any (fun p => p.cls = .coh) then s.floorFor (fun s => (s.core c).ltime + t.lease.setWidth 32) else s

/-- The lines that a fill reads, by their physical numbers; and by those of their virtual addresses, by which alone a parked one is
known. -/
def VFill.lines (f : VFill) : List Nat :=
  match f.kind with
  | .mem _ els .. => els.flatMap (fun (e : VEl) => e.parts.map (fun (p : VPart) => lineOf p.pa))
  | _ => []
def VFill.vaLines (f : VFill) : List Nat :=
  match f.kind with
  | .mem _ els .. => els.flatMap (fun (e : VEl) => [lineOf e.va, lineOf (e.va + 1)])
  | .parked els .. => els.flatMap (fun e => [lineOf e.2.1, lineOf (e.2.1 + 1)])
  | _ => []
def VFill.isParked (f : VFill) : Bool := match f.kind with | .parked .. | .parkedTile .. => true | _ => false

/-- Does a fill of the V stream read a line that an earlier one, which has not landed or stands parked, also reads (R111, R140,
R341)? -/
def fillBehind (t : Task) (f : VFill) : Bool :=
  (t.fills.filter (fun g => decide (g.n < f.n))).any (fun g => g.lines.any f.lines.contains || (g.isParked && g.vaLines.any f.vaLines.contains))

/-- The data of a register's fill from memory or from an accepted line arrives (R119, R138, R143). -/
def State.landVec (s : State) (c l : Nat) (t : Task) (f : VFill) : State :=
  match f.kind with
  | .mem id els ty rd =>
    let ps := els.flatMap (·.parts)
    let s := s.loadFloor c t ps
    let n := s.needLines c (t.eff.orig c) id t.pav t.eff.injCap ps
    if !n.2 || fillBehind t f then n.1
    else
      let r := ((s.undram id).freeEntry c id).readLines c l rd ps
      let val := fun (e : VEl) => natOf (e.parts.flatMap (partBytes r.2)) / 2 ^ e.shift
      let s := r.1.modTask c l (fun t => t.landFill f (placeCells (t.vreg f.v) (els.map (fun e => (e.cell, tarnCell ty (val e))))))
      let bad := els.find? (fun e => e.parts.any (fun p => r.2.any (fun x => x.2.2 && lineOf x.1.pa = lineOf p.pa)))
      match bad with
      | some e => s.lossFault c l .v fDataLoss f.iaddr (BitVec.ofNat 64 e.va)
      | none => s
  | .ready cells mask => s.modTask c l (fun t => t.landFill f (maskCells mask false (t.vreg f.v) cells))
  | _ => s

/-! ## Stores (R137-R140) -/

/-- The bits that a cell stores under a type (Table 3-2). -/
def memBits (ty : ETy) (c : Word32) : Nat :=
  match ty with
  | .bf16 | .f16 => c.toNat / 2 ^ 16
  | ty => c.toNat % 2 ^ ty.bits

/-- What a vector store writes in one line: its bits, by mask and data. -/
structure LineWrite where
  part : VPart
  va : Nat
  mask : Nat
  data : Nat
  deriving DecidableEq, Repr

/-- Bits put into the write of their line, over those of earlier cells. -/
def addWrite (p : VPart) (va : Nat) (mask data : Nat) : List LineWrite → List LineWrite
  | [] => [{ part := p, va := va, mask := mask, data := data }]
  | w :: ws =>
    if lineOf w.part.pa = lineOf p.pa ∧ w.part.key = p.key ∧ w.part.cls = p.cls then
      { w with mask := w.mask ||| mask, data := (w.data ^^^ (w.data &&& mask)) ||| data } :: ws
    else w :: addWrite p va mask data ws

/-- The writes of one element: its bits go into its parts in order. -/
def elemWrites (e : VEl) (bits v : Nat) (ws : List LineWrite) : List LineWrite :=
  let mask := (2 ^ bits - 1) * 2 ^ e.shift
  let data := v % 2 ^ bits * 2 ^ e.shift
  (e.parts.foldl (fun (x : List LineWrite × Nat) p =>
    let cut := fun (n : Nat) => n / 2 ^ (8 * x.2) % 2 ^ (8 * p.n) * 2 ^ (8 * (p.pa % 128))
    (addWrite p (e.va + x.2) (cut mask) (cut data) x.1, x.2 + p.n)) (ws, 0)).1

/-- The writes of a store of cells, in cell order. -/
def storeWrites (ty : ETy) (cells : Cells) (els : List VEl) : List LineWrite :=
  els.foldl (fun ws e => elemWrites e ty.bits (memBits ty (cells.getD e.cell 0)) ws) []

/-- Does a bit mask name whole bytes only? -/
def wholeBytes (m : Nat) : Bool := (List.range 128).all (fun i => m / 2 ^ (8 * i) % 256 = 0 || m / 2 ^ (8 * i) % 256 = 255)

/-- One line of a vector store: into the L1 for PRIV where the die has it, a request to the home otherwise. -/
def State.writeLine (s : State) (t : Task) (rd : Nat) (w : LineWrite) : State :=
  let mask := BitVec.ofNat 1024 w.mask
  let data := BitVec.ofNat 1024 w.data
  let p := w.part
  let c := s.cur.core.val
  if (p.cls = .priv || p.cls = .rshr) && privHit s c p.key (lineOf p.pa) then
    s.writeBits (t.eff.orig c) c t.pav p.key (lineOf p.pa) rd mask data
  else
    let l : Leaf := { va := 0, size := 4096, pa := 0, cls := p.cls, r := true, w := true, key := p.key }
    s.requestStore t w.va p.pa l rd
      (if wholeBytes w.mask then .store (touched mask) (bytesOf 128 w.data) false else .storeBits mask data)

/-- A store of a register noted in the drains that it still holds (R148); `kept` what it stores of the cells of a drain. -/
def Task.noteKept (t : Task) (v : VSrc) (kept : BitVec 1024 → Kept) : Task :=
  { t with drains := t.drains.map (fun d =>
      if v = .v (Fin.ofNat 384 d.v) && d.left ≠ 0 then { d with stored := d.stored ++ [kept d.left] } else d) }
def Task.noteStored (t : Task) (v : VSrc) (ty : ETy) (es : List VEl) : Task :=
  t.noteKept v (fun left => .mem ty (es.filter (fun e => left.getLsbD e.cell)) (t.vsrc v))

/-- A store of a register's elements (R137, R138, R140). -/
def vecStore (uses : List VUse) (v : VSrc) (ty : ETy) (rd : Nat) (els : Task → List VAddr) (s : State) : Out :=
  vecIssue ({ src := v, trap := false } :: uses) [] s fun t =>
    match checkElems s s.curDie t.pav .store (els t) with
    | .miss va => startWalk s s.curDie t.pav va
    | .bad c va => s.takeMemFault c va
    | .ok es =>
      if !vecMayGo s t es true then s
      else if es.any (fun e => e.parts.any (fun p => p.cls = .dev)) && !(s.devReady t).2 then (s.devReady t).1
      else
        ((each (storeWrites ty (t.vsrc v) es) (fun w s => s.writeLine t rd w) s).modCur (fun t => t.noteStored v ty es)).vDone
          vCharge 3

def execVst (o : VMem VSrc) (s : State) : Out :=
  vecStore [] o.v o.ty o.rd.val (fun t => rowElems o.ty (t.a .v o.base.val) (t.a .v o.stride.val) o.off.toInt (t.kreg o.k.val)) s

def execVscat (o : VMemX VSrc) (s : State) : Out :=
  vecStore [{ src := o.idx, trap := false }] o.v o.ty o.rd.val
    (fun t => gatherElems o.ty (t.a .v o.base.val) (t.a .v o.stride.val) (t.vsrc o.idx) o.scale.val (t.kreg o.k.val)) s

/-! ## Accumulator drain and fill (R145-R148) -/

/-- The rows that a band field names: first row and number (R145). -/
def bandRows (band : Option (Fin 4)) : Nat × Nat := match band with | some b => (4 * b.val, 4) | none => (0, 16)

/-- The physical bank that a task-relative number names. -/
def Task.phys (t : Task) (n : Nat) : Option Nat :=
  match t.bank n with
  | some (.own p) => some p
  | some (.alias_ p _) => some p
  | none => none

/-- Does a slot own every one of the bands named (R147)? -/
def ownsBands (b : Bank) (slot : Nat) (band : Option (Fin 4)) : Bool :=
  match b.owners with
  | none => true
  | some o => match band with | some i => o.getD i.val 4 = slot | none => o.all (· = slot)

/-- Is the V stream ordered after every change that the M stream has made to a bank (R148)? -/
def Task.vOrdered (t : Task) (p : Nat) : Bool :=
  match mfind p t.mlast with
  | none => true
  | some n => decide (n < mget p 0 t.vseen)

/-- The charge of a drain or fill: 3 nJ, or 0.75 nJ for one band (Table 11-5). -/
def bandCharge (band : Option (Fin 4)) : Nat := if band.isSome then 15 else vCharge

/-- Rows of a register replaced. -/
def putRows (r0 n : Nat) (old new : Cells) : Cells :=
  tab 1024 (fun i => if r0 ≤ i / 64 ∧ i / 64 < r0 + n then new.getD i 0 else old.getD i 0)

def execVacvt (o : VAcc VReg) (rm : RMode) (s : State) : Out :=
  vecIssue [] [o.v.val] s fun t =>
    let rows := bandRows o.band
    let mask := maskOf (fun i => decide (rows.1 ≤ i / 64 ∧ i / 64 < rows.1 + rows.2))
    let write := fun (s : State) (t : Task) (accu : Bool) (new : Cells) =>
      s.modCur (fun u => (u.setV o.v.val mask (putRows rows.1 rows.2 (t.vreg o.v.val) new)).flying (.v o.v.val)
        (.cells (t.vreg o.v.val)) s.cyc 24 accu)
    match t.phys o.bank.val with
    | none =>
      if t.eff.accu then s.takeFault fAccUnalloc 0
      else (write s t true zeroCells).vDone (bandCharge o.band) 3
    | some p =>
      let b := s.curCore.bank p
      if !ownsBands b s.cur.slot.val o.band then s.takeFault fAccBand 0
      else
        let cells := if t.vOrdered p then b.els.map (drainCell o.ty rm (anchorOf b))
          else tab 1024 (fun i => Config.freeCell (s.free + i))
        let s' := write { s with free := s.free + 1024 } t false cells
        let d : Drain :=
          { bank := p, row0 := rows.1, rows := rows.2, v := o.v.val, serial := s.nextId, left := mask, stored := [] }
        let kept := fun (u : Task) => u.drains.filter (fun x => decide (u.mseen ≤ x.serial) || !(heldBanks u).contains x.bank)
        (s'.fresh.modCur (fun u => { u with drains := kept u ++ [d] })).vDone (bandCharge o.band) 3

/-- A change to a bank, applied (R153, R154). The bands of a split bank whose owner the issuer is not keep their elements. -/
def applyChange (src : Option Bank) : Change → Bank → Bank
  | .product f ovw neg a b _, k => bankProduct f ovw neg a b k
  | .scale _ cells mode, k => match src with | some x => bankScale x mode cells k | none => k
  | .renorm n, k => bankRenorm n k
  | .zero a, k => bankZero a k
  | .anchor a, k => { k with anchor := a }
  | .copy _, k => match src with | some x => bankCopy x k | none => bankZero 0 k
  | .slotOn a, k => { freshBank with rule := k.rule, anchor := a }
  | .slotOff, k => bankZero k.anchor k
  | .rows els n ovw range inexact count, k =>
    let es := if ovw then els else List.zipWith elemSum (k.els.take (64 * n)) els
    { k with
      els := es ++ k.els.drop (64 * n)
      range := k.range || range
      inexact := k.inexact || inexact
      count := countAdd k.count count }
  | .slots first els range inexact, k =>
    { k with
      els := (k.els.take (64 * first)) ++ els.flatten ++ k.els.drop (64 * (first + els.length))
      range := range
      inexact := inexact }
  | .token, k => k

/-- Elements of some rows chosen one by one between two banks by free values (R148). -/
def mixEls (r0 n base : Nat) (x y : List Elem) : List Elem :=
  tab 1024 (fun i => if r0 ≤ i / 64 ∧ i / 64 < r0 + n ∧ Config.freeBit (base + i) = true then y.getD i zeroElem else x.getD i zeroElem)

/-- The changes of a bank, by whichever M stream of the core made them, that have landed and that a task's V stream has not seen, in the
order in which they landed (R148, R170). -/
def lateOn (s : State) (c : Nat) (t : Task) (p : Nat) : List Pending :=
  (s.core c).slots.flatMap (fun u => u.2.past.filter (fun x => x.bank = p && decide (mget p 0 t.vseen ≤ x.n)))

/-- Rows filled, with the changes that are not ordered before the fill: each element keeps the filled value or takes, from one of them
on, every change after it (R148). -/
def fillUnder (rows : Nat × Nat) (free : Nat) (b1 : Bank) (late : List Pending) : List Elem :=
  ((late.zip (List.range late.length)).foldl (fun (k : Bank) x =>
    { k with els := mixEls rows.1 rows.2 (free + 1024 * x.2) b1.els (applyChange none x.1.op k).els }) b1).els

/-- VAFIL: where a change of the M stream is not ordered before it, each element is the filled value, or that with the
change applied after it (R148). -/
def execVafil (o : VAcc VSrc) (s : State) : Out :=
  vecIssue [{ src := o.v, trap := false }] [] s fun t =>
    let rows := bandRows o.band
    match t.phys o.bank.val with
    | none => s.takeFault fAccUnalloc 0
    | some p =>
      let c := s.cur.core.val
      let b := s.curCore.bank p
      if !ownsBands b s.cur.slot.val o.band then s.takeFault fAccBand 0
      else
        let b1 := bankFill o.ty rows.1 rows.2 (t.vsrc o.v) b
        let late := lateOn s c t p
        let free := s.free + 1024 * late.length
        let mixed := fun (x : Pending) => if x.bank = p && decide (mget p 0 t.vseen ≤ x.n) then
          { x with mix := x.mix ++ [(rows.1, rows.2, free)] } else x
        let d : Drain := { bank := p, row0 := rows.1, rows := rows.2, v := 0, serial := s.nextId, left := 0, stored := [] }
        let s' := ({ s with free := free + 1024 } : State).fresh.modCore c (fun k =>
          { k with slots := k.slots.map (fun u => (u.1, { u.2 with mq := u.2.mq.map mixed })) })
        ((s'.modBank c p (fun _ => { b1 with els := fillUnder rows s.free b1 late })).modCur (fun u =>
          { u with bfills := u.bfills.filter (fun x => decide (u.mseen ≤ x.serial)) ++ [d] })).vDone (bandCharge o.band) 3

end Sys2Proof.Machine
end

