-- ==== Sys2Proof/Machine/Tarn.lean ====
section
/-!
DEFINITION. The tarn of a die as its readers meet it: sets, the version rule, lookup, promotion, pins, allocation and
eviction, the messages that fills and write-backs send, and what a landed line gives its readers (spec/12 R293-R306, R312,
spec/07 R201-R207, spec/16 R343).
-/

namespace Sys2Proof.Machine

/-! ## Places (R293, R294) -/

/-- A 16-bit value rotated left. -/
def rotl16 (x k : Nat) : Nat := (x * 2 ^ k) % 2 ^ 16 + x % 2 ^ 16 / 2 ^ (16 - k)

/-- The set of a tile (R294). -/
def setOf (g : TTag) : Nat :=
  let h := (((g.tid ^^^ g.c0) ^^^ (rotl16 g.c1 5 ^^^ rotl16 g.c2 10)) ^^^ rotl16 g.c3 15)
  (h ^^^ (h / 2 ^ 10)) % 2 ^ 10

/-- The coordinates of a tag as a register holds them. -/
def coordOf (g : TTag) : Word64 := BitVec.ofNat 64 (g.c0 + g.c1 * 2 ^ 16 + g.c2 * 2 ^ 32 + g.c3 * 2 ^ 48)

/-- The line of a tag in a die's tarn, with its place 16 × set + way. -/
def State.line? (s : State) (die : Nat) (g : TTag) : Option (Nat × TLine) := (s.die die).tarn.find? (fun p => p.2.tag = g)
def State.modLine (s : State) (die way : Nat) (f : TLine → TLine) : State :=
  s.modDie die (fun d => { d with tarn := match mfind way d.tarn with | some l => mset way (f l) d.tarn | none => d.tarn })

/-- The cores of a die that hold anything. -/
def dieCores (s : State) (die : Nat) : List (Nat × Core) := s.cores.filter (fun c => dieOf c.1 = die)

/-- The region of a task. -/
def Task.home (t : Task) : Nat × Nat := (t.pav, t.cr.region.toNat)

/-! ## The version rule (R296, R297) -/

/-- u is v or newer. -/
def verGe (u v : Nat) : Bool := decide (u % 2 ^ 16 = v % 2 ^ 16) || later 16 u v

/-- The version that a task has observed of a tile. -/
def Task.seen (t : Task) (g : TTag) : Option Nat := (t.obs.find? (fun e => e.1 = g)).map (·.2)

/-- A read recorded: the least recently recorded of 65 entries leaves (R297). -/
def Task.noteTile (t : Task) (g : TTag) (v : Nat) : Task :=
  let l := t.obs.filter (fun e => e.1 ≠ g) ++ [(g, v)]
  if 64 < l.length then { t with obs := l.drop 1, ovf := true } else { t with obs := l }

/-- Whether a version is acceptable, or the home must be asked for P. -/
inductive Verdict where
  | yes
  | no
  | ask
  deriving DecidableEq, Repr

def verdict (b : Bool) : Verdict := if b then .yes else .no

def accepts (t : Task) (g : TTag) (need : TNeed) (v : Nat) (p : Option Nat) : Verdict :=
  if need.exact then verdict (decide (v = need.ver))
  else
    match t.seen g with
    | some e => verdict (verGe v e)
    | none =>
      if !t.ovf then .yes
      else
        match p with
        | none => .ask
        | some q => verdict (verGe v q)

/-- What a lookup finds (R298): a hit, a line being filled or written back, a miss with the line to replace in place, or
P to be asked for first. -/
inductive Look where
  | hit (way : Nat) (l : TLine)
  | shared (way : Nat)
  | miss (way : Option Nat)
  | ask

def lookTile (s : State) (die : Nat) (t : Task) (g : TTag) (need : TNeed) (p : Option Nat) : Look :=
  match s.line? die g with
  | none => .miss none
  | some (w, l) =>
    if l.filling then .shared w
    else
      match accepts t g need l.ver p with
      | .yes => .hit w l
      | .no => .miss (some w)
      | .ask => .ask

/-! ## Pins (R206) -/

/-- Is a tile pinned by any task of a die? -/
def pinned (s : State) (die : Nat) (g : TTag) : Bool := (dieCores s die).any (fun c => c.2.pins.any (fun p => p.tag = g))

/-- A pin count raised, to 15 at most. -/
def bumpPin (slot : Nat) (g : TTag) : List Pin → List Pin
  | [] => [{ slot := slot, tag := g, n := 1 }]
  | p :: ps => if p.slot = slot ∧ p.tag = g then { p with n := min (p.n + 1) 15 } :: ps else p :: bumpPin slot g ps

/-- The LINECAP of a region as one of its tasks has it, or as its control block says. -/
def lineCapOf (s : State) (t : Task) (r : Nat × Nat) : Nat :=
  if r = t.home then t.eff.lineCap else ((regionEff s r.1 r.2).getD noEff).lineCap

/-- May a pin be taken on a line (R206)? -/
def mayPin (s : State) (die way : Nat) (l : TLine) (t : Task) : Bool :=
  pinned s die l.tag ||
  (let tarn := (s.die die).tarn
   let held := (tarn.filter (fun p => p.1 / 16 = way / 16 && pinned s die p.2.tag)).length
   let ours := (tarn.filter (fun p => p.2.region = l.region && pinned s die p.2.tag)).length
   decide (held + 1 ≤ 12) && decide (ours + 1 < lineCapOf s t l.region))

/-- A pin of a resident task added where R206 allows it; false where it is refused. -/
def State.addPin (s : State) (c slot : Nat) (t : Task) (way : Nat) (l : TLine) : State × Bool :=
  if mayPin s (dieOf c) way l t then (s.modCore c (fun k => { k with pins := bumpPin slot l.tag k.pins }), true) else (s, false)

/-! ## Reading a line (R298, R299, R343) -/

/-- The value at which a line is inserted (Table 12-3). -/
def insertAt (need : TNeed) : Nat :=
  if need.hint = .strm then 7
  else match need.rd with
    | 0 => 0
    | 1 => 2
    | 2 => 6
    | _ => 7

/-- A line after a read: LASTREF, promotion on a hit, the hints last and stream. -/
def TLine.read (l : TLine) (need : TNeed) (hit : Bool) (cyc : Word64) : TLine :=
  let r := if hit && decide (need.rd ≠ 3) && need.hint ≠ .strm then 0 else l.rrpv
  { l with lastref := cyc.toNat, rrpv := if need.hint = .last && !l.dirty then 7 else r }

/-- The publish of the version that a read accepts is acquired at device scope, with the time that it carries if it wrote COH lines
(R340, R343). -/
def State.acquireTile (s : State) (c : Nat) (t : Task) (l : TLine) : State := s.acquireAt c t .dev (l.pub.getD (s.core c).ltime)

/-- A read of an accepted line by a resident task: `hit` promotes, `note` records the version (R297). -/
def State.readTile (s : State) (c slot : Nat) (t : Task) (way : Nat) (l : TLine) (need : TNeed) (hit note : Bool) : State :=
  let s := s.modLine (dieOf c) way (fun l => l.read need hit s.cyc)
  let s := if need.hint = .pin then (s.addPin c slot t way l).1 else s
  let s := if note then s.modTask c slot (fun t => t.noteTile l.tag l.ver) else s
  s.acquireTile c t l

/-- An itinerary moves past the entry whose line a lookup hits (R209). -/
def Itin.consume (x : Itin) (g : TTag) : Itin :=
  match x.got.find? (fun e => decide (x.p ≤ e.1) && e.2 = g) with
  | some e => { x with p := e.1 + 1, got := x.got.filter (fun y => decide (e.1 < y.1)) }
  | none => x
def Task.consume (t : Task) (g : TTag) : Task := { t with itin := t.itin.map (fun x => x.consume g) }

/-! ## Leaving the tarn (R301, R303) -/

/-- The latch entries of a tile removed on every core of a die. -/
def State.unlatch (s : State) (die : Nat) (g : TTag) : State :=
  each (dieCores s die) (fun c s => s.modCore c.1 (fun k => { k with latch := k.latch.filter (fun x => x.tag ≠ g) })) s

/-- The type and the flits of a tile message (Table 21-2). -/
def TMsgKind.flits : TMsgKind → Nat × Nat
  | .request .. | .query _ => (flTile, 1)
  | .forward _ => (flForward, 1)
  | .wbBegin _ | .writing _ => (flWrite, 64)
  | .publish _ | .drop => (flPublish, 1)

/-- The INJCAP of the region whose task caused a tile message, its own values while it is here; none for a peer's (R410). -/
def tellCap (s : State) (m : TMsg) : Nat :=
  if m.remote.isSome then 0
  else match s.byUid m.uid with
    | some t => t.eff.injCap
    | none => ((regionEff s m.pav m.region).getD noEff).injCap

/-- A tile message sent, in flits to its home agent; a fill's request under its reassembly entry (R406). -/
def State.tell (s : State) (m : TMsg) : State :=
  let s' := { s.fresh with tmsgs := mset s.nextId m s.tmsgs }
  match m.home with
  | some h =>
    match m.kind with
    | .wbBegin _ => s'.injectData (routerOf m.core) (homeRouter h) flWrite s.nextId (s.nextId, 0) m.pav m.data (tellCap s m)
    | .request .. => s'.inject (routerOf m.core) (homeRouter h) flTile (flitTag s m.core m.fill 0) (s.nextId, 0) 1 m.pav (tellCap s m)
    | _ => s'.inject (routerOf m.core) (homeRouter h) m.kind.flits.1 s.nextId (s.nextId, 0) m.kind.flits.2 m.pav (tellCap s m)
  | none => s'

/-- A message about a line of a die. -/
def TLine.msg (l : TLine) (die core : Nat) (k : TMsgKind) : TMsg :=
  { home := l.home, die := die, core := core, pav := l.region.1, key := l.tag.key, tag := l.tag, desc := l.desc, kind := k,
    fill := 0, way := none, slot := none, data := l.data, ts := l.pub, remote := none, region := l.region.2 }

/-- A line taken out of the tarn, with its pins and latch entries. -/
def State.removeLine (s : State) (die way : Nat) (l : TLine) : State :=
  let s := (s.modDie die (fun d => { d with tarn := mdel way d.tarn })).unlatch die l.tag
  each (dieCores s die) (fun c s => s.modCore c.1 (fun k => { k with pins := k.pins.filter (fun x => x.tag ≠ l.tag) })) s

/-- A line dropped, and the drop reported to its directory. -/
def State.dropLine (s : State) (die way : Nat) (l : TLine) : State :=
  let s := s.removeLine die way l
  if l.home.isSome then s.tell (l.msg die 0 .drop) else s

/-- A write-back of a line begun: to the home, or through the descriptor's token to its peer (R421). -/
def State.beginWb (s : State) (m : TMsg) (ver : Nat) : State :=
  let s' := s.tell { m with kind := .wbBegin ver }
  match m.home with
  | some _ => s'
  | none =>
    let d := readDesc m.desc
    let req : RemoteReq :=
      { snode := selfNode s, spav := ⟨m.pav % 128, Nat.mod_lt _ (by decide)⟩, tpav := ⟨d.rpav % 128, Nat.mod_lt _ (by decide)⟩,
        token := d.token, off := firstByte d m.tag, kind := .tileWb m.desc (coordOf m.tag) (BitVec.ofNat 16 ver) m.data }
    let port := match routeFor s m.pav d.peer (firstByte d m.tag) with | .out p => some p | _ => none
    let op : RemoteOp :=
      { core := m.core, pav := m.pav, task := 0, region := 0, iaddr := 0, node := d.peer, port := port, req := req, owner := .wb s.nextId,
        n := 0, sx := false, scope := .sys, writes := true }
    s'.addRop op (tellCap s m)

/-- A victim evicted: dropped if clean, written back if dirty; the numbers of the write-backs begun (R301). -/
def State.evict (s : State) (die way : Nat) (l : TLine) (uid : Nat) : State × List Nat :=
  if l.dirty then ((s.removeLine die way l).beginWb { l.msg die 0 .drop with uid := uid } l.ver, [s.nextId]) else (s.dropLine die way l, [])

/-- Lines that may leave (R300). -/
def candidates (s : State) (die : Nat) (f : Nat → TLine → Bool) : List (Nat × TLine) :=
  (s.die die).tarn.filter (fun p => !p.2.filling && !pinned s die p.2.tag && f p.1 p.2)

/-- The victim among candidates, which age until one of them stands at 7 (R300); none if there is no candidate. -/
def State.victim (s : State) (die : Nat) (cs : List (Nat × TLine)) : Option (State × Nat × TLine) :=
  let top := cs.foldl (fun n p => max n p.2.rrpv) 0
  let s := each cs (fun p s => s.modLine die p.1 (fun l => { l with rrpv := l.rrpv + (7 - top) })) s
  let old := (cs.filter (fun p => p.2.rrpv = top)).foldl (fun b p => match b with
    | none => some p
    | some (q : Nat × TLine) => if p.2.lastref < q.2.lastref then some p else b) none
  old.map (fun p => (s, p.1, p.2))

/-- Does an access of a task that waits on a die still ask for a tile: one of its V stream, a product, a slot or a prefetch? -/
def asksFor (s : State) (die uid : Nat) (g : TTag) : Bool :=
  (dieCores s die).any (fun c =>
    c.2.slots.any (fun p => p.2.uid = uid && (p.2.stores.any (fun x => x.tag = g)
      || p.2.fills.any (fun f => match f.kind with | .tile _ g' .. => g' = g | _ => false)
      || c.2.replay.any (fun e => e.slot = p.1 && (e.prod.atag = g || e.prod.btag = g))
      || (match p.2.itin with | some x => x.open_.any (fun q => q.tag = g) | none => false)))
    || c.2.copies.any (fun x => x.2.uid = uid && match x.2.op with | .tile _ (g' :: _) .. => g' = g | _ => false))

/-- A way for a new line of a task's region: the way and the write-backs that its fill waits for, or none while the
allocation waits (R300, R301, R312). The cap step of an allocation is made once, and the count that it freed stays its own while its
way step waits. -/
def State.findWay (s : State) (c : Nat) (t : Task) (g : TTag) : State × Option (Nat × List Nat) :=
  let die := dieOf c
  let set := setOf g
  let inMask := fun (w : Nat) => t.eff.wayMask.getLsbD w
  let ours := (s.die die).tarn.filter (fun p => p.2.region = t.home)
  let mine := (t.uid, g, t.home)
  let open_ := (s.die die).capped.filter (fun e => asksFor s die e.1 e.2.1 && (s.line? die e.2.1).isNone)
  let held := open_.filter (fun e => e ≠ mine && e.2.2 = t.home)
  let s := s.modDie die (fun d => { d with capped := open_ })
  let forget := fun (s : State) => s.modDie die (fun d => { d with capped := d.capped.filter (· ≠ mine) })
  let wayStep := fun (s : State) =>
    match ((List.range 16).filter inMask).find? (fun w => (mfind (16 * set + w) (s.die die).tarn).isNone) with
    | some w => (forget s, some (16 * set + w, []))
    | none =>
      match s.victim die (candidates s die (fun i _ => i / 16 = set && inMask (i % 16))) with
      | none => (s, none)
      | some (s, i, l) =>
        let r := s.evict die i l t.uid
        (forget r.1, some (i, r.2))
  if decide (t.eff.lineCap ≤ ours.length + held.length) && !open_.contains mine then
    match s.victim die (candidates s die (fun _ l => l.region = t.home)) with
    | none => (s, none)
    | some (s, i, l) =>
      let r := s.evict die i l t.uid
      if i / 16 = set && inMask (i % 16) then (r.1, some (i, r.2))
      else wayStep (r.1.modDie die (fun d => { d with capped := d.capped ++ [mine] }))
  else wayStep s

/-! ## Fills (R304, R401) -/

/-- The home agent of a tile (R304); none for a tile of a peer (R421). A tile with no element in bounds takes that of its
BASE (log 17). -/
def tileHome (s : State) (die pav : Nat) (desc : List Byte) (g : TTag) : Option Nat :=
  let d := readDesc desc
  if d.remote then none
  else some (match xlateNow s die pav (firstByte d g) .read with | .ok _ pa => homeOf pa | _ => 0)

/-- A fill's request sent to the directory, or to the peer. -/
def State.sendFill (s : State) (id : Nat) : State :=
  match mfind id s.tfills with
  | none => s
  | some f =>
    let s := { s with tfills := mset id { f with sent := true } s.tfills }
    let d := readDesc f.desc
    match tileHome s f.die f.pav f.desc f.tag with
    | some h => s.tell { home := some h, die := f.die, core := f.core, pav := f.pav, key := f.tag.key, tag := f.tag, desc := f.desc,
                         kind := .request f.exact f.ver, fill := id, way := none, slot := none, data := [], ts := none,
                         remote := none, uid := f.uid }
    | none =>
      let req : RemoteReq :=
        { snode := selfNode s, spav := ⟨f.pav % 128, Nat.mod_lt _ (by decide)⟩, tpav := ⟨d.rpav % 128, Nat.mod_lt _ (by decide)⟩,
          token := d.token, off := firstByte d f.tag
          kind := .tile f.desc (coordOf f.tag) f.exact (f.ver.map (fun v => BitVec.ofNat 16 v)) }
      let port := match routeFor s f.pav d.peer (firstByte d f.tag) with | .out p => some p | _ => none
      let op : RemoteOp :=
        { core := f.core, pav := f.pav, task := 0, region := 0, iaddr := 0, node := d.peer, port := port, req := req, owner := .fill id,
          n := 0, sx := false, scope := .sys, writes := false }
      s.addRop op (match s.byUid f.uid with | some t => t.eff.injCap | none => 0)

/-- A fill of a way begun for a task on a core; its request waits for the write-backs of a line replaced in place. -/
def State.startFill (s : State) (c : Nat) (t : Task) (g : TTag) (desc : List Byte) (need : TNeed) (way : Nat) (wbs : List Nat)
    (hold : Bool) : State :=
  let f : TFill :=
    { die := dieOf c, way := way, core := c, entry := true, uid := t.uid, acct := t.cr.lacct.toNat, pav := t.pav, tag := g,
      desc := desc, exact := need.exact, ver := if need.exact then some need.ver else t.seen g, sent := false, data := none,
      flits := 0, got := [], waitWb := wbs }
  let id := s.nextId
  let s := ({ s.fresh with tfills := mset id f s.tfills } : State).takeEntry c id 0
  if hold && !wbs.isEmpty then s else s.sendFill id

/-- A miss: the line allocated or replaced in place and its fill begun (R298, R300); the fill's number, or none while the
allocation waits or the core has no reassembly entry for it (R18, R401). -/
def State.missTile (s : State) (c : Nat) (t : Task) (g : TTag) (desc : List Byte) (need : TNeed) (inPlace : Option Nat) :
    State × Option Nat :=
  let die := dieOf c
  if !reasmFree s c then (s, none)
  else match inPlace with
  | some w =>
    match mfind w (s.die die).tarn with
    | none => (s, none)
    | some l =>
      let s := s.unlatch die g
      let wbs := if l.dirty then [s.nextId] else []
      let s := if l.dirty then s.beginWb { l.msg die 0 .drop with uid := t.uid } l.ver else s
      let s := s.modLine die w (fun l => { l with
        filling := true
        dirty := false
        rrpv := insertAt need
        lastref := s.cyc.toNat
        desc := desc
        home := tileHome s die t.pav desc g })
      let id := s.nextId
      (s.startFill c t g desc need w wbs true, some id)
  | none =>
    let r := s.findWay c t g
    match r.2 with
    | none => (r.1, none)
    | some (w, wbs) =>
      let s := r.1
      let l : TLine :=
        { tag := g, ver := 0, data := [], filling := true, dirty := false, rrpv := insertAt need, lastref := s.cyc.toNat,
          region := t.home, zero := false, spec := false, desc := desc, home := tileHome s die t.pav desc g, pub := none }
      let s := s.modDie die (fun d => { d with tarn := mset w l d.tarn })
      let id := s.nextId
      (s.startFill c t g desc need w wbs false, some id)

/-- A query for P sent for a reader (R297, R421); its number. -/
def State.askP (s : State) (c : Nat) (t : Task) (g : TTag) (desc : List Byte) (r : TReader) : State × Nat :=
  let d := readDesc desc
  let id := s.nextId
  let s := s.tell { home := tileHome s (dieOf c) t.pav desc g, die := dieOf c, core := c, pav := t.pav, key := g.key, tag := g,
                    desc := desc, kind := .query r, fill := 0, way := none, slot := none, data := [], ts := none, remote := none,
                    uid := t.uid }
  if !d.remote then (s, id)
  else
    let req : RemoteReq :=
      { snode := selfNode s, spav := ⟨t.pav % 128, Nat.mod_lt _ (by decide)⟩, tpav := ⟨d.rpav % 128, Nat.mod_lt _ (by decide)⟩,
        token := d.token, off := firstByte d g, kind := .tileP desc (coordOf g) }
    let port := match routeFor s t.pav d.peer (firstByte d g) with | .out p => some p | _ => none
    let op : RemoteOp :=
      { core := c, pav := t.pav, task := 0, region := 0, iaddr := 0, node := d.peer, port := port, req := req, owner := .query id,
        n := 0, sx := false, scope := .sys, writes := false }
    (s.addRop op t.eff.injCap, id)

/-! ## Summary bits, merging (R144, R302) -/

/-- Is every element of a tile zero, and is any an infinity or a NaN (R302)? -/
def tileZero (d : Desc) (data : List Byte) : Bool :=
  let ty := tyOf d.ty
  let b := tyBytes ty
  (List.range (d.rows * d.cols)).all (fun n =>
    let w := tileElem data b n
    if ty.isFloat then w % 2 ^ (8 * b - 1) = 0 else w = 0)
def tileSpec (d : Desc) (data : List Byte) : Bool :=
  let ty := tyOf d.ty
  ty.isFloat && (List.range (d.rows * d.cols)).any (fun n =>
    match decodeF (fmtOf ty) (tileElem data (tyBytes ty) n) with
    | .fin .. => false
    | _ => true)

/-- Tile data with the elements of a sub-block replaced where a mask bit is 1 (R142, R144). -/
def mergeCells (d : Desc) (data : List Byte) (sub : Nat) (mask : BitVec 1024) (cells : Cells) : List Byte :=
  let ty := tyOf d.ty
  let b := tyBytes ty
  ((List.range 1024).filter (fun i => mask.getLsbD i && decide (1024 * sub + i < d.rows * d.cols))).foldl
    (fun x i => splice x (b * (1024 * sub + i)) (bytesOf b (cellTarn ty (cells.getD i 0)))) data

/-- The merge of a VTST into the line it selected: dirty, at its version or the next, recorded (R144, R297, R302, R303). -/
def State.mergeTile (s : State) (c slot : Nat) (t : Task) (way : Nat) (l : TLine) (x : VStore) (hit : Bool) : State :=
  let d := readDesc x.desc
  let data := mergeCells d l.data x.sub x.mask x.cells
  let v := if x.pub then (l.ver + 1) % 2 ^ 16 else l.ver
  let s := s.modLine (dieOf c) way (fun l => { l with
    data := data
    ver := v
    dirty := true
    zero := tileZero d data
    spec := tileSpec d data
    desc := x.desc })
  let s := s.readTile c slot t way l x.need hit false
  (s.modTask c slot (fun t => t.noteTile l.tag v)).unlatch (dieOf c) l.tag

/-! ## VTLD and VTST (R142-R144) -/

/-- The fill of a register by an accepted line: ready to land. -/
def Task.readyFill (t : Task) (id : Nat) (cells : Cells) : Task :=
  { t with fills := t.fills.map (fun f => match f.kind with
      | .tile i _ _ _ _ mask => if i = id then { f with kind := .ready cells mask } else f
      | _ => f) }

/-- Has a fill waited for a line to land, so that its read is no hit (R299)? -/
def Task.fillWaited (t : Task) (id : Nat) : Bool := t.fills.any (fun f => f.waited && match f.kind with | .tile i .. => i = id | _ => false)

/-- One reader's lookup by VTLD: what it finds is read, shared, filled or asked for; `p` the home's answer, if asked. -/
def State.vtldLook (s : State) (c slot : Nat) (t : Task) (id : Nat) (g : TTag) (desc : List Byte) (need : TNeed) (sub : Nat)
    (p : Option Nat) : State :=
  match lookTile s (dieOf c) t g need p with
  | .hit w l =>
    (s.readTile c slot t w l need (!(t.fillWaited id)) true).modTask c slot (fun t =>
      (t.consume g).readyFill id (tileCells (readDesc desc) l.data sub))
  | .shared _ => s
  | .miss w => (s.missTile c t g desc need w).1
  | .ask => (s.askP c t g desc (.fill c slot id)).1

/-- One reader's lookup by VTST. -/
def State.vtstLook (s : State) (c slot : Nat) (t : Task) (x : VStore) (p : Option Nat) : State :=
  match lookTile s (dieOf c) t x.tag x.need p with
  | .hit w l => (s.mergeTile c slot t w l x (!x.waited)).modTask c slot (fun t => { t with stores := t.stores.filter (fun y => y.id ≠ x.id) })
  | .shared _ => s
  | .miss w => (s.missTile c t x.tag x.desc x.need w).1
  | .ask => (s.askP c t x.tag x.desc (.store c slot x.id)).1

/-- Has a task a tile access of its V stream that waits for this tile? -/
def tileWaits (t : Task) (g : TTag) : Bool :=
  t.fills.any (fun f => match f.kind with | .tile _ g' .. | .parkedTile g' .. => g' = g | _ => false) || t.stores.any (fun x => x.tag = g)

/-- The page checks of a tile access: those of the whole footprint for VTLD (R143), of the elements written for VTST, since a
masked-off one raises no fault (R118, R138, R144; log 50). -/
def tilePages (s : State) (t : Task) (d : Desc) (pages : List Nat) (acc : AccKind) : Xls :=
  if d.remote then .ok [] else xlateAll s s.curDie t.pav acc pages

/-- A tile access of the V stream waits at issue while the core has no reassembly entry for its miss (R18); one that stands
behind an earlier access of the task to the tile waits with it and asks for nothing yet (R298). -/
def tileStall (s : State) (t : Task) (g : TTag) (need : TNeed) : Bool :=
  match lookTile s s.curDie t g need none with
  | .miss _ => !tileWaits t g && !reasmFree s s.cur.core.val
  | _ => false

def execVtld (o : VTile VReg) (s : State) : Out :=
  vecIssue [] [o.v.val] s fun t =>
    match t.desc o.slot.val with
    | none => s.takeFault fDescInvalid 0
    | some desc =>
      let d := readDesc desc
      let g := tileTag t d (t.a .v o.coord.val)
      let need := needOf t d o.slot.val o.xv o.hint o.rd.val
      let mask := t.kreg o.k.val
      if subBlocks (tyOf d.ty) ≤ o.sub.val then s.takeFault fIllegalOperand 0
      else
        if vDevOpen s t then s
        else match tilePages s t d (footPages d g) .read with
        | .miss va => startWalk s s.curDie t.pav va
        | .bad c va =>
          if parks t c then
            let r := parkRec t .v c s.curSt.pc (BitVec.ofNat 64 va)
            (((dropFailed s s.curDie t.pav va).fresh.modCur (fun t =>
              t.beginFill s.nextId o.v.val (t.st .v).blkId (t.st .v).pc (.parkedTile g desc need o.sub.val mask))).vDone vCharge 3).postOnly
                s.cur.core.val s.cur.slot.val r
          else s.takeMemFault c va
        | .ok _ =>
          if tileStall s t g need then s
          else
            let id := s.nextId
            let s := s.fresh.modCur (fun t =>
              t.beginFill id o.v.val (t.st .v).blkId (t.st .v).pc (.tile id g desc need o.sub.val mask))
            (if tileWaits t g then s else s.vtldLook s.cur.core.val s.cur.slot.val t id g desc need o.sub.val none).vDone vCharge 3

def execVtst (o : VTile VSrc) (pub : Bool) (s : State) : Out :=
  vecIssue [{ src := o.v, trap := false }] [] s fun t =>
    match t.desc o.slot.val with
    | none => s.takeFault fDescInvalid 0
    | some desc =>
      let d := readDesc desc
      let g := tileTag t d (t.a .v o.coord.val)
      let need := needOf t d o.slot.val o.xv o.hint o.rd.val
      if subBlocks (tyOf d.ty) ≤ o.sub.val then s.takeFault fIllegalOperand 0
      else
        if vDevOpen s t then s
        else match tilePages s t d (maskPages d g o.sub.val (t.kreg o.k.val)) .store with
        | .miss va => startWalk s s.curDie t.pav va
        | .bad c va => s.takeMemFault c va
        | .ok _ =>
          if tileStall s t g need then s
          else
            let x : VStore :=
              { id := s.nextId, waited := false, blk := s.curSt.blkId, iaddr := s.curSt.pc, tag := g, desc := desc, need := need,
                sub := o.sub.val, mask := t.kreg o.k.val, cells := t.vsrc o.v, pub := pub }
            let s := s.fresh.modCur (fun t => { t with stores := t.stores ++ [x] }.noteKept o.v (fun left =>
              .tile x.id t.pav g desc x.sub (left &&& x.mask) x.cells))
            (if tileWaits t g then s else s.vtstLook s.cur.core.val s.cur.slot.val t x none).vDone vCharge 3

/-! ## Waiting readers (R298, R401) -/

/-- The tile readers of a task's V stream that wait, loads and stores, in the order of their issue. -/
inductive VWait where
  | load (id : Nat) (g : TTag) (desc : List Byte) (need : TNeed) (sub : Nat)
  | store (x : VStore)
  deriving DecidableEq, Repr

def VWait.num : VWait → Nat
  | .load id .. => id
  | .store x => x.id

/-- The tile and the name of a waiting reader. -/
def VWait.tag : VWait → TTag
  | .load _ g .. => g
  | .store x => x.tag
def VWait.reader (c slot : Nat) : VWait → TReader
  | .load id .. => .fill c slot id
  | .store x => .store c slot x.id

def vWaits (t : Task) : List VWait :=
  let ls := (t.fills.filterMap (fun f => match f.kind with
    | .tile id g desc need sub _ => some (VWait.load id g desc need sub)
    | _ => none)) ++ t.stores.map VWait.store
  (sortBy id (ls.map VWait.num)).filterMap (fun i => ls.find? (fun w => w.num = i))

/-- Has a reader a query for P on its way? -/
def asked (s : State) (r : TReader) : Bool := s.tmsgs.any (fun m => m.2.kind = .query r)

/-- Does a waiting reader stand behind an earlier one of its task to the same tile (R298)? -/
def standsBehind (t : Task) (w : VWait) : Bool := (vWaits t).any (fun y => y.tag = w.tag && decide (y.num < w.num))
  || t.fills.any (fun f => decide (f.n < w.num) && match f.kind with | .parkedTile g .. => g = w.tag | _ => false)

/-- A landed line offered to one waiting reader of a V stream: one that does not accept it replaces it in place, one that
needs P asks for it (R297, R298). -/
def State.offerV (s : State) (c slot : Nat) (w : VWait) : State :=
  match s.task? c slot with
  | none => s
  | some t =>
    let g := w.tag
    if standsBehind t w || asked s (w.reader c slot) then s
    else match s.line? (dieOf c) g with
    | none => s
    | some (i, l) =>
      if l.filling then s
      else
        match w with
        | .load id _ desc need sub =>
          match accepts t g need l.ver none with
          | .no => (s.missTile c t g desc need (some i)).1
          | .ask => (s.askP c t g desc (.fill c slot id)).1
          | .yes => (s.readTile c slot t i l need false true).modTask c slot (fun t =>
              t.readyFill id (tileCells (readDesc desc) l.data sub))
        | .store x =>
          match accepts t g x.need l.ver none with
          | .no => (s.missTile c t g x.desc x.need (some i)).1
          | .ask => (s.askP c t g x.desc (.store c slot x.id)).1
          | .yes => (s.mergeTile c slot t i l x false).modTask c slot (fun t =>
              { t with stores := t.stores.filter (fun y => y.id ≠ x.id) })

/-- The readers of a task's V stream that wait for a tile have seen a line of it land (R299). -/
def Task.sawLine (t : Task) (g : TTag) : Task :=
  { t with
    fills := t.fills.map (fun f => match f.kind with | .tile _ g' .. => if g' = g then { f with waited := true } else f | _ => f)
    stores := t.stores.map (fun x => if x.tag = g then { x with waited := true } else x) }

/-- The V-stream readers of a die that wait for a tile, in order: core, slot, issue. -/
def State.wakeV (s : State) (die : Nat) (g : TTag) : State :=
  let s := each (dieCores s die) (fun c s => each c.2.slots (fun p s => s.modTask c.1 p.1 (fun t => t.sawLine g)) s) s
  let ws := (dieCores s die).flatMap (fun c => c.2.slots.flatMap (fun t => ((vWaits t.2).filter (fun w => w.tag = g)).map (fun w => (c.1, t.1, w))))
  each ws (fun (w : Nat × Nat × VWait) s => s.offerV w.1 w.2.1 w.2.2) s

/-- A register whose fill an accepted line has made ready is written and full (R401). -/
def Task.landReady (t : Task) : Task :=
  t.fills.foldl (fun t f => match f.kind with
    | .ready cells mask => t.landFill f (maskCells mask false (t.vreg f.v) cells)
    | _ => t) t

/-- The tile readers of a task's V stream tried again in the order of their issue: those that no query and no earlier reader
of their tile holds. -/
def State.retryV (s : State) (c slot : Nat) : State :=
  match s.task? c slot with
  | none => s
  | some t =>
    each (vWaits t) (fun w s => match s.task? c slot with
      | none => s
      | some t =>
        if standsBehind t w || asked s (w.reader c slot) then s
        else match w with
          | .load id g desc need sub => s.vtldLook c slot t id g desc need sub none
          | .store x => s.vtstLook c slot t x none) s

end Sys2Proof.Machine
end

