-- ==== Sys2Proof/Machine/Copy.lean ====
section
/-!
DEFINITION. Copy slots: claiming, the bytes that memory copies move, additions to sync words, remote and host copies, tile
fills, write-backs and maintenance, ends and failures; the copy-stream instructions (spec/07 R180-R211).
-/

namespace Sys2Proof.Machine

/-! ## The slots of a core (R180, R384) -/

def State.slot? (s : State) (c n : Nat) : Option CopySlot := mfind n (s.core c).copies
/-- The slot of a core that was claimed under an identity, with its number: none once it has gone back to the pool, whoever holds the
number since. -/
def State.slotId? (s : State) (c id : Nat) : Option (Nat × CopySlot) := (s.core c).copies.find? (fun p => p.2.id = id)
def State.putSlot (s : State) (c n : Nat) (x : CopySlot) : State :=
  s.modCore c (fun k => { k with copies := mset n x k.copies })

/-! ## Issue (R180, R182) -/

/-- The outcome of the checks on a sync word (Table 7-1, rows 4 to 6). -/
inductive SyncChk where
  | ok (w : Option (Nat × Nat))
  | miss (va : Nat)
  | bad (code : BitVec 8) (va : Word64)

def checkSync (s : State) (t : Task) (f : SwF) : SyncChk :=
  if !f.use then .ok none
  else
    let va := s.areg t f.sw.val
    if va.toNat % 16 ≠ 0 then .bad fAlign va
    else
      match xlate s s.curDie t.pav va.toNat .write with
      | .bad c => .bad c va
      | .miss => .miss va.toNat
      | .ok l pa => if l.cls ≠ PClass.coh then .bad fSyncClass va else .ok (some (pa, l.key))

/-- A slot claimed by the issuing instruction; it stalls when no slot is free. -/
def State.claim (s : State) (t : Task) (major : Nat) (f : SwF) (desc : List Byte) (rd : Nat) (op : CopyOp)
    (prep : State → State) : State :=
  match checkSync s t f with
  | .bad c va => (dropFailed s s.curDie t.pav va.toNat).takeFault c va
  | .miss va => startWalk s s.curDie t.pav va
  | .ok w =>
    let k := s.curCore
    if 1024 ≤ k.copies.length then s
    else
      let x : CopySlot :=
        { id := s.nextId, seen := (t.st s.cur.stream).seen, ctx := s.cur, uid := t.uid, task := t.taskid, pav := t.pav, key := t.key, region := t.cr.region.toNat,
          acct := t.cr.lacct.toNat, blk := s.curSt.blkId, iaddr := s.curSt.pc, major := BitVec.ofNat 8 major, state := 0,
          cause := 0, detail := 0, bytes := 0, count2 := 0, faddr := 0, sync := w, desc := desc, rd := rd, op := op,
          stage := .start, adds := [], parkN := 0, waited := false, carry := [] }
      ((prep s.fresh).putSlot s.cur.core.val (lowestFree k.copies) x).finish 3

/-- A length operand of 36 bits (R195). -/
def lenOk (v : Word64) : Bool := decide (v.toNat < 2 ^ 36)

/-- A copy instruction: its operand checks, then its slot. -/
def copyInsn (major : Nat) (f : SwF) (rd : Nat) (ok : Task → Bool) (op : Task → CopyOp) (s : State) : Out :=
  onTask s fun t =>
    if !ok t then s.takeFault fIllegalOperand 0 else s.claim t major f [] rd (op t) id

def execCpy (dst src len : AReg) (sw : SwF) (rd : Fin 4) (s : State) : Out :=
  copyInsn 0x00 sw rd.val (fun t => lenOk (s.areg t len.val))
    (fun t => .mem (s.areg t dst.val).toNat (s.areg t src.val).toNat (s.areg t len.val).toNat 1 0 0) s

/-- A two-dimensional count operand of 32 bits (R195). -/
def dimOk (s : State) (t : Task) (len : AReg) (dim : Dim2) : Bool :=
  lenOk (s.areg t len.val) && decide ((s.areg t dim.cnt.val).toNat < 2 ^ 32)

def execCpy2 (dst src len : AReg) (sw : SwF) (rd : Fin 4) (dim : Dim2) (s : State) : Out :=
  copyInsn 0x01 sw rd.val (fun t => dimOk s t len dim)
    (fun t => .mem (s.areg t dst.val).toNat (s.areg t src.val).toNat (s.areg t len.val).toNat (s.areg t dim.cnt.val).toNat
      (s.areg t dim.dstr.val) (s.areg t dim.sstr.val)) s

def execCpyf (dst src len : AReg) (sw : SwF) (rd : Fin 4) (size : Size) (s : State) : Out :=
  copyInsn 0x02 sw rd.val
    (fun t => lenOk (s.areg t len.val) && (s.areg t dst.val).toNat % size.bytes = 0 && (s.areg t len.val).toNat % size.bytes = 0)
    (fun t => .fill (s.areg t dst.val).toNat (s.areg t len.val).toNat size.bytes (s.areg t src.val)) s

def execCpyxExp (dst src len : AReg) (sw : SwF) (rd : Fin 4) (dim : Dim2) (s : State) : Out :=
  copyInsn 0x03 sw rd.val (fun t => dimOk s t len dim)
    (fun t => .expand (s.areg t dst.val).toNat (s.areg t src.val).toNat (s.areg t len.val).toNat (s.areg t dim.cnt.val).toNat
      (s.areg t dim.dstr.val) (s.areg t dim.sstr.val)) s

def execCpyxPack (dst src len : AReg) (sw : SwF) (rd : Fin 4) (dim : Dim2) (s : State) : Out :=
  copyInsn 0x03 sw rd.val (fun t => dimOk s t len dim)
    (fun t => .pack (s.areg t dst.val).toNat (s.areg t src.val).toNat (s.areg t len.val).toNat (s.areg t dim.cnt.val).toNat
      (s.areg t dim.dstr.val) (s.areg t dim.sstr.val)) s

/-- The bytes of an element of a reduction (Table 7-6). -/
def putBytes : PutOp → Nat
  | .plain => 1
  | .addI64 => 8
  | _ => 4

/-- The target register of CPYR names a node and a pavilion, its other bits zero (R197). -/
def targetOk (v : Word64) : Bool := decide (v.toNat < 2 ^ 23)

def execCpyrGet (dst src len : AReg) (sw : SwF) (rd : Fin 4) (tok tgt : AReg) (s : State) : Out :=
  copyInsn 0x06 sw rd.val (fun t => lenOk (s.areg t len.val) && targetOk (s.areg t tgt.val))
    (fun t => .get (s.areg t dst.val).toNat (s.areg t src.val).toNat (s.areg t len.val).toNat (s.areg t tok.val)
      (nbits (s.areg t tgt.val).toNat 15 0) (nbits (s.areg t tgt.val).toNat 22 16)) s

def execCpyrPut (dst src len : AReg) (sw : SwF) (rd : Fin 4) (tok tgt : AReg) (op : PutOp) (s : State) : Out :=
  copyInsn 0x06 sw rd.val
    (fun t => lenOk (s.areg t len.val) && targetOk (s.areg t tgt.val) && (s.areg t dst.val).toNat % putBytes op = 0
      && (s.areg t len.val).toNat % putBytes op = 0)
    (fun t => .put (s.areg t dst.val).toNat (s.areg t src.val).toNat (s.areg t len.val).toNat (s.areg t tok.val)
      (nbits (s.areg t tgt.val).toNat 15 0) (nbits (s.areg t tgt.val).toNat 22 16) op) s

/-- The window register of CPYH holds an index of 16 bits (R199). -/
def winOk (v : Word64) : Bool := decide (v.toNat < 2 ^ 16)

def execCpyhRd (dst src len : AReg) (sw : SwF) (rd : Fin 4) (win : AReg) (s : State) : Out :=
  copyInsn 0x07 sw rd.val (fun t => lenOk (s.areg t len.val) && winOk (s.areg t win.val))
    (fun t => .hostRd (s.areg t dst.val).toNat (s.areg t src.val).toNat (s.areg t len.val).toNat (s.areg t win.val).toNat) s

def execCpyhWr (dst src len : AReg) (sw : SwF) (rd : Fin 4) (win : AReg) (s : State) : Out :=
  copyInsn 0x07 sw rd.val (fun t => lenOk (s.areg t len.val) && winOk (s.areg t win.val))
    (fun t => .hostWr (s.areg t dst.val).toNat (s.areg t src.val).toNat (s.areg t len.val).toNat (s.areg t win.val).toNat) s

def execSwadd (sw amt : AReg) (s : State) : Out :=
  copyInsn 0x0E { sw := sw, use := true } 0 (fun t => lenOk (s.areg t amt.val)) (fun t => .swadd (s.areg t amt.val).toNat) s

/-! ## Memory copies (R186, R187, R195, R196) -/

/-- How the bytes of a destination part follow from source bytes. -/
inductive Xform where
  | plain
  | lit (bs : List Byte)
  | expand (skip : Nat)
  | pack (skip : Nat)
  deriving DecidableEq, Repr

/-- One destination line, or part of one: its address and length, the source range, and whether a row ends with it. -/
structure Piece where
  dst : Nat
  n : Nat
  src : Nat
  srcN : Nat
  f : Xform
  last : Bool
  deriving DecidableEq, Repr

/-- A range cut at the boundaries of 128-byte lines: offset and length of each part. -/
def cuts (va len : Nat) : List (Nat × Nat) :=
  if len = 0 then []
  else (List.range ((va + len - 1) / 128 - va / 128 + 1)).map (fun i =>
    let lo := if i = 0 then 0 else 128 * (va / 128 + i) - va
    (lo, min len (128 * (va / 128 + i + 1) - va) - lo))

/-- The parts of one row of len destination bytes; `src` gives source address, length and form from offset and length. -/
def rowPieces (dst len : Nat) (src : Nat → Nat → Nat × Nat × Xform) : List Piece :=
  (cuts dst len).map (fun p =>
    let x := src p.1 p.2
    { dst := (dst + p.1) % 2 ^ 64, n := p.2, src := x.1 % 2 ^ 64, srcN := x.2.1, f := x.2.2, last := decide (p.1 + p.2 = len) })

/-- The address of row r. -/
def rowAt (base : Nat) (stride : Word64) (r : Nat) : Nat := ibits ((base : Int) + r * stride.toInt) 64

/-- The parts of a slot's work, in order (R186). -/
def pieces (op : CopyOp) (got : List Byte) : List Piece :=
  match op with
  | .mem dst src len cnt ds ss =>
    (List.range cnt).flatMap (fun r => rowPieces (rowAt dst ds r) len (fun o n => (rowAt src ss r + o, n, .plain)))
  | .fill dst len n pat =>
    rowPieces dst len (fun o k => (0, 0, .lit (tab k (fun i => BitVec.ofNat 8 (pat.toNat / 2 ^ (8 * ((o + i) % n)))))))
  | .expand dst src n cnt ds ss =>
    (List.range cnt).flatMap (fun r => rowPieces (rowAt dst ds r) n (fun o k =>
      (rowAt src ss r + 3 * (o / 4), 3 * ((o + k - 1) / 4 - o / 4 + 1), .expand (o % 4))))
  | .pack dst src n cnt ds ss =>
    (List.range cnt).flatMap (fun r => rowPieces (rowAt dst ds r) (3 * ((n + 3) / 4)) (fun o k =>
      (rowAt src ss r + 4 * (o / 3), min n (4 * ((o + k - 1) / 3 + 1)) - 4 * (o / 3), .pack (o % 3))))
  | .get dst _ len .. | .hostRd dst _ len _ => rowPieces dst len (fun o k => (0, 0, .lit (slice got o k)))
  | _ => []

/-- Do rows count in COUNT2 (Table 7-2)? Those of CPY2 and CPYX. -/
def rowsCount (major : BitVec 8) : Bool := major = 1 || major = 3

/-- The rows of a copy that has ended, empty ones among them. -/
def CopyOp.rowsOf (op : CopyOp) (major : BitVec 8) (n : Nat) : Nat :=
  match op with
  | .mem _ _ _ cnt _ _ | .expand _ _ _ cnt _ _ | .pack _ _ _ cnt _ _ => if rowsCount major then cnt else n
  | _ => n

/-- Field i of a row of packed groups (R71). -/
def packedField (bs : List Byte) (i : Nat) : Nat := nbits (field bs (3 * (i / 4)) 3) (6 * (i % 4) + 5) (6 * (i % 4))

/-- The n bytes of a part from its source bytes. -/
def Xform.bytes (f : Xform) (n : Nat) (bs : List Byte) : List Byte :=
  match f with
  | .plain => bs
  | .lit x => x
  | .expand k => tab n (fun i => BitVec.ofNat 8 (ibits (sext (packedField bs (k + i)) 6) 8))
  | .pack k =>
    let group := fun (i : Nat) => bytesOf 3 ((List.range 4).foldl (fun w j => w + (field bs (4 * i + j) 1) % 64 * 2 ^ (6 * j)) 0)
    slice ((List.range ((n + k + 2) / 3)).flatMap group) k n

/-- How many source bytes of a part the part before it has read: those of a packed group that feeds both (R187). -/
def Piece.have_ (p : Piece) (x : CopySlot) : Nat :=
  match p.f with
  | .expand k | .pack k => if k = 0 then 0 else min x.carry.length p.srcN
  | _ => 0
/-- The bytes of a part's last group, kept for the part after it. -/
def Piece.carry (p : Piece) (bs : List Byte) : List Byte :=
  match p.f with
  | .expand _ => bs.drop (3 * ((bs.length - 1) / 3))
  | .pack _ => bs.drop (4 * ((bs.length - 1) / 4))
  | _ => []

/-- What a read or write of a slot came to. -/
inductive Moved where
  | ok (bs : List Byte) (poison : Option Nat)
  | bad (code : BitVec 8) (va : Nat)
  deriving DecidableEq, Repr

/-- Source bytes read by a slot line by line: through its core's L1 for PRIV and RSHR, at the home otherwise. -/
def State.slotRead (s : State) (x : CopySlot) (va n : Nat) : State × Moved :=
  let c := x.ctx.core.val
  (cuts va n).foldl (fun (r : State × Moved) p =>
    match r.2 with
    | .bad .. => r
    | .ok bs poison =>
      let s := r.1
      let a := (va + p.1) % 2 ^ 64
      match xlateNow s (dieOf c) x.pav a .read with
      | .bad code => (s, .bad code a)
      | .miss => (s, .bad fTrans a)
      | .ok l pa =>
        match l.cls with
        | .coh | .dev =>
          (s, .ok (bs ++ s.bytesK l.key pa p.2) (if poison.isNone && s.poison.contains (lineOf pa) then some a else poison))
        | _ =>
          let s := if privHit s c l.key (lineOf pa) then s else s.fillPriv c x.pav l.key (lineOf pa) 3
          let f := s.fetchPriv c x.pav l.key (lineOf pa) 3 true
          (f.1, .ok (bs ++ slice f.2.data (pa % 128) p.2) (if poison.isNone && f.2.poison then some a else poison)))
    (s, .ok [] none)

/-- What a slot's requests to memory carry: the values of its task's region (R361). -/
def slotOrig (s : State) (x : CopySlot) : Orig :=
  match s.byUid x.uid with
  | some t => t.eff.orig x.ctx.core.val
  | none => { req := x.ctx.core.val, svc := 0, deadline := 0 }

/-- The INJCAP of its region, which paces it too (R410). -/
def slotCap (s : State) (x : CopySlot) : Nat := match s.byUid x.uid with | some t => t.eff.injCap | none => 0

/-- The bytes of a range as a slot reads or writes them: the parts, up to the first page that fails. -/
def slotParts (s : State) (x : CopySlot) (va n : Nat) (acc : AccKind) : List VPart :=
  let ps := (cuts va n).map (fun p => (xlateNow s (dieOf x.ctx.core.val) x.pav ((va + p.1) % 2 ^ 64) acc, p.2))
  (ps.takeWhile (fun p => match p.1 with | .ok .. => true | _ => false)).filterMap (fun p => match p.1 with
    | .ok l pa => some { pa := pa, n := p.2, key := l.key, cls := l.cls }
    | _ => none)

/-- The requests to memory that a part of a copy needs, for its source lines and its destination line; true once all have been
served (R360, R361). A write at the home asks for its own line, a PRIV write for the line that its core misses. -/
def State.slotNeeds (s : State) (x : CopySlot) (src : List VPart) (dst : List VPart) : State × Bool :=
  let o := slotOrig s x
  let home := fun (p : VPart) => p.cls ≠ .priv
  let cap := slotCap s x
  let r := s.needLines x.ctx.core.val o x.id x.pav cap (src ++ dst.filter (fun p => !home p))
  (dst.filter home).foldl (fun (y : State × Bool) p =>
    let w := y.1.needWrite x.ctx.core.val o x.id x.pav cap p.pa p.key p.n
    (w.1, y.2 && w.2)) r

/-- The requests of a slot's task that popped tokens order before it (R112, R342). -/
def slotPrior (s : State) (x : CopySlot) : List Req :=
  (mvals s.reqs).filter (fun r => r.task = x.task && seenBefore x.seen r.ctx.stream r.tag)
/-- Does one of them still stand at a line that a part of a copy reads or writes? -/
def slotBehind (s : State) (x : CopySlot) (ps : List VPart) : Bool :=
  (slotPrior s x).any (fun r => ps.any (fun p => lineOf p.pa = lineOf r.pa))

/-- A PRIV line of a core written back to memory, as a counted part asks (R189). -/
def State.flushLine (s : State) (c key line : Nat) : State :=
  let s := match lineFind (s.core c).l1 key line false with
    | some l => if l.dirty = 0 then s else s.toDlc c l
    | none => s
  match lineFind (s.die (dieOf c)).dlc key line false with
  | some l => if l.dirty = 0 then s else s.toMem (dieOf c) l
  | none => s

/-- The copies of an RSHR line that a core and its die hold given up, since a slot of the core has written the line (R188). -/
def State.staleLine (s : State) (c key line : Nat) : State :=
  let stay := fun (y : CLine) => !(y.line = line && y.key = key && !y.coh && y.dirty = 0)
  (s.modCore c (fun k => { k with l1 := k.l1.filter stay })).modDie (dieOf c) (fun d => { d with dlc := d.dlc.filter stay })

/-- One part of a line written by a slot (R188, R332, Table 16-3); none where the write time must wait for a floor. -/
def State.slotWrite (s : State) (x : CopySlot) (l : Leaf) (pa : Nat) (bs : List Byte) (poison : Bool) : Option State :=
  let c := x.ctx.core.val
  let mask := spanMask (pa % 128) bs.length
  let data := spanData (pa % 128) bs
  let done := fun (s : State) => (if poison then s.setPoison (lineOf pa) else s).lineAnswer c flAck x.id 1 pa x.pav
  match l.cls with
  | .priv =>
    let s := if privHit s c l.key (lineOf pa) then s else s.fillPriv c x.pav l.key (lineOf pa) x.rd
    let s := s.writePriv (slotOrig s x) c x.pav l.key (lineOf pa) x.rd mask data
    let s := if poison then s.modCore c (fun k => { k with l1 := k.l1.map (fun y =>
      if y.line = lineOf pa && y.key = l.key && !y.coh then { y with poison := true } else y) }) else s
    some (if x.sync.isSome then s.flushLine c l.key (lineOf pa) else s)
  | .coh =>
    let time := fun (s : State) => storeTime (s.home (homeOf pa)) s.dev.floor (lineOf pa) [(s.core c).ltime]
    let s := s.floorFor time
    let w := time s
    if beyondFloor s w then none
    else
      let s := ((done (s.putLine l.key (lineOf pa) mask data)).stamp pa w).raiseLtime c w
      let s := s.modUid x.uid (fun t => { t with relts := tmax w t.relts })
      some (s.modCore c (fun k => { k with l1 := k.l1.filter (fun y => !(y.line = lineOf pa && y.key = l.key && y.coh)) }))
  | .rshr => some ((done (s.putLine l.key (lineOf pa) mask data)).staleLine c l.key (lineOf pa))
  | .dev => some (done (s.putLine l.key (lineOf pa) mask data))

/-- An addition of n to a slot's sync word sent to its home (R189). -/
def State.addSync (s : State) (x : CopySlot) (n : Nat) : State × CopySlot :=
  match x.sync with
  | none => (s, x)
  | some (pa, key) =>
    if n = 0 then (s, x)
    else
      let r : Req :=
        { ctx := x.ctx, task := x.task, pav := x.pav, orig := slotOrig s x, blk := x.blk, tag := s.nextId, iaddr := x.iaddr, va := 0, pa := pa, cls := .coh, key := key,
          scope := .dev, rd := 0, lt := (s.core x.ctx.core.val).ltime, kind := .swadd n, stage := .sent }
      ((({ s.fresh with reqs := mset s.nextId r s.reqs } : State).toDram r.orig pa false key s.nextId none).lineRequest x.ctx.core.val flSwadd s.nextId 1 pa x.pav
        (slotCap s x), { x with adds := x.adds ++ [s.nextId] })

/-- A slot that fails. -/
def CopySlot.fail (x : CopySlot) (code detail : BitVec 8) (va : Nat) : CopySlot :=
  { x with stage := .failed, cause := code, detail := detail, faddr := BitVec.ofNat 64 va }

/-- The parts of a copy performed in order, those before `skip` counted bytes being done already (R184, R186, R189); a
poisoned source poisons the line that receives it and fails the slot (R183). -/
def runPieces : List Piece → Nat → State → CopySlot → State × CopySlot
  | [], _, s, x => (s, { x with stage := .landed, count2 := x.op.rowsOf x.major x.count2 })
  | p :: ps, skip, s, x =>
    if 0 < skip then runPieces ps (skip - p.n) s x
    else
      let s := s.walkIn (dieOf x.ctx.core.val) x.pav (pagesOf p.src p.srcN ++ pagesOf p.dst p.n)
      let have_ := p.have_ x
      let src := slotParts s x (p.src + have_) (p.srcN - have_) .read
      let dst := slotParts s x p.dst p.n .write
      if slotBehind s x (src ++ dst) then (s, x)
      else
      let needs := s.slotNeeds x src dst
      if !needs.2 then (needs.1, x)
      else
      let r := ((s.undram x.id).freeEntry x.ctx.core.val x.id).slotRead x (p.src + have_) (p.srcN - have_)
      match r.2 with
      | .bad c va => (r.1, x.fail c 0 va)
      | .ok new poison =>
        let bs := x.carry.take have_ ++ new
        let c := x.ctx.core.val
        match xlateNow r.1 (dieOf c) x.pav p.dst .write with
        | .bad code => (r.1, x.fail code 0 p.dst)
        | .miss => (r.1, x.fail fTrans 0 p.dst)
        | .ok l pa =>
          match r.1.slotWrite x l pa (p.f.bytes p.n bs) poison.isSome with
          | none => (s, x)
          | some s =>
            let s := s.charge x.acct 100
            match poison with
            | some va => (s, x.fail fDataLoss 0 va)
            | none =>
              let a := s.addSync { x with carry := p.carry bs, bytes := x.bytes + p.n, count2 := x.count2 + b2n (p.last && rowsCount x.major) } p.n
              runPieces ps 0 a.1 a.2

/-! ## Remote and host copies (R197-R199) -/

/-- The additions and the charge of an acknowledged put or host write, line by line (Table 7-3, Table 11-5). -/
def State.ackParts (s : State) (x : CopySlot) (off len : Nat) : State × CopySlot :=
  (cuts off len).foldl (fun (r : State × CopySlot) p =>
    (r.1.charge x.acct 100).addSync { r.2 with bytes := r.2.bytes + p.2 } p.2) (s, x)

/-- A request of a slot sent to a node (R197, R415). -/
def State.sendRemote (s : State) (c : Nat) (x : CopySlot) (node pav off : Nat) (tok : Word64) (k : RemoteKind) (writes : Bool) :
    State × CopySlot :=
  let req : RemoteReq :=
    { snode := selfNode s, spav := ⟨x.pav % 128, Nat.mod_lt _ (by decide)⟩, tpav := ⟨pav % 128, Nat.mod_lt _ (by decide)⟩,
      token := tok, off := off, kind := k }
  let op := fun (p : Option Nat) => ({
    core := c, pav := x.pav, task := x.task, region := x.region, iaddr := x.iaddr, node := node, port := p, req := req,
    owner := .copy c x.id, n := 0, sx := false, scope := .sys, writes := writes } : RemoteOp)
  match routeFor s x.pav node off with
  | .fail code => (s, x.fail code 0 0)
  | .here => (s.addRop (op none) (slotCap s x), { x with stage := .sent })
  | .out p => (s.addRop (op (some p)) (slotCap s x), { x with stage := .sent })

/-- The host window of an index that a range lies in, or the failing DETAIL (R199). -/
def hostWin (s : State) (pav win off len : Nat) : HostWin ⊕ BitVec 8 :=
  match (s.pav? pav).bind (fun p => mfind win p.hwins) with
  | none => .inr 3
  | some w => if off + len ≤ w.len.toNat then .inl w else .inr 4

/-- Source bytes for a request, with the first poisoned address among them; or the slot as it waits or fails. -/
def State.sourceOf (s : State) (x : CopySlot) (src len : Nat) : State × ((List Byte × Option Nat) ⊕ CopySlot) :=
  let s := s.walkIn (dieOf x.ctx.core.val) x.pav (pagesOf src len)
  if slotBehind s x (slotParts s x src len .read) then (s, .inr x)
  else
  let needs := s.slotNeeds x (slotParts s x src len .read) []
  if !needs.2 then (needs.1, .inr x)
  else
    let r := ((s.undram x.id).freeEntry x.ctx.core.val x.id).slotRead x src len
    match r.2 with
    | .bad c va => (r.1, .inr (x.fail c 0 va))
    | .ok bs poison => (r.1, .inl (bs, poison))

/-- A remote or host copy that has not sent its request. -/
def State.askCopy (s : State) (c : Nat) (x : CopySlot) : State × CopySlot :=
  match x.op with
  | .get _ off len tok node pav => s.sendRemote c x node pav off tok (.get len) false
  | .put off src len tok node pav op =>
    let r := s.sourceOf x src len
    match r.2 with
    | .inr y => (r.1, y)
    | .inl (bs, none) => r.1.sendRemote c x node pav off tok (.put op bs false) true
    | .inl (bs, some va) =>
      let k := (va + 2 ^ 64 - src) % 2 ^ 64
      r.1.sendRemote c { x with cause := fDataLoss, faddr := BitVec.ofNat 64 va } node pav off tok
        (.put op (bs.take (128 * ((off + k) / 128 + 1) - off)) true) true
  | .hostRd _ off len win =>
    match hostWin s x.pav win off len with
    | .inr d => (s, x.fail fCopyFault d 0)
    | .inl w => if len = 0 then (s, { x with stage := .landed }) else (s.send x.pav (.rdmaRead x.pav c x.id w off len), { x with stage := .sent })
  | .hostWr off src len win =>
    match hostWin s x.pav win off len with
    | .inr d => (s, x.fail fCopyFault d 0)
    | .inl w =>
      if len = 0 then (s, { x with stage := .landed })
      else
      let r := s.sourceOf x src len
      match r.2 with
      | .inr y => (r.1, y)
      | .inl (_, some va) => (r.1, x.fail fDataLoss 0 va)
      | .inl (bs, none) => (r.1.send x.pav (.rdmaWrite x.pav c x.id w off bs), { x with stage := .sent })
  | _ => (s, x)

/-! ## Tile slots (R200-R207) -/

/-- Cells delivered to a register by a slot, which becomes full (R202). -/
def State.deliverTo (s : State) (x : CopySlot) (v sub : Nat) (data : List Byte) : State :=
  s.modUid x.uid (fun t => t.fillV v (BitVec.allOnes 1024) (tileCells (readDesc x.desc) data sub))

/-- A pin of a slot's task on a line of the slot's die; a saved task takes it with its others (R206, R384). -/
def State.pinFor (s : State) (x : CopySlot) (t : Task) (way : Nat) (l : TLine) : State × Bool :=
  match ownerOf s x.uid with
  | .resident c slot _ => if dieOf c = dieOf x.ctx.core.val then s.addPin c slot t way l else (s, false)
  | .saved id v => ({ s with saved := mset id { v with pins := bumpPin 0 l.tag v.pins } s.saved }, true)
  | .gone => (s, false)

/-- A slot's read of an accepted line; false where the pin that its hint asks for is refused (R206). -/
def State.slotReads (s : State) (x : CopySlot) (t : Task) (way : Nat) (l : TLine) (need : TNeed) (hit note : Bool) : State × Bool :=
  let die := dieOf x.ctx.core.val
  let s := s.modLine die way (fun l => l.read need hit s.cyc)
  let p := if need.hint = .pin then s.pinFor x t way l else (s, true)
  let s := if note then p.1.modUid x.uid (fun t => t.noteTile l.tag l.ver) else p.1
  (s.acquireTile x.ctx.core.val t l, p.2)

/-- The next tile of a slot. -/
def CopySlot.nextTile (x : CopySlot) (acted : Bool) : CopySlot :=
  match x.op with
  | .tile a (_ :: ts) all need => { x with op := .tile a ts all need, stage := .start, waited := false, count2 := x.count2 + b2n acted }
  | _ => x

/-- A tile made present for a slot: its delivery and count, or its pin (R201, R202, R205). -/
def State.tilePresent (s : State) (x : CopySlot) (t : Task) (way : Nat) (l : TLine) (a : TAct) (need : TNeed) (hit : Bool) :
    State × CopySlot :=
  match a with
  | .fill d =>
    let p := s.slotReads x t way l need hit d.isSome
    let s := match d with | some (v, sub) => p.1.deliverTo x v sub l.data | none => p.1
    let s := if hit then s.modUid x.uid (fun t => t.consume l.tag) else s
    let r := s.addSync { x with bytes := x.bytes + 4096 } 4096
    (r.1, { r.2.nextTile true with detail := if p.2 then r.2.detail else 2 })
  | _ =>
    let s := (s.slotReads x t way l need hit false).1
    let r := s.pinFor x t way l
    (r.1, { x.nextTile true with detail := if r.2 then x.detail else 2 })

/-- A write-back that a slot asks for begun: a release at device scope of its task, whose accesses ordered before it have been performed
(R203, R343); the line waits with it. -/
def State.slotWb (s : State) (c : Nat) (x : CopySlot) (t : Task) (way : Nat) (l : TLine) : State :=
  let s := s.releaseAt c t .dev
  let m := { l.msg (dieOf c) c .drop with way := some way, slot := some (c, x.id), uid := t.uid, desc := x.desc, ts := some (s.core c).ltime }
  (s.modLine (dieOf c) way (fun l => { l with filling := true })).beginWb m l.ver

/-- Is a write-back of a tile in flight from a die (R203)? -/
def wbInFlight (s : State) (die : Nat) (g : TTag) : Bool := s.tmsgs.any (fun m => m.2.die = die && m.2.tag = g && match m.2.kind with
  | .wbBegin _ | .writing _ | .publish _ => true
  | _ => false)

/-- The counted bytes of a tile that CPYW ends with (Table 7-3). -/
def State.wbCounted (s : State) (x : CopySlot) (g : TTag) : State × CopySlot :=
  let n := footBytes (readDesc x.desc) g
  s.addSync { x with bytes := x.bytes + n } n

/-- A line that a slot selects: as a lookup does, or any line of a tile where it acts on all (Table 7-8). -/
def slotLook (s : State) (x : CopySlot) (t : Task) (g : TTag) (all : Bool) (need : TNeed) (p : Option Nat) : Look :=
  let die := dieOf x.ctx.core.val
  if all then
    match s.line? die g with
    | some (w, l) => if l.filling then .shared w else .hit w l
    | none => .miss none
  else lookTile s die t g need p

/-- One tile of a slot: what its lookup finds is acted on (R201-R207). -/
def State.tileStep (s : State) (c : Nat) (x : CopySlot) (t : Task) (a : TAct) (g : TTag) (all : Bool) (need : TNeed)
    (p : Option Nat) : State × CopySlot :=
  let die := dieOf c
  let mine := fun (l : TLine) => (match ownerOf s x.uid with
    | .resident c' slot _ => (s.core c').pins.any (fun q => q.slot = slot && q.tag = l.tag)
    | .saved _ v => v.pins.any (fun q => q.tag = l.tag)
    | .gone => false)
  let unpin := fun (s : State) =>
    let less := fun (q : Pin) => if q.tag = g then { q with n := q.n - 1 } else q
    match ownerOf s x.uid with
    | .resident c' slot _ => s.modCore c' (fun k => { k with
        pins := (k.pins.map (fun q => if q.slot = slot then less q else q)).filter (fun q => q.n ≠ 0) })
    | .saved id v => { s with saved := mset id { v with pins := (v.pins.map less).filter (fun q => q.n ≠ 0) } s.saved }
    | .gone => s
  match slotLook s x t g all need p, a with
  | .ask, _ =>
    let r := s.askP c t g x.desc (.copy c x.id)
    (r.1, { x with stage := .wait })
  | .shared w, .unpin =>
    match mfind w (s.die die).tarn with
    | some l => if mine l then (unpin s, x.nextTile true) else (s, x.nextTile false)
    | none => (s, x.nextTile false)
  | .shared _, _ => (s, { x with stage := .wait })
  | .hit w l, .fill d => s.tilePresent x t w l (.fill d) need (!x.waited)
  | .hit w l, .pin => s.tilePresent x t w l .pin need (!x.waited)
  | .hit _ l, .unpin => if mine l then (unpin s, x.nextTile true) else (s, x.nextTile false)
  | .hit w l, .inv =>
    if pinned s die g then (s, { x.nextTile false with detail := 6 }) else (s.dropLine die w l, x.nextTile true)
  | .hit w l, .flush =>
    if l.dirty then (if (slotPrior s x).isEmpty then (s.slotWb c x t w l, { x with stage := .wait }) else (s, { x with stage := .start }))
    else if pinned s die g then (s, x.nextTile false)
    else (s.dropLine die w l, x.nextTile true)
  | .hit w l, .wb =>
    if l.dirty then (if (slotPrior s x).isEmpty then (s.slotWb c x t w l, { x with stage := .wait }) else (s, { x with stage := .start }))
    else
      let r := (s.modLine die w (fun l => if need.hint = .last then { l with rrpv := 7 } else l)).wbCounted x g
      (r.1, r.2.nextTile true)
  | .miss _, .wb =>
    if wbInFlight s die g then (s, { x with stage := .start })
    else
      let r := s.wbCounted x g
      (r.1, { r.2.nextTile false with detail := 1 })
  | .miss _, .unpin | .miss _, .inv | .miss _, .flush => (s, x.nextTile false)
  | .miss w, _ =>
    let d := readDesc x.desc
    let s := if d.remote then s else s.walkIn die x.pav (footPages d g)
    let page := if d.remote then none else (footPages d g).find? (fun va => match xlateNow s die x.pav va .read with
      | .ok _ _ => false
      | _ => true)
    match page with
    | some va => (s, x.fail (match xlateNow s die x.pav va .read with | .bad code => code | _ => fTrans) 0 va)
    | none =>
      if !reasmFree s c then (s, { x with stage := .start })
      else
        let r := s.missTile c t g x.desc need w
        (r.1, { x with stage := if r.2.isSome then .wait else .start })

/-- The tiles of a slot one after another until one waits or fails. -/
def pumpTiles : Nat → Nat → Option Nat → State → CopySlot → State × CopySlot
  | 0, _, _, s, x => (s, x)
  | fuel + 1, c, p, s, x =>
    match x.op with
    | .tile _ [] _ _ => (s, { x with stage := .landed })
    | .tile a (g :: ts) all need =>
      match s.byUid x.uid with
      | none => (s, x)
      | some t =>
        let r := s.tileStep c x t a g all need p
        match r.2.op with
        | .tile _ ts' _ _ => if ts'.length = ts.length then pumpTiles fuel c none r.1 r.2 else r
        | _ => r
    | _ => (s, x)

/-- How many tiles a slot has still to act on. -/
def CopySlot.tilesLeft (x : CopySlot) : Nat := match x.op with | .tile _ ts _ _ => ts.length | _ => 0

/-- A slot's tiles pumped where it stands. -/
def State.pumpSlot (s : State) (c n : Nat) (p : Option Nat) : State :=
  match s.slot? c n with
  | none => s
  | some x =>
    let r := pumpTiles (x.tilesLeft + 1) c p s { x with stage := .start }
    r.1.putSlot c n r.2

/-- A landed line offered to a slot that waits for it (R298): a fill or pin that accepts it goes on, every other slot selects
again. -/
def State.offerSlot (s : State) (c n : Nat) (g : TTag) : State :=
  match s.slot? c n with
  | none => s
  | some x =>
    let x := { x with waited := true }
    let s := s.putSlot c n x
    match x.op, s.byUid x.uid, s.line? (dieOf c) g with
    | .tile a (_ :: _) _ need, some t, some (w, l) =>
      let take : Bool := match a with | .fill _ | .pin => true | _ => false
      if l.filling then s
      else if take && accepts t g need l.ver none = .yes then
        let r := s.tilePresent x t w l a need false
        (r.1.putSlot c n r.2).pumpSlot c n none
      else s.pumpSlot c n none
    | .tile .., some _, none => s.pumpSlot c n none
    | _, _, _ => s

/-- The slots of a die that wait for a tile. -/
def State.wakeSlots (s : State) (die : Nat) (g : TTag) : State :=
  let ws := (dieCores s die).flatMap (fun c => (c.2.copies.filter (fun p => p.2.stage = .wait && match p.2.op with
    | .tile _ (g' :: _) _ _ => g' = g
    | _ => false)).map (fun p => (c.1, p.1)))
  each ws (fun (w : Nat × Nat) s => s.offerSlot w.1 w.2 g) s

/-! ## Progress, end and failure (R180, R183, R184) -/

/-- Does a slot copy bytes of a DEV page? -/
def slotDev (s : State) (x : CopySlot) : Bool :=
  let out := match x.op with
    | .put _ src len .. | .hostWr _ src len _ => slotParts s x src len .read
    | _ => []
  (out ++ (pieces x.op []).flatMap (fun p => slotParts s x p.src p.srcN .read ++ slotParts s x p.dst p.n .write)).any (fun y => y.cls = .dev)

/-- Is a slot's copy held by the order of its stream's DEV accesses: an earlier slot of the task has some, or it has some itself and
earlier slots have not ended (R335)? -/
def devHeld (s : State) (x : CopySlot) : Bool :=
  let before := (taskSlots s x.uid).filter (fun p => decide (p.2.2.id < x.id))
  !before.isEmpty && (slotDev s x || before.any (fun p => slotDev s p.2.2))

/-- The bytes of a remote read that failed on poison: those before the poisoned line are copied, the destination line that would
receive it is poisoned, and the slot fails (R183). -/
def State.poisonedGet (s : State) (x : CopySlot) (dst len : Nat) (data : List Byte) : State × CopySlot :=
  let ps := rowPieces dst len (fun o k => (0, 0, .lit (slice data o k)))
  let good := ps.takeWhile (fun p => decide (p.n = (p.f.bytes p.n []).length))
  let r := runPieces good x.bytes s x
  if r.2.stage ≠ .landed then r
  else
    match ps.drop good.length with
    | [] => (r.1, r.2.fail fDataLoss 0 0)
    | p :: _ =>
      let needs := r.1.slotNeeds r.2 [] (slotParts r.1 x p.dst p.n .write)
      if !needs.2 then (needs.1, { r.2 with stage := x.stage })
      else
        match xlateNow r.1 (dieOf x.ctx.core.val) x.pav p.dst .write with
        | .ok l pa =>
          match (r.1.undram x.id).slotWrite r.2 l pa (p.f.bytes p.n []) true with
          | none => (r.1, { r.2 with stage := x.stage })
          | some s => (s.charge x.acct 100, r.2.fail fDataLoss 0 0)
        | .bad code => (r.1, r.2.fail code 0 p.dst)
        | .miss => (r.1, r.2.fail fTrans 0 p.dst)

/-- Does a slot go no further, its pavilion being frozen (R389, Table 19-4)? -/
def slotFrozen (s : State) (x : CopySlot) : Bool := match s.pav? x.pav with | some p => p.st ≠ .running | none => false

/-- A slot carried on as far as it can go now. A copy claimed after a SWADD of its own block runs without waiting for it (log 61, DESIGN
CHOICE: R186 says that copies are ordered by SWADD and not which of the two sides). -/
def State.advanceSlot (s : State) (c : Nat) (x : CopySlot) : State × CopySlot :=
  if x.state = 4 || slotFrozen s x || (x.stage = .start && devHeld s x) then (s, x)
  else
  let dev := if x.stage = .start && slotDev s x then s.devReadyAt c x.pav x.key else (s, true)
  if !dev.2 then (dev.1, x)
  else
    match x.op, x.stage with
    | _, .landed | _, .failed | _, .sent | _, .wait => (s, x)
    | .tile .., _ => pumpTiles (x.tilesLeft + 1) c none s x
    | .itin, _ => (s, { x with stage := .landed })
    | .swadd amt, _ =>
      if (taskSlots s x.uid).any (fun p => decide (p.2.2.id < x.id)) || !(slotPrior s x).isEmpty then (s, x)
      else
        match s.byUid x.uid with
        | none => (s, x)
        | some t =>
          let s := match ownerOf s x.uid with
            | .resident c' _ _ => if c' = c then s else s.releaseAt c' t .dev
            | _ => s
          let r := (s.releaseAt c t .dev).addSync { x with bytes := amt } amt
          (r.1, { r.2 with stage := .landed })
    | .hostRd .., .start | .hostWr .., .start => s.askCopy c x
    | .get _ _ len .., .start | .put _ _ len .., .start =>
      if len = 0 then (s, { x with stage := .landed }) else s.askCopy c x
    | .put off _ len .., .back code _ | .hostWr off _ len _, .back code _ =>
      if code = 0 then
        let poisoned := x.cause = fDataLoss
        let n := if poisoned then (x.faddr.toNat + 2 ^ 64 - (match x.op with | .put _ src .. => src | _ => 0)) % 2 ^ 64 else len
        let r := s.ackParts x off (if poisoned then (off + n) / 128 * 128 - off else len)
        (r.1, if poisoned then r.2.fail fDataLoss 0 x.faddr.toNat else { r.2 with stage := .landed })
      else (s, x.fail code (if code = fCopyFault then 5 else 0) 0)
    | .get dst _ len .., .back code data =>
      if code = 0 then runPieces (pieces x.op data) x.bytes s x
      else if code = fDataLoss then s.poisonedGet x dst len data
      else (s, x.fail code 0 0)
    | op, .back code data =>
      if code = 0 then runPieces (pieces op data) x.bytes s x else (s, x.fail code (if code = fCopyFault then 5 else 0) 0)
    | .mem _ _ 0 .., _ => (s, { x with stage := .landed, count2 := x.op.rowsOf x.major x.count2 })
    | op, _ => runPieces (pieces op []) x.bytes s x

/-- The PRIV data of a slot made visible to its task where the task has left the slot's core (R188, R381). -/
def State.followTask (s : State) (c : Nat) (x : CopySlot) : State :=
  match ownerOf s x.uid with
  | .resident c' _ _ =>
    if c' = c then s else (s.releaseCaches c x.pav x.key true).acquireCaches c' x.pav x.key true
  | .saved .. => s.releaseCaches c x.pav x.key true
  | .gone => s

/-- A slot returned to the pool; a saved task keeps its record (R180, R384). -/
def State.freeSlot (s : State) (c n : Nat) (x : CopySlot) : State :=
  let s := (s.followTask c x).modCore c (fun k => { k with copies := mdel n k.copies })
  match ownerOf s x.uid with
  | .saved id v => { s with saved := mset id { v with slots := v.slots ++ [slotRec x], nexts := v.nexts ++ [x.next] } s.saved }
  | _ => s

/-- COPY_SLOT_END: a slot goes on; once every effect is performed it ends COMPLETED (R180), but for one that a freeze has stopped, which
is to end PARTIAL (R389). -/
def execCopySlotEnd (core : CoreId) (n : Nat) (s : State) : Out :=
  let c := core.val
  match s.slot? c n with
  | none => .next s
  | some x =>
    let r := s.advanceSlot c x
    let y := r.2
    if !slotFrozen s x && y.stage = .landed && y.adds.all (fun i => (mfind i r.1.reqs).isNone) then
      .next (r.1.freeSlot c n { y with state := 1 })
    else .next (r.1.putSlot c n y)

/-- The COPY_FAULT of a failed slot: taken by the C stream of a running task, else only recorded (R183). -/
def State.copyFault (s : State) (x : CopySlot) : State :=
  match ownerOf s x.uid with
  | .resident c l t =>
    if t.stopped then (s.modTask c l (fun t => t.modSt .c (fun y => { y with faulted := true }))).postOnly c l (faultRec t .c fCopyFault false 0 x.iaddr x.faddr (slotRec x))
    else s.takeFaultOf c l .c fCopyFault false 0 x.iaddr x.faddr (slotRec x)
  | .saved id v =>
    let t := v.task
    let r := faultRec t .c fCopyFault false 0 x.iaddr x.faddr (slotRec x)
    let stop := fun (t : Task) => { t.modSt .c (fun y => { y with faulted := true }) with stopped := true, fault := fCopyFault }
    let first := !t.stopped
    let s := { s with saved := mset id { v with task := if first then stop t else t.modSt .c (fun y => { y with faulted := true }) } s.saved }
    let s := { s with dies := s.dies.map (fun (d : Nat × Die) => (d.1, ({ d.2 with levels := d.2.levels.map (fun (l : Nat × Level) =>
      (l.1, (l.2.drop (fun q => q.saved = some id)).touch s.cyc)) } : Die))) }
    s.postFaultOf t r first (fun s => match mfind id s.saved with | some u => s.killSaved id u | none => s) (fun _ _ => true)
  | .gone => s

/-- A register that a slot would deliver to is full again, its cells unchanged (R202). -/
def State.undeliver (s : State) (x : CopySlot) : State :=
  match x.op with
  | .tile (.fill (some (v, _))) _ _ _ => s.modUid x.uid (fun t => { t with empty := t.empty.filter (· ≠ v) })
  | _ => s

/-- Does a failure of a slot pause it instead (R184)? -/
def pauses (s : State) (x : CopySlot) : Bool :=
  (x.cause = fTrans || x.cause = fPerm) && (match s.byUid x.uid with | some t => t.eff.recovery | none => false)

/-- COPY_SLOT_FAIL: a slot that meets a failure ends FAILED and raises COPY_FAULT (R183). -/
def execCopySlotFail (core : CoreId) (n : Nat) (s : State) : Out :=
  let c := core.val
  match s.slot? c n with
  | none => .next s
  | some x =>
    let r := s.advanceSlot c x
    let y := { r.2 with state := if !slotFrozen s x && r.2.stage = .failed && !pauses s r.2 then 2 else r.2.state }
    if y.stage = .failed && y.state = 2 then .next (((r.1.undeliver y).freeSlot c n y).copyFault y)
    else .next (r.1.putSlot c n y)

/-- COPY_SLOT_PAUSE: in recovery mode a translation or permission failure pauses the slot and posts a record (R184, R386). -/
def execCopySlotPause (core : CoreId) (n : Nat) (s : State) : Out :=
  let c := core.val
  match s.slot? c n with
  | none => .next s
  | some x =>
    let r := s.advanceSlot c x
    if !slotFrozen s x && r.2.stage = .failed && r.2.state = 0 && pauses s r.2 then
      let y := { r.2 with state := 4, parkN := r.1.nextId, stage := match r.2.op, x.stage with
        | .tile .., _ => .start
        | _, st => st }
      let s := r.1.fresh.putSlot c n y
      .next (match ownerOf s y.uid with
        | .resident cc l t => s.postOnly cc l { faultRec t .c y.cause false 0 y.iaddr y.faddr (slotRec y) with flags := 2 }
        | .saved _ v =>
          s.postFaultOf v.task { faultRec v.task .c y.cause false 0 y.iaddr y.faddr (slotRec y) with flags := 2 } false id (fun _ _ => false)
        | .gone => s)
    else .next (r.1.putSlot c n r.2)

/-! ## Tile instructions (R200-R205) -/

/-- A tile slot claimed once its descriptor is valid (Table 7-1, row 3); its tiles are looked up at once (R296). -/
def tileInsn (major : Nat) (slot : Nat) (f : SwF) (ok : Task → Desc → Bool) (act : Task → TAct)
    (tiles : State → Task → Desc → List TTag) (all : Bool) (need : Task → Desc → TNeed) (prep : Task → Task) (s : State) : Out :=
  onTask s fun t =>
    match t.desc slot with
    | none => s.takeFault fDescInvalid 0
    | some b =>
      let d := readDesc b
      if !ok t d then s.takeFault fIllegalOperand 0
      else
        let c := s.cur.core.val
        let n := lowestFree s.curCore.copies
        let s' := s.claim t major f b (need t d).rd (.tile (act t) (tiles s t d) all (need t d)) (fun s => s.modCur prep)
        if s'.nextId = s.nextId then s' else if (s.slot? c n).isNone && (s'.slot? c n).isSome then s'.pumpSlot c n none else s'

/-- The register and sub-block that a delivery value names (R202). -/
def deliverOf (t : Task) (v : Option AReg) : Option (Nat × Nat) :=
  v.map (fun a => (nbits (t.a .c a.val).toNat 8 0, nbits (t.a .c a.val).toNat 11 9))

def execCpyt (coord : AReg) (deliver : Option AReg) (sw : SwF) (rd : Fin 4) (slot : TSlot) (xv : Bool) (hint : Hint) (s : State) : Out :=
  onTask s fun t =>
    let bad := match deliver with
      | none => false
      | some a => decide (2 ^ 12 ≤ (t.a .c a.val).toNat) || decide (t.window ≤ nbits (t.a .c a.val).toNat 8 0)
    if bad then s.takeFault fIllegalOperand 0
    else
      match tileInsn 0x04 slot.val sw
          (fun t d => match deliverOf t deliver with | none => true | some (_, sub) => decide (sub < subBlocks (tyOf d.ty)))
          (fun t => .fill (deliverOf t deliver)) (fun _ t d => [tileTag t d (t.a .c coord.val)]) false
          (fun t d => needOf t d slot.val xv hint rd.val)
          (fun t => match deliverOf t deliver with | none => t | some (v, _) => { t with empty := ladd v t.empty }) s with
      | .next s => s
      | _ => s

def execCpyw (coord : AReg) (sw : SwF) (slot : TSlot) (xv last : Bool) (s : State) : Out :=
  tileInsn 0x05 slot.val sw (fun _ _ => true) (fun _ => .wb) (fun _ t d => [tileTag t d (t.a .c coord.val)]) false
    (fun t d => needOf t d slot.val xv (if last then .last else .none) 0) (fun t => t) s

/-- The tiles that a range names (Table 7-8): one, a run along a lane, or every line of the tensor in the die's tarn. -/
def rangeTiles (o : TileF) (s : State) (t : Task) (d : Desc) : List TTag :=
  let v := t.a .c o.coord.val
  match o.range with
  | .one => [tileTag t d v]
  | .run lane n => (List.range n.toNat).map (fun k => tileTag t d (laneAdd v lane.val k))
  | .all => ((s.die s.curDie).tarn.filter (fun p =>
      p.2.tag.tid = d.tid && p.2.tag.pav = t.pav % 128 && p.2.tag.key = t.key)).map (fun p => p.2.tag)

/-- An instruction of the tile form without a sync word. -/
def maintain (major : Nat) (act : TAct) (o : TileF) (s : State) : Out :=
  tileInsn major o.slot.val { sw := 0, use := false } (fun _ _ => true) (fun _ => act) (rangeTiles o) (o.range = .all)
    (fun t d => needOf t d o.slot.val o.xv .none d.rddef) (fun t => t) s

def execTcpin (o : TileF) (s : State) : Out := maintain 0x08 .pin o s
def execTcunp (o : TileF) (s : State) : Out := maintain 0x09 .unpin o s
def execTcinv (o : TileF) (s : State) : Out := maintain 0x0A .inv o s
def execTcfls (o : TileF) (s : State) : Out := maintain 0x0B .flush o s

/-! ## Itineraries and queries (R209, R210) -/

def execTcitn (addr cnt : AReg) (hint : Hint) (win : BitVec 6) (s : State) : Out :=
  onTask s fun t =>
    let a := s.areg t addr.val
    let n := s.areg t cnt.val
    if a.toNat % 16 ≠ 0 ∨ 2 ^ 32 ≤ n.toNat then s.takeFault fIllegalOperand 0
    else
      let x : Itin := { va := a, count := n.toNat, win := if win = 0 then 64 else win.toNat, hint := hint, p := 0, f := 0, got := [], open_ := [] }
      s.claim t 0x0C { sw := 0, use := false } [] 0 .itin (fun s => s.modCur (fun t => { t with itin := some x }))

/-- The report of TCQRY (Table 7-11); none where the rule of R297 needs P and the home has not answered. -/
def tileReport (s : State) (t : Task) (g : TTag) (need : TNeed) : Option Nat :=
  let die := s.curDie
  match s.line? die g with
  | none => some 0
  | some (w, l) =>
    if l.filling then some (if s.tfills.any (fun f => f.2.die = die && f.2.way = w && f.2.tag = g) then 2 ^ 7 else 0)
    else
      match accepts t g need l.ver ((t.report.filter (fun y => y.1 = g)).map (·.2)) with
      | .yes => some (l.ver * 2 ^ 16 + b2n l.spec * 2 ^ 9 + b2n l.zero * 2 ^ 8 + l.rrpv * 2 ^ 4
          + b2n (s.curCore.pins.any (fun q => q.slot = s.cur.slot.val && q.tag = g)) * 2 ^ 3 + b2n (pinned s die g) * 2 ^ 2
          + b2n l.dirty * 2 + 1)
      | .no => some 0
      | .ask => none

def execTcqry (d : AReg) (slot : TSlot) (coord : AReg) (xv : Bool) (s : State) : Out :=
  onTask s fun t =>
    match t.desc slot.val with
    | none => s.takeFault fDescInvalid 0
    | some b =>
      let e := readDesc b
      let g := tileTag t e (t.a .c coord.val)
      match tileReport s t g (needOf t e slot.val xv .none 0) with
      | some v => (s.modCur (fun t => { (t.setA .c d.val (BitVec.ofNat 64 v)) with report := none })).finish 3
      | none =>
        let r := TReader.report s.cur.core.val s.cur.slot.val
        if asked s r then s else (s.askP s.cur.core.val t g b r).1

/-- The prefetch that an itinerary's entry asks for; none where it is malformed or names an invalid slot (R208, R209). -/
def preOf (s : State) (die : Nat) (t : Task) (x : Itin) : Option Pre :=
  match s.readVa die t.pav (x.va.toNat + 16 * x.f) 16 with
  | none => none
  | some e =>
    match (if field e 0 1 < 32 && field e 1 1 < 2 && field e 4 4 = 0 then t.desc (field e 0 1) else none) with
    | none => none
    | some b =>
      let d := readDesc b
      let n := needOf t d (field e 0 1) (field e 1 1 = 1) x.hint d.rddef
      some { n := x.f, tag := tileTag t d (BitVec.ofNat 64 (field e 8 8)), desc := b, need := { n with ver := field e 2 2 },
             known := none, waited := false }

def Task.modItin (t : Task) (f : Itin → Itin) : Task := { t with itin := t.itin.map f }
def Task.modPre (t : Task) (n : Nat) (f : Pre → Pre) : Task :=
  t.modItin (fun x => { x with open_ := x.open_.map (fun p => if p.n = n then f p else p) })
def Task.dropPre (t : Task) (n : Nat) : Task := t.modItin (fun x => { x with open_ := x.open_.filter (fun p => p.n ≠ n) })

/-- A prefetch carried on as CPYT would be (R209): it reads the line that it accepts, waits for one that is being filled or for
P, starts a fill, or ends where its pages fail Table 4-7. -/
def State.prefetch (s : State) (c slot : Nat) (t : Task) (p : Pre) : State :=
  let die := dieOf c
  let d := readDesc p.desc
  let me := TReader.prefetch c slot p.n
  if asked s me then s
  else
    match lookTile s die t p.tag p.need p.known with
    | .hit w l => (s.readTile c slot t w l p.need (!p.waited) false).modTask c slot (fun t => t.dropPre p.n)
    | .shared _ => s.modTask c slot (fun t => t.modPre p.n (fun p => { p with waited := true }))
    | .ask => (s.askP c t p.tag p.desc me).1
    | .miss w =>
      if !d.remote && (footPages d p.tag).any (fun va => match xlateNow s die t.pav va .read with | .ok _ _ => false | _ => true) then
        s.modTask c slot (fun t => t.dropPre p.n)
      else (s.missTile c t p.tag p.desc p.need w).1.modTask c slot (fun t => t.modPre p.n (fun p => { p with waited := true }))

/-- The prefetches of a task under way carried on, those of one tile or all. -/
def State.pumpPres (s : State) (c slot : Nat) (g : Option TTag) : State :=
  match (s.task? c slot).bind (·.itin) with
  | none => s
  | some x => each (x.open_.filter (fun p => g.isNone || g = some p.tag)) (fun p s => match s.task? c slot with
      | some t => s.prefetch c slot t p
      | none => s) s

/-- ITINERARY_PREFETCH: the prefetches under way go on, and the next entry within the window starts, read behind the requests that stand
at its line (R209, R360). -/
def execItineraryPrefetch (core : CoreId) (slot : SlotId) (s : State) : Out :=
  let c := core.val
  let l := slot.val
  match s.task? c l with
  | none => .next s
  | some t =>
    match t.itin with
    | none => .next s
    | some x =>
      if t.stopped || t.saving.isSome then .next s
      else
        let s := s.pumpPres c l none
        let waits : Bool := match xlateNow s (dieOf c) t.pav (x.va.toNat + 16 * x.f) .read with
          | .ok _ pa => lineWaits s pa
          | _ => false
        if !(decide (x.p < x.count) && decide (x.f < x.count) && decide (x.f < x.p + x.win)) || waits then .next s
        else
          match preOf s (dieOf c) t x with
          | none => .next (s.modTask c l (fun t => t.modItin (fun y => { y with f := y.f + 1 })))
          | some p =>
            let s := s.modTask c l (fun t => t.modItin (fun y => { y with
              f := y.f + 1
              got := y.got ++ [(y.f, p.tag)]
              open_ := y.open_ ++ [p] }))
            .next (match s.task? c l with
              | some t => s.prefetch c l t p
              | none => s)

end Sys2Proof.Machine
end

