-- ==== Sys2Proof/Machine/Fills.lean ====
section
/-!
DEFINITION. The home agents' tile directories and the fills and write-backs that they serve: a tile's bytes in memory, the
transitions of a directory entry, the landing of a fill and its failure, publishing (spec/12 R301-R311, spec/07 R192, R193,
R203, spec/20 R401, spec/21 R421).
-/

namespace Sys2Proof.Machine

/-! ## A tile's bytes in memory (R192, R193, R343) -/

/-- Bytes of a pavilion's memory at their homes, for an access of a kind; an address that does not translate reads 0 here, its page
being checked apart. -/
def vaBytes (s : State) (acc : AccKind) (die pav va n : Nat) : List Byte := tab n (fun i =>
  match xlateNow s die pav ((va + i) % 2 ^ 64) acc with
  | .ok l pa => s.byteK l.key pa
  | _ => 0)

/-- Does a range of virtual addresses meet poison? -/
def vaPoison (s : State) (acc : AccKind) (die pav va n : Nat) : Bool := (List.range n).any (fun i =>
  match xlateNow s die pav ((va + i) % 2 ^ 64) acc with
  | .ok _ pa => s.poison.contains (lineOf pa)
  | _ => false)

/-- The first page of a footprint that an access fails on, with its code. -/
def footFault (s : State) (die pav : Nat) (d : Desc) (g : TTag) (acc : AccKind) : Option (BitVec 8 × Nat) :=
  (footPages d g).findSome? (fun va => match xlateNow s die pav va acc with
    | .bad c => some (c, va)
    | .miss => some (fTrans, va)
    | .ok _ _ => none)

/-- Element (i, j) of a tile as memory holds it, in its tarn bytes as a number; one out of bounds is 0 (R142, R193). -/
def tileMem (s : State) (die pav : Nat) (d : Desc) (g : TTag) (i j : Nat) : Nat :=
  if !inBounds d g i j then 0
  else
    let w := natOf (vaBytes s .read die pav (elemAddr d g i j) (elemSpan d))
    if d.layout = 3 then
      let x := (tensorYX d g i j).2 % 4
      ibits (sext (nbits w (6 * x + 5) (6 * x)) 6) 8
    else if tyOf d.ty = .i6 then ibits (sext w 6) 8
    else w

/-- A tile as memory gives it, or the failure that its reads meet (R304). -/
inductive TileRead where
  | ok (data : List Byte)
  | bad (code : BitVec 8) (va : Nat)
  deriving DecidableEq, Repr

def loadTile (s : State) (die pav : Nat) (desc : List Byte) (g : TTag) : TileRead :=
  let d := readDesc desc
  match footFault s die pav d g .read with
  | some (c, va) => .bad c va
  | none =>
    match (footprint d g).find? (fun f => vaPoison s .read die pav f.1 f.2) with
    | some f => .bad fDataLoss f.1
    | none => .ok ((List.range (d.rows * d.cols)).flatMap (fun n =>
        bytesOf (tyBytes (tyOf d.ty)) (tileMem s die pav d g (n / d.cols) (n % d.cols))))

/-- The memory bytes that an element's write leaves at its address: its own bytes, or its packed group with its six bits
replaced, the positions past the row's end zero, and every other bit as it was (R71, R192, R193; log 55, DEDUCED). -/
def elemBytes (s : State) (die pav : Nat) (d : Desc) (g : TTag) (data : List Byte) (n i j : Nat) : List Byte :=
  let w := tileElem data (tyBytes (tyOf d.ty)) n
  if d.layout = 3 then
    let x := (tensorYX d g i j).2
    let old := natOf (vaBytes s .write die pav (elemAddr d g i j) 3)
    bytesOf 3 ((List.range 4).foldl (fun v k =>
      v + (if k = x % 4 then w % 64 else if d.dim0 ≤ x / 4 * 4 + k then 0 else nbits old (6 * k + 5) (6 * k)) * 2 ^ (6 * k)) 0)
  else bytesOf (elemSpan d) (if tyOf d.ty = .i6 then w % 64 else w)

/-- Bytes stored at a virtual address under the keys of its pages. -/
def State.storeVa (s : State) (die pav va : Nat) (bs : List Byte) : State :=
  each (bs.zip (List.range bs.length)) (fun p s => match xlateNow s die pav ((va + p.2) % 2 ^ 64) .write with
    | .ok l pa => s.putByte l.key pa p.1
    | _ => s) s

/-- The physical bytes that a tile covers, with their classes. -/
def tilePas (s : State) (die pav : Nat) (d : Desc) (g : TTag) : List (Nat × PClass) :=
  (footprint d g).flatMap (fun f => (List.range f.2).filterMap (fun i =>
    match xlateNow s die pav ((f.1 + i) % 2 ^ 64) .write with
    | .ok l pa => some (pa, l.cls)
    | _ => none))

/-- A write-back's writes performed at device scope, or the failure they meet (R203, R301): the new state and the latest
write time of its COH lines. -/
inductive TileWrite where
  | ok (s : State) (w : Option Word32)
  | bad (code : BitVec 8) (va : Nat)

def storeTile (s : State) (die pav : Nat) (desc : List Byte) (g : TTag) (data : List Byte) (ts : Option Word32) : TileWrite :=
  let d := readDesc desc
  match footFault s die pav d g .write with
  | some (c, va) => .bad c va
  | none =>
    match (if d.layout = 3 then (footprint d g).find? (fun f => vaPoison s .write die pav f.1 f.2) else none) with
    | some f => .bad fDataLoss f.1
    | none =>
      let s' := each (tileElems d g) (fun (e : Nat × Nat × Nat) s =>
        s.storeVa die pav (elemAddr d g e.2.1 e.2.2) (elemBytes s die pav d g data e.1 e.2.1 e.2.2)) s
      let pas := tilePas s die pav d g
      let whole := fun (l : Nat) => (uniq ((pas.map (·.1)).filter (fun a => lineOf a = l))).length = 128
      let s' := { s' with poison := s'.poison.filter (fun l => !whole l) }
      let coh := uniq ((pas.filter (fun p => p.2 = PClass.coh)).map (fun p => lineOf p.1))
      let r := coh.foldl (fun (x : State × Option Word32) l =>
        let time := fun (s : State) => storeTime (s.home (homeOf (128 * l))) s.dev.floor l (ts.toList)
        let s := x.1.floorFor time
        let w := time s
        (s.stamp (128 * l) w, some (match x.2 with | none => w | some v => tmax w v))) (s', ts)
      .ok r.1 r.2

/-! ## Entries (R307, R309, R310) -/

def dirFind (h : Home) (g : TTag) : Option (Nat × DirEntry) := h.dir.find? (fun p => p.2.tag = g)

/-- P of a tile: its entry's, or its record's; a tile never published has version 0. -/
def pubOf (h : Home) (g : TTag) : Nat × Option Word32 :=
  match dirFind h g with
  | some (_, e) => (e.p, e.ts)
  | none =>
    match h.vers.find? (fun v => v.1 = g) with
    | some v => v.2
    | none => (0, none)

def State.modEntry (s : State) (hm i : Nat) (f : DirEntry → DirEntry) : State :=
  s.modHome hm (fun h => { h with dir := match mfind i h.dir with | some e => mset i (f e) h.dir | none => h.dir })
def State.dropMsg (s : State) (id : Nat) : State := { s with tmsgs := mdel id s.tmsgs }
def State.modMsg (s : State) (id : Nat) (f : TMsg → TMsg) : State :=
  { s with tmsgs := match mfind id s.tmsgs with | some m => mset id (f m) s.tmsgs | none => s.tmsgs }
def State.modFill (s : State) (id : Nat) (f : TFill → TFill) : State :=
  { s with tfills := match mfind id s.tfills with | some x => mset id (f x) s.tfills | none => s.tfills }

/-- A published version put into the version store, whose records stand in the order of their last publish; when it is full
the record without an entry whose publish is oldest goes (R309). -/
def Home.record (h : Home) (g : TTag) (v : Nat) (ts : Option Word32) : Home :=
  let l := h.vers.filter (fun x => x.1 ≠ g)
  let l := if l.length < 6291456 then l else
    match l.find? (fun x => (dirFind h x.1).isNone) with
    | some y => l.filter (fun x => x.1 ≠ y.1)
    | none => l
  { h with vers := l ++ [(g, v, ts)] }

/-- Where a tile lies noted; tiles that are neither in the directory nor in the version store are forgotten (R396). -/
def Home.note (h : Home) (g : TTag) (desc : List Byte) : Home :=
  { h with places := h.places.filter (fun x => x.1 ≠ g && ((dirFind h x.1).isSome || h.vers.any (fun v => v.1 = x.1))) ++ [(g, desc)] }

/-- May a request be served with P (R307)? -/
def servable (p : Nat) (exact : Bool) (ver : Option Nat) : Bool :=
  match ver with
  | none => true
  | some v => if exact then decide (p = v) else verGe p v

/-- The holders at P from the nearest on, the requester only where it may be one (R308). -/
def holdersAt (e : DirEntry) (die : Nat) (own : Bool) : List Nat :=
  sortBy (dieDist die) ((List.range 8).filter (fun d => (own || d ≠ die) && e.holders.contains (d, e.p)))

/-- The nearest holder at P. -/
def nearest (e : DirEntry) (die : Nat) (own : Bool) : Option Nat := (holdersAt e die own).head?

/-- A holder's line that is clean at the version asked for. -/
def cleanAt (s : State) (die : Nat) (g : TTag) (v : Nat) : Option TLine :=
  match s.line? die g with
  | some (_, l) => if !l.filling && !l.dirty && l.ver = v then some l else none
  | none => none

/-- A holder recorded at a version. -/
def DirEntry.hold (e : DirEntry) (die v : Nat) : DirEntry :=
  { e with holders := e.holders.filter (fun h => h.1 ≠ die) ++ [(die, v)] }

/-- Every reader that waits for a tile on a die offered its line: V streams first, then slots (R298). -/
def State.wakeTile (s : State) (die : Nat) (g : TTag) : State :=
  let s := s.wakeV die g
  let s := each (dieCores s die) (fun c s =>
    each (c.2.slots.map (·.1)) (fun l s => (s.modTask c.1 l Task.landReady).pumpPres c.1 l (some g)) s) s
  s.wakeSlots die g

/-! ## The end of a fill (R304, R401, R421) -/

/-- A fill's entry in the reassembly table freed. -/
def State.freeFill (s : State) (id : Nat) (f : TFill) : State :=
  ({ s with tfills := mdel id s.tfills } : State).freeEntry f.core id

/-- Parked commands that no longer wait for a number. -/
def State.unpark (s : State) (die id : Nat) : State :=
  each (dieCores s die) (fun c s => s.modCore c.1 (fun k => { k with replay := k.replay.map (fun p =>
    { p with waits := p.waits.filter (· ≠ id) }) })) s

/-- A tile put into the latch, or marked, as its most recently used entry (R303). -/
def State.latchIn (s : State) (c : Nat) (x : Latch) : State :=
  s.modCore c (fun k =>
    let l := k.latch.filter (fun y => y.tag ≠ x.tag) ++ [x]
    { k with latch := l.drop (l.length - 8) })

/-- A parked command takes the content of an operand on the cycle its fill lands, where it accepts the version: the read is
recorded and latched, its hints apply, and it does not promote (R156, R298, R299). -/
def State.takeParked (s : State) (c : Nat) (e : Parked) (g : TTag) (need : TNeed) (way : Nat) (l : TLine) : State :=
  match s.task? c e.slot with
  | none => s
  | some t =>
    if l.tag ≠ g || accepts t g need l.ver ((e.known.find? (fun y => y.1 = g)).map (·.2)) ≠ .yes then s
    else
      let x : Latch := { tag := g, ver := l.ver, data := l.data, spec := l.spec }
      let s := (s.readTile c e.slot t way l need false true).latchIn c x
      s.modCore c (fun k => { k with replay := k.replay.map (fun q =>
        if q.n = e.n then { q with took := q.took.filter (fun y => y.tag ≠ g) ++ [x] } else q) })

/-- A landed line offered to the parked commands that waited for its fill, core by core and in order (R305); from then on their reads
of the tile are of a line that they waited for (R299). -/
def State.wakeParked (s : State) (die id way : Nat) (g : TTag) : State :=
  let s := each (dieCores s die) (fun c s => s.modCore c.1 (fun k => { k with replay := k.replay.map (fun p =>
    if p.waits.contains id then { p with waited := p.waited ++ [g] } else p) })) s
  let es := (dieCores s die).flatMap (fun c => (c.2.replay.filter (fun p => p.waits.contains id)).map (fun p => (c.1, p)))
  (each es (fun (x : Nat × Parked) s => match s.line? die g with
    | some (w, l) =>
      if w ≠ way || l.filling then s
      else
        let s := s.takeParked x.1 x.2 x.2.prod.atag x.2.prod.aneed w l
        if x.2.prod.btag = x.2.prod.atag then s else s.takeParked x.1 x.2 x.2.prod.btag x.2.prod.bneed w l
    | none => s) s).unpark die id

/-- The bytes that an entry has assembled (R401). -/
def TFill.bytes (f : TFill) : List Byte := f.got.flatMap (fun x => bytesOf 64 x.2.data.toNat)

/-- The charge of a fill by where its data comes from; Table 11-5 names none for a peer's (R288). -/
def FillFrom.charge : FillFrom → Nat
  | .memory => 960 | .tarn => 400 | .peer => 0

/-- The entry that a core's reassembly table holds for a number. -/
def entryOf (s : State) (c id : Nat) : Nat := (((s.core c).reasm.find? (fun e => e.2.1 = id)).map (·.1)).getD 0

/-- The data of a fill put before the fabric as its 64 response flits, tagged with its entry (R401, R406). -/
def State.sendTile (s : State) (src id : Nat) (v : Nat) (ts : Option Word32) (from_ : FillFrom) (data : List Byte) : State :=
  match mfind id s.tfills with
  | none => s
  | some f => (s.modFill id (fun f => { f with data := some (v, ts, from_) })).injectData src (routerOf f.core) flTileData
      (entryOf s f.core id) (id, 0) f.pav (slice data 0 4096)

/-- A fill lands once every flit has come and the writes of the line that its way held are performed (R301, R401). -/
def State.landFill (s : State) (id : Nat) : State :=
  match mfind id s.tfills with
  | none => s
  | some f =>
    match f.data with
    | none => s
    | some (v, ts, src) =>
      if f.flits ≠ BitVec.allOnes 64 || !f.waitWb.isEmpty then s
      else
        let d := readDesc f.desc
        let data := f.bytes
        let fill := fun (l : TLine) => if l.tag = f.tag then { l with
          ver := v
          data := data
          filling := false
          dirty := false
          zero := tileZero d data
          spec := tileSpec d data
          desc := f.desc
          pub := ts } else l
        let s := ((s.modLine f.die f.way fill).charge f.acct src.charge).freeFill id f
        (s.wakeParked f.die id f.way f.tag).wakeTile f.die f.tag

/-- A parked command leaves the replay queue with its place in its bank's order, and its M stream takes the code (R421). -/
def State.failParked (s : State) (c : Nat) (p : Parked) (code : BitVec 8) (va : Nat) : State :=
  let s := s.modCore c (fun k => { k with replay := (k.replay.filter (fun q => q.n ≠ p.n)).map (fun q =>
    { q with behind := q.behind.filter (· ≠ p.n) }) })
  let s := s.modTask c p.slot (fun t => { t with mq := t.mq.filter (fun x => x.n ≠ p.n) })
  s.lossFault c p.slot .m code p.iaddr (BitVec.ofNat 64 va)

/-- The readers of a V stream that wait for a tile whose fill failed: a load leaves its register full and as it was, a store
is dropped, and the task takes the code (R304, R421). -/
def State.failV (s : State) (c l : Nat) (g : TTag) (code : BitVec 8) (va : Nat) : State :=
  match s.task? c l with
  | none => s
  | some t =>
    let s := each t.fills (fun f s => match f.kind with
      | .tile _ g' .. => if g' = g then
          (s.modTask c l (fun t => t.landFill f (t.vreg f.v))).lossFault c l .v code f.iaddr (BitVec.ofNat 64 va) else s
      | _ => s) s
    each (t.stores.filter (fun x => x.tag = g)) (fun x s =>
      (s.modTask c l (fun t => { t with stores := t.stores.filter (fun y => y.id ≠ x.id) })).lossFault c l .v code x.iaddr
        (BitVec.ofNat 64 va)) s

/-- A fill that fails drops its line, and its readers fail, prefetches without a record; a slot that only waits to act on the
line selects again (R203, R207, R209, R304, R421). -/
def State.failFill (s : State) (id : Nat) (code : BitVec 8) (va : Nat) : State :=
  match mfind id s.tfills with
  | none => s
  | some f =>
    let s := s.freeFill id f
    let s := match s.line? f.die f.tag with
      | some (w, l) => if l.filling then s.dropLine f.die w l else s
      | none => s
    let s := each (dieCores s f.die) (fun c s =>
      let s := each (c.2.replay.filter (fun p => p.waits.contains id)) (fun p s => s.failParked c.1 p code va) s
      let s := each (c.2.copies.filter (fun x => x.2.stage = .wait && match x.2.op with
        | .tile _ (g :: _) _ _ => g = f.tag
        | _ => false)) (fun x s => match x.2.op with
          | .tile (.fill _) .. | .tile .pin .. => s.putSlot c.1 x.1 (x.2.fail code 0 va)
          | _ => s.pumpSlot c.1 x.1 none) s
      let s := each (c.2.slots.map (·.1)) (fun l s => s.modTask c.1 l (fun t =>
        t.modItin (fun y => { y with open_ := y.open_.filter (fun p => p.tag ≠ f.tag) }))) s
      each (c.2.slots.map (·.1)) (fun l s => s.failV c.1 l f.tag code va) s) s
    s

/-! ## Serving requests (R307, R308) -/

/-- The answer to a peer's tile request, from a holder or from memory (R421). -/
def State.answerPeer (s : State) (m : TMsg) (id : Nat) (e : DirEntry) (node : BitVec 16) (pav : Nat) : State :=
  let s := s.dropMsg id
  let line := (sortBy (dieDist m.die) ((List.range 8).filter (fun d => e.holders.contains (d, e.p)))).findSome? (fun d =>
    cleanAt s d m.tag e.p)
  let a : PeerAns := match line with
    | some l => { op := m.fill, node := node, pav := pav, code := 0, ver := BitVec.ofNat 16 e.p, data := l.data }
    | none =>
      match loadTile s m.die m.pav m.desc m.tag with
      | .ok data => { op := m.fill, node := node, pav := pav, code := 0, ver := BitVec.ofNat 16 e.p, data := data }
      | .bad code _ => { op := m.fill, node := node, pav := pav, code := if code = fDataLoss then code else fRemoteFault, ver := 0,
                         data := [] }
  s.answer a

/-- The lines of memory that a tile covers. -/
def tileLines (s : State) (die pav : Nat) (desc : List Byte) (g : TTag) (acc : AccKind) : List Nat :=
  uniq ((footprint (readDesc desc) g).flatMap (fun p => (cuts p.1 p.2).filterMap (fun c =>
    match xlateNow s die pav ((p.1 + c.1) % 2 ^ 64) acc with
    | .ok _ pa => some (lineOf pa)
    | _ => none)))

/-- What a home agent's requests for a tile carry: itself as requester, the values of the task that caused them or, once it has
ended, those of the line's region (R361, R363). -/
def tileOrig (s : State) (hm uid pav region : Nat) : Orig :=
  match s.byUid uid with
  | some t => t.eff.orig (homeReq hm)
  | none => ((regionEff s pav region).getD noEff).orig (homeReq hm)

/-- The region of the line that a fill fills. -/
def fillRegion (s : State) (f : TFill) : Nat := ((mfind f.way (s.die f.die).tarn).map (fun l => l.region.2)).getD 0

/-- A request served from memory: it stands as being served, and the reads of its tile's lines go to the stacks (R307, R361). -/
def State.beginServe (s : State) (hm i id : Nat) (m : TMsg) : State :=
  let s := s.modEntry hm i (fun e => { e with st := .filling, serving := e.serving ++ [id] })
  let f := mfind m.fill s.tfills
  let o := tileOrig s hm (f.elim 0 (·.uid)) m.pav (f.elim 0 (fillRegion s))
  each (tileLines s m.die m.pav m.desc m.tag .read) (fun l s => s.toDram o (128 * l) false m.key id none) s

/-- A request forwarded to the tarn of a holder, in a flit to the router from which that tarn sends (R308). -/
def State.forwardTo (s : State) (hm d id : Nat) (m : TMsg) : State :=
  (s.modMsg id (fun m => { m with kind := .forward d })).inject (homeRouter hm) (tarnRouter d hm) flForward id (id, 0) 1 m.pav (tellCap s m)

/-- A request that has reached its directory, handled by Table 12-4. -/
def State.serveReq (s : State) (hm i id : Nat) : State :=
  match mfind i (s.home hm).dir, mfind id s.tmsgs with
  | some e, some m =>
    match m.kind with
    | .request exact ver =>
      let queue := s.modEntry hm i (fun e => { e with queue := e.queue ++ [id] })
      let holder := nearest e m.die m.remote.isSome
      if e.st = .recalling || !servable e.p exact ver then queue
      else
        match m.remote with
        | some (node, pav) =>
          if (List.range 8).any (fun d => e.holders.contains (d, e.p) && (cleanAt s d m.tag e.p).isSome) then s.answerPeer m id e node pav
          else if e.st = .writing then queue
          else s.beginServe hm i id m
        | none =>
          match e.st, holder with
          | .present, some d => s.forwardTo hm d id m
          | .writing, _ =>
            match (holdersAt e m.die false).find? (fun d => (cleanAt s d m.tag e.p).isSome) with
            | some d => s.forwardTo hm d id m
            | none => queue
          | _, _ => s.beginServe hm i id m
    | _ => s
  | _, _ => s

/-- The queued requests of an entry handled again, in order. -/
def State.serveQueue (s : State) (hm i : Nat) : State :=
  match mfind i (s.home hm).dir with
  | none => s
  | some e => each e.queue (fun id s => s.serveReq hm i id) (s.modEntry hm i (fun e => { e with queue := [] }))

/-- The victim of a full directory (R310): present, nothing queued, the oldest last request, then the lower index. -/
def dirVictim (h : Home) : Option (Nat × DirEntry) :=
  (h.dir.filter (fun p => p.2.st = .present && p.2.queue.isEmpty)).foldl (fun b p => match b with
    | none => some p
    | some (q : Nat × DirEntry) => if p.2.lastReq < q.2.lastReq then some p else b) none

/-- A recall's holders visited: each drops its clean line, or writes back and publishes its dirty one; one whose line is gone
with no report on its way, or is being refilled by a fill not yet served, holds the tile no more; one whose line is being written back,
or whose fill's data is on its way, is visited again (R308). What it writes back is caused by the task `uid`, whose request needs the
entry (R361). -/
def State.recallHolders (s : State) (hm i uid : Nat) (e : DirEntry) : State :=
  let told := fun (s : State) (d : Nat) => s.tmsgs.any (fun m => m.2.die = d && m.2.tag = e.tag && (match m.2.kind with
    | .drop | .wbBegin _ | .writing _ | .publish _ => true
    | _ => false))
  let done := fun (s : State) (d : Nat) => s.modEntry hm i (fun e => { e with holders := e.holders.filter (fun h => h.1 ≠ d) })
  each e.holders (fun h s => match s.line? h.1 e.tag with
    | none => if told s h.1 then s else done s h.1
    | some (w, l) =>
      if !l.filling then (s.evict h.1 w l uid).1
      else if s.tfills.any (fun f => f.2.die = h.1 && f.2.tag = e.tag && f.2.data.isNone) then done s h.1
      else s) s

/-- A recall begun. -/
def State.recall (s : State) (hm i uid : Nat) (e : DirEntry) : State :=
  (s.modEntry hm i (fun e => { e with st := .recalling })).recallHolders hm i uid e

/-- Is a request message still to be taken up by its directory? -/
def waiting (h : Home) (id : Nat) : Bool := (mvals h.dir).all (fun e => !e.queue.contains id && !e.serving.contains id)

/-- The task whose request waits for an entry of a full directory (R310). -/
def recallUid (s : State) (hm : Nat) : Nat :=
  ((s.tmsgs.find? (fun m => m.2.home = some hm && (match m.2.kind with | .request .. => true | _ => false)
    && (dirFind (s.home hm) m.2.tag).isNone)).bind (fun m => mfind m.2.fill s.tfills)).elim 0 (·.uid)

/-! ## Write-backs (R203, R298, R301, R308) -/

/-- The tile's first address, which its loss names. -/
def TMsg.first (m : TMsg) : Nat := firstByte (readDesc m.desc) m.tag

/-- Fills that wait for a write-back go on: a way's new data may land, a line replaced in place asks for its version. -/
def State.releaseWb (s : State) (id : Nat) (inPlace : Bool) : State :=
  each (s.tfills.filter (fun f => f.2.waitWb.contains id && f.2.sent ≠ inPlace)) (fun f s =>
    let s := s.modFill f.1 (fun x => { x with waitWb := x.waitWb.filter (· ≠ id) })
    if inPlace then s.sendFill f.1 else s) s

/-- Does a fill in place wait for a write-back? -/
def inPlaceWb (s : State) (id : Nat) : Bool := s.tfills.any (fun f => f.2.waitWb.contains id && !f.2.sent)

/-- The line that a slot's write-back left in the tarn, free again. -/
def State.wbLine (s : State) (m : TMsg) (f : TLine → TLine) : State :=
  match m.way with
  | some w => s.modLine m.die w (fun l => if l.tag = m.tag then { f l with filling := false } else l)
  | none => s

/-- A write-back that does not publish ends: a slot fails, its line kept (`keep`) or dropped; any other is charged to the
line's pavilion and key as DATA_LOSS (R203, R298, R301). -/
def State.endWb (s : State) (id : Nat) (m : TMsg) (code : BitVec 8) (va : Nat) (keep : Bool) : State :=
  let s := s.dropMsg id
  match m.remote with
  | some (node, pav) => s.answer { op := m.fill, node := node, pav := pav, code := if code = fDataLoss then code else fRemoteFault,
                                   ver := 0, data := [] }
  | none =>
  match m.slot with
  | some (c, id) =>
    let s := s.wbLine m (fun l => l)
    let s := if keep then s else
      match s.line? m.die m.tag with
      | some (w, l) => if some w = m.way then s.dropLine m.die w l else s
      | none => s
    let s := match s.slotId? c id with
      | some (n, x) => if x.stage = CStage.wait then s.putSlot c n (x.fail code 0 va) else s
      | none => s
    s.wakeTile m.die m.tag
  | none =>
    let back := inPlaceWb s id
    let s := s.deviceEvent m.pav fDataLoss m.key (BitVec.ofNat 64 m.first) false
    let s := if back then s else s.tell { m with kind := .drop }
    (s.releaseWb id false).releaseWb id true

/-- The slot that asked for a write-back, if it still holds its number, goes on after the publish: CPYW counts the tile, TCFLS drops the
line (R203, R205). -/
def State.slotPublished (s : State) (c id : Nat) (m : TMsg) : State :=
  match s.slotId? c id with
  | none => s
  | some (n, x) =>
    match x.op with
    | .tile .wb (_ :: _) _ _ =>
      let r := s.wbCounted x m.tag
      r.1.putSlot c n (r.2.nextTile true)
    | .tile .flush (_ :: _) _ _ =>
      let s := match s.line? m.die m.tag with
        | some (w, l) => if pinned s m.die m.tag then s else s.dropLine m.die w l
        | none => s
      s.putSlot c n (x.nextTile true)
    | _ => s

/-- Is the line of a write-back to take 7 when it is clean again (R203)? -/
def lastHint (s : State) (m : TMsg) : Bool :=
  match m.slot with
  | none => false
  | some (c, id) => match s.slotId? c id with
    | some (_, x) => (match x.op with | .tile .wb _ _ need => need.hint = .last | _ => false)
    | none => false

/-- The effects of a publish of a version at the writer's die, the home having taken it. -/
def State.wbDone (s : State) (id : Nat) (m : TMsg) (ts : Option Word32) : State :=
  match m.remote with
  | some (node, pav) => (s.dropMsg id).answer { op := m.fill, node := node, pav := pav, code := 0, ver := 0, data := [] }
  | none =>
  let last := lastHint s m
  let s := (s.dropMsg id).wbLine m (fun l => { l with
    dirty := false
    pub := ts
    rrpv := if last then 7 else l.rrpv })
  match m.slot with
  | some (c, id) =>
    let s := s.slotPublished c id m
    let s := match s.slotId? c id with
      | some (n, x) => if x.stage = CStage.start then s.pumpSlot c n none else s
      | none => s
    s.wakeTile m.die m.tag
  | none =>
    let back := inPlaceWb s id
    let s := if back || m.home.isNone then s else s.tell { m with kind := .drop }
    (s.releaseWb id false).releaseWb id true

/-- The requests of a write-back's lines to the stacks: reads first where packed groups are merged (R192, R361). -/
def State.wbToDram (s : State) (hm id : Nat) (m : TMsg) : State :=
  each (tileLines s m.die m.pav m.desc m.tag .write) (fun l s => match dramOf s id (128 * l) with
    | some _ => s
    | none => s.toDram (tileOrig s hm m.uid m.pav m.region) (128 * l) ((readDesc m.desc).layout ≠ 3) m.key id none) s

/-- A write-back taken up by its directory: refused unless its version is newer than P; held while the entry fills or
another writes; else registered, and its writes go to the stacks (R308). -/
def State.takeWb (s : State) (hm id v : Nat) (m : TMsg) : State :=
  let h := s.home hm
  let entry := dirFind h m.tag
  let hold := fun (i : Nat) => s.modEntry hm i (fun e => { e with wbHeld := ladd id e.wbHeld })
  let write :=
    let s := (s.modMsg id (fun m => { m with kind := TMsgKind.writing v })).wbToDram hm id m
    match entry with
    | some (i, e) => if e.st = DirState.present then s.modEntry hm i (fun e => { e with st := .writing }) else s
    | none => s
  if !later 16 v (pubOf h m.tag).1 then s.endWb id m fDataLoss m.first false
  else
    match entry with
    | some (i, e) =>
      match e.st with
      | .filling | .writing => hold i
      | _ => write
    | none => write

/-- The write-backs that an entry holds taken up again, once it neither fills nor writes. -/
def State.takeHeld (s : State) (hm i : Nat) : State :=
  match mfind i (s.home hm).dir with
  | none => s
  | some e => each e.wbHeld (fun id s => match mfind id s.tmsgs with
      | some m => (match m.kind with | .wbBegin v => s.takeWb hm id v m | _ => s)
      | none => s) (s.modEntry hm i (fun e => { e with wbHeld := [] }))

/-- The charge of the lines that a copy slot's write-back writes (Table 11-5). -/
def State.chargeWb (s : State) (m : TMsg) : State :=
  match m.slot.bind (fun p => s.slotId? p.1 p.2) with
  | some (_, x) => s.charge x.acct (100 * (tileLines s m.die m.pav m.desc m.tag .write).length)
  | none => s

/-- A registered write-back whose lines the stacks have served performs its writes; a failure of its pages frees its entry
again (R203, R301). -/
def State.writeWb (s : State) (hm id v : Nat) (m : TMsg) : State :=
  if atDram s id then s
  else
    let s := s.undram id
    match storeTile s m.die m.pav m.desc m.tag m.data m.ts with
    | .bad c va =>
      let s := s.endWb id m c va true
      match dirFind (s.home hm) m.tag with
      | some (i, _) =>
        ((s.modEntry hm i (fun e => if e.st = .writing then { e with st := .present } else e)).takeHeld hm i).serveQueue hm i
      | none => s
    | .ok s w => ((s.chargeWb m).modMsg id (fun m => { m with kind := .publish v, ts := w })).releaseWb id false

/-- TILE_WRITEBACK_BEGIN: a write-back reaches its directory, or one that it has registered performs its writes (R308). -/
def execTileWritebackBegin (id : Nat) (s : State) : Out :=
  match mfind id s.tmsgs with
  | none => .next s
  | some m =>
    match m.kind, m.home with
    | .writing v, some hm => .next (s.writeWb hm id v m)
    | .wbBegin v, some hm =>
      if (mvals (s.home hm).dir).any (fun e => e.wbHeld.contains id) || !s.come id 0 then .next s else .next (s.takeWb hm id v m)
    | _, _ => .next s

/-- TILE_PUBLISH: P becomes the version written, the store records it, queued requests are served (R308, R309). -/
def execTilePublish (id : Nat) (s : State) : Out :=
  match mfind id s.tmsgs with
  | none => .next s
  | some m =>
    match m.kind, m.home with
    | .publish v, some hm =>
      let s := s.modHome hm (fun h => (h.record m.tag v m.ts).note m.tag m.desc)
      match dirFind (s.home hm) m.tag with
      | none => .next (s.wbDone id m m.ts)
      | some (i, _) =>
        let s := s.modEntry hm i (fun e => { e.hold m.die v with
          p := v
          ts := m.ts
          st := if e.st = .writing then .present else e.st })
        let s := s.wbDone id m m.ts
        .next ((s.takeHeld hm i).serveQueue hm i)
    | _, _ => .next s

/-- TILE_DROP_REPORT, come to its directory (R308). -/
def execTileDropReport (id : Nat) (s : State) : Out :=
  match mfind id s.tmsgs with
  | none => .next s
  | some m =>
    match m.kind, m.home with
    | .drop, some hm =>
      if !s.come id 0 then .next s
      else
      let s := s.dropMsg id
      match dirFind (s.home hm) m.tag with
      | none => .next s
      | some (i, _) =>
        .next (if (s.line? m.die m.tag).isSome then s
          else s.modEntry hm i (fun e => { e with holders := e.holders.filter (fun h => h.1 ≠ m.die) }))
    | _, _ => .next s

/-- DIRECTORY_RECALL_DONE: holders that a recall could not yet reach are visited again; with the last one done P stands in
the version store, where its publish has put it, the entry is freed and its queued requests are handled as Absent (R308). -/
def execDirectoryRecallDone (home : HomeId) (s : State) : Out :=
  let hm := home.val
  let s := each ((s.home hm).dir.filter (fun p => p.2.st = .recalling)) (fun p s => s.recallHolders hm p.1 (recallUid s hm) p.2) s
  let busy := fun (g : TTag) => s.tmsgs.any (fun m => m.2.home = some hm && m.2.tag = g && match m.2.kind with
    | .wbBegin _ | .writing _ | .publish _ => true
    | _ => false)
  match (s.home hm).dir.find? (fun p => p.2.st = .recalling && p.2.holders.isEmpty && !busy p.2.tag) with
  | none => .next s
  | some (i, e) => .next (s.modHome hm (fun h =>
      let h := if (e.p = 0 && e.ts.isNone) || h.vers.any (fun v => v.1 = e.tag) then h else h.record e.tag e.p e.ts
      { h with dir := mdel i h.dir }))

/-- A fill given up with its line, its entry and its request; those that waited for it ask again (R309, R396). -/
def State.cancelFill (s : State) (id : Nat) : State :=
  match mfind id s.tfills with
  | none => s
  | some f =>
    let asked := s.tmsgs.filter (fun m => m.2.fill = id && m.2.remote.isNone && match m.2.kind with
      | .request .. | .forward _ => true
      | _ => false)
    let s := each asked (fun m s => match m.2.home, m.2.home.bind (fun hm => dirFind (s.home hm) f.tag) with
      | some hm, some (i, e) =>
        let left := e.serving.filter (· ≠ m.1)
        let s := ((s.undram m.1).dropMsg m.1).modEntry hm i (fun e => { e with queue := e.queue.filter (· ≠ m.1), serving := left })
        if e.st = .filling && left.isEmpty then
          ((s.modEntry hm i (fun e => { e with st := .present })).takeHeld hm i).serveQueue hm i
        else s
      | _, _ => s.dropMsg m.1) s
    let s := s.freeFill id f
    let s := match s.line? f.die f.tag with
      | some (w, l) => if l.filling && w = f.way then s.removeLine f.die w l else s
      | none => s
    (s.unpark f.die id).wakeTile f.die f.tag

/-! ## Flits and arrivals (R401) -/

/-- Does any request that an entry serves still wait for a stack? -/
def fillsAtDram (s : State) (e : DirEntry) : Bool := e.serving.any (fun id => (mfind id s.tmsgs).isSome && atDram s id)

/-- The fill data of an entry sent: memory read for each request, requesters recorded, then the write-backs and requests
that waited (R308). -/
def State.sendData (s : State) (hm i : Nat) (e : DirEntry) : State :=
  let s := each e.serving (fun id s => match mfind id s.tmsgs with
    | none => s
    | some m =>
      let s := s.undram id
      match m.remote with
      | some (node, pav) => s.answerPeer m id e node pav
      | none =>
      match loadTile s m.die m.pav m.desc m.tag with
      | .ok data => ((s.sendTile (homeRouter hm) m.fill e.p e.ts .memory data).dropMsg id).modEntry hm i (fun e => e.hold m.die e.p)
      | .bad c va => (s.dropMsg id).failFill m.fill c va) s
  let s := s.modEntry hm i (fun e => { e with st := .present, serving := [] })
  (s.takeHeld hm i).serveQueue hm i

/-- TILE_DIR_REQUEST: a fill's request reaches the directory of its home (R307, R308, R310). -/
def execTileDirRequest (id : Nat) (s : State) : Out :=
  match mfind id s.tmsgs with
  | none => .next s
  | some m =>
    match m.kind, m.home with
    | .request .., some hm =>
      let h := s.home hm
      if !s.come id 0 then .next s
      else if !waiting h id then
        .next (match m.remote, h.dir.find? (fun p => p.2.serving.contains id) with
          | some _, some (i, e) => if fillsAtDram s e then s else s.sendData hm i e
          | _, _ => s)
      else
        match dirFind h m.tag with
        | some (i, _) => .next ((s.modEntry hm i (fun e => { e with lastReq := s.cyc.toNat })).serveReq hm i id)
        | none =>
          if h.dir.length < 32768 then
            let i := lowestFree h.dir
            let p := pubOf h m.tag
            let e : DirEntry := { tag := m.tag, p := p.1, ts := p.2, st := .present, holders := [], queue := [], serving := [],
                                  wbHeld := [], lastReq := s.cyc.toNat }
            .next ((s.modHome hm (fun h => { h with dir := mset i e h.dir }.note m.tag m.desc)).serveReq hm i id)
          else if (mvals h.dir).any (fun e => e.st = .recalling) then .next s
          else
            match dirVictim h with
            | none => .next s
            | some (i, e) => .next (s.recall hm i ((mfind m.fill s.tfills).elim 0 (·.uid)) e)
    | _, _ => .next s

/-- HOLDER_FORWARD: the holder sends its line if it is clean at P; else it refuses and the home reads memory. A request that P no longer
serves is queued, one whose entry has been freed meanwhile is handled as Absent (R307, R308). -/
def execHolderForward (id : Nat) (s : State) : Out :=
  match mfind id s.tmsgs with
  | none => .next s
  | some m =>
    match m.kind, m.home with
    | .forward d, some hm =>
      if !s.come id 0 then .next s
      else
      match mfind m.fill s.tfills with
      | none => .next (s.dropMsg id)
      | some f =>
        let s' := s.modMsg id (fun m => { m with kind := .request f.exact f.ver })
        match dirFind (s.home hm) m.tag with
        | none => .next s'
        | some (i, e) =>
          if e.st = .recalling || !servable e.p f.exact f.ver then
            .next (s'.modEntry hm i (fun e => { e with queue := e.queue ++ [id] }))
          else
            match cleanAt s d m.tag e.p with
            | some l =>
              let s := (s.sendTile (tarnRouter d hm) m.fill e.p e.ts .tarn l.data).dropMsg id
              .next (s.modEntry hm i (fun e => e.hold m.die e.p))
            | none =>
              .next (if e.st = .present || e.st = .filling then s'.beginServe hm i id m
                else s'.modEntry hm i (fun e => { e with queue := e.queue ++ [id] }))
    | _, _ => .next s

/-- The entry that serves a fill from memory. -/
def servingEntry (s : State) (fill : Nat) : Option (Nat × Nat × DirEntry) :=
  match s.tmsgs.find? (fun m => m.2.fill = fill && match m.2.kind with | .request .. => true | _ => false) with
  | none => none
  | some (id, m) =>
    match m.home with
    | none => none
    | some hm => ((s.home hm).dir.find? (fun p => p.2.serving.contains id)).map (fun p => (hm, p.1, p.2))

/-- The core of a flit's destination router. -/
def Flit.core (f : Flit) : Nat := 32 * (4 * (f.dy / 6) + f.dx / 8) + 8 * (f.dy % 6 - 1) + f.dx % 8

/-- REASSEMBLY_FLIT: the flit at an offset of a fill's data, once the fabric has brought it, enters the fill's entry, and with the
last of the 64 the line becomes present; one for an orphaned entry goes into the save area (R384), one whose tag names no entry is
discarded and counted (R401, R411). A home that has
its tile from the stacks first sends it. -/
def execReassemblyFlit (id : Nat) (off : Fin 64) (s : State) : Out :=
  let s := match servingEntry s id with
    | some (hm, i, e) => if fillsAtDram s e then s else s.sendData hm i e
    | none => s
  match s.fab.arrived.find? (fun x => x.msg = (id, 0) && x.off = off.val) with
  | none => .next s
  | some x =>
    let s := { s with fab := { s.fab with arrived := s.fab.arrived.erase x } }
    match mfind id s.tfills with
    | none => .next (s.modCore x.core (fun k => { k with badFlits := satInc k.badFlits }))
    | some _ =>
      .next ((s.modFill id (fun f => { f with
        spilled := if f.orphan then ladd off.val f.spilled else f.spilled
        flits := f.flits ||| BitVec.ofNat 64 (2 ^ off.val)
        got := mset off.val x f.got })).landFill id)

/-- TARN_FILL_ARRIVAL: a fill whose flits have come lands once the write-backs it waits for are performed (R301, R401). -/
def execTarnFillArrival (id : Nat) (s : State) : Out := .next (s.landFill id)

/-- The answer to a query reaches its reader, which looks again with P (R297). -/
def State.answerQuery (s : State) (id p : Nat) : State :=
  match mfind id s.tmsgs with
  | none => s
  | some m =>
    let s := s.dropMsg id
    match m.kind with
    | .query (.fill c l n) =>
      match s.task? c l with
      | none => s
      | some t =>
        match t.fills.findSome? (fun f => match f.kind with
          | .tile i g desc need sub _ => if i = n then some (g, desc, need, sub) else none
          | _ => none) with
        | some (g, desc, need, sub) => (s.vtldLook c l t n g desc need sub (some p)).modTask c l Task.landReady
        | none => s
    | .query (.store c l n) =>
      match s.task? c l with
      | none => s
      | some t =>
        match t.stores.find? (fun x => x.id = n) with
        | some x => s.vtstLook c l t x (some p)
        | none => s
    | .query (.copy c i) => match s.slotId? c i with
      | some (n, _) => s.pumpSlot c n (some p)
      | none => s
    | .query (.report c l) => s.modTask c l (fun t => { t with report := some (m.tag, p) })
    | .query (.prefetch c l n) =>
      let s := s.modTask c l (fun t => t.modPre n (fun q => if q.tag = m.tag then { q with known := some p } else q))
      match ((s.task? c l).bind (·.itin)).bind (fun x => x.open_.find? (fun q => q.n = n)), s.task? c l with
      | some q, some t => s.prefetch c l t q
      | _, _ => s
    | .query (.product c n) => (s.modCore c (fun k => { k with replay := k.replay.map (fun q =>
        if q.n = n then { q with known := q.known.filter (fun y => y.1 ≠ m.tag) ++ [(m.tag, p)] } else q) })).unpark (dieOf c) id
    | _ => s

/-- TILE_VERSION_QUERY: a query that has come to its home is answered with P as it stands there, whatever the entry's state (R307); an answer
that has come reaches its reader. -/
def execTileVersionQuery (id : Nat) (s : State) : Out :=
  match mfind id s.tmsgs with
  | none => .next s
  | some m =>
    match m.kind, m.home with
    | .query _, some hm =>
      if !s.come id 0 then .next s
      else match m.known with
      | some p => .next (s.answerQuery id p)
      | none => .next ((s.modMsg id (fun m => { m with known := some (pubOf (s.home hm) m.tag).1 })).inject (homeRouter hm)
          (routerOf m.core) flAck id (id, 0) 1 m.pav 0)
    | _, _ => .next s

/-- VECTOR_FILL_LAND: the data of a register's fill arrives, or a tile access that waits looks again (R119, R143, R298). -/
def execVectorFillLand (core : CoreId) (slot : SlotId) (v : VReg) (s : State) : Out :=
  let c := core.val
  let l := slot.val
  match s.task? c l with
  | none => .next s
  | some t =>
    match t.fills.find? (fun f => f.v = v.val) with
    | some f =>
      match f.kind with
      | .tile .. => .next (s.retryV c l)
      | _ => .next (s.landVec c l t f)
    | none => .next (if t.stores.isEmpty then s else s.retryV c l)

end Sys2Proof.Machine
end

