-- ==== Sys2Proof/Machine/Dram.lean ====
section
/-!
DEFINITION. The DRAM stacks: the schedulers of the pseudo-channels, error correction, patrol and hot-list scrubbing, row
retirement, error records (spec/17 R359-R369), and the cycles of the fabric that brings requests to their homes. A request stands in its
queue from its issue until its access has been performed, in its place once it has come to its home; which banks' timing allows a column
command comes with each turn (log 20).
-/

namespace Sys2Proof.Machine

/-! ## Locations (R359) -/

/-- The physical address of a line: stack, channel, pseudo-channel, line number in the pseudo-channel. -/
def paOf (m ch pc lo : Nat) : Nat :=
  let x := (8 * pc + ch % 8) ^^^ (lo % 128)
  let gl := 4 * lo + x / 32
  let h := 16 * (ch / 8) + m
  let low := (h ^^^ (gl % 64)) ^^^ ((gl / 2 ^ 6 % 64) ^^^ ((gl / 2 ^ 12 % 64) ^^^ (gl / 2 ^ 18 % 64)))
  (64 * gl + low) * 4096 + 128 * (x % 32)

/-- The number of the row of an address. -/
def rowNo (pa : Nat) : Nat :=
  let l := dramLoc pa
  l.ch * 2 ^ 24 + l.pc * 2 ^ 20 + l.bank * 2 ^ 16 + l.row

/-- The number of a row's bank. -/
def bankNo (row : Nat) : Nat := row / 2 ^ 16

/-- The first line's address of a row of a stack. -/
def rowFirst (m row : Nat) : Nat := paOf m (row / 2 ^ 24) (row / 2 ^ 20 % 16) (row % 2 ^ 16 * 256 + row / 2 ^ 16 % 16 * 16)

/-! ## Error records (R368, R398) -/

/-- Free spare rows of a row's bank: those that a copy under way takes are no longer free. -/
def sparesLeft (k : Stack) (row : Nat) : Nat :=
  8 - mget (bankNo row) 0 k.spares - (k.remapping.filter (fun r => bankNo r = bankNo row)).length

/-- The 32 bytes of a memory error record (Table 17-2). -/
def memErr (s : State) (m pa kind src key half : Nat) : List Byte :=
  let k := s.stack m
  let row := rowNo pa
  let l := dramLoc pa
  bytesOf 8 (pa / 128 * 128) ++ bytesOf 8 s.cyc.toNat ++ bytesOf 1 kind ++ bytesOf 1 src
    ++ bytesOf 1 (if src = 0 then key % 128 else 0x80) ++ bytesOf 1 m ++ bytesOf 1 l.ch ++ bytesOf 1 (l.pc + 16 * l.bank)
    ++ bytesOf 2 l.row ++ bytesOf 2 (mget row 0 k.scores) ++ bytesOf 1 half ++ bytesOf 1 (sparesLeft k row) ++ bytesOf 4 0

/-- A record posted to a stack's ring; with the ring full the overflow is counted, with no ring nothing happens. -/
def State.postMemErr (s : State) (m pa kind src key half : Nat) : State :=
  let k := s.stack m
  if k.ring = 0 then s
  else if (k.head - k.tail).toNat < 256 then
    (s.writeVa (bridgeDie 128) 128 (k.ring.toNat + 32 * (k.head.toNat % 256)) (memErr s m pa kind src key half)).modStack m
      (fun k => { k with head := k.head + 1 })
  else s.modStack m (fun k => { k with overflow := k.overflow + 1 })

/-! ## Scores and retirement (R367) -/

/-- A row that enters the hot list; when it is full the entry of the lowest score goes, the earliest of equals. -/
def Stack.heat (k : Stack) (row : Nat) : Stack :=
  if k.hot.contains row then k
  else if k.hot.length < 4096 then { k with hot := k.hot ++ [row] }
  else
    match k.hot.foldl (fun b r => match b with
        | none => some r
        | some x => if mget r 0 k.scores < mget x 0 k.scores then some r else b) none with
    | none => k
    | some v => { k with hot := k.hot.filter (· ≠ v) ++ [row] }

/-- A score raised, saturating. -/
def Stack.score (k : Stack) (row n : Nat) : Stack :=
  let old := mget row 0 k.scores
  let k := { k with scores := mset row (min 1023 (old + n)) k.scores }
  if old = 0 then k.heat row else k

/-- A stack on which the copy of a row begins, behind the requests to the row that have reached it (R369). -/
def Stack.beginCopy (k : Stack) (here : DReq → Bool) (row : Nat) : Stack :=
  { k with
    remapping := k.remapping ++ [row]
    queues := k.queues.map (fun (q : Nat × List DReq) => (q.1, q.2.map (fun r =>
      if rowNo r.pa = row && here r then { r with ahead := true } else r))) }

/-- A row whose score has reached 256: its copy to a spare begins, or the lack of one is recorded once. -/
def State.retire (s : State) (m pa src key : Nat) : State :=
  let row := rowNo pa
  let k := s.stack m
  if mget row 0 k.scores < 256 ∨ k.remapping.contains row then s
  else if 0 < sparesLeft k row then s.modStack m (fun k => k.beginCopy s.here row)
  else if k.noSpare.contains row then s
  else (s.modStack m (fun k => { k with noSpare := k.noSpare ++ [row] })).postMemErr m (rowFirst m row) 5 src key 0

/-! ## Reads (R364, R365) -/

/-- What the symbol code makes of n symbols in error of one half of a line (Table 17-1); beyond four it gives no assurance:
the half reads as free values or the line is poisoned (log 20). -/
def State.eccHalf (s : State) (m pa half n src key : Nat) : State :=
  let row := rowNo pa
  let line := lineOf pa
  let note := fun (s : State) (add kind : Nat) =>
    ((s.modStack m (fun k => k.score row add)).postMemErr m pa kind src key (half + 1)).retire m pa src key
  if n = 0 then s
  else if n = 1 then note s 16 1
  else if n = 2 then note s 64 2
  else if n ≤ 4 then note (s.setPoison line) 64 3
  else if Config.freeBit (s.free + 2 ^ 40) then ((s.setPoison line).postMemErr m pa 3 src key (half + 1))
  else
    let a := 128 * line + 64 * half
    { (each (List.range 64) (fun i s => { s with mem := memWrite (a + i) (Config.freeByte (a + i + 2 ^ 48 * s.free)) s.mem }) s)
      with free := s.free + 1 }

/-- A read of a line with e0 and e1 symbols in error in its halves. -/
def State.eccRead (s : State) (m pa e0 e1 src key : Nat) : State := (s.eccHalf m pa 0 e0 src key).eccHalf m pa 1 e1 src key

/-! ## Scheduling (R361-R363) -/

/-- A stamp earlier than another (R362). -/
def stampLt (u v : BitVec 24) : Bool := decide (sext (u - v).toNat 24 < 0)

/-- Is a request to be taken before the best so far? Requests stand in the order of arrival. -/
def takenBefore (cyc : Word64) (x best : DReq) : Bool :=
  let old := fun (r : DReq) => decide (16384 ≤ (cyc - r.since).toNat)
  if old x || old best then old x && (!old best || decide ((cyc - best.since).toNat < (cyc - x.since).toNat))
  else if x.cls ≠ best.cls then decide (best.cls < x.cls)
  else stampLt x.stamp best.stamp

/-- The requests of a queue, all come to their home, that may be taken: the first of each line that has not been performed, its bank's timing
allowing a column command, its row not being copied unless it arrived before that (R369). -/
def eligible (k : Stack) (banks : BitVec 16) : List DReq → List Nat → List DReq
  | [], _ => []
  | r :: rs, seen =>
    if seen.contains (lineOf r.pa) || r.served || !banks.getLsbD (dramLoc r.pa).bank
        || (k.remapping.contains (rowNo r.pa) && !r.ahead) then
      eligible k banks rs (ladd (lineOf r.pa) seen)
    else r :: eligible k banks rs (ladd (lineOf r.pa) seen)

/-- The request that a scheduler takes next. -/
def nextReq (cyc : Word64) (k : Stack) (banks : BitVec 16) (q : List DReq) : Option DReq :=
  (eligible k banks q []).foldl (fun b r => match b with
    | none => some r
    | some x => if takenBefore cyc r x then some r else b) none

/-- The pavilion of the slot, register fill or M-stream read of a number. -/
def readerPav (s : State) (own : Nat) : Option Nat :=
  match s.cores.findSome? (fun c => (c.2.copies.find? (fun x => x.2.id = own)).map (·.2.pav)) with
  | some p => some p
  | none => (s.tasks.find? (fun t => t.2.2.mAsk.map (·.1) = some own || t.2.2.fills.any (fun f => match f.kind with
      | .mem id .. => id = own
      | _ => false))).map (·.2.2.pav)

/-- Is the access that a served request was for still to be performed? -/
def dramOwner (s : State) (own : Nat) : Bool :=
  (mfind own s.reqs).any Req.waiting || (readerPav s own).isSome
    || (mfind own s.tmsgs).any (fun m => match m.kind with
      | .request .. | .writing _ => true
      | _ => false)

/-- The answer to the read of a slot, register fill or M-stream read put before the fabric, for the entry that its core has reserved (R401,
R411). -/
def State.answerRead (s : State) (r : DReq) : State :=
  match readerPav s r.own with
  | some pav =>
    if (s.core r.requester).reasm.any (fun e => e.2 = (r.own, lineOf r.pa)) then s.lineAnswer r.requester flData r.own 2 r.pa pav else s
  | none => s

/-- DRAM_REQUEST_SERVE: the next of the requests that have come to a pseudo-channel, its bank's timing allowing it, issues its column command;
a read meets e0 and e1 symbols in error, a write-back of cached lines is performed (R360-R364). Requests that have been performed have
left. -/
def execDramRequestServe (stack : StackId) (turn : DramTurn) (e0 e1 : Nat) (s : State) : Out :=
  let m := stack.val
  let pc := turn.pc
  let q := (mget pc.val [] (s.stack m).queues).filter (fun r => !r.served || dramOwner s r.own)
  let put := fun (s : State) (q : List DReq) => s.modStack m (fun k => { k with queues := mset pc.val q k.queues })
  match nextReq s.cyc (s.stack m) turn.banks (q.filter s.here) with
  | none => .next (put s q)
  | some r =>
    let s := s.countMiss r
    .next (if r.pay.isSome then (put s (q.erase r)).applyPay r
      else
        let s := put s (q.map (fun x => if x = r then { x with served := true } else x))
        if r.write then s else (s.eccRead m r.pa e0 e1 0 r.key).answerRead r)

/-! ## Scrubbing (R366, R367) -/

/-- 24 hours, and a 64th of them, in cycles of 800 MHz (R2, R366, R367). -/
def dayCycles : Nat := 69120000000000
def hotCycles : Nat := 1080000000000

/-- Does a demand access that has reached a line stand at it (R360, R366)? -/
def lineHeld (s : State) (k : Stack) (pa : Nat) : Bool := k.queues.any (fun q => q.2.any (fun r => lineOf r.pa = lineOf pa && s.here r))

/-- PATROL_READ: the next line of a pseudo-channel, on an idle cycle or 1,024 cycles after the last, one pass in 24 hours (R366). -/
def execPatrolRead (stack : StackId) (pc : Fin 512) (e0 e1 : Nat) (s : State) : Out :=
  let m := stack.val
  let k := s.stack m
  let idle := (mget pc.val [] k.queues).isEmpty || (match mfind pc.val k.lastPatrol with
    | some c => decide (1024 ≤ (s.cyc - c).toNat)
    | none => true)
  let lo := mget pc.val 0 k.patrol
  let pa := paOf m (pc.val / 16) (pc.val % 16) lo
  let early := lo = 0 && (match mfind pc.val k.passAt with
    | some c => decide ((s.cyc - c).toNat < dayCycles)
    | none => false)
  if !idle || early || lineHeld s k pa || k.remapping.contains (rowNo pa) then .next s
  else
    .next ((s.modStack m (fun k => { k with
      passAt := if lo = 0 then mset pc.val s.cyc k.passAt else k.passAt
      patrol := mset pc.val ((lo + 1) % 1572864) k.patrol
      lastPatrol := mset pc.val s.cyc k.lastPatrol })).eccRead m pa e0 e1 1 0)

/-- HOT_LIST_SCRUB: a line of the n-th row of the hot list is read (R367). -/
def execHotListScrub (stack : StackId) (n lo e0 e1 : Nat) (s : State) : Out :=
  let m := stack.val
  let k := s.stack m
  match k.hot[n]? with
  | none => .next s
  | some row =>
    let pa := paOf m (row / 2 ^ 24) (row / 2 ^ 20 % 16) (row % 2 ^ 16 * 256 + row / 2 ^ 16 % 16 * 16 + lo)
    let early := match mfind (16 * row + lo) k.hotAt with
      | some c => decide ((s.cyc - c).toNat < hotCycles)
      | none => false
    if decide (16 ≤ lo) || early || lineHeld s k pa || k.remapping.contains row then .next s
    else .next ((s.modStack m (fun k => { k with hotAt := mset (16 * row + lo) s.cyc k.hotAt })).eccRead m pa e0 e1 2 0)

/-- Does a request that stands before the copy of a row still have to be performed (R369)? -/
def copyWaits (s : State) (k : Stack) (row : Nat) : Bool :=
  k.queues.any (fun q => q.2.any (fun r => r.ahead && rowNo r.pa = row && (!r.served || dramOwner s r.own)))

/-- ROW_REMAP_DONE: the copy of a retired row ends, behind the requests that stood before it, each of its 16 lines read with so many
symbols in error in its halves and corrected; the spare stands for it with score 0 (R364, R367, R369). -/
def execRowRemapDone (copy : RowCopy) (s : State) : Out :=
  let m := copy.stack.val
  match (s.stack m).remapping with
  | [] => .next s
  | row :: rest =>
    let line := fun (lo : Nat) => paOf m (row / 2 ^ 24) (row / 2 ^ 20 % 16) (row % 2 ^ 16 * 256 + row / 2 ^ 16 % 16 * 16 + lo)
    if copyWaits s (s.stack m) row then .next s
    else
      let s := each ((List.range 16).zip copy.errs) (fun x s => s.eccRead m (line x.1) x.2.1 x.2.2 3 0) s
      .next ((s.modStack m (fun k => { k with
        remapping := rest
        scores := mdel row k.scores
        hot := k.hot.filter (· ≠ row)
        spares := mmod (bankNo row) 0 (· + 1) k.spares })).postMemErr m (rowFirst m row) 4 3 0 0)

/-- SCORE_HALVING: every 24 hours the scores of a stack are halved, after the additions of the same cycle (R367, R369). The passing of time
does the same on each such cycle. -/
def execScoreHalving (stack : StackId) (s : State) : Out :=
  .next (if s.cyc.toNat / dayCycles * dayCycles ≤ (s.stack stack.val).halvedAt.toNat then s
    else s.modStack stack.val (fun k => { k with halving := true, halvedAt := s.cyc }))

/-! ## Fabric cycles (R407, R408, R411, R412) -/

/-- A request whose last flit a router has ejected: at its home it takes its place, at a peer port it leaves in frames. -/
def State.reached (s : State) (f : Flit) : State :=
  if isResponse f.typ || !s.fab.clear f.msg then s else (s.reachHome f.msg.1 f.msg.2).sendFrames f.msg.1

/-- ROUTER_PORT_ASSIGNMENT: one fabric cycle of a plane (R407); tile data stands at its destination until its entry takes it (R401), requests
take their place at their home as their last flits come (R412), and flits that reach age 1,024 are counted (R408). -/
def execRouterPortAssignment (plane : Fin 4) (s : State) : Out :=
  let p := plane.val
  let order := (mget p [] s.fab.flight).foldl (fun l f => insertFlit f l) []
  let a := order.foldl Assign.step { moved := [], out := [], taken := [], defl := s.fab.defl }
  let (a, kept, inj) := (mget p [] s.fab.waiting).foldl (takeIn s p) (a, [], s.fab.injected)
  let s := { s with fab := { s.fab with
    flight := mset p a.moved s.fab.flight
    waiting := mset p kept s.fab.waiting
    ejected := a.out
    arrived := s.fab.arrived ++ a.out.filter (fun f => f.typ = flTileData)
    defl := a.defl
    injected := inj } }
  let s := each (List.range a.moved.length) (fun i s => s.countOld p i) s
  .next (each a.out (fun f s => s.reached f) s)

end Sys2Proof.Machine
end

