-- ==== Sys2Proof/Machine/Links.lean ====
section
/-!
DEFINITION. Peer links and remote requests: frames, link states, lost peers, the checks of a remote request at its target and
the answer at its issuer (spec/21 R413-R422, spec/08 R237, R238, spec/07 R197, R198, spec/19 R389).
-/

namespace Sys2Proof.Machine

/-! ## Frames (R413-R415) -/

/-- A frame discarded and counted (R413, PEERDROP). -/
def State.dropFrame (s : State) (n : Nat) : State := s.modPort n (fun p => { p with drop := p.drop + 1 })

/-- A cumulative acknowledgement: frames before ACK are done, which is progress; waiting frames follow (R414). -/
def State.takeAck (s : State) (n : Nat) (ack : Word32) : State :=
  (s.modPort n (fun p =>
    let left := p.unacked.filter (fun x => !(later 32 ack.toNat x.1))
    if left.length = p.unacked.length then p else { p with unacked := left, lastAck := s.cyc, timeouts := 0 })).pumpPort n

/-- A flit's header as an endpoint rewrites it for its own die grid (R413). -/
def rewritten (f : BitVec 64 × BitVec 512) : BitVec 64 × BitVec 512 := ((Config.ingressCoords f.1 ++ f.1.setWidth 55 : BitVec 64), f.2)

/-- An accepted data frame delivered here, or forwarded through the port that the node table gives (R415). -/
def State.deliverFrame (s : State) (n : Nat) (f : ShulosFrame) : State :=
  if s.dev.node = some f.dnode then s.modPort n (fun p => { p with delivered := p.delivered ++ f.flits.map rewritten })
  else
    match routeTo s f.dnode.toNat (Config.frameOffset f.flits) with
    | .out p => s.toPort p f.dnode f.flits
    | _ => s.dropFrame n

/-- SHULOS_FRAME_RECEIVE: bad frames are discarded and counted; ACK is taken; a data frame is accepted if the port expects
its number, and discarded otherwise (R413, R414, R397). -/
def execShulosFrameReceive (port : PortId) (f : ShulosFrame) (s : State) : Out :=
  let n := port.val
  let p := s.port n
  if !f.good || f.etype ≠ s.dev.etype || f.ver ≠ 1 || decide (2 < f.kind.toNat) || decide (64 < f.flits.length)
      || (f.kind = 0 && f.flits.isEmpty) then .next (s.dropFrame n)
  else if f.kind = 2 then .next s
  else if p.st ≠ LinkState.up then .next (s.dropFrame n)
  else
    let s := s.takeAck n f.ack
    if f.kind = 1 then .next s
    else if s.dev.node.isNone || f.seq ≠ p.rxSeq then .next (s.dropFrame n)
    else .next ((s.modPort n (fun p => { p with rxSeq := p.rxSeq + 1, ackDue := true })).deliverFrame n f)

/-- SHULOS_ACK_SEND: an acknowledgement-only frame for what has been accepted (R414). -/
def execShulosAckSend (port : PortId) (s : State) : Out :=
  .next (s.modPort port.val (fun p =>
    if p.st = LinkState.up && p.ackDue then
      { p with sent := p.sent ++ [p.frame s.dev.etype (selfNode s) 1 p.txSeq (selfNode s, [])], ackDue := false }
    else p))

/-- The unacknowledged frames from the first one on. -/
def Port.resend (p : Port) (etype self : BitVec 16) : Port :=
  let first := (p.txSeq - BitVec.ofNat 32 p.unacked.length).toNat
  let order := sortBy (fun q => (q + 2 ^ 32 - first) % 2 ^ 32) (p.unacked.map (·.1))
  { p with sent := p.sent ++ order.filterMap (fun q => (mfind q p.unacked).map (fun x => p.frame etype self 0 (BitVec.ofNat 32 q) x)) }

/-- A port that has left UP trains again, its loss detected (Table 21-5). -/
def Port.leaveUp (p : Port) (cyc : Word64) : Port := { p with st := .training, lostSince := some cyc, disagreements := 0, timeouts := 0 }

/-- After 20 µs with no progress in ACK every unacknowledged frame is sent again (R414); the sixteenth such timeout in a row takes the port
out of UP instead (R416). -/
def State.retransmit (s : State) (n : Nat) : State :=
  s.modPort n (fun p =>
    if p.st = LinkState.up && !p.unacked.isEmpty && decide (16000 ≤ (s.cyc - p.lastAck).toNat) then
      if p.timeouts < 15 then { p.resend s.dev.etype (selfNode s) with timeouts := p.timeouts + 1, lastAck := s.cyc }
      else p.leaveUp s.cyc
    else p)
/-- SHULOS_RETRANSMIT: a port that is due sends again; the passing of time does the same. -/
def execShulosRetransmit (port : PortId) (s : State) : Out := .next (s.retransmit port.val)

/-! ## Link states (R416, R270) -/

/-- The number of a state (Table 10-15). -/
def LinkState.code : LinkState → Nat
  | .down => 0 | .training => 1 | .exchange => 2 | .disagree => 3 | .up => 4

/-- The kind-3 event value of a port that has entered a state, to the management pavilion, by the bits of Table 10-15; the value that R270
works out, 0x0000_0100_0305_0300, agrees with no reading of them (log 69, DESIGN CHOICE: the table is followed). -/
def State.linkEvent (s : State) (n : Nat) : State :=
  let p := s.port n
  s.postEvent 128 (BitVec.ofNat 64 (3 * 2 ^ 8 + n * 2 ^ 16 + p.st.code * 2 ^ 24 + min p.disagreements 255 * 2 ^ 32
    + p.lview.toNat * 2 ^ 40 + p.rview.toNat * 2 ^ 48))

/-- 1 s after entering DOWN the link trains (Table 21-5). -/
def State.downTimer (s : State) (n : Nat) : State :=
  s.modPort n (fun p =>
    if p.st = LinkState.down && decide (800000000 ≤ (s.cyc - p.downSince).toNat) then { p with st := .training } else p)
/-- LINK_DOWN_TIMER: a port that is due trains; the passing of time does the same. -/
def execLinkDownTimer (port : PortId) (s : State) : Out := .next (s.downTimer port.val)

/-- LINK_TRAINED: the PHY has trained; the port sends its view (Table 21-5). -/
def execLinkTrained (port : PortId) (view : View) (s : State) : Out :=
  .next (s.modPort port.val (fun p =>
    if p.st = LinkState.training then
      { p with st := .exchange, lview := view, sent := p.sent ++ [p.frame s.dev.etype (selfNode s) 2 p.txSeq (selfNode s, [])] }
    else p))

/-- The link is UP: it is lost no longer, retry resumes and waiting frames leave (R416, R422). -/
def State.linkUp (s : State) (n : Nat) : State :=
  let up := fun (p : Port) => ({ p with st := .up, lostSince := none, lost := false, timeouts := 0, lastAck := s.cyc } : Port)
  ((s.modPort n (fun p => (up p).resend s.dev.etype (selfNode s))).pumpPort n).linkEvent n

/-- LINK_VIEW_RECEIVE: equal views bring the link UP; views that differ are a disagreement, after which the link trains again,
or goes DOWN from the third since it left UP (Table 21-5). -/
def execLinkViewReceive (port : PortId) (view : View) (s : State) : Out :=
  let n := port.val
  if (s.port n).st ≠ LinkState.exchange then .next s
  else
    let s := s.modPort n (fun p => { p with rview := view })
    if (s.port n).lview = view then .next (s.linkUp n)
    else
      let s := (s.modPort n (fun p => { p with st := .disagree, disagreements := p.disagreements + 1 })).linkEvent n
      if (s.port n).disagreements < 3 then .next (s.modPort n (fun p => { p with st := .training }))
      else .next ((s.modPort n (fun p => { p with st := .down, downSince := s.cyc })).linkEvent n)

/-- LINK_LOSS: the PHY is lost: the port leaves UP (Table 21-5). -/
def execLinkLoss (port : PortId) (s : State) : Out :=
  .next (s.modPort port.val (fun p => if p.st = LinkState.up then p.leaveUp s.cyc else p))

/-! ## The target of a remote request (R418, R419, R421) -/

/-- The window of a token, its rights, expiry and check bits (R243). -/
def tokWin (t : Word64) : Nat := nbits t.toNat 63 52
def tokRights (t : Word64) : Nat := nbits t.toNat 51 48
def tokExpiry (t : Word64) : Nat := nbits t.toNat 47 32

/-- The rights that a request needs: 1 read, 2 write, 4 atomic, 8 tile (R197, R203, R238, R421). -/
def needRights (k : RemoteKind) : Nat :=
  match k with
  | .load _ | .get _ => 1
  | .store .. => 2
  | .amo .. => 4
  | .put op _ _ => if op = .plain then 2 else 4
  | .tile .. | .tileP .. => 8
  | .tileWb .. => 10

/-- A tile's descriptor as its target reads it: the window's BASE added, its home here (R421). -/
def targetDesc (desc : List Byte) (base : Nat) : List Byte :=
  let d := readDesc desc
  let f := field desc 0x0A 2
  bytesOf 8 ((d.base + base) % 2 ^ 64) ++ slice desc 8 2 ++ bytesOf 2 (if nbit f 7 then f - 2 ^ 7 else f) ++ slice desc 12 52

/-- The tile that coordinates name for a pavilion and its key. -/
def targetTag (pav key : Nat) (desc : List Byte) (coord : Word64) : TTag :=
  { pav := pav % 128, key := key, tid := (readDesc desc).tid, c0 := nbits coord.toNat 15 0, c1 := nbits coord.toNat 31 16,
    c2 := nbits coord.toNat 47 32, c3 := nbits coord.toNat 63 48 }

/-- The bytes from the start of the window that a request reaches: its first and the first after it. -/
def reach (r : RemoteReq) : Nat × Nat :=
  let tile := fun (desc : List Byte) (c : Word64) =>
    let fp := footprint (readDesc desc) (targetTag 0 0 desc c)
    (fp.foldl (fun n f => min n f.1) (2 ^ 64), fp.foldl (fun n f => max n (f.1 + f.2)) 0)
  match r.kind with
  | .load d | .store d _ | .amo _ d _ => (r.off, r.off + wordBytes d)
  | .get n => (r.off, r.off + n)
  | .put _ bs _ => (r.off, r.off + bs.length)
  | .tile d c _ _ | .tileP d c | .tileWb d c _ _ => tile d c

/-- The kind of access that a request makes of its pages (Table 4-7). -/
def remoteAcc (k : RemoteKind) : AccKind :=
  match k with
  | .load _ | .get _ | .tile .. | .tileP .. => .read
  | .store .. | .amo .. => .store
  | .put .. | .tileWb .. => .write

/-- The size to which an address must be aligned. -/
def remoteAlign (k : RemoteKind) : Nat :=
  match k with
  | .load d | .store d _ | .amo _ d _ => wordBytes d
  | .put .addI64 _ _ => 8
  | .put .plain _ _ => 1
  | .put _ _ _ => 4
  | _ => 1

/-- Do the pages of a range pass Table 4-7? -/
def pagesPass (s : State) (pav va n : Nat) (acc : AccKind) : Bool :=
  (pagesOf va n).all (fun p => match xlateNow s (bridgeDie pav) pav p acc with | .ok _ _ => true | _ => false)

/-- The answer of the checks of Table 21-6 in their order: 0 and the window's base, or a failing code. -/
def ingressCheck (s : State) (r : RemoteReq) : BitVec 8 × Nat :=
  let t := r.token
  match s.pav? r.tpav.val with
  | none => (fTokenForged, 0)
  | some p =>
    let check := fun (key : BitVec 128) =>
      grantCheck key (tokWin t) (tokRights t) (tokExpiry t) r.snode.toNat r.spav.val = t.toNat % 2 ^ 32
    match grantWindow s r.tpav.val (tokWin t) with
    | none => (fTokenForged, 0)
    | some (base, len) =>
      let x := reach r
      let need := needRights r.kind
      if !check p.grantKey then (if p.prevKey.any (fun k => check k) then (fTokenExpired, 0) else (fTokenForged, 0))
      else if 0 < sext ((s.cyc.toNat / 2 ^ 20 + 2 ^ 16 - tokExpiry t) % 2 ^ 16) 16 then (fTokenExpired, 0)
      else if tokRights t &&& need ≠ need || decide (len < x.2) then (fTokenBounds, 0)
      else if (base + r.off) % remoteAlign r.kind ≠ 0 || !pagesPass s r.tpav.val (base + x.1) (x.2 - x.1) (remoteAcc r.kind) then
        (fRemoteFault, 0)
      else (0, base)

/-- The combination of a reduction put's element (Table 7-6). -/
def combine (op : PutOp) (old new : Nat) : Nat :=
  match op with
  | .plain => new
  | .addI32 => amoNew .add 4 old new
  | .addI64 => amoNew .add 8 old new
  | .minI32 => amoNew .min 4 old new
  | .maxI32 => amoNew .max 4 old new
  | .minF32 => (fminCell .f32 (BitVec.ofNat 32 old) (BitVec.ofNat 32 new)).toNat
  | .maxF32 => (fmaxCell .f32 (BitVec.ofNat 32 old) (BitVec.ofNat 32 new)).toNat

/-- The bytes of an element of a put. -/
def putSize : PutOp → Nat
  | .plain => 1
  | .addI64 => 8
  | _ => 4

/-- The bytes that a put leaves in the window: its own, or each element combined with the old one (R198, R419). -/
def combined (op : PutOp) (old new : List Byte) : List Byte :=
  if op = PutOp.plain then new
  else
    let n := putSize op
    (List.range (new.length / n)).flatMap (fun i => bytesOf n (combine op (field old (n * i) n) (field new (n * i) n)))

/-- Bytes written at a pavilion's addresses, line by line, as stores at their homes, not before some times. -/
def State.hostWrite (s : State) (pav va : Nat) (bs : List Byte) (lts : List Word32 := []) : State :=
  each (cuts va bs.length) (fun c s => s.writeVa (bridgeDie pav) pav (va + c.1) (slice bs c.1 c.2) lts) s

/-- The times that a write of an operation of this device to a window on it does not precede: the LTIME of the core that asked and, for an
atomic, its task's RELTS (Table 16-3). A peer's request carries none. -/
def askTimes (s : State) (op : Nat) : List Word32 :=
  match (mfind op s.rops).filter (fun o => o.port.isNone) with
  | none => []
  | some o =>
    let relts := match o.req.kind with
      | .amo .. => (s.tasks.filter (fun t => t.2.2.taskid = o.task && o.task ≠ 0)).map (fun t => t.2.2.relts)
      | _ => []
    (s.core o.core).ltime :: relts

/-- The line of an address of a pavilion poisoned by the poisoned bytes that it receives (R183). -/
def State.poisonVa (s : State) (pav va : Nat) : State :=
  match xlateNow s (bridgeDie pav) pav va .write with
  | .ok _ pa => s.setPoison (lineOf pa)
  | _ => s

/-- Does a range of a pavilion's memory meet poison? -/
def rangePoison (s : State) (pav va n : Nat) : Bool := vaPoison s .read (bridgeDie pav) pav va n

/-- A request that has passed performed: its answer, or the tile message that will give it (R418, R419, R421); the device's own
operation writes with the times of its core (R345; log 78, DEDUCED). -/
def State.performRemote (s : State) (r : RemoteReq) (op base : Nat) : State :=
  let s := s.settle (fun x => x.pay.isSome)
  let lts := askTimes s op
  let pav := r.tpav.val
  let va := base + r.off
  let old := fun (n : Nat) => (s.readVa (bridgeDie pav) pav va n).getD []
  let ans := fun (s : State) (code : BitVec 8) (ver : BitVec 16) (data : List Byte) =>
    s.answer { op := op, node := r.snode, pav := r.spav.val, code := code, ver := ver, data := data }
  let read := fun (n : Nat) => if rangePoison s pav va n then ans s fDataLoss 0 [] else ans s 0 0 (old n)
  let key := match s.pav? pav with | some p => p.key | none => 0
  let home := fun (d : List Byte) (g : TTag) => (tileHome s (bridgeDie pav) pav d g).getD 0
  let msg := fun (desc : List Byte) (c : Word64) (k : TMsgKind) (data : List Byte) =>
    let d := targetDesc desc base
    let g := targetTag pav key desc c
    s.tell { home := some (home d g), die := home d g / 8, core := 32 * (home d g / 8), pav := pav, key := key, tag := g, desc := d, kind := k,
             fill := op, way := none, slot := none, data := data, ts := none, remote := some (r.snode, r.spav.val) }
  match r.kind with
  | .load d => read (wordBytes d)
  | .get n =>
    match (cuts va n).find? (fun c => rangePoison s pav (va + c.1) c.2) with
    | some c => ans s fDataLoss 0 (old c.1)
    | none => ans s 0 0 (old n)
  | .store d v => ans (s.hostWrite pav va (bytesOf (wordBytes d) v.toNat) lts) 0 0 []
  | .amo o d v =>
    let n := wordBytes d
    if rangePoison s pav va n then ans s fDataLoss 0 []
    else ans (s.hostWrite pav va (bytesOf n (amoNew o n (natOf (old n)) (v.toNat % 2 ^ (8 * n)))) lts) 0 0 (old n)
  | .put o bs bad =>
    let s := s.hostWrite pav va (combined o (old bs.length) bs) lts
    ans (if bad then s.poisonVa pav (va + bs.length - 1) else s) 0 0 []
  | .tile desc c exact ver => msg desc c (.request exact (ver.map (·.toNat))) []
  | .tileP desc c =>
    let d := targetDesc desc base
    let g := targetTag pav key desc c
    ans s 0 (BitVec.ofNat 16 (pubOf (s.home (home d g)) g).1) []
  | .tileWb desc c ver data => msg desc c (.wbBegin ver.toNat) data

/-- A remote request at its target (R418); a frozen pavilion answers REMOTE_FAULT (R389). -/
def State.ingress (s : State) (r : RemoteReq) (op : Nat) : State :=
  let fail := fun (c : BitVec 8) =>
    s.answer { op := op, node := r.snode, pav := r.spav.val, code := c, ver := 0, data := [] }
  if (match s.pav? r.tpav.val with | some p => decide (p.st ≠ PState.running) | none => false) then fail fRemoteFault
  else
    let x := ingressCheck s r
    if x.1 = 0 then s.performRemote r op x.2 else fail x.1

/-- REMOTE_INGRESS: a request arrives from a peer (R418). -/
def execRemoteIngress (r : RemoteReq) (s : State) : Out :=
  if s.dev.node.isNone then .next s else .next (s.fresh.ingress r s.nextId)

/-! ## The answer at the issuer (R238, R197, R421) -/

/-- A TOKEN_FORGED rejection counted; four in one window are a violation (R389). -/
def State.countForged (s : State) (pav : Nat) : State :=
  match s.pav? pav with
  | none => s
  | some p =>
    let n := (if p.viocnt.2 = faultWindow s then p.viocnt.1.toNat else 0) + 1
    let s := s.modPav pav (fun p => { p with viocnt := (BitVec.ofNat 8 (min n 255), faultWindow s), forged := satInc p.forged })
    if n = 4 then s.violation pav else s

/-- The address operand of a scalar remote operation (R237). -/
def RemoteOp.addr (op : RemoteOp) : Word64 := BitVec.ofNat 64 (op.req.off + op.node * 2 ^ 36 + op.req.tpav.val * 2 ^ 52)

/-- The line and the write time of what an operation reached, where its window is on this device and on a COH page. -/
def ownTime (s : State) (op : RemoteOp) : Option (Nat × Word32) :=
  match op.port, grantWindow s op.req.tpav.val (tokWin op.req.token) with
  | none, some (base, _) =>
    match xlateNow s (bridgeDie op.req.tpav.val) op.req.tpav.val (base + op.req.off) .read with
    | .ok lf pa =>
      if lf.cls ≠ PClass.coh then none else some (lineOf pa, (tsGet (s.home (homeOf pa)) s.dev.floor (lineOf pa)).1)
    | _ => none
  | _, _ => none

/-- What an answer does at this device's own core when the window is here: its times reach the core (R345). -/
def State.ownTimes (s : State) (c l : Nat) (op : RemoteOp) : State :=
  match ownTime s op with
  | none => s
  | some (line, w) =>
    let s := s.modTask c l (fun t => if op.writes then { t with relts := tmax w t.relts, rdts := tmax w t.rdts } else t.sawTime w)
    if op.writes then (s.raiseLtime c w).modCore c (fun k => { k with l1 := k.l1.filter (fun x => !(x.coh && x.line = line)) })
    else s

/-- The stop of a task for a fault of its S stream whose record is given (R374, R422). -/
def State.remoteFault (s : State) (c l : Nat) (op : RemoteOp) (code : BitVec 8) (item : Bool) : State :=
  match s.task? c l with
  | none => s
  | some t =>
    let att := if item then itemRec 4 2 code op.region 0 (op.task.toNat + op.iaddr.toNat * 2 ^ 32) 0 op.addr else []
    let r := faultRec t .s code false 0 op.iaddr op.addr att
    let s := (s.stopStreams c l).modTask c l (fun t =>
      { (t.modSt .s (fun x => { x with faulted := true, feSince := none })) with
        stopped := true
        fault := code
        faddr := op.addr
        run := t.run.map (fun r => { r with stopped := true })
        stopAt := if t.stopped || t.saving.isSome then t.stopAt else s.cyc })
    s.postFault c l t { r with flags := if item then 0x10 else 0 } true

/-- A scalar operation answered: it acquires at its scope (R115, R237); its value, or its code raised when the result arrives; RST
has no result (R238). -/
def State.scalarAnswer (s : State) (x : Ctx) (tag : Nat) (op : RemoteOp) (code : BitVec 8) (data : List Byte) : State :=
  let c := x.core.val
  let l := x.slot.val
  let s := if code = 0 then s.ownTimes c l op else s
  let s := match s.task? c l with
    | some t => if code = 0 then s.acquireAt c t op.scope (((ownTime s op).map (·.2)).getD (s.core c).ltime) else s
    | none => s
  match op.req.kind with
  | .store .. => if code = 0 then s else s.remoteFault c l op code (decide (code = fPeerLost))
  | k =>
    let item : Bool := match k with | .amo .. => decide (code = fPeerLost) | _ => false
    if item then
      match (s.task? c l).bind (fun t => t.pend.find? (fun p => p.tag = tag)) with
      | some p => (s.deliver c l p 0 false).remoteFault c l op code true
      | none => s
    else
      let res : SRes := if code = 0 then .value (loadValue op.sx op.n (slice data 0 op.n)) else .remote code
      s.modTask c l (fun t => { t with pend := t.pend.map (fun p => if p.tag = tag then { p with res := res } else p) })

/-- A query that fails: its reader fails with the code (R421). -/
def State.failQuery (s : State) (id : Nat) (code : BitVec 8) : State :=
  match mfind id s.tmsgs with
  | none => s
  | some m =>
    let s := s.dropMsg id
    let va := m.first
    match m.kind with
    | .query (.fill c l _) => s.failV c l m.tag code va
    | .query (.store c l _) => s.failV c l m.tag code va
    | .query (.copy c i) => match s.slotId? c i with
      | some (n, x) => s.putSlot c n (x.fail code 0 va)
      | none => s
    | .query (.product c n) => match (s.core c).replay.find? (fun p => p.n = n) with
      | some p => s.failParked c p code va
      | none => s
    | .query (.prefetch c l n) => s.modTask c l (fun t => t.dropPre n)
    | .query (.report c l) =>
      let v := match s.line? m.die m.tag with | some (_, x) => (x.ver + 1) % 2 ^ 16 | none => 0
      s.modTask c l (fun t => { t with report := some (m.tag, v) })
    | _ => s

/-- An answered operation ended (R238, R197, R421). -/
def State.endRop (s : State) (id : Nat) (op : RemoteOp) (code : BitVec 8) (data : List Byte) (ver : BitVec 16) : State :=
  let s := { s with rops := mdel id s.rops }
  let s := if code = fTokenForged then s.countForged op.pav else s
  match op.owner with
  | .scalar x tag => s.scalarAnswer x tag op code data
  | .copy c i =>
    match s.slotId? c i with
    | none => s
    | some (n, x) =>
      let s := if code = 0 then s.ownTimes c x.ctx.slot.val op else s
      s.putSlot c n { x with stage := .back code data }
  | .fill f =>
    if code = 0 then s.sendTile (match op.port with | some p => portRouter p id | none => routerOf op.core) f ver.toNat none .peer data
    else
      match mfind f s.tfills with
      | some y => s.failFill f code (firstByte (readDesc y.desc) y.tag)
      | none => s
  | .query q => if code = 0 then s.answerQuery q ver.toNat else s.failQuery q code
  | .wb w =>
    match mfind w s.tmsgs with
    | none => s
    | some m => if code = 0 then s.wbDone w m none else s.endWb w m code m.first (code ≠ fDataLoss)

/-- REMOTE_RESPONSE: the answer to an operation arrives, after its request has left. One to this device's own windows is checked and performed here; one
that no route takes fails at once (R238, R415). -/
def execRemoteResponse (id : Nat) (code : BitVec 8) (data : List Byte) (ver : BitVec 16) (s : State) : Out :=
  match mfind id s.rops with
  | none => .next s
  | some op =>
    match op.port with
    | some p => if (s.port p).lost || !s.come id 0 then .next s else .next (s.endRop id op code data ver)
    | none =>
      match routeFor s op.pav op.node op.req.off with
      | .here =>
        match s.answers.find? (fun a => a.op = id && a.node = selfNode s) with
        | some a => .next (({ s with answers := s.answers.filter (fun b => b.op ≠ id) } : State).endRop id op a.code a.data a.ver)
        | none => if s.tmsgs.any (fun m => m.2.fill = id && m.2.remote.isSome) then .next s else .next (s.ingress op.req id)
      | .fail c => .next (s.endRop id op c [] 0)
      | .out _ => .next (s.endRop id op fRemoteFault [] 0)

/-! ## Lost peers (R422) -/

/-- The lowest port of a node's set. -/
def lowPort (s : State) (node : Nat) : Nat := ((nodePorts s node).getD []).headD 0

/-- Fences at system scope that wait on an operation to a lost node take its status (R227). -/
def State.loseFences (s : State) (id : Nat) (op : RemoteOp) : State :=
  match op.owner with
  | .scalar x _ => s.modTask x.core.val x.slot.val (fun t => { t with pend := t.pend.map (fun p => match p.res with
      | .fence .sys kinds acq rel lost =>
        if id < p.tag then
          let n := lowPort s op.node
          { p with res := .fence .sys kinds acq rel (some (match lost with | some m => min m n | none => n)) }
        else p
      | _ => p) })
  | _ => s

/-- The record of a put to a lost node, with its item record (R422). -/
def State.lostPut (s : State) (op : RemoteOp) : State :=
  match op.owner with
  | .copy .. =>
    if !op.writes then s
    else
      let e := (regionEff s op.pav op.region).getD noEff
      let item := itemRec 4 2 fPeerLost op.region 0 (op.task.toNat + op.iaddr.toNat * 2 ^ 32) 0 (BitVec.ofNat 64 op.req.off)
      let r : FRec := { code := fPeerLost, stream := 3, flags := 0x10, pav := op.pav, region := op.region, aux := 0, taskid := op.task,
                        iaddr := op.iaddr.toNat, faddr := BitVec.ofNat 64 op.req.off, attach := item }
      (s.postRecord e.fq r e.storm (2 ^ 20)).1
  | _ => s

/-- A port that has not returned within 2 ms of its loss is lost; requests to the nodes that it makes lost fail, and answers owed to them are
discarded (R422). -/
def State.peerLost (s : State) (n : Nat) : State :=
  match (s.port n).lostSince with
  | none => s
  | some c =>
    if (s.port n).lost || decide ((s.cyc - c).toNat < 1600000) then s
    else
      let s := s.modPort n (fun p => { p with lost := true })
      let gone := (s.dev.nodes.filter (fun e => nbit e.2.toNat n && (List.range 16).all (fun p => !nbit e.2.toNat p || (s.port p).lost))).map
        (fun e => e.1)
      let hit := s.rops.filter (fun r => r.2.port.isSome && gone.any (fun g => g.toNat = r.2.node))
      let s := each hit (fun r s => s.loseFences r.1 r.2) s
      let s := each hit (fun r s => (s.lostPut r.2).endRop r.1 r.2 fPeerLost [] 0) s
      { s with answers := s.answers.filter (fun a => !gone.contains a.node) }
/-- PEER_LOST: a port that is due is lost; the passing of time does the same. -/
def execPeerLost (port : PortId) (s : State) : Out := .next (s.peerLost port.val)

/-- The timers of the ports (R414, R416, R422), as a cycle is reached. -/
def State.portTimers (s : State) : State :=
  each (s.ports.map (·.1)) (fun n s => ((s.downTimer n).retransmit n).peerLost n) s

/-- The cycles until a timer of a port falls due. -/
def Port.dues (p : Port) (cyc : Nat) : List Nat :=
  (match p.lostSince with | some c => if p.lost then [] else [c.toNat + 1600000 - cyc] | none => [])
    ++ (if p.st = LinkState.down then [p.downSince.toNat + 800000000 - cyc] else [])
    ++ (if p.st = LinkState.up && !p.unacked.isEmpty then [p.lastAck.toNat + 16000 - cyc] else [])

end Sys2Proof.Machine
end

