-- ==== Sys2Proof/Decode.lean ====
section
/-!
DEFINITION. Decoding a stream's parcels into an instruction (spec/02 R29-R58), total and rejecting by name, and the
encoder written from the same tables. Words are natural numbers here: a field is (w / 2^lo) mod 2^n.
-/

namespace Sys2Proof

/-- Bits lo + n - 1 to lo of w (R3). -/
def fld (w lo n : Nat) : Nat := w / 2 ^ lo % 2 ^ n

/-- Bit lo of w as a flag. -/
def flag (w lo : Nat) : Bool := w / 2 ^ lo % 2 = 1

/-- A value under a check. -/
def req {α : Type} (b : Bool) (x : Option α) : Option α := if b then x else none

def srcOf (n : Nat) : SSrc := if n < 16 then .s (Fin.ofNat 16 n) else .q (Fin.ofNat 16 n)
def dstOf (n : Nat) : Option SDst :=
  if n < 16 then some (.s (Fin.ofNat 16 n)) else if n = 16 then some .none else none
def vdOf (n : Nat) : Option VReg := if n < 384 then some (Fin.ofNat 384 n) else none
def vsrcOf (n : Nat) : Option VSrc :=
  if n < 384 then some (.v (Fin.ofNat 384 n))
  else if n < 448 then none
  else if n = 448 then some .zero
  else if n = 449 then some .cellIdx
  else if n = 450 then some .rowIdx
  else if n = 451 then some .colIdx
  else if n < 460 then some (.a (Fin.ofNat 8 (n - 452)))
  else none
def etyOf : Nat → Option ETy
  | 0 => some .f32 | 1 => some .bf16 | 2 => some .f16 | 3 => some .i32 | 4 => some .i16
  | 5 => some .i8 | 6 => some .i6 | 7 => some .n32 | 8 => some .n16 | 9 => some .n8 | _ => none
def rmOf : Nat → Option RMode
  | 0 => some .rne | 1 => some .rz | 2 => some .rd | 3 => some .ru | 4 => some .rna | _ => none
def scopeOf : Nat → Option Scope
  | 0 => some .task | 1 => some .core | 2 => some .die | 3 => some .dev | 4 => some .sys | _ => none
def sizeOf2 (n : Nat) : Size := if n = 0 then .b1 else if n = 1 then .b2 else if n = 2 then .b4 else .b8
def hintOf (n : Nat) : Hint := if n = 0 then .none else if n = 1 then .pin else if n = 2 then .last else .strm
def amoOf : Nat → Option AmoOp
  | 0 => some .add | 1 => some .and | 2 => some .or | 3 => some .xor | 4 => some .min | 5 => some .max
  | 6 => some .minu | 7 => some .maxu | 8 => some .swap | _ => none
def condOf (n : Nat) : Cond :=
  if n = 0 then .eq else if n = 1 then .ne else if n = 2 then .lt else if n = 3 then .le
  else if n = 4 then .gt else if n = 5 then .ge else if n = 6 then .unord else .ord
def redOf : Nat → Option RedOp
  | 0 => some .sum | 1 => some .max | 2 => some .min | _ => none
def putOf : Nat → Option PutOp
  | 0 => some .plain | 1 => some .addI32 | 2 => some .addI64 | 3 => some .minI32 | 4 => some .maxI32
  | 5 => some .minF32 | 6 => some .maxF32 | _ => none
def mfmtOf (n : Nat) : MFmt := if n = 0 then .bf16 else if n = 1 then .f16 else if n = 2 then .i8 else .i6
def mctlOf (n : Nat) : MCtl := if n = 0 then .ovw else if n = 1 then .acc else if n = 2 then .rdy else .sub
def scaOf : Nat → Option ScaMode
  | 0 => some .scalar | 1 => some .row | 2 => some .col | _ => none

def aluOf (w : Nat) : Option Alu :=
  (dstOf (fld w 19 5)).map fun d => ⟨d, srcOf (fld w 14 5), srcOf (fld w 9 5), flag w 8⟩
def alu1Of (w : Nat) : Option Alu1 :=
  req (fld w 9 5 = 0) ((dstOf (fld w 19 5)).map fun d => ⟨d, srcOf (fld w 14 5), flag w 8⟩)
def immOf (w : Nat) : Option ImmOp :=
  (dstOf (fld w 19 5)).map fun d => ⟨d, srcOf (fld w 14 5), BitVec.ofNat 14 (fld w 0 14)⟩
def shiftOf (w : Nat) : Option ShiftImm :=
  req (fld w 6 8 = 0)
    ((dstOf (fld w 19 5)).map fun d => ⟨d, srcOf (fld w 14 5), BitVec.ofNat 6 (fld w 0 6)⟩)
def bfOf (w : Nat) : Option BField :=
  (dstOf (fld w 19 5)).map fun d =>
    ⟨d, srcOf (fld w 14 5), BitVec.ofNat 6 (fld w 8 6), BitVec.ofNat 7 (fld w 1 7)⟩
def brOf (w : Nat) : CmpBr := ⟨srcOf (fld w 19 5), srcOf (fld w 14 5), BitVec.ofNat 14 (fld w 0 14)⟩
def loadOf (w : Nat) : Option LoadOp :=
  (dstOf (fld w 19 5)).map fun d =>
    ⟨d, srcOf (fld w 14 5), sizeOf2 (fld w 12 2), flag w 11, Fin.ofNat 4 (fld w 9 2), BitVec.ofNat 9 (fld w 0 9)⟩
def storeOf (w : Nat) : Option StoreOp :=
  req (fld w 11 1 = 0)
    (some ⟨srcOf (fld w 19 5), srcOf (fld w 14 5), sizeOf2 (fld w 12 2), Fin.ofNat 4 (fld w 9 2),
      BitVec.ofNat 9 (fld w 0 9)⟩)
/-- Format SA without its op field: sizes 00 and 01 and scopes 5-7 are refused (Table 2-8). -/
def amoFOf (w : Nat) : Option AmoF :=
  req (fld w 4 1 = 1)
    ((dstOf (fld w 19 5)).bind fun d => (scopeOf (fld w 0 3)).map fun sc =>
      ⟨d, srcOf (fld w 14 5), srcOf (fld w 9 5), flag w 3, sc⟩)

/-- The compact forms (Table 2-7). -/
def decodeH (st : Stream) (p : Nat) : Option Instr :=
  let op := fld p 9 5
  let d : Fin 16 := Fin.ofNat 16 (fld p 5 4)
  let a := srcOf (fld p 0 5)
  if op = 1 then req (fld p 0 9 = 0) (some .nopC)
  else match st with
  | .s =>
    match op with
    | 2 => some (.addC d a) | 3 => some (.subC d a) | 4 => some (.andC d a) | 5 => some (.orC d a)
    | 6 => some (.addiC d (BitVec.ofNat 5 (fld p 0 5))) | 7 => some (.movC d a) | _ => none
  | .v => match op with
    | 2 => (vdOf (fld p 0 9)).map .vfeC | _ => none
  | .m => match op with
    | 2 => some (.mstamp (BitVec.ofNat 9 (fld p 0 9)))
    | 3 => req (fld p 0 3 = 0) (some (.mmaC (Fin.ofNat 64 (fld p 3 6)))) | _ => none
  | .c => none

/-- The scalar ALU group (Table 2-14). -/
def decodeAlu (w : Nat) : Option Instr :=
  match fld w 0 8 with
  | 0x00 => (aluOf w).map .add | 0x01 => (aluOf w).map .sub | 0x02 => (aluOf w).map .and
  | 0x03 => (aluOf w).map .or | 0x04 => (aluOf w).map .xor | 0x05 => (aluOf w).map .andn
  | 0x06 => (aluOf w).map .shl | 0x07 => (aluOf w).map .shr | 0x08 => (aluOf w).map .sar
  | 0x09 => (aluOf w).map .mul | 0x0A => (aluOf w).map .mulh | 0x0B => (aluOf w).map .mulhu
  | 0x0C => (aluOf w).map .div | 0x0D => (aluOf w).map .divu | 0x0E => (aluOf w).map .rem
  | 0x0F => (aluOf w).map .remu | 0x10 => (aluOf w).map .min | 0x11 => (aluOf w).map .max
  | 0x12 => (aluOf w).map .minu | 0x13 => (aluOf w).map .maxu | 0x14 => (aluOf w).map .slt
  | 0x15 => (aluOf w).map .sltu | 0x16 => (aluOf w).map .seq | 0x17 => (alu1Of w).map .clz
  | 0x18 => (alu1Of w).map .ctz | 0x19 => (alu1Of w).map .popc | _ => none

/-- SYSOP's functions (Table 2-15). -/
def decodeSysop (w : Nat) : Option Instr :=
  (dstOf (fld w 19 5)).bind fun d =>
    let a := srcOf (fld w 14 5)
    let b := srcOf (fld w 9 5)
    match fld w 0 9 with
    | 0 => some (.resume d a b) | 1 => some (.kill d a b) | 2 => some (.rqrel d a b) | 3 => some (.tlbinv d a b)
    | 4 => some (.snaprd d a b) | 5 => some (.snapwr d a b) | 6 => some (.keyret d a b) | 7 => some (.grant d a b)
    | _ => none

/-- AMO's operations (Table 2-15). -/
def decodeAmo (w : Nat) : Option Instr :=
  (amoFOf w).bind fun o =>
    match fld w 5 4 with
    | 0 => some (.amoadd o) | 1 => some (.amoand o) | 2 => some (.amoor o) | 3 => some (.amoxor o)
    | 4 => some (.amomin o) | 5 => some (.amomax o) | 6 => some (.amominu o) | 7 => some (.amomaxu o)
    | 8 => some (.amoswap o) | _ => none

/-- The scalar majors of class 01 (Table 2-15). -/
def decodeS (maj w : Nat) : Option Instr :=
  match maj with
  | 0x00 => decodeAlu w
  | 0x01 => (immOf w).map .addi | 0x02 => (immOf w).map .andi | 0x03 => (immOf w).map .ori
  | 0x04 => (immOf w).map .xori | 0x05 => (shiftOf w).map .shli | 0x06 => (shiftOf w).map .shri
  | 0x07 => (shiftOf w).map .sari | 0x08 => (immOf w).map .slti | 0x09 => (immOf w).map .sltiu
  | 0x0A => (dstOf (fld w 19 5)).map fun d => .lui d (BitVec.ofNat 19 (fld w 0 19))
  | 0x0C => if flag w 0 then (bfOf w).map .bfxs else (bfOf w).map .bfx
  | 0x0D => req (fld w 0 1 = 0) ((bfOf w).map .bfi)
  | 0x0E => some (.beq (brOf w)) | 0x0F => some (.bne (brOf w)) | 0x10 => some (.blt (brOf w))
  | 0x11 => some (.bge (brOf w)) | 0x12 => some (.bltu (brOf w)) | 0x13 => some (.bgeu (brOf w))
  | 0x14 => some (.call (BitVec.ofNat 24 (fld w 0 24)))
  | 0x15 => req (fld w 0 24 = 0) (some .ret)
  | 0x16 => req (fld w 19 5 = 16 && fld w 0 14 = 0) (some (.jr (srcOf (fld w 14 5))))
  | 0x17 => (loadOf w).map .ld | 0x18 => (storeOf w).map .st | 0x19 => (loadOf w).map .ldacq
  | 0x1A => (storeOf w).map .strel | 0x1B => decodeAmo w
  | 0x20 => req (fld w 0 10 = 0) ((scopeOf (fld w 21 3)).bind fun sc => (dstOf (fld w 10 5)).map fun d =>
      .fence sc (BitVec.ofNat 4 (fld w 17 4)) (flag w 16) (flag w 15) d)
  | 0x21 => req (fld w 15 9 = 0 && fld w 0 10 = 0) ((dstOf (fld w 10 5)).map .ifence)
  | 0x22 => req (fld w 15 9 = 0 && fld w 0 10 = 0) ((dstOf (fld w 10 5)).map .tfence)
  | 0x23 => req (fld w 0 14 = 0) ((dstOf (fld w 19 5)).map fun d => .fork d (srcOf (fld w 14 5)))
  | 0x24 => req (fld w 19 5 = 0 && fld w 0 14 = 0) (some (.join (srcOf (fld w 14 5))))
  | 0x25 => some (.spawn (Stream.ofCode (fld w 22 2)) (BitVec.ofNat 22 (fld w 0 22)))
  | 0x26 => req (fld w 0 24 = 0) (some .exit)
  | 0x27 => req (fld w 0 24 = 0) (some .yield)
  | 0x28 => req (fld w 0 14 = 0) ((dstOf (fld w 19 5)).map fun d => .launch d (srcOf (fld w 14 5)))
  | 0x29 => req (fld w 0 14 = 0) (some (.tdld (Fin.ofNat 32 (fld w 19 5)) (srcOf (fld w 14 5))))
  | 0x2A => req (fld w 0 14 = 0) (some (.tdver (Fin.ofNat 32 (fld w 19 5)) (srcOf (fld w 14 5))))
  | 0x2B => req (fld w 19 5 = 0 && fld w 0 9 = 0) (some (.swinit (srcOf (fld w 14 5)) (srcOf (fld w 9 5))))
  | 0x2C => req (fld w 19 5 = 0 && fld w 0 14 = 0) (some (.barr (srcOf (fld w 14 5))))
  | 0x2D => req (fld w 19 5 = 0 && fld w 0 9 = 0) (some (.hnotify (srcOf (fld w 14 5)) (srcOf (fld w 9 5))))
  | 0x2E => req (fld w 16 8 = 0) (some (.trap (BitVec.ofNat 16 (fld w 0 16))))
  | 0x2F => decodeSysop w
  | _ => none

/-- The scalar majors of class 10 (Tables 2-8 and 2-15). -/
def decodeSE (maj w e : Nat) : Option Instr :=
  match maj with
  | 0x0B => req (fld w 15 4 = 0)
      ((dstOf (fld w 19 5)).map fun d => .li d (BitVec.ofNat 31 (fld w 0 15 + fld e 0 16 * 2 ^ 15)))
  | 0x1C => req (fld w 5 4 = 0 && fld e 0 11 = 0) ((amoFOf w).map fun o => .cas o (srcOf (fld e 11 5)))
  | 0x1D => req (fld w 5 4 = 0 && fld w 9 5 = 0 && fld e 0 11 = 0)
      ((amoFOf w).map fun o => .rld o.d o.addr o.dword o.scope (srcOf (fld e 11 5)))
  | 0x1E => req (fld w 5 4 = 0 && fld w 19 5 = 16 && fld e 0 11 = 0)
      ((amoFOf w).map fun o => .rst o.addr o.val o.dword o.scope (srcOf (fld e 11 5)))
  | 0x1F => req (fld e 0 11 = 0) ((amoFOf w).bind fun o => (amoOf (fld w 5 4)).map fun op =>
      .ramo op o (srcOf (fld e 11 5)))
  | _ => none

/-- The common group (Table 2-13). -/
def decodeCommon (st : Stream) (maj w : Nat) : Option Instr :=
  let a0 : AReg := Fin.ofNat 8 (fld w 21 3)
  match maj with
  | 0x30 => req (fld w 0 24 = 0) (some .nop)
  | 0x31 => some (.br (BitVec.ofNat 24 (fld w 0 24)))
  | 0x32 =>
    if st = .s then req (fld w 14 5 = 0) (some (.bzS (srcOf (fld w 19 5)) (BitVec.ofNat 14 (fld w 0 14))))
    else req (fld w 14 7 = 0) (some (.bzA a0 (BitVec.ofNat 14 (fld w 0 14))))
  | 0x33 =>
    if st = .s then req (fld w 14 5 = 0) (some (.bnzS (srcOf (fld w 19 5)) (BitVec.ofNat 14 (fld w 0 14))))
    else req (fld w 14 7 = 0) (some (.bnzA a0 (BitVec.ofNat 14 (fld w 0 14))))
  | 0x34 =>
    req (fld w 22 2 = 1 || fld w 22 2 = 2)
      (let l := decide (fld w 22 2 = 2)
       let n := BitVec.ofNat 9 (fld w 13 9)
       if flag w 12 then
         if st = .s then req (fld w 0 7 = 0) (some (.loopRegS l n (srcOf (fld w 7 5))))
         else req (fld w 0 9 = 0) (some (.loopRegA l n (Fin.ofNat 8 (fld w 9 3))))
       else some (.loopImm l n (BitVec.ofNat 12 (fld w 0 12))))
  | 0x35 =>
    if fld w 22 2 = 0 then
      if st = .s then req (fld w 0 12 = 0) (some (.waitGenS (srcOf (fld w 17 5)) (srcOf (fld w 12 5))))
      else req (fld w 0 16 = 0) (some (.waitGenA (Fin.ofNat 8 (fld w 19 3)) (Fin.ofNat 8 (fld w 16 3))))
    else req (fld w 22 2 = 1 && fld w 0 16 = 0)
      (some (.waitTok (Stream.ofCode (fld w 20 2)) (Fin.ofNat 16 (fld w 16 4))))
  | 0x36 => req (fld w 0 18 = 0) (some (.tksend (Stream.ofCode (fld w 22 2)) (Fin.ofNat 16 (fld w 18 4))))
  | 0x37 => req (fld w 0 24 = 0) (some .halt)
  | 0x38 => req (fld w 16 8 = 0) (some (.beacon (BitVec.ofNat 16 (fld w 0 16))))
  | 0x39 =>
    if st = .s then req (fld w 10 9 = 0) ((dstOf (fld w 19 5)).map fun d => .mfsrS d (BitVec.ofNat 10 (fld w 0 10)))
    else req (fld w 10 11 = 0) (some (.mfsrA a0 (BitVec.ofNat 10 (fld w 0 10))))
  | 0x3A =>
    if st = .s then req (fld w 19 5 = 0 && fld w 10 4 = 0)
      (some (.mtsrS (srcOf (fld w 14 5)) (BitVec.ofNat 10 (fld w 0 10))))
    else req (fld w 21 3 = 0 && fld w 10 8 = 0)
      (some (.mtsrA (Fin.ofNat 8 (fld w 18 3)) (BitVec.ofNat 10 (fld w 0 10))))
  | 0x3B =>
    if st = .s then req (fld w 0 14 = 0)
      (some (.awr (Stream.ofCode (fld w 22 2)) (Fin.ofNat 8 (fld w 19 3)) (srcOf (fld w 14 5))))
    else req (fld w 0 18 = 0) (some (.amov a0 (Fin.ofNat 8 (fld w 18 3))))
  | 0x3C => req (st ≠ .s) (some (.aadd a0 (Fin.ofNat 8 (fld w 18 3)) (BitVec.ofNat 18 (fld w 0 18))))
  | 0x3D => req (st ≠ .s && fld w 16 3 = 0)
      (some (.acset a0 (Fin.ofNat 4 (fld w 19 2)) (BitVec.ofNat 16 (fld w 0 16))))
  | 0x3E => req (st ≠ .s && fld w 16 3 = 0)
      (some (.acinc a0 (Fin.ofNat 4 (fld w 19 2)) (BitVec.ofNat 16 (fld w 0 16))))
  | _ => none

/-- Format V2 with its d and a fields read (Table 2-9). -/
def v2Of (w : Nat) (f : VReg → VSrc → Option Instr) : Option Instr :=
  (vdOf (fld w 15 9)).bind fun d => (vsrcOf (fld w 6 9)).bind fun a => f d a

/-- The vector majors of class 01 (Table 2-16). -/
def decodeV (maj w : Nat) : Option Instr :=
  let n := fld w 0 6
  let kd : KReg := Fin.ofNat 8 (fld w 15 3)
  let ka : KReg := Fin.ofNat 8 (fld w 6 3)
  match maj with
  | 0x07 => req (fld w 18 6 = 0 && fld w 9 6 = 0)
      (match n with
       | 0 => some (.kand kd ka) | 1 => some (.kor kd ka) | 2 => some (.kxor kd ka) | 3 => some (.knot kd ka)
       | 4 => some (.kmov kd ka) | _ => none)
  | 0x09 => req (n = 0) (v2Of w fun d a => some (.vmov d a))
  | 0x0B => req (fld w 0 2 = 0)
      ((vsrcOf (fld w 12 9)).map fun v => .vext (Fin.ofNat 8 (fld w 21 3)) v (Fin.ofNat 1024 (fld w 2 10)))
  | 0x0C => v2Of w fun d a => some (.vrotr d a (Fin.ofNat 64 n))
  | 0x0D => req (n < 16) (v2Of w fun d a => some (.vrotc d a (Fin.ofNat 16 n)))
  | 0x0E => v2Of w fun d a => some (.vbcr d a (Fin.ofNat 64 n))
  | 0x0F => req (n < 16) (v2Of w fun d a => some (.vbcc d a (Fin.ofNat 16 n)))
  | 0x10 => v2Of w fun d a => (redOf (fld w 4 2)).bind fun op => (etyOf (fld w 0 4)).map fun t => .vredr d a op t
  | 0x11 => v2Of w fun d a => (redOf (fld w 4 2)).bind fun op => (etyOf (fld w 0 4)).map fun t => .vredc d a op t
  | 0x12 => req (n = 0) (v2Of w fun d a => some (.vtr16 d a))
  | 0x1C => req (fld w 6 9 = 0 && n < 2)
      ((vdOf (fld w 15 9)).map fun v => if n = 0 then .vfeEmpty v else .vfeFull v)
  | _ => none

/-- Format V3 (Table 2-9). -/
def v3Of (w e : Nat) : Option V3 :=
  (vdOf (fld w 15 9)).bind fun d => (vsrcOf (fld w 6 9)).bind fun a => (vsrcOf (fld e 7 9)).bind fun b =>
    (etyOf (fld e 1 4)).map fun t =>
      ⟨d, a, b, flag e 6, flag e 5, Fin.ofNat 8 (fld w 3 3), t, flag e 0⟩

/-- Format V3 with b and tb zero (R124). -/
def v3uOf (w e : Nat) : Option V3u :=
  req (fld e 7 9 = 0 && fld e 5 1 = 0)
    ((vdOf (fld w 15 9)).bind fun d => (vsrcOf (fld w 6 9)).bind fun a => (etyOf (fld e 1 4)).map fun t =>
      ⟨d, a, flag e 6, Fin.ofNat 8 (fld w 3 3), t, flag e 0⟩)

/-- Formats VM, VMX, VT and VA, with v read as a destination or as a source (R42, R45). -/
def vmemOf {α : Type} (vOf : Nat → Option α) (w e : Nat) : Option (VMem α) :=
  (vOf (fld w 15 9)).bind fun v => (etyOf (fld w 0 4)).map fun t =>
    ⟨v, Fin.ofNat 8 (fld w 12 3), Fin.ofNat 8 (fld w 9 3), Fin.ofNat 8 (fld w 6 3), Fin.ofNat 4 (fld w 4 2), t,
      BitVec.ofNat 16 e⟩

def vmemxOf {α : Type} (vOf : Nat → Option α) (w e : Nat) : Option (VMemX α) :=
  req (fld e 0 4 = 0)
    ((vOf (fld w 15 9)).bind fun v => (etyOf (fld w 0 4)).bind fun t => (vsrcOf (fld e 7 9)).map fun x =>
      ⟨v, Fin.ofNat 8 (fld w 12 3), Fin.ofNat 8 (fld w 9 3), Fin.ofNat 8 (fld w 6 3), Fin.ofNat 4 (fld w 4 2), t,
        x, Fin.ofNat 8 (fld e 4 3)⟩)

def vtileOf {α : Type} (vOf : Nat → Option α) (w e : Nat) : Option (VTile α) :=
  (vOf (fld w 15 9)).map fun v =>
    ⟨v, Fin.ofNat 32 (fld w 10 5), Fin.ofNat 8 (fld w 7 3), Fin.ofNat 16 (fld w 3 4), hintOf (fld w 1 2), flag w 0,
      Fin.ofNat 4 (fld e 14 2), Fin.ofNat 8 (fld e 11 3)⟩

/-- Format VA: all-bands with a nonzero band field is refused (R145). -/
def vaccOf {α : Type} (vOf : Nat → Option α) (w : Nat) : Option (VAcc α) :=
  req (fld w 0 2 = 0 && (fld w 6 1 = 0 || fld w 7 2 = 0))
    ((vOf (fld w 15 9)).bind fun v => (etyOf (fld w 2 4)).map fun t =>
      ⟨v, Fin.ofNat 64 (fld w 9 6), if flag w 6 then none else some (Fin.ofNat 4 (fld w 7 2)), t⟩)

/-- The vector majors of class 10 (Table 2-16). -/
def decodeVE (maj w e : Nat) : Option Instr :=
  let fn := fld w 0 3
  match maj with
  | 0x00 =>
    (match fn with
     | 0 => (v3Of w e).map .vadd | 1 => (v3Of w e).map .vsub | 2 => (v3Of w e).map .vmul
     | 3 => (v3Of w e).map .vmin | 4 => (v3Of w e).map .vmax | 5 => (v3uOf w e).map .vabs
     | 6 => (v3uOf w e).map .vneg | _ => (v3Of w e).map .vcpsgn)
  | 0x01 =>
    (match fn with
     | 0 => (v3Of w e).map .vfma | 1 => (v3Of w e).map .vfms | 2 => (v3Of w e).map .vfnma | _ => none)
  | 0x02 =>
    (match fn with
     | 0 => (v3uOf w e).map .vrcp | 1 => (v3uOf w e).map .vsqrt | 2 => (v3uOf w e).map .vrsqrt
     | 3 => (v3uOf w e).map .vexp2 | 4 => (v3uOf w e).map .vlog2 | _ => none)
  | 0x03 =>
    (match fn with
     | 0 => (v3Of w e).map .viadd | 1 => (v3Of w e).map .visub | 2 => (v3Of w e).map .vimul
     | 3 => (v3Of w e).map .vimin | 4 => (v3Of w e).map .vimax | 5 => (v3Of w e).map .vqadd
     | 6 => (v3Of w e).map .vqsub | _ => (v3Of w e).map .vimulh)
  | 0x04 =>
    (match fn with
     | 0 => (v3Of w e).map .vand | 1 => (v3Of w e).map .vor | 2 => (v3Of w e).map .vxor
     | 3 => (v3Of w e).map .vandn | 4 => (v3Of w e).map .vshl | 5 => (v3Of w e).map .vshr
     | 6 => (v3Of w e).map .vsar | _ => none)
  | 0x05 => req (fld w 18 6 = 0)
      ((vsrcOf (fld w 6 9)).bind fun a => (vsrcOf (fld e 7 9)).bind fun b => (etyOf (fld e 1 4)).map fun t =>
        .vcmp (condOf fn) (Fin.ofNat 8 (fld w 15 3)) a b (flag e 6) (flag e 5) (Fin.ofNat 8 (fld w 3 3)) t (flag e 0))
  | 0x06 => req (fn = 0 && fld e 0 5 = 0)
      ((vdOf (fld w 15 9)).bind fun d => (vsrcOf (fld w 6 9)).bind fun a => (vsrcOf (fld e 7 9)).map fun b =>
        .vsel d a b (flag e 6) (flag e 5) (Fin.ofNat 8 (fld w 3 3)))
  | 0x08 => req (fn = 0 && fld e 7 2 = 0 && fld e 5 1 = 0)
      ((vdOf (fld w 15 9)).bind fun d => (vsrcOf (fld w 6 9)).bind fun a => (etyOf (fld e 12 4)).bind fun sty =>
        (etyOf (fld e 1 4)).bind fun dty => (rmOf (fld e 9 3)).map fun rm =>
          .vcvt d a (flag e 6) (Fin.ofNat 8 (fld w 3 3)) sty dty rm (flag e 0))
  | 0x0A => (vdOf (fld w 15 9)).map fun d => .vmovi d (BitVec.ofNat 31 (fld w 0 15 + fld e 0 16 * 2 ^ 15))
  | 0x13 => req (fn = 0 && fld e 1 4 = 0)
      ((vdOf (fld w 15 9)).bind fun d => (vsrcOf (fld w 6 9)).bind fun a => (vsrcOf (fld e 7 9)).map fun b =>
        .vperm d a b (flag e 6) (flag e 5) (Fin.ofNat 8 (fld w 3 3)) (flag e 0))
  | 0x14 => (vmemOf vdOf w e).map .vld | 0x15 => (vmemOf vsrcOf w e).map .vst
  | 0x16 => (vmemxOf vdOf w e).map .vgath | 0x17 => (vmemxOf vsrcOf w e).map .vscat
  | 0x18 => req (fld e 0 11 = 0) ((vtileOf vdOf w e).map .vtld)
  | 0x19 => req (fld e 0 10 = 0) ((vtileOf vsrcOf w e).map fun o => .vtst o (flag e 10))
  | 0x1A => req (fld e 0 13 = 0) ((vaccOf vdOf w).bind fun o => (rmOf (fld e 13 3)).map fun rm => .vacvt o rm)
  | 0x1B => req (fld e 0 16 = 0) ((vaccOf vsrcOf w).map .vafil)
  | _ => none

/-- The matrix majors of class 01 (Table 2-17). -/
def decodeM (maj w : Nat) : Option Instr :=
  let bank : BankNo := Fin.ofNat 64 (fld w 18 6)
  let f2 := fld w 12 6
  let imm := BitVec.ofNat 12 (fld w 0 12)
  match maj with
  | 0x03 => req (fld w 15 3 = 0 && fld w 0 12 = 0) (some (.mres bank (Fin.ofNat 8 (fld w 12 3))))
  | 0x05 => req (f2 = 0) (some (.mrnm bank imm))
  | 0x06 => some (.mzero bank (Fin.ofNat 64 f2) imm)
  | 0x07 => req (f2 = 0) (some (.manch bank imm))
  | 0x08 => req (fld w 0 12 = 0) (some (.mcopy bank (Fin.ofNat 64 f2)))
  | 0x09 => req (fld w 1 11 = 0) (some (.aalloc bank (Fin.ofNat 64 f2) (flag w 0)))
  | 0x0A => req (fld w 0 12 = 0) (some (.afree bank (Fin.ofNat 64 f2)))
  | 0x0B => some (.aband bank (Fin.ofNat 64 f2) imm)
  | 0x0C => req (fld w 0 18 = 0) (some (.msync bank))
  | 0x0D => req (fld w 15 9 = 0) (some (.mstb (Fin.ofNat 8 (fld w 12 3)) imm))
  | 0x10 => req (fld w 0 21 = 0) (some (.gload (Fin.ofNat 8 (fld w 21 3))))
  | 0x11 => req (fld w 21 3 = 0 && fld w 7 8 = 0)
      (some (.gslot (Fin.ofNat 64 (fld w 15 6)) (BitVec.ofNat 7 (fld w 0 7))))
  | 0x12 => req (fld w 15 9 = 0 && fld w 0 4 = 0 && fld w 5 1 = 0)
      (some (.gxwin (Fin.ofNat 512 (fld w 6 9)) (flag w 4)))
  | 0x13 => req (fld w 4 20 = 0) (some (.geval (Fin.ofNat 16 (fld w 0 4))))
  | 0x14 => req (fld w 5 9 = 0)
      (some (.grow (Fin.ofNat 8 (fld w 21 3)) (Fin.ofNat 64 (fld w 15 6)) (flag w 14) (Fin.ofNat 32 (fld w 0 5))))
  | _ => none

/-- The W fields that MM, MG and MK share (Table 2-11). -/
def mopsOf (w fmt : Nat) (xv : Bool) : MOps :=
  ⟨Fin.ofNat 64 (fld w 18 6), Fin.ofNat 32 (fld w 13 5), Fin.ofNat 8 (fld w 10 3), Fin.ofNat 32 (fld w 5 5),
    Fin.ofNat 8 (fld w 2 3), mctlOf (fld w 0 2), mfmtOf fmt, xv⟩

/-- The matrix majors of class 10 (Table 2-17). -/
def decodeME (maj w e : Nat) : Option Instr :=
  match maj with
  | 0x00 => some (.mma (mopsOf w (fld e 6 2) (flag e 1)) (Fin.ofNat 16 (fld e 12 4)) (Fin.ofNat 16 (fld e 8 4))
      (hintOf (fld e 4 2)) (hintOf (fld e 2 2)) (flag e 0))
  | 0x01 => (vsrcOf (fld e 7 9)).map fun x =>
      .mmag (mopsOf w (fld e 5 2) (flag e 0)) x (hintOf (fld e 3 2)) (hintOf (fld e 1 2))
  | 0x02 => req (fld e 0 1 = 0)
      (some (.mmk (mopsOf w (fld e 2 2) (flag e 1)) (BitVec.ofNat 8 (fld e 8 8)) (Fin.ofNat 4 (fld e 6 2))
        (Fin.ofNat 4 (fld e 4 2))))
  | 0x04 => req (fld w 0 12 = 0 && fld e 0 5 = 0)
      ((vsrcOf (fld e 7 9)).bind fun x => (scaOf (fld e 5 2)).map fun m =>
        .msca (Fin.ofNat 64 (fld w 18 6)) (Fin.ofNat 64 (fld w 12 6)) x m)
  | _ => none

def swOf (w : Nat) : SwF := ⟨Fin.ofNat 8 (fld w 12 3), flag w 11⟩
def dimOf (e : Nat) : Dim2 := ⟨Fin.ofNat 8 (fld e 13 3), Fin.ofNat 8 (fld e 10 3), Fin.ofNat 8 (fld e 7 3)⟩

/-- The range and slot fields of the tile form (Table 7-8). -/
def tileOf (w e : Nat) : Option TileF :=
  req (fld w 15 5 = 0 && fld w 1 6 = 0)
    (let f : TRange → TileF := fun r => ⟨r, Fin.ofNat 32 (fld w 10 5), Fin.ofNat 8 (fld w 7 3), flag w 0⟩
     match fld w 22 2 with
     | 0 => req (fld w 20 2 = 0 && e = 0) (some (f .one))
     | 1 => some (f (.run (Fin.ofNat 4 (fld w 20 2)) (BitVec.ofNat 16 e)))
     | 2 => req (fld w 20 2 = 0 && e = 0) (some (f .all))
     | _ => none)

/-- The copy majors (Table 2-18), all of class 10. -/
def decodeC (maj w e : Nat) : Option Instr :=
  let r1 : AReg := Fin.ofNat 8 (fld w 21 3)
  let r2 : AReg := Fin.ofNat 8 (fld w 18 3)
  let r3 : AReg := Fin.ofNat 8 (fld w 15 3)
  let sw := swOf w
  let rd : Fin 4 := Fin.ofNat 4 (fld w 9 2)
  let e1 : AReg := Fin.ofNat 8 (fld e 13 3)
  let e2 : AReg := Fin.ofNat 8 (fld e 10 3)
  match maj with
  | 0x00 => req (fld w 0 9 = 0 && e = 0) (some (.cpy r1 r2 r3 sw rd))
  | 0x01 => req (fld w 0 9 = 0 && fld e 0 7 = 0) (some (.cpy2 r1 r2 r3 sw rd (dimOf e)))
  | 0x02 => req (fld w 2 7 = 0 && e = 0) (some (.cpyf r1 r2 r3 sw rd (sizeOf2 (fld w 0 2))))
  | 0x03 => req (fld w 1 8 = 0 && fld e 0 7 = 0)
      (some (if flag w 0 then .cpyxPack r1 r2 r3 sw rd (dimOf e) else .cpyxExp r1 r2 r3 sw rd (dimOf e)))
  | 0x04 => req (fld w 15 3 = 0 && e = 0 && (flag w 0 || fld w 18 3 = 0))
      (some (.cpyt r1 (if flag w 0 then some r2 else none) sw rd (Fin.ofNat 32 (fld w 4 5)) (flag w 3)
        (hintOf (fld w 1 2))))
  | 0x05 => req (fld w 15 6 = 0 && e = 0 && fld w 9 2 = 0 && fld w 1 1 = 0 && fld w 0 1 = 0)
      (some (.cpyw r1 sw (Fin.ofNat 32 (fld w 4 5)) (flag w 3) (flag w 2)))
  | 0x06 => req (fld w 5 4 = 0 && fld e 0 10 = 0)
      (if flag w 0 then (putOf (fld w 1 4)).map fun op => .cpyrPut r1 r2 r3 sw rd e1 e2 op
       else req (fld w 1 4 = 0) (some (.cpyrGet r1 r2 r3 sw rd e1 e2)))
  | 0x07 => req (fld w 1 8 = 0 && fld e 0 13 = 0)
      (some (if flag w 0 then .cpyhWr r1 r2 r3 sw rd e1 else .cpyhRd r1 r2 r3 sw rd e1))
  | 0x08 => (tileOf w e).map .tcpin | 0x09 => (tileOf w e).map .tcunp
  | 0x0A => (tileOf w e).map .tcinv | 0x0B => (tileOf w e).map .tcfls
  | 0x0C => req (fld w 3 15 = 0 && fld w 0 1 = 0 && fld e 0 10 = 0)
      (some (.tcitn r1 r2 (hintOf (fld w 1 2)) (BitVec.ofNat 6 (fld e 10 6))))
  | 0x0D => req (fld w 15 6 = 0 && fld w 1 6 = 0 && e = 0)
      (some (.tcqry r1 (Fin.ofNat 32 (fld w 10 5)) (Fin.ofNat 8 (fld w 7 3)) (flag w 0)))
  | 0x0E => req (fld w 11 1 = 1 && fld w 18 6 = 0 && fld w 0 11 = 0 && e = 0)
      (some (.swadd (Fin.ofNat 8 (fld w 12 3)) r3))
  | _ => none

/-- The form of a 32-bit word of class 01 with its major opcode. -/
def decodeW (st : Stream) (w : Nat) : Option Instr :=
  let maj := fld w 24 6
  if 0x30 ≤ maj then decodeCommon st maj w
  else match st with
  | .s => decodeS maj w
  | .v => decodeV maj w
  | .m => decodeM maj w
  | .c => none

/-- The form of a word of class 10 with its extension parcel. -/
def decodeE (st : Stream) (w e : Nat) : Option Instr :=
  let maj := fld w 24 6
  match st with
  | .s => decodeSE maj w e
  | .v => decodeVE maj w e
  | .m => decodeME maj w e
  | .c => decodeC maj w e

/-- Why a run of parcels is no instruction of a stream: each raises ILLEGAL_INSN (Table 2-5). -/
inductive DecErr where
  | truncated      -- a parcel of the instruction lies past the body's end
  | compact        -- no compact instruction of the stream
  | word           -- no class-01 instruction of the stream
  | extended       -- no class-10 instruction of the stream
  | field          -- a field value the tables leave unassigned
  deriving DecidableEq, Repr

/-- What is decoded if its fields are well formed. -/
def checked (st : Stream) (n : Nat) (err : DecErr) : Option Instr → Except DecErr (Instr × Nat)
  | none => .error err
  | some i => if i.wf st then .ok (i, n) else .error .field

/-- Decode the instruction that begins a run of parcels of stream `st`, with its length in parcels (R29, R30). -/
def decode (st : Stream) : List Parcel → Except DecErr (Instr × Nat)
  | [] => .error .truncated
  | p0 :: rest =>
    match p0.toNat / 2 ^ 14 with
    | 0 => checked st 1 .compact (decodeH st p0.toNat)
    | 1 =>
      match rest with
      | p1 :: _ => checked st 2 .word (decodeW st (p0.toNat * 2 ^ 16 + p1.toNat))
      | _ => .error .truncated
    | 2 =>
      match rest with
      | p1 :: p2 :: _ => checked st 3 .extended (decodeE st (p0.toNat * 2 ^ 16 + p1.toNat) p2.toNat)
      | _ => .error .truncated
    | _ =>
      match rest with
      | p1 :: _ => .ok (.blockHeaderEntry (BitVec.ofNat 30 (p0.toNat * 2 ^ 16 + p1.toNat)), 2)
      | _ => .error .truncated

/-! ## Encoding -/

def SSrc.enc : SSrc → Nat | .s n => n.val | .q n => 16 + n.val
def SDst.enc : SDst → Nat | .s n => n.val | .none => 16
def VSrc.enc : VSrc → Nat
  | .v n => n.val | .zero => 448 | .cellIdx => 449 | .rowIdx => 450 | .colIdx => 451 | .a n => 452 + n.val
def ETy.enc : ETy → Nat
  | .f32 => 0 | .bf16 => 1 | .f16 => 2 | .i32 => 3 | .i16 => 4 | .i8 => 5 | .i6 => 6 | .n32 => 7 | .n16 => 8 | .n8 => 9
def RMode.enc : RMode → Nat | .rne => 0 | .rz => 1 | .rd => 2 | .ru => 3 | .rna => 4
def Scope.enc : Scope → Nat | .task => 0 | .core => 1 | .die => 2 | .dev => 3 | .sys => 4
def Size.enc : Size → Nat | .b1 => 0 | .b2 => 1 | .b4 => 2 | .b8 => 3
def Hint.enc : Hint → Nat | .none => 0 | .pin => 1 | .last => 2 | .strm => 3
def AmoOp.enc : AmoOp → Nat
  | .add => 0 | .and => 1 | .or => 2 | .xor => 3 | .min => 4 | .max => 5 | .minu => 6 | .maxu => 7 | .swap => 8
def Cond.enc : Cond → Nat
  | .eq => 0 | .ne => 1 | .lt => 2 | .le => 3 | .gt => 4 | .ge => 5 | .unord => 6 | .ord => 7
def RedOp.enc : RedOp → Nat | .sum => 0 | .max => 1 | .min => 2
def PutOp.enc : PutOp → Nat
  | .plain => 0 | .addI32 => 1 | .addI64 => 2 | .minI32 => 3 | .maxI32 => 4 | .minF32 => 5 | .maxF32 => 6
def MFmt.enc : MFmt → Nat | .bf16 => 0 | .f16 => 1 | .i8 => 2 | .i6 => 3
def MCtl.enc : MCtl → Nat | .ovw => 0 | .acc => 1 | .rdy => 2 | .sub => 3
def ScaMode.enc : ScaMode → Nat | .scalar => 0 | .row => 1 | .col => 2
def bitOf (b : Bool) : Nat := if b then 1 else 0

/-- A compact parcel: opcode and body. -/
def encH (op body : Nat) : List Parcel := [BitVec.ofNat 16 (op <<< 9 + body)]
/-- The two parcels of a class-01 word. -/
def encW (maj body : Nat) : List Parcel :=
  [BitVec.ofNat 16 (2 ^ 14 + maj <<< 8 + body / 2 ^ 16), BitVec.ofNat 16 (body % 2 ^ 16)]
/-- The three parcels of a class-10 instruction. -/
def encE (maj body e : Nat) : List Parcel :=
  [BitVec.ofNat 16 (2 ^ 15 + maj <<< 8 + body / 2 ^ 16), BitVec.ofNat 16 (body % 2 ^ 16), BitVec.ofNat 16 e]

def encAlu (fn : Nat) (o : Alu) : List Parcel :=
  encW 0 (o.d.enc <<< 19 + o.a.enc <<< 14 + o.b.enc <<< 9 + bitOf o.w <<< 8 + fn)
def encAlu1 (fn : Nat) (o : Alu1) : List Parcel :=
  encW 0 (o.d.enc <<< 19 + o.a.enc <<< 14 + bitOf o.w <<< 8 + fn)
def encImm (maj : Nat) (o : ImmOp) : List Parcel := encW maj (o.d.enc <<< 19 + o.a.enc <<< 14 + o.imm.toNat)
def encShift (maj : Nat) (o : ShiftImm) : List Parcel := encW maj (o.d.enc <<< 19 + o.a.enc <<< 14 + o.amt.toNat)
def encBf (maj sg : Nat) (o : BField) : List Parcel :=
  encW maj (o.d.enc <<< 19 + o.a.enc <<< 14 + o.off.toNat <<< 8 + o.width.toNat * 2 + sg)
def encBr (maj : Nat) (o : CmpBr) : List Parcel := encW maj (o.a.enc <<< 19 + o.b.enc <<< 14 + o.off.toNat)
def encLoad (maj : Nat) (o : LoadOp) : List Parcel :=
  encW maj (o.d.enc <<< 19 + o.base.enc <<< 14 + o.size.enc <<< 12 + bitOf o.sx <<< 11 + o.rd.val <<< 9
    + o.off.toNat)
def encStore (maj : Nat) (o : StoreOp) : List Parcel :=
  encW maj (o.src.enc <<< 19 + o.base.enc <<< 14 + o.size.enc <<< 12 + o.rd.val <<< 9 + o.off.toNat)
def saBody (o : AmoF) (op : Nat) : Nat :=
  o.d.enc <<< 19 + o.addr.enc <<< 14 + o.val.enc <<< 9 + op <<< 5 + 2 ^ 4 + bitOf o.dword <<< 3 + o.scope.enc
def encV3 (maj fn : Nat) (o : V3) : List Parcel :=
  encE maj (o.d.val <<< 15 + o.a.enc <<< 6 + o.k.val <<< 3 + fn)
    (o.b.enc <<< 7 + bitOf o.ta <<< 6 + bitOf o.tb <<< 5 + o.ty.enc * 2 + bitOf o.zm)
def encV3u (maj fn : Nat) (o : V3u) : List Parcel :=
  encE maj (o.d.val <<< 15 + o.a.enc <<< 6 + o.k.val <<< 3 + fn)
    (bitOf o.ta <<< 6 + o.ty.enc * 2 + bitOf o.zm)
def encV2 (maj d a fn : Nat) : List Parcel := encW maj (d <<< 15 + a <<< 6 + fn)
def encVMem {α : Type} (maj v : Nat) (o : VMem α) : List Parcel :=
  encE maj (v <<< 15 + o.base.val <<< 12 + o.stride.val <<< 9 + o.k.val <<< 6 + o.rd.val <<< 4
    + o.ty.enc) o.off.toNat
def encVMemX {α : Type} (maj v : Nat) (o : VMemX α) : List Parcel :=
  encE maj (v <<< 15 + o.base.val <<< 12 + o.stride.val <<< 9 + o.k.val <<< 6 + o.rd.val <<< 4
    + o.ty.enc) (o.idx.enc <<< 7 + o.scale.val <<< 4)
def encVTile {α : Type} (maj v pub : Nat) (o : VTile α) : List Parcel :=
  encE maj (v <<< 15 + o.slot.val <<< 10 + o.coord.val <<< 7 + o.sub.val <<< 3 + o.hint.enc * 2
    + bitOf o.xv) (o.rd.val <<< 14 + o.k.val <<< 11 + pub <<< 10)
def encVAcc {α : Type} (maj v rm : Nat) (o : VAcc α) : List Parcel :=
  encE maj (v <<< 15 + o.bank.val <<< 9
    + (match o.band with | none => 2 ^ 6 | some b => b.val <<< 7) + o.ty.enc <<< 2) (rm <<< 13)
def mopsBody (o : MOps) : Nat :=
  o.bank.val <<< 18 + o.aslot.val <<< 13 + o.acoord.val <<< 10 + o.bslot.val <<< 5 + o.bcoord.val <<< 2
    + o.ctl.enc
def cpBody (d s l : AReg) (sw : SwF) (rd : Fin 4) (f : Nat) : Nat :=
  d.val <<< 21 + s.val <<< 18 + l.val <<< 15 + sw.sw.val <<< 12 + bitOf sw.use <<< 11 + rd.val <<< 9 + f
def dimE (o : Dim2) : Nat := o.cnt.val <<< 13 + o.dstr.val <<< 10 + o.sstr.val <<< 7
def encTile (maj : Nat) (o : TileF) : List Parcel :=
  let b := o.slot.val <<< 10 + o.coord.val <<< 7 + bitOf o.xv
  match o.range with
  | .one => encE maj b 0
  | .run l n => encE maj (2 ^ 22 + l.val <<< 20 + b) n.toNat
  | .all => encE maj (2 ^ 23 + b) 0
def loopBody (lvl2 : Bool) (len : BitVec 9) (src f : Nat) : Nat :=
  (if lvl2 then 2 else 1) <<< 22 + len.toNat <<< 13 + src <<< 12 + f

/-- The parcels of an instruction (R29); a device event or host command has none. -/
def encode : Instr → List Parcel
  | .blockHeaderEntry h => [BitVec.ofNat 16 (3 <<< 14 + h.toNat / 2 ^ 16), BitVec.ofNat 16 (h.toNat % 2 ^ 16)]
  | .addC d a => encH 2 (d.val <<< 5 + a.enc) | .subC d a => encH 3 (d.val <<< 5 + a.enc)
  | .andC d a => encH 4 (d.val <<< 5 + a.enc) | .orC d a => encH 5 (d.val <<< 5 + a.enc)
  | .addiC d i => encH 6 (d.val <<< 5 + i.toNat) | .movC d a => encH 7 (d.val <<< 5 + a.enc)
  | .nopC => encH 1 0
  | .add o => encAlu 0x00 o | .sub o => encAlu 0x01 o | .and o => encAlu 0x02 o | .or o => encAlu 0x03 o
  | .xor o => encAlu 0x04 o | .andn o => encAlu 0x05 o | .shl o => encAlu 0x06 o | .shr o => encAlu 0x07 o
  | .sar o => encAlu 0x08 o | .mul o => encAlu 0x09 o | .mulh o => encAlu 0x0A o | .mulhu o => encAlu 0x0B o
  | .div o => encAlu 0x0C o | .divu o => encAlu 0x0D o | .rem o => encAlu 0x0E o | .remu o => encAlu 0x0F o
  | .min o => encAlu 0x10 o | .max o => encAlu 0x11 o | .minu o => encAlu 0x12 o | .maxu o => encAlu 0x13 o
  | .slt o => encAlu 0x14 o | .sltu o => encAlu 0x15 o | .seq o => encAlu 0x16 o
  | .clz o => encAlu1 0x17 o | .ctz o => encAlu1 0x18 o | .popc o => encAlu1 0x19 o
  | .addi o => encImm 1 o | .andi o => encImm 2 o | .ori o => encImm 3 o | .xori o => encImm 4 o
  | .shli o => encShift 5 o | .shri o => encShift 6 o | .sari o => encShift 7 o
  | .slti o => encImm 8 o | .sltiu o => encImm 9 o
  | .lui d i => encW 0x0A (d.enc <<< 19 + i.toNat)
  | .li d i => encE 0x0B (d.enc <<< 19 + i.toNat % 2 ^ 15) (i.toNat / 2 ^ 15)
  | .bfx o => encBf 0x0C 0 o | .bfxs o => encBf 0x0C 1 o | .bfi o => encBf 0x0D 0 o
  | .beq o => encBr 0x0E o | .bne o => encBr 0x0F o | .blt o => encBr 0x10 o | .bge o => encBr 0x11 o
  | .bltu o => encBr 0x12 o | .bgeu o => encBr 0x13 o
  | .call f => encW 0x14 f.toNat | .ret => encW 0x15 0 | .jr a => encW 0x16 (16 <<< 19 + a.enc <<< 14)
  | .ld o => encLoad 0x17 o | .st o => encStore 0x18 o | .ldacq o => encLoad 0x19 o | .strel o => encStore 0x1A o
  | .amoadd o => encW 0x1B (saBody o 0) | .amoand o => encW 0x1B (saBody o 1) | .amoor o => encW 0x1B (saBody o 2)
  | .amoxor o => encW 0x1B (saBody o 3) | .amomin o => encW 0x1B (saBody o 4) | .amomax o => encW 0x1B (saBody o 5)
  | .amominu o => encW 0x1B (saBody o 6) | .amomaxu o => encW 0x1B (saBody o 7) | .amoswap o => encW 0x1B (saBody o 8)
  | .cas o c => encE 0x1C (saBody o 0) (c.enc <<< 11)
  | .rld d a dw sc t => encE 0x1D (saBody ⟨d, a, .s 0, dw, sc⟩ 0) (t.enc <<< 11)
  | .rst a v dw sc t => encE 0x1E (saBody ⟨.none, a, v, dw, sc⟩ 0) (t.enc <<< 11)
  | .ramo op o t => encE 0x1F (saBody o op.enc) (t.enc <<< 11)
  | .fence sc k q r d =>
    encW 0x20 (sc.enc <<< 21 + k.toNat <<< 17 + bitOf q <<< 16 + bitOf r <<< 15 + d.enc <<< 10)
  | .ifence d => encW 0x21 (d.enc <<< 10) | .tfence d => encW 0x22 (d.enc <<< 10)
  | .fork d a => encW 0x23 (d.enc <<< 19 + a.enc <<< 14) | .join a => encW 0x24 (a.enc <<< 14)
  | .spawn t f => encW 0x25 (t.code <<< 22 + f.toNat) | .exit => encW 0x26 0 | .yield => encW 0x27 0
  | .launch d a => encW 0x28 (d.enc <<< 19 + a.enc <<< 14)
  | .tdld t a => encW 0x29 (t.val <<< 19 + a.enc <<< 14) | .tdver t a => encW 0x2A (t.val <<< 19 + a.enc <<< 14)
  | .swinit a b => encW 0x2B (a.enc <<< 14 + b.enc <<< 9) | .barr a => encW 0x2C (a.enc <<< 14)
  | .hnotify a b => encW 0x2D (a.enc <<< 14 + b.enc <<< 9) | .trap c => encW 0x2E c.toNat
  | .resume d a b => encW 0x2F (d.enc <<< 19 + a.enc <<< 14 + b.enc <<< 9)
  | .kill d a b => encW 0x2F (d.enc <<< 19 + a.enc <<< 14 + b.enc <<< 9 + 1)
  | .rqrel d a b => encW 0x2F (d.enc <<< 19 + a.enc <<< 14 + b.enc <<< 9 + 2)
  | .tlbinv d a b => encW 0x2F (d.enc <<< 19 + a.enc <<< 14 + b.enc <<< 9 + 3)
  | .snaprd d a b => encW 0x2F (d.enc <<< 19 + a.enc <<< 14 + b.enc <<< 9 + 4)
  | .snapwr d a b => encW 0x2F (d.enc <<< 19 + a.enc <<< 14 + b.enc <<< 9 + 5)
  | .keyret d a b => encW 0x2F (d.enc <<< 19 + a.enc <<< 14 + b.enc <<< 9 + 6)
  | .grant d a b => encW 0x2F (d.enc <<< 19 + a.enc <<< 14 + b.enc <<< 9 + 7)
  | .nop => encW 0x30 0 | .br f => encW 0x31 f.toNat
  | .bzS a f => encW 0x32 (a.enc <<< 19 + f.toNat) | .bzA a f => encW 0x32 (a.val <<< 21 + f.toNat)
  | .bnzS a f => encW 0x33 (a.enc <<< 19 + f.toNat) | .bnzA a f => encW 0x33 (a.val <<< 21 + f.toNat)
  | .loopImm l n c => encW 0x34 (loopBody l n 0 c.toNat)
  | .loopRegS l n a => encW 0x34 (loopBody l n 1 (a.enc <<< 7))
  | .loopRegA l n a => encW 0x34 (loopBody l n 1 (a.val <<< 9))
  | .waitGenS a g => encW 0x35 (a.enc <<< 17 + g.enc <<< 12)
  | .waitGenA a g => encW 0x35 (a.val <<< 19 + g.val <<< 16)
  | .waitTok t n => encW 0x35 (2 ^ 22 + t.code <<< 20 + n.val <<< 16)
  | .tksend t n => encW 0x36 (t.code <<< 22 + n.val <<< 18)
  | .halt => encW 0x37 0 | .beacon t => encW 0x38 t.toNat
  | .mfsrS d i => encW 0x39 (d.enc <<< 19 + i.toNat) | .mfsrA d i => encW 0x39 (d.val <<< 21 + i.toNat)
  | .mtsrS a i => encW 0x3A (a.enc <<< 14 + i.toNat) | .mtsrA a i => encW 0x3A (a.val <<< 18 + i.toNat)
  | .awr t n a => encW 0x3B (t.code <<< 22 + n.val <<< 19 + a.enc <<< 14)
  | .amov d a => encW 0x3B (d.val <<< 21 + a.val <<< 18)
  | .aadd d a i => encW 0x3C (d.val <<< 21 + a.val <<< 18 + i.toNat)
  | .acset d l i => encW 0x3D (d.val <<< 21 + l.val <<< 19 + i.toNat)
  | .acinc d l i => encW 0x3E (d.val <<< 21 + l.val <<< 19 + i.toNat)
  | .vadd o => encV3 0 0 o | .vsub o => encV3 0 1 o | .vmul o => encV3 0 2 o | .vmin o => encV3 0 3 o
  | .vmax o => encV3 0 4 o | .vabs o => encV3u 0 5 o | .vneg o => encV3u 0 6 o | .vcpsgn o => encV3 0 7 o
  | .vfma o => encV3 1 0 o | .vfms o => encV3 1 1 o | .vfnma o => encV3 1 2 o
  | .vrcp o => encV3u 2 0 o | .vsqrt o => encV3u 2 1 o | .vrsqrt o => encV3u 2 2 o | .vexp2 o => encV3u 2 3 o
  | .vlog2 o => encV3u 2 4 o
  | .viadd o => encV3 3 0 o | .visub o => encV3 3 1 o | .vimul o => encV3 3 2 o | .vimin o => encV3 3 3 o
  | .vimax o => encV3 3 4 o | .vqadd o => encV3 3 5 o | .vqsub o => encV3 3 6 o | .vimulh o => encV3 3 7 o
  | .vand o => encV3 4 0 o | .vor o => encV3 4 1 o | .vxor o => encV3 4 2 o | .vandn o => encV3 4 3 o
  | .vshl o => encV3 4 4 o | .vshr o => encV3 4 5 o | .vsar o => encV3 4 6 o
  | .vcmp c d a b ta tb k t z =>
    encE 5 (d.val <<< 15 + a.enc <<< 6 + k.val <<< 3 + c.enc)
      (b.enc <<< 7 + bitOf ta <<< 6 + bitOf tb <<< 5 + t.enc * 2 + bitOf z)
  | .vsel d a b ta tb k =>
    encE 6 (d.val <<< 15 + a.enc <<< 6 + k.val <<< 3) (b.enc <<< 7 + bitOf ta <<< 6 + bitOf tb <<< 5)
  | .kand d a => encV2 7 d.val a.val 0 | .kor d a => encV2 7 d.val a.val 1 | .kxor d a => encV2 7 d.val a.val 2
  | .knot d a => encV2 7 d.val a.val 3 | .kmov d a => encV2 7 d.val a.val 4
  | .vcvt d a ta k st dt rm z =>
    encE 8 (d.val <<< 15 + a.enc <<< 6 + k.val <<< 3)
      (st.enc <<< 12 + rm.enc <<< 9 + bitOf ta <<< 6 + dt.enc * 2 + bitOf z)
  | .vmov d a => encV2 9 d.val a.enc 0
  | .vmovi d i => encE 0x0A (d.val <<< 15 + i.toNat % 2 ^ 15) (i.toNat / 2 ^ 15)
  | .vext i v n => encW 0x0B (i.val <<< 21 + v.enc <<< 12 + n.val <<< 2)
  | .vrotr d a n => encV2 0x0C d.val a.enc n.val | .vrotc d a n => encV2 0x0D d.val a.enc n.val
  | .vbcr d a n => encV2 0x0E d.val a.enc n.val | .vbcc d a n => encV2 0x0F d.val a.enc n.val
  | .vredr d a op t => encV2 0x10 d.val a.enc (op.enc <<< 4 + t.enc)
  | .vredc d a op t => encV2 0x11 d.val a.enc (op.enc <<< 4 + t.enc)
  | .vtr16 d a => encV2 0x12 d.val a.enc 0
  | .vperm d a b ta tb k z =>
    encE 0x13 (d.val <<< 15 + a.enc <<< 6 + k.val <<< 3)
      (b.enc <<< 7 + bitOf ta <<< 6 + bitOf tb <<< 5 + bitOf z)
  | .vld o => encVMem 0x14 o.v.val o | .vst o => encVMem 0x15 o.v.enc o
  | .vgath o => encVMemX 0x16 o.v.val o | .vscat o => encVMemX 0x17 o.v.enc o
  | .vtld o => encVTile 0x18 o.v.val 0 o | .vtst o p => encVTile 0x19 o.v.enc (bitOf p) o
  | .vacvt o rm => encVAcc 0x1A o.v.val rm.enc o | .vafil o => encVAcc 0x1B o.v.enc 0 o
  | .vfeEmpty v => encV2 0x1C v.val 0 0 | .vfeFull v => encV2 0x1C v.val 0 1 | .vfeC v => encH 2 v.val
  | .mma o sa sb ah bh tb =>
    encE 0 (mopsBody o) (sa.val <<< 12 + sb.val <<< 8 + o.fmt.enc <<< 6 + ah.enc <<< 4 + bh.enc <<< 2
      + bitOf o.xv * 2 + bitOf tb)
  | .mmaC b => encH 3 (b.val <<< 3)
  | .mmag o x ah bh =>
    encE 1 (mopsBody o) (x.enc <<< 7 + o.fmt.enc <<< 5 + ah.enc <<< 3 + bh.enc * 2 + bitOf o.xv)
  | .mmk o n la lb =>
    encE 2 (mopsBody o) (n.toNat <<< 8 + la.val <<< 6 + lb.val <<< 4 + o.fmt.enc <<< 2 + bitOf o.xv * 2)
  | .mres b a => encW 3 (b.val <<< 18 + a.val <<< 12)
  | .msca d s x m => encE 4 (d.val <<< 18 + s.val <<< 12) (x.enc <<< 7 + m.enc <<< 5)
  | .mrnm b k => encW 5 (b.val <<< 18 + k.toNat)
  | .mzero b n i => encW 6 (b.val <<< 18 + n.val <<< 12 + i.toNat)
  | .manch b i => encW 7 (b.val <<< 18 + i.toNat)
  | .mcopy d s => encW 8 (d.val <<< 18 + s.val <<< 12)
  | .aalloc b n w => encW 9 (b.val <<< 18 + n.val <<< 12 + bitOf w)
  | .afree b n => encW 0x0A (b.val <<< 18 + n.val <<< 12)
  | .aband b q o => encW 0x0B (b.val <<< 18 + q.val <<< 12 + o.toNat)
  | .msync b => encW 0x0C (b.val <<< 18)
  | .mstb a p => encW 0x0D (a.val <<< 12 + p.toNat)
  | .mstamp f => encH 2 f.toNat
  | .gload a => encW 0x10 (a.val <<< 21)
  | .gslot b n => encW 0x11 (b.val <<< 15 + n.toNat)
  | .gxwin v t => encW 0x12 (v.val <<< 6 + bitOf t <<< 4)
  | .geval l => encW 0x13 l.val
  | .grow a b o n => encW 0x14 (a.val <<< 21 + b.val <<< 15 + bitOf o <<< 14 + n.val)
  | .cpy d s l sw rd => encE 0 (cpBody d s l sw rd 0) 0
  | .cpy2 d s l sw rd m => encE 1 (cpBody d s l sw rd 0) (dimE m)
  | .cpyf d s l sw rd z => encE 2 (cpBody d s l sw rd z.enc) 0
  | .cpyxExp d s l sw rd m => encE 3 (cpBody d s l sw rd 0) (dimE m)
  | .cpyxPack d s l sw rd m => encE 3 (cpBody d s l sw rd 1) (dimE m)
  | .cpyt c v sw rd t x h =>
    encE 4 (cpBody c (match v with | some r => r | none => 0) 0 sw rd
      (t.val <<< 4 + bitOf x <<< 3 + h.enc * 2 + (match v with | some _ => 1 | none => 0))) 0
  | .cpyw c sw t x l => encE 5 (cpBody c 0 0 sw 0 (t.val <<< 4 + bitOf x <<< 3 + bitOf l <<< 2)) 0
  | .cpyrGet d s l sw rd t g => encE 6 (cpBody d s l sw rd 0) (t.val <<< 13 + g.val <<< 10)
  | .cpyrPut d s l sw rd t g op => encE 6 (cpBody d s l sw rd (op.enc * 2 + 1)) (t.val <<< 13 + g.val <<< 10)
  | .cpyhRd d s l sw rd w => encE 7 (cpBody d s l sw rd 0) (w.val <<< 13)
  | .cpyhWr d s l sw rd w => encE 7 (cpBody d s l sw rd 1) (w.val <<< 13)
  | .tcpin o => encTile 8 o | .tcunp o => encTile 9 o | .tcinv o => encTile 0x0A o | .tcfls o => encTile 0x0B o
  | .tcitn a c h w => encE 0x0C (a.val <<< 21 + c.val <<< 18 + h.enc * 2) (w.toNat <<< 10)
  | .tcqry d t c x => encE 0x0D (d.val <<< 21 + t.val <<< 10 + c.val <<< 7 + bitOf x) 0
  | .swadd s a => encE 0x0E (a.val <<< 15 + s.val <<< 12 + 2 ^ 11) 0
  | _ => []

/-! ## The opcode table's numbering -/

/-- The number of fixed bits the opcode table gives an instruction, where streams share words and it differs from eight:
it ranks the readings of one word in `readTableWord`. -/
def Instr.fixedBits : Instr → Nat
  | .mres .. => 12 | .mrnm .. | .manch .. => 14 | .mcopy .. => 20 | .aalloc .. => 19 | .afree .. => 20
  | .msync _ => 26 | .mstb .. => 17 | .gload _ => 29 | .gslot .. => 19 | .gxwin .. => 21 | .geval _ => 28 | .grow .. => 17
  | .kand .. | .kor .. | .kxor .. | .knot .. | .kmov .. => 26
  | .vmov .. | .vtr16 .. => 14 | .vext .. => 10 | .shli _ | .shri _ | .sari _ => 16 | .bfx _ | .bfxs _ | .bfi _ => 9
  | .mmaC _ => 10
  | .bzA .. | .bnzA .. => 15 | .loopRegA .. => 18 | .waitGenA .. => 26 | .mfsrA .. => 19 | .mtsrA .. => 19
  | .amov .. => 26 | .awr .. => 22 | .bzS .. | .bnzS .. => 13 | .loopRegS .. => 16 | .waitGenS .. => 22
  | .mfsrS .. => 17 | .mtsrS .. => 17
  | _ => 8

/-- The parcels of an instruction whose bits the opcode table numbers w: a compact row is one parcel, a 32-bit row a word
in two parcels, high half first, with an extension parcel of zero after it. -/
def tableParcels (nbits w : Nat) : List Parcel :=
  if nbits ≤ 16 then [BitVec.ofNat 16 w]
  else [BitVec.ofNat 16 (w / 2 ^ 16), BitVec.ofNat 16 w, BitVec.ofNat 16 (w / 2 ^ 32)]

/-- The reading with more fixed bits; the earlier stream's on a tie. -/
def pickReading (best : Option (Stream × Instr)) (st : Stream) (ps : List Parcel) : Option (Stream × Instr) :=
  match decode st ps with
  | .error _ => best
  | .ok (i, _) =>
    match best with
    | none => some (st, i)
    | some (st0, j) => if j.fixedBits < i.fixedBits then some (st, i) else some (st0, j)

/-- A table word names no stream: its reading is that of the stream in which it is most fully fixed. -/
def readTableWord (nbits w : Nat) : Option (Stream × Instr) :=
  let ps := tableParcels nbits w
  pickReading (pickReading (pickReading (pickReading none .s ps) .v ps) .m ps) .c ps

/-- The instruction the decoder reads from an instruction whose bits are w (numbered as spec/opcode_table.json does). -/
def decodeTableWord (nbits w : Nat) : Option Instr := (readTableWord nbits w).map (·.2)

end Sys2Proof
end

