-- ==== Sys2Proof/Machine/Drains.lean ====
section
/-!
DEFINITION. What an M change that is not ordered with an accumulator drain does to the drained cells, wherever stores have taken
them (spec/05 R148).
-/

namespace Sys2Proof.Machine

/-! ## Bytes in memory, caches and requests -/

/-- The bytes of a line with the bits of a write replaced by those of another: where a byte still holds what the first wrote. -/
def swapLine (x y : LineWrite) (data : List Byte) : List Byte :=
  tab data.length (fun i =>
    let b := data.getD i 0
    let m := BitVec.ofNat 8 (x.mask / 2 ^ (8 * i))
    if b &&& m = BitVec.ofNat 8 (x.data / 2 ^ (8 * i)) &&& m then (b &&& ~~~m) ||| (BitVec.ofNat 8 (y.data / 2 ^ (8 * i)) &&& m) else b)

/-- The bits that one write has put into a line replaced by those of another wherever the device holds the line. -/
def State.swapBits (s : State) (x y : LineWrite) : State :=
  let line := lineOf x.part.pa
  let put := swapLine x y
  let cached := fun (l : CLine) => if l.line = line then { l with data := put l.data } else l
  let sent := fun (r : Req) => if lineOf r.pa ≠ line then r else match r.kind with
    | .store m data rel => { r with kind := .store m (put data) rel }
    | .storeBits m data => { r with kind := .storeBits m (BitVec.ofNat 1024 (natOf (put (bytesOf 128 data.toNat)))) }
    | _ => r
  let held := fun (r : DReq) => if lineOf r.pa = line then { r with pay := r.pay.map (fun w => { w with data := put w.data }) } else r
  let mem := ((put (memReads (128 * line) 128 s.mem)).zip (List.range 128)).foldl
    (fun m z => if (touched (BitVec.ofNat 1024 x.mask)).getLsbD z.2 then memWrite (128 * line + z.2) z.1 m else m) s.mem
  { s with
    mem := mem
    cores := s.cores.map (fun (k : Nat × Core) => (k.1, { k.2 with l1 := k.2.l1.map cached }))
    dies := s.dies.map (fun (d : Nat × Die) => (d.1, { d.2 with dlc := d.2.dlc.map cached }))
    drams := s.drams.map (fun (m : Nat × Stack) => (m.1, { m.2 with
      queues := m.2.queues.map (fun (q : Nat × List DReq) => (q.1, q.2.map held)) }))
    reqs := s.reqs.map (fun (r : Nat × Req) => (r.1, sent r.2)) }

/-- The elements that a store of some cells has written replaced by those of other cells. -/
def State.swapEls (s : State) (ty : ETy) (els : List VEl) (old new : Cells) : State :=
  each ((storeWrites ty old els).zip (storeWrites ty new els)) (fun p s => s.swapBits p.1 p.2) s

/-! ## Bytes in tiles -/

/-- The elements of a sub-block under a mask as they lie in memory, cell by cell. -/
def tileVEls (s : State) (die pav : Nat) (d : Desc) (g : TTag) (sub : Nat) (mask : BitVec 1024) : List VEl :=
  (tileElems d g).filterMap (fun e =>
    if e.1 / 1024 = sub && mask.getLsbD (e.1 % 1024) then
      let va := elemAddr d g e.2.1 e.2.2
      some { cell := e.1 % 1024, va := va, shift := if d.layout = 3 then 6 * ((tensorYX d g e.2.1 e.2.2).2 % 4) else 0,
             parts := (cuts va (elemSpan d)).filterMap (fun c => match xlateNow s die pav ((va + c.1) % 2 ^ 64) .read with
               | .ok l pa => some { pa := pa, n := c.2, key := l.key, cls := l.cls }
               | _ => none) }
    else none)

/-- Tile data with the elements that still hold what some cells gave them replaced by those of other cells. -/
def swapTile (d : Desc) (sub : Nat) (mask : BitVec 1024) (old new : Cells) (data : List Byte) : List Byte :=
  let ty := tyOf d.ty
  let b := tyBytes ty
  ((List.range 1024).filter (fun i => mask.getLsbD i && decide (1024 * sub + i < d.rows * d.cols))).foldl (fun x i =>
    let at_ := b * (1024 * sub + i)
    if slice x at_ b = bytesOf b (cellTarn ty (old.getD i 0)) then splice x at_ (bytesOf b (cellTarn ty (new.getD i 0))) else x) data

/-- The same wherever the device holds the tile: in stores on their way, tarns, operand latches, write-backs and memory. -/
def State.swapTiles (s : State) (c id pav : Nat) (g : TTag) (desc : List Byte) (sub : Nat) (mask : BitVec 1024) (old new : Cells) : State :=
  let d := readDesc desc
  let put := fun (data : List Byte) => if data.isEmpty then data else swapTile d sub mask old new data
  let store := fun (x : VStore) => if x.id = id then { x with cells := maskCells mask false x.cells new } else x
  let line := fun (l : TLine) => if l.tag = g then
    { l with data := put l.data, zero := tileZero d (put l.data), spec := tileSpec d (put l.data) } else l
  let latch := fun (x : Latch) => if x.tag = g then { x with data := put x.data } else x
  let s := { s with
    cores := s.cores.map (fun (k : Nat × Core) => (k.1, { k.2 with
      slots := k.2.slots.map (fun t => (t.1, { t.2 with stores := t.2.stores.map store }))
      latch := k.2.latch.map latch }))
    dies := s.dies.map (fun (x : Nat × Die) => (x.1, { x.2 with tarn := x.2.tarn.map (fun l => (l.1, line l.2)) }))
    tmsgs := s.tmsgs.map (fun m => (m.1, if m.2.tag = g then { m.2 with data := put m.2.data } else m.2)) }
  if d.remote then s else s.swapEls (tyOf d.ty) (tileVEls s (dieOf c) pav d g sub mask) old new

/-! ## Unordered changes (R148) -/

/-- The cells that a drain left made unpredictable: those that its register still holds, and with the same values what stores have
taken of them to memory and to tiles (log 6). The drain is then forgotten. -/
def State.spoilDrain (s : State) (c l : Nat) (d : Drain) : State :=
  let new := tab 1024 (fun i => Config.freeCell (s.free + i))
  let s := ({ s with free := s.free + 1024 } : State).modTask c l (fun t => { t with
    v := if d.left = 0 then t.v else mset d.v (maskCells d.left false (t.vreg d.v) new) t.v
    drains := t.drains.filter (· ≠ d) })
  each d.stored (fun k s => match k with
    | .mem ty els old => s.swapEls ty els old new
    | .tile id pav g desc sub mask old => s.swapTiles c id pav g desc sub mask old new) s

/-- A change of a bank issued by the M stream of a slot: the drains of the bank that are not ordered before it, of every task of the
core that reaches the bank, become unpredictable. Those of an alias always are, since no token of theirs comes to the M stream that
allocated the bank (R148, R170). -/
def State.spoilBank (s : State) (c slot p : Nat) : State :=
  each (s.core c).slots (fun x s =>
    let seen := if x.1 = slot then x.2.mseen else 0
    each (x.2.drains.filter (fun d => d.bank = p && decide (seen ≤ d.serial))) (fun d s => s.spoilDrain c x.1 d) s) s

end Sys2Proof.Machine
end

