-- ==== Sys2Proof/Machine/Matrix.lean ====
section
/-!
DEFINITION. The matrix stream: stamped issue, changes to banks and their landing, products with their operand lookups, the
replay queue, K-runs, bank operations, allocation and bands, bank-ready tokens (spec/06 R150-R173, spec/12 R303-R306, R313,
spec/11 R287).
-/

namespace Sys2Proof.Machine

/-! ## Issue and stamps (R172, R173, R287) -/

/-- What a matrix instruction comes to when its stream reaches it: issued, over so many parcels (0: its run goes on), by itself or
behind a parked command; issued as a product that parks; not ready, its checks passed; not ready, and a check of Table 6-3 not yet
decided; issued and still reading memory; ended by a fault of Table 6-3; or ended by a fault that it meets after its issue. -/
inductive MGo where
  | issue (s : State) (len : Nat) (behind : Bool)
  | parks (s : State) (len : Nat)
  | wait (s : State)
  | hold (s : State)
  | begun (s : State)
  | done (s : State)
  | broke (s : State)

/-- The stamped cycle of the instruction that a stamp precedes (R173). -/
def stampAt (t : Task) (off : BitVec 9) : Nat :=
  let x := t.st .m
  (t.stbase.toNat + (x.reps.toNat - x.lc0.toNat) * t.stper.toNat + off.toNat) % 2 ^ 64

/-- The header bits STAMPED and MISSFAULT of the M stream's block (Table 2-2). -/
def stampedBlock (t : Task) : Bool := nbit (t.st .m).hdr.toNat 1
def missFault (t : Task) : Bool := nbit (t.st .m).hdr.toNat 0

/-- The stream moved past an issued instruction; a run that goes on stays where it is. -/
def State.mDone (s : State) (n : Nat) : State := if n = 0 then s else s.finish n

/-- The reading of a matrix instruction from memory begun, with the number of its requests and the cycle of its issue. -/
def State.mBegin (s : State) : State :=
  if s.curTask.any (·.mAsk.isNone) then s.fresh.modCur (fun t => { t with mAsk := some (s.nextId, s.cyc) }) else s
/-- It is over: its requests and their entries are gone. -/
def State.mEnd (s : State) : State :=
  match s.curTask.bind (·.mAsk) with
  | none => s
  | some (own, _) => ((s.undram own).freeEntry s.cur.core.val own).modCur (fun t => { t with mAsk := none })

/-- A matrix instruction, with the stamp that precedes it if there is one (Table 11-4). One that reads memory has issued on the cycle on
which it began to (Table 6-2), so a miss of its stamp is judged by that cycle, before the faults that it meets afterwards; a product
that parks counts its miss when it re-enters (log 42, DEDUCED). -/
def mInsn (s : State) (f : Task → MGo) : Out :=
  onTask s fun t =>
    match t.stamp with
    | none =>
      match f t with
      | .issue s n _ | .parks s n => s.mEnd.mDone n
      | .wait s | .hold s | .begun s => s
      | .done s | .broke s => s.mEnd
    | some off =>
      let at_ := stampAt t off
      if s.cyc.toNat < at_ then s
      else
        let late := decide (at_ < (t.mAsk.elim s.cyc (·.2)).toNat)
        let miss := s.mEnd.takeFault fSchedMiss 0
        let issued := fun (s : State) (past : Bool) (n : Nat) =>
          (s.mEnd.modCur (fun t => { (if past then t.missed else t) with stamp := none })).mDone n
        match f t with
        | .hold s' => s'
        | .done s' => s'.mEnd
        | .begun s' => if late && missFault t then miss else s'
        | .broke s' => if late && missFault t then miss else s'.mEnd
        | .wait s' => if missFault t then miss else s'.mEnd
        | .parks s' n => if missFault t then miss else issued s' false n
        | .issue s' n behind => if (behind || late) && missFault t then miss else issued s' (behind || late) n

/-- May an operation be stamped: is it a matrix instruction of majors 0x00-0x14, or the compact MMA (R173)? -/
def stampable : Instr → Bool
  | .mma .. | .mmaC .. | .mmag .. | .mmk .. | .mres .. | .msca .. | .mrnm .. | .mzero .. | .manch .. | .mcopy .. | .aalloc .. |
    .afree .. | .aband .. | .msync .. | .mstb .. | .gload .. | .gslot .. | .gxwin .. | .geval .. | .grow .. => true
  | _ => false

/-- An instruction that follows a stamp and cannot be stamped (R173). -/
def badStamp (t : Task) (k : Stream) (i : Instr) : Bool := k = .m && t.stamp.isSome && !stampable i

def execMstamp (off : BitVec 9) (s : State) : Out :=
  onTask s fun t =>
    let x := t.st .m
    let e := x.pc + 1
    let ends := fun (l : Option (BitVec 17 × BitVec 17)) => match l with | some (_, y) => y = e | none => false
    if !stampedBlock t || t.stamp.isSome || e = x.blkEnd || ends x.l1 || ends x.l2 then s.takeFault fIllegalInsn 0
    else (s.modCur (fun t => { t with stamp := some off })).finish 1

def execMstb (a : AReg) (per : BitVec 12) (s : State) : Out :=
  mInsn s fun t => .issue (s.modCur (fun u => { u with stbase := t.a .m a.val, stper := per })) 2 false

/-! ## Changes to banks (R148, R153-R155) -/

/-- The source bank that a change reads at its turn. -/
def Change.source : Change → Option Nat
  | .scale src _ _ => src
  | .copy src => src
  | _ => none

/-- Must a change wait for an earlier one to land (R154)? -/
def Pending.after (x y : Pending) : Bool :=
  x.bank = y.bank || x.op.source = some y.bank || y.op.source = some x.bank

/-- The fills of a bank that are not ordered before a change of the M stream (R148). -/
def Task.mixes (t : Task) (p seen free : Nat) : List (Nat × Nat × Nat) :=
  (t.bfills.filter (fun d => d.bank = p && decide (seen ≤ d.serial))).map (fun d => (d.row0, d.rows, free))

/-- A task that reaches a bank knows of the last change that its allocator has made (R148, R170). -/
def Task.noteChange (t : Task) (p n : Nat) : Task :=
  if t.bmap.any (fun b => match b.2 with
    | .own q => q = p
    | .alias_ q _ => q = p) then { t with mlast := mset p n t.mlast } else t

/-- The landing cycles of changes in the order of issue: one lands on the cycle after those that it must follow where its latency
would bring it no later (R154). One whose operands have not arrived has none yet. -/
def landOrder : List Pending → List Pending → List Pending
  | done, [] => done
  | done, x :: xs =>
    let after := done.foldl (fun m y => if !y.open_ && x.after y then max m (y.due.toNat + 1) else m) 0
    landOrder (done ++ [if x.open_ then x else { x with due := BitVec.ofNat 64 (max x.due.toNat after) }]) xs

/-- A change of a bank issued by a task, with the number n, to land so many cycles later. The drains and fills of every task that reaches
the bank may be unordered with it (R148, R170). -/
def State.change (s : State) (c slot p n blk : Nat) (open_ : Bool) (lat : Nat) (op : Change) : State :=
  let own := fun (l : Nat) (t : Task) => if l = slot then t.mseen else 0
  let s := s.spoilBank c slot p
  let mix := (s.core c).slots.flatMap (fun t => t.2.mixes p (own t.1 t.2) (s.free + 1024 * t.1))
  let x : Pending :=
    { n := n, due := BitVec.ofNat 64 (s.cyc.toNat + lat), blk := blk, bank := p, open_ := open_, mix := mix, op := op }
  let s := s.modCore c (fun k => { k with slots := k.slots.map (fun t => (t.1, t.2.noteChange p n)) })
  { (s.modTask c slot (fun t => { t with mq := landOrder [] (t.mq ++ [x]) })) with free := s.free + 4096 }

/-- A change of the issuing stream. -/
def State.mChange (s : State) (p lat : Nat) (op : Change) : State :=
  s.fresh.change s.cur.core.val s.cur.slot.val p s.nextId s.curSt.blkId false lat op

/-- A change by MSCA or MCOPY as one that needs no source: what it adds to, or puts into, each element (R148). -/
def Change.alone (op : Change) (src : Option Bank) (b : Bank) : Change :=
  match op with
  | .scale _ cells mode =>
    .rows ((bankScale (src.getD freshBank) mode cells { freshBank with anchor := b.anchor }).els) 16 false false false 0
  | .copy _ => .rows (src.getD freshBank).els 16 true false false 0
  | op => op

/-- Does a change read an unallocated bank, so that its landing sets the sticky bit (R157, R424)? -/
def Change.fromNone : Change → Bool
  | .scale none .. | .copy none => true
  | _ => false

/-- The landing of a change on its bank: on its cycle, after every earlier change that it must follow; elements that an unordered VAFIL
wrote keep the filled value or take the change (R148, R153, R154). -/
def State.landChange (s : State) (c l n : Nat) : State :=
  match s.task? c l with
  | none => s
  | some t =>
    let before := t.mq.takeWhile (fun x => x.n ≠ n || x.open_)
    match t.mq.drop before.length with
    | [] => s
    | x :: rest =>
      if s.cyc < x.due || before.any (fun y => x.after y) then s
      else
        let k := s.core c
        let b := k.bank x.bank
        let src : Option Bank := match x.op with
          | .scale none .. => some freshBank
          | op => op.source.map k.bank
        let b1 := applyChange src x.op b
        let els := x.mix.foldl (fun es (m : Nat × Nat × Nat) => mixEls m.1 m.2.1 m.2.2 b.els es) b1.els
        let y : Pending := { x with due := s.cyc, op := x.op.alone src b }
        let s := s.modBank c x.bank (fun _ => { b1 with els := els })
        s.modTask c l (fun t => { (if x.op.fromNone then t.setFlag statAccUnalloc else t) with
          mq := before ++ rest
          past := t.past ++ [y] })

/-- The first change of a task that is to land by now. -/
def nextLanding (s : State) (t : Task) : Option Nat :=
  ((t.mq.zip (List.range t.mq.length)).find? (fun p => !p.1.open_ && decide (p.1.due ≤ s.cyc)
    && !(t.mq.take p.2).any (fun y => p.1.after y))).map (fun p => p.1.n)

/-- A task's changes that are to land by now landed in order. -/
def State.landTask : Nat → Nat → Nat → State → State
  | 0, _, _, s => s
  | k + 1, c, l, s =>
    match (s.task? c l).bind (nextLanding s) with
    | some n => State.landTask k c l (s.landChange c l n)
    | none => s

/-- Every change of the device that is to land by now (R153). -/
def State.landAll (s : State) : State :=
  each s.cores (fun c s => each c.2.slots (fun x s => State.landTask x.2.mq.length c.1 x.1 s) s) s

/-- BANK_LANDING: a change lands on its cycle (Table 6-2). -/
def execBankLanding (core : CoreId) (slot : SlotId) (n : Nat) (s : State) : Out := .next (s.landChange core.val slot.val n)

/-- Has a task a change of one of some banks that has not landed? -/
def Task.pendingOn (t : Task) (banks : List Nat) : Bool :=
  t.mq.any (fun x => banks.contains x.bank || (match x.op.source with | some q => banks.contains q | none => false))

/-! ## Banks as instructions name them (Table 6-3, rows 2 and 3, R169) -/

/-- A bank that an instruction names: its own physical bank, none where it may be and is unallocated; or a fault. -/
inductive BankUse where
  | phys (p : Nat)
  | unalloc
  | bad (code : BitVec 8)
  deriving DecidableEq, Repr

def useBank (t : Task) (n : Nat) : BankUse :=
  match t.bank n with
  | some (.own p) => .phys p
  | some (.alias_ ..) => .bad fAccBand
  | none => .unalloc

/-- A bank that is written, not in rule mode where R169 says so. -/
def writeBank (t : Task) (k : Core) (n : Nat) (normal : Bool) : Nat ⊕ BitVec 8 :=
  match useBank t n with
  | .phys p => if normal && (k.bank p).rule then .inr fIllegalOperand else .inl p
  | .unalloc => .inr fAccUnalloc
  | .bad c => .inr c

/-- A bank that is only read: none where it is unallocated, which sets the sticky bit or faults (R157). -/
def readBank (t : Task) (k : Core) (n : Nat) : Option Nat ⊕ BitVec 8 :=
  match useBank t n with
  | .phys p => if (k.bank p).rule then .inr fIllegalOperand else .inl (some p)
  | .unalloc => if t.eff.accu then .inr fAccUnalloc else .inl none
  | .bad c => .inr c

/-- The sticky bit of an unallocated bank that was read. -/
def State.readFlag (s : State) (src : Option Nat) : State :=
  if src.isNone then s.modCur (fun t => t.setFlag statAccUnalloc) else s

/-- A fault of a matrix instruction's checks. -/
def mFault (s : State) (c : BitVec 8) : MGo := .done (s.takeFault c 0)

/-- The bank operations of a task that stand behind a parked command. -/
def Task.behindOps (t : Task) : Nat :=
  ((t.mq.zip (List.range t.mq.length)).filter (fun p =>
    !p.1.open_ && (match p.1.op with | .product .. => false | _ => true)
      && (t.mq.take p.2).any (fun y => y.open_ && p.1.after y))).length

/-- Entries of the replay queue in use: parked commands, and bank operations that stand behind one (R18, R155). -/
def replayUse (s : State) (c : Nat) : Nat :=
  (s.core c).replay.length + ((s.core c).slots.map (fun t => t.2.behindOps)).foldl (· + ·) 0

/-- A change issued by a bank operation: it waits while it would stand behind a parked command and the queue is full. -/
def bankOp (s : State) (t : Task) (ps : List Nat) (go : State → State) : MGo :=
  let behind := t.mq.any (fun y => y.open_ && ps.contains y.bank)
  if behind && decide (32 ≤ replayUse s s.cur.core.val) then .wait s else .issue (go s) 2 behind

/-! ## Bank operations (R164-R168) -/

/-- A list of banks that are written: row 2 of Table 6-3 for each of them comes before row 3 for any. -/
def writeBanks (t : Task) (ns : List Nat) : List Nat ⊕ BitVec 8 :=
  let us := ns.map (useBank t)
  if us.any (fun u => u = .unalloc) then .inr fAccUnalloc
  else
    match us.findSome? (fun u => match u with | .bad c => some c | _ => none) with
    | some c => .inr c
    | none => .inl (us.filterMap (fun u => match u with | .phys p => some p | _ => none))

/-- The slots of some banks unevaluated, with no flags and no count (R164). -/
def Task.unslot (t : Task) (ns : List Nat) : Task :=
  let g := t.gram
  let hit := fun (n : Nat) => ns.any (fun b => decide (g.base ≤ b) && b - g.base = n / 16)
  { t with gram := { g with slots := g.slots.filter (fun e => !hit e.1) } }

def execMzero (bank : BankNo) (n : Fin 64) (imm : BitVec 12) (s : State) : Out :=
  mInsn s fun t =>
    let ns := ((List.range (n.val + 1)).map (fun i => bank.val + i)).filter (fun i => decide (i < 64))
    match writeBanks t ns with
    | .inr c => mFault s c
    | .inl ps =>
      if 64 < bank.val + n.val + 1 then mFault s fIllegalOperand
      else bankOp s t ps (fun s => (each (ps.zip (List.range ps.length)) (fun p s => s.mChange p.1 (4 + 2 * p.2) (.zero imm)) s).modCur (fun t => t.unslot ns))

def execManch (bank : BankNo) (imm : BitVec 12) (s : State) : Out :=
  mInsn s fun t =>
    match writeBank t s.curCore bank.val true with
    | .inr c => mFault s c
    | .inl p => bankOp s t [p] (fun s => s.mChange p 2 (.anchor imm))

def execMrnm (bank : BankNo) (k : BitVec 12) (s : State) : Out :=
  mInsn s fun t =>
    match writeBank t s.curCore bank.val true with
    | .inr c => mFault s c
    | .inl p =>
      if t.pendingOn [p] then .hold s
      else if anchorOf (s.curCore.bank p) + k.toNat > 2047 then mFault s fIllegalOperand
      else if k = 0 then .issue s 2 false
      else .issue (s.mChange p 64 (.renorm k.toNat)) 2 false

def execMcopy (d src : BankNo) (s : State) : Out :=
  mInsn s fun t =>
    match writeBank t s.curCore d.val true, readBank t s.curCore src.val with
    | .inr c, _ => mFault s c
    | _, .inr c => mFault s c
    | .inl p, .inl q =>
      if t.pendingOn q.toList then .wait s
      else if q = some p then .issue s 2 false
      else bankOp s t [p] (fun s => s.mChange p 16 (.copy q))

def execMsca (d src : BankNo) (scale : VSrc) (mode : ScaMode) (s : State) : Out :=
  mInsn s fun t =>
    match writeBank t s.curCore d.val true, readBank t s.curCore src.val with
    | .inr c, _ => mFault s c
    | _, .inr c => mFault s c
    | .inl p, .inl q =>
      if !t.inWindow scale then mFault s fIllegalOperand
      else if !t.full scale then .wait (s.waitEmpty [scale])
      else
        match bankOp s t (p :: q.toList) (fun s => s.mChange p 40 (.scale q (t.vsrc scale) mode)) with
        | .issue s _ b => .issue s 3 b
        | x => x

/-! ## Bank-ready tokens (R171) -/

/-- May another bank-ready token be promised? -/
def Task.mayTok (t : Task) : Bool := decide (t.rtoks.length < 4)
def State.promise (s : State) (c slot n p : Nat) : State :=
  s.modTask c slot (fun t => { t with rtoks := t.rtoks ++ [{ after_ := n, bank := p, left := none }] })

/-- MSYNC counts as a read of its bank: an unallocated one sets the sticky bit, or faults under ACCU, and the token is sent
(log 53, DESIGN CHOICE). -/
def execMsync (bank : BankNo) (s : State) : Out :=
  mInsn s fun t =>
    let go := fun (p : Option Nat) => if !t.mayTok then MGo.wait s else
      .issue (((s.readFlag p).fresh).promise s.cur.core.val s.cur.slot.val s.nextId (p.getD 64)) 2 false
    match useBank t bank.val with
    | .bad c => mFault s c
    | .unalloc => if t.eff.accu then mFault s fAccUnalloc else go none
    | .phys p => go (some p)

/-- BANK_READY_TOKEN: from the cycle after its earlier changes have all landed, the first token is sent to each of the bank's owners whose FIFO has
room; the others get theirs when it has (R171). -/
def execBankReadyToken (core : CoreId) (slot : SlotId) (s : State) : Out :=
  let c := core.val
  match s.task? c slot.val with
  | none => .next s
  | some t =>
    let owed := fun (r : ReadyTok) => match r.left with
      | some o => o
      | none => match ((s.core c).bank r.bank).owners with
        | none => [slot.val]
        | some o => uniq o
    let room := fun (o : Nat) => match s.task? c o with | some u => u.room .m .v 1 | none => true
    let landed := fun (r : ReadyTok) => t.mq.all (fun x => x.bank ≠ r.bank || decide (r.after_ < x.n))
      && t.past.all (fun x => x.bank ≠ r.bank || decide (r.after_ < x.n) || decide (x.due < s.cyc))
    match t.rtoks.find? (fun r => landed r && (owed r).any room) with
    | none => .next s
    | some r =>
      let tok : Tok := { upto := r.after_ + 1, seen := (t.st .m).seen, bank := some r.bank, at_ := s.cyc }
      let s := each ((owed r).filter room) (fun o s => s.modTask c o (fun u => u.sendToks .m .v [tok])) s
      let rest := (owed r).filter (fun o => !room o)
      .next (s.modTask c slot.val (fun t => { t with
        rtoks := if rest.isEmpty then t.rtoks.filter (· ≠ r) else t.rtoks.map (fun x => if x = r then { r with left := some rest } else x) }))

/-! ## Allocation and bands (R170, R313) -/

def execAalloc (bank : BankNo) (n : Fin 64) (wait : Bool) (s : State) : Out :=
  mInsn s fun t =>
    let c := n.val + 1
    let ns := (List.range c).map (fun i => bank.val + i)
    if 64 < bank.val + c || ns.any (fun i => (t.bank i).isSome) then mFault s fIllegalOperand
    else
      let refuse := MGo.issue (s.modCur (fun t => t.setFlag statAllocF)) 2 false
      if t.eff.banks < (heldBanks t).length + c then refuse
      else if banksLeft s s.curCore < c then (if wait then .wait s else refuse)
      else
        let ps := s.curCore.freeBanks.take c
        let s := s.modCurCore (fun k => { k with banks := ps.foldl (fun m p => mset p freshBank m) k.banks })
        .issue (s.modCur (fun t => { t with bmap := (ns.zip ps).foldl (fun m x => mset x.1 (.own x.2) m) t.bmap })) 2 false

def execAfree (bank : BankNo) (n : Fin 64) (s : State) : Out :=
  mInsn s fun t =>
    let ns := (List.range (n.val + 1)).map (fun i => bank.val + i)
    let own := ns.filterMap t.ownBank
    if t.pendingOn own then .wait s
    else
      let s := s.modCurCore (fun k => { k with
        slots := k.slots.map (fun x => (x.1, dropAliases s.cur.slot.val own x.2))
        banks := own.foldl (fun m p => mset p freshBank m) k.banks
        freeing := k.freeing ++ own })
      .issue (s.modCur (fun t => { t with
        bmap := t.bmap.filter (fun b => !ns.contains b.1)
        mlast := t.mlast.filter (fun b => !own.contains b.1)
        drains := t.drains.filter (fun d => !own.contains d.bank)
        bfills := t.bfills.filter (fun d => !own.contains d.bank)
        past := t.past.filter (fun d => !own.contains d.bank) })) 2 false

/-- BANK_RELEASE: a freed bank, zeroed, is free again (R313). -/
def execBankRelease (core : CoreId) (bank : BankNo) (s : State) : Out :=
  .next (if (s.core core.val).freeing.contains bank.val then
    s.modCore core.val (fun k => { k with freeing := ldel bank.val k.freeing, banks := mset bank.val freshBank k.banks }) else s)

/-- ABAND: the number q of each other owner is checked as it stands before the bank's earlier aliases are removed (log 52, DESIGN
CHOICE: R170 gives no order). -/
def execAband (bank q : BankNo) (owners : BitVec 12) (s : State) : Out :=
  mInsn s fun t =>
    match writeBank t s.curCore bank.val false with
    | .inr c => mFault s c
    | .inl p =>
      let me := s.cur.slot.val
      let os := (List.range 4).map (fun b => nbits owners.toNat (3 * b + 2) (3 * b))
      let others := uniq (os.filter (· ≠ me))
      let fits := fun (o : Nat) => match s.task? s.cur.core.val o with
        | some u => u.pav = t.pav && u.cr.region = t.cr.region && (u.bank q.val).isNone
        | none => false
      if os.any (fun o => decide (3 < o)) || (others.isEmpty && q.val ≠ 0) || !others.all fits then mFault s fIllegalOperand
      else
        let give := fun (x : Nat × Task) =>
          let u := dropAliases me [p] x.2
          (x.1, if others.contains x.1 then { u with
            bmap := mset q.val (.alias_ p me) u.bmap
            mlast := match mfind p t.mlast with | some n => mset p n u.mlast | none => u.mlast } else u)
        let s := s.modCurCore (fun k => { k with slots := k.slots.map give })
        .issue (s.modBank s.cur.core.val p (fun b => { b with owners := if others.isEmpty then none else some os })) 2 false

/-! ## Operands (R151, R156, R160) -/

/-- Element n of a tile as an operand takes it: zero at or beyond R × C. -/
def opElem (d : Desc) (data : List Byte) (n : Nat) : BitVec 16 :=
  if n < d.rows * d.cols then BitVec.ofNat 16 (tileElem data (tyBytes (tyOf d.ty)) n) else 0

/-- The A operand by rows. -/
def Prod.aRows (p : Prod) (data : List Byte) : List (BitVec 16) :=
  let d := readDesc p.adesc
  let k := kOf p.fmt
  (List.range 16).flatMap (fun i => tab k (fun j => match p.idx with
    | none => opElem d data (16 * k * p.asub + k * i + j)
    | some rows => match rows.getD i none with | some x => opElem d data (k * x + j) | none => 0))

/-- The B operand by rows. -/
def Prod.bRows (p : Prod) (data : List Byte) : List (BitVec 16) :=
  let d := readDesc p.bdesc
  let k := kOf p.fmt
  (List.range k).flatMap (fun r => tab 64 (fun j => opElem d data (if p.tb then k * j + r else 64 * r + j)))

/-- What an operand's lookup finds: the latch's content, a line, a line in flight, a miss, or P to be asked for. -/
inductive OpLook where
  | latched (x : Latch)
  | line (way : Nat) (l : TLine)
  | shared (way : Nat)
  | miss (way : Option Nat)
  | ask

def lookOp (s : State) (c : Nat) (t : Task) (g : TTag) (need : TNeed) (known : List (TTag × Nat)) : OpLook :=
  let p := (known.find? (fun y => y.1 = g)).map (·.2)
  let tarn := match lookTile s (dieOf c) t g need p with
    | .hit w l => OpLook.line w l
    | .shared w => .shared w
    | .miss w => .miss w
    | .ask => .ask
  match (s.core c).latch.find? (fun x => x.tag = g) with
  | some x => if accepts t g need x.ver p = .yes then .latched x else tarn
  | none => tarn

/-- The content of an operand that is at hand. -/
def OpLook.data : OpLook → Option (List Byte)
  | .latched x => some x.data
  | .line _ l => some l.data
  | _ => none

/-- An operand read by a product that issues, or re-enters with its content taken when its fill landed; one that has waited for the tile's
fill does not promote it (R156, R297, R299, R303). -/
def State.readOp (s : State) (c slot : Nat) (g : TTag) (need : TNeed) (took waited : Bool) (o : OpLook) : State :=
  match s.task? c slot with
  | none => s
  | some t =>
    if took then
      ((match s.line? (dieOf c) g with
        | some (w, _) => s.modLine (dieOf c) w (fun l => { l with lastref := s.cyc.toNat })
        | none => s).modTask c slot (fun t => t.consume g))
    else match o with
    | .latched x =>
      let s := match s.line? (dieOf c) g with
        | some (w, l) => s.readTile c slot t w l need false false
        | none => s
      (s.modTask c slot (fun t => (t.noteTile g x.ver).consume g)).latchIn c x
    | .line w l =>
      ((s.readTile c slot t w l need (!waited) true).modTask c slot (fun t => t.consume g)).latchIn c
        { tag := g, ver := l.ver, data := l.data, spec := l.spec }
    | _ => s

/-- What a parked command does about an operand: a hit is referenced, a miss starts its fill; the numbers it waits for. -/
def State.seekOp (s : State) (c n : Nat) (t : Task) (g : TTag) (desc : List Byte) (need : TNeed) (waited : Bool) (o : OpLook) :
    State × List Nat :=
  let die := dieOf c
  match o with
  | .latched _ => (s, [])
  | .line w _ => (s.modLine die w (fun l => l.read { need with hint := if need.hint = .strm then .strm else .none } (!waited) s.cyc), [])
  | .shared w => (s, (s.tfills.filter (fun f => f.2.die = die && f.2.way = w && f.2.tag = g)).map (·.1))
  | .miss w =>
    let r := s.missTile c t g desc need w
    (r.1, r.2.toList)
  | .ask =>
    let r := s.askP c t g desc (.product c n)
    (r.1, [r.2])

/-- The two operands sought one after the other: the second lookup meets what the first has begun. -/
def State.seekBoth (s : State) (c n : Nat) (t : Task) (p : Prod) (known : List (TTag × Nat)) (waited : List TTag) : State × List Nat :=
  let a := s.seekOp c n t p.atag p.adesc p.aneed (waited.contains p.atag) (lookOp s c t p.atag p.aneed known)
  let b := a.1.seekOp c n t p.btag p.bdesc p.bneed (waited.contains p.btag) (lookOp a.1 c t p.btag p.bneed known)
  (b.1, a.2 ++ b.2)

/-- The change that a product with its operands makes. -/
def Prod.change (p : Prod) (a b : List Byte) : Change := .product p.fmt p.ovw p.neg (p.aRows a) (p.bRows b) p.tok

/-- The operands read by a product that issues, and its charge (Table 11-5); `took` the operands already taken, `waited` the tiles whose
fills it has waited for. -/
def State.readProd (s : State) (c slot : Nat) (t : Task) (p : Prod) (la lb : OpLook) (took : List Latch) (waited : List TTag) : State :=
  let had := fun (g : TTag) => took.any (fun x => x.tag = g)
  let one := fun (s : State) (g : TTag) (need : TNeed) (o : OpLook) => s.readOp c slot g need (had g) (waited.contains g) o
  (one (one s p.atag p.aneed la) p.btag p.bneed lb).charge t.cr.lacct.toNat (if p.fmt = .i6 then 240 else 320)

/-- The reassembly entries that the operands' fills need (R18). -/
def fillsNeeded (p : Prod) (la lb : OpLook) : Nat :=
  let one := fun (o : OpLook) => match o with | .miss _ => 1 | _ => 0
  if p.atag = p.btag then one la else one la + one lb

/-- The pages of a product's two tiles, A first (Table 6-3, row 5). -/
def prodPages (s : State) (die : Nat) (t : Task) (p : Prod) : Xls :=
  let one := fun (desc : List Byte) (g : TTag) =>
    let d := readDesc desc
    if d.remote then Xls.ok [] else xlateAll s die t.pav .read (footPages d g)
  match one p.adesc p.atag with
  | .ok _ => one p.bdesc p.btag
  | x => x

/-! ## What a product command names (R150-R152, R161) -/

/-- The element type of a product format (R152). -/
def fmtTy : MFmt → ETy
  | .bf16 => .bf16
  | .f16 => .f16
  | .i8 => .i8
  | .i6 => .i6

/-- The two descriptors that a product names, checked (Table 6-3, row 4). -/
def prodDescs (t : Task) (o : MOps) : (List Byte × List Byte) ⊕ BitVec 8 :=
  match t.desc o.aslot.val, t.desc o.bslot.val with
  | some a, some b =>
    if tyOf (readDesc a).ty ≠ fmtTy o.fmt || tyOf (readDesc b).ty ≠ fmtTy o.fmt then .inr fIllegalOperand else .inl (a, b)
  | _, _ => .inr fDescInvalid

/-- The product that the operand fields name, at given coordinate values (R150-R152). -/
def mkProd (t : Task) (o : MOps) (p : Nat) (ds : List Byte × List Byte) (ac bc : Word64) (asub : Nat) (ah bh : Hint) (tb : Bool)
    (idx : Option (List (Option Nat))) : Prod :=
  let da := readDesc ds.1
  let db := readDesc ds.2
  { bank := p, fmt := o.fmt, ovw := o.ctl = .ovw, neg := o.ctl = .sub, tok := o.ctl = .rdy, asub := asub, tb := tb, idx := idx,
    atag := tileTag t da ac, btag := tileTag t db bc, adesc := ds.1, bdesc := ds.2,
    aneed := needOf t da o.aslot.val o.xv ah da.rddef, bneed := needOf t db o.bslot.val o.xv bh db.rddef }

/-- What a run's record names: operand fields, steps, lanes. -/
structure RunOps where
  o : MOps
  n : Nat
  la : Nat
  lb : Nat
  deriving DecidableEq, Repr

/-- The MMK that a counter record's WORD and EXT encode. -/
def runOps (word : Word32) (ext : BitVec 16) : Option RunOps :=
  match decode .m [BitVec.ofNat 16 (word.toNat / 2 ^ 16), BitVec.ofNat 16 word.toNat, ext] with
  | .ok (.mmk o n la lb, _) => some { o := o, n := if n = 0 then 256 else n.toNat, la := la.val, lb := lb.val }
  | _ => none

/-- Step t of a run as a product (R161): overwriting on step 0 only, its token after the last step. -/
def stepProd (t : Task) (r : MRun) (x : RunOps) (p : Nat) (ds : List Byte × List Byte) : Prod :=
  let q := mkProd t x.o p ds (laneAdd r.acrd x.la r.step) (laneAdd r.bcrd x.lb r.step) 0 .none .none false none
  { q with ovw := q.ovw && r.step = 0, tok := q.tok && r.step + 1 = x.n }

/-! ## Products at issue (R152-R160) -/

/-- The product commands of a task that are issued and have not landed, those that stand parked among them; a step of a parked run is
issued when it re-enters, or parks by itself (R155, R400). -/
def Task.inFlight (t : Task) (k : Core) (slot : Nat) : Nat :=
  (t.mq.filter (fun x => match x.op with | .product .. => true | _ => false)).length
    + (k.replay.filter (fun p => p.slot = slot && !p.fresh)).length

/-- What became of a product that its stream reached. -/
inductive PGo where
  | fired (s : State) (n : Nat)
  | parked (s : State) (n : Nat)
  | wait (s : State)
  | hold (s : State)
  | done (s : State)

/-- A product parked: its place in its bank's order and its entry in the queue (R155, R305). -/
def State.parkProd (s : State) (c slot blk n : Nat) (iaddr : BitVec 17) (p : Prod) (run : Option MRun)
    (stamped late recovery : Bool) (waits behind : List Nat) : State :=
  let e : Parked :=
    { slot := slot, n := n, blk := blk, iaddr := iaddr, prod := p, run := run.map (fun r => { r with parked := true }),
      waits := waits, behind := behind, recovery := recovery, parkN := n, stamped := stamped, late := late, fresh := false, waited := [],
      took := [], known := [] }
  (s.change c slot p.bank n blk true 0 .token).modCore c (fun k => { k with replay := k.replay ++ [e] })

/-- The attachment of a fault of a run: its counter record, also of one that parks at a step (R162, R375; log 23). -/
def runAttach (r : Option MRun) : List Byte := match r with | some x => runRec x | none => []

/-- The tiles that a parked command names: those of its product, and of the later steps of its run (R155). -/
def Parked.tags (t : Task) (e : Parked) : List TTag :=
  match e.run.bind (fun r => (runOps r.word r.ext).map (fun x => (r, x))) with
  | none => [e.prod.atag, e.prod.btag]
  | some (r, x) => (List.range (x.n - r.step)).flatMap (fun i =>
      let q := stepProd t { r with step := r.step + i } x e.prod.bank (e.prod.adesc, e.prod.bdesc)
      [q.atag, q.btag])

/-- Does a failing page of an unstamped product command park it (R157, R386)? -/
def parksProd (t : Task) (stamped : Bool) : Bool := t.eff.recovery && !stamped

/-- A product or a step of a run by the issuing stream: its pages (row 5), then its place among the commands in flight, the
token that its command will send (`tok`), its operands. -/
def State.tryProd (s : State) (t : Task) (p : Prod) (run : Option MRun) (tok : Bool) : PGo :=
  let c := s.cur.core.val
  let slot := s.cur.slot.val
  let die := dieOf c
  let stamped := t.stamp.isSome || run.any (·.stamped)
  let x := t.st .m
  let full := decide (32 ≤ t.inFlight s.curCore slot) || (tok && !t.mayTok)
  match prodPages s die t p with
  | .miss va => .hold (startWalk s die t.pav va)
  | .bad code va =>
    let s' := dropFailed s die t.pav va
    if parksProd t stamped then
      if full || decide (32 ≤ replayUse s c) then .wait s
      else .parked ((s'.fresh.parkProd c slot x.blkId s.nextId x.pc p run stamped false true [] []).postOnly c slot
        { parkRec t .m code x.pc (BitVec.ofNat 64 va) with attach := runAttach run }) s.nextId
    else .done ((s'.modTask c slot (fun t => { t with run := run })).takeFaultOf c slot .m code true 0 x.pc (BitVec.ofNat 64 va)
      (runAttach run))
  | .ok _ =>
    let la := lookOp s c t p.atag p.aneed []
    let lb := lookOp s c t p.btag p.bneed []
    let behind := (s.curCore.replay.filter (fun e => e.slot = slot && (e.prod.bank = p.bank || (e.tags t).any
      (fun g => g = p.atag || g = p.btag)))).map (·.n)
    if full then .wait s
    else
      match la.data, lb.data, behind with
      | some a, some b, [] =>
        .fired ((s.fresh.readProd c slot t p la lb [] []).change c slot p.bank s.nextId x.blkId false 28 (p.change a b)) s.nextId
      | _, _, _ =>
        if 32 ≤ replayUse s c || 256 < s.curCore.reasm.length + fillsNeeded p la lb then .wait s
        else
          let r := s.fresh.seekBoth c s.nextId t p [] []
          .parked (r.1.parkProd c slot x.blkId s.nextId x.pc p run stamped t.stamp.isSome false r.2 behind) s.nextId

/-- A single product command, checked and issued; ctl 10 promises its token (R171). -/
def issueProd (s : State) (t : Task) (p : Prod) (len : Nat) : MGo :=
  let tok := fun (s : State) (n : Nat) => if p.tok then s.promise s.cur.core.val s.cur.slot.val n p.bank else s
  match s.tryProd t p none p.tok with
  | .fired s n => .issue (tok s n) len false
  | .parked s n => .parks (tok s n) len
  | .wait s => .wait s
  | .hold s => .hold s
  | .done s => .done s

/-- MMA, compact MMA and MMAG: the checks of Table 6-3 in order, then the wait for the index register, then the product. -/
def mmaInsn (s : State) (o : MOps) (asub bsub : Nat) (ah bh : Hint) (tb : Bool) (idx : Option VSrc) (len : Nat) : Out :=
  mInsn s fun t =>
    match writeBank t s.curCore o.bank.val true with
    | .inr c => mFault s c
    | .inl p =>
      let inW := match idx with | some v => t.inWindow v | none => true
      if 3 < asub || bsub ≠ 0 || !inW then mFault s fIllegalOperand
      else
        match prodDescs t o with
        | .inr c => mFault s c
        | .inl ds =>
          let rows := idx.map (fun v =>
            let cells := t.vsrc v
            tab 16 (fun i =>
              let x := (cells.getD (64 * i) 0).toNat
              if nbit x 31 then none else some (nbits x 9 0)))
          let q := mkProd t o p ds (t.a .m o.acoord.val) (t.a .m o.bcoord.val) asub ah bh tb rows
          if idx.all t.full then issueProd s t q len
          else
            match prodPages s s.curDie t q with
            | .ok _ => .wait (s.waitEmpty idx.toList)
            | .bad .. => if parksProd t t.stamp.isSome then .wait (s.waitEmpty idx.toList) else issueProd s t q len
            | .miss va => .hold (startWalk s s.curDie t.pav va)

def execMma (o : MOps) (asub bsub : Fin 16) (ah bh : Hint) (tb : Bool) (s : State) : Out :=
  mmaInsn s o asub.val bsub.val ah bh tb none 3

/-- The compact MMA takes its format from STATUS (R159). -/
def execMmaC (bank : BankNo) (s : State) : Out :=
  onTask s fun t =>
    match mmaInsn s { bank := bank, aslot := 0, acoord := 0, bslot := 1, bcoord := 1, ctl := .acc, fmt := statMfmt t.status, xv := false }
        0 0 .none .none false none 1 with
    | .next s => s
    | _ => s

def execMmag (o : MOps) (idx : VSrc) (ah bh : Hint) (s : State) : Out := mmaInsn s o 0 0 ah bh false (some idx) 3

/-! ## K-runs (R161-R163) -/

/-- The descriptors of a run's step, checked: those that MRES read, or the slots as they stand (row 4 of Table 6-3, R163). -/
def stepDescs (t : Task) (r : MRun) (x : RunOps) : (List Byte × List Byte) ⊕ BitVec 8 :=
  match r.descs, r.stopped with
  | some ds, false => .inl ds
  | _, _ => prodDescs t x.o

/-- A run as it enters a step: one that was stopped has the effect of MRES, which reads the slots once (R162, R163). -/
def MRun.entered (r : MRun) (ds : List Byte × List Byte) : MRun :=
  if r.stopped then { r with stopped := false, descs := some ds } else r

/-- One step of a run by its stream; the run stays on its instruction until its last step or until it parks. -/
def runStep (s : State) (t : Task) (r : MRun) (len : Nat) : MGo :=
  match runOps r.word r.ext with
  | none => mFault s fIllegalOperand
  | some x =>
    match writeBank t s.curCore r.bank true with
    | .inr c => mFault s c
    | .inl p =>
      match stepDescs t r x with
      | .inr c => .done ((s.modCur (fun t => { t with run := some r })).takeFaultOf s.cur.core.val s.cur.slot.val .m c true 0
          s.curSt.pc 0 (runRec r))
      | .inl ds =>
        let r := r.entered ds
        let q := stepProd t r x p ds
        let tok := fun (s : State) (n : Nat) (b : Bool) =>
          if b then s.promise s.cur.core.val s.cur.slot.val n p else s
        match s.tryProd t q (some r) (x.o.ctl = .rdy) with
        | .fired s n =>
          if r.step + 1 = x.n then .issue ((tok s n q.tok).modCur (fun t => { t with run := none })) len false
          else .issue (s.modCur (fun t => { t with run := some { r with step := r.step + 1 } })) 0 false
        | .parked s n => .parks ((tok s n (x.o.ctl = .rdy)).modCur (fun t => { t with run := none })) len
        | .wait s => .wait s
        | .hold s => .hold s
        | .done s => .done s

/-- The run of the task that stands at the issuing stream's instruction. -/
def Task.runHere (t : Task) : Option MRun := t.run.filter (fun r => r.iaddr = (t.st .m).pc && !r.parked)

def execMmk (o : MOps) (n : BitVec 8) (la lb : Fin 4) (s : State) : Out :=
  mInsn s fun t =>
    match t.runHere with
    | some r => runStep s t r 3
    | none =>
      let ps := encode (.mmk o n la lb)
      let r : MRun :=
        { descs := none, stamped := t.stamp.isSome, word := BitVec.ofNat 32 ((ps.getD 0 0).toNat * 2 ^ 16 + (ps.getD 1 0).toNat), ext := ps.getD 2 0, step := 0,
          acrd := t.a .m o.acoord.val, bcrd := t.a .m o.bcoord.val, bank := o.bank.val, iaddr := (t.st .m).pc, parked := false,
          stopped := false }
      runStep s t r 3

/-- Bytes read by the M stream through its core's caches: the new state and the bytes, a walk to make, or a fault. -/
inductive MRead where
  | ok (s : State) (bs : List Byte)
  | miss (va : Nat)
  | bad (code : BitVec 8) (va : Nat)
  | later (s : State)

def State.mRead (s : State) (t : Task) (va n : Nat) : MRead :=
  let c := s.cur.core.val
  let cs := (cuts va n).map (fun p => ((va + p.1) % 2 ^ 64, p.2))
  match xlateAll s (dieOf c) t.pav .read (cs.map (·.1)) with
  | .miss a => .miss a
  | .bad code a => .bad code a
  | .ok ls =>
    let parts : List VPart := (ls.zip cs).map (fun x => { pa := x.1.2, n := x.2.2, key := x.1.1.key, cls := x.1.1.cls })
    let s := s.mBegin
    let own := (s.curTask.bind (·.mAsk)).elim 0 (·.1)
    let n := (s.loadFloor c t parts).needLines c (t.eff.orig c) own t.pav t.eff.injCap parts
    if !n.2 then .later n.1
    else
      let r := n.1.readLines c s.cur.slot.val 0 parts
      match (cs.zip r.2).find? (fun x => x.2.2.2) with
      | some x => .bad fDataLoss x.1.1
      | none => .ok r.1 (parts.flatMap (partBytes r.2))

/-- MRES: the counter record is read, after which the run stands in the task, and entered (R163). -/
def execMres (bank : BankNo) (a : AReg) (s : State) : Out :=
  mInsn s fun t =>
    match t.runHere with
    | some r => runStep s t r 2
    | none =>
      match writeBank t s.curCore bank.val true with
      | .inr c => mFault s c
      | .inl p =>
        let va := (t.a .m a.val)
        if va.toNat % 32 ≠ 0 then .broke (s.takeFault fAlign va)
        else
          match s.mRead t va.toNat 32 with
          | .miss x => .begun (startWalk s.mBegin s.curDie t.pav x)
          | .bad c x => .broke (s.takeMemFault c x)
          | .later s => .begun s
          | .ok s' b =>
            let word := BitVec.ofNat 32 (field b 0 4)
            let ext := BitVec.ofNat 16 (field b 4 2)
            let step := field b 6 2
            match runOps word ext with
            | none => .broke (s.takeFault fIllegalOperand 0)
            | some x =>
              if x.n < step || field b 8 8 ≠ 0 then .broke (s.takeFault fIllegalOperand 0)
              else if x.n = step then
                if x.o.ctl = .rdy && !t.mayTok then .wait s else
                .issue (if x.o.ctl = .rdy then s'.fresh.promise s.cur.core.val s.cur.slot.val s'.nextId p else s') 2 false
              else
                let r : MRun := { descs := none, stamped := t.stamp.isSome, word := word, ext := ext, step := step,
                                  acrd := BitVec.ofNat 64 (field b 16 8), bcrd := BitVec.ofNat 64 (field b 24 8), bank := bank.val,
                                  iaddr := (t.st .m).pc, parked := false, stopped := true }
                runStep (s'.modCur (fun t => { t with run := some r })) t r 2

/-! ## Re-entry (R305, R306) -/

/-- Is a parked command ready (R305)? A step of a run that is still to issue waits while 32 product commands are in flight (R155). -/
def parkedReady (s : State) (c : Nat) (e : Parked) : Bool :=
  e.waits.isEmpty && !e.recovery && e.behind.all (fun n => (s.core c).replay.all (fun x => x.n ≠ n)) &&
  match s.task? c e.slot with
  | some t => !t.stopped && t.saving.isNone && (!e.fresh || decide (t.inFlight (s.core c) e.slot < 32))
  | none => false

/-- A change put before the place that a parked command keeps in its bank's order. -/
def insertBefore (n : Nat) (f : Pending → Pending) : List Pending → List Pending
  | [] => []
  | x :: xs => if x.n = n && x.open_ then f x :: x :: xs else x :: insertBefore n f xs

/-- An entry of the queue changed where it stands. -/
def State.modParked (s : State) (c n : Nat) (f : Parked → Parked) : State :=
  s.modCore c (fun k => { k with replay := k.replay.map (fun e => if e.n = n then f e else e) })

/-- An entry leaves the queue with its place in its bank's order; a run stopped at it is over. -/
def State.freeParked (s : State) (c : Nat) (e : Parked) : State :=
  (s.modCore c (fun k => { k with replay := k.replay.filter (fun x => x.n ≠ e.n) })).modTask c e.slot (fun t => { t with
    mq := t.mq.filter (fun x => !(x.n = e.n && x.open_))
    run := t.run.filter (fun r => !(r.parked && r.iaddr = e.iaddr)) })

/-- The record of a stopped run at a parked command forgotten, now that the run goes on from it. -/
def State.clearRun (s : State) (c : Nat) (e : Parked) : State :=
  s.modTask c e.slot (fun t => { t with run := t.run.filter (fun r => !(r.parked && r.iaddr = e.iaddr)) })

/-- A parked command performed: its change takes its place, to land 28 cycles later (R306); a run goes on with its next step, whose
checks are still to be made (R157), any other frees its entry. -/
def State.reFire (s : State) (c : Nat) (t : Task) (e : Parked) (la lb : OpLook) (a b : List Byte) : State :=
  let s := s.readProd c e.slot t e.prod la lb e.took e.waited
  let fire := fun (x : Pending) => { x with open_ := false, due := BitVec.ofNat 64 (s.cyc.toNat + 28), op := e.prod.change a b }
  let s := s.modTask c e.slot (fun t =>
    { (if e.late then t.missed else t) with mq := landOrder [] (insertBefore e.n fire t.mq) })
  match e.run.bind (fun r => (runOps r.word r.ext).map (fun x => (r, x))) with
  | none => s.freeParked c e
  | some (r, x) =>
    if r.step + 1 = x.n then s.freeParked c e
    else
      let r' := { r with step := r.step + 1 }
      (s.modParked c e.n (fun _ => { e with
        run := some r'
        prod := stepProd t r' x e.prod.bank (e.prod.adesc, e.prod.bdesc)
        late := false
        fresh := true
        waited := []
        took := []
        known := [] })).clearRun c e

/-- A parked step of a run as it re-enters: from the record that a fault at it has left (R162), with its descriptors checked again
(R157, R163, R400). -/
def Parked.entering (t : Task) (e : Parked) : Parked ⊕ BitVec 8 :=
  let r := match t.run.filter (fun r => r.parked && r.iaddr = e.iaddr) with
    | some r => e.run.map (fun _ => r)
    | none => e.run
  match r.bind (fun r => (runOps r.word r.ext).map (fun x => (r, x))) with
  | none => .inl e
  | some (r, x) =>
    match stepDescs t r x with
    | .inr c => .inr c
    | .inl ds => .inl { e with run := some (r.entered ds), prod := stepProd t r x e.prod.bank ds }

/-- A fault of a parked command at its re-entry: a run keeps its record, from which RESUME re-enters it (R162, Table 19-8). -/
def State.faultParked (s : State) (c : Nat) (e : Parked) (code : BitVec 8) (va : Nat) : State :=
  ((s.modTask c e.slot (fun t => { t with run := match t.run with
      | some r => some r
      | none => e.run.map (fun r => { r with parked := true }) })).modParked c e.n (fun e => { e with fresh := e.fresh || e.run.isSome })).takeFaultOf
    c e.slot .m code e.run.isSome 0 e.iaddr (BitVec.ofNat 64 va) (runAttach e.run)

/-- A parked command parked again: its entry goes to the tail of the queue (R306). -/
def State.toTail (s : State) (c : Nat) (e : Parked) : State :=
  s.fresh.modCore c (fun k => { k with replay := k.replay.filter (fun x => x.n ≠ e.n) ++ [{ e with parkN := s.nextId }] })

/-- An entry of the queue re-enters: a miss, or a line that is being filled, parks it again at the tail (R306, R400). The checks of a
step of a run are made at the step's issue, precisely (R157). -/
def State.reEnter (s : State) (c : Nat) (e0 : Parked) : State :=
  match s.task? c e0.slot with
  | none => s
  | some t =>
    match e0.entering t with
    | .inr code => s.faultParked c e0 code 0
    | .inl e =>
      let p := e.prod
      match prodPages s (dieOf c) t p with
      | .miss va => startWalk s (dieOf c) t.pav va
      | .bad code va =>
        let s := dropFailed s (dieOf c) t.pav va
        if parksProd t e.stamped then
          (s.toTail c { e with recovery := true, fresh := false }).postOnly c e.slot
            { parkRec t .m code e.iaddr (BitVec.ofNat 64 va) with attach := runAttach e.run }
        else s.faultParked c e code va
      | .ok _ =>
        let la := lookOp s c t p.atag p.aneed e.known
        let lb := lookOp s c t p.btag p.bneed e.known
        let had := fun (g : TTag) (o : OpLook) => o.data.map (fun d => ((e.took.find? (fun x => x.tag = g)).map (·.data)).getD d)
        match had p.atag la, had p.btag lb with
        | some a, some b => s.reFire c t e la lb a b
        | x, y =>
          if 256 < (s.core c).reasm.length + fillsNeeded p la lb then s
          else
            let r := s.seekBoth c e.n t p e.known e.waited
            let gone := (if x.isNone then [p.atag] else []) ++ (if y.isNone then [p.btag] else [])
            (r.1.toTail c { e with
              waits := r.2
              behind := []
              fresh := false
              took := e.took.filter (fun x => !gone.contains x.tag) }).clearRun c e

/-- REPLAY_REENTRY: the oldest ready entry re-enters (R306). -/
def execReplayReentry (core : CoreId) (s : State) : Out :=
  .next (match (s.core core.val).replay.find? (parkedReady s core.val) with
    | some e => s.reEnter core.val e
    | none => s)

end Sys2Proof.Machine
end

