-- ==== Sys2Proof/Machine/Grammar.lean ====
section
/-!
DEFINITION. The grammar unit: reading and checking a page, rule-value slots, the window, evaluating rules and rows
(spec/06 R174-R179, spec/14 R318-R326).
-/

namespace Sys2Proof.Machine

/-! ## The page (R318-R320) -/

/-- The header of a page (Table 14-1). -/
structure GHead where
  nrule : Nat
  nrow : Nat
  nsym : Nat
  width : Nat
  mode : Nat
  nlvl : Nat
  lvlend : List Nat
  vtab : Nat
  rtoff : Nat
  syoff : Nat
  deriving DecidableEq, Repr

def gHead (b : List Byte) : GHead :=
  { nrule := field b 0 2, nrow := field b 2 2, nsym := field b 4 4, width := field b 8 2, mode := field b 0x0A 1,
    nlvl := field b 0x0B 1, lvlend := tab 15 (fun i => field b (0x10 + 2 * i) 2), vtab := field b 0x30 8,
    rtoff := field b 0x38 4, syoff := field b 0x3C 4 }

/-- One past the last rule of level l, 0 for level 0. -/
def GHead.lend (h : GHead) (l : Nat) : Nat := if l = 0 then 0 else h.lvlend.getD (l - 1) 0

/-- The header's checks (Table 14-3, step 3). -/
def headOk (b : List Byte) : Bool :=
  let h := gHead b
  let rtEnd := h.rtoff + 4 * (h.nrule + h.nrow)
  let syEnd := h.syoff + 4 * h.nsym
  decide (h.nrule ≤ 1024) && decide (h.nrule + h.nrow ≤ h.nsym) && decide (h.nsym ≤ 65536) && decide (1 ≤ h.width)
    && decide (h.width ≤ 4096) && decide (h.mode ≤ 1) && decide (h.nlvl ≤ 15) && ((h.nlvl = 0) == (h.nrule = 0))
    && field b 0x0C 4 = 0 && field b 0x2E 2 = 0
    && (List.range h.nlvl).all (fun l => l = 0 || decide (h.lend l < h.lend (l + 1)))
    && (h.nlvl = 0 || h.lend h.nlvl = h.nrule)
    && (List.range 15).all (fun l => decide (l < h.nlvl) || h.lvlend.getD l 0 = h.nrule)
    && (if h.mode = 1 then h.vtab % 64 = 0 && decide (h.vtab < 2 ^ 48) else h.vtab = 0)
    && h.rtoff % 4 = 0 && decide (64 ≤ h.rtoff) && h.syoff % 4 = 0 && decide (64 ≤ h.syoff)
    && (decide (rtEnd ≤ h.syoff) || decide (syEnd ≤ h.rtoff) || h.nrule + h.nrow = 0 || h.nsym = 0)

/-- A symbol as it is encoded (Table 14-2). -/
inductive GSym where
  | term (value col : Nat)
  | ref (rule : Nat)
  | stop
  | bad
  deriving DecidableEq, Repr

def gSym (width w : Nat) : GSym :=
  let k := nbits w 31 30
  if k = 0 then (if nbits w 23 12 = 0 && decide (nbits w 11 0 < width) then .term (nbits w 29 24) (nbits w 11 0) else .bad)
  else if k = 1 then (if nbits w 29 10 = 0 then .ref (nbits w 9 0) else .bad)
  else if k = 2 then (if nbits w 29 0 = 0 then .stop else .bad)
  else .bad

/-- The symbols of a page, and the symbols of rule or row n: those from its table entry up to the first end symbol. -/
def pageSyms (page : List Byte) : List GSym :=
  let h := gHead page
  tab h.nsym (fun i => gSym h.width (field page (h.syoff + 4 * i) 4))
def spanOf (page : List Byte) (syms : List GSym) (n : Nat) : List GSym :=
  (syms.drop (field page ((gHead page).rtoff + 4 * n) 4)).takeWhile (· ≠ .stop)

/-- Step 5 of Table 14-3. -/
def tablesOk (page : List Byte) : Bool :=
  let h := gHead page
  let syms := pageSyms page
  syms.all (· ≠ .bad) && (List.range (h.nrule + h.nrow)).all (fun n =>
    let e := field page (h.rtoff + 4 * n) 4
    decide (e < h.nsym) && (syms.drop e).any (· = .stop))

/-- The level that LVLEND assigns to a rule. -/
def GHead.levelOf (h : GHead) (n : Nat) : Nat := ((List.range 16).find? (fun l => decide (n < h.lend l))).getD 0

/-- Step 6 of Table 14-3: rules in order with the levels of those before, then rows (R321). -/
def orderFault (page : List Byte) : Option (BitVec 8) :=
  let h := gHead page
  let syms := pageSyms page
  let refs := fun (n : Nat) => (spanOf page syms n).filterMap (fun x => match x with | .ref r => some r | _ => none)
  let r := (List.range h.nrule).foldl (fun (x : List Nat × Option (BitVec 8)) n =>
    match x.2 with
    | some _ => x
    | none =>
      let rs := refs n
      if rs.any (fun m => decide (n ≤ m)) then (x.1, some fRuleOrder)
      else
        let l := if rs.isEmpty then 1 else 1 + (rs.map (fun m => x.1.getD m 0)).foldl max 0
        if 15 < l ∨ l ≠ h.levelOf n then (x.1, some fRuleDepth) else (x.1 ++ [l], none)) ([], none)
  match r.2 with
  | some c => some c
  | none =>
    if (List.range h.nrow).any (fun i => (refs (h.nrule + i)).any (fun m => decide (h.nrule ≤ m))) then some fRuleOrder else none

/-- The grammar unit of the issuing task with no page loaded. -/
def State.noPage (s : State) : State := s.modCur (fun t => { t with gram := { t.gram with page := none } })

/-- The pages of several ranges, each range cut at its pages, as reads of the M stream. -/
def gPages (s : State) (t : Task) (rs : List (Nat × Nat)) : Xls :=
  xlateAll s s.curDie t.pav .read (rs.flatMap (fun r => (cuts r.1 r.2).map (fun p => (r.1 + p.1) % 2 ^ 64)))

/-- Several ranges read in order. -/
def State.mReads (s : State) (t : Task) : List (Nat × Nat) → MRead
  | [] => .ok s []
  | (va, n) :: rs =>
    match s.mRead t va n with
    | .ok s' b =>
      match State.mReads s' t rs with
      | .ok s'' b' => .ok s'' (b ++ b')
      | x => x
    | x => x

/-- The ranges that a page's header names: rule table, symbol stream, and the value table in BF16 mode (R318). -/
def GHead.ranges (h : GHead) (p : Nat) : List (Nat × Nat) :=
  [(p + h.rtoff, 4 * (h.nrule + h.nrow)), (p + h.syoff, 4 * h.nsym)] ++ (if h.mode = 1 then [(h.vtab, 128)] else [])

/-- The page that the header's bytes and those of its ranges make: the page itself and its value table. -/
def GHead.page (h : GHead) (hb bs : List Byte) : List Byte × List Byte :=
  let nrt := 4 * (h.nrule + h.nrow)
  (splice (splice (slice hb 0 64) h.rtoff (slice bs 0 nrt)) h.syoff (slice bs nrt (4 * h.nsym)),
   if h.mode = 1 then slice bs (nrt + 4 * h.nsym) 128 else [])

/-- A grammar unit with a page loaded: every slot unevaluated, its flags and count as they were (R174, R177). -/
def Grammar.load (g : Grammar) (p : List Byte × List Byte) (va : Word64) : Grammar :=
  { g with
    page := some p
    pageVa := va
    slots := g.slots.map (fun x => (x.1, { x.2 with ev := false })) }

/-- GLOAD: a page read and checked, step by step, the pages of every range before a byte of any (Table 14-3); a failure leaves
no page (R174, R322, R323). -/
def execGload (a : AReg) (s : State) : Out :=
  mInsn s fun t =>
    let va := (t.a .m a.val)
    let p := va.toNat
    let fail := fun (c : BitVec 8) (f : Word64) => MGo.broke (s.noPage.takeFault c f)
    let memFail := fun (c : BitVec 8) (x : Nat) => MGo.broke (s.noPage.takeMemFault c x)
    let walk := fun (x : Nat) => MGo.begun (startWalk s.mBegin s.curDie t.pav x)
    if p % 64 ≠ 0 then fail fAlign va
    else
      match s.mRead t p 64 with
      | .miss x => walk x
      | .bad c x => memFail c x
      | .later s => .begun s
      | .ok s1 hb =>
        if !headOk hb then fail fIllegalOperand 0
        else
          let h := gHead hb
          match gPages s t (h.ranges p) with
          | .miss x => walk x
          | .bad c x => memFail c x
          | .ok _ =>
            match s1.mReads t (h.ranges p) with
            | .miss x => walk x
            | .bad c x => memFail c x
            | .later s => .begun s
            | .ok s2 bs =>
              let page := h.page hb bs
              if !tablesOk page.1 then fail fIllegalOperand 0
              else
                match orderFault page.1 with
                | some c => fail c 0
                | none => .issue (s2.modCur (fun t => { t with gram := t.gram.load page va })) 2 false

/-! ## Slots and the window (R175, R176) -/

/-- The banks of a task in rule mode (R175). -/
def ruleBanks (k : Core) (t : Task) : List Nat := (heldBanks t).filter (fun p => (k.bank p).rule)

/-- The bank that holds the slots 16 i to 16 i + 15: in rule mode, and one of those that GSLOT gave (R175). -/
def slotBank (k : Core) (t : Task) (i : Nat) : Option Nat :=
  if i < t.gram.count then (t.ownBank (t.gram.base + i)).filter (fun p => (k.bank p).rule) else none

/-- GSLOT; a range that runs past AB63, and a count of 0 with a base other than 0, raise ILLEGAL_OPERAND (log 47, DESIGN CHOICE:
R175 names no fault for either). -/
def execGslot (bank : BankNo) (n : BitVec 7) (s : State) : Out :=
  mInsn s fun t =>
    let c := n.toNat
    let ns := (List.range c).map (fun i => bank.val + i)
    if ns.any (fun i => decide (i < 64) && (t.bank i).isNone) && decide (c ≤ 64) then mFault s fAccUnalloc
    else if 64 < bank.val + c || (c = 0 && bank.val ≠ 0) then mFault s fIllegalOperand
    else
      match writeBanks t ns with
      | .inr _ => mFault s fIllegalOperand
      | .inl ps =>
        if ps.any (fun p => (s.curCore.bank p).owners.isSome) then mFault s fIllegalOperand
        else
          let old := ruleBanks s.curCore t
          if t.pendingOn (old ++ ps) then .wait s
          else
            let rule := fun (b : Bool) (s : State) (p : Nat) => s.modBank s.cur.core.val p (fun k => { k with rule := b })
            let s := (old.zip (List.range old.length)).foldl (fun s p => (rule false s p.1).mChange p.1 (4 + 2 * p.2) .slotOff) s
            let anchor := match ps with | p :: _ => (s.curCore.bank p).anchor | [] => 0
            let s := (ps.zip (List.range c)).foldl (fun s p => (rule true s p.1).mChange p.1 (4 + 2 * (old.length + p.2)) (.slotOn anchor)) s
            .issue (s.modCur (fun t => { t with gram := { t.gram with
              base := bank.val
              count := c
              anchor := anchor
              slots := [] } })) 2 false

def execGxwin (v : Fin 512) (bf16 : Bool) (s : State) : Out :=
  mInsn s fun t =>
    if 383 < v.val || t.window ≤ v.val + 255 then mFault s fIllegalOperand
    else .issue (s.modCur (fun t => { t with gram := { t.gram with win := some (v.val, bf16) } })) 2 false

/-! ## Evaluation (R177, R178, R324) -/

/-- A sum of 64 lanes with its flags and its count of products. -/
structure GVal where
  els : List Elem
  range : Bool
  inexact : Bool
  cnt : Nat
  deriving DecidableEq, Repr

def gZero : GVal := { els := List.replicate 64 zeroElem, range := false, inexact := false, cnt := 0 }

/-- What an evaluation reads: the page, its mode and value table, the window's columns, the anchor. -/
structure GEnv where
  page : List Byte
  syms : List GSym
  bf16 : Bool
  vals : List Byte
  input : Nat → List Word32
  anchor : Int

/-- A terminal entered into every lane (R79, R77, R78). -/
def GVal.term (e : GEnv) (value col : Nat) (x : GVal) : GVal :=
  let cs := (e.input col).map (fun c =>
    if e.bf16 then floatContrib false e.anchor (decodeF fmtBF16 (field e.vals (2 * value) 2)) (cellNum .bf16 c)
    else intContrib false (sext value 6) (sext c.toNat 8))
  { els := List.zipWith (fun y c => elemAdd y c.n c.sp) x.els cs, range := x.range || cs.any (·.range)
    inexact := x.inexact || cs.any (·.inexact), cnt := x.cnt + 1 }

/-- A referenced rule's slot added to every lane. -/
def GVal.plus (x y : GVal) : GVal :=
  { els := List.zipWith elemSum x.els y.els, range := x.range || y.range, inexact := x.inexact || y.inexact, cnt := x.cnt + y.cnt }

/-- The sum of a span; none at a reference to an unevaluated rule (RULE_UNDEF). -/
def gSum (e : GEnv) (get : Nat → Option GVal) (l : List GSym) : Option GVal :=
  l.foldl (fun acc y => match acc with
    | none => none
    | some x =>
      match y with
      | .term v c => some (x.term e v c)
      | .ref m => (get m).map x.plus
      | _ => some x) (some gZero)

/-- The value in a slot that is evaluated, from its bank's row. -/
def slotVal (s : State) (t : Task) (n : Nat) : Option GVal :=
  match mfind n t.gram.slots, slotBank s.curCore t (n / 16) with
  | some x, some p =>
    if x.ev then some { els := ((s.curCore.bank p).els.drop (64 * (n % 16))).take 64, range := x.range, inexact := x.inexact,
                        cnt := x.cnt }
    else none
  | _, _ => none

/-- The columns of a window: column w is row w mod 16 of the register of its number div 16. GEVAL and GROW read all of them as they
issue (log 74, DESIGN CHOICE: R324 leaves open on which cycle up to the last symbol cycle each is read). -/
def winInput (t : Task) (base w : Nat) : List Word32 := ((t.vreg (base + w / 16)).drop (64 * (w % 16))).take 64

/-- The page and window of a task, where both are set and agree (R177). -/
def gEnv (t : Task) (anchor : Int) : Option GEnv :=
  match t.gram.page, t.gram.win with
  | some (page, vals), some (base, bf16) =>
    if ((gHead page).mode = 1) = bf16 then
      some { page := page, syms := pageSyms page, bf16 := bf16, vals := vals, input := winInput t base, anchor := anchor }
    else none
  | _, _ => none

/-- Are all 256 registers of the window full? -/
def winFull (t : Task) : Bool :=
  match t.gram.win with
  | some (base, _) => (List.range 256).all (fun i => !t.empty.contains (base + i))
  | none => true

/-- The rules of a level range (R177). -/
def ruleRange (h : GHead) (lvl : Nat) : List Nat :=
  let lo := if lvl = 0 then 0 else h.lend (lvl - 1)
  let hi := if lvl = 0 then h.nrule else if lvl ≤ h.nlvl then h.lend lvl else lo
  (List.range hi).filter (fun n => decide (lo ≤ n))

/-- Symbol groups of 32 of a list of spans, end symbols counted (R325). -/
def groupsOf (spans : List (List GSym)) : Nat := ((spans.map (fun l => l.length + 1)).foldl (· + ·) 0 + 31) / 32

/-- Rules evaluated in order over what is evaluated already; the second part says whether one met an unevaluated rule. -/
def evalRules (s : State) (t : Task) (e : GEnv) (ns : List Nat) : List (Nat × GVal) × Bool :=
  ns.foldl (fun (x : List (Nat × GVal) × Bool) n =>
    if x.2 then x
    else
      let get := fun (m : Nat) => match x.1.find? (fun y => y.1 = m) with
        | some y => some y.2
        | none => slotVal s t m
      match gSum e get (spanOf e.page e.syms n) with
      | some v => (x.1 ++ [(n, { v with cnt := min v.cnt (2 ^ 20 - 1) })], false)
      | none => (x.1, true)) ([], false)

/-- The slots after an evaluation. -/
def slotsNow (t : Task) (vs : List (Nat × GVal)) : SMap RuleSlot :=
  vs.foldl (fun m v => mset v.1 { ev := true, range := v.2.range, inexact := v.2.inexact, cnt := v.2.cnt } m) t.gram.slots

/-- The slots written by an evaluation, bank by bank, to land so many cycles later; a rule-mode bank's RANGE and INEXACT are the OR of its slots' (R177). -/
def State.writeSlots (s : State) (t : Task) (lat : Nat) (vs : List (Nat × GVal)) : State :=
  let now := slotsNow t vs
  let s := (uniq (vs.map (fun v => v.1 / 16))).foldl (fun s b =>
    let mine := vs.filter (fun v => v.1 / 16 = b)
    let all_ := now.filter (fun e => e.1 / 16 = b)
    match slotBank s.curCore t b, mine with
    | some p, v :: _ =>
      s.mChange p lat (.slots (v.1 % 16) (mine.map (fun v => v.2.els)) (all_.any (fun e => e.2.range)) (all_.any (fun e => e.2.inexact)))
    | _, _ => s) s
  s.modCur (fun t => { t with gram := { t.gram with slots := now } })

/-- The anchor at which terminals enter: the slot anchor, or another where the task has no rule-mode bank (R178, R324). -/
def slotAnchor (k : Core) (t : Task) (other : Int) : Int :=
  if (ruleBanks k t).isEmpty then other else t.gram.anchor.toInt

def execGeval (lvl : Fin 16) (s : State) : Out :=
  mInsn s fun t =>
    match gEnv t (slotAnchor s.curCore t 0) with
    | none => mFault s fIllegalOperand
    | some e =>
      let h := gHead e.page
      let ns := ruleRange h lvl.val
      if ns.any (fun n => (slotBank s.curCore t (n / 16)).isNone) then mFault s fIllegalOperand
      else if !winFull t || t.pendingOn (ruleBanks s.curCore t) then .wait s
      else
        let r := evalRules s t e ns
        let read := if r.2 then ns.take (r.1.length + 1) else ns
        let levels := ((if lvl.val = 0 then (List.range h.nlvl).map (· + 1) else [lvl.val]).map (fun l =>
          (ruleRange h l).filter read.contains)).filter (fun l => !l.isEmpty)
        let groups := levels.foldl (fun n l => n + groupsOf (l.map (spanOf e.page e.syms))) 0
        let s := (s.writeSlots t (groups + 12 * (levels.length - 1) + 27) r.1).chargeCur (20 * groups)
        if r.2 then .broke (s.takeFault fRuleUndef 0) else .issue s 2 false

/-- The change that a GROW makes with the rows that it has evaluated. -/
def rowsChange (ws : List GVal) (ovw : Bool) : Change :=
  .rows (ws.flatMap (fun v => v.els)) ws.length ovw (ws.any (fun v => v.range)) (ws.any (fun v => v.inexact))
    ((ws.map (fun v => v.cnt)).foldl (· + ·) 0)

/-- GROW waits, as GEVAL does, until all 256 registers of the window are full (log 54, DESIGN CHOICE: R178 does not say so). At a
row that meets an unevaluated rule the rows before it have entered the bank, as the loop of R177 leaves them (R326, log 43,
DEDUCED). -/
def execGrow (a : AReg) (bank : BankNo) (ovw : Bool) (n : Fin 32) (s : State) : Out :=
  mInsn s fun t =>
    match writeBank t s.curCore bank.val true with
    | .inr c => mFault s c
    | .inl p =>
      let f := nbits (t.a .m a.val).toNat 15 0
      let c := n.val
      let here := anchorOf (s.curCore.bank p)
      let anchor := slotAnchor s.curCore t here
      match gEnv t anchor with
      | none => mFault s fIllegalOperand
      | some e =>
        let h := gHead e.page
        if c = 0 || 16 < c || h.nrow < f + c then mFault s fIllegalOperand
        else if t.pendingOn (p :: ruleBanks s.curCore t) then .hold s
        else if here ≠ anchor then mFault s fIllegalOperand
        else if !winFull t then .wait s
        else
          let spans := (List.range c).map (fun i => spanOf e.page e.syms (h.nrule + f + i))
          let vs := spans.map (gSum e (slotVal s t))
          let ws := (vs.takeWhile (·.isSome)).filterMap id
          let groups := groupsOf (spans.take (ws.length + 1))
          let s' := (if ws.isEmpty then s else s.mChange p (groups + 27) (rowsChange ws ovw)).chargeCur (20 * groups)
          if ws.length < c then .broke (s'.takeFault fRuleUndef 0) else .issue s' 2 false

/-! ## STAMPED_ISSUE (R173, R287) -/

/-- The meaning of an operation that a stamp may precede. -/
def stampedMeaning : Instr → State → Out
  | .mma o asub bsub ah bh tb => execMma o asub bsub ah bh tb
  | .mmaC bank => execMmaC bank
  | .mmag o idx ah bh => execMmag o idx ah bh
  | .mmk o n la lb => execMmk o n la lb
  | .mres bank a => execMres bank a
  | .msca d src scale mode => execMsca d src scale mode
  | .mrnm bank k => execMrnm bank k
  | .mzero bank n imm => execMzero bank n imm
  | .manch bank imm => execManch bank imm
  | .mcopy d src => execMcopy d src
  | .aalloc bank n wait => execAalloc bank n wait
  | .afree bank n => execAfree bank n
  | .aband bank q owners => execAband bank q owners
  | .msync bank => execMsync bank
  | .mstb a per => execMstb a per
  | .gload a => execGload a
  | .gslot bank n => execGslot bank n
  | .gxwin v bf16 => execGxwin v bf16
  | .geval lvl => execGeval lvl
  | .grow a bank ovw n => execGrow a bank ovw n
  | _ => fun s => .next s

/-- STAMPED_ISSUE: the instruction that a stamp precedes, tried on its stamped cycle and on those after it as Table 11-4 states;
before that cycle, and where its stream may not issue, nothing happens. -/
def execStampedIssue (core : CoreId) (slot : SlotId) (s : State) : Out :=
  let x : Ctx := { core := core, slot := slot, stream := .m }
  match s.task? core.val slot.val with
  | none => .next s
  | some t =>
    match t.stamp, decode .m ((t.st .m).lbuf.drop ((t.st .m).pc - (t.st .m).blk - 2).toNat) with
    | some off, .ok (i, _) =>
      if !canIssue s x || decide (s.cyc.toNat < stampAt t off) then .next s
      else
        match stampedMeaning i { s with cur := x } with
        | .next s' => .next { s' with cur := s.cur }
        | r => r
    | _, _ => .next s

end Sys2Proof.Machine
end

