-- ==== Sys2Proof/Machine/Save.lean ====
section
/-!
DEFINITION. Saving a task's context and restoring it, the save area that SNAPRD writes and SNAPWR reads, and the re-issue of
parked accesses (spec/19 R379-R386, Tables 19-6 and 19-7, spec/08 Table 8-6, spec/11 R283, R287, R291, spec/12 R314).
-/

namespace Sys2Proof.Machine

/-! ## Saving (R379, R381, R384) -/

/-- The changes that cannot land before a parked command has re-entered: its own, and those that stand behind one (R154, R155). -/
def stuckChanges (mq : List Pending) : List Pending :=
  mq.foldl (fun a x => if x.open_ || a.any (fun y => x.after y) then a ++ [x] else a) []

/-- Has everything that a stopping task had in flight ended, but what its save area keeps (Table 19-4)? -/
def stopQuiet (s : State) (t : Task) : Bool :=
  t.pend.all SPend.isFixed && s.reqs.all (fun r => !(r.2.task = t.taskid && r.2.ctx.stream ≠ .c))
    && s.rops.all (fun r => !(r.2.task = t.taskid && match r.2.owner with | .scalar .. => true | _ => false))
    && t.fills.all VFill.isParked && t.stores.isEmpty && !t.wdDue
    && (stuckChanges t.mq).length = t.mq.length

/-- A task's banks with their numbers, as they are saved: not split, since the bands return (R170, R314). -/
def savedBanks (k : Core) (t : Task) : List (Nat × Bank) :=
  t.bmap.filterMap (fun b => match b.2 with | .own p => some (b.1, { k.bank p with owners := none }) | .alias_ .. => none)

/-- The fills that a task has caused and that hold an entry of a core's reassembly table: each is orphaned when the task is pre-empted
(R401). -/
def taskFills (s : State) (uid : Nat) : List (Nat × TFill) := s.tfills.filter (fun f => f.2.uid = uid && f.2.entry)

/-- TASK_SAVE_DONE: a stopped task whose work in flight has ended leaves its core, its reassembly entries orphaned; its record is
queued again unless a fault, the watchdog, a freeze or its region's policy holds it (R283, R291, R374, R377, R384, R389). Slots run on,
but a freeze ends them PARTIAL. -/
def execTaskSaveDone (core : CoreId) (slot : SlotId) (s : State) : Out :=
  let c := core.val
  let l := slot.val
  match s.task? c l with
  | none => .next s
  | some t =>
    match t.saving with
    | none => .next s
    | some why =>
      if !stopQuiet s t then .next s
      else
        let k := s.core c
        let id := s.nextId
        let mine := fun (p : Nat) => (heldBanks t).contains p
        let cut := if t.held then (taskSlots s t.uid).map (fun x => x.2.2) else []
        let t' : Task := { t with
          saving := none
          held := false
          flagged := 0
          srCyc := []
          bmap := t.bmap.filter (fun b => match b.2 with | .own _ => true | .alias_ .. => false)
          drains := t.drains.filter (fun d => mine d.bank)
          bfills := t.bfills.filter (fun d => mine d.bank)
          mlast := t.mlast.filter (fun b => mine b.1)
          vseen := t.vseen.filter (fun b => mine b.1)
          past := t.past.filter (fun x => mine x.bank)
          rtoks := (t.rtoks.map (fun r => { r with left := r.left.map (fun o => o.filter (· = l)) })).filter (fun r => r.left ≠ some [])
          run := t.run.map (fun r => { r with stopped := true })
          strm := t.strm.map (fun x => (x.1, { x.2 with feSince := none })) }
        let v : Saved :=
          { task := t', core := c, tstop := t.stopAt, byFault := t.stopped, held := t.held, watchdog := why = 1,
            banks := savedBanks k t, parked := k.replay.filter (fun p => p.slot = l), pins := k.pins.filter (fun p => p.slot = l) ++ t.repins,
            slots := cut.map (fun x => slotRec { x with state := 3, cause := 0, faddr := 0 }), nexts := cut.map CopySlot.next, ltime := 0,
            released := false }
        let s := s.releaseAt c t .sys
        let v : Saved := { v with ltime := (s.core c).ltime }
        let s := if t.held then s.dropSlots t.uid else s
        let s := { (s.fresh.vacate c l t) with saved := mset id v s.saved }
        let s := each (taskFills s t.uid) (fun f s => s.modFill f.1 (fun f => { f with orphan := true })) s
        let region := (s.pav? t.pav).any (fun p => p.heldRegions.any (fun h => h.1 = t.cr.region.toNat))
        .next (if t.stopped || t.held || why = 1 || region then s else s.requeue id)

/-! ## Restoring (R287, R291, R306, R314, R381, R384) -/

/-- May a core start or restore what is placed on it (R387, R389)? -/
def startsOn (s : State) (c pav : Nat) : Bool :=
  (s.core c).quarantine.isNone && (match s.pav? pav with | some p => p.st = .running | none => false)

/-- A physical bank's new number. -/
def rebank (m : List (Nat × Nat)) (p : Nat) : Nat := match m.find? (fun x => x.1 = p) with | some x => x.2 | none => p

/-- The bank that a token orders under its new number; one that the task reached through an alias it holds no more (R314). -/
def Tok.rebank (m : List (Nat × Nat)) (k : Tok) : Tok :=
  { k with bank := k.bank.map (fun p => match m.find? (fun x => x.1 = p) with | some x => x.2 | none => 64) }

/-- A change with its bank numbers replaced. -/
def Pending.rebank (m : List (Nat × Nat)) (x : Pending) : Pending :=
  let src := fun (o : Option Nat) => o.map (Machine.rebank m)
  { x with
    bank := Machine.rebank m x.bank
    op := match x.op with
      | .scale o cells mode => .scale (src o) cells mode
      | .copy o => .copy (src o)
      | op => op }

/-- The sequence counter of a slot, incremented at a start (Table 8-1). -/
def nextSeq (k : Core) (l : Nat) : BitVec 22 := mget l 0 k.seqs + 1

/-- The cycle from which a core's divider takes another division, after the restored entries of a task: a division that becomes
visible at r + n holds it until r + n - 2 (R380). -/
def Task.divAfter (t : Task) (at_ : Word64) : Word64 :=
  t.pend.foldl (fun a p => match p.res with
    | .fixed _ _ vis => if a.toNat < (vis - 2).toNat then vis - 2 else a
    | _ => a) at_

/-- A TASKID: slot, core, sequence number. -/
def taskIdOf (c l : Nat) (seq : BitVec 22) : Word32 := BitVec.ofNat 32 (l + c * 4 + seq.toNat * 1024)

/-- A pin of a restored task taken again on its tile, which is made present if a descriptor of the task names it (R384, log 44); it
stays to be taken while the tile's allocation waits or the core has no reassembly entry (R206, R300, R401). -/
def State.rePin (s : State) (c l : Nat) (p : Pin) : State :=
  match s.task? c l with
  | none => s
  | some t =>
    let gone := fun (s : State) => s.modTask c l (fun t => { t with repins := t.repins.filter (· ≠ p) })
    let named := (t.tslot.filter (fun (d : Nat × List Byte) => descOk d.2 && (readDesc d.2).tid = p.tag.tid)).head?
    let s := match s.line? (dieOf c) p.tag, named with
      | none, some (_, b) =>
        (s.missTile c t p.tag b { exact := false, ver := 0, hint := .none, rd := (readDesc b).rddef } none).1
      | _, _ => s
    match s.line? (dieOf c) p.tag with
    | none => if named.isNone then gone s else s
    | some (w, _) => gone ((List.replicate p.n ()).foldl (fun s _ => match s.line? (dieOf c) p.tag with
        | some (_, l') => (s.addPin c l t w l').1
        | none => s) s)

def State.rePins (s : State) (c l : Nat) : State :=
  match s.task? c l with
  | none => s
  | some t => each t.repins (fun p s => s.rePin c l p) s

/-- A parked fill of a register issued again: from memory with its checks, or as a tile lookup; one that fails again parks
again with a new record, as the last of the task's parked accesses (R386). -/
def State.reFill (s : State) (c l : Nat) (f : VFill) : State :=
  match s.task? c l with
  | none => s
  | some t =>
    let put := fun (s : State) (g : VFill → VFill) =>
      s.modTask c l (fun t => { t with fills := t.fills.map (fun x => if x.v = f.v then g x else x) })
    let again := fun (s : State) (code : BitVec 8) (va : Nat) =>
      (put s.fresh (fun x => { x with parkN := s.nextId })).postOnly c l (parkRec t .v code f.iaddr (BitVec.ofNat 64 va))
    match f.kind with
    | .parked els ty rd =>
      let as := els.map (fun e => ({ cell := e.1, va := e.2.1, n := (vaddr ty 0 0 0).n + b2n (ty = .i6 && decide (2 < e.2.2)), shift := e.2.2, align := (vaddr ty 0 0 0).align } : VAddr))
      let s := s.walkIn (dieOf c) t.pav (as.flatMap (fun a => pagesOf a.va a.n))
      let odd := as.find? (fun a => decide (a.va % a.align ≠ 0) && as.all (fun b => decide (a.cell ≤ b.cell) || (pagesOf b.va b.n).all
        (fun p => match xlateNow s (dieOf c) t.pav p .read with | .ok .. => true | _ => false)))
      let bad := as.findSome? (fun a => (pagesOf a.va a.n).findSome? (fun p => match xlateNow s (dieOf c) t.pav p .read with
        | .bad code => some (code, a.va)
        | .miss => some (fTrans, a.va)
        | .ok _ _ => none))
      match odd, bad with
      | some a, _ =>
        (s.modTask c l (fun t => t.landFill f (t.vreg f.v))).takeFaultOf c l .v fAlign false 0 f.iaddr (BitVec.ofNat 64 a.va) []
      | none, some (code, va) => again s code va
      | none, none =>
        let part := fun (va n : Nat) => match xlateNow s (dieOf c) t.pav va .read with
          | .ok lf pa => some ({ pa := pa, n := n, key := lf.key, cls := lf.cls } : VPart)
          | _ => none
        let el := fun (a : VAddr) =>
          let first := min a.n (128 - a.va % 128)
          ({ cell := a.cell, va := a.va, shift := a.shift,
             parts := ((if first < a.n then [(a.va, first), (a.va + first, a.n - first)] else [(a.va, a.n)]).filterMap (fun p => part p.1 p.2)) } : VEl)
        put s (fun x => { x with kind := .mem f.n (as.map el) ty rd })
    | .parkedTile g desc need sub mask =>
      let d := readDesc desc
      let s := if d.remote then s else s.walkIn (dieOf c) t.pav (footPages d g)
      match (if d.remote then none else footFault s (dieOf c) t.pav d g .read) with
      | some (code, va) => again s code va
      | none =>
        let s := put s (fun x => { x with kind := .tile f.n g desc need sub mask })
        match s.task? c l with
        | some t => if reasmFree s c && !standsBehind t (.load f.n g desc need sub) then s.vtldLook c l t f.n g desc need sub none else s
        | none => s
    | _ => s

/-- A task's parked accesses: commands of its M stream, fills of its V stream, copy slots. -/
inductive ParkedAccess where
  | prod (e : Parked)
  | fill (f : VFill)
  | slot (core n : Nat) (x : CopySlot)
  deriving DecidableEq, Repr

/-- Its place in the order of parking. -/
def ParkedAccess.parkN : ParkedAccess → Nat
  | .prod e => e.parkN
  | .fill f => f.parkN
  | .slot _ _ x => x.parkN

/-- Parked accesses in park order. -/
def inParkOrder (l : List ParkedAccess) : List ParkedAccess :=
  l.foldl (fun a x => a.filter (fun y => decide (y.parkN ≤ x.parkN)) ++ [x] ++ a.filter (fun y => decide (x.parkN < y.parkN))) []

/-- The parked accesses of a task on a slot of a core: what recovery mode has parked of it (R386). -/
def parkedOf (s : State) (c l : Nat) (t : Task) : List ParkedAccess :=
  inParkOrder (((s.core c).replay.filter (fun e => e.slot = l && e.recovery)).map .prod ++ (t.fills.filter VFill.isParked).map .fill
    ++ ((taskSlots s t.uid).filter (fun x => x.2.2.state = 4)).map (fun x => .slot x.1 x.2.1 x.2.2))

/-- A PAUSED slot goes on (R184). -/
def CopySlot.unpaused (x : CopySlot) : CopySlot :=
  { x with state := 0, cause := 0, detail := 0, faddr := 0, stage := .start }

/-- Every parked access of a resident task issued again, in park order (R184, R386): a fill at once, a command by its re-entry, which is
tried at once, a slot as its next accesses come. -/
def State.release (s : State) (c l : Nat) (t : Task) : State :=
  each (parkedOf s c l t) (fun x s => match x with
    | .fill f => s.reFill c l f
    | .slot c n _ => match mfind n (s.core c).copies with
      | some y => s.putSlot c n y.unpaused
      | none => s
    | .prod e =>
      let s := s.modParked c e.n (fun e => { e with recovery := false })
      match (s.core c).replay.find? (fun x => x.n = e.n) with
      | some e => if parkedReady s c e then s.reEnter c e else s
      | none => s) s

/-- TASK_RESTORE_DONE: a saved context continues on the slot it was placed on, under a new TASKID, in the lowest free banks, its
orphaned reassembly entries loaded into new ones, its replay entries re-issued, those of recovery mode where RQREL has released them, and
its pins taken again, which may wait (R283, R306, R314, R381, R384, R386). A restored stream counts as passed over by none (R285,
log 65, DESIGN CHOICE: Table 19-6 saves no count). -/
def execTaskRestoreDone (core : CoreId) (slot : SlotId) (s : State) : Out :=
  let c := core.val
  let l := slot.val
  let k := s.core c
  match mfind l k.starting with
  | none => .next (s.rePins c l)
  | some r =>
    match r.saved with
    | none => .next s
    | some id =>
      match mfind id s.saved with
      | none => .next s
      | some v =>
        let orphans := (taskFills s v.task.uid).filter (fun f => f.2.orphan)
        if !r.filled || !startsOn s c r.pav || decide (k.freeBanks.length < v.banks.length)
            || decide (32 < replayUse s c + v.parked.length + v.task.behindOps)
            || decide (256 < k.reasm.length + orphans.length) then .next s
        else
          let t := v.task.refly v.tstop s.cyc
          let seq := nextSeq k l
          let ps := k.freeBanks.take v.banks.length
          let nums := v.banks.map (·.1)
          let m := (nums.zip ps).filterMap (fun x => (t.ownBank x.1).map (fun old => (old, x.2)))
          let bankMap := fun (x : SMap Nat) => (x.map (fun y => (rebank m y.1, y.2))).foldl (fun a y => mset y.1 y.2 a) []
          let drains := fun (ds : List Drain) => ds.map (fun d => { d with bank := rebank m d.bank })
          let t' : Task := { t with
            taskid := taskIdOf c l seq
            prio := r.prio
            bmap := (nums.zip ps).foldl (fun a x => mset x.1 (.own x.2) a) []
            repins := v.pins
            mq := t.mq.map (fun x => x.rebank m)
            past := t.past.map (fun x => x.rebank m)
            toks := t.toks.map (fun x => (x.1, x.2.map (fun k => k.rebank m)))
            rtoks := t.rtoks.map (fun x => { x with bank := rebank m x.bank, left := x.left.map (fun _ => [l]) })
            drains := drains t.drains
            bfills := drains t.bfills
            mlast := bankMap t.mlast
            vseen := bankMap t.vseen
            stbase := t.stbase + (s.cyc - v.tstop)
            mAsk := t.mAsk.map (fun a => (s.nextId, a.2 + (s.cyc - v.tstop)))
            wdCount := if t.eff.wdMode = 2 then 0 else t.wdCount
            strm := t.strm.map (fun x => (x.1, { x.2 with since := s.cyc, passed := 0 })) }
          let parked := v.parked.map (fun p => { p with
            slot := l
            waits := []
            run := p.run.map (fun r => { r with stopped := true })
            prod := { p.prod with bank := rebank m p.prod.bank } })
          let s := s.fresh.modCore c (fun k => { k with
            starting := mdel l k.starting
            seqs := mset l seq k.seqs
            divAt := t.divAfter k.divAt
            banks := (ps.zip v.banks).foldl (fun a x => mset x.1 x.2.2 a) k.banks
            replay := k.replay ++ parked })
          let s := each orphans (fun f s => ((s.freeEntry f.2.core f.1).takeEntry c f.1 0).modFill f.1 (fun f =>
            { f with core := c, orphan := false, spilled := [] })) s
          let s := { (s.setTask c l t') with saved := mdel id s.saved }
          let s := s.acquireAt c t' .sys (tmax v.ltime (tmax t.rdts t.relts))
          let s := if v.released then each (inParkOrder ((t'.fills.filter VFill.isParked).map .fill)) (fun x s => match x with
              | .fill f => s.reFill c l f
              | _ => s) s else s
          .next (s.rePins c l)

/-! ## The context save area (Table 19-6) -/

/-- The 32 bytes of a CR (Table 11-2). -/
def CR.bytes (r : CR) : List Byte :=
  bytesOf 8 r.fp.toNat ++ bytesOf 8 r.join.toNat ++ bytesOf 2 r.image.toNat ++ bytesOf 2 r.region.toNat
    ++ bytesOf 4 (r.entry.toNat + b2n r.mbox * 2 ^ 24 + b2n r.resume * 2 ^ 25)
    ++ bytesOf 4 (r.prio.toNat + r.win.toNat * 2 ^ 5 + r.banks.toNat * 2 ^ 9 + r.gang.toNat * 2 ^ 16 + r.rank.toNat * 2 ^ 23)
    ++ bytesOf 4 (r.core.toNat + r.lacct.toNat * 2 ^ 8)

/-- A stream record. -/
def streamRec (t : Task) (k : Stream) : List Byte :=
  let x := t.st k
  let lb := fun (l : Option (BitVec 17 × BitVec 17)) => match l with
    | some (b, e) => bytesOf 4 b.toNat ++ bytesOf 4 e.toNat
    | none => bytesOf 8 0
  let inBlk : Bool := match x.phase with | .inBlock | .draining _ => true | _ => false
  let w := match x.wait with
    | some (.gen ..) => 0
    | some (.tok src n) => 1 * 2 ^ 8 + n * 2 ^ 10 + src.code * 2 ^ 14
    | none => 0
  let st := b2n (x.phase = .halted) + b2n (!x.spawned) * 2 + b2n inBlk * 4 + b2n x.l1.isSome * 8 + b2n x.l2.isSome * 16
    + b2n x.wait.isSome * 32 + b2n x.faulted * 64 + w
  let g := match x.wait with | some (.gen va _ g _) => (va.toNat, g.toNat) | _ => (0, 0)
  bytesOf 4 x.pc.toNat ++ bytesOf 4 x.blk.toNat ++ bytesOf 4 x.hdr.toNat ++ bytesOf 4 x.lc0.toNat ++ bytesOf 4 x.lc1.toNat
    ++ bytesOf 4 x.lc2.toNat ++ lb x.l1 ++ lb x.l2 ++ bytesOf 4 st ++ bytesOf 4 0 ++ bytesOf 8 g.1 ++ bytesOf 4 g.2
    ++ bytesOf 4 (if k = .m then t.stper.toNat else 0)

/-- The four streams, in the order of the area. -/
def allStreams : List Stream := [.s, .v, .m, .c]

/-- The counts of the twelve token FIFOs. -/
def tokenCounts (t : Task) : Nat :=
  (allStreams.flatMap (fun i => (otherStreams i).map (fun j => (t.fifo i j).length))).foldr (fun n w => n + 16 * w) 0

/-- One held bank of section 2 (log 18): elements of 16 bytes (Table 3-5), special bits of 2 bits, bank state word, rule-mode
flag. -/
def bankRec (b : Bank) : List Byte :=
  b.els.flatMap (fun e => bytesOf 16 (e.r2.toNat + e.r1.toNat * 2 ^ 42 + e.r0.toNat * 2 ^ 85))
    ++ (List.range 256).flatMap (fun i => bytesOf 1 ((List.range 4).foldl (fun w j =>
        w + ((b.els.getD (4 * i + j) zeroElem).sp.toNat) * 2 ^ (2 * j)) 0))
    ++ bytesOf 8 (bankWord b) ++ bytesOf 8 (b2n b.rule)

/-- A tag's bits 109:16 (Table 12-1). -/
def TTag.code (g : TTag) : Nat :=
  g.c0 + g.c1 * 2 ^ 16 + g.c2 * 2 ^ 32 + g.c3 * 2 ^ 48 + g.tid * 2 ^ 64 + g.key * 2 ^ 80 + g.pav * 2 ^ 87

/-- The steps of a run that a parked command stands for and that are still to issue. -/
def stepsLeft (r : Option MRun) : Nat :=
  match r.bind (fun r => (runOps r.word r.ext).map (fun x => x.n - r.step)) with
  | some n => n
  | none => 1

/-- A replay entry of section 5 (log 18): its instruction's address, its kind, whether recovery mode parked it, and what it is of; a slot
has its own record. -/
def ParkedAccess.bytes : ParkedAccess → List Byte
  | .prod p => bytesOf 4 p.iaddr.toNat ++ bytesOf 1 1 ++ bytesOf 1 (b2n p.recovery) ++ bytesOf 2 (stepsLeft p.run)
      ++ bytesOf 8 p.prod.atag.tid ++ bytesOf 8 (coordOf p.prod.atag).toNat ++ bytesOf 8 (coordOf p.prod.btag).toNat
  | .fill f => bytesOf 4 f.iaddr.toNat ++ bytesOf 1 2 ++ bytesOf 1 1 ++ bytesOf 2 f.v ++ bytesOf 24 0
  | .slot .. => []

/-! ### Snapshot entries (R380, log 18) -/

/-- What a destination held before the results in flight into it. -/
def Task.before (t : Task) (d : VDst) : Option VVal := (t.fly.find? (fun f => f.dst = d)).map (·.old)

/-- A vector register, a mask register, an A register of the V stream, and an S register as they stood when the task stopped,
without the results in flight. -/
def Task.vregStop (t : Task) (n : Nat) : Cells := match t.before (.v n) with | some (.cells c) => c | _ => t.vreg n
def Task.kregStop (t : Task) (n : Nat) : BitVec 1024 := match t.before (.k n) with | some (.mask m) => m | _ => t.kreg n
def Task.aregStop (t : Task) (n : Nat) : Word64 := match t.before (.a n) with | some (.word w) => w | _ => mget n 0 t.areg
def Task.sregStop (t : Task) (n : Nat) : Word64 :=
  ((t.pend.filter SPend.isFixed).findSome? (fun p => match p.res, p.dst with
    | .fixed _ old _, .s m => if m.val = n then some old else none
    | _, _ => none)).getD (t.sreg n)

/-- The queue positions that the S snapshot's entries reserve (QSTATE). -/
def Task.qstate (t : Task) : Nat :=
  (t.pend.filter SPend.isFixed).foldl (fun w p => match p.res, p.qpos with
    | .fixed .., some k => if nbit w k then w else w + 2 ^ k
    | _, _ => w) 0

/-- An S snapshot entry: value (8), destination register or 16 for none (1), queue position or 0 (1), remaining latency (2). -/
def sSnap (t : Task) (stop : Word64) : List (List Byte) :=
  (t.pend.filter SPend.isFixed).filterMap (fun p => match p.res with
    | .fixed v _ vis => some (bytesOf 8 v.toNat ++ bytesOf 1 (match p.dst with | .s n => n.val | .none => 16)
        ++ bytesOf 1 (match p.qpos with | some k => k + 1 | none => 0) ++ bytesOf 2 (vis - stop).toNat ++ bytesOf 4 0)
    | _ => none)

def VDst.code : VDst → Nat × Nat
  | .v n => (1, n)
  | .k n => (2, n)
  | .a n => (3, n)

def VVal.bytes : VVal → List Byte
  | .cells c => c.flatMap (fun w => bytesOf 4 w.toNat)
  | .mask m => bytesOf 128 m.toNat
  | .word w => bytesOf 8 w.toNat

/-- What a destination holds with every result in flight. -/
def Task.held_ (t : Task) : VDst → VVal
  | .v n => .cells (t.vreg n)
  | .k n => .mask (t.kreg n)
  | .a n => .word (mget n 0 t.areg)

/-- A V snapshot entry: kind (1: 1 vector, 2 mask, 3 A), sets ACC_UNALLOC (1), number (2), remaining latency (2), zero (10), then
the full value, which is what the next entry of the destination found there. -/
def vSnap (t : Task) (stop : Word64) : List VFly → List (List Byte)
  | [] => []
  | f :: fs =>
    let val := ((fs.find? (fun g => g.dst = f.dst)).map (·.old)).getD (t.held_ f.dst)
    (bytesOf 1 f.dst.code.1 ++ bytesOf 1 (b2n f.accu) ++ bytesOf 2 f.dst.code.2 ++ bytesOf 2 (f.vis - stop).toNat
      ++ bytesOf 10 0 ++ slice val.bytes 0 4096) :: vSnap t stop fs

/-- What a save area describes: a saved context, or (`live`) a task stopped in its slot. -/
structure AreaView where
  live : Bool
  task : Task
  flags : Nat
  tstop : Word64
  banks : List (Nat × Bank)
  parked : List Parked
  pins : List Pin
  slots : List (List Byte)
  fills : List (Nat × TFill)

/-- The replay entries of an area, in park order (R382). -/
def areaReplay (v : AreaView) : List ParkedAccess :=
  inParkOrder (v.parked.map .prod ++ (v.task.fills.filter VFill.isParked).map .fill)

/-- The sections of an area with their kinds and record counts; the flits of section 9 are those that came after the save. -/
def areaSections (v : AreaView) : List (Nat × Nat × List Byte) :=
  let t := v.task
  let fl := v.fills.flatMap (fun f => (f.2.got.filter (fun x => f.2.spilled.contains x.1)).map (fun x =>
    bytesOf 8 x.2.header.toNat ++ bytesOf 64 x.2.data.toNat))
  let page := match t.gram.page with | some p => p.1 ++ p.2 | none => []
  let rules := (List.range (16 * t.gram.count)).flatMap (fun n => match mfind n t.gram.slots with
    | some x => bytesOf 8 (b2n x.ev + b2n x.range * 2 + b2n x.inexact * 4 + x.cnt * 2 ^ 32)
    | none => bytesOf 8 0)
  let ss := sSnap t v.tstop
  let vs := vSnap t v.tstop t.fly
  let replay := areaReplay v
  [ (1, t.window, (List.range t.window).flatMap (fun n => (t.vregStop n).flatMap (fun c => bytesOf 4 c.toNat))),
    (2, v.banks.length, v.banks.flatMap (fun b => bankRec b.2)), (3, ss.length, ss.flatten),
    (4, vs.length, vs.flatten),
    (5, replay.length, replay.flatMap ParkedAccess.bytes), (6, v.slots.length, v.slots.flatten),
    (7, v.pins.length, v.pins.flatMap (fun p => bytesOf 12 p.tag.code ++ bytesOf 4 p.n)),
    (8, v.fills.length, v.fills.flatMap (fun f => bytesOf 8 f.1 ++ bytesOf 8 64 ++ bytesOf 8 f.2.flits.toNat ++ bytesOf 8 0)),
    (9, fl.length, fl.flatten), (10, page.length, page), (11, 16 * t.gram.count, rules) ]

/-- The directory and the data of the sections, which follow it in order of kind. -/
def areaTail (v : AreaView) : List Byte :=
  let ss := areaSections v
  let dir := ss.foldl (fun (x : List Byte × Nat) y =>
    (x.1 ++ bytesOf 4 y.1 ++ bytesOf 4 y.2.1 ++ bytesOf 8 x.2, x.2 + y.2.2.length)) ([], 0x1600)
  slice dir.1 0 256 ++ ss.flatMap (fun y => y.2.2)

/-- The bytes of a context save area. The age of an observed version counts from 1 for the newest, so that an entry of zeros is none
(log 18). -/
def areaBytes (v : AreaView) : List Byte :=
  let t := v.task
  let tail := areaTail v
  let mask := (t.acopy.map (fun a => a.1)).foldl (fun w i => if nbit w i then w else w + 2 ^ i) 0
  let obs := (t.obs.zip (List.range t.obs.length)).flatMap (fun x =>
    bytesOf 2 x.1.1.tid ++ bytesOf 8 (coordOf x.1.1).toNat ++ bytesOf 2 x.1.2 ++ bytesOf 4 (t.obs.length - x.2))
  let run := match t.run with
    | some r => runRec r
    | none => bytesOf 6 0 ++ bytesOf 2 0x1FF ++ bytesOf 24 0
  let itin := match t.itin with
    | some i => bytesOf 8 i.va.toNat ++ bytesOf 4 i.count ++ bytesOf 4 i.p ++ bytesOf 4 i.f
        ++ bytesOf 4 (i.win + (match i.hint with | .none => 0 | .pin => 1 | .last => 2 | .strm => 3) * 2 ^ 8)
    | none => []
  let win := match t.gram.win with | some (b, f) => b + b2n f * 2 ^ 16 + 2 ^ 31 | none => 0
  let gram := bytesOf 1 (b2n t.gram.page.isSome) ++ bytesOf 8 t.gram.pageVa.toNat ++ bytesOf 4 win
    ++ bytesOf 4 (t.gram.base + t.gram.count * 2 ^ 16)
  let bits := fun (n : Nat) (f : Nat → Bool) => (List.range n).foldl (fun w i => if f i then w + 2 ^ i else w) 0
  bytesOf 2 1 ++ bytesOf 2 v.flags ++ bytesOf 4 (0x1500 + tail.length) ++ bytesOf 4 t.taskid.toNat
    ++ bytesOf 4 (t.cr.region.toNat + (t.pav % 256) * 2 ^ 16 + t.key * 2 ^ 24) ++ bytesOf 8 v.tstop.toNat
    ++ bytesOf 8 t.stbase.toNat ++ ({ t.cr with resume := true } : CR).bytes ++ allStreams.flatMap (streamRec t)
    ++ (List.range 16).flatMap (fun n => bytesOf 8 (t.sregStop n).toNat)
    ++ (List.range 16).flatMap (fun n => bytesOf 8 (if nbit t.qstate n then 0 else (t.q.getD n 0).toNat)) ++ bytesOf 8 t.qstate ++ bytesOf 8 (tokenCounts t) ++ bytesOf 8 t.status.toNat ++ bytesOf 4 t.relts.toNat ++ bytesOf 4 t.rdts.toNat
    ++ bytesOf 8 (t.lease.toNat + t.prio * 2 ^ 8 + t.cr.win.toNat * 2 ^ 13 + v.banks.length * 2 ^ 17 + mask * 2 ^ 24) ++ bytesOf 24 0
    ++ (List.range 24).flatMap (fun n => bytesOf 8 (t.aregStop n).toNat)
    ++ (List.range 24).flatMap (fun n => bytesOf 8 (match (t.acopy.filter (fun a => a.1 = n)).getLast? with
        | some a => a.2.1.toNat | none => 0))
    ++ (List.range 7).flatMap (fun n => bytesOf 128 (t.kregStop (n + 1)).toNat)
    ++ bytesOf 48 (bits t.window (fun n => !t.empty.contains n)) ++ bytesOf 80 0
    ++ (List.range 32).flatMap (fun n => slice ((mfind n t.tslot).getD []) 0 64)
    ++ (List.range 32).flatMap (fun n => bytesOf 2 (mget n 0 t.tver).toNat)
    ++ bytesOf 4 (bits 32 (fun n => (t.desc n).isSome)) ++ bytesOf 4 (b2n t.ovf) ++ bytesOf 56 0 ++ slice obs 0 1024
    ++ run ++ slice itin 0 32 ++ slice gram 0 64 ++ tail

/-- The view of a saved context. -/
def Saved.view (s : State) (v : Saved) : AreaView :=
  { live := false, task := v.task, flags := b2n v.byFault + b2n v.held * 2 + b2n v.watchdog * 4, tstop := v.tstop, banks := v.banks,
    parked := v.parked, pins := v.pins, slots := v.slots ++ (taskSlots s v.task.uid).map (fun x => slotRec x.2.2)
    fills := taskFills s v.task.uid }

/-- The view of a task stopped in its slot. -/
def residentView (s : State) (c l : Nat) (t : Task) : AreaView :=
  let k := s.core c
  { live := true, task := t, flags := b2n t.stopped + b2n t.held * 2 + b2n (t.saving = some 1) * 4, tstop := t.stopAt, banks := savedBanks k t,
    parked := k.replay.filter (fun p => p.slot = l), pins := k.pins.filter (fun p => p.slot = l) ++ t.repins
    slots := (taskSlots s t.uid).map (fun x => slotRec x.2.2), fills := taskFills s t.uid }

/-- The stopped task that SNAPRD and SNAPWR name, as its area describes it. -/
def stoppedView (s : State) (t : Task) (a : Word64) : Option AreaView :=
  match namedTask s t a 0 with
  | .resident c l u => if u.stopped || u.saving.isSome then some (residentView s c l u) else none
  | .saved _ v => some (v.view s)
  | .nowhere => none

/-- A range of a pavilion's memory written at device scope: none and the code of the first page that fails otherwise. -/
def State.writeRange (s : State) (die pav va : Nat) (bs : List Byte) : State ⊕ BitVec 8 :=
  match (pagesOf va bs.length).findSome? (fun p => match xlateNow s die pav p .write with
    | .ok _ _ => none
    | .bad c => some c
    | .miss => some fTrans) with
  | some c => .inr c
  | none => .inl ((cuts va bs.length).foldl (fun s p => s.writeVa die pav (va + p.1) (slice bs p.1 p.2)) s)

/-- SNAPRD: the task's context save area written to b (Table 8-6). -/
def execSnaprd (d : SDst) (a b : SSrc) (s : State) : Out :=
  sysop d a b false (fun t x y =>
    match stoppedView s t x with
    | none => (s, 0x04)
    | some v =>
      match s.writeRange s.curDie t.pav y.toNat (areaBytes v) with
      | .inl s => (s, 0)
      | .inr c => (s, c.setWidth 64)) s

/-! ## Reading an area back (R383) -/

/-- The size of a section's records (Table 19-7). -/
def sectSize (kind : Nat) : Nat := [0, 4096, 16656, 16, 4112, 32, 32, 16, 32, 72, 1, 8].getD kind 0
/-- A section's count, the offset of its data, and its bytes. -/
def sectCount (b : List Byte) (kind : Nat) : Nat := field b (0x1500 + 16 * (kind - 1) + 4) 4
def sectOff (b : List Byte) (kind : Nat) : Nat := field b (0x1500 + 16 * (kind - 1) + 8) 8
def sectBytes (b : List Byte) (kind : Nat) : List Byte := slice b (sectOff b kind) (sectSize kind * sectCount b kind)
/-- Its records. -/
def sectRecs (b : List Byte) (kind : Nat) : List (List Byte) :=
  (List.range (sectCount b kind)).map (fun i => slice b (sectOff b kind + sectSize kind * i) (sectSize kind))

/-- The directory of an area: an entry for each kind in order, its data after that of the kinds before it, nothing after the last; SIZE is
what it comes to (R383; log 18). -/
def dirOk (b : List Byte) : Bool :=
  let at_ := fun (k : Nat) => (List.range (k - 1)).foldl (fun n i => n + sectSize (i + 1) * sectCount b (i + 1)) 0x1600
  (List.range 11).all (fun i => field b (0x1500 + 16 * i) 4 = i + 1 && sectOff b (i + 1) = at_ (i + 1))
    && (slice b (0x1500 + 176) 80).all (· = 0) && field b 4 4 = at_ 12

/-- A stream record read back over the context that the task has; none where a field passes its limit: its addresses lie in the image,
its loops in its block (R29, R40). A block's body comes from the image. -/
def readStream (s : State) (t : Task) (img : Option Image) (k : Stream) (b : List Byte) : Option StreamCtx :=
  let x := t.st k
  let f := fun (o : Nat) => field b o 4
  let st := f 0x28
  let p17 := fun (o : Nat) => BitVec.ofNat 17 (f o)
  let hdr := BitVec.ofNat 32 (f 8)
  let lo := img.elim 0 (·.base)
  let hi := img.elim 0 (fun i => i.base + i.code.length)
  let body := img.elim [] (fun i => tab (hdrLen hdr) (fun n => i.code.getD (f 4 + 2 + n - i.base) 0))
  let halted := nbit st 0
  let inBlk := nbit st 2
  let phase : Phase :=
    if halted then .halted
    else if !inBlk then .atHeader
    else match x.phase with | .draining a => .draining a | _ => .inBlock
  let src := Stream.ofCode (nbits st 15 14)
  let wait : Option (Option WaitCond) :=
    if !nbit st 5 then some none
    else if nbits st 9 8 = 1 then
      (if src = k || nbits st 13 10 = 0 then none else some (some (.tok src (nbits st 13 10))))
    else
      match xlateNow s (dieOf 0) t.pav (field b 0x30 8) .read with
      | .ok l pa => if l.cls = PClass.coh && field b 0x30 8 % 16 = 0 then
          some (some (.gen (BitVec.ofNat 64 (field b 0x30 8)) pa (BitVec.ofNat 32 (f 0x38)) none)) else none
      | _ => none
  let within := fun (n : Nat) => decide (lo ≤ n) && decide (n < hi)
  let blkEnd := f 4 + 2 + hdrLen hdr
  let loopOk := fun (on : Bool) (o : Nat) => !on || (inBlk && decide (f 4 + 2 ≤ f o) && decide (f o ≤ f (o + 4)) && decide (f (o + 4) ≤ blkEnd))
  let drains := match phase with | .draining _ => true | _ => false
  let pcOk := halted || (if inBlk then within (f 4) && decide (blkEnd ≤ hi) && decide (lo ≤ f 0) && decide (f 0 ≤ hi)
      && (drains || (decide (f 4 + 2 ≤ f 0) && decide (f 0 ≤ blkEnd))) else within (f 0))
  match wait with
  | none => none
  | some w =>
    if [0, 4, 0x18, 0x1C, 0x20, 0x24].any (fun o => decide (2 ^ 17 ≤ f o)) || st / 2 ^ 16 ≠ 0 || nbit st 7 || decide (1 < nbits st 9 8)
        || f 0x2C ≠ 0 || decide (2 ^ 12 ≤ f 0x3C) || (k ≠ .m && f 0x3C ≠ 0) || !pcOk || !loopOk (nbit st 3) 0x18 || !loopOk (nbit st 4) 0x20
        || (inBlk && (nbits hdr.toNat 31 30 ≠ 3 || (headerFault k hdr).isSome)) then none
    else some { x with
      pc := p17 0
      blk := p17 4
      hdr := hdr
      lbuf := if inBlk && (p17 4 ≠ x.blk || hdr ≠ x.hdr) then body else x.lbuf
      lc0 := BitVec.ofNat 32 (f 0x0C)
      lc1 := BitVec.ofNat 32 (f 0x10)
      lc2 := BitVec.ofNat 32 (f 0x14)
      l1 := if nbit st 3 then some (p17 0x18, p17 0x1C) else none
      l2 := if nbit st 4 then some (p17 0x20, p17 0x24) else none
      phase := phase
      spawned := !nbit st 1
      wait := w
      faulted := nbit st 6
      reps := if hdrRepeat hdr = 0 then (if x.reps.toNat < f 0x0C then BitVec.ofNat 32 (f 0x0C) else x.reps) else BitVec.ofNat 32 (hdrRepeat hdr) }

/-- A FIFO with as many tokens as an area gives it: those it holds first. -/
def resizeFifo (s : State) (t : Task) (i : Stream) (l : List Tok) (n : Nat) : List Tok :=
  l.take n ++ List.replicate (n - l.length) { newTok s t i with at_ := s.cyc - 1 }

/-- A bank read back from section 2. -/
def readBankRec (b : List Byte) (old : Bank) : Bank :=
  let w := field b 16640 8
  { old with
    els := tab 1024 (fun i =>
      let v := field b (16 * i) 16
      { r0 := BitVec.ofNat 43 (v / 2 ^ 85), r1 := BitVec.ofNat 43 (v / 2 ^ 42), r2 := BitVec.ofNat 42 v
        sp := BitVec.ofNat 2 (field b (16384 + i / 4) 1 / 2 ^ (2 * (i % 4))) })
    anchor := BitVec.ofNat 12 w
    range := nbit w 12
    inexact := nbit w 13
    count := BitVec.ofNat 20 (w / 2 ^ 14)
    rule := nbit (field b 16648 8) 0 }

/-- S snapshot entry i of an area put into a task that holds the area's registers, under the tag that it had or a new one; none where
a field passes its limit (R91, R380). -/
def readSSnap (b : List Byte) (stop : Word64) (old : List SPend) (tag : Nat) (t : Task) (i : Nat) : Option Task :=
  let o := sectOff b 3 + 16 * i
  let v := BitVec.ofNat 64 (field b o 8)
  let d := field b (o + 8) 1
  let q := field b (o + 9) 1
  let n := field b (o + 10) 2
  if 16 < d ∨ 16 < q ∨ n = 0 ∨ 34 < n ∨ field b (o + 12) 4 ≠ 0 then none
  else
    let dst : SDst := if d = 16 then .none else .s (Fin.ofNat 16 d)
    let was := match dst with | .s m => t.sreg m.val | .none => 0
    let p : SPend := match old[i]? with
      | some p => p
      | none => { tag := tag + i, dst := dst, qpos := none, iaddr := 0, faddr := 0, holds := false, acq := false, res := .fixed v was stop }
    let p' : SPend := { p with
      dst := dst
      qpos := if q = 0 then none else some (q - 1)
      res := .fixed v was (stop + BitVec.ofNat 64 n) }
    let t := { t with pend := t.pend ++ [p'] }
    let t := if q = 0 then t else { t with q := lset t.q (q - 1) v }
    some (t.setDst dst v)

/-- V snapshot entry i of an area put into a task that holds the area's registers and the entries before it. -/
def readVSnap (b : List Byte) (stop : Word64) (t : Task) (i : Nat) : Option Task :=
  let o := sectOff b 4 + 4112 * i
  let k := field b o 1
  let m := field b (o + 2) 2
  let n := field b (o + 4) 2
  let dst : VDst := if k = 1 then .v m else if k = 2 then .k m else .a m
  if k = 0 ∨ 3 < k ∨ 1 < field b (o + 1) 1 ∨ n = 0 ∨ 72 < n ∨ field b (o + 6) 10 ≠ 0 ∨ (k = 1 ∧ t.window ≤ m)
      ∨ (k = 2 ∧ (m = 0 ∨ 7 < m)) ∨ (k = 3 ∧ 7 < m) then none
  else
    let f : VFly := { dst := dst, old := t.held_ dst, vis := stop + BitVec.ofNat 64 n, accu := field b (o + 1) 1 = 1 }
    let t := { t with fly := t.fly ++ [f] }
    some (match dst with
      | .v m => { t with v := mset m (tab 1024 (fun j => BitVec.ofNat 32 (field b (o + 16 + 4 * j) 4))) t.v }
      | .k m => t.setK m (BitVec.ofNat 1024 (field b (o + 16) 128))
      | .a m => t.setA .v m (BitVec.ofNat 64 (field b (o + 16) 8)))

/-- A list of entries put one after another. -/
def readSnaps (f : Task → Nat → Option Task) (n : Nat) (t : Task) : Option Task :=
  (List.range n).foldl (fun o i => o.bind (fun t => f t i)) (some t)

/-- The image that a handle names for a pavilion, if it may be launched (R257, R277). -/
def launchable (s : State) (pav h : Nat) : Option Image :=
  match mfind h s.images with
  | some i => if i.pav = pav && !i.dropping then some i else none
  | none => none

/-- The CR of an area: what a record may hold (R259, Table 11-2), under the image's name that it may be launched from. REGION is read
only at 0x000C, and gang, rank and account are the device's; a task in its slot keeps its image, its window is fixed (log 18). -/
def readCr (s : State) (live : Bool) (t : Task) (b : List Byte) : Option CR :=
  let f := fun (o n : Nat) => field b (0x20 + o) n
  let w := f 0x14 4
  let p := f 0x18 4
  let c := f 0x1C 4
  let img := f 0x10 2
  let level := nbits p 4 0
  let imgOk := img = t.cr.image.toNat || (!live && (launchable s t.pav img).isSome)
  if 2 ^ 48 ≤ f 0 8 ∨ f 8 8 % 64 ≠ 0 ∨ !imgOk ∨ f 0x12 2 ≠ t.cr.region.toNat ∨ w / 2 ^ 26 ≠ 0 ∨ !nbit w 25
      ∨ (level ≠ t.cr.prio.toNat ∧ (level < t.eff.floor ∨ t.eff.ceil < level ∨ (if t.pav = 128 then 23 else 21) < level))
      ∨ nbits p 8 5 ≠ t.cr.win.toNat ∨ 64 < nbits p 15 9 ∨ nbits p 22 16 ≠ t.cr.gang.toNat ∨ nbits p 28 23 ≠ t.cr.rank.toNat
      ∨ p / 2 ^ 29 ≠ 0 ∨ (!nbit w 24 ∧ nbits c 7 0 ≠ 0) ∨ nbits c 27 8 ≠ t.cr.lacct.toNat ∨ c / 2 ^ 28 ≠ 0 then none
  else some { t.cr with
    fp := BitVec.ofNat 64 (f 0 8)
    join := BitVec.ofNat 64 (f 8 8)
    image := BitVec.ofNat 16 img
    entry := BitVec.ofNat 24 w
    mbox := nbit w 24
    prio := BitVec.ofNat 5 level
    banks := BitVec.ofNat 7 (nbits p 15 9)
    core := BitVec.ofNat 8 c }

/-- Do the fields that an area may not change agree with the one that the device holds: version, task, region, stop cycle, and the
sections of slots and reassembly entries, which are what the device holds (R382, R383)? -/
def areaAgrees (old new : List Byte) : Bool :=
  let same := fun (lo n : Nat) => decide (slice old lo n = slice new lo n)
  same 0 2 && same 8 0x10 && nbits (field new 2 2) 15 3 = 0 && [6, 8, 9].all (fun k => decide (sectBytes old k = sectBytes new k))

/-- Replay entries read back: each is one that the device holds, in whatever order; its mark of recovery mode may change for a command. -/
def readReplay : List ParkedAccess → List (List Byte) → Option (List ParkedAccess)
  | _, [] => some []
  | old, r :: rs =>
    let set := fun (x : ParkedAccess) => match x with
      | .prod e => ParkedAccess.prod { e with recovery := decide (field r 5 1 = 1) }
      | x => x
    match old.find? (fun x => decide ((set x).bytes = r)) with
    | none => none
    | some x => (readReplay (old.erase x) rs).map (fun ys => set x :: ys)

/-- A pin of section 7; none where its tag is no tile's of the task or its count is none (R206). -/
def readPin (t : Task) (slot : Nat) (r : List Byte) : Option Pin :=
  let g : TTag := { pav := t.pav % 128, key := t.key, tid := field r 8 2, c0 := field r 0 2, c1 := field r 2 2, c2 := field r 4 2, c3 := field r 6 2 }
  let n := field r 12 4
  if slice r 0 12 = bytesOf 12 g.code && decide (1 ≤ n) && decide (n ≤ 15) then some { slot := slot, tag := g, n := n } else none

/-- Are the elements of a list different? -/
def apart {α : Type} [DecidableEq α] : List α → Bool
  | [] => true
  | x :: xs => !xs.contains x && apart xs

/-- A page of section 10: one that GLOAD would take, with every byte of it that GLOAD reads (R318, Table 14-3); none where there is none
or it is not such. -/
def readPage (b : List Byte) : Option (List Byte × List Byte) :=
  let h := gHead b
  let nv := if h.mode = 1 then 128 else 0
  let p := (slice b 0 (b.length - nv), slice b (b.length - nv) nv)
  let nrt := 4 * (h.nrule + h.nrow)
  if decide (64 ≤ b.length) && headOk b && decide (h.page (slice p.1 0 64) (slice p.1 h.rtoff nrt ++ slice p.1 h.syoff (4 * h.nsym) ++ p.2) = p)
      && tablesOk p.1 && (orderFault p.1).isNone then some p else none

/-- The itinerary of an area over the one that the task has (R209): none where a field passes its limit; zeros are no itinerary. -/
def readItin (t : Task) (b : List Byte) : Option (Option Itin) :=
  let f := fun (o n : Nat) => field b o n
  if b.all (· = 0) then some none
  else
    let x : Itin := { va := BitVec.ofNat 64 (f 0 8), count := f 8 4, p := f 12 4, f := f 16 4, win := f 20 1, got := [], open_ := []
                      hint := if f 21 1 = 0 then .none else if f 21 1 = 1 then .pin else if f 21 1 = 2 then .last else .strm }
    if f 0 8 % 16 ≠ 0 ∨ x.f < x.p ∨ x.count < x.f ∨ x.p + x.win < x.f ∨ x.win < 4 ∨ 64 < x.win ∨ f 21 1 = 1 ∨ 3 < f 21 1 ∨ f 22 10 ≠ 0 then none
    else some (some (match t.itin with
      | some y => if y.va = x.va ∧ y.count = x.count ∧ y.p = x.p ∧ y.f = x.f then { x with got := y.got, open_ := y.open_ } else x
      | none => x))

/-- The observed versions of an area, oldest first: entries with an age, each of another tile and of another age (R297, Table 19-6). -/
def readObs (t : Task) (b : List Byte) : Option (List (TTag × Nat)) :=
  let e := (List.range 64).map (fun i => slice b (16 * i) 16)
  let on := e.filter (fun r => field r 12 4 ≠ 0)
  let tag := fun (r : List Byte) => ({ pav := t.pav % 128, key := t.key, tid := field r 0 2, c0 := field r 2 2, c1 := field r 4 2,
                                       c2 := field r 6 2, c3 := field r 8 2 } : TTag)
  let age := fun (r : List Byte) => field r 12 4
  if !(e.all (fun r => field r 12 4 ≠ 0 || r.all (· = 0))) || !apart (on.map tag) || !apart (on.map age) then none
  else
    let older := fun (r : List Byte) => (on.filter (fun x => decide (age r < age x))).length
    some ((List.range on.length).filterMap (fun i => (on.find? (fun r => older r = i)).map (fun r => (tag r, field r 10 2))))

/-- A context that an area gives. -/
structure AreaNew where
  task : Task
  banks : List (Nat × Bank)
  replay : List ParkedAccess
  pins : List Pin
  deriving DecidableEq, Repr

/-- The commands and fills of a list of replay entries under new places in the order of parking. -/
def renumber (n : Nat) (l : List ParkedAccess) : List ParkedAccess :=
  (l.zip (List.range l.length)).map (fun x => match x.1 with
    | .prod e => .prod { e with parkN := n + x.2 }
    | .fill f => .fill { f with parkN := n + x.2 }
    | .slot c l y => .slot c l y)
def prodsOf (l : List ParkedAccess) : List Parked := l.filterMap (fun x => match x with | .prod e => some e | _ => none)
def fillsOf (l : List ParkedAccess) : List VFill := l.filterMap (fun x => match x with | .fill f => some f | _ => none)

/-- The context of an area read back, or none where a check fails (R383). -/
def readArea (s : State) (v : AreaView) (b : List Byte) : Option AreaNew :=
  let t := v.task
  let f := fun (o n : Nat) => field b o n
  let cr := readCr s v.live t b
  let img := cr.bind (fun r => mfind r.image.toNat s.images)
  let strs := allStreams.map (fun k => (readStream s t img k (slice b (0x40 + 64 * k.code) 64)).map (fun x => (k.code, x)))
  let tv := f 0x260 8
  let obs := readObs t (slice b 0x1080 1024)
  let run := slice b 0x1480 32
  let step := field run 6 2
  let runOk := step = 0x1FF || (match runOps (BitVec.ofNat 32 (field run 0 4)) (BitVec.ofNat 16 (field run 4 2)) with
    | some x => decide (step ≤ x.n) && field run 8 8 = 0
    | none => false)
  let itin := readItin t (slice b 0x14A0 32)
  let win := f 0x14C9 4
  let gb := f 0x14CD 4
  let slots := gb / 2 ^ 16
  let valid := fun (n : Nat) => nbit (f 0x1040 4) n
  let page := readPage (sectBytes b 10)
  let pageOk := if f 0x14C0 1 = 1 then page.isSome && f 0x14C1 8 % 64 = 0 else f 0x14C0 1 = 0 && sectCount b 10 = 0
  let winOk := if win < 2 ^ 31 then win = 0 else win / 2 ^ 17 % 2 ^ 14 = 0 && decide (win % 2 ^ 16 + 255 < t.window)
  let bankRec := fun (i : Nat) => slice b (sectOff b 2 + 16656 * i) 16656
  let banksOk := (List.range v.banks.length).all (fun i =>
    let r := bankRec i
    field r 16640 8 / 2 ^ 34 = 0 && decide (field r 16648 8 ≤ 1))
  let rulesOk := (sectRecs b 11).all (fun r => field r 0 8 / 2 ^ 52 = 0 && nbits (field r 0 8) 31 3 = 0)
  let pins := (sectRecs b 7).map (readPin t (t.taskid.toNat % 4))
  let replay := readReplay (areaReplay v) (sectRecs b 5)
  let countsOk := sectCount b 1 = t.window && sectCount b 2 = v.banks.length && decide (sectCount b 3 ≤ 8) && decide (sectCount b 4 ≤ 24)
    && sectCount b 11 = 16 * slots
  if !dirOk b || !countsOk || !areaAgrees (areaBytes v) b || (v.live && f 2 2 ≠ v.flags) || strs.any (·.isNone) || cr.isNone
      || f 0x248 8 / 2 ^ 48 ≠ 0 || (f 0x250 8) ≠ ((BitVec.ofNat 64 (f 0x250 8)) &&& 0xFFFF00000000031F).toNat
      || nbits tv 7 0 = 0 || decide (t.eff.ceil < nbits tv 12 8) || decide (nbits tv 12 8 < t.eff.floor)
      || nbits tv 16 13 ≠ t.cr.win.toNat || nbits tv 23 17 ≠ v.banks.length || tv / 2 ^ 48 ≠ 0
      || decide (2 ^ t.window ≤ f 0x780 48) || decide (1 < f 0x1044 4) || !runOk || !banksOk || !rulesOk
      || !(List.range 32).all (fun n => !valid n || descOk (slice b (0x800 + 64 * n) 64))
      || !pageOk || !winOk || decide (64 < gb % 2 ^ 16 + slots) || !((slice b 0x14D1 47).all (· = 0)) || !((slice b 0x268 24).all (· = 0))
      || !((slice b 0x7B0 80).all (· = 0)) || !((slice b 0x1048 56).all (· = 0)) || pins.any (·.isNone) || !apart ((pins.filterMap id).map (·.tag)) then none
  else
    match obs, itin, replay with
    | some obs, some itin, some replay =>
      let replay := renumber s.nextId replay
      let kept := (prodsOf replay).map (·.n)
      let lost := (v.parked.map (·.n)).filter (fun n => !kept.contains n)
      let toks := (allStreams.flatMap (fun i => (otherStreams i).map (fun j => (i, j)))).zip (List.range 12)
      let t1 : Task := { t with
        cr := cr.getD t.cr
        fly := []
        pend := t.pend.filter (fun p => !p.isFixed)
        fills := t.fills.filter (fun f => !f.isParked) ++ fillsOf replay
        mq := t.mq.filter (fun x => !(x.open_ && lost.contains x.n))
        stbase := BitVec.ofNat 64 (f 0x18 8)
        stper := BitVec.ofNat 12 (f (0x40 + 128 + 0x3C) 4)
        strm := strs.filterMap id
        s := (List.range 16).map (fun n => (n, BitVec.ofNat 64 (f (0x140 + 8 * n) 8)))
        q := (List.range 16).map (fun n => BitVec.ofNat 64 (f (0x1C0 + 8 * n) 8))
        status := BitVec.ofNat 64 (f 0x250 8)
        relts := BitVec.ofNat 32 (f 0x258 4)
        rdts := BitVec.ofNat 32 (f 0x25C 4)
        lease := BitVec.ofNat 8 tv
        prio := nbits tv 12 8
        areg := (List.range 24).map (fun n => (n, BitVec.ofNat 64 (f (0x280 + 8 * n) 8)))
        acopy := ((List.range 24).filter (fun n => nbit (nbits tv 47 24) n)).map (fun n => (n, BitVec.ofNat 64 (f (0x340 + 8 * n) 8), s.cyc - 1))
        k := (List.range 7).map (fun n => (n + 1, BitVec.ofNat 1024 (f (0x400 + 128 * n) 128)))
        empty := (List.range t.window).filter (fun n => !nbit (f 0x780 48) n)
        tslot := (List.range 32).map (fun n => (n, if valid n then slice b (0x800 + 64 * n) 64 else []))
        tver := (List.range 32).map (fun n => (n, BitVec.ofNat 16 (f (0x1000 + 2 * n) 2)))
        ovf := f 0x1044 4 = 1
        obs := obs
        run := if step = 0x1FF then none else some
          { word := BitVec.ofNat 32 (field run 0 4), ext := BitVec.ofNat 16 (field run 4 2), step := step,
            acrd := BitVec.ofNat 64 (field run 16 8), bcrd := BitVec.ofNat 64 (field run 24 8),
            bank := (t.run.map (·.bank)).getD 0, iaddr := (t.run.map (·.iaddr)).getD (t.st .m).pc,
            parked := t.run.any (·.parked), stopped := true, descs := none, stamped := t.run.any (·.stamped) }
        itin := itin
        gram := { t.gram with
          page := if f 0x14C0 1 = 1 then page else none
          pageVa := BitVec.ofNat 64 (f 0x14C1 8)
          win := if win < 2 ^ 31 then none else some (win % 2 ^ 16, nbit win 16)
          base := gb % 2 ^ 16
          count := slots
          slots := (List.range (16 * slots)).filterMap (fun n =>
            let w := f (sectOff b 11 + 8 * n) 8
            if w = 0 then none else some (n, { ev := nbit w 0, range := nbit w 1, inexact := nbit w 2, cnt := nbits w 51 32 })) }
        v := (List.range t.window).map (fun n => (n, tab 1024 (fun i => BitVec.ofNat 32 (f (sectOff b 1 + 4096 * n + 4 * i) 4)))) }
      let t2 := toks.foldl (fun u x => u.setFifo x.1.1 x.1.2 (resizeFifo s t x.1.1 (u.fifo x.1.1 x.1.2) (nbits (f 0x248 8) (4 * x.2 + 3) (4 * x.2)))) t1
      let stop := v.tstop
      match (readSnaps (readSSnap b stop (t.pend.filter SPend.isFixed) (s.nextId + 64)) (sectCount b 3) t2).bind
          (readSnaps (readVSnap b stop) (sectCount b 4)) with
      | none => none
      | some t3 =>
        if f 0x240 8 ≠ t3.qstate || (fillsOf replay).any (fun x => !t3.empty.contains x.v) then none
        else some { task := t3, banks := (v.banks.zip (List.range v.banks.length)).map (fun x => (x.1.1, readBankRec (bankRec x.2) x.1.2)),
                    replay := replay, pins := pins.filterMap id }
    | _, _, _ => none

/-- What SNAPWR makes of a task in its slot: its context, its banks, its replay entries; its pins are released, to be taken again, where
they are others. -/
def State.putArea (s : State) (c l : Nat) (old : AreaView) (x : AreaNew) : State :=
  let tags := fun (ps : List Pin) => ps.map (fun p => (p.tag, p.n))
  let same := decide (tags x.pins = tags old.pins)
  let u := if same then x.task else { x.task with repins := x.pins }
  let s := x.banks.foldl (fun s m => match u.ownBank m.1 with
    | some p => s.modBank c p (fun b => { m.2 with owners := b.owners })
    | none => s) s
  (s.modCore c (fun k => { k with
    replay := k.replay.filter (fun e => e.slot ≠ l) ++ prodsOf x.replay
    pins := if same then k.pins else k.pins.filter (fun p => p.slot ≠ l) })).setTask c l u

/-- SNAPWR: the stopped task's context replaced from b; a layout version other than 1, or a field out of its limits, is
refused (R383, Table 8-6). -/
def execSnapwr (d : SDst) (a b : SSrc) (s : State) : Out :=
  sysop d a b false (fun t x y =>
    match stoppedView s t x with
    | none => (s, 0x04)
    | some v =>
      let bad := fun (n : Nat) => (pagesOf y.toNat n).findSome? (fun p => match xlateNow s s.curDie t.pav p .read with
        | .ok _ _ => none
        | .bad c => some c
        | .miss => some fTrans)
      let read := fun (n : Nat) => (s.readVa s.curDie t.pav y.toNat n).getD []
      match bad 0x1600 with
      | some c => (s, c.setWidth 64)
      | none =>
        if !dirOk (read 0x1600) then (s, 0x04)
        else
          let n := field (read 8) 4 4
          match bad n with
          | some c => (s, c.setWidth 64)
          | none =>
            match readArea s v (read n), namedTask s t x 0 with
            | some u, .resident c l _ => (({ s with nextId := s.nextId + 128 } : State).putArea c l v u, 0)
            | some u, .saved id w =>
              let f := field (read 8) 2 2
              ({ s with
                nextId := s.nextId + 128
                saved := mset id { w with
                  task := { u.task with stopped := nbit f 0 }
                  banks := u.banks
                  parked := prodsOf u.replay
                  pins := u.pins
                  byFault := nbit f 0
                  held := nbit f 1
                  watchdog := nbit f 2 } s.saved }, 0)
            | _, _ => (s, 0x04)) s

/-! ## RQREL (R386) -/

/-- RQREL: every parked access of the task is issued again in park order; of a saved task when it is restored, its slots, which run on,
at once (R384, R386). -/
def execRqrel (d : SDst) (a b : SSrc) (s : State) : Out :=
  sysop d a b false (fun t x y =>
    match namedTask s t x (zeroB b y) with
    | .resident c l u => (s.release c l u, 0)
    | .saved id v =>
      let v' := { v with
        released := true
        parked := v.parked.map (fun e => { e with recovery := false }) }
      ((({ s with saved := mset id v' s.saved } : State) |> fun s => each (inParkOrder (((taskSlots s v.task.uid).filter (fun x =>
        x.2.2.state = 4)).map (fun x => .slot x.1 x.2.1 x.2.2))) (fun x s => match x with
          | .slot c n y => s.putSlot c n y.unpaused
          | _ => s) s), 0)
    | .nowhere => (s, 0x04)) s

end Sys2Proof.Machine
end

