-- ==== Sys2Proof/Machine/Keys.lean ====
section
/-!
DEFINITION. Key retirement, and the ticks and floor of logical time (spec/08 R242, spec/12 R309, spec/16 R344, R347, R348,
R351).
-/

namespace Sys2Proof.Machine

/-! ## Lines that leave every cache and tarn (R309, R351, R396) -/

/-- The L1 and DLC lines that pass a test, written back where dirty and dropped. -/
def State.flushCaches (s : State) (f : CLine → Bool) : State :=
  let s := each s.cores (fun c s =>
    let s := each (c.2.l1.filter (fun l => f l && !l.coh && l.dirty ≠ 0)) (fun l s => s.toDlc c.1 l) s
    s.modCore c.1 (fun k => { k with l1 := k.l1.filter (fun l => !f l) })) s
  let s := each s.dies (fun d s =>
    let s := each ((s.die d.1).dlc.filter (fun l => f l && l.dirty ≠ 0)) (fun l s => s.toMem d.1 l) s
    s.modDie d.1 (fun x => { x with dlc := x.dlc.filter (fun l => !f l) })) s
  s.settle (fun r => r.pay.isSome)

/-- The present tarn lines that pass a test, evicted: dropped, or their write-back begun. -/
def State.flushTiles (s : State) (f : TLine → Bool) : State :=
  each s.dies (fun d s => each (d.2.tarn.filter (fun l => !l.2.filling && f l.2)) (fun l s => (s.evict d.1 l.1 l.2 0).1) s) s

/-- Is a tile that passes a test still in a tarn, on its way out of one, or on its way to one from a home that has served it? -/
def tilesLeft (s : State) (f : TTag → Bool) : Bool :=
  let leaves := fun (m : TMsg) => match m.kind with
    | .wbBegin _ | .writing _ | .publish _ => true
    | _ => false
  s.dies.any (fun d => d.2.tarn.any (fun l => !l.2.filling && f l.2.tag)) || s.tmsgs.any (fun m => leaves m.2 && f m.2.tag)
    || s.tfills.any (fun x => x.2.data.isSome && f x.2.tag)

/-- The directory entries and version records of the tiles that pass a test removed (R309). -/
def State.forgetTiles (s : State) (f : TTag → Bool) : State :=
  { s with homes := s.homes.map (fun (h : Nat × Home) => (h.1, ({ h.2 with
      dir := h.2.dir.filter (fun e => !f e.2.tag)
      vers := h.2.vers.filter (fun v => !f v.1)
      places := h.2.places.filter (fun x => !f x.1) } : Home))) }

/-- The tiles that pass a test and that no tarn holds any longer given up: fills that no home has served are dropped with their lines, and
the homes forget the tiles (R309). -/
def State.endTiles (s : State) (f : TTag → Bool) : State :=
  (each (s.tfills.filter (fun x => f x.2.tag)) (fun x s => s.cancelFill x.1) s).forgetTiles f

/-! ## KEYRET (R242, R351) -/

/-- Is a key id the current one of a pavilion? -/
def keyInUse (s : State) (key : Nat) : Bool := key = 0 || s.pavs.any (fun p => p.2.key = key)

/-- A key id put back into the pool, unless it is a current one: what memory holds under it is no longer readable, whoever is given the
id next (R351, R391). -/
def State.poolKey (s : State) (key : Nat) : State :=
  if keyInUse s key then s
  else
    { s with
      memKey := s.memKey.map (fun p => (p.1, if p.2 = key then 256 else p.2))
      dev := { s.dev with keyPool := ladd key s.dev.keyPool } }

/-- A key id retired: its pavilions remember it, and it returns to the pool unless it is still a current one. -/
def State.retireKey (s : State) (key : Nat) : State :=
  let note := fun (p : Pav) => if p.key = key then { p with retired := ladd key p.retired } else p
  ({ s with pavs := s.pavs.map (fun (p : Nat × Pav) => (p.1, note p.2)) } : State).poolKey key

/-- KEYRET: every line of the key is written back and dropped; with the last one gone the homes forget its tiles, the key is retired and the
instruction completes. -/
def execKeyret (d : SDst) (a b : SSrc) (s : State) : Out :=
  onTask s fun t =>
    let key := nbits (t.src a).toNat 6 0
    if t.eff.sysSvc && t.pav = 128 && t.ready [a, b] && t.dstReady d && tilesLeft s (fun g => g.key = key) then
      (s.flushCaches (fun l => l.key = key)).flushTiles (fun l => l.tag.key = key)
    else
      match sysop d a b true (fun _ x _ =>
        let key := nbits x.toNat 6 0
        (((s.flushCaches (fun l => l.key = key)).endTiles (fun g => g.key = key)).retireKey key, 0)) s with
      | .next s => s
      | _ => s

/-! ## Logical time (R344, R347, R348) -/

/-- Would the tick that is due, or a request at a home, set a time past the limit (R348)? -/
def floorAsked (s : State) : Bool :=
  (tickDue s && (List.range 256).any (fun c => beyondFloor s ((s.core c).tick.ltime)))
    || s.reqs.any (fun r => r.2.waiting && r.2.cls = PClass.coh && beyondFloor s (timeOf s r.2))

/-- LTIME_TICK: the 256 cores advance at the end of a tick of 256 cycles, those apart whose LTIME a rule raised in it (R344). -/
def execLtimeTick (s : State) : Out := .next s.endTick

/-- FLOOR_BROADCAST: every 2^24 ticks, or early where a time would pass the limit (R348). -/
def execFloorBroadcast (s : State) : Out :=
  .next (if s.dev.floorTick + 2 ^ 24 ≤ s.dev.ticks || floorAsked s then s.broadcast else s)

end Sys2Proof.Machine
end

