-- ==== Sys2Proof/Machine/Tasks.lean ====
section
/-!
DEFINITION. A task at its start (spec/10 R261, Table 10-8, spec/08 Table 8-1, spec/11 R276).
-/

namespace Sys2Proof.Machine

/-- A grammar unit with nothing loaded. -/
def noGrammar : Grammar := { page := none, pageVa := 0, win := none, base := 0, count := 0, anchor := 0, slots := [] }

/-- The stream contexts of a starting task: V, M and C halted and never spawned, S at its entry header (R261). -/
def startStreams (pc : BitVec 17) (cyc : Word64) : SMap StreamCtx :=
  [(0, { StreamCtx.reset with pc := pc, phase := .atHeader, spawned := true, since := cyc })]

/-- A task with the state of Table 10-8: a frame pointer, a join address, GANG and TASKID in S0 to S3. -/
def newTask (pav key : Nat) (cr : CR) (eff : Eff) (taskid : Word32) (gangId : Option Nat) (pc : BitVec 17)
    (cyc : Word64) (banks : SMap BankRef) : Task :=
  { uid := 0, pav := pav, key := key, cr := cr, eff := eff, taskid := taskid, gangId := gangId, prio := cr.prio.toNat,
    lease := BitVec.ofNat 8 eff.lease, started := cyc, exiting := false, stopped := false, held := false, saving := none,
    fault := 0, faddr := 0, skipTo := none, stopAt := 0, status := 0, flagged := 0, srCyc := [], inv := [], relts := 0, rdts := 0, wdCount := 0,
    wdDue := false,
    beacon := (0, 0),
    s := [(0, cr.fp), (1, cr.join), (2, BitVec.ofNat 64 (cr.rank.toNat + cr.gang.toNat * 2 ^ 16)), (3, taskid.setWidth 64)],
    q := List.replicate 16 0, pend := [], strm := startStreams pc cyc, areg := [], acopy := [], toks := [], v := [],
    empty := [], k := [], fly := [], fills := [], stores := [], drains := [], bfills := [], mlast := [], past := [], vseen := [], mseen := 0, bmap := banks, mq := [],
    run := none, stamp := none, stbase := 0, stper := 0, rtoks := [], gram := noGrammar, tslot := [], tver := [],
    obs := [], ovf := false, itin := none, report := none, repins := [], mAsk := none }

end Sys2Proof.Machine
end

