-- ==== Sys2Proof/Machine/Sched.lean ====
section
/-!
DEFINITION. The dispatchers: checking and queueing records, decisions, pre-emption, gangs, migration; the start and end of
tasks; watchdog, energy, thermal limits, loss of core state, the end of a freeze (spec/11 R276-R284, R288-R291, spec/10
R258-R261, spec/08 R230-R233, spec/19 R387-R390).
-/

namespace Sys2Proof.Machine

/-! ## Records (R259, R277, Tables 10-7, 11-2) -/

/-- The fields of a continuation or launch record that are checked, with their byte offsets. -/
structure RecView where
  fp : Nat
  join : Nat
  image : Nat
  region : Nat
  prio : Nat
  win : Nat
  banks : Nat
  gang : Nat
  zero : List (Nat × Nat)
  offs : List Nat
  deriving DecidableEq, Repr

/-- A CR as 32 bytes hold it; the fields that must be zero with their offsets. -/
def crView (b : List Byte) : RecView :=
  let w := field b 0x18 4
  let c := field b 0x1C 4
  { fp := field b 0 8, join := field b 8 8, image := field b 0x10 2, region := field b 0x12 2, prio := nbits w 4 0,
    win := nbits w 8 5, banks := nbits w 15 9, gang := nbits w 22 16,
    zero := [(0x17, field b 0x17 1), (0x1A, nbits w 28 23), (0x1B, nbits w 31 29), (0x1C, nbits c 7 0), (0x1D, nbits c 27 8),
             (0x1F, nbits c 31 28)],
    offs := [0, 8, 0x10, 0x12, 0x18, 0x18, 0x19, 0x1A] }

/-- A launch record as 32 bytes hold it. -/
def launchView (b : List Byte) : RecView :=
  let w := field b 0x1C 4
  { fp := field b 0 8, join := field b 0x10 8, image := field b 0x18 2, region := field b 0x1A 2, prio := nbits w 4 0,
    win := nbits w 8 5, banks := nbits w 15 9, gang := nbits w 22 16, zero := [(0x1E, nbits w 31 23)],
    offs := [0, 0x10, 0x18, 0x1A, 0x1C, 0x1C, 0x1D, 0x1E] }

/-- The level that a record asks for; 31 in a CR is the region's (Table 11-2). -/
def RecView.level (r : RecView) (cr : Bool) (e : Eff) : Nat := if cr && r.prio = 31 then e.prio else r.prio

/-- The first field at fault of a record (R277, Table 8-4); none where it is accepted. -/
def recFault (s : State) (pav : Nat) (r : RecView) (cr : Bool) : Option Nat :=
  let o := fun (i : Nat) => r.offs.getD i 0
  let e := regionEff s pav r.region
  let x := e.getD noEff
  let p := r.level cr x
  let bad := (r.zero.filter (fun z => z.2 ≠ 0)).map (·.1)
    ++ (if r.fp / 2 ^ 48 = 0 then [] else [o 0]) ++ (if r.join % 64 = 0 then [] else [o 1])
    ++ (if (launchable s pav r.image).isSome then [] else [o 2]) ++ (if e.isSome then [] else [o 3])
    ++ (if e.isSome && (decide ((if pav = 128 then 23 else 21) < p) || decide (p < x.floor) || decide (x.ceil < p)) then [o 4] else [])
    ++ (if r.win = 0 ∨ 12 < r.win ∨ (e.isSome ∧ x.winLim < r.win) then [o 5] else [])
    ++ (if 64 < r.banks ∨ (e.isSome ∧ x.banks < r.banks) then [o 6] else [])
    ++ (if r.gang = 0 ∨ 64 < r.gang then [o 7] else [])
  match bad with
  | [] => none
  | b :: bs => some (bs.foldl min b)

/-- An accepted record as a CR, with the fields that the device writes (R277). -/
def RecView.toCr (r : RecView) (entry level : Nat) (mbox : Option Nat) (acct : BitVec 20) : CR :=
  { fp := BitVec.ofNat 64 r.fp, join := BitVec.ofNat 64 r.join, image := BitVec.ofNat 16 r.image, region := BitVec.ofNat 16 r.region,
    entry := BitVec.ofNat 24 entry, mbox := mbox.isSome, resume := false, prio := BitVec.ofNat 5 level, win := BitVec.ofNat 4 r.win,
    banks := BitVec.ofNat 7 r.banks, gang := BitVec.ofNat 7 r.gang, rank := 0, core := BitVec.ofNat 8 (mbox.getD 0), lacct := acct }

/-! ## Accounts (R268, R288) -/

/-- A launch account and launch id taken for a pavilion; none where the table is full. The lowest free number is taken (log
19). -/
def State.newAcct (s : State) (pav region budget : Nat) : Option (State × Nat) :=
  match s.pav? pav with
  | none => none
  | some p =>
    if 2 ^ 20 ≤ s.accts.length then none
    else
      let a := lowestFree s.accts
      let lid := p.nextLid
      let l : Launch := { acct := a, region := region, live := true, budget := budget, charge := 0, exhausted := false, started := 0, ended := 0, faults := 0 }
      let s := { s with accts := mset a { pav := pav, lid := lid, budget := budget, charge := 0, exhausted := false, exhAt := 0 } s.accts }
      some (s.modPav pav (fun p => { p with nextLid := lid + 1, launches := mset lid l (mdel (lid - 4096) p.launches) }), a)

/-- Is an account's launch exhausted? -/
def spent (s : State) (acct : Nat) : Bool := match mfind acct s.accts with | some a => a.exhausted | none => false

/-! ## CR_ENQUEUE (R231, R277, R278) -/

/-- A status given to the FORK or LAUNCH that waits for it. -/
def State.answerSub (s : State) (x : CrFrom) (v : Word64) : State :=
  match x with
  | .fork k tag | .launch k tag _ =>
    s.modTask k.core.val k.slot.val (fun t => { t with pend := t.pend.map (fun p => if p.tag = tag then { p with res := .value v } else p) })
  | _ => s

/-- The die whose agent enqueues a record (R278). -/
def CrFrom.die : CrFrom → Nat
  | .fork k _ | .launch k _ _ => dieOf k.core.val
  | .join _ _ home _ | .handler _ _ home => home / 8

/-- The image that a record on its way names. -/
def CrSub.image (x : CrSub) : BitVec 16 := BitVec.ofNat 16 (field x.rec_ (match x.src with | .launch .. => 0x18 | _ => 0x10) 2)

/-- A record refused: a status, a fault record for a join, nothing for a handler (R231, R233, R376); an image whose drop waited for it is
freed (R257). -/
def State.refuseSub (s : State) (x : CrSub) (off : Nat) : State :=
  match x.src with
  | .join task region _ acct =>
    let e := (regionEff s x.pav region).getD noEff
    let r : FRec := { code := fIllegalOperand, stream := 4, flags := 0, pav := x.pav, region := region, aux := 0, taskid := task,
                      iaddr := 0, faddr := 0, attach := [] }
    ((s.postRecord e.fq r e.storm acct.toNat).1.freeAcct acct.toNat).freeImage x.image
  | src => (s.answerSub src (BitVec.ofNat 64 (4 + off * 2 ^ 8))).freeImage x.image

/-- An accepted record put into its die's queue, where that has room; its launch exhausted, at its region's FLOOR. -/
def State.queueCr (s : State) (pav : Nat) (cr : CR) (die floor : Nat) (ts : Word32) : Option State :=
  let level := if spent s cr.lacct.toNat then floor else cr.prio.toNat
  let d := if cr.mbox then dieOf cr.core.toNat else queueDie s pav cr.fp die
  if roomFor s d level cr.gang.toNat then some (s.enqueue d level pav cr none false ts) else none

/-- CR_ENQUEUE: a record is checked once, a launch takes its account, and the record enters a queue once that has room. -/
def execCrEnqueue (id : Nat) (s : State) : Out :=
  match mfind id s.crsubs with
  | none => .next s
  | some x =>
    let gone := fun (s : State) => ({ s with crsubs := mdel id s.crsubs } : State)
    let isCr : Bool := match x.src with | .launch .. => false | _ => true
    let v := if isCr then crView x.rec_ else launchView x.rec_
    let e := (regionEff s x.pav v.region).getD noEff
    match (if x.checked then none else recFault s x.pav v isCr) with
    | some off => .next ((gone s).refuseSub x off)
    | none =>
      let entry := match mfind v.image s.images with | some i => i.entry | none => 0
      let entry := if isCr then nbits (field x.rec_ 0x14 4) 23 0 else entry
      let own := match x.src with
        | .launch .. => if field x.rec_ 8 8 = 0 then e.energy else field x.rec_ 8 8
        | _ => e.energy
      let taken := match x.acct with
        | some a => some (s, a.toNat)
        | none => s.newAcct x.pav v.region own
      match taken with
      | none => .next ((gone s).refuseSub x 8)
      | some (s', a) =>
        let cr := { v.toCr entry (v.level isCr e) none (BitVec.ofNat 20 a) with addr := x.addr }
        match s'.queueCr x.pav cr x.src.die e.floor x.ts with
        | none => .next { s' with crsubs := mset id { x with acct := some (BitVec.ofNat 20 a), checked := true } s'.crsubs }
        | some s' =>
          let s' := match x.src with
            | .handler fq .. => s'.modPav x.pav (fun p => { p with handlers := p.handlers ++ [(fq, a)] })
            | _ => s'
          .next ((gone s').answerSub x.src 0)

/-! ## Placing (R279, R280, R284) -/

/-- The resident tasks that still have to leave for a record. -/
def leaving (s : State) (ids : List Word32) : List (Nat × Nat) :=
  (s.tasks.filter (fun t => ids.contains t.2.2.taskid)).map (fun t => (t.1, t.2.1))

/-- The state in which some tasks have left. -/
def State.withoutAll (s : State) (ts : List (Nat × Nat)) : State := each ts (fun t s => s.without t.1 t.2) s

/-- Could every record that waits for tasks to leave still be placed then? No decision may take what they wait for (R283). -/
def claimsKept (s : State) : Bool :=
  s.dies.all (fun d => d.2.levels.all (fun l => l.2.crs.all (fun q => match q.claim with
    | none => true
    | some (core, ids) =>
      let s' := s.withoutAll (leaving s ids)
      match core with
      | some c => (fitOn s' c q).isSome
      | none => (placesFor s' d.1 q).isSome)))

/-- The slots reserved for gangs against a record of a level (R284), shown as taken. -/
def State.hideReserved (s : State) (level age : Nat) : State :=
  each (s.dies.flatMap (fun d => d.2.reserves.flatMap (fun r =>
    if r.1 = age then []
    else
      match d.2.levels.findSome? (fun l => (l.2.crs.find? (fun q => q.age = r.1)).map (fun q => (l.1, q))) with
      | some (p, g) => if level ≤ p then r.2.filter (fun x => (fitOn s x.1 g).isSome && (s.core x.1).slotFree x.2) else []
      | none => [])))
    (fun x s => s.modCore x.1 (fun k => { k with vwin := mset x.2 (0, 0) k.vwin })) s

/-- The places that a decision gives a queued record or gang now. -/
def placesNow (s : State) (d level : Nat) (q : QCr) : Option (List Place) :=
  let h := s.hideReserved level q.age
  let put := fun (s : State) (ps : List Place) => each ps (fun p s => placeOn s p.core p.slot p.run (q.starting level)) s
  if q.claim.isSome then none
  else if q.cr.gang.toNat ≤ 1 then
    (coreOrder s d).findSome? (fun c => match fitOn h c q with
      | some (l, b) =>
        let ps : List Place := [{ core := c, slot := l, run := b }]
        if claimsKept (put s ps) then some ps else none
      | none => none)
  else
    match placesFor h d q with
    | some ps => if claimsKept (put s ps) then some ps else none
    | none => none

/-- A record put on its slot; the fill of its image begins unless it is resident (R258). -/
def State.putRecord (s : State) (p : Place) (r : Starting) : State :=
  let k := s.core p.core
  let there := k.resident.contains r.cr.image && !k.filling.any (fun f => f.2 = r.cr.image)
  (placeOn s p.core p.slot p.run { r with filled := there }).modCore p.core (fun k =>
    { k with filling := if there then k.filling else k.filling ++ [(p.slot, r.cr.image)] })

/-- The records of a queued unit placed (R280, R284): ranks in the order of placement, a new gang under a new number. -/
def State.placeUnit (s : State) (d level : Nat) (q : QCr) (ps : List Place) : State :=
  let all := dieCrs s d
  let unit := unitOf s (all.map (·.2)) q
  let ages := unit.map (·.age)
  let fresh := decide (1 < q.cr.gang.toNat) && q.saved.isNone
  let gid := s.nextId
  let s := if fresh then
      let g : Gang := { pav := q.pav, size := q.cr.gang.toNat, join := q.cr.join, members := [], ended := 0, aborted := false }
      { s.fresh with gangs := mset gid g s.gangs }
    else s
  let s := s.modLevels d (fun m => m.map (fun (p : Nat × Level) => (p.1, p.2.drop (fun x => ages.contains x.age))))
  let s := s.modDie d (fun x => { x with reserves := x.reserves.filter (fun r => r.1 ≠ q.age) })
  each (ps.zip (unit.zip (List.range unit.length))) (fun x s =>
    let u := x.2.1
    let cr := if fresh then { u.cr with rank := BitVec.ofNat 6 x.2.2 } else u.cr
    let at_ := if u.age = q.age then level else ((all.find? (fun y => y.2.age = u.age)).map (·.1)).getD level
    s.putRecord x.1 { u.starting at_ with
      cr := cr
      gangId := if fresh then some gid else savedGang s u }) s

/-! ## One decision (R280) -/

/-- The CRs of a level that the procedure of R280 may place: for each region its oldest that is placeable, with its places. -/
def placeable (s : State) (d level : Nat) (l : Level) : List ((Nat × Nat) × QCr × List Place) :=
  l.deficit.filterMap (fun x =>
    let g := (x.1, x.2.1)
    match l.oldest g (fun q => (placesNow s d level q).isSome) with
    | none => none
    | some q => (placesNow s d level q).map (fun ps => (g, q, ps)))

/-- The weighted round robin of one level (R280): the level as it leaves it and the record to place. -/
def roundRobin (weight : Nat × Nat → Nat) (ready : List ((Nat × Nat) × QCr × List Place)) : Nat → Level → Level × Option (QCr × List Place)
  | 0, l => (l, none)
  | n + 1, l =>
    match l.ptr with
    | none => (l, none)
    | some g =>
      match ready.find? (fun r => r.1 = g) with
      | none => roundRobin weight ready n { l with deficit := setDeficit l.deficit g 0, ptr := nextRegion l.deficit g }
      | some (_, q, ps) =>
        let x := getDeficit l.deficit g
        if 256 ≤ x then ({ l with deficit := setDeficit l.deficit g (x - 256) }, some (q, ps))
        else roundRobin weight ready n { l with deficit := setDeficit l.deficit g (x + weight g), ptr := nextRegion l.deficit g }

/-- The WEIGHT of a region at a level, as last read at an enqueue there (R273). -/
def weightOf (l : Level) (g : Nat × Nat) : Nat :=
  match (l.crs.filter (fun q => q.region = g)).getLast? with
  | some q => q.eff.weight
  | none => 0

/-- The levels from 23 down tried in turn; true where a record has been placed. -/
def tryLevels (d : Nat) : Nat → State → State × Bool
  | 0, s => (s, false)
  | p + 1, s =>
    let l := mget p Level.empty (s.die d).levels
    let ready := placeable s d p l
    if ready.isEmpty then tryLevels d p s
    else
      let r := roundRobin (weightOf l) ready (258 * (l.deficit.length + 1)) l
      match r.2 with
      | none => tryLevels d p s
      | some (q, ps) => ((s.modLevels d (fun m => mset p r.1 m)).placeUnit d p q ps, true)

/-- The head CR of the highest level of a die that holds a record which may be dispatched (log 15). -/
def headCr (s : State) (d : Nat) : Option (Nat × QCr) :=
  let may := fun (q : QCr) => dispatches s q.pav q.cr.region
  (s.die d).levels.reverse.findSome? (fun p =>
    let l := p.2
    let all : List (Nat × Nat) := l.deficit.map (fun x => (x.1, x.2.1))
    let order := match l.ptr with
      | none => all
      | some g => all.filter (fun x => !regionLt x g) ++ all.filter (fun x => regionLt x g)
    (order.findSome? (fun x => l.oldest x may)).map (fun q => (p.1, q)))

/-! ## Pre-emption (R283) -/

/-- A candidate: the tasks that would leave together, with the rank of the first of them: level, start, core. -/
structure Cand where
  tasks : List (Nat × Nat × Task)
  rank : Nat × Nat × Nat
  deriving DecidableEq, Repr

def rankLt (a b : Nat × Nat × Nat) : Bool :=
  decide (a.1 < b.1) || (decide (a.1 = b.1) && (decide (b.2.1 < a.2.1) || (decide (a.2.1 = b.2.1) && decide (a.2.2 < b.2.2))))

def insertCand (x : Cand) : List Cand → List Cand
  | [] => [x]
  | y :: ys => if rankLt x.rank y.rank then x :: y :: ys else y :: insertCand x ys

/-- The candidates against a level, in the order of R283; a gang with a member that is not resident is none, and a task that the
watchdog or a freeze has begun to save on this cycle still is one (R292). -/
def candsFor (s : State) (level : Nat) : List Cand :=
  let rank := fun (t : Nat × Nat × Task) => (t.2.2.prio, t.2.2.started.toNat, t.1)
  let low := fun (t : Nat × Nat × Task) => decide (t.2.2.prio + 2 ≤ level)
    && (t.2.2.saving.isNone || ((decide (t.2.2.saving = some 1) || decide (t.2.2.saving = some 2)) && decide (t.2.2.stopAt = s.cyc)))
  let away := fun (g : Nat) => s.saved.any (fun v => v.2.task.gangId = some g)
    || s.cores.any (fun c => c.2.starting.any (fun r => r.2.gangId = some g))
  let groups := s.tasks.filterMap (fun t =>
    match t.2.2.gangId with
    | none => if low t then some [t] else none
    | some g =>
      let all := s.tasks.filter (fun u => u.2.2.gangId = some g)
      if !away g && all.all low && (all.head?.map (fun u => u.2.2.taskid)) = some t.2.2.taskid then some all else none)
  let first := fun (g : List (Nat × Nat × Task)) => g.foldl (fun r t => if rankLt (rank t) r then rank t else r) (24, 0, 0)
  groups.foldl (fun l g => insertCand { tasks := g, rank := first g } l) []

/-- The set of tasks that leaves for a gang: candidates in order until its members can be placed. -/
def gangVictims (s : State) (d : Nat) (q : QCr) : List Cand → List (Nat × Nat × Task) → Option (List (Nat × Nat × Task))
  | [], _ => none
  | c :: cs, got =>
    let all := got ++ c.tasks
    if (placesFor (s.withoutAll (all.map (fun t => (t.1, t.2.1)))) d q).isSome then some all else gangVictims s d q cs all

/-- The tasks that leave for a head CR, and the core that it then takes: of several that a gang gives up, the one of the lowest number
that it fits on (log 66, DESIGN CHOICE: R283 names none). -/
def victimsFor (s : State) (d level : Nat) (q : QCr) : Option (Option Nat × List (Nat × Nat × Task)) :=
  let cs := candsFor s level
  if q.cr.gang.toNat ≤ 1 then
    cs.findSome? (fun c =>
      let s' := s.withoutAll (c.tasks.map (fun t => (t.1, t.2.1)))
      ((sortBy (fun x => x) (uniq (c.tasks.map (·.1)))).find? (fun k => (fitOn s' k q).isSome)).map
        (fun k => (some k, c.tasks)))
  else (gangVictims s d q cs []).map (fun ts => (none, ts))

/-- Pre-emption tried for the head CR of the highest nonempty level. -/
def State.preempt (s : State) (d : Nat) : State :=
  match headCr s d with
  | none => s
  | some (level, q) =>
    let nowhere := if q.cr.gang.toNat ≤ 1 then (List.range 256).all (fun c => (fitOn s c q).isNone) else (placesFor s d q).isNone
    if !nowhere || q.claim.isSome then s
    else
      match victimsFor s d level q with
      | none => s
      | some (core, ts) =>
        each ts (fun t s => s.beginSave t.1 t.2.1 0) (s.setClaim d q.age (some (core, ts.map (fun t => t.2.2.taskid))))

/-- The record of a die for which tasks leave or have left. -/
def claimOf (s : State) (d : Nat) : Option (Nat × QCr × Option Nat × List Word32) :=
  (s.die d).levels.findSome? (fun p => p.2.crs.findSome? (fun q => q.claim.map (fun c => (p.1, q, c))))

/-- DISPATCH_DECISION: a record for which tasks leave is placed once they have left; else one decision of R280, or a
pre-emption (R283). -/
def execDispatchDecision (die : DieId) (s : State) : Out :=
  let d := die.val
  match claimOf s d with
  | some (level, q, core, ids) =>
    if !(leaving s ids).isEmpty then .next s
    else
      let free := s.setClaim d q.age none
      let ps := match core with
        | some c => (fitOn s c q).map (fun p => [({ core := c, slot := p.1, run := p.2 } : Place)])
        | none => placesFor s d q
      .next (match ps with
        | some ps => free.placeUnit d level q ps
        | none => free)
  | none =>
    let r := tryLevels d 24 s
    .next (if r.2 then r.1 else r.1.preempt d)

/-! ## Rising, moving, reserving (R280, R281, R284) -/

/-- CR_PRIORITY_RISE: the CR of age n, having waited 2^20 cycles at its level, rises one level, and with it the saved members of its gang
that stand there (R281, R284); the 24th level is the highest, whatever CEIL says (log 67, DESIGN CHOICE: R278 keeps 24). -/
def execCrPriorityRise (die : DieId) (n : Nat) (s : State) : Out :=
  let d := die.val
  match (s.die d).levels.findSome? (fun p => (p.2.crs.find? (fun q => q.age = n)).map (fun q => (p.1, q))) with
  | none => .next s
  | some (level, q) =>
    if (s.cyc - q.since).toNat < 2 ^ 20 ∨ q.eff.ceil ≤ level ∨ 23 ≤ level ∨ spent s q.cr.lacct.toNat then .next s
    else
      let crs := (mget level Level.empty (s.die d).levels).crs
      let us := if (savedGang s q).isSome then unitOf s crs q else [q]
      .next (s.modLevels d (fun m =>
        let m := mmod level Level.empty (fun l => l.drop (fun x => us.any (fun u => u.age = x.age))) m
        mmod (level + 1) Level.empty (fun l => us.foldl (fun l u => l.add { u with since := s.cyc }) l) m))

/-- CR_MIGRATE: the head CR of the highest level, 4,096 cycles without a fitting core on its die, moves to the die that has
one and the lowest mean FPRESS, with the saved members of its gang (R280, R284). -/
def execCrMigrate (die : DieId) (s : State) : Out :=
  let d := die.val
  match (s.die d).top with
  | none => .next s
  | some (level, age, since) =>
    match (mget level Level.empty (s.die d).levels).crs.find? (fun q => q.age = age) with
    | none => .next s
    | some q =>
      let fits := fun (d : Nat) => (List.range 32).any (fun i => (fitOn s (32 * d + i) q).isSome)
      if (s.cyc - since).toNat < 4096 ∨ q.claim.isSome ∨ fits d then .next s
      else
        match sortBy (diePress s) ((List.range 8).filter (fun e => e ≠ d && fits e)) with
        | [] => .next s
        | e :: _ =>
          let mine := fun (x : QCr) => x.age = q.age || ((savedGang s q).isSome && savedGang s x = savedGang s q)
          let us := (dieCrs s d).filter (fun x => mine x.2)
          .next ((s.modLevels d (fun m => m.map (fun (p : Nat × Level) => (p.1, p.2.drop mine)))).modLevels e
            (fun m => us.foldl (fun m u => mmod u.1 Level.empty (fun l => l.add u.2) m) m))

/-- GANG_RESERVE: a gang that has stood at the head of its level for 2^16 cycles reserves the slots that free (R284). -/
def execGangReserve (die : DieId) (s : State) : Out :=
  let d := die.val
  let due := fun (p : Nat × Level) => match p.2.headSince with
    | some (a, c) => if (s.cyc - c).toNat < 2 ^ 16 then none
        else (p.2.crs.find? (fun q => q.age = a && decide (1 < q.cr.gang.toNat))).map (·.age)
    | none => none
  let ages := (s.die d).levels.filterMap due
  .next (s.modDie d (fun x => { x with reserves := x.reserves ++
    (ages.filter (fun a => !x.reserves.any (fun r => r.1 = a))).map (fun a => (a, [])) }))

/-! ## Loading and starting (R258, R261, R273) -/

/-- An image's parcels written into IMEM; images that it overlaps are resident no longer. -/
def Core.loadImage (s : State) (h : BitVec 16) (k : Core) : Core :=
  match mfind h.toNat s.images with
  | none => k
  | some i =>
    let apart := fun (x : BitVec 16) => match mfind x.toNat s.images with
      | some j => x ≠ h && (decide (i.base + i.code.length ≤ j.base) || decide (j.base + j.code.length ≤ i.base))
      | none => false
    { k with
      imem := (i.code.zip (List.range i.code.length)).foldl (fun m p => mset (i.base + p.2) p.1 m) k.imem
      resident := k.resident.filter apart ++ [h]
      filling := k.filling.filter (fun f => f.2 ≠ h)
      starting := k.starting.map (fun r => (r.1, if r.2.cr.image = h then { r.2 with filled := true } else r.2)) }

/-- IMEM_FILL_DONE: the overlay loader has filled the range of a placed record's image (R258). -/
def execImemFillDone (core : CoreId) (slot : SlotId) (s : State) : Out :=
  match (s.core core.val).filling.find? (fun f => f.1 = slot.val) with
  | none => .next s
  | some (_, h) => .next (s.modCore core.val (Core.loadImage s h))

/-- TASK_START: a placed record becomes a task in the state of Table 10-8; it acquires at system scope, and an ENTRY that is
no S header raises ILLEGAL_TARGET there (R261, R277, R289, R334). -/
def execTaskStart (core : CoreId) (slot : SlotId) (s : State) : Out :=
  let c := core.val
  let l := slot.val
  let k := s.core c
  match mfind l k.starting with
  | none => .next s
  | some r =>
    let n := r.cr.banks.toNat
    if r.saved.isSome || !r.filled || !startsOn s c r.pav || decide (k.freeBanks.length < n) then .next s
    else
      match s.pav? r.pav, mfind r.cr.image.toNat s.images with
      | some p, some i =>
        let seq := nextSeq k l
        let banks := k.freeBanks.take n
        let cr : CR := { r.cr with prio := BitVec.ofNat 5 r.prio }
        let eff := (regionEff s r.pav cr.region.toNat).getD noEff
        let pc := i.base + cr.entry.toNat
        let map := (banks.zip (List.range n)).foldl (fun m b => mset b.2 (BankRef.own b.1) m) []
        let t := newTask r.pav p.key cr eff (taskIdOf c l seq) r.gangId (BitVec.ofNat 17 pc) s.cyc map
        let t := { t with uid := s.nextId, prio := r.prio }
        let t := if spent s cr.lacct.toNat then t.setFlag statEnex else t
        let s := s.fresh.modCore c (fun k => { k with
          starting := mdel l k.starting
          seqs := mset l seq k.seqs
          banks := banks.foldl (fun m b => mset b freshBank m) k.banks })
        let s := (s.setTask c l t).modLaunch cr.lacct.toNat (fun x => { x with started := x.started + 1 })
        let s := s.modPav r.pav (fun p => { p with handlers := p.handlers.filter (fun h => h.2 ≠ cr.lacct.toNat) })
        let s := match r.gangId with
          | some g => { s with gangs := match mfind g s.gangs with
              | some x => mset g { x with members := x.members ++ [t.taskid] } s.gangs
              | none => s.gangs }
          | none => s
        let s := s.acquireAt c t .sys (tmax p.hts r.ts)
        let h := (s.core c).parcel pc
        .next (if pc < 2 ^ 17 && nbits h.toNat 15 12 = 12 then s
          else s.takeFaultOf c l .s fIllegalTarget true 0 (BitVec.ofNat 17 pc) 0 [])
      | _, _ => .next s

/-! ## The end of a task (R230, R233) -/

/-- A member of a gang that has ended; with the last the gang is over. -/
def State.leaveGang (s : State) (t : Task) : State :=
  match t.gangId with
  | none => s
  | some g =>
    match mfind g s.gangs with
    | none => s
    | some x => { s with gangs := if x.size ≤ x.ended + 1 then mdel g s.gangs else mset g { x with ended := x.ended + 1 } s.gangs }

/-- The join of an EXIT, after its release: the state and whether it has been performed, behind the requests that stand at its line
(R360); a failed one posts ILLEGAL_OPERAND
to the region's fault queue (R230, R233). -/
def State.exitJoin (s : State) (c l : Nat) (t : Task) : State × Bool :=
  let va := t.cr.join.toNat
  let fail := fun (s : State) =>
    (s.postRecord t.eff.fq { faultRec t .s fIllegalOperand false 0 0 t.cr.join [] with stream := 4, flags := 8 } t.eff.storm
      t.cr.lacct.toNat).1
  if va = 0 then (s, true)
  else
    match xlateNow s (dieOf c) t.pav va .write with
    | .ok lf pa =>
      if lf.cls ≠ PClass.coh then (fail s, true)
      else if lineWaits s pa then (s, false)
      else
        let x : Ctx := { core := ⟨c % 256, Nat.mod_lt _ (by decide)⟩, slot := ⟨l % 4, Nat.mod_lt _ (by decide)⟩, stream := .s }
        let r : Req :=
          { ctx := x, task := t.taskid, blk := 0, tag := s.nextId, iaddr := 0, va := t.cr.join, pa := pa, cls := .coh, key := lf.key,
            scope := .sys, rd := 0, lt := (s.core c).ltime, kind := .join t.pav t.cr.region.toNat t.cr.lacct, stage := .sent, pav := t.pav,
            orig := t.eff.orig c }
        let id := s.nextId
        let s' := ({ s.fresh with reqs := mset id r s.reqs } : State).performJoin id r t.pav t.cr.region.toNat t.cr.lacct
        match mfind id s'.reqs with
        | some r' => if r'.waiting then (s, false) else (s'.dropReq id, true)
        | none => (s', true)
    | _ => (fail s, true)

/-- TASK_END: the task whose EXIT is complete, whose other streams have halted and whose slots have ended leaves its slot
(R181, R230). -/
def execTaskEnd (core : CoreId) (slot : SlotId) (s : State) : Out :=
  let c := core.val
  let l := slot.val
  match s.task? c l with
  | none => .next s
  | some t =>
    if !t.exiting || t.stopped || t.saving.isSome || !allStreams.all (fun k => (t.st k).phase = .halted)
        || !(taskSlots s t.uid).isEmpty || s.reqs.any (fun r => r.2.task = t.taskid)
        || s.rops.any (fun r => r.2.task = t.taskid) || !t.mq.isEmpty then .next s
    else
      let r := (s.releaseAt c t .sys).exitJoin c l t
      .next (if r.2 then (r.1.endTask c l t).leaveGang t else s)

/-! ## Watchdog, energy, limits (R289-R291) -/

/-- A watchdog whose count has reached the window: the task is saved and PROGRESS_TIMEOUT posted (R291). -/
def State.watchdog (s : State) (c l : Nat) : State :=
  match s.task? c l with
  | none => s
  | some t =>
    if !t.wdDue && (!t.watchdogDue || t.saving.isSome) then s
    else
      let s := (s.beginSave c l 1).modTask c l (fun t => { t with fault := fProgress, wdDue := false })
      s.postFault c l t { faultRec t .s fProgress false 0 0 0 [] with stream := 4 } true

/-- WATCHDOG_FIRE: a watchdog that is due fires, at the latest at the end of the cycle, behind a precise fault of it (R291, R292). -/
def execWatchdogFire (core : CoreId) (slot : SlotId) (s : State) : Out := .next (s.watchdog core.val slot.val)

/-- Has an account's charge reached its budget, with no exhaustion noted yet? -/
def Acct.over (a : Acct) : Bool := !a.exhausted && decide (a.budget ≠ 0) && decide (a.budget * 20000 ≤ a.charge)

/-- An exhaustion noted on this cycle: ENEX is set in the tasks of the launch, the event is posted once (R289). -/
def State.exhaust (s : State) (n : Nat) (a : Acct) : State :=
  let s := { s with accts := mset n { a with exhausted := true, exhAt := s.cyc } s.accts }
  let mark := fun (t : Task) => if t.cr.lacct.toNat = n then t.setFlag statEnex else t
  let s := each (s.tasks.map (fun t => (t.1, t.2.1))) (fun t s => s.modTask t.1 t.2 mark) s
  let s := { s with saved := s.saved.map (fun (v : Nat × Saved) => (v.1, { v.2 with task := mark v.2.task })) }
  s.postEvent a.pav (BitVec.ofNat 64 (0x61 + 2 ^ 8 + n * 2 ^ 16))

/-- The tasks and records of an exhausted launch brought to their region's FLOOR, at the end of the cycle of its exhaustion: what is
decided on that cycle uses the earlier levels (R289, R370). -/
def State.toFloor (s : State) (n : Nat) : State :=
  let low := fun (t : Task) => if t.cr.lacct.toNat = n then { t with prio := t.eff.floor } else t
  let s := each (s.tasks.map (fun t => (t.1, t.2.1))) (fun t s => s.modTask t.1 t.2 low) s
  let s := { s with saved := s.saved.map (fun (v : Nat × Saved) => (v.1, { v.2 with task := low v.2.task })) }
  let lowR := fun (r : Starting) => if r.cr.lacct.toNat = n then { r with prio := r.floor } else r
  let lowK := fun (k : Core) => ({ k with starting := k.starting.map (fun r => (r.1, lowR r.2)) } : Core)
  let s := { s with cores := s.cores.map (fun (k : Nat × Core) => (k.1, lowK k.2)) }
  each (s.dies.map (·.1)) (fun d s => s.modLevels d (fun m =>
    let qs := m.flatMap (fun p => p.2.crs.filter (fun q => q.cr.lacct.toNat = n && decide (p.1 ≠ q.eff.floor)))
    let ages := qs.map (·.age)
    let m := m.map (fun (p : Nat × Level) => (p.1, p.2.drop (fun q => ages.contains q.age)))
    qs.foldl (fun m q => mmod q.eff.floor Level.empty (fun l => l.add { q with since := s.cyc }) m) m)) s

/-- ENERGY_EXHAUSTED: the charge has reached the budget (R289). The end of the cycle does the same for an account that no event names, and
brings the launch to its FLOOR. -/
def execEnergyExhausted (acct : BitVec 20) (s : State) : Out :=
  .next (match mfind acct.toNat s.accts with
    | none => s
    | some a => if a.over then s.exhaust acct.toNat a else s)

/-- THERMAL_WITHHOLD: no engine of the core issues on this cycle (R290). -/
def execThermalWithhold (core : CoreId) (s : State) : Out := .next (s.modCore core.val (fun k => { k with withheld := true }))

/-! ## Loss of core state (R387) -/

/-- STATE_LOSS: every task of the core ends with the record, its slots PARTIAL, its join not performed; its gang is aborted, with item
records for the lost member too; the core takes no task until it is cleared (R387, R388). -/
def execStateLoss (core : CoreId) (s : State) : Out :=
  let c := core.val
  let s := s.modCore c (fun k => { k with quarantine := some s.cyc })
  .next (each ((s.core c).slots.map (·.1)) (fun l s => match s.task? c l with
    | none => s
    | some t =>
      let lost := { t with stopped := true, fault := fStateLoss }
      let s := if t.gangId.isSome then (s.noteTimeout t).itemRecords lost else s.noteTimeout t
      let s := ((s.dropSlots t.uid).endTask c l t).gangAbort lost fStateLoss
      s.postFault c l t { faultRec t .s fStateLoss false 0 0 0 [] with stream := 4, flags := 8 } true) s)

/-- CORE_STATE_CLEARED: after 2^16 cycles the core's state is cleared and it takes tasks again (R387). -/
def execCoreStateCleared (core : CoreId) (s : State) : Out :=
  match (s.core core.val).quarantine with
  | none => .next s
  | some q =>
    if (s.cyc - q).toNat < 2 ^ 16 then .next s
    else .next (s.modCore core.val (fun k => { k with quarantine := none, banks := [], freeing := [], latch := [], replay := [], engines := [] }))

end Sys2Proof.Machine
end

