-- ==== Sys2Proof/Machine/Act.lean ====
section
/-!
DEFINITION. The host port: endpoints, ACT messages and their order, responses, notification messages, host RDMA, status
records, launches through ACT, windows and queues, attestation (spec/10 R247-R253, R257-R265, R268-R272, spec/16 R352,
spec/07 R199).
-/

namespace Sys2Proof.Machine

/-! ## Messages (R249) -/

/-- A header with its TAG zero (Table 10-2). -/
def actHeader (op flags pav len : Nat) (seq : Word32) (stat : Nat) : List Byte :=
  bytesOf 1 1 ++ bytesOf 1 op ++ bytesOf 2 flags ++ bytesOf 1 pav ++ bytesOf 1 0 ++ bytesOf 2 len ++ bytesOf 4 seq.toNat
    ++ bytesOf 1 stat ++ bytesOf 3 0 ++ bytesOf 8 0

/-- A message under a command key. -/
def actMessage (key : BitVec 128) (op flags pav : Nat) (seq : Word32) (stat : Nat) (payload : List Byte) : List Byte :=
  let h := actHeader op flags pav payload.length seq stat
  h.take 16 ++ bytesOf 8 (sipHash key (h ++ payload)).toNat ++ payload

/-- Does the TAG of a message verify? -/
def tagOk (key : BitVec 128) (m : List Byte) : Bool :=
  field m 16 8 = (sipHash key (m.take 16 ++ List.replicate 8 0 ++ m.drop 24)).toNat

/-- ACT statuses (Table 10-4). -/
def stDone : Nat := 0
def stRefused : Nat := 0x04
def stUnknown : Nat := 0xA1
def stNoResource : Nat := 0xA2
def stDigest : Nat := 0xA3
def stReloc : Nat := 0xA4
def stFrozen : Nat := 0xA5
def stBusy : Nat := 0xA6

/-- The response of a command, stored for its retransmission and sent (R251). -/
def State.respond (s : State) (pav : PavId) (seq : Word32) (op stat : Nat) (payload : List Byte) : State :=
  match s.pav? pav.val with
  | none => s
  | some p =>
    let m := actMessage p.net.cmdkey op 1 pav.val seq stat payload
    let recent := fun (r : Nat × List Byte) => decide ((p.nseq.toNat + 2 ^ 32 - r.1) % 2 ^ 32 ≤ 64)
    (s.modPav pav.val (fun p => { p with replies := (mset seq.toNat m p.replies).filter recent })).send pav.val (.act pav.val m)

/-- A refusal with the offset of the first field at fault, as Table 8-4 reports it. -/
def State.refuse (s : State) (pav : PavId) (seq : Word32) (op off : Nat) : State :=
  s.respond pav seq op stRefused (bytesOf 8 (4 + off % 256 * 2 ^ 8))

/-- The least of the offsets of fields at fault. -/
def firstBad (l : List Nat) : Option Nat :=
  match l with
  | [] => none
  | b :: bs => some (bs.foldl min b)

/-- An offset where a check fails. -/
def badIf (b : Bool) (off : Nat) : List Nat := if b then [off] else []

/-- A command of an existing pavilion, answered with 0xA5 while it is frozen unless it is one that R253 answers. -/
def onCommand (s : State) (pav : PavId) (seq : Word32) (op : Nat) (always : Bool) (f : Pav → State) : Out :=
  match s.pav? pav.val with
  | none => .next s
  | some p =>
    if !always && (p.st = PState.frozen || p.st = PState.resetting) then .next (s.respond pav seq op stFrozen [])
    else .next (f p)

/-- A launch record out of 32 bytes. -/
def launchRec (b : List Byte) : LaunchRec :=
  { argb := BitVec.ofNat 64 (field b 0 8), energy := BitVec.ofNat 64 (field b 8 8), join := BitVec.ofNat 64 (field b 16 8)
    image := BitVec.ofNat 16 (field b 24 2), region := BitVec.ofNat 16 (field b 26 2), opts := BitVec.ofNat 32 (field b 28 4) }

/-- The 32 bytes of a launch record (Table 10-7). -/
def launchBytes (r : LaunchRec) : List Byte :=
  bytesOf 8 r.argb.toNat ++ bytesOf 8 r.energy.toNat ++ bytesOf 8 r.join.toNat ++ bytesOf 2 r.image.toNat ++ bytesOf 2 r.region.toNat
    ++ bytesOf 4 r.opts.toNat

/-- Bytes 0x00-0x2F of Table 19-12, with NKEY and NRANGE zero. -/
def netBytes (n : NetCfg) : List Byte :=
  bytesOf 1 n.pav.toNat ++ bytesOf 1 n.pflags.toNat ++ bytesOf 2 n.vlan.toNat ++ bytesOf 2 n.actport.toNat ++ bytesOf 2 0
    ++ bytesOf 4 n.ipv4.toNat ++ bytesOf 4 0 ++ bytesOf 16 n.ipv6.toNat ++ bytesOf 16 n.cmdkey.toNat

/-! ## Endpoints (R247, R248) -/

/-- The MAC address of a pavilion's endpoint. -/
def macOf (pav : Nat) : BitVec 48 := Config.baseMac + BitVec.ofNat 48 pav

/-- Does a frame carry an endpoint's addresses? One to a broadcast or multicast MAC address carries none's (R248), so neither does a
neighbour request sent so (log 68, DESIGN CHOICE: Table 10-1 has each endpoint answer for its own addresses). -/
def matchesEndpoint (f : HostFrame) (pav : Nat) (p : Pav) : Bool :=
  let n := p.net
  f.mac = macOf pav
    && f.vlan = (if n.pflags.getLsbD 1 then some (n.vlan.setWidth 12) else none)
    && match f.ip4, f.ip6 with
      | some a, none => n.pflags.getLsbD 2 && decide (a = n.ipv4)
      | none, some a => n.pflags.getLsbD 3 && decide (a = n.ipv6)
      | _, _ => false

/-- The endpoint that a frame is delivered to. -/
def endpointOf (s : State) (f : HostFrame) : Option Nat := (s.pavs.find? (fun p => matchesEndpoint f p.1 p.2)).map (·.1)

/-- The port on which a pavilion takes ACT. -/
def actPort (p : Pav) : BitVec 16 := if p.net.actport = 0 then 47000 else p.net.actport

/-- The host port works once bring-up has started an endpoint (Table 10-10). -/
def portAlive (s : State) : Bool := s.stage = Stage.running || s.stage = Stage.noDram

/-- Does a pavilion's endpoint hear the host: the port works, and so does its bridge (R25)? -/
def hearsHost (s : State) (pav : Nat) : Bool := portAlive s && bridgeUp s pav

/-- The host bridge through which a message leaves: that of its pavilion (R25, R248). -/
def HostMsg.bridge : HostMsg → Nat
  | .act p _ | .notice p .. | .echo p _ | .rdmaAck p _ | .rdmaData p _ | .rdmaWrite p .. | .rdmaRead p .. => bridgeDie p

/-! ## Notification messages (R263, R269, R389) -/

/-- The oldest value of a queue, or its first dropped one, has waited for the window. -/
def NQueue.due (q : NQueue) (cyc : Word64) : Bool :=
  let waited := fun (c : Word64) => decide (q.window.toNat * 800 ≤ (cyc - c).toNat)
  match q.vals with
  | v :: _ => decide (64 ≤ q.vals.length) || waited v.2
  | [] => decide (q.dropped ≠ 0) && (match q.dropSince with | some c => waited c | none => false)

/-- The payload of a queue's next message (Table 10-14). -/
def NQueue.message (q : NQueue) (n : Nat) : List Byte :=
  let vs := q.vals.take 64
  bytesOf 1 n ++ bytesOf 1 0 ++ bytesOf 2 vs.length ++ bytesOf 4 q.dropped.toNat ++ vs.flatMap (fun v => bytesOf 8 v.1.toNat)

/-- NOTIFICATION_SEND: a queue whose message is due, and whose rate allows it, sends up to 64 values (R263). -/
def execNotificationSend (pav : PavId) (q : BitVec 8) (s : State) : Out :=
  match s.pav? pav.val with
  | none => .next s
  | some p =>
    match mfind q.toNat p.nqs with
    | none => .next s
    | some nq =>
      let now := s.cyc.toNat / 800000
      let sent := if nq.sent.1 = now then nq.sent.2 else 0
      if p.st ≠ PState.running || !nq.due s.cyc || decide (nq.rate.toNat ≤ sent) then .next s
      else
        let m := actMessage p.net.cmdkey 0x40 2 pav.val p.outSeq 0 (nq.message q.toNat)
        let nq' : NQueue := { nq with vals := nq.vals.drop 64, dropped := 0, dropSince := none, sent := (now, sent + 1) }
        let s := s.modPav pav.val (fun p => { p with
          nqs := mset q.toNat nq' p.nqs
          unacked := mset p.outSeq.toNat { ip := nq.ip, port := nq.port, bytes := m, last := s.cyc, resent := 0 } p.unacked
          outSeq := p.outSeq + 1 })
        .next (s.send pav.val (.notice pav.val nq.ip nq.port m))

/-- NOTIFICATION_RETRANSMIT: after 1 ms without an acknowledgement a message is sent again, and discarded after 8 times
(R263). -/
def execNotificationRetransmit (pav : PavId) (seq : Word32) (s : State) : Out :=
  match s.pav? pav.val with
  | none => .next s
  | some p =>
    match mfind seq.toNat p.unacked with
    | none => .next s
    | some m =>
      if p.st ≠ PState.running || decide ((s.cyc - m.last).toNat < 800000) then .next s
      else if m.resent < 8 then
        let s := s.modPav pav.val (fun p => { p with
          unacked := mset seq.toNat { m with last := s.cyc, resent := m.resent + 1 } p.unacked })
        .next (s.send pav.val (.notice pav.val m.ip m.port m.bytes))
      else .next (s.modPav pav.val (fun p => { p with unacked := mdel seq.toNat p.unacked, ctr := { p.ctr with nqDisc := p.ctr.nqDisc + 1 } }))

/-- NOTIFY_ACK: an acknowledged message is done; one of a SEQ that is not outstanding is counted (R269). -/
def execNotifyAck (pav : PavId) (seq : Word32) (s : State) : Out :=
  match s.pav? pav.val with
  | none => .next s
  | some p =>
    if (mfind seq.toNat p.unacked).isSome then .next (s.modPav pav.val (fun p => { p with unacked := mdel seq.toNat p.unacked }))
    else .next (s.count pav.val (fun c => { c with dropAct := c.dropAct + 1 }))

/-- NQ with create 1 (R263). -/
def execNqCreate (pav : PavId) (seq : Word32) (q : BitVec 8) (window rate : Word32) (ip : BitVec 128) (port : BitVec 16) (s : State) : Out :=
  onCommand s pav seq 0x06 false fun p =>
    let out := fun (v : Word32) => decide (v.toNat < 1) || decide (1000 < v.toNat)
    match firstBad (badIf (out window) 4 ++ badIf (out rate) 8) with
    | some off => s.refuse pav seq 0x06 off
    | none =>
      let nq : NQueue := match mfind q.toNat p.nqs with
        | some x => { x with window := window, rate := rate, ip := ip, port := port }
        | none => { window := window, rate := rate, ip := ip, port := port, vals := [], dropped := 0, dropSince := none, sent := (0, 0) }
      (s.modPav pav.val (fun p => { p with nqs := mset q.toNat nq p.nqs })).respond pav seq 0x06 stDone []

/-- NQ with create 0 (R263). -/
def execNqDestroy (pav : PavId) (seq : Word32) (q : BitVec 8) (s : State) : Out :=
  onCommand s pav seq 0x06 false fun _ =>
    (s.modPav pav.val (fun p => { p with nqs := mdel q.toNat p.nqs })).respond pav seq 0x06 stDone []

/-! ## Windows and host RDMA (R262, R352, R199) -/

/-- WIN with kind 0, create 1. -/
def execWinHostCreate (pav : PavId) (seq : Word32) (idx : BitVec 16) (qp : Word32) (raddr : Word64) (rkey : Word32) (len : Word64)
    (ip : BitVec 128) (s : State) : Out :=
  onCommand s pav seq 0x07 false fun _ =>
    if 1024 ≤ idx.toNat then s.refuse pav seq 0x07 2
    else
      let w : HostWin := { qp := qp, raddr := raddr, rkey := rkey, len := len, ip := ip }
      (s.modPav pav.val (fun p => { p with hwins := mset idx.toNat w p.hwins })).respond pav seq 0x07 stDone []

/-- WIN with kind 0, create 0. -/
def execWinHostDestroy (pav : PavId) (seq : Word32) (idx : BitVec 16) (s : State) : Out :=
  onCommand s pav seq 0x07 false fun _ =>
    if 1024 ≤ idx.toNat then s.refuse pav seq 0x07 2
    else (s.modPav pav.val (fun p => { p with hwins := mdel idx.toNat p.hwins })).respond pav seq 0x07 stDone []

/-- May a device window cover a page: a mapped one that is no DEV page? -/
def windowPage (s : State) (pav va : Nat) : Bool :=
  match s.classAt (bridgeDie pav) pav va with
  | some c => c ≠ PClass.dev
  | none => false

/-- WIN with kind 1, create 1: the device assigns the rkey (log 22). -/
def execWinDeviceCreate (pav : PavId) (seq : Word32) (idx : BitVec 16) (va len : Word64) (rights : BitVec 8) (s : State) : Out :=
  onCommand s pav seq 0x07 false fun _ =>
    match firstBad (badIf (decide (256 ≤ idx.toNat)) 2
        ++ badIf (decide (2 ^ 48 < va.toNat + len.toNat) || !(pagesOf va.toNat len.toNat).all (fun p => windowPage s pav.val p)) 8
        ++ badIf (decide (4 ≤ rights.toNat)) 24) with
    | some off => s.refuse pav seq 0x07 off
    | none =>
      let k := Config.freeRkey s.free
      let w : DevWin := { va := va, len := len, rights := rights, rkey := k }
      (({ s with free := s.free + 1 } : State).modPav pav.val (fun p => { p with dwins := mset idx.toNat w p.dwins })).respond pav seq 0x07
        stDone (bytesOf 4 k.toNat)

/-- WIN with kind 1, create 0. -/
def execWinDeviceDestroy (pav : PavId) (seq : Word32) (idx : BitVec 16) (s : State) : Out :=
  onCommand s pav seq 0x07 false fun _ =>
    if 256 ≤ idx.toNat then s.refuse pav seq 0x07 2
    else (s.modPav pav.val (fun p => { p with dwins := mdel idx.toNat p.dwins })).respond pav seq 0x07 stDone []

/-- The address of a range of a device window that allows an access. -/
def devWin (s : State) (pav win off n right : Nat) (acc : AccKind) : Option Nat :=
  match (s.pav? pav).bind (fun p => if p.st = PState.running then mfind win p.dwins else none) with
  | none => none
  | some w =>
    let va := w.va.toNat + off
    if w.rights.getLsbD right && decide (off + n ≤ w.len.toNat) && pagesPass s pav va n acc
        && (pagesOf va n).all (fun p => windowPage s pav p) then some va else none

/-- The latest write time of a range that the device has written for a pavilion: its later task starts acquire it (R352). -/
def State.noteHost (s : State) (n va len : Nat) : State :=
  let latest := fun (t : Word32) => (cuts va len).foldl (fun t c => match xlateNow s (bridgeDie n) n (va + c.1) .read with
    | .ok l pa => if l.cls = PClass.coh then tmax (tsGet (s.home (homeOf pa)) s.dev.floor (lineOf pa)).1 t else t
    | _ => t) t
  s.modPav n (fun p => { p with hts := latest p.hts })

/-- What becomes of a host's RDMA request before its window is looked at: nothing but where the device runs and the pavilion's bridge
works; dropped and counted where no endpoint stands for the pavilion (R248, Table 10-10). -/
def rdmaLost (s : State) (n : Nat) : Option State :=
  if s.stage ≠ Stage.running || !bridgeUp s n then some s
  else if (s.pav? n).isNone then some (s.count 128 (fun c => { c with dropOpt := c.dropOpt + 1 }))
  else none

/-- HOST_RDMA_WRITE: performed at device scope and then acknowledged; the pavilion's later task starts acquire it (R352). -/
def execHostRdmaWrite (pav : PavId) (win : BitVec 8) (off : Nat) (data : List Byte) (s : State) : Out :=
  let n := pav.val
  match rdmaLost s n with
  | some s => .next s
  | none =>
    let s := s.count n (fun c => { c with rxf := c.rxf + 1 })
    match devWin s n win.toNat off data.length 1 .write with
    | none => .next (s.send n (.rdmaAck n false))
    | some va => .next (((s.hostWrite n va data).noteHost n va data.length).send n (.rdmaAck n true))

/-- HOST_RDMA_READ: the values at device scope (R352); poison fails the read. -/
def execHostRdmaRead (pav : PavId) (win : BitVec 8) (off len : Nat) (s : State) : Out :=
  let n := pav.val
  match rdmaLost s n with
  | some s => .next s
  | none =>
    let s := s.count n (fun c => { c with rxf := c.rxf + 1 })
    let fail : Out := .next (s.send n (.rdmaAck n false))
    match devWin s n win.toNat off len 0 .read with
    | none => fail
    | some va =>
      if rangePoison s n va len then fail
      else .next (s.send n (.rdmaData n ((s.readVa (bridgeDie n) n va len).getD [])))

/-- ROCEV2_RETRANSMIT: a CPYH request not acknowledged is sent again and counted; after the retries the connection is lost
and the slot fails with DETAIL 5 (R199). -/
def execRocev2Retransmit (core : CoreId) (n : Nat) (lost : Bool) (s : State) : Out :=
  let c := core.val
  match s.slot? c n with
  | none => .next s
  | some x =>
    let ours := fun (m : HostMsg) => match m with
      | .rdmaRead _ c' n' .. => decide (c' = c) && decide (n' = x.id)
      | .rdmaWrite _ c' n' .. => decide (c' = c) && decide (n' = x.id)
      | _ => false
    let host : Bool := match x.op with
      | .hostRd .. => true
      | .hostWr .. => true
      | _ => false
    if !host || x.stage ≠ CStage.sent then .next s
    else if lost then .next (s.putSlot c n (x.fail fCopyFault 5 0))
    else
      let again := ((s.out.filter ours).getLast?).toList
      .next (each again (fun m s => s.send x.pav m) (s.count x.pav (fun k => { k with retx := k.retx + 1 })))

/-! ## Launches (R259, R260, R288) -/

/-- A launch record submitted: refused at a field, without a free account or queue entry, or queued under its launch id. -/
inductive Submitted where
  | bad (off : Nat)
  | full
  | ok (s : State) (lid : Nat)

def submitLaunch (s : State) (pav : Nat) (r : LaunchRec) (mbox : Option Nat) : Submitted :=
  let v := launchView (launchBytes r)
  let e := (regionEff s pav v.region).getD noEff
  match recFault s pav v false with
  | some off => .bad off
  | none =>
    let entry := match mfind v.image s.images with | some i => i.entry | none => 0
    let lid := match s.pav? pav with | some p => p.nextLid | none => 0
    match s.newAcct pav v.region (if r.energy = 0 then e.energy else r.energy.toNat) with
    | none => .full
    | some (s', a) =>
      let ts := match s.pav? pav with | some p => p.hts | none => 0
      match s'.queueCr pav (v.toCr entry (v.level false e) mbox (BitVec.ofNat 20 a)) (bridgeDie pav) e.floor ts with
      | none => .full
      | some s' => .ok s' lid

/-- The response to a LAUNCH or MBOX: launch id and the status of Table 8-4. -/
def State.launchReply (s : State) (pav : PavId) (seq : Word32) (op : Nat) (x : Submitted) : State :=
  match x with
  | .bad off => s.respond pav seq op stRefused (bytesOf 8 0 ++ bytesOf 8 (4 + off * 2 ^ 8))
  | .full => s.respond pav seq op stNoResource (bytesOf 8 0 ++ bytesOf 8 4)
  | .ok s lid => s.respond pav seq op stDone (bytesOf 8 lid ++ bytesOf 8 0)

def execActLaunch (pav : PavId) (seq : Word32) (r : LaunchRec) (s : State) : Out :=
  onCommand s pav seq 0x03 false fun _ => s.launchReply pav seq 0x03 (submitLaunch s pav.val r none)

/-- MBOX: the record stands in the core's mailbox until its CR enters the dispatcher's queue, which is before the response
(R260). A refusal for MAXCORES, like that of a core number, names offset 0, the core number; one of a record's field its offset in the record (log 71, DESIGN CHOICE). -/
def execMbox (pav : PavId) (seq : Word32) (core : BitVec 16) (r : LaunchRec) (s : State) : Out :=
  onCommand s pav seq 0x04 false fun _ =>
    let c := core.toNat
    let bad := fun (off : Nat) => s.respond pav seq 0x04 stRefused (bytesOf 8 0 ++ bytesOf 8 (4 + off * 2 ^ 8))
    let e := (regionEff s pav.val r.region.toNat).getD noEff
    let cores := regionCores s pav.val r.region
    if 256 ≤ c then bad 0
    else if (s.core c).mbox.isSome then s.respond pav seq 0x04 stBusy []
    else if (recFault s pav.val (launchView (launchBytes r)) false).isNone && nbits r.opts.toNat 22 16 ≠ 1 then bad 0x1E
    else if (recFault s pav.val (launchView (launchBytes r)) false).isNone && !(cores.contains c || decide (cores.length < e.maxCores)) then
      bad 0
    else
      let s := s.modCore c (fun k => { k with mbox := some r })
      let emptied := fun (s : State) => s.modCore c (fun k => { k with mbox := none })
      match submitLaunch s pav.val r (some c) with
      | .ok s' lid => s.launchReply pav seq 0x04 (.ok (emptied s') lid)
      | x => (emptied s).launchReply pav seq 0x04 x

/-! ## Status (R268) -/

/-- LSTATE of a launch (Table 10-11). -/
def launchState (p : Pav) (l : Launch) : Nat :=
  if !l.live then 2 else if p.st = PState.frozen || p.st = PState.resetting then 3 else if l.started = 0 then 0 else 1

/-- The 48 bytes of Table 10-11. -/
def launchRecord (s : State) (p : Pav) (lid : Nat) (l : Launch) : List Byte :=
  let a := if l.live then mfind l.acct s.accts else none
  let charge := match a with | some a => a.charge | none => l.charge
  let budget := l.budget
  let spent := match a with | some a => a.exhausted | none => l.exhausted
  let queued := s.queued.foldl (fun n q => if l.live && q.cr.lacct.toNat = l.acct then n + q.count else n) 0
    + (s.cores.foldl (fun n c => n + (c.2.starting.filter (fun r => l.live && r.2.cr.lacct.toNat = l.acct)).length) 0)
  let erem := if budget = 0 then 2 ^ 64 - 1 else budget - charge / 20000
  bytesOf 8 lid ++ bytesOf 4 l.acct ++ bytesOf 1 (launchState p l) ++ bytesOf 1 (b2n spent) ++ bytesOf 2 0 ++ bytesOf 4 l.started.toNat
    ++ bytesOf 4 l.ended.toNat ++ bytesOf 4 queued ++ bytesOf 4 l.faults.toNat ++ bytesOf 8 (charge / 20) ++ bytesOf 8 erem

/-- After a failed step 3 STATUS answers with the record that names what failed (Table 10-10). -/
def bringupOr (s : State) (b : List Byte) : List Byte := if s.stage = Stage.noDram then Config.bringupRecord else b

def execStatusLaunch (pav : PavId) (seq : Word32) (id : Word64) (s : State) : Out :=
  onCommand s pav seq 0x05 true fun p =>
    match mfind id.toNat p.launches with
    | some l => s.respond pav seq 0x05 stDone (bringupOr s (launchRecord s p id.toNat l))
    | none => if s.stage = Stage.noDram then s.respond pav seq 0x05 stDone Config.bringupRecord else s.refuse pav seq 0x05 8

/-- PSTATE (Table 10-12). -/
def PState.code : PState → Nat
  | .running => 0 | .freezing => 1 | .frozen => 2 | .resetting => 3

def execStatusPavilion (pav : PavId) (seq : Word32) (id : Word64) (s : State) : Out :=
  onCommand s pav seq 0x05 true fun p =>
    let items := (p.items.drop id.toNat).take 255
    s.respond pav seq 0x05 stDone (bringupOr s (bytesOf 1 p.st.code ++ bytesOf 3 0 ++ bytesOf 4 p.items.length ++ bytesOf 4 id.toNat
      ++ bytesOf 4 items.length ++ items.flatMap (fun i => i)))

/-- The 64 bytes of Table 10-13. -/
def counterBytes (pav : Nat) (c : Counters) : List Byte :=
  bytesBE 6 (macOf pav).toNat ++ bytesOf 2 0 ++ bytesOf 8 c.rxf.toNat ++ bytesOf 8 c.txf.toNat ++ bytesOf 8 c.dropOpt.toNat
    ++ bytesOf 8 c.dropAct.toNat ++ bytesOf 8 c.retx.toNat ++ bytesOf 8 c.cnp.toNat ++ bytesOf 8 c.nqDisc.toNat

def execStatusCounters (pav : PavId) (seq : Word32) (id : Word64) (s : State) : Out :=
  onCommand s pav seq 0x05 true fun p =>
    if id ≠ 0 then s.refuse pav seq 0x05 8 else s.respond pav seq 0x05 stDone (bringupOr s (counterBytes pav.val p.ctr))

/-! ## Attestation (R264, R265) -/

/-- The images of a pavilion in handle order. -/
def imagesOf (s : State) (pav : Nat) : List (Nat × Image) := s.images.filter (fun i => i.2.pav = pav)

/-- The 256 bytes of Table 10-9. -/
def quote (s : State) (pav : Nat) (p : Pav) (nonce : BitVec 256) : List Byte :=
  let cfg := Config.configBytes ([netBytes p.net] ++ p.imgKeys ++ [bytesOf 8 p.rtab.toNat, bytesOf 8 p.rtlen, bytesOf 2 p.shost.toNat,
    bytesOf 2 p.sdram.toNat, bytesOf 2 p.sinj.toNat])
  bytesOf 4 1 ++ bytesOf 12 Config.serial.toNat ++ bytesOf 1 pav ++ bytesOf 7 0 ++ bytesOf 8 s.cyc.toNat
    ++ bytesOf 32 Config.firmwareDigest.toNat ++ bytesOf 4 Config.firmwareVersion.toNat ++ bytesOf 28 0 ++ sha256 cfg
    ++ sha256 ((imagesOf s pav).flatMap (fun i => i.2.manifest)) ++ bytesOf 32 nonce.toNat ++ bytesOf 64 0

def execAttest (pav : PavId) (seq : Word32) (nonce : BitVec 256) (s : State) : Out :=
  onCommand s pav seq 0x08 true fun p =>
    if 2 ^ 40 ≤ s.dev.signed then s.respond pav seq 0x08 stNoResource []
    else
      let q := quote s pav.val p nonce
      (s.modDev (fun d => { d with signed := d.signed + 1 })).respond pav seq 0x08 stDone
        (q ++ slice (Config.hssSign s.dev.signed q) 0 3604 ++ Config.certChain)

end Sys2Proof.Machine
end

