-- ==== Sys2Proof/Machine/Images.lean ====
section
/-!
DEFINITION. Images: the checks, the relocation and the copy of IMG_REG, and IMG_DROP (spec/10 R254-R257).
-/

namespace Sys2Proof.Machine

/-- A segment table entry (Table 10-6). -/
structure Seg where
  off : Nat
  size : Nat
  va : Nat
  zero : Bool
  dig : List Byte
  deriving DecidableEq, Repr

/-- A relocation entry (R256). -/
structure Reloc where
  site : Nat
  kind : Nat
  sseg : Nat
  tseg : Nat
  addend : Int
  deriving DecidableEq, Repr

/-- An image on its way through the loader: its code as parcels, its data segments. -/
structure Loading where
  code : List Parcel
  data : List (List Byte)
  deriving DecidableEq, Repr

/-- Entry n of the segment table. -/
def segAt (b : List Byte) (n : Nat) : Seg :=
  let o := 0x60 + 64 * n
  { off := field b o 4, size := field b (o + 4) 4, va := field b (o + 8) 8, zero := field b (o + 16) 16 = 0, dig := slice b (o + 32) 32 }

/-- Entry n of a relocation table; its reserved byte is not looked at (log 72, DESIGN CHOICE: R256 gives a nonzero one no effect). -/
def relocAt (b : List Byte) (n : Nat) : Reloc :=
  { site := field b (16 * n) 4, kind := field b (16 * n + 4) 1, sseg := field b (16 * n + 5) 1, tseg := field b (16 * n + 6) 1
    addend := sext (field b (16 * n + 8) 8) 64 }

/-- Check 1 of R255: the offsets of the manifest and segment fields at fault. -/
def manifestBad (b : List Byte) (len : Nat) : List Nat :=
  let nseg := field b 0x24 1
  let segs := (List.range nseg).flatMap (fun i =>
    let g := segAt b i
    let o := 0x60 + 64 * i
    badIf (decide (len < g.off + g.size)) o
      ++ badIf (decide (i = 0) && (decide (g.size % 2 = 1) || decide (g.size < 2) || decide (262144 < g.size))) (o + 4)
      ++ badIf (decide (i = 0) && decide (g.va ≠ 0)) (o + 8) ++ badIf (!g.zero) (o + 16))
  badIf (field b 0 4 ≠ 0x4E594C43) 0 ++ badIf (field b 4 2 ≠ 1) 4 ++ badIf (decide (2 ≤ field b 6 2)) 6
    ++ badIf (decide (nseg = 0) || decide (16 < nseg) || decide (len < 0x60 + 64 * nseg)) 0x24 ++ badIf (field b 0x25 3 ≠ 0) 0x25
    ++ badIf (field b 0x28 4 % 16 ≠ 0 || decide (len < field b 0x28 4 + 16 * field b 0x2C 4)) 0x28
    ++ badIf (decide (65536 < field b 0x2C 4)) 0x2C ++ badIf (field b 0x50 16 ≠ 0) 0x50 ++ (if nseg ≤ 16 then segs else [])

/-- The blocks of a code segment from parcel p on: first parcel, stream, body length; none unless they are whole (check 6). -/
def blocksOf (code : List Parcel) : Nat → Nat → Option (List (Nat × Nat × Nat))
  | 0, _ => none
  | n + 1, p =>
    if p = code.length then some []
    else
      let h := (code.getD p 0).toNat
      let w := h * 2 ^ 16 + (code.getD (p + 1) 0).toNat
      let next := p + 2 + nbits w 27 19
      if h / 2 ^ 14 ≠ 3 ∨ code.length < next then none
      else (blocksOf code n next).map (fun r => (p, nbits w 29 28, nbits w 27 19) :: r)

/-- The parcels of the instruction that a first parcel begins. -/
def parcelsOf (p : Parcel) : Nat := if p.toNat / 2 ^ 14 = 0 then 1 else if p.toNat / 2 ^ 14 = 1 then 2 else 3

/-- Does an instruction of a body begin at a site? -/
def beginsAt (code : List Parcel) (site stop : Nat) : Nat → Nat → Bool
  | 0, _ => false
  | n + 1, p => if stop ≤ p then false else if p = site then true else beginsAt code site stop n (p + parcelsOf (code.getD p 0))

/-- Is a site the first parcel of an LI of an S block? -/
def liSite (code : List Parcel) (site : Nat) : Bool :=
  (match (blocksOf code (code.length + 1) 0) with
    | some bs => bs.any (fun b => decide (b.2.1 = 0) && beginsAt code site (b.1 + 2 + b.2.2) b.2.2 (b.1 + 2))
    | none => false)
  && match decode .s (code.drop site) with
    | .ok (.li .., _) => true
    | _ => false

/-- One relocation applied, if it does not fail (R256). -/
def relocate (nseg base : Nat) (vas : List Nat) (r : Reloc) (x : Loading) : Option Loading :=
  let t : Int := (if r.tseg = 0 then (base : Int) else (vas.getD r.tseg 0 : Int)) + r.addend
  let code := r.kind = 0 || r.kind = 1
  let target := if r.kind = 0 || r.kind = 3 then r.tseg = 0 else r.tseg ≠ 0
  if 3 < r.kind ∨ nseg ≤ r.tseg ∨ nseg ≤ r.sseg ∨ !target then none
  else if code then
    if t < -(2 ^ 30) ∨ 2 ^ 30 - 1 < t ∨ !liSite x.code r.site then none
    else
      let v := ibits t 31
      let lo := (x.code.getD (r.site + 1) 0).toNat
      let c := lset x.code (r.site + 1) (BitVec.ofNat 16 (lo / 2 ^ 15 * 2 ^ 15 + v % 2 ^ 15))
      some { x with code := lset c (r.site + 2) (BitVec.ofNat 16 (v / 2 ^ 15)) }
  else
    let d := x.data.getD r.sseg []
    if r.sseg = 0 ∨ r.site % 8 ≠ 0 ∨ d.length < r.site + 8 then none
    else some { x with data := lset x.data r.sseg (splice d r.site (bytesOf 8 (ibits t 64))) }

/-- The relocations applied in order. -/
def relocateAll (nseg base : Nat) (vas : List Nat) : List Reloc → Loading → Option Loading
  | [], x => some x
  | r :: rs, x => match relocate nseg base vas r x with
    | some x => relocateAll nseg base vas rs x
    | none => none

/-- Bytes as parcels. -/
def parcels (b : List Byte) : List Parcel := (List.range (b.length / 2)).map (fun i => BitVec.ofNat 16 (field b (2 * i) 2))

/-- The lowest handle that no registered image of the device holds. -/
def freeHandle (s : State) : Option Nat := ((List.range 65535).map (· + 1)).find? (fun h => (mfind h s.images).isNone)

/-- What IMG_REG comes to: a status and perhaps a field, or an image with the data segments to be written. -/
inductive ImgCheck where
  | bad (stat : Nat) (off : Option Nat)
  | ok (i : Image) (writes : List (Nat × List Byte))
  deriving DecidableEq, Repr

/-- The checks of R255 in their order. A staging range that cannot be read over its whole length is refused at field 0 (log 70, DESIGN
CHOICE: R255 names no check and no field for it). -/
def checkImage (s : State) (pav : Nat) (p : Pav) (va len base : Nat) : ImgCheck :=
  let d := bridgeDie pav
  let at_ := fun (off n : Nat) => (s.readVa d pav (va + off) n).getD []
  if 2 ^ 48 < va + len ∨ (s.readVa d pav va (min len 0x60)).isNone then .bad stRefused (some 0)
  else if len < 0x60 then .bad stRefused (some 8)
  else
    let nseg := field (at_ 0 0x60) 0x24 1
    let b := at_ 0 (min len (0x60 + 64 * nseg))
    match firstBad (manifestBad b len) with
    | some o => .bad stRefused (some o)
    | none =>
      if (s.readVa d pav va len).isNone then .bad stRefused (some 0)
      else
        let signed := nbit (field b 6 2) 0
        let sig := at_ (0x60 + 64 * nseg) 3604
        let good := if signed then p.imgKeys.any (fun k => hssVerify k b sig) else !p.net.pflags.getLsbD 0
        let segs := (List.range nseg).map (segAt b)
        let bytes := segs.map (fun g => at_ g.off g.size)
        let rel := at_ (field b 0x28 4) (16 * field b 0x2C 4)
        if !good then .bad stDigest none
        else if !((segs.zip bytes).all (fun g => sha256 g.2 = g.1.dig) && sha256 rel = slice b 0x30 32) then .bad stDigest none
        else
          let x : Loading := { code := parcels (bytes.headD []), data := bytes }
          match relocateAll nseg base (segs.map (·.va)) ((List.range (field b 0x2C 4)).map (relocAt rel)) x with
          | none => .bad stReloc none
          | some x =>
            let entry := field b 0x20 4
            let isEntry := match blocksOf x.code (x.code.length + 1) 0 with
              | some bs => bs.any (fun k => decide (k.1 = entry) && decide (k.2.1 = 0))
              | none => false
            let failing := ((List.range nseg).drop 1).find? (fun i =>
              !pagesPass s pav ((segs.map (·.va)).getD i 0) ((segs.map (·.size)).getD i 0) .write)
            if 131072 < base + x.code.length then .bad stRefused (some 16)
            else if !isEntry then .bad stRefused (some 0x20)
            else
              match failing with
              | some i => .bad stRefused (some (0x60 + 64 * i + 8))
              | none =>
                .ok { pav := pav, base := base, code := x.code, entry := entry, manifest := slice b 0 0x60, dropping := false }
                  (((List.range nseg).drop 1).map (fun i => ((segs.map (·.va)).getD i 0, x.data.getD i [])))

/-- IMG_REG (R255): every check, a field's offset being reported modulo 256 (log 70, DESIGN CHOICE: the status of Table 8-4 has eight bits for it), then the copy into the store, the data segments and the handle. -/
def execImgReg (pav : PavId) (seq : Word32) (va len : Word64) (base : Word32) (s : State) : Out :=
  onCommand s pav seq 0x01 false fun p =>
    match checkImage s pav.val p va.toNat len.toNat base.toNat with
    | .bad stat (some off) => s.respond pav seq 0x01 stat (bytesOf 8 (4 + off % 256 * 2 ^ 8))
    | .bad stat none => s.respond pav seq 0x01 stat []
    | .ok i ws =>
      match freeHandle s with
      | none => s.respond pav seq 0x01 stNoResource []
      | some h =>
        let s := ({ s with images := mset h i s.images } : State).unloadImage (BitVec.ofNat 16 h)
        let s := each ws (fun w s => (s.hostWrite pav.val w.1 w.2).noteHost pav.val w.1 w.2.length) s
        s.respond pav seq 0x01 stDone (bytesOf 2 h)

/-- IMG_DROP (R257): the handle is freed once no task and no CR of the image is left. -/
def execImgDrop (pav : PavId) (seq : Word32) (handle : BitVec 16) (s : State) : Out :=
  onCommand s pav seq 0x02 false fun _ =>
    match mfind handle.toNat s.images with
    | none => s.refuse pav seq 0x02 0
    | some i =>
      if i.pav ≠ pav.val then s.refuse pav seq 0x02 0
      else if i.dropping then s.respond pav seq 0x02 stBusy []
      else (({ s with images := mset handle.toNat { i with dropping := true } s.images } : State).freeImage handle).respond pav seq 0x02
        stDone []

end Sys2Proof.Machine
end

