-- ==== Sys2Proof/Machine/Manage.lean ====
section
/-!
DEFINITION. The management pavilion's commands, the end of a freeze, reset of a pavilion, and the device's own bring-up and
loss of power (spec/19 R389-R399, spec/10 R266, R267, R272, spec/21 R420).
-/

namespace Sys2Proof.Machine

/-- The management pavilion's endpoint. -/
def mgmt : PavId := ⟨128, by decide⟩

/-- A management command, refused at its pavilion field where that names no tenant pavilion (R392). -/
def onTenant (s : State) (seq : Word32) (op : Nat) (pav : BitVec 8) (f : Pav → State) : Out :=
  onCommand s mgmt seq op true fun _ =>
    match s.pav? pav.toNat with
    | none => s.refuse mgmt seq op 0
    | some p => if 128 ≤ pav.toNat then s.refuse mgmt seq op 0 else f p

/-! ## Creation and configuration (R395, R396) -/

/-- The fields of Table 19-12 up to 0x2F that are at fault. -/
def netBad (n : NetCfg) : List Nat :=
  let has := fun (i : Nat) => n.pflags.getLsbD i
  badIf (decide (16 ≤ n.pflags.toNat)) 1
    ++ badIf (if has 1 then decide (n.vlan = 0) || decide (4094 < n.vlan.toNat) else decide (n.vlan ≠ 0)) 2
    ++ badIf (!has 2 && decide (n.ipv4 ≠ 0)) 8 ++ badIf (!has 3 && decide (n.ipv6 ≠ 0)) 0x10

/-- Do two physical ranges meet? -/
def rangesMeet (a b : Nat × Nat) : Bool := decide (a.1 < b.1 + b.2) && decide (b.1 < a.1 + a.2)

/-- The offsets of physical ranges that are misaligned, too high, or meet a range of another tenant (R395). -/
def rangesBad (s : State) (pav off : Nat) (rs : List (Word64 × Word64)) : List Nat :=
  let others := s.pavs.flatMap (fun p => if p.1 = pav ∨ p.1 = 128 then [] else p.2.ranges)
  (rs.zip (List.range rs.length)).flatMap (fun r =>
    let a := (r.1.1.toNat, r.1.2.toNat)
    badIf (a.1 % 2 ^ 21 ≠ 0 || a.2 % 2 ^ 21 ≠ 0 || decide (physTop < a.1 + a.2) || others.any (rangesMeet a)) (off + 16 * r.2))

/-- Does a translation root lie in some of the ranges? -/
def rootInside (troot : Nat) (rs : List (Nat × Nat)) : Bool :=
  troot % 4096 = 0 && rs.any (fun r => decide (r.1 ≤ troot) && decide (troot + 4096 ≤ r.1 + r.2))

/-- Is it an HSS public key of two levels with LMS_SHA256_M32_H20 and LMOTS_SHA256_N32_W8 (RFC 8554 type codes)? -/
def hssKeyOk (k : List Byte) : Bool := natOfBE (slice k 0 4) = 2 && natOfBE (slice k 4 4) = 8 && natOfBE (slice k 8 4) = 4

/-- A pavilion right after its creation. -/
def newPav (net : NetCfg) (key : Nat) (grant : BitVec 128) : Pav :=
  { st := .running, net := net, imgKeys := [], key := key, retired := [], troot := 0, ranges := [], rtab := 0, rtlen := 0, shost := 1,
    sdram := 1, sinj := 1, grantKey := grant, prevKey := none, nseq := 0, heldCmds := [], replies := [], pendingReply := [], outSeq := 0,
    unacked := [], nqs := [], hwins := [], dwins := [], nextLid := 1, launches := []
    ctr := { rxf := 0, txf := 0, dropOpt := 0, dropAct := 0, retx := 0, cnp := 0, nqDisc := 0 }
    viol := 0, forged := 0, undeliv := 0, viocnt := (0, 0), fltcnt := [], heldRegions := [], handlers := [], items := [],
    hts := 0, wasReset := false }

/-- Address and length of ranges. -/
def rangesOf (rs : List (Word64 × Word64)) : List (Nat × Nat) := rs.map (fun r => (r.1.toNat, r.2.toNat))

/-- The first field at fault of a pavilion to be created (R395). -/
def createBad (s : State) (c : PavCfg) : Option Nat :=
  let n := c.net.pav.toNat
  firstBad (badIf (decide (128 ≤ n) || (s.pav? n).isSome) 0 ++ netBad c.net ++ badIf (decide (4 < c.keys.length)) 6
    ++ badIf (decide (c.ranges.length = 0) || decide (64 < c.ranges.length)) 7 ++ badIf (decide (c.rtab.toNat % 8 ≠ 0)) 0x30
    ++ badIf (decide (c.rtlen = 0) || decide (65536 < c.rtlen.toNat)) 0x38 ++ badIf (decide (c.shost = 0)) 0x3C
    ++ badIf (decide (c.sdram = 0)) 0x3E ++ badIf (decide (c.sinj = 0)) 0x40
    ++ badIf (!rootInside c.troot.toNat (rangesOf c.ranges)) 0x48 ++ rangesBad s n 0x50 c.ranges
    ++ (c.keys.zip (List.range c.keys.length)).flatMap (fun k => badIf (!hssKeyOk k.1) (0x50 + 16 * c.ranges.length + 60 * k.2)))

/-- A pavilion created under a key id of the pool, with a new grant key (R267, R420). -/
def State.createPav (s : State) (c : PavCfg) (key : Nat) : State :=
  let p := { newPav c.net key (Config.freeKey s.free) with
    imgKeys := c.keys
    troot := c.troot.toNat
    ranges := rangesOf c.ranges
    rtab := c.rtab
    rtlen := c.rtlen.toNat
    shost := c.shost
    sdram := c.sdram
    sinj := c.sinj }
  ({ s with pavs := mset c.net.pav.toNat p s.pavs, free := s.free + 1 } : State).modDev (fun d => { d with keyPool := ldel key d.keyPool })

/-- PAV_CREATE (R395): the lowest key id of the pool is taken (log 19). `pav` is the endpoint that the command came to. -/
def execPavCreate (pav : PavId) (seq : Word32) (net : NetCfg) (rtab : Word64) (rtlen : Word32) (shost sdram sinj : BitVec 16)
    (troot : Word64) (ranges : List (Word64 × Word64)) (keys : List (List Byte)) (s : State) : Out :=
  if pav ≠ mgmt then .next (s.violation pav.val)
  else
    onCommand s mgmt seq 0x80 true fun _ =>
      let c : PavCfg := { net := net, rtab := rtab, rtlen := rtlen, shost := shost, sdram := sdram, sinj := sinj, troot := troot,
                          ranges := ranges, keys := keys }
      match createBad s c, s.dev.keyPool with
      | some off, _ => s.refuse mgmt seq 0x80 off
      | none, [] => s.respond mgmt seq 0x80 stNoResource []
      | none, k :: ks =>
        let key := ks.foldl min k
        (s.createPav c key).respond mgmt seq 0x80 stDone (bytesOf 1 key ++ bytesOf 7 0)

/-- PAV_DESTROY: a pavilion that has been reset is removed, with its images; its key id returns to the pool (R392). -/
def execPavDestroy (seq : Word32) (pav : BitVec 8) (s : State) : Out :=
  onTenant s seq 0x81 pav fun p =>
    let n := pav.toNat
    if p.st ≠ PState.frozen || !p.wasReset then s.refuse mgmt seq 0x81 0
    else
      let s := each (imagesOf s n) (fun i s => s.unloadImage (BitVec.ofNat 16 i.1)) s
      let s := { s with pavs := mdel n s.pavs, images := s.images.filter (fun i => i.2.pav ≠ n) }
      ((s.poolKey p.key).tlbInv n 0 0 true).respond mgmt seq 0x81 stDone []

/-- PAVNET: addresses, VLAN, port, key and REQSIGNED of an existing pavilion; the response itself goes under the old key
(R395). -/
def execPavnet (seq : Word32) (net : NetCfg) (s : State) : Out :=
  onCommand s mgmt seq 0x8A true fun _ =>
    let n := net.pav.toNat
    if 16 ≤ net.pflags.toNat then s.violation 128
    else match firstBad (badIf (s.pav? n).isNone 0 ++ netBad net) with
    | some off => s.refuse mgmt seq 0x8A off
    | none => (s.respond mgmt seq 0x8A stDone []).modPav n (fun p => { p with net := net })

/-- Is a physical address outside a set of ranges? -/
def outside (rs : List (Nat × Nat)) (pa : Nat) : Bool := !rs.any (fun r => decide (r.1 ≤ pa) && decide (pa < r.1 + r.2))

/-- Is a tile one of a pavilion, by its key, the current one or a retired one? -/
def Pav.tile (p : Pav) (n : Nat) (g : TTag) : Bool := decide (g.pav = n % 128) && (decide (g.key = p.key) || p.retired.contains g.key)

/-- Does a tile of a pavilion lie in memory not in some ranges, whole or in part? -/
def tileOutside (s : State) (n : Nat) (rs : List (Nat × Nat)) (g : TTag) (desc : List Byte) : Bool :=
  !(readDesc desc).remote && (footprint (readDesc desc) g).any (fun f => (pagesOf f.1 f.2).any (fun va =>
    match xlateNow s (bridgeDie n) n va .read with
    | .ok _ pa => outside rs pa
    | _ => false))

/-- The tiles of a pavilion that the device knows, with a descriptor that says where each lies: of lines, fills, messages and the homes'
entries and records. -/
def tilesKnown (s : State) (n : Nat) (p : Pav) : List (TTag × List Byte) :=
  (s.dies.flatMap (fun d => d.2.tarn.map (fun l => (l.2.tag, l.2.desc))) ++ s.tfills.map (fun x => (x.2.tag, x.2.desc))
    ++ s.tmsgs.map (fun m => (m.2.tag, m.2.desc)) ++ s.homes.flatMap (fun h => h.2.places)).filter (fun x => p.tile n x.1)

/-- A write-back on its way performed and published at once, where its directory does not hold it. -/
def State.hurryWb (s : State) (id : Nat) : State :=
  let go := fun (o : Out) (s : State) => match o with | .next s => s | _ => s
  let s := go (execTileWritebackBegin id ((s.bringNow id).undram id)) s
  let s := go (execTileWritebackBegin id (s.undram id)) s
  go (execTilePublish id s) s

/-- A tarn line written out, where it is dirty and newer than its published version, and dropped (R396). -/
def State.writeOut (s : State) (die way : Nat) (l : TLine) : State :=
  let p := match l.home with | some h => (pubOf (s.home h) l.tag).1 | none => 0
  let s := if !l.dirty || !later 16 l.ver p then s
    else
      match storeTile (s.settle (fun r => r.pay.isSome)) die l.region.1 l.desc l.tag l.data l.pub with
      | .ok s _ => s
      | .bad .. => s.deviceEvent l.region.1 fDataLoss l.tag.key (BitVec.ofNat 64 (firstByte (readDesc l.desc) l.tag)) false
  s.removeLine die way l

/-- PAVMEM (R396): lines outside the new ranges are written back and dropped under the old translations, which are removed; then fills
not yet there are given up, and the homes forget those tiles. -/
def execPavmem (seq : Word32) (pav mflags : BitVec 8) (troot : Word64) (ranges : List (Word64 × Word64)) (s : State) : Out :=
  onTenant s seq 0x89 pav fun p =>
    let n := pav.toNat
    let newRoot := mflags.getLsbD 0
    let newRanges := mflags.getLsbD 1
    let rs := if newRanges then rangesOf ranges else p.ranges
    let root := if newRoot then troot.toNat else p.troot
    let bad := badIf (newRanges ≠ decide (ranges ≠ []) || decide (64 < ranges.length)) 2
      ++ badIf (if newRoot then !rootInside root rs else decide (troot ≠ 0) || (newRanges && !rootInside root rs)) 8
      ++ rangesBad s n 0x10 ranges
    if 4 ≤ mflags.toNat then s.violation 128
    else match firstBad bad with
    | some off => s.refuse mgmt seq 0x89 off
    | none =>
      let tags := if newRanges then ((tilesKnown s n p).filter (fun x => tileOutside s n rs x.1 x.2)).map (·.1) else []
      let gone := fun (g : TTag) => tags.contains g
      let line := fun (l : CLine) => newRanges && decide (l.pav = n) && outside rs (128 * l.line)
      let leaves := fun (m : TMsg) => match m.kind with
        | .wbBegin _ | .writing _ | .publish _ => gone m.tag
        | _ => false
      let s := s.flushCaches line
      let s := each (s.tmsgs.filter (fun m => leaves m.2)) (fun m s => s.hurryWb m.1) s
      let s := each s.dies (fun d s => each (d.2.tarn.filter (fun l => !l.2.filling && gone l.2.tag)) (fun l s => s.writeOut d.1 l.1 l.2) s) s
      let s := (s.tlbInv n 0 0 true).modPav n (fun p => { p with troot := root, ranges := rs })
      (s.endTiles gone).respond mgmt seq 0x89 stDone []

/-- SHARES (R399). -/
def execShares (seq : Word32) (pav : BitVec 8) (shost sdram sinj : BitVec 16) (s : State) : Out :=
  onTenant s seq 0x86 pav fun _ =>
    match firstBad (badIf (decide (shost = 0)) 2 ++ badIf (decide (sdram = 0)) 4 ++ badIf (decide (sinj = 0)) 6) with
    | some off => s.refuse mgmt seq 0x86 off
    | none => (s.modPav pav.toNat (fun p => { p with shost := shost, sdram := sdram, sinj := sinj })).respond mgmt seq 0x86 stDone []

/-- GRANTKEY: a new key, the replaced one kept as the previous (R420). -/
def execGrantkey (seq : Word32) (pav : BitVec 8) (s : State) : Out :=
  onTenant s seq 0x8D pav fun p =>
    (({ s with free := s.free + 1 } : State).modPav pav.toNat (fun q => { q with
      grantKey := Config.freeKey s.free
      prevKey := some p.grantKey })).respond mgmt seq 0x8D stDone []

/-! ## Freezing (R389-R391) -/

/-- FREEZE: the pavilion begins to freeze; the response follows when the freeze completes (R389). -/
def execFreeze (seq : Word32) (pav : BitVec 8) (s : State) : Out :=
  onTenant s seq 0x82 pav fun p =>
    if p.st = PState.frozen then s.respond mgmt seq 0x82 stDone (bytesOf 4 p.items.length ++ bytesOf 4 0)
    else
      (s.modPav 128 (fun m => { m with pendingReply := m.pendingReply ++ [(seq.toNat, pav.toNat)] })).beginFreeze pav.toNat

/-- RESET: the pavilion freezes if it has not, and is reset when that is complete (R391). -/
def execReset (seq : Word32) (pav : BitVec 8) (s : State) : Out :=
  onTenant s seq 0x84 pav fun _ =>
    let s := (s.modPav 128 (fun m => { m with pendingReply := m.pendingReply ++ [(seq.toNat, pav.toNat)] })).beginFreeze pav.toNat
    s.modPav pav.toNat (fun p => { p with st := .resetting })

/-- Is a slot record that of a slot which a freeze ended? -/
def isPartial (b : List Byte) : Bool := field b 5 1 = 3

/-- The slots of a pavilion's saved tasks that still run end PARTIAL (R389). -/
def State.stopSavedSlots (s : State) (pav : Nat) : State :=
  each (s.saved.filter (fun v => v.2.task.pav = pav)) (fun v s =>
    let cut := (taskSlots s v.2.task.uid).map (fun x => x.2.2)
    if cut.isEmpty then s
    else
      let v' := { v.2 with
        slots := v.2.slots ++ cut.map (fun x => slotRec { x with state := 3 })
        nexts := v.2.nexts ++ cut.map CopySlot.next }
      ({ s with saved := mset v.1 v' s.saved } : State).dropSlots v.2.task.uid) s

/-- The item status records of a pavilion (R390, Table 19-9): of its launches; of its queued CRs, placed ones and ones on their way, by the
address that each came from (log 64, DESIGN CHOICE); of its tasks, slots and remote operations. -/
def pavItems (s : State) (pav : Nat) (p : Pav) : List (List Byte) :=
  let launch := fun (x : Nat × Launch) =>
    itemRec 1 (if !x.2.live then 1 else if x.2.started = 0 then 5 else 3) 0 x.2.region 0 x.1 x.2.ended.toNat 0
  let waits := (s.queued.filter (fun q => q.pav = pav && q.saved.isNone)).flatMap (fun q => List.replicate q.count q.cr)
    ++ s.cores.flatMap (fun c => (c.2.starting.filter (fun r => r.2.pav = pav && r.2.saved.isNone)).map (fun r => r.2.cr))
  let coming := (s.crsubs.filter (fun x => x.2.pav = pav)).map (fun x =>
    itemRec 5 5 0 (field x.2.rec_ (match x.2.src with | .launch .. => 0x1A | _ => 0x12) 2) 0 x.2.addr 0 0)
  let done := fun (t : Task) => t.exiting && allStreams.all (fun k => (t.st k).phase = .halted)
  let task := fun (t : Task) =>
    let steps := match t.run with | some r => r.step | none => 0
    itemRec 2 (if t.stopped then 2 else if done t then 1 else 3) (if t.stopped then t.fault else 0) t.cr.region.toNat steps
      t.taskid.toNat 0 (if t.stopped then t.faddr else 0)
  let slot := fun (t : Task) (b : List Byte × Word64) =>
    let st := field b.1 5 1
    itemRec 3 (if st = 1 then 1 else if st = 2 then 2 else 3) (if st = 2 then BitVec.ofNat 8 (field b.1 6 1) else 0) t.cr.region.toNat 0
      (t.taskid.toNat + field b.1 0 4 * 2 ^ 32) (field b.1 8 8) b.2
  let ours := (s.saved.filter (fun v => v.2.task.pav = pav)).map (·.2)
  p.launches.map launch ++ waits.map (fun c => itemRec 5 5 0 c.region.toNat 0 c.addr 0 0) ++ coming ++ ours.map (fun v => task v.task)
    ++ ours.flatMap (fun v => (v.slots.zip v.nexts).map (slot v.task))
    ++ (s.rops.filter (fun r => r.2.pav = pav)).map (fun r =>
        itemRec 4 3 0 r.2.region 0 (r.2.task.toNat + r.2.iaddr.toNat * 2 ^ 32) 0 (BitVec.ofNat 64 r.2.req.off))

/-- The fault queues of a pavilion's regions emptied (R391). -/
def State.emptyFaultQueues (s : State) (pav : Nat) (p : Pav) : State :=
  each (uniq ((List.range p.rtlen).map (fun g => ((regionEff s pav g).getD noEff).fq))) (fun fq s =>
    match fqHead s pav fq with
    | some h => s.writeVa (bridgeDie pav) pav (fq + 8) (bytesOf 4 h.head)
    | none => s) s

/-- The 4,096 entries of a grant window table emptied (R391, R417). -/
def State.emptyGrants (s : State) (pav : Nat) : State :=
  if pagesPass s pav 0x0000FFFFFFFE0000 131072 .write then s.hostWrite pav 0x0000FFFFFFFE0000 (List.replicate 131072 0) else s

/-- Saved tasks, records and operations of a pavilion discarded (R391). -/
def State.discardPav (s : State) (pav : Nat) : State :=
  let s := s.keepCrs (fun q => q.pav ≠ pav)
  let s := { s with
    saved := s.saved.filter (fun v => v.2.task.pav ≠ pav)
    crsubs := s.crsubs.filter (fun c => c.2.pav ≠ pav)
    rops := s.rops.filter (fun r => r.2.pav ≠ pav)
    gangs := s.gangs.filter (fun g => g.2.pav ≠ pav) }
  let s := s.unplace (fun r => r.pav = pav)
  let s := each (s.accts.filter (fun a => a.2.pav = pav)) (fun a s => s.freeAcct a.1) s
  each (imagesOf s pav) (fun i s => s.freeImage (BitVec.ofNat 16 i.1)) s

/-- The tiles of a pavilion's key. -/
def ofPav (pav key : Nat) (g : TTag) : Bool := decide (g.pav = pav % 128) && decide (g.key = key)

/-- The last part of a reset: keys, tiles, queues, tables, sequence state (R391). -/
def State.resetPav (s : State) (pav : Nat) (p : Pav) : State :=
  let s := ((s.emptyFaultQueues pav p).emptyGrants pav).discardPav pav
  let s := ((s.flushCaches (fun l => l.key = p.key)).endTiles (ofPav pav p.key)).retireKey p.key
  let pool := s.dev.keyPool
  let key := match pool with | k :: ks => ks.foldl min k | [] => p.key
  let s := s.modDev (fun d => { d with keyPool := ldel key d.keyPool })
  let s := s.modPav pav (fun q => { q with
    key := key
    retired := ldel key q.retired
    grantKey := Config.freeKey s.free
    prevKey := none
    nqs := q.nqs.map (fun x => (x.1, { x.2 with vals := [], dropped := 0, dropSince := none }))
    unacked := []
    outSeq := 0
    hwins := []
    dwins := []
    nseq := 0
    heldCmds := []
    replies := []
    handlers := []
    heldRegions := []
    st := .frozen
    wasReset := true })
  ({ s with free := s.free + 1 } : State).poolKey p.key

/-- The pending response of a FREEZE or RESET of a pavilion. -/
def State.freezeReply (s : State) (pav op n : Nat) : State :=
  match (s.pav? 128).bind (fun m => m.pendingReply.find? (fun r => r.2 = pav)) with
  | none => s
  | some r =>
    (s.modPav 128 (fun m => { m with pendingReply := m.pendingReply.filter (fun x => x ≠ r) })).respond mgmt (BitVec.ofNat 32 r.1) op stDone
      (bytesOf 4 n ++ bytesOf 4 0)

/-- A freeze completes once every task is saved and every slot has ended: the item records are formed; a reset goes on when no
tile of the pavilion is left (R389-R391). -/
def State.completeFreeze (s : State) (pav : Nat) : State :=
  match s.pav? pav with
  | none => s
  | some p =>
    if !(p.st = PState.freezing || p.st = PState.resetting) || s.tasks.any (fun t => t.2.2.pav = pav) then s
    else
      let s := s.stopSavedSlots pav
      let items := pavItems s pav p
      let s := s.modPav pav (fun p => { p with items := items })
      if p.st = PState.freezing then (s.modPav pav (fun p => { p with st := .frozen })).freezeReply pav 0x82 items.length
      else if tilesLeft s (ofPav pav p.key) then (s.flushCaches (fun l => l.key = p.key)).flushTiles (fun l => ofPav pav p.key l.tag)
      else (s.resetPav pav p).freezeReply pav 0x84 items.length

/-- A saved task of an unfrozen pavilion: one with a PARTIAL slot stays stopped by COPY_FAULT with the record posted; a held one
that no fault stopped is queued again (R391). -/
def State.unfreezeSaved (s : State) (pav id : Nat) : State :=
  match mfind id s.saved with
  | none => s
  | some v =>
    let t := v.task
    let cut := v.slots.filter isPartial
    let left := (v.slots.zip v.nexts).filter (fun b => !isPartial b.1)
    let region := (s.pav? pav).any (fun p => p.heldRegions.any (fun h => h.1 = t.cr.region.toNat))
    if cut.isEmpty then (if !v.held || v.watchdog || t.stopped || region then
        { s with saved := mset id { v with held := false } s.saved } else s.requeue id)
    else
      let stopped : Task := if t.stopped then t else
        { t.modSt .c (fun x => { x with faulted := true }) with stopped := true, fault := fCopyFault }
      let v := { v with task := stopped, byFault := true, held := false }
      let v := { v with slots := left.map Prod.fst, nexts := left.map Prod.snd }
      let s := { s with saved := mset id v s.saved }
      let s := s.keepCrs (fun q => q.saved ≠ some id)
      each cut (fun b s =>
        let r := faultRec t .c fCopyFault false 0 (BitVec.ofNat 17 (field b 0 4)) (BitVec.ofNat 64 (field b 24 8)) b
        (s.postRecord t.eff.fq r t.eff.storm t.cr.lacct.toNat).1) s

/-- UNFREEZE (R391). -/
def execUnfreeze (seq : Word32) (pav : BitVec 8) (s : State) : Out :=
  onTenant s seq 0x83 pav fun p =>
    if p.st ≠ PState.frozen then s.respond mgmt seq 0x83 stDone []
    else
      let n := pav.toNat
      let s := s.modPav n (fun p => { p with st := .running, wasReset := false })
      (each ((s.saved.filter (fun v => v.2.task.pav = n)).map (·.1)) (fun id s => s.unfreezeSaved n id) s).respond mgmt seq 0x83 stDone []

/-! ## Counters and memory status (R398, R399) -/

/-- The LOST counts of a pavilion's fault queues, region by region, where they are not 0 (R376, Table 19-16). -/
def lostCounts (s : State) (n : Nat) (p : Pav) : List (Nat × Nat × Nat) :=
  (List.range p.rtlen).filterMap (fun g =>
    let fq := ((regionEff s n g).getD noEff).fq
    match fqHead s n fq with
    | some h => if h.lost = 0 then none else some (g, fq, h.lost)
    | none => none)

/-- Table 19-16 for a pavilion. -/
def countersBytes (s : State) (n : Nat) (p : Pav) : List Byte :=
  let regions := (lostCounts s n p).take 1000
  counterBytes n p.ctr ++ bytesOf 4 p.viol.toNat ++ bytesOf 4 p.forged.toNat ++ bytesOf 4 p.undeliv.toNat ++ bytesOf 4 regions.length
    ++ (List.range 8).flatMap (fun d => bytesOf 4 (if n = 128 then (s.die d).oldFlits.toNat else 0))
    ++ (List.range 16).flatMap (fun q => bytesOf 4 (if n = 128 then (s.port q).drop.toNat else 0))
    ++ regions.flatMap (fun r => bytesOf 2 r.1 ++ bytesOf 2 0 ++ bytesOf 4 r.2.2)

/-- COUNTERS, and with the clear flag the counters zeroed once they are read. -/
def execCounters (seq : Word32) (pav : BitVec 8) (clr : Bool) (s : State) : Out :=
  onCommand s mgmt seq 0x87 true fun _ =>
    let n := pav.toNat
    match s.pav? n with
    | none => s.refuse mgmt seq 0x87 0
    | some p =>
      let b := countersBytes s n p
      let s := if !clr then s else
        let s := s.modPav n (fun p => { p with
          ctr := { rxf := 0, txf := 0, dropOpt := 0, dropAct := 0, retx := 0, cnp := 0, nqDisc := 0 }
          viol := 0
          forged := 0
          undeliv := 0 })
        let s := each (uniq ((lostCounts s n p).map (fun r => r.2.1))) (fun fq s => s.writeVa (bridgeDie n) n (fq + 12) (bytesOf 4 0)) s
        if n ≠ 128 then s
        else
          { s with
            dies := s.dies.map (fun (d : Nat × Die) => (d.1, ({ d.2 with oldFlits := 0 } : Die)))
            ports := s.ports.map (fun (q : Nat × Port) => (q.1, ({ q.2 with drop := 0 } : Port))) }
      s.respond mgmt seq 0x87 stDone b

/-- MEMSTAT kind 0 (R399). -/
def execMemstatErrorRing (seq : Word32) (sel : BitVec 8) (clr : Bool) (s : State) : Out :=
  onCommand s mgmt seq 0x85 true fun _ =>
    let m := sel.toNat
    if 16 ≤ m then s.refuse mgmt seq 0x85 0
    else
      let k := s.stack m
      let b := bytesOf 4 k.head.toNat ++ bytesOf 4 k.tail.toNat ++ bytesOf 4 k.overflow.toNat ++ bytesOf 4 0
      let s := if clr then s.modStack m (fun k => { k with tail := k.head, overflow := 0 }) else s
      s.respond mgmt seq 0x85 stDone b

/-- MEMSTAT kind 1: 322 requesters of four classes (R399). -/
def execMemstatDeadlines (seq : Word32) (sel : BitVec 8) (clr : Bool) (s : State) : Out :=
  onCommand s mgmt seq 0x85 true fun _ =>
    let h := sel.toNat
    if 64 ≤ h then s.refuse mgmt seq 0x85 0
    else
      let b := (List.range 1288).flatMap (fun i => bytesOf 4 (mget i 0 (s.home h).missed).toNat)
      let s := if clr then s.modHome h (fun k => { k with missed := [] }) else s
      s.respond mgmt seq 0x85 stDone b

/-- MEMSTAT kind 2 (R399). -/
def execMemstatHotList (seq : Word32) (sel : BitVec 8) (_clr : Bool) (start : Word32) (s : State) : Out :=
  onCommand s mgmt seq 0x85 true fun _ =>
    let m := sel.toNat
    if 16 ≤ m then s.refuse mgmt seq 0x85 0
    else
      let k := s.stack m
      let row := fun (r : Nat) => bytesOf 1 (r / 2 ^ 24) ++ bytesOf 1 (r / 2 ^ 20 % 16 + 16 * (r / 2 ^ 16 % 16)) ++ bytesOf 2 (r % 2 ^ 16)
        ++ bytesOf 2 (mget r 0 k.scores) ++ bytesOf 2 0
      s.respond mgmt seq 0x85 stDone (bytesOf 4 k.hot.length ++ bytesOf 4 start.toNat
        ++ ((k.hot.drop start.toNat).take 1022).flatMap row)

/-- ERRRING: a ring set up, or with address 0 posting stopped (R398). -/
def execErrring (seq : Word32) (stack : BitVec 8) (va : Word64) (s : State) : Out :=
  onCommand s mgmt seq 0x8B true fun _ =>
    let m := stack.toNat
    if 16 ≤ m then s.refuse mgmt seq 0x8B 0
    else if va ≠ 0 ∧ (va.toNat % 32 ≠ 0 ∨ s.classAt (bridgeDie 128) 128 va.toNat ≠ some .coh) then s.refuse mgmt seq 0x8B 8
    else (s.modStack m (fun k => { k with ring := va, head := 0, tail := 0, overflow := 0 })).respond mgmt seq 0x8B stDone []

/-! ## The device (R397, R398, R266, R267) -/

/-- NODECFG: node number, EtherType and node table together (R397). -/
def execNodecfg (seq : Word32) (node etype : BitVec 16) (ents : List (BitVec 16 × BitVec 16)) (s : State) : Out :=
  onCommand s mgmt seq 0x88 true fun _ =>
    let ports := fun (m : BitVec 16) => ((List.range 16).filter (fun i => m.getLsbD i)).length
    let entry := fun (x : (BitVec 16 × BitVec 16) × Nat) =>
      badIf (decide (x.1.1 = node) || (ents.take x.2).any (fun e => e.1 = x.1.1)) (16 + 8 * x.2)
        ++ badIf (decide (ports x.1.2 = 0) || decide (4 < ports x.1.2)) (18 + 8 * x.2)
    match firstBad (badIf (decide (node = 0xFFFF)) 0 ++ badIf (decide (etype ≠ 0) && decide (etype.toNat < 0x0600)) 2
        ++ badIf (decide (1022 < ents.length)) 8 ++ (ents.zip (List.range ents.length)).flatMap entry) with
    | some off => s.refuse mgmt seq 0x88 off
    | none =>
      (s.modDev (fun d => { d with
        node := some node
        etype := if etype = 0 then d.etype else etype
        nodes := ents })).respond mgmt seq 0x88 stDone []

/-- MGMTCFG: the configuration record and its digest written to flash, for the next bring-up (R398). -/
def execMgmtcfg (seq : Word32) (net : NetCfg) (s : State) : Out :=
  onCommand s mgmt seq 0x8C true fun _ =>
    if 16 ≤ net.pflags.toNat then s.violation 128
    else match firstBad (badIf (decide (net.pav ≠ 128)) 0 ++ netBad net) with
    | some off => s.refuse mgmt seq 0x8C off
    | none =>
      (s.modDev (fun d => { d with flash := some (net, BitVec.ofNat 256 (natOf (sha256 (netBytes net)))) })).respond mgmt seq 0x8C stDone []

/-- The link-local address of a MAC address by the modified EUI-64 rule, as bytes in transmission order. -/
def linkLocal (mac : BitVec 48) : BitVec 128 :=
  let m := bytesBE 6 mac.toNat
  BitVec.ofNat 128 (natOf ([0xFE, 0x80, 0, 0, 0, 0, 0, 0, (m.getD 0 0) ^^^ 2, m.getD 1 0, m.getD 2 0, 0xFF, 0xFE, m.getD 3 0, m.getD 4 0,
    m.getD 5 0] : List Byte))

/-- The management endpoint's configuration (R272): the record in flash, or the defaults with the provisioning key. -/
def mgmtNet (d : Dev) : NetCfg :=
  let plain : NetCfg := { pav := 128, pflags := 8, vlan := 0, actport := 47000, ipv4 := 0, ipv6 := linkLocal (macOf 128),
                          cmdkey := Config.provisioningKey }
  match d.flash with
  | some (net, dig) => if dig = BitVec.ofNat 256 (natOf (sha256 (netBytes net))) then net else plain
  | none => plain

/-- The device at a reset: everything is lost but what flash and the identity key hold; the agenda is the outside's, and the free
values drawn so far stay drawn. -/
def State.cold (s : State) : State :=
  { State.reset with
    agenda := s.agenda
    rr := s.rr
    free := s.free
    dev := { State.reset.dev with flash := s.dev.flash, flashPavs := s.dev.flashPavs, signed := s.dev.signed } }

/-- A peer port after the training of bring-up: UP, or DOWN (Table 10-10). -/
def bootPort (up : Bool) : Port := { Port.reset with st := if up then .up else .down }

/-- A pavilion of the configuration in flash, created unless a field of it is at fault or no key id is left (Table 10-10). -/
def State.fromFlash (c : PavCfg) (s : State) : State :=
  match createBad s c, s.dev.keyPool with
  | none, k :: ks => s.createPav c (ks.foldl min k)
  | _, _ => s

/-- DEVICE_RESET: power good, and bring-up by Table 10-10; `portsUp` are the peer ports whose links train. -/
def execDeviceReset (fwOk dramOk : Bool) (portsUp : BitVec 16) (s : State) : Out :=
  let c := s.cold
  let p := { newPav (mgmtNet c.dev) 0 0 with troot := Config.mgmtRoot, rtab := Config.mgmtRegionTable.1, rtlen := Config.mgmtRegionTable.2 }
  let started := { c with pavs := [(128, p)] }
  if !fwOk then .next { c with stage := .noFirmware }
  else if !dramOk then .next { started with stage := .noDram }
  else
    .next (each c.dev.flashPavs State.fromFlash { started with
      stage := .running
      ports := (List.range 16).map (fun i => (i, bootPort (portsUp.getLsbD i))) })

/-- POWER_LOSS: every state is lost (R267). -/
def execPowerLoss (s : State) : Out := .next { s.cold with stage := .off }

end Sys2Proof.Machine
end

