-- ==== Sys2Proof/Machine/Host.lean ====
section
/-!
DEFINITION. What arrives at the host port: frames, messages, their checks, and the commands executed in the order of SEQ
(spec/10 R247-R253, spec/19 R392).
-/

namespace Sys2Proof.Machine

/-- NEIGHBOUR_ECHO_REPLY: an endpoint answers for its own addresses (Table 10-1); after a failed step 3 of bring-up it
answers only STATUS (Table 10-10). -/
def execNeighbourEchoReply (f : HostFrame) (s : State) : Out :=
  match endpointOf s f with
  | none => .next s
  | some n => .next (if s.stage = Stage.running then s.send n (.echo n f) else s)

/-! ## Commands (Table 10-3, Table 19-10) -/

/-- What the check of a payload comes to: a command to be executed, a refusal at a field, no command, or a violation (R250,
R252). -/
inductive Check where
  | ok
  | refuse (off : Nat)
  | unknown
  | violation
  deriving DecidableEq, Repr

/-- A payload of n bytes with its reserved bytes zero. -/
def payload (b : List Byte) (n : Nat) (reserved : List (Nat × Nat)) : Check :=
  if b.length ≠ n then .refuse (min b.length n)
  else if reserved.any (fun r => field b r.1 r.2 ≠ 0) then .violation
  else .ok

/-- Reserved bits of a payload that has passed. -/
def Check.bits (c : Check) (bad : Bool) : Check := if c = Check.ok && bad then .violation else c

/-- A further check of a payload. -/
def Check.also (c : Check) (bad : Bool) (off : Nat) : Check := if c = Check.ok && bad then .refuse off else c

/-- The length of a PAV_CREATE payload, and of NODECFG's, by their counts. -/
def createLen (b : List Byte) : Nat := 0x50 + 16 * field b 7 1 + 60 * field b 6 1
def nodecfgLen (b : List Byte) : Nat := 16 + 8 * field b 8 2

/-- The payload of an OP checked: PAV_CREATE and NODECFG refuse a nonzero reserved byte (R395, R397), in every other command
it is a violation (R250, R252). -/
def checkPayload (op : Nat) (b : List Byte) : Check :=
  match op with
  | 0x01 => payload b 24 [(20, 4)]
  | 0x02 => payload b 8 [(2, 6)]
  | 0x03 => payload b 32 []
  | 0x04 => payload b 40 [(2, 6)]
  | 0x05 => (payload b 16 [(1, 7)]).also (decide (2 < field b 0 1)) 0
  | 0x06 => (payload b 40 [(2, 2), (12, 4), (34, 6)]).also (decide (1 < field b 1 1)) 1
  | 0x07 =>
    let n := if field b 1 1 = 0 then max b.length 8 else if field b 0 1 = 0 then 48 else 25
    ((payload b n [(4, 4)]).also (decide (1 < field b 0 1)) 0).also (decide (1 < field b 1 1)) 1
  | 0x08 => payload b 32 []
  | 0x80 =>
    if b.length < 0x50 then .refuse b.length
    else
      (((((payload b (createLen b) []).also (decide (4 < field b 6 1)) 6).also (decide (field b 7 1 = 0) || decide (64 < field b 7 1)) 7).also
        (field b 0x0C 4 ≠ 0) 0x0C).also (field b 0x42 6 ≠ 0) 0x42)
  | 0x81 | 0x82 | 0x83 | 0x84 | 0x8D => payload b 8 [(1, 7)]
  | 0x85 =>
    if 1 < field b 2 1 then .violation
    else ((payload b 8 [(3, 1)]).also (decide (2 < field b 1 1)) 1).also (field b 1 1 ≠ 2 && field b 4 4 ≠ 0) 4
  | 0x86 => payload b 8 [(1, 1)]
  | 0x87 => (payload b 8 [(2, 6)]).also (decide (1 < field b 1 1)) 1
  | 0x88 =>
    if b.length < 16 then .refuse b.length
    else
      let bad := (List.range (field b 8 2)).find? (fun i => field b (20 + 8 * i) 4 ≠ 0)
      ((((payload b (nodecfgLen b) []).also (field b 4 4 ≠ 0) 4).also (decide (1022 < field b 8 2)) 8).also (field b 10 6 ≠ 0) 10).also
        bad.isSome (20 + 8 * bad.getD 0)
  | 0x89 => ((payload b (16 + 16 * field b 2 1) [(3, 5)]).bits (decide (4 ≤ field b 1 1))).also (decide (64 < field b 2 1)) 2
  | 0x8A | 0x8C => (payload b 48 [(6, 2), (12, 4)]).bits (decide (16 ≤ field b 1 1))
  | 0x8B => payload b 16 [(1, 7)]
  | _ => .unknown

/-- Bytes 0x00-0x2F of Table 19-12 read. -/
def netCfg (b : List Byte) : NetCfg :=
  { pav := BitVec.ofNat 8 (field b 0 1), pflags := BitVec.ofNat 8 (field b 1 1), vlan := BitVec.ofNat 16 (field b 2 2)
    actport := BitVec.ofNat 16 (field b 4 2), ipv4 := BitVec.ofNat 32 (field b 8 4), ipv6 := BitVec.ofNat 128 (field b 16 16)
    cmdkey := BitVec.ofNat 128 (field b 32 16) }

/-- n pairs of dwords. -/
def pairsAt (b : List Byte) (off n : Nat) : List (Word64 × Word64) :=
  (List.range n).map (fun i => (BitVec.ofNat 64 (field b (off + 16 * i) 8), BitVec.ofNat 64 (field b (off + 16 * i + 8) 8)))

/-- The command of an OP, with a payload that has passed, executed. -/
def runCommand (pav : PavId) (seq : Word32) (op : Nat) (b : List Byte) (s : State) : Out :=
  let n8 := fun (o : Nat) => BitVec.ofNat 8 (field b o 1)
  let n16 := fun (o : Nat) => BitVec.ofNat 16 (field b o 2)
  let n32 := fun (o : Nat) => BitVec.ofNat 32 (field b o 4)
  let n64 := fun (o : Nat) => BitVec.ofNat 64 (field b o 8)
  match op with
  | 0x01 => execImgReg pav seq (n64 0) (n64 8) (n32 16) s
  | 0x02 => execImgDrop pav seq (n16 0) s
  | 0x03 => execActLaunch pav seq (launchRec b) s
  | 0x04 => execMbox pav seq (n16 0) (launchRec (b.drop 8)) s
  | 0x05 => if n8 0 = 0 then execStatusLaunch pav seq (n64 8) s
      else if n8 0 = 1 then execStatusPavilion pav seq (n64 8) s else execStatusCounters pav seq (n64 8) s
  | 0x06 => if n8 1 = 0 then execNqDestroy pav seq (n8 0) s
      else execNqCreate pav seq (n8 0) (n32 4) (n32 8) (BitVec.ofNat 128 (field b 16 16)) (n16 32) s
  | 0x07 =>
    if n8 1 = 0 then (if n8 0 = 0 then execWinHostDestroy pav seq (n16 2) s else execWinDeviceDestroy pav seq (n16 2) s)
    else if n8 0 = 0 then
      execWinHostCreate pav seq (n16 2) (n32 8) (n64 12) (n32 20) (n64 24) (BitVec.ofNat 128 (field b 32 16)) s
    else execWinDeviceCreate pav seq (n16 2) (n64 8) (n64 16) (n8 24) s
  | 0x08 => execAttest pav seq (BitVec.ofNat 256 (natOf b)) s
  | 0x80 =>
    let nr := field b 7 1
    execPavCreate pav seq (netCfg b) (n64 0x30) (n32 0x38) (n16 0x3C) (n16 0x3E) (n16 0x40) (n64 0x48) (pairsAt b 0x50 nr)
      ((List.range (field b 6 1)).map (fun i => slice b (0x50 + 16 * nr + 60 * i) 60)) s
  | 0x81 => execPavDestroy seq (n8 0) s
  | 0x82 => execFreeze seq (n8 0) s
  | 0x83 => execUnfreeze seq (n8 0) s
  | 0x84 => execReset seq (n8 0) s
  | 0x85 => if n8 1 = 0 then execMemstatErrorRing seq (n8 0) (nbit (field b 2 1) 0) s
      else if n8 1 = 1 then execMemstatDeadlines seq (n8 0) (nbit (field b 2 1) 0) s
      else execMemstatHotList seq (n8 0) (nbit (field b 2 1) 0) (n32 4) s
  | 0x86 => execShares seq (n8 0) (n16 2) (n16 4) (n16 6) s
  | 0x87 => execCounters seq (n8 0) (nbit (field b 1 1) 0) s
  | 0x88 => execNodecfg seq (n16 0) (n16 2) ((List.range (field b 8 2)).map (fun i => (n16 (16 + 8 * i), n16 (18 + 8 * i)))) s
  | 0x89 => execPavmem seq (n8 0) (n8 1) (n64 8) (pairsAt b 16 (field b 2 1)) s
  | 0x8A => execPavnet seq (netCfg b) s
  | 0x8B => execErrring seq (n8 0) (n64 8) s
  | 0x8C => execMgmtcfg seq (netCfg b) s
  | 0x8D => execGrantkey seq (n8 0) s
  | _ => .next s

/-! ## Receiving a message (R250, R251) -/

/-- The next state of an outcome, or the state before it. -/
def orElse (o : Out) (s : State) : State :=
  match o with
  | .next s => s
  | _ => s

/-- A command whose turn it is: N goes past it, and it is executed or answered. -/
def State.runMessage (s : State) (pav : PavId) (m : List Byte) : State :=
  let op := field m 1 1
  let seq := BitVec.ofNat 32 (field m 8 4)
  let s := s.modPav pav.val (fun p => { p with nseq := p.nseq + 1 })
  let frozen := (s.pav? pav.val).any (fun p => p.st = PState.frozen || p.st = PState.resetting)
  if checkPayload op (m.drop 24) = Check.unknown then s.respond pav seq op stUnknown []
  else if frozen && op ≠ 0x05 && op ≠ 0x08 && !(pav = mgmt && decide (0x80 ≤ op) && decide (op ≤ 0x8F)) then s.respond pav seq op stFrozen []
  else
  match checkPayload op (m.drop 24) with
  | .ok => orElse (runCommand pav seq op (m.drop 24) s) s
  | .refuse off => s.refuse pav seq op off
  | _ => s.respond pav seq op stUnknown []

/-- Commands that wait executed in their order, as far as they have arrived and none before them is still being executed
(R251). -/
def State.drain : Nat → PavId → State → State
  | 0, _, s => s
  | n + 1, pav, s =>
    match s.pav? pav.val with
    | none => s
    | some p =>
      match p.pendingReply, mfind p.nseq.toNat p.heldCmds with
      | [], some m =>
        State.drain n pav ((s.modPav pav.val (fun p => { p with heldCmds := mdel p.nseq.toNat p.heldCmds })).runMessage pav m)
      | _, _ => s

/-- A message that R250's first two checks have passed, taken in the order of SEQ (R251); a second one with the SEQ of a command that still
waits takes its place (log 73, DESIGN CHOICE). -/
def State.inOrder (s : State) (pav : PavId) (p : Pav) (m : List Byte) : State :=
  let n := pav.val
  let seq := BitVec.ofNat 32 (field m 8 4)
  if (seq - p.nseq).toNat < 64 then
    State.drain 64 pav (s.modPav n (fun p => { p with heldCmds := mset seq.toNat m p.heldCmds }))
  else
    match mfind seq.toNat p.replies with
    | some r => s.send n (.act n r)
    | none => s

/-- ACT_MESSAGE_RECEIVE: the checks of R250 in their order; an acknowledgement of a notification; a command in its order
(R251), a message of an assigned OP that is marked as a response or notification being none. After a failed step 3 of bring-up only STATUS is answered (Table 10-10). -/
def execActMessageReceive (pav : PavId) (msg : List Byte) (s : State) : Out :=
  let n := pav.val
  if !bridgeUp s n then .next s
  else
  match s.pav? n with
  | none => .next s
  | some p =>
    let drop := s.count n (fun c => { c with dropAct := c.dropAct + 1 })
    let op := field msg 1 1
    let flags := field msg 2 2
    let seq := BitVec.ofNat 32 (field msg 8 4)
    let body := msg.drop 24
    if decide (msg.length < 24) || decide (8216 < msg.length) || field msg 4 1 ≠ n || field msg 0 1 ≠ 1 || !tagOk p.net.cmdkey msg then
      .next drop
    else if decide (4 ≤ flags) || field msg 5 1 ≠ 0 || field msg 13 3 ≠ 0 || field msg 6 2 ≠ body.length then .next (s.violation n)
    else if flags = 3 && op = 0x40 && body.isEmpty then execNotifyAck pav seq s
    else
      let d := (seq - p.nseq).toNat
      let window := decide (d < 64) || decide (2 ^ 32 - 64 ≤ d)
      if !window || (decide (0x80 ≤ op) && decide (op ≤ 0x8F) && decide (n ≠ 128)) || checkPayload op body = Check.violation then
        .next (s.violation n)
      else if flags ≠ 0 && checkPayload op body ≠ Check.unknown then .next drop
      else if s.stage = Stage.noDram && op ≠ 0x05 then .next s
      else .next (s.inOrder pav p msg)

/-- FREEZE_COMPLETE: every task is saved and every slot has ended; the commands that waited for the response follow (R390,
R251). -/
def execFreezeComplete (pav : PavId) (s : State) : Out := .next (State.drain 64 mgmt (s.completeFreeze pav.val))

/-- HOST_FRAME_RECEIVE: a frame is delivered to the endpoint whose addresses it carries, or dropped and counted (R247, R248). -/
def execHostFrameReceive (f : HostFrame) (s : State) : Out :=
  if !portAlive s then .next s
  else
    let lost := fun (c : Counters) => { c with dropOpt := c.dropOpt + 1 }
    match endpointOf s f with
    | none => .next (s.count 128 lost)
    | some n =>
      if !bridgeUp s n then .next s
      else
      let s := s.count n (fun c => { c with rxf := c.rxf + 1 })
      if !f.supported then .next (s.count n lost)
      else
        match f.body with
        | .act m =>
          if (s.pav? n).any (fun p => actPort p = f.port) then execActMessageReceive ⟨n % 129, Nat.mod_lt _ (by decide)⟩ m s
          else .next (s.count n lost)
        | .arp => execNeighbourEchoReply f s
        | .echo => execNeighbourEchoReply f s
        | .cnp => .next (s.count n (fun c => { c with cnp := c.cnp + 1 }))
        | .roce => .next s
        | .rdmaReply core i ok data =>
          match s.slotId? core.val i with
          | none => .next s
          | some (j, x) =>
            let host : Bool := match x.op with
              | .hostRd .. => true
              | .hostWr .. => true
              | _ => false
            .next (if host && x.pav = n && x.stage = CStage.sent then
              s.putSlot core.val j { x with stage := .back (if ok then 0 else fCopyFault) data } else s)
        | .other => .next (s.count n lost)

end Sys2Proof.Machine
end

