-- ==== Sys2Proof/Machine/Scalar.lean ====
section
/-!
DEFINITION. The scalar ALU, immediate, bit-field, branch and call instructions (spec/04 R94-R106, spec/02 R47). One function
for each result of Table 4-4; the .W forms read and write as R95 states.
-/

namespace Sys2Proof.Machine

/-! ## Results (Table 4-4) -/

/-- The .W result: bits(sext(bits(r, 32), 32), 64) (R95). -/
def wordResult (r : Word32) : Word64 := r.signExtend 64

/-- A result of two sources at 64 bits, or at 32 bits in the .W form (R94, R95). -/
def aluW (f64 : Word64 → Word64 → Word64) (f32 : Word32 → Word32 → Word32) (w : Bool) (a b : Word64) : Word64 :=
  if w then wordResult (f32 (a.setWidth 32) (b.setWidth 32)) else f64 a b

/-- Shift amounts: bits 5:0, or 4:0 in the .W form (R94, R95). -/
def shl64 (a b : Word64) : Word64 := a <<< (b.toNat % 64)
def shl32 (a b : Word32) : Word32 := a <<< (b.toNat % 32)
def shr64 (a b : Word64) : Word64 := a >>> (b.toNat % 64)
def shr32 (a b : Word32) : Word32 := a >>> (b.toNat % 32)
def sar64 (a b : Word64) : Word64 := a.sshiftRight (b.toNat % 64)
def sar32 (a b : Word32) : Word32 := a.sshiftRight (b.toNat % 32)

/-- High halves of products: floor(x × y / 2^w). -/
def mulhS (w : Nat) (a b : BitVec w) : BitVec w := BitVec.ofInt w (a.toInt * b.toInt / (2 ^ w : Nat))
def mulhU (w : Nat) (a b : BitVec w) : BitVec w := BitVec.ofNat w (a.toNat * b.toNat / 2 ^ w)

/-- Divisions: a zero divisor gives all ones, and the dividend as remainder (R96). -/
def divS (w : Nat) (a b : BitVec w) : BitVec w := if b = 0 then BitVec.allOnes w else BitVec.ofInt w (a.toInt.tdiv b.toInt)
def divU (w : Nat) (a b : BitVec w) : BitVec w := if b = 0 then BitVec.allOnes w else BitVec.ofNat w (a.toNat / b.toNat)
def remS (w : Nat) (a b : BitVec w) : BitVec w := if b = 0 then a else BitVec.ofInt w (a.toInt - b.toInt * a.toInt.tdiv b.toInt)
def remU (w : Nat) (a b : BitVec w) : BitVec w := if b = 0 then a else BitVec.ofNat w (a.toNat % b.toNat)

/-- Minima, maxima and comparisons. -/
def minS {w : Nat} (a b : BitVec w) : BitVec w := if b.slt a then b else a
def maxS {w : Nat} (a b : BitVec w) : BitVec w := if a.slt b then b else a
def minU {w : Nat} (a b : BitVec w) : BitVec w := if b.ult a then b else a
def maxU {w : Nat} (a b : BitVec w) : BitVec w := if a.ult b then b else a
def sltS {w : Nat} (a b : BitVec w) : BitVec w := if a.slt b then 1 else 0
def sltU {w : Nat} (a b : BitVec w) : BitVec w := if a.ult b then 1 else 0
def seqB {w : Nat} (a b : BitVec w) : BitVec w := if a = b then 1 else 0

/-- Leading zeros of a number of w bits: w minus its bit length. -/
def clzB {w : Nat} (a : BitVec w) : BitVec w := BitVec.ofNat w (w - bitLen a.toNat)
/-- Trailing zeros counted from bit i; w where no bit is set. -/
def ctzFrom (x : Nat) : Nat → Nat
  | 0 => 0
  | n + 1 => if x % 2 = 1 then 0 else 1 + ctzFrom (x / 2) n
def ctzB {w : Nat} (a : BitVec w) : BitVec w := BitVec.ofNat w (ctzFrom a.toNat w)
/-- One bits of a number of n bits. -/
def popFrom (x : Nat) : Nat → Nat
  | 0 => 0
  | n + 1 => x % 2 + popFrom (x / 2) n
def popB {w : Nat} (a : BitVec w) : BitVec w := BitVec.ofNat w (popFrom a.toNat w)

/-- The signed immediate of format SI (R98). -/
def immOf (i : BitVec 14) : Word64 := i.signExtend 64

/-- The field of a BFX (R101). -/
def bfField (sgn : Bool) (a : Word64) (off w : Nat) : Nat :=
  (List.range w).foldl (fun n i => n + b2n (if off + i ≤ 63 then a.getLsbD (off + i) else sgn && a.getLsbD 63) * 2 ^ i) 0

/-- BFX and BFXS (R101). -/
def bfxOf (sgn : Bool) (a : Word64) (off width : Nat) : Word64 :=
  let w := min width 64
  if w = 0 then 0
  else if sgn then BitVec.ofInt 64 (sext (bfField true a off w) w)
  else BitVec.ofNat 64 (bfField false a off w)

/-- BFI (R102): bits of a into d, positions at 64 and above not written. -/
def bfiOf (d a : Word64) (off width : Nat) : Word64 :=
  let w := min width 64
  BitVec.ofNat 64 ((List.range 64).foldl
    (fun n p => n + b2n (if off ≤ p ∧ p < off + w then a.getLsbD (p - off) else d.getLsbD p) * 2 ^ p) 0)

/-! ## Shapes -/

/-- A two-source ALU instruction (R94, R95). -/
def aluOp (f64 : Word64 → Word64 → Word64) (f32 : Word32 → Word32 → Word32) (o : Alu) (s : State) : Out :=
  scalarOp [o.a, o.b] o.d 2 (fun t => aluW f64 f32 o.w (t.src o.a) (t.src o.b)) s

/-- A multiplication: 3 cycles (Table 4-2). -/
def mulOp (f64 : Word64 → Word64 → Word64) (f32 : Word32 → Word32 → Word32) (o : Alu) (s : State) : Out :=
  slowOp 3 true id [o.a, o.b] o.d 2 (fun t => aluW f64 f32 o.w (t.src o.a) (t.src o.b)) s

/-- A division, which waits until the core's divider takes another one (R91): 34 cycles, 18 in the .W form (Table 4-2). -/
def divOp (f64 : Word64 → Word64 → Word64) (f32 : Word32 → Word32 → Word32) (o : Alu) (s : State) : Out :=
  slowOp (if o.w then 18 else 34) (decide (s.curCore.divAt.toNat ≤ s.cyc.toNat))
    (fun s' => s'.modCurCore (fun k => { k with divAt := s.cyc + (if o.w then 16 else 32) }))
    [o.a, o.b] o.d 2 (fun t => aluW f64 f32 o.w (t.src o.a) (t.src o.b)) s

/-- A one-source ALU instruction. -/
def aluOp1 (f64 : Word64 → Word64) (f32 : Word32 → Word32) (o : Alu1) (s : State) : Out :=
  scalarOp [o.a] o.d 2 (fun t => aluW (fun x _ => f64 x) (fun x _ => f32 x) o.w (t.src o.a) 0) s

/-- An immediate instruction (R98). -/
def immOp (f : Word64 → Word64 → Word64) (o : ImmOp) (s : State) : Out :=
  scalarOp [o.a] o.d 2 (fun t => f (t.src o.a) (immOf o.imm)) s

/-- An immediate shift (R99). -/
def shiftOp (f : Word64 → Word64 → Word64) (o : ShiftImm) (s : State) : Out :=
  scalarOp [o.a] o.d 2 (fun t => f (t.src o.a) (o.amt.setWidth 64)) s

/-- A compact instruction whose destination is its first source (R47, R97). -/
def compactOp (f : Word64 → Word64 → Word64) (d : Fin 16) (a : SSrc) (s : State) : Out :=
  scalarOp [.s d, a] (.s d) 1 (fun t => f (t.sreg d.val) (t.src a)) s

/-- A conditional branch of the S stream at an offset from its first parcel (R103, R106). -/
def branchIf (srcs : List SSrc) (c : Task → Bool) (off : Int) (s : State) : Out :=
  onTask s fun t =>
    if !t.ready srcs then s
    else if c t then s.branchTo t (s.curSt.pc.toNat + off)
    else s.finish 2

/-- A compare-branch (R103). -/
def cmpBranch (c : Word64 → Word64 → Bool) (o : CmpBr) (s : State) : Out :=
  branchIf [o.a, o.b] (fun t => c (t.src o.a) (t.src o.b)) o.off.toInt s

/-- A branch to the parcel address in a register (R104, R105). -/
def jumpTo (t : Task) (v : Word64) (s : State) : State :=
  if v.toNat ≥ 2 ^ 17 then s.takeFault fIllegalTarget 0 else s.branchTo t v.toNat

/-! ## Meanings -/

def execAddC (d : Fin 16) (a : SSrc) (s : State) : Out := compactOp (· + ·) d a s
def execSubC (d : Fin 16) (a : SSrc) (s : State) : Out := compactOp (· - ·) d a s
def execAndC (d : Fin 16) (a : SSrc) (s : State) : Out := compactOp (· &&& ·) d a s
def execOrC (d : Fin 16) (a : SSrc) (s : State) : Out := compactOp (· ||| ·) d a s
def execAddiC (d : Fin 16) (imm : BitVec 5) (s : State) : Out :=
  scalarOp [.s d] (.s d) 1 (fun t => t.sreg d.val + imm.signExtend 64) s
def execMovC (d : Fin 16) (a : SSrc) (s : State) : Out := scalarOp [a] (.s d) 1 (fun t => t.src a) s
/-- NOP issues with no effect (Table 2-7). -/
def execNopC (s : State) : Out := onTask s fun _ => s.finish 1

def execAdd (o : Alu) (s : State) : Out := aluOp (· + ·) (· + ·) o s
def execSub (o : Alu) (s : State) : Out := aluOp (· - ·) (· - ·) o s
def execAnd (o : Alu) (s : State) : Out := aluOp (· &&& ·) (· &&& ·) o s
def execOr (o : Alu) (s : State) : Out := aluOp (· ||| ·) (· ||| ·) o s
def execXor (o : Alu) (s : State) : Out := aluOp (· ^^^ ·) (· ^^^ ·) o s
def execAndn (o : Alu) (s : State) : Out := aluOp (fun a b => a &&& ~~~b) (fun a b => a &&& ~~~b) o s
def execShl (o : Alu) (s : State) : Out := aluOp shl64 shl32 o s
def execShr (o : Alu) (s : State) : Out := aluOp shr64 shr32 o s
def execSar (o : Alu) (s : State) : Out := aluOp sar64 sar32 o s
def execMul (o : Alu) (s : State) : Out := mulOp (· * ·) (· * ·) o s
def execMulh (o : Alu) (s : State) : Out := mulOp (mulhS 64) (mulhS 32) o s
def execMulhu (o : Alu) (s : State) : Out := mulOp (mulhU 64) (mulhU 32) o s
def execDiv (o : Alu) (s : State) : Out := divOp (divS 64) (divS 32) o s
def execDivu (o : Alu) (s : State) : Out := divOp (divU 64) (divU 32) o s
def execRem (o : Alu) (s : State) : Out := divOp (remS 64) (remS 32) o s
def execRemu (o : Alu) (s : State) : Out := divOp (remU 64) (remU 32) o s
def execMin (o : Alu) (s : State) : Out := aluOp minS minS o s
def execMax (o : Alu) (s : State) : Out := aluOp maxS maxS o s
def execMinu (o : Alu) (s : State) : Out := aluOp minU minU o s
def execMaxu (o : Alu) (s : State) : Out := aluOp maxU maxU o s
def execSlt (o : Alu) (s : State) : Out := aluOp sltS sltS o s
def execSltu (o : Alu) (s : State) : Out := aluOp sltU sltU o s
def execSeq (o : Alu) (s : State) : Out := aluOp seqB seqB o s
def execClz (o : Alu1) (s : State) : Out := aluOp1 clzB clzB o s
def execCtz (o : Alu1) (s : State) : Out := aluOp1 ctzB ctzB o s
def execPopc (o : Alu1) (s : State) : Out := aluOp1 popB popB o s

def execAddi (o : ImmOp) (s : State) : Out := immOp (· + ·) o s
def execAndi (o : ImmOp) (s : State) : Out := immOp (· &&& ·) o s
def execOri (o : ImmOp) (s : State) : Out := immOp (· ||| ·) o s
def execXori (o : ImmOp) (s : State) : Out := immOp (· ^^^ ·) o s
def execShli (o : ShiftImm) (s : State) : Out := shiftOp shl64 o s
def execShri (o : ShiftImm) (s : State) : Out := shiftOp shr64 o s
def execSari (o : ShiftImm) (s : State) : Out := shiftOp sar64 o s
def execSlti (o : ImmOp) (s : State) : Out := immOp sltS o s
def execSltiu (o : ImmOp) (s : State) : Out := immOp sltU o s

/-- LUI (R100): sext(imm19, 19) × 2^13. -/
def execLui (d : SDst) (imm : BitVec 19) (s : State) : Out := scalarOp [] d 2 (fun _ => imm.signExtend 64 <<< 13) s
/-- LI (R100). -/
def execLi (d : SDst) (imm : BitVec 31) (s : State) : Out := scalarOp [] d 3 (fun _ => imm.signExtend 64) s

def execBfx (o : BField) (s : State) : Out :=
  scalarOp [o.a] o.d 2 (fun t => bfxOf false (t.src o.a) o.off.toNat o.width.toNat) s
def execBfxs (o : BField) (s : State) : Out :=
  scalarOp [o.a] o.d 2 (fun t => bfxOf true (t.src o.a) o.off.toNat o.width.toNat) s
/-- BFI reads its destination, which must be a register (R102). -/
def execBfi (o : BField) (s : State) : Out :=
  match o.d with
  | .s n => scalarOp [.s n, o.a] o.d 2 (fun t => bfiOf (t.sreg n.val) (t.src o.a) o.off.toNat o.width.toNat) s
  | .none => onTask s fun _ => s.takeFault fIllegalInsn 0

def execBeq (o : CmpBr) (s : State) : Out := cmpBranch (fun a b => decide (a = b)) o s
def execBne (o : CmpBr) (s : State) : Out := cmpBranch (fun a b => decide (a ≠ b)) o s
def execBlt (o : CmpBr) (s : State) : Out := cmpBranch (fun a b => a.slt b) o s
def execBge (o : CmpBr) (s : State) : Out := cmpBranch (fun a b => !a.slt b) o s
def execBltu (o : CmpBr) (s : State) : Out := cmpBranch (fun a b => a.ult b) o s
def execBgeu (o : CmpBr) (s : State) : Out := cmpBranch (fun a b => !a.ult b) o s

/-- CALL (R104): S15 takes the address after its two parcels, unless the branch faults. After the last parcels of IMEM that
address is 0 (log 49, DESIGN CHOICE: R104 names no address there). -/
def execCall (off : BitVec 24) (s : State) : Out :=
  onTask s fun t =>
    let pc := s.curSt.pc
    if !t.dstReady (.s 15) then s
    else
      let p : Int := pc.toNat + off.toInt
      match targetFault s s.cur.core.val t .s p with
      | some c => s.takeFault c 0
      | none => (s.modCur (fun t => t.setSreg 15 ((pc + 2).setWidth 64))).branchTo t p

/-- RET (R104): to the address in S15. -/
def execRet (s : State) : Out :=
  onTask s fun t => if t.srcReady (.s 15) then jumpTo t (t.sreg 15) s else s

/-- JR (R104). -/
def execJr (a : SSrc) (s : State) : Out :=
  onTask s fun t => if t.srcReady a then jumpTo t (t.src a) s else s

end Sys2Proof.Machine
end

