-- ==== Sys2Proof/Machine/Dispatch.lean ====
section
/-!
DEFINITION. One arm for each operation of spec/opcode_table.json.
-/

namespace Sys2Proof.Machine

def exec (i : Instr) (s : State) : Host.Outcome State Fault Refusal :=
  match i with
  | .blockHeaderEntry hdr => Sys2Proof.Machine.execBlockHeaderEntry hdr s
  | .blockComplete x => Sys2Proof.Machine.execBlockComplete x s
  | .tokenPushDeferred x => Sys2Proof.Machine.execTokenPushDeferred x s
  | .addC d a => Sys2Proof.Machine.execAddC d a s
  | .subC d a => Sys2Proof.Machine.execSubC d a s
  | .andC d a => Sys2Proof.Machine.execAndC d a s
  | .orC d a => Sys2Proof.Machine.execOrC d a s
  | .addiC d imm => Sys2Proof.Machine.execAddiC d imm s
  | .movC d a => Sys2Proof.Machine.execMovC d a s
  | .nopC => Sys2Proof.Machine.execNopC s
  | .add o => Sys2Proof.Machine.execAdd o s
  | .sub o => Sys2Proof.Machine.execSub o s
  | .and o => Sys2Proof.Machine.execAnd o s
  | .or o => Sys2Proof.Machine.execOr o s
  | .xor o => Sys2Proof.Machine.execXor o s
  | .andn o => Sys2Proof.Machine.execAndn o s
  | .shl o => Sys2Proof.Machine.execShl o s
  | .shr o => Sys2Proof.Machine.execShr o s
  | .sar o => Sys2Proof.Machine.execSar o s
  | .mul o => Sys2Proof.Machine.execMul o s
  | .mulh o => Sys2Proof.Machine.execMulh o s
  | .mulhu o => Sys2Proof.Machine.execMulhu o s
  | .div o => Sys2Proof.Machine.execDiv o s
  | .divu o => Sys2Proof.Machine.execDivu o s
  | .rem o => Sys2Proof.Machine.execRem o s
  | .remu o => Sys2Proof.Machine.execRemu o s
  | .min o => Sys2Proof.Machine.execMin o s
  | .max o => Sys2Proof.Machine.execMax o s
  | .minu o => Sys2Proof.Machine.execMinu o s
  | .maxu o => Sys2Proof.Machine.execMaxu o s
  | .slt o => Sys2Proof.Machine.execSlt o s
  | .sltu o => Sys2Proof.Machine.execSltu o s
  | .seq o => Sys2Proof.Machine.execSeq o s
  | .clz o => Sys2Proof.Machine.execClz o s
  | .ctz o => Sys2Proof.Machine.execCtz o s
  | .popc o => Sys2Proof.Machine.execPopc o s
  | .addi o => Sys2Proof.Machine.execAddi o s
  | .andi o => Sys2Proof.Machine.execAndi o s
  | .ori o => Sys2Proof.Machine.execOri o s
  | .xori o => Sys2Proof.Machine.execXori o s
  | .shli o => Sys2Proof.Machine.execShli o s
  | .shri o => Sys2Proof.Machine.execShri o s
  | .sari o => Sys2Proof.Machine.execSari o s
  | .slti o => Sys2Proof.Machine.execSlti o s
  | .sltiu o => Sys2Proof.Machine.execSltiu o s
  | .lui d imm => Sys2Proof.Machine.execLui d imm s
  | .li d imm => Sys2Proof.Machine.execLi d imm s
  | .bfx o => Sys2Proof.Machine.execBfx o s
  | .bfxs o => Sys2Proof.Machine.execBfxs o s
  | .bfi o => Sys2Proof.Machine.execBfi o s
  | .beq o => Sys2Proof.Machine.execBeq o s
  | .bne o => Sys2Proof.Machine.execBne o s
  | .blt o => Sys2Proof.Machine.execBlt o s
  | .bge o => Sys2Proof.Machine.execBge o s
  | .bltu o => Sys2Proof.Machine.execBltu o s
  | .bgeu o => Sys2Proof.Machine.execBgeu o s
  | .call off => Sys2Proof.Machine.execCall off s
  | .ret => Sys2Proof.Machine.execRet s
  | .jr a => Sys2Proof.Machine.execJr a s
  | .ld o => Sys2Proof.Machine.execLd o s
  | .st o => Sys2Proof.Machine.execSt o s
  | .ldacq o => Sys2Proof.Machine.execLdacq o s
  | .strel o => Sys2Proof.Machine.execStrel o s
  | .amoadd o => Sys2Proof.Machine.execAmoadd o s
  | .amoand o => Sys2Proof.Machine.execAmoand o s
  | .amoor o => Sys2Proof.Machine.execAmoor o s
  | .amoxor o => Sys2Proof.Machine.execAmoxor o s
  | .amomin o => Sys2Proof.Machine.execAmomin o s
  | .amomax o => Sys2Proof.Machine.execAmomax o s
  | .amominu o => Sys2Proof.Machine.execAmominu o s
  | .amomaxu o => Sys2Proof.Machine.execAmomaxu o s
  | .amoswap o => Sys2Proof.Machine.execAmoswap o s
  | .cas o cmp => Sys2Proof.Machine.execCas o cmp s
  | .rld d addr dword scope tok => Sys2Proof.Machine.execRld d addr dword scope tok s
  | .rst addr val dword scope tok => Sys2Proof.Machine.execRst addr val dword scope tok s
  | .ramo op o tok => Sys2Proof.Machine.execRamo op o tok s
  | .fence scope kinds acq rel d => Sys2Proof.Machine.execFence scope kinds acq rel d s
  | .ifence d => Sys2Proof.Machine.execIfence d s
  | .tfence d => Sys2Proof.Machine.execTfence d s
  | .fork d a => Sys2Proof.Machine.execFork d a s
  | .join a => Sys2Proof.Machine.execJoin a s
  | .spawn t off => Sys2Proof.Machine.execSpawn t off s
  | .exit => Sys2Proof.Machine.execExit s
  | .yield => Sys2Proof.Machine.execYield s
  | .launch d a => Sys2Proof.Machine.execLaunch d a s
  | .tdld t a => Sys2Proof.Machine.execTdld t a s
  | .tdver t a => Sys2Proof.Machine.execTdver t a s
  | .swinit a b => Sys2Proof.Machine.execSwinit a b s
  | .barr a => Sys2Proof.Machine.execBarr a s
  | .hnotify a b => Sys2Proof.Machine.execHnotify a b s
  | .trap code => Sys2Proof.Machine.execTrap code s
  | .resume d a b => Sys2Proof.Machine.execResume d a b s
  | .kill d a b => Sys2Proof.Machine.execKill d a b s
  | .rqrel d a b => Sys2Proof.Machine.execRqrel d a b s
  | .tlbinv d a b => Sys2Proof.Machine.execTlbinv d a b s
  | .snaprd d a b => Sys2Proof.Machine.execSnaprd d a b s
  | .snapwr d a b => Sys2Proof.Machine.execSnapwr d a b s
  | .keyret d a b => Sys2Proof.Machine.execKeyret d a b s
  | .grant d a b => Sys2Proof.Machine.execGrant d a b s
  | .nop => Sys2Proof.Machine.execNop s
  | .br off => Sys2Proof.Machine.execBr off s
  | .bzS a off => Sys2Proof.Machine.execBzS a off s
  | .bzA a off => Sys2Proof.Machine.execBzA a off s
  | .bnzS a off => Sys2Proof.Machine.execBnzS a off s
  | .bnzA a off => Sys2Proof.Machine.execBnzA a off s
  | .loopImm lvl2 len cnt => Sys2Proof.Machine.execLoopImm lvl2 len cnt s
  | .loopRegS lvl2 len a => Sys2Proof.Machine.execLoopRegS lvl2 len a s
  | .loopRegA lvl2 len a => Sys2Proof.Machine.execLoopRegA lvl2 len a s
  | .waitGenS addr gen => Sys2Proof.Machine.execWaitGenS addr gen s
  | .waitGenA addr gen => Sys2Proof.Machine.execWaitGenA addr gen s
  | .waitTok src n => Sys2Proof.Machine.execWaitTok src n s
  | .tksend dst n => Sys2Proof.Machine.execTksend dst n s
  | .halt => Sys2Proof.Machine.execHalt s
  | .beacon tag => Sys2Proof.Machine.execBeacon tag s
  | .mfsrS d idx => Sys2Proof.Machine.execMfsrS d idx s
  | .mfsrA d idx => Sys2Proof.Machine.execMfsrA d idx s
  | .mtsrS a idx => Sys2Proof.Machine.execMtsrS a idx s
  | .mtsrA a idx => Sys2Proof.Machine.execMtsrA a idx s
  | .awr t n a => Sys2Proof.Machine.execAwr t n a s
  | .amov d a => Sys2Proof.Machine.execAmov d a s
  | .aadd d a imm => Sys2Proof.Machine.execAadd d a imm s
  | .acset d lane imm => Sys2Proof.Machine.execAcset d lane imm s
  | .acinc d lane imm => Sys2Proof.Machine.execAcinc d lane imm s
  | .vadd o => Sys2Proof.Machine.execVadd o s
  | .vsub o => Sys2Proof.Machine.execVsub o s
  | .vmul o => Sys2Proof.Machine.execVmul o s
  | .vmin o => Sys2Proof.Machine.execVmin o s
  | .vmax o => Sys2Proof.Machine.execVmax o s
  | .vabs o => Sys2Proof.Machine.execVabs o s
  | .vneg o => Sys2Proof.Machine.execVneg o s
  | .vcpsgn o => Sys2Proof.Machine.execVcpsgn o s
  | .vfma o => Sys2Proof.Machine.execVfma o s
  | .vfms o => Sys2Proof.Machine.execVfms o s
  | .vfnma o => Sys2Proof.Machine.execVfnma o s
  | .vrcp o => Sys2Proof.Machine.execVrcp o s
  | .vsqrt o => Sys2Proof.Machine.execVsqrt o s
  | .vrsqrt o => Sys2Proof.Machine.execVrsqrt o s
  | .vexp2 o => Sys2Proof.Machine.execVexp2 o s
  | .vlog2 o => Sys2Proof.Machine.execVlog2 o s
  | .viadd o => Sys2Proof.Machine.execViadd o s
  | .visub o => Sys2Proof.Machine.execVisub o s
  | .vimul o => Sys2Proof.Machine.execVimul o s
  | .vimin o => Sys2Proof.Machine.execVimin o s
  | .vimax o => Sys2Proof.Machine.execVimax o s
  | .vqadd o => Sys2Proof.Machine.execVqadd o s
  | .vqsub o => Sys2Proof.Machine.execVqsub o s
  | .vimulh o => Sys2Proof.Machine.execVimulh o s
  | .vand o => Sys2Proof.Machine.execVand o s
  | .vor o => Sys2Proof.Machine.execVor o s
  | .vxor o => Sys2Proof.Machine.execVxor o s
  | .vandn o => Sys2Proof.Machine.execVandn o s
  | .vshl o => Sys2Proof.Machine.execVshl o s
  | .vshr o => Sys2Proof.Machine.execVshr o s
  | .vsar o => Sys2Proof.Machine.execVsar o s
  | .vcmp cond d a b ta tb k ty zm => Sys2Proof.Machine.execVcmp cond d a b ta tb k ty zm s
  | .vsel d a b ta tb k => Sys2Proof.Machine.execVsel d a b ta tb k s
  | .kand d a => Sys2Proof.Machine.execKand d a s
  | .kor d a => Sys2Proof.Machine.execKor d a s
  | .kxor d a => Sys2Proof.Machine.execKxor d a s
  | .knot d a => Sys2Proof.Machine.execKnot d a s
  | .kmov d a => Sys2Proof.Machine.execKmov d a s
  | .vcvt d a ta k sty dty rm zm => Sys2Proof.Machine.execVcvt d a ta k sty dty rm zm s
  | .vmov d a => Sys2Proof.Machine.execVmov d a s
  | .vmovi d imm => Sys2Proof.Machine.execVmovi d imm s
  | .vext x v n => Sys2Proof.Machine.execVext x v n s
  | .vrotr d a n => Sys2Proof.Machine.execVrotr d a n s
  | .vrotc d a n => Sys2Proof.Machine.execVrotc d a n s
  | .vbcr d a n => Sys2Proof.Machine.execVbcr d a n s
  | .vbcc d a n => Sys2Proof.Machine.execVbcc d a n s
  | .vredr d a op ty => Sys2Proof.Machine.execVredr d a op ty s
  | .vredc d a op ty => Sys2Proof.Machine.execVredc d a op ty s
  | .vtr16 d a => Sys2Proof.Machine.execVtr16 d a s
  | .vperm d a b ta tb k zm => Sys2Proof.Machine.execVperm d a b ta tb k zm s
  | .vld o => Sys2Proof.Machine.execVld o s
  | .vst o => Sys2Proof.Machine.execVst o s
  | .vgath o => Sys2Proof.Machine.execVgath o s
  | .vscat o => Sys2Proof.Machine.execVscat o s
  | .vtld o => Sys2Proof.Machine.execVtld o s
  | .vtst o pub => Sys2Proof.Machine.execVtst o pub s
  | .vacvt o rm => Sys2Proof.Machine.execVacvt o rm s
  | .vafil o => Sys2Proof.Machine.execVafil o s
  | .vfeEmpty v => Sys2Proof.Machine.execVfeEmpty v s
  | .vfeFull v => Sys2Proof.Machine.execVfeFull v s
  | .vfeC v => Sys2Proof.Machine.execVfeC v s
  | .mma o asub bsub ah bh tb => Sys2Proof.Machine.execMma o asub bsub ah bh tb s
  | .mmaC bank => Sys2Proof.Machine.execMmaC bank s
  | .mmag o idx ah bh => Sys2Proof.Machine.execMmag o idx ah bh s
  | .mmk o n la lb => Sys2Proof.Machine.execMmk o n la lb s
  | .mres bank a => Sys2Proof.Machine.execMres bank a s
  | .msca d src scale mode => Sys2Proof.Machine.execMsca d src scale mode s
  | .mrnm bank k => Sys2Proof.Machine.execMrnm bank k s
  | .mzero bank n imm => Sys2Proof.Machine.execMzero bank n imm s
  | .manch bank imm => Sys2Proof.Machine.execManch bank imm s
  | .mcopy d src => Sys2Proof.Machine.execMcopy d src s
  | .aalloc bank n wait => Sys2Proof.Machine.execAalloc bank n wait s
  | .afree bank n => Sys2Proof.Machine.execAfree bank n s
  | .aband bank q owners => Sys2Proof.Machine.execAband bank q owners s
  | .msync bank => Sys2Proof.Machine.execMsync bank s
  | .mstb a per => Sys2Proof.Machine.execMstb a per s
  | .mstamp off => Sys2Proof.Machine.execMstamp off s
  | .gload a => Sys2Proof.Machine.execGload a s
  | .gslot bank n => Sys2Proof.Machine.execGslot bank n s
  | .gxwin v bf16 => Sys2Proof.Machine.execGxwin v bf16 s
  | .geval lvl => Sys2Proof.Machine.execGeval lvl s
  | .grow a bank ovw n => Sys2Proof.Machine.execGrow a bank ovw n s
  | .cpy dst src len sw rd => Sys2Proof.Machine.execCpy dst src len sw rd s
  | .cpy2 dst src len sw rd dim => Sys2Proof.Machine.execCpy2 dst src len sw rd dim s
  | .cpyf dst src len sw rd size => Sys2Proof.Machine.execCpyf dst src len sw rd size s
  | .cpyxExp dst src len sw rd dim => Sys2Proof.Machine.execCpyxExp dst src len sw rd dim s
  | .cpyxPack dst src len sw rd dim => Sys2Proof.Machine.execCpyxPack dst src len sw rd dim s
  | .cpyt coord deliver sw rd slot xv hint => Sys2Proof.Machine.execCpyt coord deliver sw rd slot xv hint s
  | .cpyw coord sw slot xv last => Sys2Proof.Machine.execCpyw coord sw slot xv last s
  | .cpyrGet dst src len sw rd tok tgt => Sys2Proof.Machine.execCpyrGet dst src len sw rd tok tgt s
  | .cpyrPut dst src len sw rd tok tgt op => Sys2Proof.Machine.execCpyrPut dst src len sw rd tok tgt op s
  | .cpyhRd dst src len sw rd win => Sys2Proof.Machine.execCpyhRd dst src len sw rd win s
  | .cpyhWr dst src len sw rd win => Sys2Proof.Machine.execCpyhWr dst src len sw rd win s
  | .tcpin o => Sys2Proof.Machine.execTcpin o s
  | .tcunp o => Sys2Proof.Machine.execTcunp o s
  | .tcinv o => Sys2Proof.Machine.execTcinv o s
  | .tcfls o => Sys2Proof.Machine.execTcfls o s
  | .tcitn addr cnt hint win => Sys2Proof.Machine.execTcitn addr cnt hint win s
  | .tcqry d slot coord xv => Sys2Proof.Machine.execTcqry d slot coord xv s
  | .swadd sw amt => Sys2Proof.Machine.execSwadd sw amt s
  | .scalarResultArrival core slot tag => Sys2Proof.Machine.execScalarResultArrival core slot tag s
  | .translationWalkEnd id => Sys2Proof.Machine.execTranslationWalkEnd id s
  | .vectorFillLand core slot v => Sys2Proof.Machine.execVectorFillLand core slot v s
  | .feTimeout x => Sys2Proof.Machine.execFeTimeout x s
  | .bankLanding core slot n => Sys2Proof.Machine.execBankLanding core slot n s
  | .bankReadyToken core slot => Sys2Proof.Machine.execBankReadyToken core slot s
  | .bankRelease core bank => Sys2Proof.Machine.execBankRelease core bank s
  | .stampedIssue core slot => Sys2Proof.Machine.execStampedIssue core slot s
  | .replayReentry core => Sys2Proof.Machine.execReplayReentry core s
  | .tarnFillArrival id => Sys2Proof.Machine.execTarnFillArrival id s
  | .reassemblyFlit id off => Sys2Proof.Machine.execReassemblyFlit id off s
  | .itineraryPrefetch core slot => Sys2Proof.Machine.execItineraryPrefetch core slot s
  | .tileDirRequest id => Sys2Proof.Machine.execTileDirRequest id s
  | .tileVersionQuery id => Sys2Proof.Machine.execTileVersionQuery id s
  | .tileWritebackBegin id => Sys2Proof.Machine.execTileWritebackBegin id s
  | .tilePublish id => Sys2Proof.Machine.execTilePublish id s
  | .tileDropReport id => Sys2Proof.Machine.execTileDropReport id s
  | .holderForward id => Sys2Proof.Machine.execHolderForward id s
  | .directoryRecallDone home => Sys2Proof.Machine.execDirectoryRecallDone home s
  | .copySlotEnd core n => Sys2Proof.Machine.execCopySlotEnd core n s
  | .copySlotFail core n => Sys2Proof.Machine.execCopySlotFail core n s
  | .copySlotPause core n => Sys2Proof.Machine.execCopySlotPause core n s
  | .syncWordAdd id => Sys2Proof.Machine.execSyncWordAdd id s
  | .generationReport x => Sys2Proof.Machine.execGenerationReport x s
  | .joinAtHome id => Sys2Proof.Machine.execJoinAtHome id s
  | .homeLoad id => Sys2Proof.Machine.execHomeLoad id s
  | .homeStore id => Sys2Proof.Machine.execHomeStore id s
  | .homeAtomic id => Sys2Proof.Machine.execHomeAtomic id s
  | .storeAck id => Sys2Proof.Machine.execStoreAck id s
  | .ltimeTick => Sys2Proof.Machine.execLtimeTick s
  | .floorBroadcast => Sys2Proof.Machine.execFloorBroadcast s
  | .crEnqueue id => Sys2Proof.Machine.execCrEnqueue id s
  | .dispatchDecision die => Sys2Proof.Machine.execDispatchDecision die s
  | .crPriorityRise die n => Sys2Proof.Machine.execCrPriorityRise die n s
  | .crMigrate die => Sys2Proof.Machine.execCrMigrate die s
  | .gangReserve die => Sys2Proof.Machine.execGangReserve die s
  | .imemFillDone core slot => Sys2Proof.Machine.execImemFillDone core slot s
  | .taskStart core slot => Sys2Proof.Machine.execTaskStart core slot s
  | .taskEnd core slot => Sys2Proof.Machine.execTaskEnd core slot s
  | .taskSaveDone core slot => Sys2Proof.Machine.execTaskSaveDone core slot s
  | .taskRestoreDone core slot => Sys2Proof.Machine.execTaskRestoreDone core slot s
  | .watchdogFire core slot => Sys2Proof.Machine.execWatchdogFire core slot s
  | .energyExhausted acct => Sys2Proof.Machine.execEnergyExhausted acct s
  | .thermalWithhold core => Sys2Proof.Machine.execThermalWithhold core s
  | .stateLoss core => Sys2Proof.Machine.execStateLoss core s
  | .freezeComplete pav => Sys2Proof.Machine.execFreezeComplete pav s
  | .dramRequestServe stack turn e0 e1 => Sys2Proof.Machine.execDramRequestServe stack turn e0 e1 s
  | .patrolRead stack pc e0 e1 => Sys2Proof.Machine.execPatrolRead stack pc e0 e1 s
  | .hotListScrub stack n lo e0 e1 => Sys2Proof.Machine.execHotListScrub stack n lo e0 e1 s
  | .rowRemapDone copy => Sys2Proof.Machine.execRowRemapDone copy s
  | .scoreHalving stack => Sys2Proof.Machine.execScoreHalving stack s
  | .pressureWindow => Sys2Proof.Machine.execPressureWindow s
  | .oldFlit n => Sys2Proof.Machine.execOldFlit n s
  | .noticeReceive core payload => Sys2Proof.Machine.execNoticeReceive core payload s
  | .shulosFrameReceive port f => Sys2Proof.Machine.execShulosFrameReceive port f s
  | .shulosAckSend port => Sys2Proof.Machine.execShulosAckSend port s
  | .shulosRetransmit port => Sys2Proof.Machine.execShulosRetransmit port s
  | .linkDownTimer port => Sys2Proof.Machine.execLinkDownTimer port s
  | .linkTrained port view => Sys2Proof.Machine.execLinkTrained port view s
  | .linkViewReceive port view => Sys2Proof.Machine.execLinkViewReceive port view s
  | .linkLoss port => Sys2Proof.Machine.execLinkLoss port s
  | .peerLost port => Sys2Proof.Machine.execPeerLost port s
  | .remoteIngress r => Sys2Proof.Machine.execRemoteIngress r s
  | .remoteResponse id code data ver => Sys2Proof.Machine.execRemoteResponse id code data ver s
  | .deviceReset fwOk dramOk portsUp => Sys2Proof.Machine.execDeviceReset fwOk dramOk portsUp s
  | .hostFrameReceive f => Sys2Proof.Machine.execHostFrameReceive f s
  | .neighbourEchoReply f => Sys2Proof.Machine.execNeighbourEchoReply f s
  | .actMessageReceive pav msg => Sys2Proof.Machine.execActMessageReceive pav msg s
  | .imgReg pav seq va len base => Sys2Proof.Machine.execImgReg pav seq va len base s
  | .imgDrop pav seq handle => Sys2Proof.Machine.execImgDrop pav seq handle s
  | .actLaunch pav seq r => Sys2Proof.Machine.execActLaunch pav seq r s
  | .mbox pav seq core r => Sys2Proof.Machine.execMbox pav seq core r s
  | .statusLaunch pav seq id => Sys2Proof.Machine.execStatusLaunch pav seq id s
  | .statusPavilion pav seq id => Sys2Proof.Machine.execStatusPavilion pav seq id s
  | .statusCounters pav seq id => Sys2Proof.Machine.execStatusCounters pav seq id s
  | .nqCreate pav seq q window rate ip port => Sys2Proof.Machine.execNqCreate pav seq q window rate ip port s
  | .nqDestroy pav seq q => Sys2Proof.Machine.execNqDestroy pav seq q s
  | .winHostCreate pav seq idx qp raddr rkey len ip => Sys2Proof.Machine.execWinHostCreate pav seq idx qp raddr rkey len ip s
  | .winHostDestroy pav seq idx => Sys2Proof.Machine.execWinHostDestroy pav seq idx s
  | .winDeviceCreate pav seq idx va len rights => Sys2Proof.Machine.execWinDeviceCreate pav seq idx va len rights s
  | .winDeviceDestroy pav seq idx => Sys2Proof.Machine.execWinDeviceDestroy pav seq idx s
  | .attest pav seq nonce => Sys2Proof.Machine.execAttest pav seq nonce s
  | .notifyAck pav seq => Sys2Proof.Machine.execNotifyAck pav seq s
  | .notificationSend pav q => Sys2Proof.Machine.execNotificationSend pav q s
  | .notificationRetransmit pav seq => Sys2Proof.Machine.execNotificationRetransmit pav seq s
  | .hostRdmaWrite pav win off data => Sys2Proof.Machine.execHostRdmaWrite pav win off data s
  | .hostRdmaRead pav win off len => Sys2Proof.Machine.execHostRdmaRead pav win off len s
  | .pavCreate pav seq net rtab rtlen shost sdram sinj troot ranges keys => Sys2Proof.Machine.execPavCreate pav seq net rtab rtlen shost sdram sinj troot ranges keys s
  | .pavDestroy seq pav => Sys2Proof.Machine.execPavDestroy seq pav s
  | .freeze seq pav => Sys2Proof.Machine.execFreeze seq pav s
  | .unfreeze seq pav => Sys2Proof.Machine.execUnfreeze seq pav s
  | .reset seq pav => Sys2Proof.Machine.execReset seq pav s
  | .memstatErrorRing seq sel clr => Sys2Proof.Machine.execMemstatErrorRing seq sel clr s
  | .memstatDeadlines seq sel clr => Sys2Proof.Machine.execMemstatDeadlines seq sel clr s
  | .memstatHotList seq sel clr start => Sys2Proof.Machine.execMemstatHotList seq sel clr start s
  | .shares seq pav shost sdram sinj => Sys2Proof.Machine.execShares seq pav shost sdram sinj s
  | .counters seq pav clr => Sys2Proof.Machine.execCounters seq pav clr s
  | .nodecfg seq node etype ents => Sys2Proof.Machine.execNodecfg seq node etype ents s
  | .pavmem seq pav mflags troot ranges => Sys2Proof.Machine.execPavmem seq pav mflags troot ranges s
  | .pavnet seq net => Sys2Proof.Machine.execPavnet seq net s
  | .errring seq stack va => Sys2Proof.Machine.execErrring seq stack va s
  | .mgmtcfg seq net => Sys2Proof.Machine.execMgmtcfg seq net s
  | .grantkey seq pav => Sys2Proof.Machine.execGrantkey seq pav s
  | .routerPortAssignment plane => Sys2Proof.Machine.execRouterPortAssignment plane s
  | .rocev2Retransmit core n lost => Sys2Proof.Machine.execRocev2Retransmit core n lost s
  | .coreStateCleared core => Sys2Proof.Machine.execCoreStateCleared core s
  | .powerLoss => Sys2Proof.Machine.execPowerLoss s

end Sys2Proof.Machine
end

