-- ==== Sys2Proof/Machine/Hazards.lean ====
section
/-!
DEFINITION. The interlocks between the results in flight of a V stream and its later instructions (spec/05 R122, R123): what an
instruction reads, and what it writes at once or fills later.
-/

namespace Sys2Proof.Machine

/-- The register that a vector source reads; a trapping source that is empty is not waited for (R120, R123). -/
def vsrcDeps (t : Task) (trap : Bool) : VSrc → List VDst
  | .v n => if trap && t.empty.contains n.val then [] else [.v n.val]
  | .a n => [.a n.val]
  | _ => []

def v3Deps (t : Task) (o : V3) : List VDst := vsrcDeps t o.ta o.a ++ vsrcDeps t o.tb o.b ++ [.k o.k.val]
def v3uDeps (t : Task) (o : V3u) : List VDst := vsrcDeps t o.ta o.a ++ [.k o.k.val]

/-- The destinations that must hold every earlier result before an instruction of the V stream issues: those it reads, and
those it writes in one cycle or by a fill (R123). -/
def vDeps (t : Task) : Instr → List VDst
  | .vadd o | .vsub o | .vmul o | .vmin o | .vmax o | .vcpsgn o | .viadd o | .visub o | .vimul o | .vimin o | .vimax o | .vqadd o
  | .vqsub o | .vimulh o | .vand o | .vor o | .vxor o | .vandn o | .vshl o | .vshr o | .vsar o => v3Deps t o
  | .vabs o | .vneg o | .vrcp o | .vsqrt o | .vrsqrt o | .vexp2 o | .vlog2 o => v3uDeps t o
  | .vfma o | .vfms o | .vfnma o => v3Deps t o ++ [.v o.d.val]
  | .vcmp _ _ a b ta tb k _ _ | .vsel _ a b ta tb k | .vperm _ a b ta tb k _ =>
    vsrcDeps t ta a ++ vsrcDeps t tb b ++ [.k k.val]
  | .kand d a | .kor d a | .kxor d a | .knot d a | .kmov d a => [.k d.val, .k a.val]
  | .vcvt _ a ta k _ _ _ _ => vsrcDeps t ta a ++ [.k k.val]
  | .vmov _ a | .vrotr _ a _ | .vrotc _ a _ | .vbcr _ a _ | .vbcc _ a _ | .vredr _ a _ _ | .vredc _ a _ _ | .vtr16 _ a =>
    vsrcDeps t false a
  | .vext _ v _ => vsrcDeps t false v
  | .vld o => [.a o.base.val, .a o.stride.val, .k o.k.val, .v o.v.val]
  | .vst o => vsrcDeps t false o.v ++ [.a o.base.val, .a o.stride.val, .k o.k.val]
  | .vgath o => vsrcDeps t false o.idx ++ [.a o.base.val, .a o.stride.val, .k o.k.val, .v o.v.val]
  | .vscat o => vsrcDeps t false o.v ++ vsrcDeps t false o.idx ++ [.a o.base.val, .a o.stride.val, .k o.k.val]
  | .vtld o => [.a o.coord.val, .k o.k.val, .v o.v.val]
  | .vtst o _ => vsrcDeps t false o.v ++ [.a o.coord.val, .k o.k.val]
  | .vafil o => vsrcDeps t false o.v
  | .vfeEmpty v | .vfeFull v | .vfeC v => [.v v.val]
  | .bzA a _ | .bnzA a _ | .loopRegA _ _ a | .mtsrA a _ => [.a a.val]
  | .waitGenA a g => [.a a.val, .a g.val]
  | .mfsrA d _ | .acset d _ _ | .acinc d _ _ => [.a d.val]
  | .amov d a | .aadd d a _ => [.a d.val, .a a.val]
  | _ => []

/-- Is an instruction one whose result has a fixed latency of more than one cycle (Table 5-1)? -/
def vFixed : Instr → Bool
  | .vadd _ | .vsub _ | .vmul _ | .vmin _ | .vmax _ | .vcpsgn _ | .viadd _ | .visub _ | .vimul _ | .vimin _ | .vimax _ | .vqadd _
  | .vqsub _ | .vimulh _ | .vand _ | .vor _ | .vxor _ | .vandn _ | .vshl _ | .vshr _ | .vsar _ | .vabs _ | .vneg _ | .vrcp _
  | .vsqrt _ | .vrsqrt _ | .vexp2 _ | .vlog2 _ | .vfma _ | .vfms _ | .vfnma _ | .vcmp .. | .vsel .. | .vperm .. | .vcvt .. | .vmov ..
  | .vmovi .. | .vext .. | .vrotr .. | .vrotc .. | .vbcr .. | .vbcc .. | .vredr .. | .vredc .. | .vtr16 .. | .vacvt .. => true
  | _ => false

/-- Does an instruction of the V stream wait: for a result in flight, or because 24 of them are in flight (R122, R123)? -/
def vHeld (t : Task) (i : Instr) : Bool :=
  (vDeps t i).any (fun d => t.fly.any (fun f => f.dst = d)) || (vFixed i && decide (24 ≤ t.fly.length))

end Sys2Proof.Machine
end

