-- ==== Sys2Proof/Machine/Fetch.lean ====
section
/-!
DEFINITION. Whose turn it is and what it issues: the agenda, fetching from the loop buffer or the header at the pc, the
conditions under which a stream issues, the passing of cycles; and the placing of one instruction before a step (spec/02
R31-R34, R37, R42, spec/06 R173, spec/11 R285, R288, R290, R291, log 1).
-/

namespace Sys2Proof.Machine

/-- The accounts of the saved contexts that are being restored into a slot. -/
def restoring (s : State) : List Nat :=
  s.cores.flatMap (fun c => (c.2.starting.filter (fun r => r.2.saved.isSome)).map (fun r => r.2.cr.lacct.toNat))

/-- The device events of poisoned write-backs posted: DATA_LOSS under the line's pavilion and key, with its physical address (R387; log 77,
DEDUCED). -/
def State.postLosses (s : State) : State :=
  each s.losses (fun x s => s.deviceEvent x.1 fDataLoss x.2.1 (BitVec.ofNat 64 (128 * x.2.2)) true) { s with losses := [] }

/-- The end of a cycle: watchdogs that are due and that no fault of the cycle has stopped fire (R291, R292), scores are halved (R369), the
cores that withheld issue may issue again (R290), what MFSR sees of a register written on the cycle is the new value (R215). -/
def State.endCycle (s : State) : State :=
  let next := fun (k : Core) => ({ k with withheld := false, srCyc := [] } : Core)
  let s := each (s.tasks.map (fun t => (t.1, t.2.1))) (fun p s => s.watchdog p.1 p.2) s
  let s := { s with
    cores := s.cores.map (fun (k : Nat × Core) => (k.1, next k.2))
    drams := s.drams.map (fun (m : Nat × Stack) => (m.1, m.2.endCycle)) }
  each (s.tasks.map (fun t => (t.1, t.2.1))) (fun p s => s.modTask p.1 p.2 (fun t => { t with flagged := 0, srCyc := [] })) s

/-- n cycles on which nothing falls due pass: CYC rises (R16), every task that is resident or being restored is charged for its slot
(Table 11-5), watchdogs of tasks that no fault has stopped count (R291). -/
def State.passWithin (s : State) (n : Nat) : State :=
  let count := fun (t : Task) => if t.stopped then t else { t with wdCount := t.wdCount + n }
  each s.tasks (fun p s => (s.modTask p.1 p.2.1 count).charge p.2.2.cr.lacct.toNat (5 * n))
    (each (restoring s) (fun a s => s.charge a (5 * n)) { s with cyc := s.cyc + BitVec.ofNat 64 n })

/-- The launches whose charge the cycle before has brought to the budget are exhausted on that cycle, and at their FLOOR from the next on
(R289, R370). -/
def State.exhaustAll (s : State) : State :=
  each s.accts (fun a s =>
    let s := match mfind a.1 s.accts with
      | some x => if x.over then { (({ s with cyc := s.cyc - 1 } : State).exhaust a.1 x) with cyc := s.cyc } else s
      | none => s
    if (mfind a.1 s.accts).any (fun x => x.exhausted && x.exhAt = s.cyc - 1) then s.toFloor a.1 else s) s

/-- A cycle reached: the tick that has ended is counted (R344), a halving of the scores that falls on it is noted (R367; log 75, DESIGN CHOICE: counted from CYC 0), results of fixed
latency become visible (R88, R122) and bank changes land (Table 6-2), a new window of 64 cycles gives the routers their levels (R409), the ports' timers run (R414, R416, R422). -/
def State.arrive (s : State) : State :=
  let s := s.exhaustAll.endTick.pressure.portTimers
  let halve := fun (k : Stack) => if s.cyc.toNat % dayCycles = 0 then { k with halving := true, halvedAt := s.cyc } else k
  let s := { s with drams := s.drams.map (fun (m : Nat × Stack) => (m.1, halve m.2)) }
  (each (s.tasks.map (fun t => (t.1, t.2.1))) (fun p s => s.modTask p.1 p.2 (fun t => t.land s.cyc)) s).landAll

/-- The cycles until one on which a result of a task becomes visible, a bank change may land or its watchdog is due. -/
def Task.dues (t : Task) (cyc : Nat) : List Nat :=
  t.fly.map (fun f => f.vis.toNat - cyc) ++ t.mq.map (fun x => x.due.toNat - cyc)
    ++ t.pend.map (fun p => match p.res with | .fixed _ _ vis => vis.toNat - cyc | _ => 0)
    ++ (if t.eff.wdMode ≠ 0 && !t.stopped then [t.eff.wdWin * 2 ^ 10 - t.wdCount] else [])

/-- The cycles until an account's charge comes to its budget, at 5 units a cycle for each slot that its launch holds. -/
def dueCharge (s : State) (n : Nat) (a : Acct) : List Nat :=
  let slots := (s.tasks.filter (fun t => t.2.2.cr.lacct.toNat = n)).length + ((restoring s).filter (· = n)).length
  if a.exhausted || a.budget = 0 then []
  else if a.budget * 20000 ≤ a.charge then [1]
  else if slots = 0 then []
  else [(a.budget * 20000 - a.charge + (5 * slots - 1)) / (5 * slots)]

/-- How many of the next n cycles pass until something falls due: at least one. -/
def untilDue (s : State) (n : Nat) : Nat :=
  let cyc := s.cyc.toNat
  let exh := s.accts.flatMap (fun a => (if a.2.exhausted && a.2.exhAt = s.cyc then [1] else []) ++ dueCharge s a.1 a.2)
  ((64 - cyc % 64) :: (dayCycles - cyc % dayCycles) :: (exh ++ s.tasks.flatMap (fun t => t.2.2.dues cyc) ++ s.ports.flatMap (fun p => p.2.dues cyc))).foldl
    (fun m d => if 0 < d && decide (d < m) then d else m) n

/-- n cycles pass, from each one on which something falls due to the next. -/
def State.passFor : Nat → Nat → State → State
  | 0, _, s => s
  | _ + 1, 0, s => s
  | k + 1, n, s =>
    let s := s.endCycle
    let d := untilDue s n
    State.passFor k (n - d) ((s.passWithin d).arrive)

/-- n cycles pass after a turn. -/
def State.pass (s : State) (n : Nat) : State := State.passFor n n s.postLosses

/-- An outcome after which n cycles pass. -/
def timed (n : Nat) (o : Out) : Out :=
  match o with
  | .next s => .next (s.pass n)
  | .fault r => .fault r
  | .refused r => .refused r

/-- What a stream finds when it fetches. -/
inductive Fetched where
  | insn (i : Instr)
  | bad
  deriving DecidableEq, Repr

/-- The instruction at a stream's pc: the header it has reached, or the next one of its loop buffer; every other encoding
is ILLEGAL_INSN (R37, R42). -/
def fetch (k : Stream) (core : Core) (x : StreamCtx) : Fetched :=
  match x.phase with
  | .atHeader =>
    let h := core.headerAt x.pc.toNat
    if nbits h.toNat 31 30 = 3 then .insn (.blockHeaderEntry (h.setWidth 30)) else .bad
  | _ =>
    match decode k (x.lbuf.drop (x.pc - x.blk - 2).toNat) with
    | .ok (.blockHeaderEntry _, _) => .bad
    | .ok (i, _) => .insn i
    | .error _ => .bad

/-- The engine taken by a stream that is in a block. -/
def takeEngine (s : State) (x : Ctx) : State :=
  match s.curSt.phase with
  | .inBlock => s.modCore x.core.val (fun k => { k with engines := mset x.stream.code { busy := some x.slot.val } k.engines })
  | _ => s

/-- Does a stream at a parcel that is no header still wait for its WAIT (R221)? -/
def waitsOn (s : State) (x : Ctx) : Bool :=
  match s.curTask with
  | none => false
  | some t =>
    let y := t.st x.stream
    y.phase = .atHeader && !entryHolds s t x.stream 0 y.wait

/-- What a turn comes to: an operation to be executed, or the state after it where there is none. -/
inductive Todo where
  | run (i : Instr) (s : State)
  | done (s : State)

/-- A stream's turn: the instruction that it issues, in the state in which it has its engine; a turn of a stream that may not
issue, or whose instruction waits for a vector result in flight, does nothing; a word that is no instruction, and one that
follows a stamp and cannot have it, raise ILLEGAL_INSN (R42, R122, R123, R173). -/
def streamTurn (s : State) (x : Ctx) : Todo :=
  let s := { s with cur := x }
  if canIssue s x then
    let s := takeEngine s x
    match fetch x.stream s.curCore s.curSt with
    | .insn i =>
      if s.curTask.any (fun t => badStamp t x.stream i) then .done (s.takeFault fIllegalInsn 0)
      else if x.stream = .v && s.curTask.any (fun t => vHeld t i) then .done s
      else .run i s
    | .bad => .done (if waitsOn s x then s else s.takeFault fIllegalInsn 0)
  else .done s

/-- Is an operation one of the device's own events or a host command, and not an instruction of a stream? -/
def isEvent (i : Instr) : Bool := !(i.inStream .s || i.inStream .v || i.inStream .m || i.inStream .c)

/-- The context that takes its turn when the agenda is empty. -/
def turnOf (n : Nat) : Ctx :=
  { core := ⟨n / 16 % 256, Nat.mod_lt _ (by decide)⟩, slot := ⟨n / 4 % 4, Nat.mod_lt _ (by decide)⟩,
    stream := Stream.ofCode n }

/-- Errors corrected in the state of some cores counted in their ECNT (R387, R393; log 76, DESIGN CHOICE: they come with the turn). -/
def State.corrected (s : State) (cs : List (Fin 256)) : State :=
  each cs (fun c s => s.modCore c.val (fun k => { k with ecnt := satInc k.ecnt })) s

/-- The turn that the next step takes, and the cycles that pass with it: the head of the agenda, or with an empty agenda
the next context around. A device without power takes no turn but its reset (R266, R267). -/
def nextTurn (s : State) : Todo × Nat :=
  match s.agenda with
  | [] => (streamTurn { s with rr := s.rr + 1 } (turnOf s.rr), 1)
  | t :: rest =>
    let s := ({ s with agenda := rest } : State).corrected t.ecc
    match t.ev with
    | none => (streamTurn s t.ctx, t.cycles)
    | some i =>
      let powered : Bool := match i with | .deviceReset .. => true | _ => s.stage ≠ Stage.off
      if isEvent i && powered then (.run i s, t.cycles) else (.done s, 0)

/-! ## Placing one instruction -/

/-- A record for the one task that withFetchWord places. -/
def probeCr : CR :=
  { fp := 0, join := 0, image := 0, region := 0, entry := 0, mbox := false, resume := false, prio := 0, win := 12,
    banks := 0, gang := 1, rank := 0, core := 0, lacct := 0 }

/-- A stream in a block whose body is the given parcels, or at a header that they hold. -/
def probeStream (header : Bool) (ps : List Parcel) : StreamCtx :=
  let r := { StreamCtx.reset with spawned := true }
  if header then { r with phase := .atHeader }
  else { r with phase := .inBlock, pc := 2, blk := 0, lbuf := ps, lc0 := 1, reps := 1,
                hdr := BitVec.ofNat 32 (0xC0000000 + ps.length * 2 ^ 19 + 2 ^ 8) }

/-- The state in which the next step of the device runs the instruction whose bits are w: the stream that executes it, of
a task in slot 0 of core 0, has it in its loop buffer (a header lies at its pc), and the agenda gives that stream the next
turn. It stands for bring-up and the launch that load a program (log 1). -/
def State.placeWord (s : State) (nbits w : Nat) : State :=
  let ps := tableParcels nbits w
  let st := match readTableWord nbits w with
    | some (_, .blockHeaderEntry h) => (Stream.ofCode (h.toNat / 2 ^ 28), true)
    | some (k, _) => (k, false)
    | none => (.s, false)
  let t := newTask 128 0 probeCr noEff 1 none 0 s.cyc []
  let t := { t with strm := mset st.1.code (probeStream st.2 ps) [] }
  let s := s.setTask 0 0 t
  let s := s.modCore 0 (fun k => if st.2 then { k with imem := [(0, ps.getD 0 0), (1, ps.getD 1 0)] } else k)
  { s with stage := .running, agenda := [{ ev := none, ctx := { core := 0, slot := 0, stream := st.1 }, cycles := 1 }] }


end Sys2Proof.Machine
end

