-- ==== Sys2Proof/Machine/Step.lean ====
section
/-!
DEFINITION. One step of the device: the next turn, its operation executed, its cycles passed.
-/

namespace Sys2Proof.Machine

/-- One step of the device. -/
def step (s : State) : Out :=
  match nextTurn s with
  | (.run i s, n) => timed n (exec i s)
  | (.done s, n) => .next (s.pass n)

/-- The state in which the next step runs the instruction whose bits are w (log 1). -/
def State.withFetchWord (s : State) (nbits w : Nat) : State := s.placeWord nbits w

end Sys2Proof.Machine
end

