-- ==== Sys2Proof/Safety.lean ====
section
/-!
DEFINITION. What counts as a safe run of this model. Every fault of the spec is a next state (spec/19), so a run is safe as
long as no step stops the model.
-/

namespace Sys2Proof

/-- An outcome that goes on. -/
def GoesOn (o : Host.Outcome Machine.State Machine.Fault Machine.Refusal) : Prop :=
  ∃ t, o = .next t

/-- A state from which n steps are taken without the model's stopping. -/
def SafeFor (n : Nat) (s : Machine.State) : Prop :=
  GoesOn (core.run n s)

/-- A state from which no run stops. -/
def Safe (s : Machine.State) : Prop :=
  ∀ n, SafeFor n s

end Sys2Proof
end

