-- ==== Sys2Proof/Certificates/Slice0/Obligations.lean ====
section
/-!
DEFINITION. The statements for the provers: one `def Obligations.<Name> : Prop` each. Names under Claim only shorten them.
-/

open Sys2Proof Sys2Proof.Machine

namespace Sys2Proof.Claim

/-- Task t is the one that issues, and an S instruction that reads `srcs` and writes d need not wait (R90, R91). -/
def CanIssue (s : State) (t : Task) (srcs : List SSrc) (d : SDst) : Prop :=
  s.curTask = some t ∧ t.ready srcs = true ∧ t.dstReady d = true ∧ t.canPend = true

/-- The outcome of an S instruction of n parcels whose result v is known at issue. -/
def wrote (s : State) (d : SDst) (v : Word64) (n : Nat) : Out :=
  .next ((s.modCur (fun t => t.result d v)).finish n)

/-- The same for a result of lat cycles: it stands in Q1 and its destination at once, and what reads them waits (R88, R90, R92). -/
def wroteLate (s : State) (d : SDst) (v : Word64) (lat n : Nat) : State :=
  (s.fresh.modCur (fun t => t.slowResult d v s.nextId s.curSt.pc (s.cyc + BitVec.ofNat 64 lat))).finish n

/-- sa and sb of Table 4-4: the operand as a signed number, of its low 32 bits in a .W form (R94, R95). -/
def signedOf (w : Bool) (x : Word64) : Int := if w then (x.setWidth 32).toInt else x.toInt
/-- ua and ub of Table 4-4: the operand as an unsigned number. -/
def unsignedOf (w : Bool) (x : Word64) : Int := if w then ((x.setWidth 32).toNat : Int) else (x.toNat : Int)
/-- sh of Table 4-4. -/
def shiftOf (w : Bool) (x : Word64) : Nat := if w then x.toNat % 32 else x.toNat % 64
/-- What the destination receives of r (R94, R95). -/
def narrowed (w : Bool) (r : Int) : Word64 := if w then (BitVec.ofInt 32 r).signExtend 64 else BitVec.ofInt 64 r
/-- The width of the operands of a form. -/
def widthOf (w : Bool) : Nat := if w then 32 else 64

end Sys2Proof.Claim

open Sys2Proof.Claim


/-! ## Scalar instructions (spec/04) -/

/-- R94, R95, R96: the arithmetic, shift, division and comparison results of Table 4-4 and their .W forms, as exact integers
narrowed at the end; a product stays in flight for 3 cycles, a quotient or remainder for 34, or 18 in the .W form, and holds
the divider for 2 fewer (R91, Table 4-2); the rest of the state is that of `wrote` (ScalarResultFrame). -/
def Obligations.AluArithmeticMatchesTable44 : Prop :=
  ∀ (s : State) (t : Task) (o : Alu), CanIssue s t [o.a, o.b] o.d →
    let sa := signedOf o.w (t.src o.a)
    let sb := signedOf o.w (t.src o.b)
    let ua := unsignedOf o.w (t.src o.a)
    let ub := unsignedOf o.w (t.src o.b)
    let sh := shiftOf o.w (t.src o.b)
    let top : Int := 2 ^ widthOf o.w
    let done := fun (r : Int) => wrote s o.d (narrowed o.w r) 2
    let product := fun (r : Int) => Host.Outcome.next (wroteLate s o.d (narrowed o.w r) 3 2)
    let divided := fun (i : Instr) (r : Int) => s.curCore.divAt.toNat ≤ s.cyc.toNat →
      exec i s = .next (((s.fresh.modCur (fun t => t.slowResult o.d (narrowed o.w r) s.nextId s.curSt.pc
        (s.cyc + if o.w then 18 else 34))).modCurCore (fun k => { k with divAt := s.cyc + if o.w then 16 else 32 })).finish 2)
    exec (.add o) s = done (ua + ub) ∧ exec (.sub o) s = done (ua - ub)
    ∧ exec (.shl o) s = done (ua * 2 ^ sh) ∧ exec (.shr o) s = done (ua / 2 ^ sh) ∧ exec (.sar o) s = done (sa / 2 ^ sh)
    ∧ exec (.mul o) s = product (ua * ub) ∧ exec (.mulh o) s = product (sa * sb / top) ∧ exec (.mulhu o) s = product (ua * ub / top)
    ∧ divided (.div o) (if ub = 0 then -1 else sa.tdiv sb)
    ∧ divided (.divu o) (if ub = 0 then -1 else ua / ub)
    ∧ divided (.rem o) (if ub = 0 then sa else sa - sb * sa.tdiv sb)
    ∧ divided (.remu o) (if ub = 0 then ua else ua - ub * (ua / ub))
    ∧ exec (.min o) s = done (min sa sb) ∧ exec (.max o) s = done (max sa sb)
    ∧ exec (.minu o) s = done (min ua ub) ∧ exec (.maxu o) s = done (max ua ub)
    ∧ exec (.slt o) s = done (if sa < sb then 1 else 0) ∧ exec (.sltu o) s = done (if ua < ub then 1 else 0)
    ∧ exec (.seq o) s = done (if ua = ub then 1 else 0)

/-- R94, R95: the bitwise operations, bit by bit; bits 63:32 of a .W result repeat bit 31. CLZ and CTZ count the zeros
before the first one bit from their end, up to the operand's width; POPC counts the ones. -/
def Obligations.BitOperationsMatchTable44 : Prop :=
  (∀ (s : State) (t : Task) (o : Alu), CanIssue s t [o.a, o.b] o.d →
    let bit := fun (f : Bool → Bool → Bool) (i : Nat) =>
      let j := if o.w && decide (32 ≤ i) then 31 else i
      f ((t.src o.a).getLsbD j) ((t.src o.b).getLsbD j)
    let does := fun (i : Instr) (f : Bool → Bool → Bool) =>
      ∃ v : Word64, (∀ j, j < 64 → v.getLsbD j = bit f j) ∧ exec i s = wrote s o.d v 2
    does (.and o) (fun x y => x && y) ∧ does (.or o) (fun x y => x || y) ∧ does (.xor o) (fun x y => x != y)
    ∧ does (.andn o) (fun x y => x && !y))
  ∧ (∀ (s : State) (t : Task) (o : Alu1), CanIssue s t [o.a] o.d →
    let n := widthOf o.w
    let x := t.src o.a
    (∃ k, k ≤ n ∧ (∀ i, i < k → x.getLsbD (n - 1 - i) = false) ∧ (k < n → x.getLsbD (n - 1 - k) = true)
      ∧ exec (.clz o) s = wrote s o.d (BitVec.ofNat 64 k) 2)
    ∧ (∃ k, k ≤ n ∧ (∀ i, i < k → x.getLsbD i = false) ∧ (k < n → x.getLsbD k = true)
      ∧ exec (.ctz o) s = wrote s o.d (BitVec.ofNat 64 k) 2)
    ∧ exec (.popc o) s = wrote s o.d (BitVec.ofNat 64 ((List.range n).countP (fun i => x.getLsbD i))) 2)

/-- R97 to R100: the compact forms, the immediates, the immediate shifts, LUI and LI. -/
def Obligations.ImmediateAndCompactResults : Prop :=
  (∀ (s : State) (t : Task) (d : Fin 16) (a : SSrc), CanIssue s t [.s d, a] (.s d) →
    let x := t.src (.s d)
    let y := t.src a
    exec (.addC d a) s = wrote s (.s d) (x + y) 1 ∧ exec (.subC d a) s = wrote s (.s d) (x - y) 1
    ∧ exec (.andC d a) s = wrote s (.s d) (x &&& y) 1 ∧ exec (.orC d a) s = wrote s (.s d) (x ||| y) 1)
  ∧ (∀ (s : State) (t : Task) (d : Fin 16) (i : BitVec 5), CanIssue s t [.s d] (.s d) →
    exec (.addiC d i) s = wrote s (.s d) (BitVec.ofInt 64 ((t.src (.s d)).toInt + i.toInt)) 1)
  ∧ (∀ (s : State) (t : Task) (d : Fin 16) (a : SSrc), CanIssue s t [a] (.s d) →
    exec (.movC d a) s = wrote s (.s d) (t.src a) 1)
  ∧ (∀ (s : State) (t : Task) (o : ImmOp), CanIssue s t [o.a] o.d →
    let x := t.src o.a
    let i : Word64 := BitVec.ofInt 64 o.imm.toInt
    exec (.addi o) s = wrote s o.d (BitVec.ofInt 64 (x.toInt + o.imm.toInt)) 2 ∧ exec (.andi o) s = wrote s o.d (x &&& i) 2
    ∧ exec (.ori o) s = wrote s o.d (x ||| i) 2 ∧ exec (.xori o) s = wrote s o.d (x ^^^ i) 2
    ∧ exec (.slti o) s = wrote s o.d (if x.toInt < o.imm.toInt then 1 else 0) 2
    ∧ exec (.sltiu o) s = wrote s o.d (if x.toNat < i.toNat then 1 else 0) 2)
  ∧ (∀ (s : State) (t : Task) (o : ShiftImm), CanIssue s t [o.a] o.d →
    let x := t.src o.a
    let n := o.amt.toNat
    exec (.shli o) s = wrote s o.d (BitVec.ofNat 64 (x.toNat * 2 ^ n)) 2
    ∧ exec (.shri o) s = wrote s o.d (BitVec.ofNat 64 (x.toNat / 2 ^ n)) 2
    ∧ exec (.sari o) s = wrote s o.d (BitVec.ofInt 64 (x.toInt / 2 ^ n)) 2)
  ∧ (∀ (s : State) (t : Task) (d : SDst) (i : BitVec 19) (j : BitVec 31), CanIssue s t [] d →
    exec (.lui d i) s = wrote s d (BitVec.ofInt 64 (i.toInt * 2 ^ 13)) 2
    ∧ exec (.li d j) s = wrote s d (BitVec.ofInt 64 j.toInt) 3)

/-- R101, R102: BFX and BFXS take the bits of a from the offset, filled with 0 or bit 63 past bit 63 and above the width;
BFI puts the low bits of a into its destination, and nothing above bit 63. -/
def Obligations.BitFieldsBitByBit : Prop :=
  ∀ (s : State) (t : Task) (o : BField),
    let w := min o.width.toNat 64
    let off := o.off.toNat
    let a := t.src o.a
    let src := fun (fill : Bool) (i : Nat) => if off + i ≤ 63 then a.getLsbD (off + i) else fill
    (CanIssue s t [o.a] o.d →
      (∃ v : Word64, (∀ i, i < 64 → v.getLsbD i = (decide (i < w) && src false i)) ∧ exec (.bfx o) s = wrote s o.d v 2)
      ∧ (∃ v : Word64, (∀ i, i < 64 → v.getLsbD i = (decide (w ≠ 0) && src (a.getLsbD 63) (min i (w - 1))))
        ∧ exec (.bfxs o) s = wrote s o.d v 2))
    ∧ (∀ n : Fin 16, o.d = .s n → CanIssue s t [.s n, o.a] o.d →
      ∃ v : Word64, (∀ i, i < 64 → v.getLsbD i = if off ≤ i ∧ i < off + w then a.getLsbD (i - off) else (t.sreg n.val).getLsbD i)
        ∧ exec (.bfi o) s = wrote s o.d v 2)

/-- R86, R87, R88, R90, R288: what `wrote` and `wroteLate` change and all that they leave: the queue shifts by one, the named register takes the
value, a pending entry moves with the queue, to which `wroteLate` adds the result in flight, the issuing stream's context moves on, the task's account is charged; nothing
else of the task, its core or the device changes, and every byte of memory reads as before. -/
def Obligations.ScalarResultFrame : Prop :=
  ∀ (s s' : State) (t : Task) (d : SDst) (v : Word64) (n lat : Nat) (late : Bool), s.curTask = some t → s.cur.stream = .s →
    (if late then .next (wroteLate s d v lat n) else wrote s d v n) = .next s' →
    let old := match d with
      | .s r => t.sreg r.val
      | .none => 0
    let flies := if late then [(s.nextId, d, SRes.fixed v old (s.cyc + BitVec.ofNat 64 lat))] else []
    (∃ t', s'.curTask = some t' ∧ t'.q = v :: t.q.take 15
      ∧ (∀ r : Fin 16, t'.sreg r.val = if d = .s r then v else t.sreg r.val)
      ∧ t'.pend.map (fun p => (p.tag, p.dst, p.res)) = t.pend.map (fun p => (p.tag, p.dst, p.res)) ++ flies
      ∧ (∀ k, k ≠ Stream.s → t'.st k = t.st k) ∧ t'.st .s = (t.st .s).advance n
      ∧ { t' with s := t.s, q := t.q, pend := t.pend, strm := t.strm } = t)
    ∧ (∀ c l, (c, l) ≠ (s.cur.core.val, s.cur.slot.val) → s'.task? c l = s.task? c l)
    ∧ (∀ c, { s'.core c with slots := (s.core c).slots } = s.core c)
    ∧ (∀ a, mfind a s'.accts = (mfind a s.accts).map (fun x =>
        if a = t.cr.lacct.toNat then { x with charge := x.charge + 1 } else x))
    ∧ s'.nextId = (if late then s.nextId + 1 else s.nextId)
    ∧ { s' with cores := s.cores, accts := s.accts, nextId := s.nextId } = s
    ∧ (∀ key a, s'.byteK key a = s.byteK key a)

namespace Sys2Proof.Claim

/-- The outcome of a branch taken to a good target p (R41, R106): charged, at p, its block ended and both loops left. -/
def jumped (s : State) (p : Int) : Out :=
  .next (s.chargeIssue.modSt (fun x => { x with pc := BitVec.ofInt 17 p, phase := .draining .header, l1 := none, l2 := none }))

/-- The target p of a branch of the issuing stream passes the checks of R41 and R105. -/
def GoodTarget (s : State) (t : Task) (p : Int) : Prop := targetFault s s.cur.core.val t s.cur.stream p = none

end Sys2Proof.Claim

/-- R103, R106, R219: a compare-branch goes to its parcel address plus its offset where its condition holds, and only moves
on where it does not; BZ is taken where all 64 bits of the tested operand are zero, BNZ where one is not. -/
def Obligations.ConditionalBranches : Prop :=
  (∀ (s : State) (t : Task) (o : CmpBr), s.curTask = some t → t.ready [o.a, o.b] = true →
    let a := t.src o.a
    let b := t.src o.b
    let p : Int := s.curSt.pc.toNat + o.off.toInt
    let does := fun (i : Instr) (taken : Prop) =>
      (taken → GoodTarget s t p → exec i s = jumped s p) ∧ (¬ taken → exec i s = .next (s.finish 2))
    does (.beq o) (a = b) ∧ does (.bne o) (a ≠ b) ∧ does (.blt o) (a.toInt < b.toInt) ∧ does (.bge o) (b.toInt ≤ a.toInt)
    ∧ does (.bltu o) (a.toNat < b.toNat) ∧ does (.bgeu o) (b.toNat ≤ a.toNat))
  ∧ (∀ (s : State) (t : Task) (off : BitVec 14), s.curTask = some t →
    let p : Int := s.curSt.pc.toNat + off.toInt
    let does := fun (i : Instr) (taken : Prop) =>
      (taken → GoodTarget s t p → exec i s = jumped s p) ∧ (¬ taken → exec i s = .next (s.finish 2))
    (∀ a : SSrc, t.srcReady a = true → does (.bzS a off) (t.src a = 0) ∧ does (.bnzS a off) (t.src a ≠ 0))
    ∧ (∀ a : AReg, does (.bzA a off) (t.a s.cur.stream a.val = 0) ∧ does (.bnzA a off) (t.a s.cur.stream a.val ≠ 0)))

/-- R41, R105: a branch target is good exactly where it lies in the task's image and holds a header of the stream. R104,
R105: BR, CALL, RET and JR; CALL writes into S15 the address after its two parcels and leaves every other register. -/
def Obligations.JumpsAndTargetChecks : Prop :=
  (∀ (s : State) (c : Nat) (t : Task) (k : Stream) (p : Int),
      let r := imageRange s t
      let here := (r.1 : Int) ≤ p ∧ p < ((r.1 + r.2 : Nat) : Int)
      let w := ((s.core c).parcel p.toNat).toNat
      (targetFault s c t k p = none ↔ here ∧ w / 2 ^ 14 = 3 ∧ w / 2 ^ 12 % 4 = k.code)
      ∧ (targetFault s c t k p = some fIllegalStream ↔ here ∧ w / 2 ^ 14 = 3 ∧ w / 2 ^ 12 % 4 ≠ k.code)
      ∧ (targetFault s c t k p = some fIllegalTarget ↔ ¬ (here ∧ w / 2 ^ 14 = 3)))
  ∧ (∀ (s : State) (t : Task), s.curTask = some t →
      let pc := s.curSt.pc
      (∀ off : BitVec 24, GoodTarget s t (pc.toNat + off.toInt) → exec (.br off) s = jumped s (pc.toNat + off.toInt))
      ∧ (s.cur.stream = .s →
        (∀ off : BitVec 24, GoodTarget s t (pc.toNat + off.toInt) → t.dstReady (.s 15) = true →
          exec (.call off) s = jumped (s.modCur (fun u => u.setSreg 15 (BitVec.ofNat 64 (pc + 2).toNat))) (pc.toNat + off.toInt))
        ∧ (t.srcReady (.s 15) = true → (t.sreg 15).toNat < 2 ^ 17 → GoodTarget s t (t.sreg 15).toNat →
          exec .ret s = jumped s (t.sreg 15).toNat)
        ∧ (∀ a : SSrc, t.srcReady a = true → (t.src a).toNat < 2 ^ 17 → GoodTarget s t (t.src a).toNat →
          exec (.jr a) s = jumped s (t.src a).toNat)
        ∧ (∀ a : SSrc, t.srcReady a = true → 2 ^ 17 ≤ (t.src a).toNat → exec (.jr a) s = .next (s.takeFault fIllegalTarget 0))))


/-! ## What every stream decodes alike (spec/02, spec/08) -/

namespace Sys2Proof.Claim

/-- Only the context of the issuing stream changes, and in the S stream the charge of its task's account: every register,
every other task, every other part of the device and every byte of memory is as before. -/
def OnlyContext (s s' : State) (t : Task) (f : StreamCtx → StreamCtx) : Prop :=
  (∃ t', s'.curTask = some t' ∧ t'.st s.cur.stream = f (t.st s.cur.stream)
      ∧ (∀ k, k ≠ s.cur.stream → t'.st k = t.st k) ∧ { t' with strm := t.strm } = t)
    ∧ (∀ c l, (c, l) ≠ (s.cur.core.val, s.cur.slot.val) → s'.task? c l = s.task? c l)
    ∧ (∀ c, { s'.core c with slots := (s.core c).slots } = s.core c)
    ∧ (∀ a, mfind a s'.accts = (mfind a s.accts).map (fun x =>
        if s.cur.stream = .s ∧ a = t.cr.lacct.toNat then { x with charge := x.charge + 1 } else x))
    ∧ { s' with cores := s.cores, accts := s.accts } = s
    ∧ (∀ key a, s'.byteK key a = s.byteK key a)

end Sys2Proof.Claim

/-- R41, R219, R221, R224, R288: moving on, jumping and ending a block change only the issuing stream's context, and in the
S stream the charge of its task. -/
def Obligations.ControlFrame : Prop :=
  ∀ (s : State) (t : Task), s.curTask = some t →
    (∀ n, OnlyContext s (s.finish n) t (fun x => x.advance n))
    ∧ (∀ n a, OnlyContext s (s.endBlockWith n a) t (fun x =>
        { x with pc := x.pc + BitVec.ofNat 17 n, feSince := none, phase := .draining a, l1 := none, l2 := none }))
    ∧ (∀ p s', jumped s p = .next s' → OnlyContext s s' t (fun x =>
        { x with pc := BitVec.ofInt 17 p, phase := .draining .header, l1 := none, l2 := none }))

/-- R35, R37, R40, R216: where a context stands after n parcels: at the next instruction; back at an ending loop level with
one pass less, or past it when no pass is left; back at the block's first instruction with one repeat less, or at the block's
end. A counter of 0 stays 0 and ends its level. -/
def Obligations.LoopAndBlockEnds : Prop :=
  ∀ (x : StreamCtx) (n : Nat),
    let p := x.pc + BitVec.ofNat 17 n
    let y := x.advance n
    (endsAt x.l1 p = none → endsAt x.l2 p = none → p ≠ x.blkEnd → y = { x with pc := p, feSince := none })
    ∧ (∀ b, endsAt x.l1 p = some b → endsAt x.l2 p = none → 2 ≤ x.lc1.toNat →
        y = { x with pc := b, lc1 := x.lc1 - 1, feSince := none })
    ∧ (∀ b, endsAt x.l1 p = some b → endsAt x.l2 p = none → x.lc1.toNat ≤ 1 → p ≠ x.blkEnd →
        y = { x with pc := p, lc1 := 0, l1 := none, feSince := none })
    ∧ (∀ b, endsAt x.l2 p = some b → endsAt x.l1 p = none → 2 ≤ x.lc2.toNat →
        y = { x with pc := b, lc2 := x.lc2 - 1, feSince := none })
    ∧ (∀ b, endsAt x.l2 p = some b → endsAt x.l1 p = none → x.lc2.toNat ≤ 1 → p ≠ x.blkEnd →
        y = { x with pc := p, lc2 := 0, l2 := none, feSince := none })
    ∧ (∀ b1 b2, endsAt x.l1 p = some b1 → endsAt x.l2 p = some b2 → b1.toNat ≤ b2.toNat → 2 ≤ x.lc2.toNat →
        y = { x with pc := b2, lc2 := x.lc2 - 1, feSince := none })
    ∧ (∀ b1 b2, endsAt x.l1 p = some b1 → endsAt x.l2 p = some b2 → b2.toNat < b1.toNat → 2 ≤ x.lc1.toNat →
        y = { x with pc := b1, lc1 := x.lc1 - 1, feSince := none })
    ∧ (endsAt x.l1 p = none → endsAt x.l2 p = none → p = x.blkEnd → 2 ≤ x.lc0.toNat →
        y = { x with pc := x.blk + 2, lc0 := x.lc0 - 1, l1 := none, l2 := none, feSince := none })
    ∧ (endsAt x.l1 p = none → endsAt x.l2 p = none → p = x.blkEnd → x.lc0.toNat ≤ 1 →
        y = { x with pc := p, lc0 := 0, phase := .draining .header, l1 := none, l2 := none, feSince := none })

/-- R54, R217, R218, R225: NOP, BEACON, AWR, AMOV, AADD, ACSET and ACINC. A lane write leaves the other lanes, and a lane
sum carries into none. -/
def Obligations.AddressRegistersNopAndBeacon : Prop :=
  ∀ (s : State) (t : Task), s.curTask = some t →
    let k := s.cur.stream
    exec .nop s = .next (s.finish 2) ∧ exec .nopC s = .next (s.finish 1)
    ∧ (∀ tag, exec (.beacon tag) s = .next ((s.modCur (fun u => { u with
        beacon := (tag, s.cyc), wdCount := if u.eff.wdMode = 2 then 0 else u.wdCount })).finish 2))
    ∧ (∀ (j : Stream) (n : AReg) (a : SSrc), t.srcReady a = true →
        exec (.awr j n a) s = .next ((s.modCur (fun u => { u with acopy := u.acopy ++ [(aIndex j n.val, t.src a, s.cyc)] })).finish 2))
    ∧ (∀ d a : AReg, exec (.amov d a) s = .next ((s.modCur (fun u => u.setA k d.val (t.a k a.val))).finish 2))
    ∧ (∀ (d a : AReg) (i : BitVec 18), exec (.aadd d a i) s =
        .next ((s.modCur (fun u => u.setA k d.val (BitVec.ofInt 64 ((t.a k a.val).toInt + i.toInt)))).finish 2))
    ∧ (∀ (d : AReg) (l : Fin 4) (i : BitVec 16), ∃ v : Word64,
        (∀ j, j < 64 → v.getLsbD j = if j / 16 = l.val then i.getLsbD (j % 16) else (t.a k d.val).getLsbD j)
        ∧ exec (.acset d l i) s = .next ((s.modCur (fun u => u.setA k d.val v)).finish 2))
    ∧ (∀ (d : AReg) (l : Fin 4) (i : BitVec 16), ∃ v : Word64,
        (∀ j, j < 64 → v.getLsbD j = if j / 16 = l.val then
            (BitVec.extractLsb' (16 * l.val) 16 (t.a k d.val) + i).getLsbD (j % 16) else (t.a k d.val).getLsbD j)
        ∧ exec (.acinc d l i) s = .next ((s.modCur (fun u => u.setA k d.val v)).finish 2))

namespace Sys2Proof.Claim

/-- LOOP may open a level with a body of `len` parcels after its own two (R39, R40): the level is not active, the body ends
inside the block at an instruction's end, and not past an active level's. -/
def LoopFits (s : State) (lvl2 : Bool) (len : BitVec 9) : Prop :=
  let x := s.curSt
  let off := (x.pc - x.blk).toNat
  let inside := fun (l : Option (BitVec 17 × BitVec 17)) => ∀ b e, l = some (b, e) → off + 2 + len.toNat ≤ (e - x.blk).toNat
  (if lvl2 then x.l2 else x.l1) = none ∧ x.pc.toNat = x.blk.toNat + off ∧ x.blk.toNat + off + 2 + len.toNat < 2 ^ 17
    ∧ off + len.toNat ≤ hdrLen x.hdr
    ∧ boundaryAt x.lbuf (off + len.toNat) len.toNat off = true ∧ inside x.l1 ∧ inside x.l2

/-- The outcome of LOOP with n passes (R40): with none the body is skipped. -/
def loops (s : State) (lvl2 : Bool) (len : BitVec 9) (n : Word32) : Out :=
  let b := s.curSt.pc + 2
  let s' := s.modSt (fun x => if lvl2 then { x with lc2 := n } else { x with lc1 := n })
  if n = 0 then .next (s'.finish (2 + len.toNat))
  else .next (s'.chargeIssue.modSt (fun x =>
    if lvl2 then { x with pc := b, l2 := some (b, b + len.setWidth 17), feSince := none }
    else { x with pc := b, l1 := some (b, b + len.setWidth 17), feSince := none }))

end Sys2Proof.Claim

/-- R213 to R215, R241: MFSR reads each register of Table 8-1, and those of Table 19-11 where the region is privileged, with
a result in the S stream and into an A register in the others; an index that is not assigned raises ILLEGAL_INSN, a
privileged one without the right PRIV_OP. R214 to R216: what MTSR writes: the loop counters, STATUS field by field, LEASE
with 0 for the region's, PRIO clamped; a read-only register takes no write. R215: an MFSR reads what stood before the writes of
its cycle, a write after which one of a later stream came on its cycle does not show, and a flag set on the cycle stays. -/
def Obligations.SpecialRegisters : Prop :=
  (∀ (s : State) (t : Task), s.curTask = some t →
      let x := t.st s.cur.stream
      let c := s.cur.core.val
      let open8 : List (BitVec 10 × Word64) :=
        [(0x000, s.cyc), (0x001, (s.core c).ltime.setWidth 64), (0x002, t.taskid.setWidth 64), (0x003, BitVec.ofNat 64 c),
         (0x004, BitVec.ofNat 64 (t.cr.rank.toNat + t.cr.gang.toNat * 2 ^ 16)), (0x005, BitVec.ofNat 64 t.prio),
         (0x008, t.stbase), (0x009, t.stper.setWidth 64), (0x00A, x.lc0.setWidth 64), (0x00B, x.lc1.setWidth 64),
         (0x00C, x.lc2.setWidth 64), (0x00D, t.status), (0x00E, t.relts.setWidth 64), (0x00F, t.lease.setWidth 64),
         (0x006, energyLeft s t.cr.lacct.toNat), (0x007, BitVec.ofNat 64 (fpress s c))]
      let priv : List (BitVec 10 × Word64) :=
        [(0x100, 1), (0x101, BitVec.ofNat 64 t.pav), (0x102, BitVec.ofNat 64 t.key), (0x103, t.cr.region.setWidth 64),
         (0x104, BitVec.ofNat 64 (((s.pav? t.pav).map (fun p => fltCount s p t.cr.region.toNat)).getD 0)),
         (0x105, BitVec.ofNat 64 (((s.pav? t.pav).map (vioCount s)).getD 0)), (0x106, (s.core c).ecnt.setWidth 64)]
      let now := fun (r : BitVec 10 × Word64) => match mfind r.1.toNat (if r.1 = 0x106 then (s.core c).srCyc else t.srCyc) with
        | some (before, _) => before
        | none => r.2
      let reads := fun (l : List (BitVec 10 × Word64)) => ∀ r ∈ l,
        (s.cur.stream = .s → ∀ d, CanIssue s t [] d → exec (.mfsrS d r.1) s = wrote s d (now r) 2)
        ∧ (∀ d : AReg, exec (.mfsrA d r.1) s = .next ((s.modCur (fun u => u.setA s.cur.stream d.val (now r))).finish 2))
      reads open8 ∧ (t.eff.sysSvc = true → reads priv)
      ∧ (∀ i : BitVec 10, 0x100 ≤ i.toNat → t.eff.sysSvc = false → ∀ d e a b,
          exec (.mfsrS d i) s = .next (s.takeFault fPrivOp 0) ∧ exec (.mfsrA e i) s = .next (s.takeFault fPrivOp 0)
          ∧ exec (.mtsrS a i) s = .next (s.takeFault fPrivOp 0) ∧ exec (.mtsrA b i) s = .next (s.takeFault fPrivOp 0))
      ∧ (∀ i : BitVec 10, (0x010 ≤ i.toNat ∧ i.toNat < 0x100) ∨ (0x107 ≤ i.toNat ∧ t.eff.sysSvc = true) → ∀ d e a b,
          exec (.mfsrS d i) s = .next (s.takeFault fIllegalInsn 0) ∧ exec (.mfsrA e i) s = .next (s.takeFault fIllegalInsn 0)
          ∧ exec (.mtsrS a i) s = .next (s.takeFault fIllegalInsn 0) ∧ exec (.mtsrA b i) s = .next (s.takeFault fIllegalInsn 0)))
  ∧ (∀ (s : State) (t : Task) (v : Word64) (i : BitVec 10) (mt : Instr), s.curTask = some t →
      ((∃ a : SSrc, s.cur.stream = .s ∧ mt = .mtsrS a i ∧ t.srcReady a = true ∧ t.src a = v)
        ∨ (∃ a : AReg, mt = .mtsrA a i ∧ t.a s.cur.stream a.val = v)) →
      let w : Word32 := v.setWidth 32
      let k := s.cur.stream
      let last := match mfind i.toNat t.srCyc with
        | some (_, n) => n
        | none => 0
      let noted := fun (s' : State) (old : Word64) => Host.Outcome.next
        ((s'.modCur (fun u => { u with srCyc := noteSr i.toNat old k u.srCyc })).finish 2)
      (i = 0x00A → exec mt s = .next ((s.modCur (fun u => u.modSt k (fun x => { x with lc0 := w }))).finish 2))
      ∧ (i = 0x00B → exec mt s = .next ((s.modCur (fun u => u.modSt k (fun x => { x with lc1 := w }))).finish 2))
      ∧ (i = 0x00C → exec mt s = .next ((s.modCur (fun u => u.modSt k (fun x => { x with lc2 := w }))).finish 2))
      ∧ (i = 0x00D → t.flagged &&& 0x1F = t.flagged → last ≤ k.code → ∃ st : Word64,
          (∀ j, j < 64 → st.getLsbD j = (if 48 ≤ j ∨ j = 8 ∨ j = 9 then v.getLsbD j
            else if j ≤ 4 then t.status.getLsbD j && (!v.getLsbD j || t.flagged.getLsbD j) else false))
          ∧ exec mt s = noted (s.modCur (fun u => { u with status := st })) t.status)
      ∧ (i = 0x00F → last ≤ k.code → exec mt s = noted (s.modCur (fun u => { u with
          lease := if v.toNat % 256 = 0 then BitVec.ofNat 8 t.eff.lease else v.setWidth 8 })) (t.lease.setWidth 64))
      ∧ (i = 0x00F → k.code < last → exec mt s = noted s (t.lease.setWidth 64))
      ∧ (i = 0x005 → last ≤ k.code → t.gangId = none → (mfind t.cr.lacct.toNat s.accts).map (·.exhausted) ≠ some true →
          exec mt s = noted (s.modCur (fun u => { u with
            prio := (if t.pav = 128 then id else min 21) (max t.eff.floor (min (v.toNat % 32) t.eff.ceil)) })) (BitVec.ofNat 64 t.prio))
      ∧ (i = 0x005 → k.code < last → exec mt s = noted s (BitVec.ofNat 64 t.prio))
      ∧ (i ∈ [0x000#10, 0x001#10, 0x002#10, 0x003#10, 0x004#10, 0x006#10, 0x007#10, 0x008#10, 0x009#10, 0x00E#10] →
          ∃ old, exec mt s = noted s old))


/-- R40: LOOP sets its counter and opens its level at the next instruction; a count of 0 skips the body; a LOOP that does not
fit raises ILLEGAL_INSN. R220 to R224, R230: TKSEND sends its tokens where the stream's effects are performed and the FIFO
has room; WAIT, HALT, EXIT and YIELD end their block with what they lead to; WAIT.gen checks that its address is aligned and
on a COH page. -/
def Obligations.LoopsTokensAndBlockEnds : Prop :=
  (∀ (s : State) (t : Task) (lvl2 : Bool) (len : BitVec 9), s.curTask = some t →
      (LoopFits s lvl2 len →
        (∀ c : BitVec 12, exec (.loopImm lvl2 len c) s = loops s lvl2 len (c.setWidth 32))
        ∧ (∀ a : SSrc, t.srcReady a = true → exec (.loopRegS lvl2 len a) s = loops s lvl2 len ((t.src a).setWidth 32))
        ∧ (∀ a : AReg, exec (.loopRegA lvl2 len a) s = loops s lvl2 len ((t.a s.cur.stream a.val).setWidth 32)))
      ∧ ((if lvl2 then s.curSt.l2 else s.curSt.l1) ≠ none → ∀ c : BitVec 12,
          exec (.loopImm lvl2 len c) s = .next (s.takeFault fIllegalInsn 0)))
  ∧ (∀ (s : State) (t : Task), s.curTask = some t →
      let k := s.cur.stream
      (∀ (j : Stream) (n : Fin 16), effectsDone s t k (t.st k).blkId = true →
          (t.fifo k j).length + n.val ≤ 15 →
          exec (.tksend j n) s = .next ((s.modCur (fun u => u.setFifo k j (u.fifo k j ++ List.replicate n.val (newTok s t k)))).finish 2))
      ∧ (∀ (j : Stream) (n : Fin 16), 15 < (t.fifo k j).length + n.val → exec (.tksend j n) s = .next s)
      ∧ (∀ (j : Stream) (n : Fin 16), exec (.waitTok j n) s = .next (s.endBlockWith 2 (.wait (.tok j n.val))))
      ∧ exec .halt s = .next (s.endBlockWith 2 (if k = .s then .exit else .halt))
      ∧ exec .exit s = .next (s.endBlockWith 2 .exit) ∧ exec .yield s = .next (s.endBlockWith 2 .yield)
      ∧ (∀ (va g : Word64) (i : Instr),
        ((∃ a b : SSrc, i = .waitGenS a b ∧ t.ready [a, b] = true ∧ t.src a = va ∧ t.src b = g)
          ∨ (∃ a b : AReg, i = .waitGenA a b ∧ t.a k a.val = va ∧ t.a k b.val = g)) →
        (va.toNat % 16 ≠ 0 → exec i s = .next (s.takeFault fAlign va))
        ∧ (∀ l pa, va.toNat % 16 = 0 → xlate s s.curDie t.pav va.toNat .read = .ok l pa →
            (l.cls = .coh → exec i s = .next (s.endBlockWith 2 (.wait (.gen va pa (g.setWidth 32) none))))
            ∧ (l.cls ≠ .coh → exec i s = .next (s.takeFault fSyncClass va)))))


/-- R32 to R35, R38, R285: a header whose checks pass and whose conditions hold, and which its free engine chooses, is
entered: each POP removes one token, the repeat field or LC0 gives the repeats, the body fills the loop buffer, the engine is
the slot's. With no condition met the stream waits and nothing changes. R36, R221, R224, R230: a block whose effects are all
performed completes: its PUSH tokens enter the FIFOs that have room, its engine is free, and the stream goes on to what the
block leads to; tokens without room wait, and TOKEN_PUSH_DEFERRED sends them when there is room. -/
def Obligations.BlocksAreEnteredAndCompleted : Prop :=
  (∀ (s : State) (t : Task) (hdr : BitVec 30), s.curTask = some t →
      let k := s.cur.stream
      let c := s.cur.core.val
      let h : Word32 := BitVec.ofNat 32 (3 * 2 ^ 30 + hdr.toNat)
      let x := t.st k
      x.phase = .atHeader →
      (headerFault k h = none → waitPopClash k h x.wait = false →
        (entryHolds s t k h x.wait = true → s.curCore.engine k = none → chosenSlot s c k = some s.cur.slot.val →
          ∃ s' t', exec (.blockHeaderEntry hdr) s = .next s' ∧ s'.curTask = some t' ∧ t'.s = t.s ∧ t'.q = t.q
            ∧ (∀ key a, s'.byteK key a = s.byteK key a) ∧ (s'.core c).engine k = some s.cur.slot.val
            ∧ (∀ i, i ∈ otherStreams k → t'.fifo i k = (t.fifo i k).drop
                ((if i ∈ maskStreams k (popMask h) then 1 else 0) + (match x.wait with
                  | some (.tok j n) => if j = i then n else 0
                  | _ => 0)))
            ∧ (let n := if hdrRepeat h = 0 then x.lc0 else BitVec.ofNat 32 (hdrRepeat h)
               let y := t'.st k
               y.hdr = h ∧ y.blk = x.pc ∧ y.lc0 = n ∧ y.l1 = none ∧ y.l2 = none ∧ y.wait = none
               ∧ y.lbuf = (List.range (hdrLen h)).map (fun i => (s.core c).parcel (x.pc.toNat + 2 + i))
               ∧ (n ≠ 0 → y.phase = .inBlock ∧ y.pc = x.pc + 2)
               ∧ (n = 0 → y.phase = .draining .header ∧ y.pc = x.pc + 2 + BitVec.ofNat 17 (hdrLen h))))
        ∧ (entryHolds s t k h x.wait = false → exec (.blockHeaderEntry hdr) s = .next s))
      ∧ (∀ f, headerFault k h = some f → exec (.blockHeaderEntry hdr) s = .next (s.takeFault f 0)))
  ∧ (∀ (s : State) (x : Ctx) (t : Task) (a : After), s.task? x.core.val x.slot.val = some t →
      let c := x.core.val
      let l := x.slot.val
      let k := x.stream
      let y := t.st k
      let owed := maskStreams k (pushMask y.hdr)
      y.phase = .draining a → a ≠ .yield →
      let goes := fun (s' : State) (sent : List Stream) => (∀ key b, s'.byteK key b = s.byteK key b) ∧ ∃ t', s'.task? c l = some t'
        ∧ t'.s = t.s ∧ t'.q = t.q ∧ t'.areg = t.areg ∧ t'.v = t.v
        ∧ (∀ j, t'.fifo k j = t.fifo k j ++ (if j ∈ sent then [newTok s t k] else []))
        ∧ (t'.st k).owed = []
        ∧ (t'.st k).phase = (match a with | .halt | .exit => .halted | _ => .atHeader)
        ∧ (t'.st k).wait = (match a with | .wait w => some w | .header => none | _ => y.wait)
        ∧ (t'.exiting = (t.exiting || decide (a = .exit)))
      (y.owed = [] → y.faulted = false → effectsDone s t k y.blkId = true → (∀ j ∈ owed, (t.fifo k j).length < 15) →
        ∃ s', exec (.blockComplete x) s = .next s' ∧ goes s' owed ∧ (s'.core c).engine k ≠ some l)
      ∧ (y.owed = [] → effectsDone s t k y.blkId = false → exec (.blockComplete x) s = .next s)
      ∧ (y.owed ≠ [] → y.owed.Nodup → (∀ j ∈ y.owed, (t.fifo k j).length < 15) →
        ∃ s', exec (.tokenPushDeferred x) s = .next s' ∧ goes s' y.owed))


/-! ## Scalar memory accesses (spec/04 R107-R116, spec/16) -/

namespace Sys2Proof.Claim

/-- The effective address of format SM (R107). -/
def smEa (b : Word64) (off : BitVec 9) (n : Nat) : Word64 := BitVec.ofInt 64 ((b.toNat : Int) + off.toInt * n)

/-- An aligned access of n bytes that passes Table 4-7 for the issuing task and reaches pa on the page l; a page keeps the
alignment of an address. -/
def Reaches (s : State) (t : Task) (va : Word64) (n : Nat) (acc : AccKind) (l : Leaf) (pa : Nat) : Prop :=
  s.curTask = some t ∧ s.cur.stream = .s ∧ va.toNat % n = 0 ∧ pa % n = 0 ∧ xlate s s.curDie t.pav va.toNat acc = .ok l pa

/-- A page of class PRIV or RSHR. -/
def Cached (l : Leaf) : Prop := l.cls = .priv ∨ l.cls = .rshr

/-- The line of an address as the issuing core finds it: in its L1, in its die's DLC, in memory (R332). -/
def lineHere (s : State) (t : Task) (l : Leaf) (pa : Nat) : CLine :=
  match lineFind s.curCore.l1 l.key (lineOf pa) false with
  | some x => x
  | none => dlcLine s s.curDie t.pav l.key (lineOf pa)

/-- The result of a load of n bytes w (R107). -/
def extended (sx : Bool) (n w : Nat) : Word64 :=
  if sx && decide (2 ^ (8 * n - 1) ≤ w) then BitVec.ofInt 64 ((w : Int) - 2 ^ (8 * n)) else BitVec.ofNat 64 w

/-- The issuing task after a result v that the core's caches give (R88, R91, R92): of a line in the L1 it stands in Q1 and the named
register at once, in flight for its latency `lat`; of a line in the DLC alone (`none`) its entry is reserved until it arrives. Every
other register, queue entry, A, vector and mask register is as before, and so is every other task. -/
def GotResult (s s' : State) (t : Task) (d : SDst) (v : Word64) (lat : Option Nat) (len : Nat := 2) : Prop :=
  let old := match d with
    | .s r => t.sreg r.val
    | .none => 0
  let flies := match lat with
    | some n => SRes.fixed v old (s.cyc + BitVec.ofNat 64 n)
    | none => SRes.value v
  (∃ t' tag, s'.curTask = some t' ∧ s.nextId ≤ tag ∧ t'.q = (if lat.isSome then v else 0) :: t.q.take 15
    ∧ (∀ r : Fin 16, t'.sreg r.val = if d = .s r ∧ lat.isSome = true then v else t.sreg r.val)
    ∧ t'.pend.map (fun p => (p.tag, p.dst, p.res)) = t.pend.map (fun p => (p.tag, p.dst, p.res)) ++ [(tag, d, flies)]
    ∧ t'.pend.getLast?.map (·.qpos) = some (some 0)
    ∧ t'.st .s = (t.st .s).advance len
    ∧ { t' with s := t.s, q := t.q, pend := t.pend, strm := t.strm, rdts := t.rdts } = t)
  ∧ (∀ c l, (c, l) ≠ (s.cur.core.val, s.cur.slot.val) → s'.task? c l = s.task? c l)

/-- The issuing task after a result v that is known at issue: Q1, the named register and the S context; every other
register, queue entry, A, vector and mask register is as before, and so is every other task. -/
def GotStatus (s s' : State) (t : Task) (d : SDst) (v : Word64) (len : Nat := 2) : Prop :=
  (∃ t', s'.curTask = some t' ∧ t'.q = v :: t.q.take 15
    ∧ (∀ r : Fin 16, t'.sreg r.val = if d = .s r then v else t.sreg r.val)
    ∧ t'.pend.map (fun p => (p.tag, p.dst, p.res)) = t.pend.map (fun p => (p.tag, p.dst, p.res))
    ∧ t'.st .s = (t.st .s).advance len
    ∧ { t' with s := t.s, q := t.q, pend := t.pend, strm := t.strm } = t)
  ∧ (∀ c l, (c, l) ≠ (s.cur.core.val, s.cur.slot.val) → s'.task? c l = s.task? c l)

/-- The issuing task after an access that gives no result at issue: only its S context has moved on. -/
def MovedOn (s s' : State) (t : Task) (len : Nat := 2) : Prop :=
  (∃ t', s'.curTask = some t' ∧ t'.st .s = (t.st .s).advance len ∧ { t' with strm := t.strm } = t)
  ∧ (∀ c l, (c, l) ≠ (s.cur.core.val, s.cur.slot.val) → s'.task? c l = s.task? c l)

/-- The issuing task after an access whose result comes later: an entry is reserved at Q1 and in the list of results in
flight (R88); no register changes. -/
def Reserved (s s' : State) (t : Task) (d : SDst) (acq : Bool) (len : Nat := 2) : Prop :=
  (∃ t' p, s'.curTask = some t' ∧ t'.q = 0 :: t.q.take 15 ∧ t'.s = t.s ∧ t'.st .s = (t.st .s).advance len
    ∧ t'.pend.getLast? = some p ∧ p.tag = s.nextId ∧ p.dst = d ∧ p.qpos = some 0 ∧ p.acq = acq ∧ p.res = .waiting
    ∧ p.iaddr = (t.st .s).pc
    ∧ t'.pend.map (·.tag) = t.pend.map (·.tag) ++ [s.nextId]
    ∧ { t' with q := t.q, pend := t.pend, strm := t.strm } = t)
  ∧ (∀ c l, (c, l) ≠ (s.cur.core.val, s.cur.slot.val) → s'.task? c l = s.task? c l)

/-- A request of kind k for an access has been sent to the home of pa, or stands held behind others of its line, with a fresh number;
every other request stands. -/
def Sent (s s' : State) (t : Task) (l : Leaf) (pa : Nat) (sc : Scope) (k : ReqKind) (stage : ReqStage := .sent) : Prop :=
  (∃ r, mfind s.nextId s'.reqs = some r ∧ r.kind = k ∧ r.pa = pa ∧ r.cls = l.cls ∧ r.key = l.key ∧ r.scope = sc
    ∧ r.stage = stage ∧ r.ctx = s.cur ∧ r.task = t.taskid)
  ∧ (∀ j, j ≠ s.nextId → mfind j s'.reqs = mfind j s.reqs)

/-- No byte of memory changes, nor under which key it was written. -/
def SameBytes (s s' : State) : Prop :=
  (∀ a, memRead a s'.mem = memRead a s.mem) ∧ ∀ key a, s'.byteK key a = s.byteK key a

/-- A PRIV or RSHR page whose line the core finds whole in its caches (R332). -/
def InCaches (s : State) (l : Leaf) (pa : Nat) : Prop := privHit s s.cur.core.val l.key (lineOf pa) = true

/-- An access asks memory for its line: a COH or DEV page, a DEV access with nothing outstanding (R335), or a PRIV or RSHR line that
the caches do not hold. -/
def Asks (s : State) (t : Task) (l : Leaf) (pa : Nat) : Prop :=
  (Cached l ∧ ¬ InCaches s l pa) ∨ l.cls = .coh ∨ (l.cls = .dev ∧ sReqs s t = [] ∧ (s.devReady t).2 = true)

/-- Nothing that is pending holds a load, or a store, of the issuing task back (R112, R115, R226, R335, R412). -/
def Unheld (s : State) (t : Task) (load : Bool) (pa : Nat) : Prop :=
  heldBack s t load = false ∧ lineBusy s t pa = false

end Sys2Proof.Claim

/-- R88, R91, R92, R107, R110, R111, R332, R345, R335, R411: LD and LDACQ of a PRIV or RSHR line in the caches, or of a valid copy of a
COH line, take the bytes of that line, extended as the form says, which arrive 4 cycles later from the L1; of any other line they
reserve their result, and an entry for the answer, and send their request. No byte of memory changes. -/
def Obligations.LoadsComplete : Prop :=
  ∀ (s : State) (t : Task) (o : LoadOp) (acq : Bool) (l : Leaf) (pa : Nat), CanIssue s t [o.base] o.d →
    let n := o.size.bytes
    let i : Instr := if acq then .ldacq o else .ld o
    let value := fun (x : CLine) => extended o.sx n (field x.data (pa % 128) n)
    Reaches s t (smEa (t.src o.base) o.off n) n .read l pa → Unheld s t true pa →
    (Cached l → InCaches s l pa → (lineHere s t l pa).poison = false →
      ∃ s', exec i s = .next s' ∧ GotResult s s' t o.d (value (lineHere s t l pa)) (hitLat s l.key pa 4) ∧ SameBytes s s')
    ∧ (∀ x, l.cls = .coh → cohCopy s l.key pa = some x → x.poison = false →
      ∃ s', exec i s = .next s' ∧ GotResult s s' t o.d (value x) (some 4) ∧ SameBytes s s')
    ∧ (Asks s t l pa → (l.cls = .coh → cohCopy s l.key pa = none) → reasmFree s s.cur.core.val = true →
      ∃ s', exec i s = .next s' ∧ Reserved s s' t o.d acq ∧ Sent s s' t l pa .dev (.load n o.sx acq) ∧ SameBytes s s'
        ∧ (s'.core s.cur.core.val).reasm = mset (lowestFree s.curCore.reasm) (s.nextId, lineOf pa) s.curCore.reasm)

namespace Sys2Proof.Claim

/-- The state in which a store or an atomic is made: after the release actions that it has (Table 16-2). -/
def released (s : State) (t : Task) (sc : Option Scope) : State :=
  match sc with
  | some sc => s.releaseAt s.cur.core.val t sc
  | none => s

end Sys2Proof.Claim

/-- R108, R111, R332, R334, R365: ST and STREL of a PRIV line in the caches put the low bytes of the source into the core's line at
the physical address that the effective address reaches, dirty, and leave the line's other bytes; of any other line they send a
request with those bytes, which at a COH line waits, held, while the stream has an earlier one there (R339, R412). In memory nothing
changes yet. -/
def Obligations.StoresComplete : Prop :=
  ∀ (s : State) (t : Task) (o : StoreOp) (rel : Bool) (l : Leaf) (pa : Nat), t.ready [o.src, o.base] = true →
    let n := o.size.bytes
    let i : Instr := if rel then .strel o else .st o
    let off := pa % 128
    let bs := bytesOf n (t.src o.src).toNat
    let s0 := released s t (if rel then some .dev else none)
    Reaches s t (smEa (t.src o.base) o.off n) n .store l pa → heldBack s t false = false → storeBusy s t l.cls pa = false → (sReqs s t).any Req.loads = false →
    (rel = true → releaseReady s t .dev = true) →
    (l.cls = .priv → InCaches s0 l pa →
      ∃ s' x, exec i s = .next s' ∧ MovedOn s s' t ∧ lineFind (s'.core s.cur.core.val).l1 l.key (lineOf pa) false = some x
        ∧ (∀ j, j < 128 → x.data.getD j 0 =
            if off ≤ j ∧ j < off + n then bs.getD (j - off) 0 else (lineHere s0 t l pa).data.getD j 0)
        ∧ (∀ j, off ≤ j → j < off + n → x.dirty.getLsbD j = true)
        ∧ SameBytes s s')
    ∧ ((l.cls = .priv ∧ ¬ InCaches s0 l pa) ∨ l.cls = .coh ∨ (l.cls = .dev ∧ sReqs s t = [] ∧ (s.devReady t).2 = true) →
      ∃ s' mask data, exec i s = .next s' ∧ MovedOn s s' t ∧ Sent s0 s' t l pa .dev (.store mask data rel)
            (if l.cls = .coh ∧ ownLine s t pa = true then .held else .sent)
        ∧ (∀ j, j < 128 → mask.getLsbD j = decide (off ≤ j ∧ j < off + n))
        ∧ (∀ j, off ≤ j → j < off + n → data.getD j 0 = bs.getD (j - off) 0)
        ∧ SameBytes s s')

namespace Sys2Proof.Claim

/-- What an AMO writes over old, of n bytes (R113). -/
def amoResult (op : AmoOp) (n old v : Nat) : Nat :=
  let w : Int := 2 ^ (8 * n)
  let sg := fun (x : Nat) => if 2 * (x : Int) < w then (x : Int) else (x : Int) - w
  match op with
  | .add => (old + v) % 2 ^ (8 * n)
  | .and => old &&& v
  | .or => old ||| v
  | .xor => old ^^^ v
  | .min => if sg v < sg old then v else old
  | .max => if sg old < sg v then v else old
  | .minu => min v old
  | .maxu => max v old
  | .swap => v

/-- The nine AMO instructions with their operations (Table 2-15). -/
def amos (o : AmoF) : List (AmoOp × Instr) :=
  [(.add, .amoadd o), (.and, .amoand o), (.or, .amoor o), (.xor, .amoxor o), (.min, .amomin o), (.max, .amomax o),
   (.minu, .amominu o), (.maxu, .amomaxu o), (.swap, .amoswap o)]

/-- The access size of an atomic. -/
def atomBytes (o : AmoF) : Nat := if o.dword then 8 else 4

/-- What holds an atomic back: nothing (R115, R335, R412). -/
def AtomicFree (s : State) (t : Task) (sc : Scope) (pa : Nat) : Prop :=
  Unheld s t true pa ∧ heldBack s t false = false ∧ (sReqs s t).any Req.loads = false ∧ releaseReady s t sc = true

end Sys2Proof.Claim

/-- R113 to R116, R334: the AMOs and CAS of a PRIV line in the caches return the old word or dword, a word sign-extended, 6 cycles
later where the line is in the L1 (R92); an AMO
leaves in the core's line the value of the operation, as does a CAS that finds its comparand, and at task and core scope a CAS that
finds another value leaves that. Of any other line they reserve their result and send their request to the home. -/
def Obligations.AtomicsIssue : Prop :=
  ∀ (s : State) (t : Task) (o : AmoF) (l : Leaf) (pa : Nat),
    let n := atomBytes o
    let s0 := released s t (some o.scope)
    let old := field (lineHere s0 t l pa).data (pa % 128) n
    let v := (t.src o.val).toNat % 2 ^ (8 * n)
    Reaches s t (t.src o.addr) n .store l pa → AtomicFree s t o.scope pa →
    let here := l.cls = .priv ∧ InCaches s0 l pa ∧ (lineHere s0 t l pa).poison = false
    let away := (l.cls = .priv ∧ ¬ InCaches s0 l pa) ∨ l.cls = .coh ∨ (l.cls = .dev ∧ sReqs s t = [] ∧ (s.devReady t).2 = true)
    let inLine := fun (i : Instr) (len : Nat) (new : Option Nat) =>
      ∃ s', exec i s = .next s' ∧ GotResult s s' t o.d (extended (!o.dword) n old) (hitLat s0 l.key pa 6) len
        ∧ (∀ w, new = some w → ∃ x, lineFind (s'.core s.cur.core.val).l1 l.key (lineOf pa) false = some x
            ∧ field x.data (pa % 128) n = w)
    let asked := fun (i : Instr) (len : Nat) (k : ReqKind) =>
      ∃ s', exec i s = .next s' ∧ Reserved s0 s' t o.d true len ∧ Sent s0 s' t l pa o.scope k
    (CanIssue s t [o.addr, o.val] o.d → ∀ p ∈ amos o,
      (here → inLine p.2 2 (some (amoResult p.1 n old v))) ∧ (away → asked p.2 2 (.amo p.1 n (BitVec.ofNat 64 v))))
    ∧ (∀ cmp : SSrc, CanIssue s t [o.addr, o.val, cmp] o.d →
      let c := (t.src cmp).toNat % 2 ^ (8 * n)
      (here → inLine (.cas o cmp) 3 (if old = c then some v else if scopeNum o.scope < 2 then some old else none))
      ∧ (away → asked (.cas o cmp) 3 (.cas n (BitVec.ofNat 64 c) (BitVec.ofNat 64 v))))

/-- R90, R91: an S instruction of the ALU group waits, with no effect, while a source or its destination awaits an earlier
result or eight results are in flight, and a division while the divider is busy. R109: the checks of Table 4-7 on LD, ST and AMOs, in their order; the one that fails
takes its fault, at the address. -/
def Obligations.ScalarHazardsAndAccessChecks : Prop :=
  (∀ (s : State) (t : Task), s.curTask = some t →
      (∀ o : Alu, (t.ready [o.a, o.b] && t.dstReady o.d && t.canPend) = false →
        exec (.add o) s = .next s ∧ exec (.sub o) s = .next s ∧ exec (.mul o) s = .next s ∧ exec (.div o) s = .next s
        ∧ exec (.seq o) s = .next s)
      ∧ (∀ o : Alu, s.cyc.toNat < s.curCore.divAt.toNat →
        exec (.div o) s = .next s ∧ exec (.divu o) s = .next s ∧ exec (.rem o) s = .next s ∧ exec (.remu o) s = .next s)
      ∧ (∀ o : LoadOp, (t.ready [o.base] && t.dstReady o.d) = false → exec (.ld o) s = .next s ∧ exec (.ldacq o) s = .next s)
      ∧ (∀ o : StoreOp, t.ready [o.src, o.base] = false → exec (.st o) s = .next s ∧ exec (.strel o) s = .next s)
      ∧ (∀ o : CmpBr, t.ready [o.a, o.b] = false → exec (.beq o) s = .next s ∧ exec (.bltu o) s = .next s))
  ∧ (∀ (s : State) (t : Task), s.curTask = some t →
      let does := fun (i : Instr) (va : Word64) (n : Nat) (acc : AccKind) =>
        (va.toNat % n ≠ 0 → exec i s = .next (s.takeFault fAlign va))
        ∧ (∀ c, va.toNat % n = 0 → xlate s s.curDie t.pav va.toNat acc = .bad c → exec i s = .next (s.takeMemFault c va.toNat))
      (∀ o : LoadOp, CanIssue s t [o.base] o.d →
        does (.ld o) (smEa (t.src o.base) o.off o.size.bytes) o.size.bytes .read
        ∧ does (.ldacq o) (smEa (t.src o.base) o.off o.size.bytes) o.size.bytes .read)
      ∧ (∀ o : StoreOp, t.ready [o.src, o.base] = true →
        does (.st o) (smEa (t.src o.base) o.off o.size.bytes) o.size.bytes .store
        ∧ does (.strel o) (smEa (t.src o.base) o.off o.size.bytes) o.size.bytes .store)
      ∧ (∀ o : AmoF, CanIssue s t [o.addr, o.val] o.d → ∀ p ∈ amos o, does p.2 (t.src o.addr) (atomBytes o) .store)
      ∧ (∀ (l : Leaf) (p : Pav) (acc : AccKind) (va : Nat),
        (acc = .read ∧ l.r = false ∨ acc ≠ .read ∧ l.w = false ∨ acc = .store ∧ l.cls = .rshr → leafCheck p acc va l = .bad fPerm)
        ∧ (¬ (acc = .read ∧ l.r = false ∨ acc ≠ .read ∧ l.w = false ∨ acc = .store ∧ l.cls = .rshr) → l.key ≠ p.key →
            l.key ∈ p.retired → leafCheck p acc va l = .bad fKeyRetired)))


/-- R222, R233, R236: SWINIT, BARR and JOIN check alignment, page and class, and send their request once all that they release
has been performed. -/
def Obligations.SyncRequestsAreSent : Prop :=
  ∀ (s : State) (t : Task) (a : SSrc) (l : Leaf) (pa : Nat), t.ready [a] = true →
    let va := t.src a
    let free := heldBack s t true = false ∧ heldBack s t false = false ∧ releaseReady s t .dev = true
    let does := fun (i : Instr) (align : Nat) (k : ReqKind) =>
      (Reaches s t va align .store l pa → l.cls = .coh → free → ∃ s', exec i s = .next s' ∧ MovedOn s s' t ∧ Sent (released s t (some .dev)) s' t l pa .dev k)
      ∧ (Reaches s t va align .store l pa → l.cls ≠ .coh → exec i s = .next (s.takeFault fSyncClass va))
      ∧ (s.curTask = some t → va.toNat % align ≠ 0 → exec i s = .next (s.takeFault fAlign va))
    (∀ b : SSrc, t.ready [b] = true → 1 ≤ (t.src b).toNat → (t.src b).toNat < 2 ^ 36 →
      does (.swinit a b) 16 (.swinit (t.src b).toNat))
    ∧ does (.barr a) 16 (.swadd 1)
    ∧ does (.join a) 64 (.join t.pav t.cr.region.toNat t.cr.lacct)

namespace Sys2Proof.Claim

/-- The request r of number id, of a COH or DEV page, stands at its home, not yet performed; the stack has served it, and no DEV
access of its stream stands before it. -/
def AtHome (s : State) (id : Nat) (r : Req) : Prop :=
  mfind id s.reqs = some r ∧ r.stage = .sent ∧ atDram s id = false ∧ Memory.wf s.mem = true
    ∧ (r.cls = .coh ∨ (r.cls = .dev ∧ devBehind s id r = false))

/-- Memory after a write of the bytes that a mask names of one line, and nothing else. -/
def LineWritten (s s' : State) (r : Req) (mask : BitVec 128) (data : List Byte) : Prop :=
  ∀ a, memRead a s'.mem =
    if a / 128 = lineOf r.pa ∧ mask.getLsbD (a % 128) = true then data.getD (a % 128) 0 else memRead a s.mem

/-- The home may give a write of a COH line its write time; a DEV access has none (R345, R348). -/
def MayWrite (s : State) (r : Req) (rel : Bool) : Prop := r.cls = .coh → beyondFloor s (reqTime s r rel) = false

/-- An n-byte value at the address of a request, and elsewhere what was there. -/
def ValueWritten (s s' : State) (r : Req) (n v : Nat) : Prop :=
  ∀ a, memRead a s'.mem =
    if r.pa ≤ a ∧ a < r.pa + n then (bytesOf n v).getD (a - r.pa) 0 else memRead a s.mem

end Sys2Proof.Claim

/-- R345, Table 16-3: at its home a load is answered with the line and, on a COH page, its times; a store writes exactly the
bytes that its mask names. R113, R114, R236, R354: at its home an AMO, a CAS, a SWINIT or an addition to a sync word reads
the old value and writes the new one in one step, and nothing else. R332: a request of a PRIV or RSHR line brings the whole line into
the DLC of its die, for its core to use. -/
def Obligations.HomesPerformLoadsStoresAndAtomics : Prop :=
  (∀ (s : State) (id : Nat) (r : Req), AtHome s id r →
      (∀ n sx acq, r.kind = .load n sx acq ∨ (∃ k, r.kind = .desc k) →
        let h := s.home (homeOf r.pa)
        let lease := match s.taskOf r with | some t => t.lease.toNat | none => 1
        let ts := if r.cls = .coh then loadTime h s.dev.floor (lineOf r.pa) r.lt lease else (0, 0)
        (r.cls = .coh → beyondFloor s ts.2 = false) →
        ∃ s', exec (.homeLoad id) s = .next s' ∧ SameBytes s s' ∧ s'.cores = s.cores
          ∧ (let st : ReqStage := .done (s.bytesK r.key (128 * lineOf r.pa) 128) ts.1 ts.2 (decide (lineOf r.pa ∈ s.poison))
             mfind id s'.reqs = some { r with stage := st }))
      ∧ (∀ mask data rel, r.kind = .store mask data rel → MayWrite s r rel →
        ∃ s' line w p, exec (.homeStore id) s = .next s' ∧ LineWritten s s' r mask data ∧ s'.cores = s.cores
          ∧ mfind id s'.reqs = some { r with stage := .done line w w p } ∧ (r.cls = .coh → w = reqTime s r rel)))
  ∧ (∀ (s : State) (id : Nat) (r : Req), AtHome s id r → MayWrite s r true →
      let bytes := fun (n : Nat) => slice (s.bytesK r.key (128 * lineOf r.pa) 128) (r.pa % 128) n
      let does := fun (i : Instr) (n new : Nat) => r.pa % 128 + n ≤ 128 →
        ∃ s' v w p, exec i s = .next s' ∧ ValueWritten s s' r n new ∧ s'.cores = s.cores
          ∧ mfind id s'.reqs = some { r with stage := .done v w w p } ∧ v.take n = bytes n
      (∀ op n v, r.kind = .amo op n v → (n = 4 ∨ n = 8) → v.toNat < 2 ^ (8 * n) → does (.homeAtomic id) n (amoResult op n (natOf (bytes n)) v.toNat))
      ∧ (∀ n c v, r.kind = .cas n c v → natOf (bytes n) = c.toNat → does (.homeAtomic id) n v.toNat)
      ∧ (∀ n c v, r.kind = .cas n c v → natOf (bytes n) ≠ c.toNat →
        ∃ s' u w p, exec (.homeAtomic id) s = .next s' ∧ (∀ a, memRead a s'.mem = memRead a s.mem)
          ∧ mfind id s'.reqs = some { r with stage := .done u w w p } ∧ u.take n = bytes n)
      ∧ (∀ n, r.kind = .swinit n → n < 2 ^ 36 → does (.homeAtomic id) 16
          (let w := natOf (bytes 16)
           n + w / 2 ^ 72 % 2 ^ 32 * 2 ^ 72 + w / 2 ^ 105 % 2 ^ 23 * 2 ^ 105))
      ∧ (∀ n, r.kind = .swadd n → does (.syncWordAdd id) 16
          (let w := natOf (bytes 16)
           let target := w % 2 ^ 36
           let sum := w / 2 ^ 36 % 2 ^ 36 + n
           let gen := w / 2 ^ 72 % 2 ^ 32
           let ovf := w / 2 ^ 104 % 2
           let rest := w / 2 ^ 105 % 2 ^ 23
           if target ≠ 0 ∧ target ≤ sum then
             target + min (sum - target) (2 ^ 36 - 1) * 2 ^ 36 + (gen + 1) % 2 ^ 32 * 2 ^ 72
               + (if ovf = 1 ∨ target < sum then 1 else 0) * 2 ^ 104 + rest * 2 ^ 105
           else
             target + min sum (2 ^ 36 - 1) * 2 ^ 36 + gen * 2 ^ 72
               + (if ovf = 1 ∨ 2 ^ 36 ≤ sum then 1 else 0) * 2 ^ 104 + rest * 2 ^ 105)))
  ∧ (∀ (s : State) (id : Nat) (r : Req), mfind id s.reqs = some r → r.stage = .sent → atDram s id = false →
      (r.cls = .priv ∨ r.cls = .rshr) → ∀ i ∈ [Instr.homeLoad id, .homeStore id, .homeAtomic id],
        ∃ s', exec i s = .next s' ∧ SameBytes s s' ∧ mfind id s'.reqs = some { r with stage := .done [] 0 0 false }
          ∧ privHit s' r.ctx.core.val r.key (lineOf r.pa) = true)


/-- R233, Table 16-3, R345: a JOIN at its home takes one from a counter that is not 0, leaves one that is 0, and submits the
record at 0x20 exactly when the counter reaches 0; STORE_ACK ends a request, raises LTIME and RELTS to its write time, and a
JOIN of a counter of 0 sets JOINU, the report of a dropped notification NOTIFD (R424). R88, R93, R227: a result in flight arrives at its queue position, if it still has one, and
in its register, and nowhere else; a poisoned one also raises DATA_LOSS. R354, R356, R358, R222: a page walk that finds a
leaf puts it into its die's translation cache, one that finds none is kept as failed, and the report of a generation that
satisfies a WAIT is observed. -/
def Obligations.JoinsResultsWalksAndReports : Prop :=
  (∀ (s : State) (id : Nat) (r : Req),
      (∀ pav region acct, AtHome s id r → MayWrite s r true → r.kind = .join pav region acct → r.pa % 64 = 0 →
        let n := natOf (slice (s.bytesK r.key (128 * lineOf r.pa) 128) (r.pa % 128) 8)
        (2 ≤ n → ∃ s', exec (.joinAtHome id) s = .next s' ∧ ValueWritten s s' r 8 (n - 1) ∧ s'.crsubs = s.crsubs)
        ∧ (n = 1 → ∃ s' x, exec (.joinAtHome id) s = .next s' ∧ ValueWritten s s' r 8 0 ∧ mfind s.nextId s'.crsubs = some x
            ∧ x.pav = pav ∧ x.acct = some acct ∧ x.rec_ = s'.bytesK r.key (r.pa + 0x20) 32)
        ∧ (n = 0 → ∃ s', exec (.joinAtHome id) s = .next s' ∧ (∀ a, memRead a s'.mem = memRead a s.mem) ∧ s'.crsubs = s.crsubs))
      ∧ (mfind id s.reqs = some r → s.come id (lineOf r.pa) = false → exec (.storeAck id) s = .next s)
      ∧ (∀ v w u p t, mfind id s.reqs = some r → r.stage = .done v w u p → r.cls = .coh → s.come id (lineOf r.pa) = true →
        s.task? r.ctx.core.val r.ctx.slot.val = some t → t.taskid = r.task →
        (∃ mask data rel, r.kind = .store mask data rel) ∨ (∃ n, r.kind = .swadd n) ∨ (∃ n, r.kind = .swinit n)
          ∨ (∃ a b c, r.kind = .join a b c) →
        ∃ s' t', exec (.storeAck id) s = .next s' ∧ mfind id s'.reqs = none ∧ SameBytes s s'
          ∧ s'.task? r.ctx.core.val r.ctx.slot.val = some t' ∧ t'.relts = tmax w t.relts ∧ t'.s = t.s ∧ t'.q = t.q
          ∧ (s'.core r.ctx.core.val).ltime = (if later 32 w.toNat (s.core r.ctx.core.val).ltime.toNat then w
              else (s.core r.ctx.core.val).ltime)
          ∧ (t'.status.getLsbD 3 = (t.status.getLsbD 3 || (match r.kind with | .join .. => decide (natOf (v.take 8) = 0) | _ => false)))))
  ∧ (∀ (s : State) (id : Nat) (r : Req) (v : List Byte) (w u : Word32) (p : Bool) (t : Task), mfind id s.reqs = some r →
        r.stage = .done v w u p → r.cls = .coh → r.kind = .notifD → s.come id (lineOf r.pa) = true → s.task? r.ctx.core.val r.ctx.slot.val = some t → t.taskid = r.task →
        ∃ s' t', exec (.storeAck id) s = .next s' ∧ mfind id s'.reqs = none ∧ SameBytes s s'
          ∧ s'.task? r.ctx.core.val r.ctx.slot.val = some t' ∧ t'.status = t.status ||| 0x10 ∧ t'.s = t.s ∧ t'.q = t.q)
  ∧ ((∀ (s : State) (core : CoreId) (slot : SlotId) (tag : Nat) (t : Task) (p : SPend),
        s.task? core.val slot.val = some t → t.pend.find? (fun x => x.tag = tag) = some p → t.q.length = 16 →
        (∀ n, p.qpos = some n → n < 16) →
        let arrives := fun (v : Word64) => ∃ s' t', exec (.scalarResultArrival core slot tag) s = .next s'
          ∧ s'.task? core.val slot.val = some t'
          ∧ (∀ i, i < 16 → t'.q.getD i 0 = if p.qpos = some i then v else t.q.getD i 0)
          ∧ (∀ r : Fin 16, t'.sreg r.val = if p.dst = .s r then v else t.sreg r.val)
          ∧ (∀ x, x ∈ t'.pend ↔ x ∈ t.pend ∧ x.tag ≠ tag) ∧ t'.strm = t.strm
        (∀ v, p.res = .value v → arrives v)
        ∧ (∀ r, p.res = .waiting → mfind tag s.reqs = some r → s.come tag (lineOf r.pa) = false →
            exec (.scalarResultArrival core slot tag) s = .next s)
        ∧ (∀ r v w u, p.res = .waiting → mfind tag s.reqs = some r → r.stage = .done v w u false → r.cls = .dev →
            s.come tag (lineOf r.pa) = true → ∀ n sx, r.kind = .load n sx false → (r.pa % 128 + n ≤ 128) → arrives (extended sx n (field v (r.pa % 128) n)))
        ∧ (∀ v, p.res = .poisoned v → exec (.scalarResultArrival core slot tag) s =
            .next ((s.modTask core.val slot.val (fun u => u.arrive p v)).takeFaultOf core.val slot.val .s fDataLoss false 0 p.iaddr p.faddr [])))
    ∧ (∀ (s : State) (id : Nat) (w : Walk), mfind id s.walks = some w → w.failed = false →
        (∀ l ps, walk s w.pav (w.va * 4096) (s.die w.die).tc = some (l, ps) →
          ∃ s', exec (.translationWalkEnd id) s = .next s' ∧ .leaf w.pav l ∈ (s'.die w.die).tc ∧ mfind id s'.walks = none
            ∧ s'.mem = s.mem ∧ s'.cores = s.cores)
        ∧ (walk s w.pav (w.va * 4096) (s.die w.die).tc = none →
          exec (.translationWalkEnd id) s = .next { s with walks := mset id { w with failed := true } s.walks })
        ∧ (∀ (x : Ctx) (t : Task) (va : Word64) (pa : Nat) (g : Word32) (l : Leaf) (pa' : Nat),
          s.task? x.core.val x.slot.val = some t → (t.st x.stream).wait = some (.gen va pa g none) →
          xlateNow s (dieOf x.core.val) t.pav va.toNat .read = .ok l pa' →
          let now : Nat := natOf (s.bytesK l.key pa 16) / 2 ^ 72 % 2 ^ 32
          (((now : Int) - g.toNat) % 2 ^ 32 < 2 ^ 31 → ∃ s' t', exec (.generationReport x) s = .next s' ∧ SameBytes s s'
            ∧ s'.task? x.core.val x.slot.val = some t' ∧ (t'.st x.stream).wait = some (.gen va pa g (some s.cyc)))
          ∧ (2 ^ 31 ≤ ((now : Int) - g.toNat) % 2 ^ 32 → exec (.generationReport x) s = .next s))))


/-! ## System instructions, faults and returns from them (spec/08, spec/19) -/

/-- R226 to R228, R234, R235: FENCE and TFENCE reserve their status and let the stream go on; IFENCE with no fill of the
image in flight completes with 0; TDVER sets a slot's expected version; TDLD loads a slot from a line that the core has, and asks
for another one. R229, R231, R239, R240: SPAWN starts a halted stream at a header of its own; FORK and LAUNCH
submit the 32 bytes of their record and reserve their status; HNOTIFY posts to a queue that is set up and otherwise a report of the
drop comes, which sets NOTIFD (JoinsResultsWalksAndReports); TRAP stops the task with its code, to go on after it. -/
def Obligations.FencesSlotsTasksAndTraps : Prop :=
  (∀ (s : State) (t : Task), s.curTask = some t → s.cur.stream = .s →
      (∀ d : SDst, CanIssue s t [] d →
        let waits := fun (i : Instr) (res : SRes) => ∃ s' t' p, exec i s = .next s' ∧ s'.curTask = some t' ∧ t'.q = 0 :: t.q.take 15
          ∧ t'.s = t.s ∧ t'.st .s = (t.st .s).advance 2 ∧ t'.pend.getLast? = some p ∧ p.tag = s.nextId ∧ p.dst = d
          ∧ p.qpos = some 0 ∧ p.res = res ∧ SameBytes s s' ∧ s'.reqs = s.reqs
        (∀ sc k q r, waits (.fence sc k q r d) (.fence sc k q r none)) ∧ waits (.tfence d) .tfence
        ∧ ((∀ f ∈ s.curCore.filling, f.2 ≠ t.cr.image) → exec (.ifence d) s = wrote s d 0 2))
      ∧ (∀ (n : TSlot) (a : SSrc), t.ready [a] = true →
        exec (.tdver n a) s = .next ((s.modCur (fun u => { u with tver := mset n.val ((t.src a).setWidth 16) u.tver })).finish 2))
      ∧ (∀ (n : TSlot) (a : SSrc) (l : Leaf) (pa : Nat), t.ready [a] = true → Reaches s t (t.src a) 64 .read l pa → Unheld s t true pa →
        (∀ x, (Cached l ∧ InCaches s l pa ∧ x = lineHere s t l pa) ∨ (l.cls = .coh ∧ cohCopy s l.key pa = some x) → x.poison = false →
          ∃ s' t', exec (.tdld n a) s = .next s' ∧ s'.curTask = some t'
          ∧ mfind n.val t'.tslot = some (slice x.data (pa % 128) 64)
          ∧ (∀ m, m ≠ n.val → mfind m t'.tslot = mfind m t.tslot)
          ∧ t'.st .s = (t.st .s).advance 2 ∧ { t' with tslot := t.tslot, strm := t.strm, rdts := t.rdts } = t ∧ SameBytes s s')
        ∧ (Asks s t l pa → (l.cls = .coh → cohCopy s l.key pa = none) → reasmFree s s.cur.core.val = true →
          ∃ s', exec (.tdld n a) s = .next s' ∧ MovedOn s s' t ∧ Sent s s' t l pa .dev (.desc n.val) ∧ SameBytes s s')))
  ∧ (∀ (s : State) (t : Task), s.curTask = some t → s.cur.stream = .s →
      (∀ (k : Stream) (off : BitVec 22),
        let p : Int := s.curSt.pc.toNat + off.toInt
        let h := (s.curCore.parcel p.toNat).toNat
        0 ≤ p → p < 2 ^ 17 →
        (h / 2 ^ 14 = 3 → h / 2 ^ 12 % 4 = k.code → (t.st k).phase = .halted →
          exec (.spawn k off) s = .next ((s.modCur (fun u => u.modSt k (fun x => { x with
            pc := BitVec.ofInt 17 p, phase := .atHeader, spawned := true, since := s.cyc + 1, wait := none, l1 := none, l2 := none }))).finish 2))
        ∧ (h / 2 ^ 14 ≠ 3 → exec (.spawn k off) s = .next (s.takeFault fIllegalTarget 0))
        ∧ (h / 2 ^ 14 = 3 → h / 2 ^ 12 % 4 ≠ k.code → exec (.spawn k off) s = .next (s.takeFault fIllegalStream 0))
        ∧ (h / 2 ^ 14 = 3 → h / 2 ^ 12 % 4 = k.code → (t.st k).phase ≠ .halted →
          exec (.spawn k off) s = .next (s.takeFault fIllegalOperand 0)))
      ∧ (∀ (d : SDst) (a : SSrc) (l : Leaf) (pa : Nat), CanIssue s t [a] d → Reaches s t (t.src a) 32 .read l pa →
        heldBack s t true = false → releaseReady s t .dev = true → lineWaits s pa = false →
        let s0 := (released s t (some .dev)).settle (fun r => r.pa = pa / 128 * 128)
        lineOf pa ∉ s0.poison →
        (∃ s' x, exec (.fork d a) s = .next s' ∧ Reserved s0 s' t d false ∧ mfind s0.nextId s'.crsubs = some x
          ∧ x.pav = t.pav ∧ x.rec_ = s0.bytesK l.key pa 32 ∧ x.src = .fork s.cur s0.nextId ∧ x.acct = some t.cr.lacct
          ∧ x.addr = (t.src a).toNat)
        ∧ (∃ s' x, exec (.launch d a) s = .next s' ∧ Reserved s0 s' t d false ∧ mfind s0.nextId s'.crsubs = some x
          ∧ x.pav = t.pav ∧ x.rec_ = s0.bytesK l.key pa 32 ∧ x.src = .launch s.cur s0.nextId 0 ∧ x.acct = none
          ∧ x.addr = (t.src a).toNat))
      ∧ (∀ (a b : SSrc) (p : Pav), t.ready [a, b] = true → (t.src a).toNat < 256 → heldBack s t false = false →
        releaseReady s t .sys = true → s.pav? t.pav = some p →
        (∀ q, mfind (t.src a).toNat p.nqs = some q → q.vals.length < 256 → ∃ s' p' q', exec (.hnotify a b) s = .next s'
          ∧ MovedOn s s' t ∧ s'.pav? t.pav = some p' ∧ mfind (t.src a).toNat p'.nqs = some q' ∧ q'.vals = q.vals ++ [(t.src b, s.cyc)])
        ∧ (mfind (t.src a).toNat p.nqs = none → ∃ s' r, exec (.hnotify a b) s = .next s' ∧ MovedOn s s' t
          ∧ mfind (released s t (some .sys)).nextId s'.reqs = some r ∧ r.kind = .notifD ∧ r.task = t.taskid ∧ r.ctx = s.cur
          ∧ s'.pavs = s.pavs))
      ∧ (∀ code : BitVec 16, exec (.trap code) s =
          .next ((s.modCur (fun u => { u with skipTo := some (s.curSt.pc + 2) })).takeFaultOf s.cur.core.val s.cur.slot.val .s fTrapSw
            true code.toNat s.curSt.pc 0 [])))


/-- R237, R415: a remote load, store or atomic with a good address and nothing held sends its operation to its own node or out
of the port that its route gives (one whose route fails gets the code of that as its result), with its token, offset and pavilion; a nonzero address bit 63:59 raises ILLEGAL_OPERAND and a
misaligned offset ALIGN_FAULT. -/
def Obligations.RemoteOperationsAreSent : Prop :=
  ∀ (s : State) (t : Task) (o : AmoF) (tok : SSrc), s.curTask = some t → s.cur.stream = .s →
    let a := (t.src o.addr).toNat
    let n := atomBytes o
    let off := a % 2 ^ 36
    let s0 := released s t (some o.scope)
    let node := a / 2 ^ 36 % 2 ^ 16
    let free := heldBack s t true = false ∧ heldBack s t false = false ∧ (sReqs s t).any Req.loads = false
      ∧ releaseReady s t o.scope = true ∧ t.canPend = true
    let does := fun (i : Instr) (d : Option SDst) (k : RemoteKind) =>
      (a < 2 ^ 59 → a % n = 0 → free → ∀ p, (routeFor s0 t.pav node off = .here ∧ p = none
          ∨ ∃ m, routeFor s0 t.pav node off = .out m ∧ p = some m) →
        ∃ s' r, exec i s = .next s' ∧ mfind s0.nextId s'.rops = some r ∧ r.req.kind = k ∧ r.req.off = off ∧ r.req.token = t.src tok
          ∧ r.req.tpav.val = a / 2 ^ 52 % 2 ^ 7 ∧ r.node = node ∧ r.port = p ∧ r.owner = .scalar s.cur s0.nextId
          ∧ r.scope = o.scope ∧ (match d with | some d => Reserved s0 s' t d true 3 | none => MovedOn s s' t 3))
      ∧ (a < 2 ^ 59 → a % n = 0 → free → ∀ c dst, routeFor s0 t.pav node off = .fail c → d = some dst →
        ∃ s' t' x, exec i s = .next s' ∧ s'.curTask = some t' ∧ t'.pend.getLast? = some x ∧ x.dst = dst ∧ x.res = .remote c
          ∧ t'.s = t.s ∧ s'.rops = s.rops)
      ∧ (2 ^ 59 ≤ a → exec i s = .next (s.takeFault fIllegalOperand (t.src o.addr)))
      ∧ (a < 2 ^ 59 → a % n ≠ 0 → exec i s = .next (s.takeFault fAlign (t.src o.addr)))
    (t.ready [o.addr, tok] = true → t.dstReady o.d = true → does (.rld o.d o.addr o.dword o.scope tok) (some o.d) (.load o.dword))
    ∧ (t.ready [o.addr, o.val, tok] = true → does (.rst o.addr o.val o.dword o.scope tok) none (.store o.dword (t.src o.val)))
    ∧ (∀ op, t.ready [o.addr, o.val, tok] = true → t.dstReady o.d = true →
      does (.ramo op o tok) (some o.d) (.amo op o.dword (t.src o.val)))

/-- R374 to R376: TAKING A FAULT whose region has a valid queue and does not kill: the whole task stops where it stands, its
faulting stream marked at its instruction, with every register and its other state kept; the fault's cycle is kept once. -/
def Obligations.FaultStopsTheTask : Prop :=
  ∀ (s : State) (c l : Nat) (k : Stream) (code : BitVec 8) (pr : Bool) (aux : Nat) (ia : BitVec 17) (fa : Word64) (att : List Byte)
    (t : Task), s.task? c l = some t → (fqHead s t.pav t.eff.fq).isSome = true → t.eff.policy ≠ 0 →
    ∃ t', (s.takeFaultOf c l k code pr aux ia fa att).task? c l = some t' ∧ t'.stopped = true ∧ t'.fault = code ∧ t'.faddr = fa
      ∧ (t'.st k).faulted = true ∧ (t'.st k).pc = (t.st k).pc ∧ (∀ j, j ≠ k → t'.st j = t.st j)
      ∧ (t.stopped = false → t.saving = none → t'.stopAt = s.cyc)
      ∧ t'.s = t.s ∧ t'.q = t.q ∧ t'.pend = t.pend ∧ t'.areg = t.areg ∧ t'.v = t.v ∧ t'.k = t.k ∧ t'.status = t.status
      ∧ t'.tslot = t.tslot ∧ t'.tver = t.tver ∧ t'.bmap = t.bmap ∧ t'.mq = t.mq ∧ t'.toks = t.toks

namespace Sys2Proof.Claim

/-- No write-back of a cached line waits at a stack (R334, R360). -/
def NoWriteBacks (s : State) : Prop := ∀ m ∈ s.drams, ∀ q ∈ m.2.queues, ∀ r ∈ q.2, r.pay = none

end Sys2Proof.Claim

/-- R375, R376: a record with room in a queue that one cached page holds is written whole at HEAD mod CAP, HEAD goes up by one,
and, where no write-back waits, no other byte of memory changes. -/
def Obligations.FaultRecordIsQueued : Prop :=
  ∀ (s : State) (fq : Nat) (r : FRec) (h : FqHead) (p : Pav) (f : Leaf), fqHead s r.pav fq = some h → s.pav? r.pav = some p →
    (h.head + 2 ^ 32 - h.tail) % 2 ^ 32 < h.cap → Memory.wf s.mem = true → NoWriteBacks s →
    (∀ va, fq ≤ va → va < fq + 64 + 64 * h.cap → tcLeaf (s.die (bridgeDie r.pav)).tc r.pav va = some f) →
    (∀ va, leafCheck p .write va f = .ok f (f.pa + va % f.size)) → f.va % f.size = 0 → f.va ≤ fq →
    fq + 64 + 64 * h.cap ≤ f.va + f.size → f.va + f.size ≤ 2 ^ 48 →
    let base := f.pa + fq % f.size
    let slot := base + 64 + 64 * (h.head % h.cap)
    (s.writeRecord fq r).2 = true
    ∧ ∀ a, memRead a (s.writeRecord fq r).1.mem =
        if slot ≤ a ∧ a < slot + 64 then (r.bytes s.cyc).getD (a - slot) 0
        else if base + 4 ≤ a ∧ a < base + 8 then (bytesOf 4 (h.head + 1)).getD (a - base - 4) 0
        else memRead a s.mem

/-- R241, R242, R385: a SYSOP without the system-service flag raises PRIV_OP; with it RESUME of a stopped resident task lets it
go on, at the faulting instruction or after a TRAP, and answers 0, KILL of a named task ends it, and a name that fits no task
answers 0x04; a word whose b field is 0 names no b (log 62). -/
def Obligations.SysopsAndReturnFromFault : Prop :=
  ∀ (s : State) (t : Task) (d : SDst) (a b : SSrc), s.curTask = some t → s.cur.stream = .s →
    (t.eff.sysSvc = false →
      exec (.resume d a b) s = .next (s.takeFault fPrivOp 0) ∧ exec (.kill d a b) s = .next (s.takeFault fPrivOp 0)
      ∧ exec (.rqrel d a b) s = .next (s.takeFault fPrivOp 0) ∧ exec (.tlbinv d a b) s = .next (s.takeFault fPrivOp 0)
      ∧ exec (.snaprd d a b) s = .next (s.takeFault fPrivOp 0) ∧ exec (.snapwr d a b) s = .next (s.takeFault fPrivOp 0)
      ∧ exec (.keyret d a b) s = .next (s.takeFault fPrivOp 0) ∧ exec (.grant d a b) s = .next (s.takeFault fPrivOp 0))
    ∧ (t.eff.sysSvc = true → CanIssue s t [a, b] d →
      (∀ c l u p, namedTask s t (t.src a) (zeroB b (t.src b)) = .resident c l u → s.task? c l = some u → u.stopped = true →
        (c, l) ≠ (s.cur.core.val, s.cur.slot.val) → s.pav? u.pav = some p → (∀ h ∈ p.heldRegions, h.2 ≠ u.taskid) →
        ∃ s' u', exec (.resume d a b) s = .next s' ∧ GotStatus (s.setTask c l u') s' t d 0
          ∧ s'.task? c l = some u' ∧ u'.stopped = false ∧ u'.fault = 0 ∧ (∀ k, (u'.st k).faulted = false)
          ∧ u'.s = u.s ∧ u'.q = u.q ∧ (u.skipTo = none → ∀ k, (u'.st k).pc = (u.st k).pc))
      ∧ (∀ c l u, namedTask s t (t.src a) (zeroB b (t.src b)) = .resident c l u → u.stopped = false →
        exec (.resume d a b) s = wrote s d 0x04 2)
      ∧ (namedTask s t (t.src a) (zeroB b (t.src b)) = .nowhere →
        exec (.resume d a b) s = wrote s d 0x04 2 ∧ exec (.kill d a b) s = wrote s d 0x04 2)
      ∧ (∀ c l u, namedTask s t (t.src a) (zeroB b (t.src b)) = .resident c l u → s.task? c l = some u →
        (c, l) ≠ (s.cur.core.val, s.cur.slot.val) → u.gangId = none → ∃ s', exec (.kill d a b) s = .next s' ∧ s'.task? c l = none))

/-- R243, R358, R417: TLBINV removes from every die the translations that its operands name and leaves the others; GRANT answers
the token of the window, rights, expiry, node and pavilion under the grant key of the issuer's pavilion. -/
def Obligations.TranslationInvalidationAndGrants : Prop :=
  ∀ (s : State) (t : Task) (d : SDst) (a b : SSrc), t.eff.sysSvc = true → s.cur.stream = .s → CanIssue s t [a, b] d →
    let w := (t.src b).toNat
    let x := (t.src a).toNat
    let size := [2 ^ 12, 2 ^ 16, 2 ^ 21, 2 ^ 30].getD (w % 4) 0
    let va := x / 4096 * 4096
    (let pav := if t.pav = 128 then w / 2 ^ 16 % 256 else t.pav
     (t.pav = 128 ∨ w / 2 ^ 16 % 256 = 0 ∨ w / 2 ^ 16 % 256 = t.pav) → ∃ s', exec (.tlbinv d a b) s = .next s' ∧ GotStatus s s' { t with inv := t.inv ++ [(pav, s.nextId)] } d 0
       ∧ SameBytes s s'
       ∧ ∀ e die, mfind die s.dies = some e → ∀ p l, .leaf p l ∈ (s'.die die).tc ↔ .leaf p l ∈ (s.die die).tc
          ∧ ¬ (p = pav ∧ (w / 4 % 2 = 1 ∨ (l.size = size ∧ l.va ≤ va ∧ va < l.va + l.size))))
    ∧ (∀ p, s.pav? t.pav = some p → t.pav ≠ 128 → x < 2 ^ 32 → w < 2 ^ 23 → 1 ≤ x / 2 ^ 16 % 2 ^ 16 → x / 2 ^ 16 % 2 ^ 16 ≤ 32767 →
      (grantWindow s t.pav (x % 2 ^ 12)).isSome = true →
      let win := x % 2 ^ 12
      let rights := x / 2 ^ 12 % 2 ^ 4
      let exp := (s.cyc.toNat / 2 ^ 20 + x / 2 ^ 16 % 2 ^ 16) % 2 ^ 16
      let msg := bytesOf 8 (win + rights * 2 ^ 12 + exp * 2 ^ 16 + w % 2 ^ 16 * 2 ^ 32 + w / 2 ^ 16 % 2 ^ 7 * 2 ^ 48)
      exec (.grant d a b) s = wrote s d
        (BitVec.ofNat 64 (win * 2 ^ 52 + rights * 2 ^ 48 + exp * 2 ^ 32 + (sipHash p.grantKey msg).toNat % 2 ^ 32)) 2)


/-! ## Vector instructions (spec/05, spec/03) -/

namespace Sys2Proof.Claim

/-- Task t issues, its vector sources lie in its window and are full, its destinations lie there with no fill on its way
(R45, R120, R121). -/
def VecCan (s : State) (t : Task) (srcs : List VSrc) (dsts : List Nat) : Prop :=
  s.curTask = some t ∧ (∀ a ∈ srcs, t.inWindow a = true ∧ t.full a = true) ∧ ∀ d ∈ dsts, d < t.window ∧ t.filling d = false

/-- The outcome of a V instruction of n parcels whose result of `lat` cycles leaves register d with cells c, of which it writes
those that a mask names, and charges `ch` units: the charge is the task's, the stream moves on (R119, R122, R288). -/
def vecWrote (s : State) (d : VReg) (mask : BitVec 1024) (lat : Nat) (c : Cells) (ch n : Nat) : Out :=
  .next (((s.putV d mask lat c).chargeCur ch).finish n)

/-- Cell i of a vector source. -/
def cell (t : Task) (a : VSrc) (i : Nat) : Word32 := (t.vsrc a).getD i 0

/-- An instruction completes with 1,024 cells, each the new one where its mask bit is 1, and the old one or 0 where it is 0
(R118). -/
def VecDoes (s : State) (t : Task) (i : Instr) (d : VReg) (k : KReg) (zm : Bool) (lat ch n : Nat) (new : Nat → Word32) : Prop :=
  ∃ c : Cells, c.length = 1024
    ∧ (∀ j, j < 1024 → c.getD j 0 = if (t.kreg k.val).getLsbD j then new j else if zm then 0 else (t.vreg d.val).getD j 0)
    ∧ exec i s = vecWrote s d (if zm then BitVec.allOnes 1024 else t.kreg k.val) lat c ch n

/-- Every register of a task has its 1,024 cells. -/
def FullRegs (t : Task) : Prop := ∀ n, (t.vreg n).length = 1024

/-- The integer that a cell holds under an integer type, and the cell of an integer modulo the type's range (Table 3-2). -/
def intOf (ty : ETy) (c : Word32) : Int := if ty.signed then (c.setWidth ty.bits).toInt else ((c.setWidth ty.bits).toNat : Int)
def cellOf (ty : ETy) (x : Int) : Word32 :=
  if ty.signed then (BitVec.ofInt ty.bits x).signExtend 32 else (BitVec.ofInt ty.bits x).setWidth 32

/-- The pairwise tree of R136 over 2^n cells. -/
def tree (op : RedOp) (ty : ETy) : Nat → (Nat → Word32) → Word32
  | 0, f => f 0
  | n + 1, f => tree op ty n (fun i => redCell op ty (f (2 * i)) (f (2 * i + 1)))

end Sys2Proof.Claim

/-- R118 to R120, R124, R125, Tables 5-4 and 5-5: the floating vector operations give in each cell the exact result rounded
once to the element type, the fused ones too; the special functions round to F32 first. -/
def Obligations.VectorFloatResults : Prop :=
  (∀ (s : State) (t : Task) (o : V3), FullRegs t → VecCan s t [o.a, o.b] [o.d.val] →
    let x := fun (i : Nat) => cellNum o.ty (cell t o.a i)
    let y := fun (i : Nat) => cellNum o.ty (cell t o.b i)
    let z := fun (i : Nat) => cellNum o.ty (cell t (.v o.d) i)
    let does := fun (i : Instr) (lat : Nat) (r : Nat → FNum) =>
      VecDoes s t i o.d o.k o.zm lat 60 3 (fun j => numCell o.ty .rne (r j))
    does (.vadd o) 8 (fun i => (x i).add (y i)) ∧ does (.vsub o) 8 (fun i => (x i).add (y i).neg)
    ∧ does (.vmul o) 8 (fun i => (x i).mul (y i)) ∧ does (.vmin o) 8 (fun i => (x i).min (y i))
    ∧ does (.vmax o) 8 (fun i => (x i).max (y i))
    ∧ does (.vcpsgn o) 8 (fun i => (x i).withSign ((cell t o.b i).getLsbD 31))
    ∧ (t.full (.v o.d) = true →
      does (.vfma o) 10 (fun i => ((x i).mul (y i)).add (z i)) ∧ does (.vfms o) 10 (fun i => ((x i).mul (y i)).add (z i).neg)
      ∧ does (.vfnma o) 10 (fun i => ((x i).mul (y i)).neg.add (z i))))
  ∧ (∀ (s : State) (t : Task) (o : V3u), FullRegs t → VecCan s t [o.a] [o.d.val] →
    let x := fun (i : Nat) => cellNum o.ty (cell t o.a i)
    let does := fun (i : Instr) (lat : Nat) (r : Nat → Word32) => VecDoes s t i o.d o.k o.zm lat 60 3 r
    let special := fun (f : FNum → FNum) (i : Nat) =>
      if o.ty = .f32 then numCell .f32 .rne (f (x i)) else numCell o.ty .rne (cellNum .f32 (numCell .f32 .rne (f (x i))))
    does (.vabs o) 8 (fun i => numCell o.ty .rne ((x i).withSign false)) ∧ does (.vneg o) 8 (fun i => numCell o.ty .rne (x i).neg)
    ∧ does (.vrcp o) 16 (special rcpNum) ∧ does (.vsqrt o) 16 (special sqrtNum) ∧ does (.vrsqrt o) 16 (special rsqrtNum)
    ∧ does (.vexp2 o) 16 (special exp2Num) ∧ does (.vlog2 o) 16 (special log2Num))

/-- R64, R68, R70: in each floating format every number that a bit pattern holds converts back to that pattern under every
rounding mode, and NaN to the one canonical NaN. -/
def Obligations.RepresentableValuesRoundToThemselves : Prop :=
  ∀ (f : Fmt) (rm : RMode) (w : Nat), f = fmtF32 ∨ f = fmtBF16 ∨ f = fmtF16 → w < 2 ^ (f.eb + f.p) →
    (decodeF f w ≠ .nan → encodeF f rm (decodeF f w) = w) ∧ encodeF f rm .nan = (2 ^ (f.eb + 1) - 1) * 2 ^ (f.p - 2)
    ∧ decodeF f (encodeF f rm .nan) = .nan

/-- R118 to R120, R126, R127: the integer vector operations work on the values of the cells, wrapping or saturating; the
bitwise ones on all 32 bits, the shifts by the low five bits of their second source. -/
def Obligations.VectorIntegerResults : Prop :=
  ∀ (s : State) (t : Task) (o : V3), FullRegs t → VecCan s t [o.a, o.b] [o.d.val] →
    let a := fun (i : Nat) => cell t o.a i
    let b := fun (i : Nat) => cell t o.b i
    let x := fun (i : Nat) => intOf o.ty (a i)
    let y := fun (i : Nat) => intOf o.ty (b i)
    let does := fun (i : Instr) (r : Nat → Word32) => VecDoes s t i o.d o.k o.zm 4 60 3 r
    let num := fun (i : Instr) (lat : Nat) (r : Nat → Int) => VecDoes s t i o.d o.k o.zm lat 60 3 (fun j => cellOf o.ty (r j))
    (o.ty.isFloat = false →
      num (.viadd o) 6 (fun i => x i + y i) ∧ num (.visub o) 6 (fun i => x i - y i) ∧ num (.vimul o) 8 (fun i => x i * y i)
      ∧ num (.vimin o) 6 (fun i => min (x i) (y i)) ∧ num (.vimax o) 6 (fun i => max (x i) (y i))
      ∧ num (.vqadd o) 6 (fun i => max o.ty.lo (min (x i + y i) o.ty.hi))
      ∧ num (.vqsub o) 6 (fun i => max o.ty.lo (min (x i - y i) o.ty.hi))
      ∧ num (.vimulh o) 8 (fun i => x i * y i / 2 ^ o.ty.bits))
    ∧ does (.vand o) (fun i => a i &&& b i) ∧ does (.vor o) (fun i => a i ||| b i) ∧ does (.vxor o) (fun i => a i ^^^ b i)
    ∧ does (.vandn o) (fun i => a i &&& ~~~b i)
    ∧ does (.vshl o) (fun i => BitVec.ofNat 32 ((a i).toNat * 2 ^ ((b i).toNat % 32)))
    ∧ does (.vshr o) (fun i => BitVec.ofNat 32 ((a i).toNat / 2 ^ ((b i).toNat % 32)))
    ∧ does (.vsar o) (fun i => BitVec.ofInt 32 ((a i).toInt / 2 ^ ((b i).toNat % 32)))

/-- R118, R128 to R130, R149: VCMP and the mask operations, with K0 all ones whatever is written to it; VSEL; VFE. -/
def Obligations.VectorMasksAndSelection : Prop :=
  ∀ (s : State) (t : Task),
    (∀ (c : Cond) (d : KReg) (a b : VSrc) (ta tb : Bool) (k : KReg) (ty : ETy) (zm : Bool), VecCan s t [a, b] [] →
      ∃ s' t', exec (.vcmp c d a b ta tb k ty zm) s = .next s' ∧ s'.curTask = some t'
        ∧ (∀ j, j < 1024 → (t'.kreg d.val).getLsbD j = if d.val = 0 then true
            else if (t.kreg k.val).getLsbD j then cmpCell c ty (cell t a j) (cell t b j)
            else if zm then false else (t.kreg d.val).getLsbD j)
        ∧ (∀ m, m ≠ d.val → t'.kreg m = t.kreg m) ∧ t'.v = t.v ∧ t'.empty = t.empty ∧ s'.mem = s.mem
        ∧ (d.val ≠ 0 → ∃ f, t'.fly = t.fly ++ [f] ∧ f.dst = .k d.val ∧ f.old = .mask (t.kreg d.val)))
    ∧ (∀ (d : VReg) (a b : VSrc) (ta tb : Bool) (k : KReg), FullRegs t → VecCan s t [a, b] [d.val] →
      VecDoes s t (.vsel d a b ta tb k) d 0 false 4 60 3 (fun j => if (t.kreg k.val).getLsbD j then cell t a j else cell t b j))
    ∧ (s.curTask = some t → ∀ d a : KReg,
      let does := fun (i : Instr) (v : BitVec 1024) => exec i s = .next ((s.modCur (fun u => u.setK d.val v)).finish 2)
      does (.kand d a) (t.kreg d.val &&& t.kreg a.val) ∧ does (.kor d a) (t.kreg d.val ||| t.kreg a.val)
      ∧ does (.kxor d a) (t.kreg d.val ^^^ t.kreg a.val) ∧ does (.knot d a) (~~~ t.kreg a.val) ∧ does (.kmov d a) (t.kreg a.val))
    ∧ (∀ v : VReg, VecCan s t [] [v.val] →
      let does := fun (i : Instr) (n : Nat) (e : Bool) => ∃ s' t', exec i s = .next s' ∧ s'.curTask = some t' ∧ t'.v = t.v
        ∧ (∀ m, m ∈ t'.empty ↔ if m = v.val then e = true else m ∈ t.empty) ∧ t'.st s.cur.stream = (t.st s.cur.stream).advance n
        ∧ s'.mem = s.mem
      does (.vfeEmpty v) 2 true ∧ does (.vfeFull v) 2 false ∧ does (.vfeC v) 1 true)

/-- R131 to R136: conversions, moves, rotations, broadcasts, the 16 × 16 transposes, permutation, extraction and the two
reductions, cell by cell. -/
def Obligations.VectorMovesAndReductions : Prop :=
  ∀ (s : State) (t : Task) (d : VReg) (a : VSrc), FullRegs t → VecCan s t [a] [d.val] →
    let whole := fun (i : Instr) (lat : Nat) (new : Nat → Word32) => VecDoes s t i d 0 false lat 60 2 new
    let x := cell t a
    whole (.vmov d a) 4 x
    ∧ (∀ n, whole (.vrotr d a n) 6 (fun i => x (i / 64 * 64 + (i % 64 + 64 - n.val) % 64)))
    ∧ (∀ n, whole (.vrotc d a n) 4 (fun i => x ((i / 64 + 16 - n.val) % 16 * 64 + i % 64)))
    ∧ (∀ n, whole (.vbcr d a n) 6 (fun i => x (i / 64 * 64 + n.val)))
    ∧ (∀ n, whole (.vbcc d a n) 4 (fun i => x (n.val * 64 + i % 64)))
    ∧ whole (.vtr16 d a) 12 (fun i => x (i % 64 % 16 * 64 + 16 * (i % 64 / 16) + i / 64))
    ∧ (∀ op ty, whole (.vredr d a op ty) 14 (fun i => tree op ty 6 (fun j => x (i / 64 * 64 + j))))
    ∧ (∀ op ty, whole (.vredc d a op ty) 8 (fun i => tree op ty 4 (fun r => x (64 * r + i % 64))))
    ∧ (∀ (ta : Bool) (k : KReg) (st dt : ETy) (rm : RMode) (zm : Bool),
      VecDoes s t (.vcvt d a ta k st dt rm zm) d k zm 8 60 3 (fun i => numCell dt rm (cellNum st (x i))))
    ∧ (∀ (imm : BitVec 31), VecDoes s t (.vmovi d imm) d 0 false 4 60 3 (fun _ => BitVec.ofNat 32 (2 * imm.toNat)))
    ∧ (∀ (b : VSrc) (ta tb : Bool) (k : KReg) (zm : Bool), VecCan s t [a, b] [d.val] →
      VecDoes s t (.vperm d a b ta tb k zm) d k zm 72 480 3
        (fun i => if (cell t b i).getLsbD 31 then 0 else x ((cell t b i).toNat % 1024)))
    ∧ (∀ (e : AReg) (n : Fin 1024),
      exec (.vext e a n) s = .next ((s.modCur (fun u =>
        (u.setA .v e.val ((x n.val).setWidth 64)).flying (.a e.val) (.word (t.a .v e.val)) s.cyc 6 false)).finish 2))

/-- R45, R119 to R121, R374: a register past the window raises ILLEGAL_OPERAND; an empty blocking source holds the stream, with
the cycle since which one of those that hold it has been empty; then a fill on its way to the destination holds it; then an empty
trapping source raises FE_TRAP; after 2^24 cycles of waiting FE_TIMEOUT stops the task. Stated for VADD, whose rules the other
instructions share. R119, R122, R288: what a vector result changes and all that it leaves. -/
def Obligations.VectorIssueRules : Prop :=
  (∀ (s : State) (t : Task), s.curTask = some t →
    (∀ o : V3, (¬ o.d.val < t.window → exec (.vadd o) s = .next (s.takeFault fIllegalOperand 0))
      ∧ (t.inWindow o.a = true → t.inWindow o.b = true → o.d.val < t.window →
        let x := t.st s.cur.stream
        (o.ta = false → t.full o.a = false → ∃ s' t', exec (.vadd o) s = .next s'
          ∧ s'.curTask = some t' ∧ { t' with strm := t.strm } = t ∧ (t'.st s.cur.stream).pc = x.pc
          ∧ (t'.st s.cur.stream).feSince =
            some (if ∃ n ∈ x.feOn, n ∈ t.empty then x.feSince.getD s.cyc else s.cyc)
          ∧ (∀ n : VReg, o.a = .v n → n.val ∈ (t'.st s.cur.stream).feOn) ∧ { s' with cores := s.cores } = s)
        ∧ ((o.ta = true ∨ t.full o.a = true) → (o.tb = true ∨ t.full o.b = true) →
          (t.filling o.d.val = true → exec (.vadd o) s = .next s)
          ∧ (t.filling o.d.val = false → o.ta = true → t.full o.a = false →
            exec (.vadd o) s = .next (s.takeFault fFeTrap 0)))))
    ∧ (∀ (x : Ctx) (u : Task) (c : Word64), s.task? x.core.val x.slot.val = some u → (u.st x.stream).feSince = some c →
      u.stopped = false → u.saving = none →
      ((∃ n ∈ (u.st x.stream).feOn, n ∈ u.empty) → c.toNat + 2 ^ 24 ≤ s.cyc.toNat → exec (.feTimeout x) s =
        .next (s.takeFaultOf x.core.val x.slot.val x.stream fFeTimeout true 0 (u.st x.stream).pc 0 []))
      ∧ (s.cyc.toNat < c.toNat + 2 ^ 24 ∨ (∀ n ∈ (u.st x.stream).feOn, n ∉ u.empty) → exec (.feTimeout x) s = .next s)))
  ∧ (∀ (s s' : State) (t : Task) (d : VReg) (mask : BitVec 1024) (lat : Nat) (c : Cells) (ch n : Nat), s.curTask = some t →
    s.cur.stream = .v → vecWrote s d mask lat c ch n = .next s' →
    (∃ t' f, s'.curTask = some t' ∧ (∀ m, t'.vreg m = if m = d.val then c else t.vreg m) ∧ t'.fly = t.fly ++ [f]
      ∧ f.dst = .v d.val ∧ f.old = .cells (t.vreg d.val) ∧ (t.fly = [] → f.vis = s.cyc + BitVec.ofNat 64 lat)
      ∧ t'.st .v = (t.st .v).advance n ∧ (∀ k, k ≠ Stream.v → t'.st k = t.st k)
      ∧ { t' with v := t.v, fly := t.fly, drains := t.drains, strm := t.strm } = t)
    ∧ (∀ b l, (b, l) ≠ (s.cur.core.val, s.cur.slot.val) → s'.task? b l = s.task? b l)
    ∧ (∀ b, { s'.core b with slots := (s.core b).slots } = s.core b)
    ∧ (∀ a, mfind a s'.accts = (mfind a s.accts).map (fun x =>
        if a = t.cr.lacct.toNat then { x with charge := x.charge + ch } else x))
    ∧ { s' with cores := s.cores, accts := s.accts } = s
    ∧ (∀ key a, s'.byteK key a = s.byteK key a))


/-! ## Vector memory accesses, accumulator drains and fills, tiles (spec/05 R137-R148, spec/12) -/

namespace Sys2Proof.Claim

/-- The cells of a mask, rising. -/
def cellsOf (k : BitVec 1024) : List Nat := (List.range 1024).filter (fun i => k.getLsbD i)

/-- An integer as an address of 64 bits. -/
def addr64 (x : Int) : Nat := (x % 2 ^ 64).toNat

end Sys2Proof.Claim

namespace Sys2Proof.Claim

/-- A load of elements has begun: its register is empty and waits for those elements; each line that it must read from memory has been
asked for, with an entry of the core's reassembly table, while the table has room, and nobody else's entry has gone; everything else
of the task but the V context, every request of a scalar access and every byte of memory is as before (R17, R119, R137, R411). -/
def LoadBegun (s s' : State) (t : Task) (v : VReg) (es : List VEl) (k : FillKind) : Prop :=
  let had := s.curCore.reasm
  let has := (s'.core s.cur.core.val).reasm
  (∀ e ∈ has, e ∈ had ∨ e.2.1 = s.nextId) ∧ (∀ e ∈ had, e.2.1 ≠ s.nextId → e ∈ has)
  ∧ (∀ p ∈ partLines (es.flatMap (·.parts)), readsMemory s s.cur.core.val p = true →
      (dramOf s' s.nextId p.pa).isSome = true ∨ 256 ≤ has.length)
  ∧ ∃ t', s'.curTask = some t' ∧ (∀ m, m ∈ t'.empty ↔ m = v.val ∨ m ∈ t.empty)
    ∧ t'.fills = t.fills ++ [{ n := s.nextId + 1, parkN := s.nextId + 1, waited := false, v := v.val, blk := (t.st .v).blkId, iaddr := (t.st .v).pc, kind := k }]
    ∧ t'.st .v = (t.st .v).advance 3 ∧ { t' with empty := t.empty, fills := t.fills, strm := t.strm } = t
    ∧ SameBytes s s' ∧ s'.reqs = s.reqs

/-- Memory has served the request of an owner for the line of an address, and what it answered has come (R361, R411). -/
def Served (s : State) (own pa : Nat) : Prop := (∃ r, dramOf s own pa = some r ∧ r.served = true) ∧ s.come own (lineOf pa) = true

/-- A DEV page among the elements asks that the task's earlier PRIV stores have reached memory (R335). -/
def DevFree (s : State) (t : Task) (es : List VEl) : Prop :=
  (∃ e ∈ es, ∃ p ∈ e.parts, p.cls = .dev) → (s.devReady t).2 = true

/-- The bytes of an element whose parts lie each in one line, as memory holds them, from its first bit. -/
def elemNow (s : State) (e : VEl) : Nat := natOf (e.parts.flatMap (fun p => s.bytesK p.key p.pa p.n)) / 2 ^ e.shift

end Sys2Proof.Claim

/-- R71, R137, R139: the elements of a row access are at base + row × stride + offset + column × size, those of a gather at
base + row × stride + index × scale, modulo 2^64; a packed I6 element of a row access is six bits from bit 6 × (c mod 4) of
the three bytes of its group of four columns. R17, R119, R137 to R141: VLD and VGATH whose elements all pass their checks begin a
fill of their register; VST and VSCAT store, with no register changed, and no byte of memory before their requests are performed
or their lines written back; a check that fails takes its fault; VECTOR_FILL_LAND of elements on DEV pages whose requests memory
has served gives each its value and leaves the other cells and memory. -/
def Obligations.VectorAddressesAndAccesses : Prop :=
  (∀ (ty : ETy) (base stride : Word64) (off : Int) (k : BitVec 1024) (x : Cells) (scale : Nat),
      let row := fun (i : Nat) => base.toInt + (i / 64 : Nat) * stride.toInt
      (ty ≠ .i6 → rowElems ty base stride off k = (cellsOf k).map (fun i =>
        { cell := i, va := addr64 (row i + off + (i % 64 * tyBytes ty : Nat)), n := tyBytes ty, shift := 0, align := tyBytes ty }))
      ∧ (rowElems .i6 base stride off k = (cellsOf k).map (fun i =>
        let bit := 6 * (i % 4)
        { cell := i, va := addr64 (row i + off + (3 * (i % 64 / 4) : Nat) + (bit / 8 : Nat)), n := (bit % 8 + 5) / 8 + 1, shift := bit % 8,
          align := 1 }))
      ∧ (x.length = 1024 → gatherElems ty base stride x scale k = (cellsOf k).map (fun i =>
        { cell := i, va := addr64 (row i + (x.getD i 0).toInt * 2 ^ scale), n := tyBytes ty, shift := 0, align := tyBytes ty })))
  ∧ (∀ (s : State) (t : Task), s.curTask = some t → s.cur.stream = .v →
      (let loads := fun (i : Instr) (v : VReg) (ty : ETy) (rd : Nat) (as : List VAddr) =>
        (∀ es, checkElems s s.curDie t.pav .read as = .ok es → vecMayGo s t es false = true → DevFree s t es →
          (reasmFree s s.cur.core.val = true ∨ ∀ e ∈ es, ∀ p ∈ e.parts, readsMemory s s.cur.core.val p = false) →
          ∃ s', exec i s = .next s' ∧ LoadBegun s s' t v es (.mem s.nextId es ty rd))
        ∧ (∀ c va, checkElems s s.curDie t.pav .read as = .bad c va → parks t c = false → exec i s = .next (s.takeMemFault c va))
       let stores := fun (i : Instr) (v : VSrc) (ty : ETy) (as : List VAddr) =>
        (∀ es, checkElems s s.curDie t.pav .store as = .ok es → vecMayGo s t es true = true → DevFree s t es →
          ∃ s' t', exec i s = .next s' ∧ s'.curTask = some t' ∧ t'.st .v = (t.st .v).advance 3
            ∧ { t' with strm := t.strm, drains := t.drains } = t ∧ SameBytes s s'
            ∧ (∀ e p, es = [e] → e.parts = [p] → e.shift = 0 → (p.cls = .coh ∨ p.cls = .dev) → p.pa % 128 + p.n ≤ 128 →
                8 * p.n = ty.bits →
                ∃ r mask data, mfind s.nextId s'.reqs = some r ∧ r.pa = p.pa ∧ r.kind = .store mask data false ∧ r.ctx = s.cur
                  ∧ (∀ j, j < 128 → mask.getLsbD j = decide (p.pa % 128 ≤ j ∧ j < p.pa % 128 + p.n))
                  ∧ (∀ j, j < p.n → data.getD (p.pa % 128 + j) 0 = (bytesOf p.n (memBits ty ((t.vsrc v).getD e.cell 0))).getD j 0)))
        ∧ (∀ c va, checkElems s s.curDie t.pav .store as = .bad c va → exec i s = .next (s.takeMemFault c va))
       let row := fun (ty : ETy) (b d : AReg) (off : Int) (k : KReg) => rowElems ty (t.a .v b.val) (t.a .v d.val) off (t.kreg k.val)
       let scattered := fun (ty : ETy) (b d : AReg) (x : VSrc) (sc : Nat) (k : KReg) =>
         gatherElems ty (t.a .v b.val) (t.a .v d.val) (t.vsrc x) sc (t.kreg k.val)
       (∀ o : VMem VReg, VecCan s t [] [o.v.val] →
         loads (.vld o) o.v o.ty o.rd.val (row o.ty o.base o.stride o.off.toInt o.k))
       ∧ (∀ o : VMem VSrc, VecCan s t [o.v] [] → stores (.vst o) o.v o.ty (row o.ty o.base o.stride o.off.toInt o.k))
       ∧ (∀ o : VMemX VReg, VecCan s t [o.idx] [o.v.val] →
         loads (.vgath o) o.v o.ty o.rd.val (scattered o.ty o.base o.stride o.idx o.scale.val o.k))
       ∧ (∀ o : VMemX VSrc, VecCan s t [o.v, o.idx] [] →
         stores (.vscat o) o.v o.ty (scattered o.ty o.base o.stride o.idx o.scale.val o.k)))
      ∧ (∀ (c : CoreId) (l : SlotId) (v : VReg) (u : Task) (f : VFill) (id : Nat) (els : List VEl) (ty : ETy) (rd : Nat),
        s.task? c.val l.val = some u → u.fills.find? (fun g => g.v = v.val) = some f → f.kind = .mem id els ty rd → FullRegs u →
        (∀ e ∈ els, ∀ p ∈ e.parts, Served s id p.pa) →
        fillBehind u f = false →
        (∀ e ∈ els, ∀ p ∈ e.parts, p.cls = .dev ∧ p.pa % 128 + p.n ≤ 128 ∧ lineOf p.pa ∉ s.poison) →
        (els.map (·.cell)).Nodup → (∀ e ∈ els, e.cell < 1024) →
        ∃ s' u', exec (.vectorFillLand c l v) s = .next s' ∧ s'.task? c.val l.val = some u' ∧ v.val ∉ u'.empty
          ∧ (∀ e ∈ els, (u'.vreg v.val).getD e.cell 0 = tarnCell ty (elemNow s e))
          ∧ (∀ j, j ∉ els.map (·.cell) → (u'.vreg v.val).getD j 0 = (u.vreg v.val).getD j 0)
          ∧ (∀ m, m ≠ v.val → u'.vreg m = u.vreg m) ∧ (∀ e ∈ (s'.core c.val).reasm, e.2.1 ≠ id)
          ∧ SameBytes s s'))


/-- R119, R122, R145 to R148: VACVT of an owned bank with which the stream is ordered gives, 24 cycles after its issue, each element
of its rows converted and leaves the other rows; of a bank that is not allocated it gives zeros and sets STATUS bit 0 as they land,
or traps in an accurate region; VAFIL ordered after the changes made replaces the elements of its rows by the cells' exact values and
leaves the others and the bank's rule mode. -/
def Obligations.AccumulatorDrainsAndFills : Prop :=
  ∀ (s : State) (t : Task), s.curTask = some t → FullRegs t →
    let inRows := fun (band : Option (Fin 4)) (j : Nat) =>
      match band with | none => True | some b => 4 * b.val ≤ j / 64 ∧ j / 64 < 4 * b.val + 4
    (∀ o : VAcc VReg, VecCan s t [] [o.v.val] → ∀ rm : RMode,
      let drains := fun (new : Nat → Word32) (accu : Bool) => ∃ s' t' f, exec (.vacvt o rm) s = .next s' ∧ s'.curTask = some t'
        ∧ (∀ j, j < 1024 → inRows o.band j → (t'.vreg o.v.val).getD j 0 = new j)
        ∧ (∀ j, j < 1024 → ¬ inRows o.band j → (t'.vreg o.v.val).getD j 0 = (t.vreg o.v.val).getD j 0)
        ∧ (∀ m, m ≠ o.v.val → t'.vreg m = t.vreg m) ∧ t'.empty = t.empty ∧ t'.status = t.status ∧ t'.s = t.s ∧ t'.q = t.q
        ∧ t'.fly = t.fly ++ [f] ∧ f.dst = .v o.v.val ∧ f.old = .cells (t.vreg o.v.val)
        ∧ (t.fly = [] → f.vis = s.cyc + 24)
        ∧ (∀ cyc : Word64, f.vis.toNat ≤ cyc.toNat → t.stopped = false → t.saving = none →
            o.v.val ∉ (t'.land cyc).empty ∧ (accu = true → (t'.land cyc).status.getLsbD 0 = true))
        ∧ (∀ c, (s'.core c).banks = (s.core c).banks) ∧ s'.mem = s.mem ∧ s'.memKey = s.memKey
      (∀ p, t.phys o.bank.val = some p → ownsBands (s.curCore.bank p) s.cur.slot.val o.band = true → t.vOrdered p = true →
        (s.curCore.bank p).els.length = 1024 →
        drains (fun j => drainCell o.ty rm (anchorOf (s.curCore.bank p)) ((s.curCore.bank p).els.getD j zeroElem)) false)
      ∧ (t.phys o.bank.val = none → t.eff.accu = false → drains (fun _ => 0) true)
      ∧ (t.phys o.bank.val = none → t.eff.accu = true → exec (.vacvt o rm) s = .next (s.takeFault fAccUnalloc 0))
      ∧ (∀ p, t.phys o.bank.val = some p → ownsBands (s.curCore.bank p) s.cur.slot.val o.band = false →
        exec (.vacvt o rm) s = .next (s.takeFault fAccBand 0)))
    ∧ (∀ o : VAcc VSrc, VecCan s t [o.v] [] →
      (∀ p, t.phys o.bank.val = some p → ownsBands (s.curCore.bank p) s.cur.slot.val o.band = true →
        lateOn s s.cur.core.val t p = [] → (s.curCore.bank p).els.length = 1024 →
        ∃ s' t', exec (.vafil o) s = .next s' ∧ s'.curTask = some t' ∧ t'.v = t.v ∧ t'.empty = t.empty
          ∧ (let b := s.curCore.bank p
             let b' := (s'.core s.cur.core.val).bank p
             b' = bankFill o.ty (bandRows o.band).1 (bandRows o.band).2 (t.vsrc o.v) b ∧ b'.rule = b.rule
             ∧ (∀ j, j < 1024 → ¬ inRows o.band j → b'.els.getD j zeroElem = b.els.getD j zeroElem))
          ∧ (∀ q, q ≠ p → (s'.core s.cur.core.val).bank q = s.curCore.bank q) ∧ s'.mem = s.mem)
      ∧ (t.phys o.bank.val = none → exec (.vafil o) s = .next (s.takeFault fAccUnalloc 0)))

/-- R142 to R144, R194, R297, R298, R302: VTLD whose lookup hits gives its register the tile's sub-block and records the version;
with any other outcome, or behind an earlier access of the task to the tile, its register waits. VTST that hits merges its cells into the line, dirty, at the line's version or the next.
An invalid descriptor raises DESC_INVALID, a sub-block that the type does not have ILLEGAL_OPERAND. -/
def Obligations.TileLoadsAndStores : Prop :=
  ∀ (s : State) (t : Task), s.curTask = some t → s.cur.stream = .v →
    let kept := fun (t' : Task) => t'.s = t.s ∧ t'.q = t.q ∧ t'.v = t.v ∧ t'.k = t.k ∧ t'.areg = t.areg ∧ t'.status = t.status
      ∧ t'.bmap = t.bmap ∧ t'.mq = t.mq ∧ t'.tslot = t.tslot ∧ t'.st .v = (t.st .v).advance 3
    (∀ (o : VTile VReg) (b : List Byte), VecCan s t [] [o.v.val] → t.desc o.slot.val = some b →
      let d := readDesc b
      let g := tileTag t d (t.a .v o.coord.val)
      let need := needOf t d o.slot.val o.xv o.hint o.rd.val
      (o.sub.val < subBlocks (tyOf d.ty) → ∀ pg, tilePages s t d (footPages d g) .read = .ok pg → tileStall s t g need = false → vDevOpen s t = false →
        (tileWaits t g = false → ∀ w l, lookTile s s.curDie t g need none = .hit w l →
          ∃ s' t', exec (.vtld o) s = .next s' ∧ s'.curTask = some t' ∧ kept t' ∧ o.v.val ∈ t'.empty ∧ t'.seen g = some l.ver
            ∧ (∃ f ∈ t'.fills, f.v = o.v.val ∧ f.kind = .ready (tileCells d l.data o.sub.val) (t.kreg o.k.val)) ∧ s'.mem = s.mem)
        ∧ ((tileWaits t g = true ∨ ∀ w l, lookTile s s.curDie t g need none ≠ .hit w l) →
          ∃ s' t', exec (.vtld o) s = .next s' ∧ s'.curTask = some t' ∧ kept t' ∧ o.v.val ∈ t'.empty
            ∧ (∃ f ∈ t'.fills, f.v = o.v.val ∧ f.kind = .tile s.nextId g b need o.sub.val (t.kreg o.k.val)) ∧ s'.mem = s.mem))
      ∧ (subBlocks (tyOf d.ty) ≤ o.sub.val → exec (.vtld o) s = .next (s.takeFault fIllegalOperand 0)))
    ∧ (∀ (o : VTile VSrc) (b : List Byte), VecCan s t [o.v] [] → t.desc o.slot.val = some b →
      let d := readDesc b
      let g := tileTag t d (t.a .v o.coord.val)
      let need := needOf t d o.slot.val o.xv o.hint o.rd.val
      (∀ pub, subBlocks (tyOf d.ty) ≤ o.sub.val → exec (.vtst o pub) s = .next (s.takeFault fIllegalOperand 0))
      ∧ ∀ pub, o.sub.val < subBlocks (tyOf d.ty) → ∀ pg, tilePages s t d (maskPages d g o.sub.val (t.kreg o.k.val)) .store = .ok pg →
        vDevOpen s t = false →
        tileStall s t g need = false → tileWaits t g = false → ∀ w l, lookTile s s.curDie t g need none = .hit w l →
        mfind w (s.die s.curDie).tarn = some l →
        ∃ s' t' l', exec (.vtst o pub) s = .next s' ∧ s'.curTask = some t' ∧ kept t' ∧ t'.empty = t.empty
          ∧ mfind w (s'.die s.curDie).tarn = some l' ∧ l'.tag = g ∧ l'.dirty = true
          ∧ l'.ver = (if pub then (l.ver + 1) % 2 ^ 16 else l.ver) ∧ t'.seen g = some l'.ver
          ∧ l'.data = mergeCells d l.data o.sub.val (t.kreg o.k.val) (t.vsrc o.v) ∧ l'.zero = tileZero d l'.data
          ∧ l'.spec = tileSpec d l'.data ∧ s'.mem = s.mem)
    ∧ (∀ o : VTile VReg, t.desc o.slot.val = none → VecCan s t [] [o.v.val] → exec (.vtld o) s = .next (s.takeFault fDescInvalid 0))
    ∧ (∀ (o : VTile VSrc) (pub : Bool), t.desc o.slot.val = none → VecCan s t [o.v] [] →
      exec (.vtst o pub) s = .next (s.takeFault fDescInvalid 0))


/-! ## Copy stream (spec/07) -/

namespace Sys2Proof.Claim

/-- The sync word of a copy instruction that passes checks 4 to 6 of Table 7-1: none, or an aligned one on a COH page. -/
def SyncOk (s : State) (t : Task) (f : SwF) (w : Option (Nat × Nat)) : Prop :=
  (f.use = false ∧ w = none) ∨ ∃ l pa, f.use = true ∧ (t.a .c f.sw.val).toNat % 16 = 0 ∧ l.cls = .coh ∧ w = some (pa, l.key)
    ∧ xlate s s.curDie t.pav (t.a .c f.sw.val).toNat .write = .ok l pa

/-- The issuing task has claimed a slot that was free, with this work, and moved on by three parcels; every register, every other
slot of the core and every byte of memory is as before (R180, R182). -/
def Claimed (s s' : State) (t : Task) (major : Nat) (w : Option (Nat × Nat)) (rd : Nat) (op : CopyOp) : Prop :=
  (∃ t', s'.curTask = some t' ∧ t'.st .c = (t.st .c).advance 3 ∧ { t' with strm := t.strm } = t)
  ∧ (∃ n x, mfind n s.curCore.copies = none ∧ mfind n s'.curCore.copies = some x ∧ x.op = op ∧ x.sync = w ∧ x.rd = rd
      ∧ x.major = BitVec.ofNat 8 major ∧ x.uid = t.uid ∧ x.pav = t.pav ∧ x.iaddr = (t.st .c).pc ∧ x.state = 0 ∧ x.bytes = 0
      ∧ x.stage = .start ∧ x.seen = (t.st .c).seen ∧ ∀ m, m ≠ n → mfind m s'.curCore.copies = mfind m s.curCore.copies)
  ∧ SameBytes s s' ∧ s'.reqs = s.reqs

end Sys2Proof.Claim

/-- R180, R182, R195 to R199, R211, Table 7-1: CPY, CPY2, CPYF, CPYX, CPYR, CPYH and SWADD check their operands and their sync
word and claim a slot for the work that their registers describe; a length past 36 bits raises ILLEGAL_OPERAND, a misaligned sync
word ALIGN_FAULT, one not on a COH page SYNC_CLASS; with no free slot the stream waits. -/
def Obligations.CopyInstructionsClaimSlots : Prop :=
  ∀ (s : State) (t : Task), s.curTask = some t → s.cur.stream = .c →
    let a := fun (r : AReg) => (t.a .c r.val).toNat
    let does := fun (i : Instr) (major : Nat) (f : SwF) (rd : Nat) (ok : Prop) (op : CopyOp) =>
      (ok → ∀ w, SyncOk s t f w →
        (s.curCore.copies.length < 1024 → ∃ s', exec i s = .next s' ∧ Claimed s s' t major w rd op)
        ∧ (1024 ≤ s.curCore.copies.length → exec i s = .next s))
      ∧ (¬ ok → exec i s = .next (s.takeFault fIllegalOperand 0))
      ∧ (ok → f.use = true → (a f.sw % 16 ≠ 0 → exec i s = .next ((dropFailed s s.curDie t.pav (a f.sw)).takeFault fAlign (t.a .c f.sw.val)))
        ∧ (∀ l pa, a f.sw % 16 = 0 → xlate s s.curDie t.pav (a f.sw) .write = .ok l pa → l.cls ≠ .coh →
            exec i s = .next ((dropFailed s s.curDie t.pav (a f.sw)).takeFault fSyncClass (t.a .c f.sw.val))))
    (∀ (dst src len : AReg) (sw : SwF) (rd : Fin 4),
      let small := a len < 2 ^ 36
      does (.cpy dst src len sw rd) 0x00 sw rd.val small (.mem (a dst) (a src) (a len) 1 0 0)
      ∧ (∀ m : Dim2, let ok := small ∧ a m.cnt < 2 ^ 32
        does (.cpy2 dst src len sw rd m) 0x01 sw rd.val ok
          (.mem (a dst) (a src) (a len) (a m.cnt) (t.a .c m.dstr.val) (t.a .c m.sstr.val))
        ∧ does (.cpyxExp dst src len sw rd m) 0x03 sw rd.val ok
          (.expand (a dst) (a src) (a len) (a m.cnt) (t.a .c m.dstr.val) (t.a .c m.sstr.val))
        ∧ does (.cpyxPack dst src len sw rd m) 0x03 sw rd.val ok
          (.pack (a dst) (a src) (a len) (a m.cnt) (t.a .c m.dstr.val) (t.a .c m.sstr.val)))
      ∧ (∀ z : Size, does (.cpyf dst src len sw rd z) 0x02 sw rd.val (small ∧ a dst % z.bytes = 0 ∧ a len % z.bytes = 0)
          (.fill (a dst) (a len) z.bytes (t.a .c src.val)))
      ∧ (∀ tok tgt : AReg, does (.cpyrGet dst src len sw rd tok tgt) 0x06 sw rd.val (small ∧ a tgt < 2 ^ 23)
          (.get (a dst) (a src) (a len) (t.a .c tok.val) (a tgt % 2 ^ 16) (a tgt / 2 ^ 16 % 2 ^ 7)))
      ∧ (∀ (tok tgt : AReg) (op : PutOp), does (.cpyrPut dst src len sw rd tok tgt op) 0x06 sw rd.val
          (small ∧ a tgt < 2 ^ 23 ∧ a dst % putBytes op = 0 ∧ a len % putBytes op = 0)
          (.put (a dst) (a src) (a len) (t.a .c tok.val) (a tgt % 2 ^ 16) (a tgt / 2 ^ 16 % 2 ^ 7) op))
      ∧ (∀ win : AReg, does (.cpyhRd dst src len sw rd win) 0x07 sw rd.val (small ∧ a win < 2 ^ 16) (.hostRd (a dst) (a src) (a len) (a win))
        ∧ does (.cpyhWr dst src len sw rd win) 0x07 sw rd.val (small ∧ a win < 2 ^ 16) (.hostWr (a dst) (a src) (a len) (a win))))
    ∧ (∀ sw amt : AReg, does (.swadd sw amt) 0x0E { sw := sw, use := true } 0 (a amt < 2 ^ 36) (.swadd (a amt)))

/-- R201 to R206, R209, R210, Tables 7-8 and 7-11, on a tile whose line the die has at the version that the descriptor's slot
requires: CPYT and TCPIN count it, CPYW of a clean one counts it, TCUNP leaves it, TCINV and TCFLS take a clean line with no pin
out of the tarn; TCITN makes its list the task's itinerary; TCQRY reports the line, or 0 for none. -/
def Obligations.TileMaintenance : Prop :=
  ∀ (s : State) (t : Task) (slot : TSlot) (coord : AReg) (b : List Byte) (xv : Bool),
    s.curTask = some t → s.cur.stream = .c → t.desc slot.val = some b →
    let d := readDesc b
    let g := tileTag t d (t.a .c coord.val)
    let moved := fun (s' : State) => s'.mem = s.mem ∧ ∃ t', s'.curTask = some t' ∧ t'.st .c = (t.st .c).advance 3 ∧ t'.s = t.s
      ∧ t'.q = t.q ∧ t'.areg = t.areg ∧ t'.v = t.v ∧ t'.k = t.k ∧ t'.status = t.status
    (∀ w l, s.line? s.curDie g = some (w, l) → mfind w (s.die s.curDie).tarn = some l → l.filling = false →
      (needOf t d slot.val xv .none 0).exact = true → l.ver = (mget slot.val 0 t.tver).toNat → s.curCore.copies.length < 1024 →
      let o : TileF := { range := .one, slot := slot, coord := coord, xv := xv }
      let slotEnds := fun (s' : State) (n : Nat) => ∃ m x, mfind m s.curCore.copies = none ∧ mfind m s'.curCore.copies = some x
        ∧ x.uid = t.uid ∧ x.stage = .landed ∧ x.count2 = n ∧ ∃ act need, x.op = .tile act [] false need
      let lineStays := fun (s' : State) => ∃ l', mfind w (s'.die s.curDie).tarn = some l' ∧ l'.tag = g ∧ l'.data = l.data ∧ l'.ver = l.ver
      let lineGoes := fun (s' : State) => mfind w (s'.die s.curDie).tarn = none
        ∧ ∀ v, v ≠ w → mfind v (s'.die s.curDie).tarn = mfind v (s.die s.curDie).tarn
      let sw : SwF := { sw := 0, use := false }
      (∀ rd hint, ∃ s', exec (.cpyt coord none sw rd slot xv hint) s = .next s' ∧ moved s' ∧ slotEnds s' 1 ∧ lineStays s')
      ∧ (∀ last, l.dirty = false → ∃ s', exec (.cpyw coord sw slot xv last) s = .next s' ∧ moved s' ∧ slotEnds s' 1 ∧ lineStays s')
      ∧ (∃ s', exec (.tcpin o) s = .next s' ∧ moved s' ∧ slotEnds s' 1 ∧ lineStays s')
      ∧ (∃ s' n, exec (.tcunp o) s = .next s' ∧ moved s' ∧ slotEnds s' n ∧ lineStays s')
      ∧ (pinned s s.curDie g = false → ∃ s', exec (.tcinv o) s = .next s' ∧ moved s' ∧ slotEnds s' 1 ∧ lineGoes s')
      ∧ (pinned s s.curDie g = false → l.dirty = false → ∃ s', exec (.tcfls o) s = .next s' ∧ moved s' ∧ slotEnds s' 1 ∧ lineGoes s')
      ∧ (∀ e : AReg, ∃ v : Word64, exec (.tcqry e slot coord xv) s = .next ((s.modCur (fun u => { u.setA .c e.val v with report := none })).finish 3)
        ∧ (l.rrpv < 8 → v.toNat / 2 ^ 16 % 2 ^ 16 = l.ver % 2 ^ 16) ∧ v.getLsbD 0 = true ∧ v.getLsbD 1 = l.dirty))
    ∧ (s.line? s.curDie g = none → ∀ e : AReg,
      exec (.tcqry e slot coord xv) s = .next ((s.modCur (fun u => { u.setA .c e.val 0 with report := none })).finish 3))
    ∧ (∀ (addr cnt : AReg) (hint : Hint) (win : BitVec 6), s.curCore.copies.length < 1024 →
      (t.a .c addr.val).toNat % 16 = 0 → (t.a .c cnt.val).toNat < 2 ^ 32 →
      ∃ s' t', exec (.tcitn addr cnt hint win) s = .next s' ∧ s'.curTask = some t' ∧ t'.st .c = (t.st .c).advance 3 ∧ SameBytes s s'
        ∧ t'.itin = some { va := t.a .c addr.val, count := (t.a .c cnt.val).toNat, win := if win = 0 then 64 else win.toNat,
                           hint := hint, p := 0, f := 0, got := [], open_ := [] }
        ∧ { t' with strm := t.strm, itin := t.itin } = t)

/-- R183, R184, R186 to R189, R195, R209: a fill and a copy of one line on DEV pages, their requests served by memory and no earlier slot in their way, write exactly their
bytes and free their slot (their pages cached, their pavilion not frozen); a slot whose effects are all performed is freed; a failed slot is freed and raises COPY_FAULT with its record, or in a
recovery region pauses; an itinerary entry whose line the die holds is passed. -/
def Obligations.CopySlotsProgress : Prop :=
  ∀ (s : State) (core : CoreId) (n : Nat) (x : CopySlot), s.slot? core.val n = some x → x.state = 0 → x.adds = [] →
    slotFrozen s x = false →
    let freed := fun (s' : State) => s'.slot? core.val n = none ∧ ∀ m, m ≠ n → s'.slot? core.val m = s.slot? core.val m
    (∀ l t, ownerOf s x.uid = .resident core.val l t → x.stage = .landed →
      ∃ s', exec (.copySlotEnd core n) s = .next s' ∧ freed s' ∧ SameBytes s s')
    ∧ (∀ l t dst len lf pa (src : Nat → Byte), ownerOf s x.uid = .resident core.val l t → x.stage = .start → x.bytes = 0 →
      x.sync = none → x.ctx.core = core → devHeld s x = false → (s.devReadyAt core.val x.pav x.key).2 = true → slotPrior s x = [] →
      (tcLeaf (s.die (dieOf core.val)).tc x.pav dst).isSome = true → 0 < len → dst % 128 + len ≤ 128 → pa % 128 = dst % 128 → dst + len ≤ 2 ^ 48 →
      xlateNow s (dieOf core.val) x.pav dst .write = .ok lf pa → lf.cls = .dev → Served s x.id pa → Memory.wf s.mem = true →
      ((∃ k pat, x.op = .fill dst len k pat ∧ 0 < k ∧ ∀ i, i < len → src i = BitVec.ofNat 8 (pat.toNat / 2 ^ (8 * (i % k))))
        ∨ (∃ from_ sf sp, x.op = .mem dst from_ len 1 0 0 ∧ from_ % 128 + len ≤ 128 ∧ from_ + len ≤ 2 ^ 48
            ∧ (tcLeaf (s.die (dieOf core.val)).tc x.pav from_).isSome = true
            ∧ xlateNow s (dieOf core.val) x.pav from_ .read = .ok sf sp ∧ sf.cls = .dev ∧ Served s x.id sp ∧ lineOf sp ∉ s.poison
            ∧ sp % 128 = from_ % 128 ∧ ∀ i, i < len → src i = s.byteK sf.key (sp + i))) →
      ∃ s', exec (.copySlotEnd core n) s = .next s' ∧ freed s'
        ∧ ∀ a, memRead a s'.mem = if pa ≤ a ∧ a < pa + len then src (a - pa) else memRead a s.mem)
    ∧ (x.stage = .failed → pauses s x = false →
      exec (.copySlotFail core n) s = .next (((s.undeliver { x with state := 2 }).freeSlot core.val n { x with state := 2 }).copyFault { x with state := 2 }))
    ∧ (∀ l t c', ownerOf s x.uid = .resident c' l t → t.stopped = false →
      s.copyFault x = s.takeFaultOf c' l .c fCopyFault false 0 x.iaddr x.faddr (slotRec x))
    ∧ (x.stage = .failed → pauses s x = true → ∃ s' y, exec (.copySlotPause core n) s = .next s' ∧ s'.slot? core.val n = some y
        ∧ y.state = 4 ∧ y.bytes = x.bytes ∧ y.count2 = x.count2 ∧ y.cause = x.cause)
    ∧ (∀ (slot : SlotId) (t : Task) (it : Itin) (e b : List Byte), s.task? core.val slot.val = some t → t.itin = some it →
      it.open_ = [] → (∀ lf pa, xlateNow s (dieOf core.val) t.pav (it.va.toNat + 16 * it.f) .read = .ok lf pa → lineWaits s pa = false) →
      t.stopped = false → t.saving = none → it.p < it.count → it.f < it.count → it.f < it.p + it.win →
      s.readVa (dieOf core.val) t.pav (it.va.toNat + 16 * it.f) 16 = some e →
      ((field e 4 4 ≠ 0 → ∃ s' t', exec (.itineraryPrefetch core slot) s = .next s' ∧ s'.task? core.val slot.val = some t'
          ∧ t'.itin = some { it with f := it.f + 1 } ∧ { t' with itin := t.itin } = t ∧ SameBytes s s')
      ∧ (field e 0 1 < 32 → field e 1 1 < 2 → field e 4 4 = 0 → t.desc (field e 0 1) = some b →
        let g := tileTag t (readDesc b) (BitVec.ofNat 64 (field e 8 8))
        let n0 := needOf t (readDesc b) (field e 0 1) (decide (field e 1 1 = 1)) it.hint (readDesc b).rddef
        ∀ w l, lookTile s (dieOf core.val) t g { n0 with ver := field e 2 2 } none = .hit w l →
        asked s (.prefetch core.val slot.val it.f) = false →
        ∃ s' t', exec (.itineraryPrefetch core slot) s = .next s' ∧ s'.task? core.val slot.val = some t'
          ∧ t'.itin = some { it with f := it.f + 1, got := it.got ++ [(it.f, g)] } ∧ { t' with itin := t.itin } = t ∧ s'.mem = s.mem)))


/-! ## Matrix stream and grammar unit (spec/06, spec/14) -/

namespace Sys2Proof.Claim

/-- The fields of a task that no bank operation changes; its vector registers keep their cells where no drain of it is unordered. -/
def MKept (t t' : Task) : Prop :=
  t'.s = t.s ∧ t'.q = t.q ∧ t'.pend = t.pend ∧ t'.areg = t.areg ∧ t'.k = t.k ∧ t'.empty = t.empty ∧ t'.toks = t.toks
    ∧ t'.tslot = t.tslot ∧ t'.tver = t.tver ∧ (t.drains = [] → t'.v = t.v)

/-- Changes in the order of issue: bank, change, and whether its operands are still to come. -/
def changes (l : List Pending) : List (Nat × Change × Bool) := l.map (fun x => (x.bank, x.op, x.open_))

/-- No accumulator drain of a task on this core has been stored to memory, where a later change of its bank could reach it (R148). -/
def Unstored (s : State) : Prop := ∀ x ∈ s.curCore.slots, ∀ d ∈ x.2.drains, d.stored = []

/-- The issuing task has moved on by n parcels with these changes behind its earlier ones; no bank has changed yet, nor any byte
of memory (R153, R154). -/
def Issued (s s' : State) (t : Task) (ops : List (Nat × Change)) (n : Nat) : Prop :=
  ∃ t', s'.curTask = some t' ∧ changes t'.mq = changes t.mq ++ ops.map (fun o => (o.1, o.2, false))
    ∧ t'.st .m = (t.st .m).advance n ∧ MKept t t' ∧ t'.bmap = t.bmap
    ∧ (∀ q, (s'.core s.cur.core.val).bank q = s.curCore.bank q) ∧ (Unstored s → s'.mem = s.mem)

/-- The M stream issues an instruction that no stamp precedes. A fault or a completion ends the reading from memory that MRES or GLOAD
has begun, if one stands (`mEnd`). -/
def MCan (s : State) (t : Task) : Prop := s.curTask = some t ∧ s.cur.stream = .m ∧ t.stamp = none

/-- Bank n of the task is the physical bank p, in normal mode. -/
def Owns (s : State) (t : Task) (n p : Nat) : Prop := t.bank n = some (.own p) ∧ (s.curCore.bank p).rule = false

end Sys2Proof.Claim

/-- R153, R154, R157, R164 to R171, R173, R313: the bank operations check their banks and issue their change; MSTAMP, MSTB, MSYNC;
AALLOC, AFREE and ABAND. -/
def Obligations.BankOperations : Prop :=
  ∀ (s : State) (t : Task), MCan s t →
    let c := s.cur.core.val
    ((∀ y ∈ t.mq, y.open_ = false) →
      (∀ (bank : BankNo) (n : Fin 64) (imm : BitVec 12) (ps : List Nat), bank.val + n.val < 64 →
        (List.range (n.val + 1)).map (fun i => t.bank (bank.val + i)) = ps.map (fun p => some (.own p)) →
        ∃ s', exec (.mzero bank n imm) s = .next s' ∧ Issued s s' t (ps.map (fun p => (p, .zero imm))) 2)
      ∧ (∀ (bank : BankNo) (p : Nat) (imm : BitVec 12), Owns s t bank.val p →
        (∃ s', exec (.manch bank imm) s = .next s' ∧ Issued s s' t [(p, .anchor imm)] 2)
        ∧ (t.pendingOn [p] = false →
          (anchorOf (s.curCore.bank p) + imm.toNat ≤ 2047 → ∃ s', exec (.mrnm bank imm) s = .next s'
            ∧ Issued s s' t (if imm = 0 then [] else [(p, .renorm imm.toNat)]) 2)
          ∧ (2047 < anchorOf (s.curCore.bank p) + imm.toNat → exec (.mrnm bank imm) s = .next (s.takeFault fIllegalOperand 0).mEnd)))
      ∧ (∀ (d src : BankNo) (p q : Nat), Owns s t d.val p → Owns s t src.val q →
        (t.pendingOn [q] = false → ∃ s', exec (.mcopy d src) s = .next s' ∧ Issued s s' t (if p = q then [] else [(p, .copy (some q))]) 2)
        ∧ (∀ (x : VSrc) (mode : ScaMode), t.inWindow x = true → t.full x = true →
          ∃ s', exec (.msca d src x mode) s = .next s' ∧ Issued s s' t [(p, .scale (some q) (t.vsrc x) mode)] 3))
      ∧ (∀ (d src : BankNo) (p : Nat), Owns s t d.val p → t.bank src.val = none → t.eff.accu = false →
        (∃ s' t', exec (.mcopy d src) s = .next s' ∧ s'.curTask = some t' ∧ t'.status = t.status ∧ Issued s s' t [(p, .copy none)] 2)
        ∧ (∀ (x : VSrc) (mode : ScaMode), t.inWindow x = true → t.full x = true →
          ∃ s' t', exec (.msca d src x mode) s = .next s' ∧ s'.curTask = some t' ∧ t'.status = t.status
            ∧ Issued s s' t [(p, .scale none (t.vsrc x) mode)] 3)))
    ∧ (∀ (bank src : BankNo) (imm : BitVec 12) (x : VSrc) (mode : ScaMode),
      let all := fun (code : BitVec 8) => exec (.manch bank imm) s = .next (s.takeFault code 0).mEnd
        ∧ exec (.mrnm bank imm) s = .next (s.takeFault code 0).mEnd ∧ exec (.mcopy bank src) s = .next (s.takeFault code 0).mEnd
        ∧ exec (.msca bank src x mode) s = .next (s.takeFault code 0).mEnd
      (t.bank bank.val = none → all fAccUnalloc ∧ exec (.mzero bank 0 imm) s = .next (s.takeFault fAccUnalloc 0).mEnd)
      ∧ (∀ p i, t.bank bank.val = some (.alias_ p i) → all fAccBand ∧ exec (.mzero bank 0 imm) s = .next (s.takeFault fAccBand 0).mEnd)
      ∧ (∀ p, t.bank bank.val = some (.own p) → (s.curCore.bank p).rule = true → all fIllegalOperand))
    ∧ (∀ (a : AReg) (per : BitVec 12),
      exec (.mstb a per) s = .next ((s.modCur (fun u => { u with stbase := t.a .m a.val, stper := per })).mEnd.finish 2))
    ∧ (∀ off : BitVec 9,
      let x := t.st .m
      let ends := fun (l : Option (BitVec 17 × BitVec 17)) => ∃ b, l = some (b, x.pc + 1)
      (x.hdr.getLsbD 1 = true ∧ x.pc + 1 ≠ x.blkEnd ∧ ¬ ends x.l1 ∧ ¬ ends x.l2 →
        exec (.mstamp off) s = .next ((s.modCur (fun u => { u with stamp := some off })).finish 1))
      ∧ (x.hdr.getLsbD 1 = false ∨ x.pc + 1 = x.blkEnd ∨ ends x.l1 ∨ ends x.l2 →
        exec (.mstamp off) s = .next (s.takeFault fIllegalInsn 0)))
    ∧ (∀ (bank : BankNo) (p : Nat), t.bank bank.val = some (.own p) → t.rtoks.length < 4 →
      ∃ s' t', exec (.msync bank) s = .next s' ∧ s'.curTask = some t' ∧ Issued s s' t [] 2
        ∧ t'.rtoks = t.rtoks ++ [{ after_ := s.nextId, bank := p, left := none }])
    ∧ (∀ (bank : BankNo) (n : Fin 64) (w : Bool), bank.val + n.val < 64 → (∀ i, i ≤ n.val → t.bank (bank.val + i) = none) →
      ((heldBanks t).length + n.val + 1 ≤ t.eff.banks → n.val + 1 ≤ banksLeft s s.curCore →
        ∃ s' t', exec (.aalloc bank n w) s = .next s' ∧ s'.curTask = some t' ∧ MKept t t' ∧ t'.mq = t.mq
          ∧ t'.st .m = (t.st .m).advance 2 ∧ s'.mem = s.mem
          ∧ (∀ i, i ≤ n.val → ∃ p, s.curCore.freeBanks[i]? = some p ∧ t'.bank (bank.val + i) = some (.own p)
              ∧ (s'.core c).bank p = freshBank)
          ∧ (∀ m, m < bank.val ∨ bank.val + n.val < m → t'.bank m = t.bank m))
      ∧ (t.eff.banks < (heldBanks t).length + n.val + 1 →
          exec (.aalloc bank n w) s = .next ((s.modCur (fun u => { u with status := u.status ||| 2, flagged := u.flagged ||| 2 })).mEnd.finish 2))
      ∧ ((heldBanks t).length + n.val + 1 ≤ t.eff.banks → banksLeft s s.curCore < n.val + 1 → exec (.aalloc bank n w) s =
          if w then .next s else .next ((s.modCur (fun u => { u with status := u.status ||| 2, flagged := u.flagged ||| 2 })).mEnd.finish 2)))
    ∧ (∀ (bank : BankNo) (n : Fin 64), t.pendingOn ((List.range (n.val + 1)).filterMap (fun i => t.ownBank (bank.val + i))) = false →
      ∃ s' t', exec (.afree bank n) s = .next s' ∧ s'.curTask = some t' ∧ MKept t t' ∧ t'.mq = t.mq ∧ s'.mem = s.mem
        ∧ t'.st .m = (t.st .m).advance 2
        ∧ (∀ i p, i ≤ n.val → t.bank (bank.val + i) = some (.own p) → t'.bank (bank.val + i) = none ∧ p ∈ (s'.core c).freeing
            ∧ (s'.core c).bank p = freshBank)
        ∧ (∀ m p, m < bank.val ∨ bank.val + n.val < m → t.bank m = some (.own p) → t'.bank m = some (.own p)))
    ∧ (∀ (bank q : BankNo) (owners : BitVec 12) (p : Nat), t.bank bank.val = some (.own p) →
      let os := (List.range 4).map (fun b => owners.toNat / 2 ^ (3 * b) % 8)
      let other := fun (o : Nat) => o ∈ os ∧ o ≠ s.cur.slot.val
      let b := s.curCore.bank p
      (∀ o ∈ os, o < 4) → ((∃ o, other o) ∨ q.val = 0) →
      (∀ o, other o → ∃ u, s.task? c o = some u ∧ u.pav = t.pav ∧ u.cr.region = t.cr.region ∧ u.bank q.val = none) →
      ∃ s' t', exec (.aband bank q owners) s = .next s' ∧ s'.curTask = some t' ∧ MKept t t' ∧ t'.st .m = (t.st .m).advance 2
        ∧ ((∃ o, other o) → (s'.core c).bank p = { b with owners := some os })
        ∧ ((¬ ∃ o, other o) → (s'.core c).bank p = { b with owners := none })
        ∧ (∀ o, other o → ∃ u, s'.task? c o = some u ∧ u.bank q.val = some (.alias_ p s.cur.slot.val)) ∧ s'.mem = s.mem)

namespace Sys2Proof.Claim

/-- The operands of a product are at hand and nothing of its slot stands before it (R155, R160, R303). -/
def AtHand (s : State) (t : Task) (q : Prod) (x y : List Byte) : Prop :=
  (∃ pg, prodPages s s.curDie t q = .ok pg) ∧ (lookOp s s.cur.core.val t q.atag q.aneed []).data = some x
    ∧ (lookOp s s.cur.core.val t q.btag q.bneed []).data = some y
    ∧ (∀ e ∈ s.curCore.replay, e.slot = s.cur.slot.val → e.prod.bank ≠ q.bank ∧ q.atag ∉ e.tags t ∧ q.btag ∉ e.tags t)
    ∧ t.inFlight s.curCore s.cur.slot.val < 32

/-- A product has issued with its operands: its change stands last in the order, its token, if any, is promised. -/
def Entered (s s' : State) (t : Task) (q : Prod) (x y : List Byte) (tok : Bool) (st : StreamCtx) : Prop :=
  ∃ t', s'.curTask = some t' ∧ changes t'.mq = changes t.mq ++ [(q.bank, q.change x y, false)] ∧ t'.st .m = st ∧ MKept t t'
    ∧ t'.bmap = t.bmap ∧ t'.rtoks = (if tok then t.rtoks ++ [{ after_ := s.nextId, bank := q.bank, left := none }] else t.rtoks)
    ∧ (∀ p, (s'.core s.cur.core.val).bank p = s.curCore.bank p) ∧ (Unstored s → s'.mem = s.mem)

/-- The operands that the fields name are valid descriptors of the product's format. -/
def Formats (t : Task) (o : MOps) (a b : List Byte) : Prop :=
  t.desc o.aslot.val = some a ∧ t.desc o.bslot.val = some b ∧ tyOf (readDesc a).ty = fmtTy o.fmt ∧ tyOf (readDesc b).ty = fmtTy o.fmt

end Sys2Proof.Claim

/-- R150 to R163, R303: MMA, its compact form, MMAG, the steps of MMK and MRES enter their product with the operands that their
lookups find; an MMA without an operand parks and its stream goes on. -/
def Obligations.ProductsEnter : Prop :=
  ∀ (s : State) (t : Task) (o : MOps) (p : Nat) (a b : List Byte), MCan s t → t.run = none → Owns s t o.bank.val p → Formats t o a b →
    (o.ctl = .rdy → t.rtoks.length < 4) →
    let ac := t.a .m o.acoord.val
    let bc := t.a .m o.bcoord.val
    let x := t.st .m
    (∀ (asub : Fin 16) (ah bh : Hint) (tb : Bool), asub.val < 4 →
      let q := mkProd t o p (a, b) ac bc asub.val ah bh tb none
      (∀ u v, AtHand s t q u v → ∃ s', exec (.mma o asub 0 ah bh tb) s = .next s' ∧ Entered s s' t q u v q.tok (x.advance 3))
      ∧ (((lookOp s s.cur.core.val t q.atag q.aneed []).data = none ∨ (lookOp s s.cur.core.val t q.btag q.bneed []).data = none) →
        (∃ pg, prodPages s s.curDie t q = .ok pg) → t.inFlight s.curCore s.cur.slot.val < 32 → replayUse s s.cur.core.val < 32 →
        s.curCore.reasm.length + fillsNeeded q (lookOp s s.cur.core.val t q.atag q.aneed []) (lookOp s s.cur.core.val t q.btag q.bneed []) ≤ 256 →
        ∃ s' t', exec (.mma o asub 0 ah bh tb) s = .next s' ∧ s'.curTask = some t' ∧ t'.st .m = x.advance 3
          ∧ changes t'.mq = changes t.mq ++ [(p, .token, true)] ∧ MKept t t' ∧ (Unstored s → s'.mem = s.mem)
          ∧ ∃ e ∈ (s'.core s.cur.core.val).replay, e.slot = s.cur.slot.val ∧ e.n = s.nextId ∧ e.prod = q))
    ∧ (∀ bank : BankNo, o = { bank := bank, aslot := 0, acoord := 0, bslot := 1, bcoord := 1, ctl := .acc, fmt := statMfmt t.status, xv := false } →
      let q := mkProd t o p (a, b) ac bc 0 .none .none false none
      ∀ u v, AtHand s t q u v → ∃ s', exec (.mmaC bank) s = .next s' ∧ Entered s s' t q u v false (x.advance 1))
    ∧ (∀ (idx : VSrc) (ah bh : Hint), t.inWindow idx = true → t.full idx = true →
      let row := fun (i : Nat) => (t.vsrc idx).getD (64 * i) 0
      let q := mkProd t o p (a, b) ac bc 0 ah bh false
        (some ((List.range 16).map (fun i => if (row i).getLsbD 31 then none else some ((row i).toNat % 1024))))
      ∀ u v, AtHand s t q u v → ∃ s', exec (.mmag o idx ah bh) s = .next s' ∧ Entered s s' t q u v q.tok (x.advance 3))
    ∧ (∀ (n : BitVec 8) (la lb : Fin 4) (u v : List Byte),
      let q := mkProd t o p (a, b) (laneAdd ac la.val 0) (laneAdd bc lb.val 0) 0 .none .none false none
      let q1 : Prod := { q with tok := q.tok && n = 1 }
      AtHand s t q1 u v →
      (n = 1 → ∃ s' t', exec (.mmk o n la lb) s = .next s' ∧ Entered s s' t q1 u v q1.tok (x.advance 3) ∧ s'.curTask = some t'
        ∧ t'.run = none)
      ∧ (n ≠ 1 → ∃ s' t' r, exec (.mmk o n la lb) s = .next s' ∧ Entered s s' t q1 u v false x ∧ s'.curTask = some t'
        ∧ t'.run = some r ∧ r.step = 1 ∧ r.acrd = ac ∧ r.bcrd = bc ∧ r.iaddr = x.pc ∧ r.parked = false
        ∧ runOps r.word r.ext = some { o := o, n := if n = 0 then 256 else n.toNat, la := la.val, lb := lb.val }))
    ∧ (∀ (ra : AReg) (s1 : State) (bs : List Byte) (r : RunOps),
      let va := t.a .m ra.val
      let word := BitVec.ofNat 32 (field bs 0 4)
      let ext := BitVec.ofNat 16 (field bs 4 2)
      let step := field bs 6 2
      va.toNat % 32 = 0 → s.mRead t va.toNat 32 = .ok s1 bs → runOps word ext = some r → field bs 8 8 = 0 → r.o = o →
      (step = r.n → o.ctl ≠ .rdy → exec (.mres o.bank ra) s = .next (s1.mEnd.finish 2))
      ∧ (step = r.n → o.ctl = .rdy → exec (.mres o.bank ra) s =
          .next ((s1.fresh.promise s.cur.core.val s.cur.slot.val s1.nextId p).mEnd.finish 2))
      ∧ (step < r.n → ∀ u v,
        let run : MRun := { descs := some (a, b), stamped := false, word := word, ext := ext, step := step, acrd := BitVec.ofNat 64 (field bs 16 8),
                            bcrd := BitVec.ofNat 64 (field bs 24 8), bank := o.bank.val, iaddr := x.pc, parked := false, stopped := false }
        let q := stepProd t run r p (a, b)
        AtHand s1 t q u v → ∃ s' t', exec (.mres o.bank ra) s = .next s' ∧ s'.curTask = some t'
          ∧ (step + 1 = r.n → Entered s1 s' t q u v q.tok (x.advance 2) ∧ t'.run = none)
          ∧ (step + 1 < r.n → Entered s1 s' t q u v false x ∧ t'.run = some { run with step := step + 1 }))
      ∧ (r.n < step → exec (.mres o.bank ra) s = .next (s.takeFault fIllegalOperand 0).mEnd))

/-- R153, R154, R171, R287, R305, R306, R313: a change whose turn it is takes effect on its bank and on no other; a stamped
instruction that is late counts a miss or traps; the token of landed changes is sent; a freed bank is zero and free; a parked
product with its operands takes its place in the order. -/
def Obligations.BankEvents : Prop :=
  ∀ (s : State) (core : CoreId) (slot : SlotId) (t : Task), s.task? core.val slot.val = some t →
    let c := core.val
    let l := slot.val
    (∀ (pre post : List Pending) (x : Pending), t.mq = pre ++ x :: post → x.open_ = false → x.mix = [] → x.due ≤ s.cyc →
      (∀ y ∈ pre, y.n ≠ x.n ∧ x.after y = false) →
      let b := (s.core c).bank x.bank
      let src : Option Bank := match x.op with
        | .scale none .. => some freshBank
        | op => op.source.map (s.core c).bank
      ∃ s' t', exec (.bankLanding core slot x.n) s = .next s' ∧ s'.task? c l = some t' ∧ t'.mq = pre ++ post
        ∧ (s'.core c).bank x.bank = applyChange src x.op b ∧ (∀ q, q ≠ x.bank → (s'.core c).bank q = (s.core c).bank q)
        ∧ (x.op.fromNone = false → { t' with mq := t.mq, past := t.past } = t)
        ∧ (x.op.fromNone = true → t'.status = t.status ||| 1
            ∧ { t' with mq := t.mq, past := t.past, status := t.status, flagged := t.flagged } = t) ∧ s'.mem = s.mem)
    ∧ (∀ off, t.stamp = some off →
      let at_ := stampAt t off
      let x : Ctx := { core := core, slot := slot, stream := .m }
      (s.cyc.toNat < at_ → exec (.stampedIssue core slot) s = .next s)
      -- the instruction behind the stamp issues; MSTB stands for the others that read no memory, which share the rules of Table 11-4
      ∧ (t.mAsk = none → at_ ≤ s.cyc.toNat → canIssue s x = true → ∀ (a : AReg) (per : BitVec 12) (n : Nat),
        decode .m ((t.st .m).lbuf.drop ((t.st .m).pc - (t.st .m).blk - 2).toNat) = .ok (.mstb a per, n) →
        (at_ < s.cyc.toNat → (t.st .m).hdr.getLsbD 0 = true → ∃ s', exec (.mstb a per) { s with cur := x } = .next s'
          ∧ s' = ({ s with cur := x } : State).takeFault fSchedMiss 0 ∧ exec (.stampedIssue core slot) s = .next { s' with cur := s.cur })
        ∧ ((at_ = s.cyc.toNat ∨ (t.st .m).hdr.getLsbD 0 = false) → ∃ s' t', exec (.stampedIssue core slot) s = .next s'
          ∧ s'.task? c l = some t' ∧ t'.stamp = none ∧ t'.stbase = t.a .m a.val ∧ t'.stper = per ∧ t'.st .m = (t.st .m).advance 2
          ∧ (at_ = s.cyc.toNat → t'.status = t.status)
          ∧ (at_ < s.cyc.toNat → t'.status.toNat / 2 ^ 48 = min (t.status.toNat / 2 ^ 48 + 1) 65535
              ∧ t'.status.toNat % 2 ^ 48 = t.status.toNat % 2 ^ 48)
          ∧ { t' with stamp := t.stamp, status := t.status, stbase := t.stbase, stper := t.stper, strm := t.strm } = t
          ∧ s'.cur = s.cur ∧ s'.mem = s.mem)))
    ∧ (∀ (r : ReadyTok) (rest : List ReadyTok), t.rtoks = r :: rest → r.left = none → (∀ x ∈ t.mq, x.bank ≠ r.bank ∨ r.after_ < x.n) →
      (∀ x ∈ t.past, x.bank ≠ r.bank ∨ r.after_ < x.n ∨ x.due < s.cyc) →
      ((s.core c).bank r.bank).owners = none →
      ((t.fifo .m .v).length < 15 → ∃ s' t', exec (.bankReadyToken core slot) s = .next s' ∧ s'.task? c l = some t'
        ∧ t'.fifo .m .v = t.fifo .m .v ++ [{ upto := r.after_ + 1, seen := (t.st .m).seen, bank := some r.bank, at_ := s.cyc }] ∧ r ∉ t'.rtoks
        ∧ { t' with toks := t.toks, rtoks := t.rtoks } = t ∧ s'.mem = s.mem)
      ∧ (15 ≤ (t.fifo .m .v).length → rest = [] → exec (.bankReadyToken core slot) s = .next s))
    ∧ (∀ bank : BankNo, bank.val ∈ (s.core c).freeing → ∃ s', exec (.bankRelease core bank) s = .next s'
      ∧ bank.val ∉ (s'.core c).freeing ∧ (s'.core c).bank bank.val = freshBank
      ∧ (∀ q, q ≠ bank.val → (s'.core c).bank q = (s.core c).bank q ∧ (q ∈ (s'.core c).freeing ↔ q ∈ (s.core c).freeing)) ∧ s'.mem = s.mem)
    ∧ (∀ (e : Parked) (pre post : List Pending) (x : Pending) (u v : List Byte), (s.core c).replay.find? (parkedReady s c) = some e →
      e.slot = l → e.run = none → e.took = [] → t.mq = pre ++ x :: post → x.n = e.n → x.open_ = true → (∀ y ∈ pre ++ post, y.n ≠ e.n) →
      (∃ pg, prodPages s (dieOf c) t e.prod = .ok pg) → (lookOp s c t e.prod.atag e.prod.aneed e.known).data = some u →
      (lookOp s c t e.prod.btag e.prod.bneed e.known).data = some v →
      ∃ s' t', exec (.replayReentry core) s = .next s' ∧ s'.task? c l = some t'
        ∧ changes t'.mq = changes pre ++ (x.bank, e.prod.change u v, false) :: changes post
        ∧ (∀ f ∈ (s'.core c).replay, f.n ≠ e.n) ∧ MKept t t' ∧ s'.mem = s.mem)

namespace Sys2Proof.Claim

/-- The M stream can read a grammar page at an address: its head, whose fields pass their checks, and then the ranges that the head
names, each page of which it may read; s' is the state that the reads leave, page what they give (R318, R322, Table 14-3). -/
def Readable (s s' : State) (t : Task) (va : Word64) (page : List Byte × List Byte) : Prop :=
  ∃ s1 hb bs pg, va.toNat % 64 = 0 ∧ s.mRead t va.toNat 64 = .ok s1 hb ∧ headOk hb = true
    ∧ gPages s t ((gHead hb).ranges va.toNat) = .ok pg ∧ s1.mReads t ((gHead hb).ranges va.toNat) = .ok s' bs
    ∧ page = (gHead hb).page hb bs

/-- The rules that rule or row n of a page refers to. -/
def refersTo (e : GEnv) (n m : Nat) : Prop := .ref m ∈ spanOf e.page e.syms n

/-- The fields of a task that no instruction of the grammar unit changes, and the move past two parcels. -/
def GMoved (t t' : Task) : Prop :=
  t'.s = t.s ∧ t'.q = t.q ∧ t'.areg = t.areg ∧ t'.k = t.k ∧ t'.status = t.status ∧ t'.bmap = t.bmap
    ∧ t'.st .m = (t.st .m).advance 2

end Sys2Proof.Claim

/-- R174 to R178, R318, R322 to R324: each of the five instructions of the grammar unit completes. GXWIN with 256 registers inside
the window sets the window; GLOAD of a page that it can read and that passes its checks keeps the page; GSLOT of a range of owned
banks without bands makes exactly them the rule-mode banks at the first one's anchor; GEVAL whose rules refer only to evaluated rules
or to earlier ones of its own evaluates them into their slots; GROW whose rows refer only to evaluated rules issues the rows of its
sums to its bank. Then where they raise their faults: a page that fails, a window, a range, a rule that is not evaluated. -/
def Obligations.GrammarInstructions : Prop :=
  ∀ (s : State) (t : Task), MCan s t →
    let rules := ruleBanks s.curCore t
    -- GXWIN completes
    (∀ (v : Fin 512) (bf16 : Bool), v.val < 384 → v.val + 255 < t.window → exec (.gxwin v bf16) s =
        .next ((s.modCur (fun u => { u with gram := { u.gram with win := some (v.val, bf16) } })).mEnd.finish 2))
    -- GLOAD completes
    ∧ (∀ (a : AReg) (s1 : State) (page : List Byte × List Byte), Readable s s1 t (t.a .m a.val) page →
      tablesOk page.1 = true → orderFault page.1 = none →
      ∃ s' t', exec (.gload a) s = .next s' ∧ s'.curTask = some t' ∧ GMoved t t' ∧ t'.v = t.v ∧ t'.mq = t.mq ∧ s'.mem = s1.mem
        ∧ t'.gram = { t.gram with
            page := some page
            pageVa := t.a .m a.val
            slots := t.gram.slots.map (fun x => (x.1, { x.2 with ev := false })) })
    -- GSLOT completes
    ∧ (∀ (bank : BankNo) (n : BitVec 7) (ps : List Nat), (n = 0 → bank.val = 0) → bank.val + n.toNat ≤ 64 →
      (List.range n.toNat).map (fun i => t.bank (bank.val + i)) = ps.map (fun p => some (.own p)) →
      (∀ p ∈ ps, (s.curCore.bank p).owners = none) → t.pendingOn (rules ++ ps) = false →
      let anchor := match ps with | q :: _ => (s.curCore.bank q).anchor | [] => 0
      ∃ s' t', exec (.gslot bank n) s = .next s' ∧ s'.curTask = some t' ∧ GMoved t t'
        ∧ t'.gram = { t.gram with base := bank.val, count := n.toNat, anchor := anchor, slots := [] }
        ∧ changes t'.mq = changes t.mq ++ rules.map (fun p => (p, .slotOff, false)) ++ ps.map (fun p => (p, .slotOn anchor, false))
        ∧ (∀ q, (s'.core s.cur.core.val).bank q = { s.curCore.bank q with
              rule := if q ∈ ps then true else if q ∈ rules then false else (s.curCore.bank q).rule })
        ∧ (Unstored s → s'.mem = s.mem))
    -- GEVAL completes
    ∧ (∀ (lvl : Fin 16) (e : GEnv), gEnv t (slotAnchor s.curCore t 0) = some e →
      let ns := ruleRange (gHead e.page) lvl.val
      (∀ n ∈ ns, ∃ p, slotBank s.curCore t (n / 16) = some p) → winFull t = true → t.pendingOn rules = false →
      (∀ n ∈ ns, ∀ m, refersTo e n m → (m ∈ ns ∧ m < n) ∨ ∃ x, slotVal s t m = some x) →
      ∃ s' t' vs, exec (.geval lvl) s = .next s' ∧ s'.curTask = some t' ∧ GMoved t t' ∧ evalRules s t e ns = (vs, false)
        ∧ (∀ n ∈ ns, ∃ v, (n, v) ∈ vs
            ∧ mfind n t'.gram.slots = some { ev := true, range := v.range, inexact := v.inexact, cnt := v.cnt })
        ∧ (∀ n, n ∉ ns → mfind n t'.gram.slots = mfind n t.gram.slots)
        ∧ (∀ q, (s'.core s.cur.core.val).bank q = s.curCore.bank q) ∧ (Unstored s → s'.mem = s.mem))
    -- GROW completes
    ∧ (∀ (a : AReg) (bank : BankNo) (ovw : Bool) (n : Fin 32) (p : Nat) (e : GEnv), Owns s t bank.val p →
      let here := anchorOf (s.curCore.bank p)
      let first := (gHead e.page).nrule + (t.a .m a.val).toNat % 2 ^ 16
      gEnv t (slotAnchor s.curCore t here) = some e → here = slotAnchor s.curCore t here →
      1 ≤ n.val → n.val ≤ 16 → (t.a .m a.val).toNat % 2 ^ 16 + n.val ≤ (gHead e.page).nrow → winFull t = true →
      t.pendingOn (p :: rules) = false →
      ((∀ i, i < n.val → ∀ m, refersTo e (first + i) m → ∃ x, slotVal s t m = some x) →
        ∃ s' vs, exec (.grow a bank ovw n) s = .next s' ∧ Issued s s' t [(p, rowsChange vs ovw)] 2
          ∧ (List.range n.val).map (fun i => gSum e (slotVal s t) (spanOf e.page e.syms (first + i))) = vs.map some)
      -- and where its row k, and none before it, refers to a rule that is not evaluated
      ∧ (∀ k, k < n.val → (∀ i, i < k → ∀ m, refersTo e (first + i) m → ∃ x, slotVal s t m = some x) →
        (∃ m, refersTo e (first + k) m ∧ slotVal s t m = none) →
        ∃ (s' : State) (t' : Task) (vs : List GVal), exec (.grow a bank ovw n) s = .next (s'.takeFault fRuleUndef 0).mEnd ∧ s'.curTask = some t' ∧ vs.length = k
          ∧ changes t'.mq = changes t.mq ++ (if k = 0 then [] else [(p, rowsChange vs ovw, false)])))
    -- the faults of the others
    ∧ (∀ (a : AReg), (t.a .m a.val).toNat % 64 ≠ 0 → exec (.gload a) s = .next (s.noPage.takeFault fAlign (t.a .m a.val)).mEnd)
    ∧ (∀ (a : AReg) (s1 : State) (hb : List Byte), (t.a .m a.val).toNat % 64 = 0 → s.mRead t (t.a .m a.val).toNat 64 = .ok s1 hb →
      headOk hb = false → exec (.gload a) s = .next (s.noPage.takeFault fIllegalOperand 0).mEnd)
    ∧ (∀ (a : AReg) (s1 : State) (page : List Byte × List Byte), Readable s s1 t (t.a .m a.val) page →
      (tablesOk page.1 = false → exec (.gload a) s = .next (s.noPage.takeFault fIllegalOperand 0).mEnd)
      ∧ (∀ code, tablesOk page.1 = true → orderFault page.1 = some code → exec (.gload a) s = .next (s.noPage.takeFault code 0).mEnd))
    ∧ (∀ (v : Fin 512) (bf16 : Bool), t.window ≤ v.val + 255 → exec (.gxwin v bf16) s = .next (s.takeFault fIllegalOperand 0).mEnd)
    ∧ (∀ (bank : BankNo) (n : BitVec 7) (i : Nat), n.toNat ≤ 64 → i < n.toNat → bank.val + i < 64 → t.bank (bank.val + i) = none →
      exec (.gslot bank n) s = .next (s.takeFault fAccUnalloc 0).mEnd)
    ∧ (∀ (lvl : Fin 16) (e : GEnv), gEnv t (slotAnchor s.curCore t 0) = some e →
      let ns := ruleRange (gHead e.page) lvl.val
      ((∃ n ∈ ns, slotBank s.curCore t (n / 16) = none) → exec (.geval lvl) s = .next (s.takeFault fIllegalOperand 0).mEnd)
      ∧ ((∀ n ∈ ns, ∃ p, slotBank s.curCore t (n / 16) = some p) → winFull t = true → t.pendingOn rules = false →
        (∃ n ∈ ns, ∃ m, refersTo e n m ∧ ¬ (m ∈ ns ∧ m < n) ∧ slotVal s t m = none) →
        ∃ s' : State, exec (.geval lvl) s = .next (s'.takeFault fRuleUndef 0).mEnd))


/-! ## Saved contexts, key retirement, logical time (spec/16, spec/19) -/

namespace Sys2Proof.Claim

/-- The fields of a task that leave with it when it is saved: all but the marks of the save and of its cycle, its aliases with what
stands on them and is owed to their holders, and its FE waits; its run will go on from its record. -/
def SameContext (t u : Task) : Prop :=
  ({ u with
      saving := t.saving
      held := t.held
      bmap := t.bmap
      strm := t.strm
      cr := t.cr
      flagged := t.flagged
      srCyc := t.srCyc
      drains := t.drains
      bfills := t.bfills
      mlast := t.mlast
      vseen := t.vseen
      past := t.past
      rtoks := t.rtoks
      run := t.run } : Task) = t
    ∧ u.cr = { t.cr with resume := u.cr.resume } ∧ u.run = t.run.map (fun r => { r with stopped := true })
    ∧ ∀ k, { u.st k with feSince := (t.st k).feSince } = t.st k

end Sys2Proof.Claim

/-- R283, R313, R314, R379 to R386: a stopped task whose work in flight has ended leaves its slot with all its context, its banks
zeroed, and is queued again unless something holds it; a restored one has its context again, in new banks, under a new TASKID;
SNAPRD and SNAPWR write and read its save area; RQREL issues again what was parked. -/
def Obligations.ContextsAreSavedAndRestored : Prop :=
  ∀ (s : State),
    (∀ (core : CoreId) (slot : SlotId) (t : Task) (why : Nat),
      let c := core.val
      let l := slot.val
      s.task? c l = some t → t.saving = some why →
      (stopQuiet s t = false → exec (.taskSaveDone core slot) s = .next s)
      ∧ (stopQuiet s t = true → ∃ s' v, exec (.taskSaveDone core slot) s = .next s' ∧ s'.task? c l = none
        ∧ mfind s.nextId s'.saved = some v ∧ SameContext t v.task ∧ v.banks = savedBanks (s.core c) t ∧ v.tstop = t.stopAt
        ∧ (∀ n p, mfind n t.bmap = some (.own p) → p ∈ (s'.core c).freeing ∧ (s'.core c).bank p = freshBank)
        ∧ (t.stopped = false → t.held = false → why ≠ 1 → savedQueued s s.nextId = false →
            (∀ p, s.pav? t.pav = some p → ∀ h ∈ p.heldRegions, h.1 ≠ t.cr.region.toNat) →
            ∃ q ∈ s'.queued, q.saved = some s.nextId ∧ q.pav = t.pav)))
    ∧ (∀ (core : CoreId) (slot : SlotId) (r : Starting) (id : Nat) (v : Saved),
      let c := core.val
      let l := slot.val
      let free : List Nat := (s.core c).freeBanks
      let orphans := (taskFills s v.task.uid).filter (fun f => f.2.orphan)
      let new := fun (p : Nat) => ((v.banks.map (·.1)).zip free).findSome? (fun x => if v.task.ownBank x.1 = some p then some x.2 else none)
      mfind l (s.core c).starting = some r → r.saved = some id → mfind id s.saved = some v → r.filled = true → startsOn s c r.pav = true →
      v.banks.length ≤ free.length → (v.banks.map (·.1)).Nodup → v.pins = [] → v.released = false →
      replayUse s c + v.parked.length + v.task.behindOps ≤ 32 → (s.core c).reasm.length + orphans.length ≤ 256 →
      ∃ (s' : State) (t : Task), exec (.taskRestoreDone core slot) s = .next s' ∧ s'.task? c l = some t ∧ t.taskid = taskIdOf c l (nextSeq (s.core c) l)
        ∧ t.prio = r.prio ∧ t.stbase = v.task.stbase + (s.cyc - v.tstop) ∧ t.s = v.task.s ∧ t.q = v.task.q ∧ t.areg = v.task.areg
        ∧ t.fly = v.task.fly.map (fun f => { f with vis := s.cyc + (f.vis - v.tstop) }) ∧ t.v = v.task.v ∧ t.k = v.task.k ∧ t.status = v.task.status ∧ t.tslot = v.task.tslot ∧ t.tver = v.task.tver
        ∧ t.gram = v.task.gram ∧ t.run = v.task.run ∧ t.itin = v.task.itin ∧ t.lease = v.task.lease
        ∧ (∀ i j, t.fifo i j = (v.task.fifo i j).map (fun k => { k with bank := k.bank.map (fun p => (new p).getD 64) }))
        ∧ (∀ k, { t.st k with since := (v.task.st k).since, passed := (v.task.st k).passed } = v.task.st k)
        ∧ (∀ (i n : Nat) (b : Bank), v.banks[i]? = some (n, b) → ∃ p : Nat, free[i]? = some p ∧ mfind n t.bmap = some (.own p) ∧ (s'.core c).bank p = b)
        ∧ mfind id s'.saved = none ∧ mfind l (s'.core c).starting = none ∧ s'.mem = s.mem)
    ∧ (∀ v : AreaView,
      let b := areaBytes v
      let u := v.task
      field b 8 4 = u.taskid.toNat ∧ field b 0x10 8 = v.tstop.toNat ∧ field b 0x250 8 = u.status.toNat
      ∧ (∀ n, n < 16 → field b (0x140 + 8 * n) 8 = (u.sregStop n).toNat
          ∧ field b (0x1C0 + 8 * n) 8 = if nbit u.qstate n then 0 else (u.q.getD n 0).toNat)
      ∧ (∀ n, n < 24 → field b (0x280 + 8 * n) 8 = (u.aregStop n).toNat)
      ∧ (∀ n, n < 7 → field b (0x400 + 128 * n) 128 = (u.kregStop (n + 1)).toNat))
    ∧ (∀ (t : Task) (d : SDst) (a b : SSrc), t.eff.sysSvc = true → s.cur.stream = .s → CanIssue s t [a, b] d →
      let x := t.src a
      let y := (t.src b).toNat
      (stoppedView s t x = none → exec (.snaprd d a b) s = wrote s d 0x04 2 ∧ exec (.snapwr d a b) s = wrote s d 0x04 2)
      ∧ (∀ v, stoppedView s t x = some v →
        let area := fun (n : Nat) => (s.readVa s.curDie t.pav y n).getD []
        let readable := fun (n : Nat) => ∀ p ∈ pagesOf y n, ∃ lf pa, xlateNow s s.curDie t.pav p .read = .ok lf pa
        let n := field (area 8) 4 4
        (∀ s1, s.writeRange s.curDie t.pav y (areaBytes v) = .inl s1 →
          exec (.snaprd d a b) s = wrote s1 d 0 2 ∧ s1.curTask = some t)
        ∧ (∀ code, s.writeRange s.curDie t.pav y (areaBytes v) = .inr code → exec (.snaprd d a b) s = wrote s d (code.setWidth 64) 2)
        ∧ (readable 0x1600 →
          (dirOk (area 0x1600) = false → exec (.snapwr d a b) s = wrote s d 0x04 2)
          ∧ (dirOk (area 0x1600) = true → readable n →
            (readArea s v (area n) = none → exec (.snapwr d a b) s = wrote s d 0x04 2)
            ∧ (∀ u id w, readArea s v (area n) = some u → namedTask s t x 0 = .saved id w →
                let f := field (area 8) 2 2
                let v' : Saved := { w with task := { u.task with stopped := nbit f 0 }, banks := u.banks, parked := prodsOf u.replay,
                                           pins := u.pins, byFault := nbit f 0, held := nbit f 1, watchdog := nbit f 2 }
                exec (.snapwr d a b) s = wrote { s with nextId := s.nextId + 128, saved := mset id v' s.saved } d 0 2)
            ∧ (∀ u c l w, readArea s v (area n) = some u → namedTask s t x 0 = .resident c l w →
                (c, l) ≠ (s.cur.core.val, s.cur.slot.val) →
                ∃ s' w', exec (.snapwr d a b) s = .next s' ∧ s'.task? c l = some w' ∧ { w' with repins := u.task.repins } = u.task
                  ∧ GotStatus (s.setTask c l w') s' t d 0
                  ∧ (∀ m r p, (m, r) ∈ u.banks → (u.banks.map (·.1)).Nodup → (∀ m', u.task.ownBank m' = some p → m' = m) →
                      u.task.ownBank m = some p → (s'.core c).bank p = { r with owners := ((s.core c).bank p).owners })
                  ∧ (∀ e, e ∈ (s'.core c).replay ↔ (e ∈ (s.core c).replay ∧ e.slot ≠ l) ∨ e ∈ prodsOf u.replay)))))
      ∧ (namedTask s t x (zeroB b (t.src b)) = .nowhere → exec (.rqrel d a b) s = wrote s d 0x04 2)
      ∧ (∀ c l u, namedTask s t x (zeroB b (t.src b)) = .resident c l u →
        -- what is parked in recovery mode afterwards has been parked anew
        (∃ s', exec (.rqrel d a b) s = .next s' ∧ ∀ e ∈ (s'.core c).replay, e.slot = l → e.recovery = true → s.nextId ≤ e.parkN)
        ∧ (u.fills = [] → (∀ e ∈ (s.core c).replay, e.slot = l → e.recovery = false) →
          ∃ s', exec (.rqrel d a b) s = .next s' ∧ GotStatus s s' t d 0
            ∧ (∀ k n z, mfind n (s.core k).copies = some z → z.uid = u.uid → z.state = 4 →
                ∃ z', mfind n (s'.core k).copies = some z' ∧ z'.state = 0 ∧ z'.stage = .start)))
      ∧ (∀ id v, namedTask s t x (zeroB b (t.src b)) = .saved id v →
        ∃ s', exec (.rqrel d a b) s = .next s' ∧ GotStatus s s' t d 0
          ∧ mfind id s'.saved = some { v with released := true, parked := v.parked.map (fun e => { e with recovery := false }) }
          ∧ (∀ k n z, mfind n (s.core k).copies = some z → z.uid = v.task.uid → z.state = 4 →
              ∃ z', mfind n (s'.core k).copies = some z' ∧ z'.state = 0 ∧ z'.stage = .start)))

/-- R242, R344, R347, R348, R351: KEYRET leaves no line and no tile record under the key and notes it as retired; LTIME_TICK, once a
tick of 256 cycles has ended, advances each core that no rule raised in it, with a broadcast every 2^24 ticks; FLOOR_BROADCAST raises cores and homes to the new floor and drops what lies
before it. -/
def Obligations.KeyRetirementAndLogicalTime : Prop :=
  ∀ (s : State),
    (∀ (t : Task) (d : SDst) (a b : SSrc), t.eff.sysSvc = true → s.cur.stream = .s → CanIssue s t [a, b] d →
      let key := nbits (t.src a).toNat 6 0
      (t.pav ≠ 128 → exec (.keyret d a b) s = .next (s.takeFault fPrivOp 0))
      ∧ (t.pav = 128 → tilesLeft s (fun g => g.key = key) = false → ∃ s', exec (.keyret d a b) s = .next s'
        ∧ (∀ h, (∀ x ∈ (s'.home h).dir, x.2.tag.key ≠ key) ∧ ∀ x ∈ (s'.home h).vers, x.1.key ≠ key)
        -- with no fill of the key to give up, no other access asks again
        ∧ ((∀ x ∈ s.tfills, x.2.tag.key ≠ key) → GotStatus s s' t d 0
          ∧ (∀ c, ∀ x ∈ (s'.core c).l1, x.key ≠ key) ∧ (∀ e, ∀ x ∈ (s'.die e).dlc, x.key ≠ key)
          ∧ (∀ n p, s.pav? n = some p → ∃ p', s'.pav? n = some p' ∧ (p.key = key → key ∈ p'.retired) ∧ (p.key ≠ key → p' = p))))
      ∧ (t.pav = 128 → tilesLeft s (fun g => g.key = key) = true → ∃ s', exec (.keyret d a b) s = .next s' ∧ s'.curTask = some t))
    ∧ ((s.cyc.toNat / 256 ≤ s.dev.ticks → exec .ltimeTick s = .next s)
      ∧ (s.dev.ticks < s.cyc.toNat / 256 →
        (∀ c, c < 256 → beyondFloor s (if (s.core c).raised then (s.core c).ltime else (s.core c).ltime + 1) = false) →
        (s.dev.floorTick + 2 ^ 24 ≤ s.dev.ticks + 1 → ∃ s', exec .ltimeTick s = .next s' ∧ s'.dev.ticks = s.dev.ticks + 1
          ∧ s'.dev.floorTick = s.dev.ticks + 1)
        ∧ (s.dev.ticks + 1 < s.dev.floorTick + 2 ^ 24 → ∃ s', exec .ltimeTick s = .next s' ∧ s'.dev = { s.dev with ticks := s.dev.ticks + 1 } ∧ { s' with cores := s.cores, dev := s.dev } = s
          ∧ ∀ c, c < 256 → s'.core c = { s.core c with
              ltime := if (s.core c).raised then (s.core c).ltime else (s.core c).ltime + 1
              raised := false })))
    ∧ ((s.dev.ticks < s.dev.floorTick + 2 ^ 24 → floorAsked s = false → exec .floorBroadcast s = .next s)
      ∧ (s.dev.floorTick + 2 ^ 24 ≤ s.dev.ticks ∨ floorAsked s = true → ∃ s' f, exec .floorBroadcast s = .next s'
        ∧ f = latestLtime s - 0x01000000 ∧ s'.dev = { s.dev with floor := f, floorTick := s.dev.ticks }
        ∧ (∀ c, c < 256 → (s'.core c).ltime = tmax f (s.core c).ltime
            ∧ (∀ x, x ∈ (s'.core c).l1 ↔ x ∈ (s.core c).l1 ∧ ¬ (x.coh = true ∧ later 32 f.toNat x.rts.toNat = true)))
        ∧ (∀ h, h < 64 → ∀ i r', (i, r') ∈ (s'.home h).recs ↔ ∃ r, (i, r) ∈ (s.home h).recs ∧ r.mark = false ∧ r' = { r with mark := true })
        ∧ { s' with cores := s.cores, homes := s.homes, dev := s.dev } = s))


/-! ## Dispatch and the life of tasks (spec/10, spec/11, spec/19) -/

namespace Sys2Proof.Claim

/-- The result that a FORK or LAUNCH waits for is v (R231). -/
def Answered (s s' : State) (k : Ctx) (tag : Nat) (v : Word64) : Prop :=
  ∀ t, s.task? k.core.val k.slot.val = some t → ∃ t', s'.task? k.core.val k.slot.val = some t'
    ∧ t'.pend = t.pend.map (fun p => if p.tag = tag then { p with res := .value v } else p) ∧ { t' with pend := t.pend } = t

/-- A record placed: it stands on its slot, with its window, its image resident or its fill begun (R258, R279). -/
def Placed (s s' : State) (c l b level : Nat) (q : QCr) : Prop :=
  let k := s.core c
  let there := k.resident.contains q.cr.image && !k.filling.any (fun f => f.2 = q.cr.image)
  (∃ r, mfind l (s'.core c).starting = some r ∧ r.pav = q.pav ∧ r.cr = q.cr ∧ r.prio = level ∧ r.saved = q.saved ∧ r.ts = q.ts
    ∧ r.floor = q.eff.floor
    ∧ r.filled = there)
  ∧ mfind l (s'.core c).vwin = some (b, q.cr.win.toNat) ∧ (there = false → (l, q.cr.image) ∈ (s'.core c).filling)
  ∧ (s'.core c).slots = k.slots ∧ s'.mem = s.mem

end Sys2Proof.Claim

/-- R231, R258, R277 to R284, R288: what CR_ENQUEUE does with a record; a decision places the only record of a die on the
first core in order that fits, and a claimed one once its slot is free; pre-emption takes only tasks two levels below; rising,
migration and reservation. -/
def Obligations.RecordsAreQueuedAndPlaced : Prop :=
  ∀ (s : State),
    (∀ (id : Nat) (x : CrSub), mfind id s.crsubs = some x →
      let c := crView x.rec_
      let l := launchView x.rec_
      let f := fun (o n : Nat) => field x.rec_ o n
      let queues := fun (s' : State) (fp join image region : Nat) (a : BitVec 20) =>
        (∃ q ∈ s'.queued, q.pav = x.pav ∧ q.cr.fp = BitVec.ofNat 64 fp ∧ q.cr.join = BitVec.ofNat 64 join ∧ q.cr.image = BitVec.ofNat 16 image
          ∧ q.cr.region = BitVec.ofNat 16 region ∧ q.cr.lacct = a ∧ q.saved = none ∧ q.claim = none ∧ q.since = s.cyc ∧ q.ts = x.ts)
        ∧ mfind id s'.crsubs = none ∧ s'.mem = s.mem
      (∀ k tag a, x.src = .fork k tag → x.acct = some a →
        (∀ off, x.checked = false → recFault s x.pav c true = some off → ∃ s', exec (.crEnqueue id) s = .next s' ∧ mfind id s'.crsubs = none
          ∧ Answered s s' k tag (BitVec.ofNat 64 (4 + off * 2 ^ 8)) ∧ s'.dies = s.dies)
        ∧ (x.checked = true ∨ recFault s x.pav c true = none → (∀ d p, roomFor s d p c.gang = true) → ∃ s', exec (.crEnqueue id) s = .next s'
          ∧ queues s' (f 0 8) (f 8 8) (f 0x10 2) (f 0x12 2) a ∧ Answered s s' k tag 0 ∧ s'.accts = s.accts))
      ∧ (∀ k tag e, x.src = .launch k tag e → x.acct = none →
        (∀ off, x.checked = false → recFault s x.pav l false = some off → ∃ s', exec (.crEnqueue id) s = .next s' ∧ mfind id s'.crsubs = none
          ∧ Answered s s' k tag (BitVec.ofNat 64 (4 + off * 2 ^ 8)) ∧ s'.dies = s.dies)
        ∧ (∀ p, (x.checked = true ∨ recFault s x.pav l false = none) → s.pav? x.pav = some p →
          (s.accts.length < 2 ^ 20 → (∀ d p, roomFor s d p l.gang = true) → ∃ s' a, exec (.crEnqueue id) s = .next s'
            ∧ queues s' (f 0 8) (f 0x10 8) (f 0x18 2) (f 0x1A 2) (BitVec.ofNat 20 a) ∧ Answered s s' k tag 0 ∧ mfind a s.accts = none
            ∧ mfind a s'.accts = some { pav := x.pav, lid := p.nextLid, charge := 0, exhausted := false, exhAt := 0,
                                        budget := if f 8 8 = 0 then ((regionEff s x.pav (f 0x1A 2)).getD noEff).energy else f 8 8 })
          ∧ (2 ^ 20 ≤ s.accts.length → ∃ s', exec (.crEnqueue id) s = .next s' ∧ mfind id s'.crsubs = none
            ∧ Answered s s' k tag 0x0804))))
    ∧ (∀ die : DieId,
      let d := die.val
      (∀ (level : Nat) (lv : Level) (q : QCr) (x c l b : Nat), level < 24 → (s.die d).levels = [(level, lv)] → lv.crs = [q] →
        lv.ptr = some q.region → lv.deficit = [(q.region.1, q.region.2, x)] → q.cr.gang.toNat ≤ 1 → (∀ y ∈ s.queued, y.claim = none) →
        q.claim = none → (∀ y ∈ s.dies, y.2.reserves = []) → 1 ≤ weightOf lv q.region →
        (coreOrder s d).find? (fun e => (fitOn s e q).isSome) = some c → fitOn s c q = some (l, b) →
        ∃ s', exec (.dispatchDecision die) s = .next s' ∧ Placed s s' c l b level q ∧ ∀ y ∈ (s'.die d).levels, y.2.crs = [])
      ∧ (∀ level q c ids, claimOf s d = some (level, q, some c, ids) → q.cr.gang.toNat ≤ 1 →
        (leaving s ids ≠ [] → exec (.dispatchDecision die) s = .next s)
        ∧ (∀ l b, leaving s ids = [] → fitOn s c q = some (l, b) →
          ∃ s', exec (.dispatchDecision die) s = .next s' ∧ Placed s s' c l b level q))
      ∧ (∀ s', exec (.dispatchDecision die) s = .next s' → (∀ p ∈ s.tasks, s.task? p.1 p.2.1 = some p.2.2) →
        ∀ c l t t', s.task? c l = some t → s'.task? c l = some t' → t.saving = none → t'.saving ≠ none →
          ∃ level q, headCr s d = some (level, q) ∧ t.prio + 2 ≤ level)
      ∧ (∀ n level q, (s.die d).levels.findSome? (fun p => (p.2.crs.find? (fun y => y.age = n)).map (fun y => (p.1, y))) = some (level, q) →
        let ceil := q.eff.ceil
        let at_ := fun (s : State) (p : Nat) => (mget p Level.empty (s.die d).levels).crs
        -- a saved member of a gang rises with the others of its level; level 23 is the highest (log 67)
        let us := if (savedGang s q).isSome then unitOf s (at_ s level) q else [q]
        ((s.cyc - q.since).toNat < 2 ^ 20 ∨ ceil ≤ level ∨ 23 ≤ level ∨ spent s q.cr.lacct.toNat = true →
          exec (.crPriorityRise die n) s = .next s)
        ∧ (2 ^ 20 ≤ (s.cyc - q.since).toNat → level < ceil → level < 23 → spent s q.cr.lacct.toNat = false →
          q ∈ at_ s level → ∃ s', exec (.crPriorityRise die n) s = .next s'
          ∧ (∀ u ∈ us, { u with since := s.cyc } ∈ at_ s' (level + 1)) ∧ q ∈ us ∧ (∀ y ∈ at_ s' level, y.age ≠ n)
          ∧ (∀ p, p ≠ level → p ≠ level + 1 → at_ s' p = at_ s p) ∧ { s' with dies := s.dies } = s))
      ∧ (∀ level age since q e rest, (s.die d).top = some (level, age, since) →
        (mget level Level.empty (s.die d).levels).crs.find? (fun y => y.age = age) = some q →
        let fits := fun (d : Nat) => (List.range 32).any (fun i => (fitOn s (32 * d + i) q).isSome)
        4096 ≤ (s.cyc - since).toNat → q.claim = none → fits d = false →
        sortBy (diePress s) ((List.range 8).filter (fun e => e ≠ d && fits e)) = e :: rest →
        ∃ s', exec (.crMigrate die) s = .next s' ∧ q ∈ (mget level Level.empty (s'.die e).levels).crs
          ∧ (∀ y ∈ (mget level Level.empty (s'.die d).levels).crs, y.age ≠ age) ∧ { s' with dies := s.dies } = s)
      ∧ (∃ s', exec (.gangReserve die) s = .next s' ∧ { s' with dies := s.dies } = s
        ∧ (∀ r ∈ (s.die d).reserves, r ∈ (s'.die d).reserves)
        ∧ ∀ p lv a c q, (p, lv) ∈ (s.die d).levels → lv.headSince = some (a, c) → 2 ^ 16 ≤ (s.cyc - c).toNat →
          lv.crs.find? (fun y => y.age = a && decide (1 < y.cr.gang.toNat)) = some q → ∃ r ∈ (s'.die d).reserves, r.1 = a))

namespace Sys2Proof.Claim

/-- Nothing of a task stands in the way of its end (R230). -/
def Quiet (s : State) (t : Task) : Prop :=
  t.exiting = true ∧ t.stopped = false ∧ t.saving = none ∧ (∀ k, (t.st k).phase = .halted) ∧ taskSlots s t.uid = [] ∧ t.mq = []
    ∧ (∀ r ∈ s.reqs, r.2.task ≠ t.taskid) ∧ ∀ r ∈ s.rops, r.2.task ≠ t.taskid

end Sys2Proof.Claim

/-- R230, R258, R261, R276, R287 to R291, R387, Table 10-8: a filled image stands in IMEM; a started task has the state of
Table 10-8; an ended one gives up its slot and its banks; the watchdog, the energy budget, the thermal limit and the loss of core
state. -/
def Obligations.TasksStartRunOutAndEnd : Prop :=
  ∀ (s : State) (core : CoreId),
    let c := core.val
    (∀ slot : SlotId,
      let l := slot.val
      (∀ x h i, (s.core c).filling.find? (fun f => f.1 = l) = some (x, h) → mfind h.toNat s.images = some i →
        ∃ s', exec (.imemFillDone core slot) s = .next s' ∧ (∀ n, n < i.code.length → (s'.core c).parcel (i.base + n) = i.code.getD n 0)
          ∧ (∀ p, p < i.base ∨ i.base + i.code.length ≤ p → (s'.core c).parcel p = (s.core c).parcel p) ∧ h ∈ (s'.core c).resident
          ∧ (∀ f ∈ (s'.core c).filling, f.2 ≠ h)
          ∧ (∀ m r, mfind m (s.core c).starting = some r → mfind m (s'.core c).starting = some (if r.cr.image = h then { r with filled := true } else r))
          ∧ (∀ y ∈ (s'.core c).resident, y = h ∨ y ∈ (s.core c).resident ∧ ∃ j, mfind y.toNat s.images = some j
              ∧ (i.base + i.code.length ≤ j.base ∨ j.base + j.code.length ≤ i.base)))
      ∧ (∀ r p i, mfind l (s.core c).starting = some r → r.saved = none → r.filled = true → s.pav? r.pav = some p →
        mfind r.cr.image.toNat s.images = some i → r.cr.banks.toNat ≤ (s.core c).freeBanks.length →
        let pc := i.base + r.cr.entry.toNat
        ((s.core c).quarantine ≠ none ∨ p.st ≠ PState.running → exec (.taskStart core slot) s = .next s)
        ∧ ((s.core c).quarantine = none → p.st = PState.running → pc < 2 ^ 17 → nbits ((s.core c).parcel pc).toNat 15 12 = 12 →
          ∃ s' t, exec (.taskStart core slot) s = .next s' ∧ s'.task? c l = some t
            ∧ t.taskid = taskIdOf c l (nextSeq (s.core c) l) ∧ t.prio = r.prio ∧ t.pav = r.pav ∧ t.key = p.key
            ∧ t.eff = (regionEff s r.pav r.cr.region.toNat).getD noEff ∧ t.lease = BitVec.ofNat 8 t.eff.lease
            ∧ t.sreg 0 = r.cr.fp ∧ t.sreg 1 = r.cr.join ∧ t.sreg 2 = BitVec.ofNat 64 (r.cr.rank.toNat + r.cr.gang.toNat * 2 ^ 16)
            ∧ t.sreg 3 = t.taskid.setWidth 64 ∧ (∀ n, 4 ≤ n → t.sreg n = 0) ∧ (∀ n, t.q.getD n 0 = 0) ∧ (∀ k n, t.a k n = 0)
            ∧ (∀ n, t.vreg n = zeroCells) ∧ (∀ n, 1 ≤ n → t.kreg n = 0) ∧ (∀ i j, t.fifo i j = []) ∧ (∀ n, t.desc n = none)
            ∧ t.status = (if spent s r.cr.lacct.toNat then 4 else 0)
            ∧ (t.st .s).pc = BitVec.ofNat 17 pc ∧ (t.st .s).phase = .atHeader ∧ (∀ k, k ≠ .s → t.st k = StreamCtx.reset)
            ∧ (∀ n, n < r.cr.banks.toNat → ∃ b, mfind n t.bmap = some (.own b) ∧ b ∈ (s.core c).freeBanks ∧ (s'.core c).bank b = freshBank)
            ∧ (∀ n, r.cr.banks.toNat ≤ n → mfind n t.bmap = none) ∧ mfind l (s'.core c).starting = none ∧ s'.mem = s.mem))
      ∧ (∀ t, s.task? c l = some t →
        ((¬ Quiet s t) → exec (.taskEnd core slot) s = .next s)
        ∧ (Quiet s t → t.cr.join = 0 → ∃ s', exec (.taskEnd core slot) s = .next s' ∧ s'.task? c l = none
          ∧ (∀ b ∈ heldBanks t, b ∈ (s'.core c).freeing ∧ (s'.core c).bank b = freshBank)
          ∧ (∀ e ∈ (s'.core c).pins, e.slot ≠ l)
          ∧ (∀ a p x, mfind t.cr.lacct.toNat s.accts = some a → s.pav? a.pav = some p → mfind a.lid p.launches = some x →
              ∃ p' x', s'.pav? a.pav = some p' ∧ mfind a.lid p'.launches = some x' ∧ x'.ended = x.ended + 1))
        ∧ (t.wdDue = false → t.eff.wdMode = 0 ∨ t.stopped = true ∨ t.saving ≠ none ∨ t.wdCount < t.eff.wdWin * 2 ^ 10 →
          exec (.watchdogFire core slot) s = .next s)
        ∧ (t.wdDue = true ∨ (t.eff.wdMode ≠ 0 ∧ t.stopped = false ∧ t.saving = none ∧ t.eff.wdWin * 2 ^ 10 ≤ t.wdCount) → t.eff.policy ≠ 0 →
          (fqHead s t.pav t.eff.fq).isSome = true →
          ∃ s' t', exec (.watchdogFire core slot) s = .next s' ∧ s'.task? c l = some t' ∧ t'.saving = some (t.saving.getD 1)
            ∧ t'.fault = fProgress ∧ t'.wdDue = false ∧ (t.stopped = false → t.saving = none → t'.stopAt = s.cyc)
            ∧ { t' with saving := t.saving, fault := t.fault, stopAt := t.stopAt, held := t.held, wdDue := t.wdDue } = t)))
    ∧ (∀ (acct : BitVec 20) (a : Acct), mfind acct.toNat s.accts = some a →
      let mark := fun (t : Task) => if t.cr.lacct = acct then { t with status := t.status ||| 4, flagged := t.flagged ||| 4 } else t
      let low := fun (t : Task) => if t.cr.lacct = acct then { t with prio := t.eff.floor } else t
      (a.exhausted = true ∨ a.budget = 0 ∨ a.charge < a.budget * 20000 → exec (.energyExhausted acct) s = .next s)
      ∧ (a.exhausted = false → a.budget ≠ 0 → a.budget * 20000 ≤ a.charge → ∃ s', exec (.energyExhausted acct) s = .next s'
        ∧ mfind acct.toNat s'.accts = some { a with exhausted := true, exhAt := s.cyc }
        ∧ (∀ e l t, s.task? e l = some t → s'.task? e l = some (mark t))
        ∧ (∀ id v, mfind id s.saved = some v → mfind id s'.saved = some { v with task := mark v.task })
        ∧ (∀ e, (s'.core e).starting = (s.core e).starting) ∧ s'.dies = s.dies
        ∧ (∀ p nq, s.pav? a.pav = some p → mfind 0 p.nqs = some nq → nq.vals.length < 256 → ∃ p' nq', s'.pav? a.pav = some p'
            ∧ mfind 0 p'.nqs = some nq' ∧ nq'.vals = nq.vals ++ [(BitVec.ofNat 64 (0x161 + acct.toNat * 2 ^ 16), s.cyc)])
        ∧ s'.mem = s.mem)
      -- as the cycle ends, an account at its budget is exhausted with no event of its own, and the launch comes to its FLOOR
      ∧ (s.accts = [(acct.toNat, a)] →
        (a.over = true → s.exhaustAll =
          ({ (({ s with cyc := s.cyc - 1 } : State).exhaust acct.toNat a) with cyc := s.cyc } : State).toFloor acct.toNat)
        ∧ (a.exhausted = true → a.exhAt = s.cyc - 1 → s.exhaustAll = s.toFloor acct.toNat)
        ∧ (a.over = false → ¬ (a.exhausted = true ∧ a.exhAt = s.cyc - 1) → s.exhaustAll = s))
      ∧ (∀ s', s' = s.toFloor acct.toNat →
        (∀ e l t, s.task? e l = some t → s'.task? e l = some (low t))
        ∧ (∀ id v, mfind id s.saved = some v → mfind id s'.saved = some { v with task := low v.task })
        ∧ (∀ e l r, mfind l (s.core e).starting = some r → mfind l (s'.core e).starting
            = some (if r.cr.lacct = acct then { r with prio := r.floor } else r))
        ∧ (∀ d, d ∈ s.dies.map (·.1) → ∀ y ∈ (s'.die d).levels, ∀ q ∈ y.2.crs, q.cr.lacct = acct → y.1 = q.eff.floor)
        ∧ s'.mem = s.mem))
    ∧ (∃ s', exec (.thermalWithhold core) s = .next s' ∧ (∀ l k, canIssue s' { core := core, slot := l, stream := k } = false)
      ∧ (∀ e l, s'.task? e l = s.task? e l) ∧ { s' with cores := s.cores } = s)
    ∧ (∃ s', exec (.stateLoss core) s = .next s' ∧ (∀ l, s'.task? c l = none) ∧ (s'.core c).quarantine = some s.cyc)
    ∧ (∀ q, (s.core c).quarantine = some q →
      ((s.cyc - q).toNat < 2 ^ 16 → exec (.coreStateCleared core) s = .next s)
      ∧ (2 ^ 16 ≤ (s.cyc - q).toNat → ∃ s', exec (.coreStateCleared core) s = .next s' ∧ (s'.core c).quarantine = none
        ∧ (∀ b, (s'.core c).bank b = freshBank) ∧ (s'.core c).latch = [] ∧ (s'.core c).replay = []
        ∧ (s'.core c).slots = (s.core c).slots ∧ { s' with cores := s.cores } = s))


/-! ## Tile directories, DRAM, fabric (spec/12, spec/17, spec/20, spec/21) -/

namespace Sys2Proof.Claim

/-- Message m of number id stands for its home hm, its flits have come, and numbers given later are later. -/
def Stands (s : State) (id : Nat) (m : TMsg) (hm : Nat) : Prop :=
  mfind id s.tmsgs = some m ∧ m.home = some hm ∧ id < s.nextId ∧ s.come id 0 = true

/-- Entry e of number i is the directory's entry of a tile. -/
def Entry (s : State) (hm i : Nat) (g : TTag) (e : DirEntry) : Prop := dirFind (s.home hm) g = some (i, e) ∧ mfind i (s.home hm).dir = some e

/-- No reader of any core waits for a tile. -/
def NoReaders (s : State) : Prop :=
  (∀ p ∈ s.tasks, p.2.2.fills = [] ∧ p.2.2.stores = [] ∧ p.2.2.itin = none) ∧ ∀ c ∈ s.cores, c.2.copies = [] ∧ c.2.replay = []

/-- Fill f of number id has landed: its line holds the version and the bytes that its entry assembled. -/
def Landed (s s' : State) (id : Nat) (f : TFill) (v : Nat) (ts : Option Word32) : Prop :=
  mfind id s'.tfills = none ∧ (∀ e ∈ (s'.core f.core).reasm, e.2.1 ≠ id) ∧ s'.mem = s.mem
  ∧ ∃ l', mfind f.way (s'.die f.die).tarn = some l' ∧ l'.tag = f.tag ∧ l'.ver = v ∧ l'.data = f.bytes ∧ l'.filling = false
    ∧ l'.dirty = false ∧ l'.pub = ts

end Sys2Proof.Claim

/-- R296, R297, R301, R304, R307 to R310, R401: a fill's request makes an entry, is forwarded to the nearest holder, is served
from memory or queued; a holder sends its clean line or refuses; a write-back of a newer version is written and published; drops,
recalls, flits, arrivals and version queries. -/
def Obligations.TileDirectoriesServeAndPublish : Prop :=
  ∀ (s : State),
    (∀ (e : DirEntry) (die d : Nat), nearest e die false = some d → d < 8 ∧ d ≠ die ∧ (d, e.p) ∈ e.holders
      ∧ ∀ x, x < 8 → x ≠ die → (x, e.p) ∈ e.holders → dieDist die d ≤ dieDist die x)
    ∧ (∀ (id hm : Nat) (m : TMsg) (exact : Bool) (ver : Option Nat), Stands s id m hm → m.kind = .request exact ver → m.remote = none →
      waiting (s.home hm) id = true →
      let h := s.home hm
      (dirFind h m.tag = none → h.dir.length < 32768 → ∃ s' i e, exec (.tileDirRequest id) s = .next s' ∧ mfind i (s'.home hm).dir = some e
        ∧ e.tag = m.tag ∧ e.p = (pubOf h m.tag).1 ∧ e.ts = (pubOf h m.tag).2 ∧ e.holders = [] ∧ mfind i h.dir = none ∧ s'.mem = s.mem
        ∧ (servable e.p exact ver = true → e.st = .filling ∧ e.serving = [id] ∧ e.queue = [])
        ∧ (servable e.p exact ver = false → e.st = .present ∧ e.serving = [] ∧ e.queue = [id]))
      ∧ (∀ i e d, Entry s hm i m.tag e → e.st = .present → servable e.p exact ver = true → nearest e m.die false = some d →
        ∃ s', exec (.tileDirRequest id) s = .next s' ∧ mfind id s'.tmsgs = some { m with kind := .forward d } ∧ s'.mem = s.mem)
      ∧ (∀ i e, Entry s hm i m.tag e → e.st = .recalling ∨ servable e.p exact ver = false →
        ∃ s' e', exec (.tileDirRequest id) s = .next s' ∧ mfind i (s'.home hm).dir = some e' ∧ e'.queue = e.queue ++ [id] ∧ e'.p = e.p
          ∧ e'.st = e.st ∧ s'.mem = s.mem)
      ∧ (∀ i e, dirFind h m.tag = none → 32768 ≤ h.dir.length → (∀ x ∈ h.dir, x.2.st ≠ .recalling) → dirVictim h = some (i, e) →
        mfind i h.dir = some e → ∃ s' e', exec (.tileDirRequest id) s = .next s' ∧ mfind i (s'.home hm).dir = some e' ∧ e'.st = .recalling))
    ∧ (∀ (id hm d i : Nat) (m : TMsg) (e : DirEntry) (f : TFill), Stands s id m hm → m.kind = .forward d → Entry s hm i m.tag e →
      mfind m.fill s.tfills = some f →
      (e.st = .recalling ∨ servable e.p f.exact f.ver = false → ∃ s' e', exec (.holderForward id) s = .next s'
        ∧ mfind id s'.tmsgs = some { m with kind := .request f.exact f.ver } ∧ mfind i (s'.home hm).dir = some e'
        ∧ e' = { e with queue := e.queue ++ [id] } ∧ s'.mem = s.mem)
      ∧ (e.st ≠ .recalling → servable e.p f.exact f.ver = true →
      (∀ l, cleanAt s d m.tag e.p = some l → ∃ s' e', exec (.holderForward id) s = .next s' ∧ mfind id s'.tmsgs = none
        ∧ mfind m.fill s'.tfills = some { f with data := some (e.p, e.ts, .tarn) }
        ∧ s'.fab = (s.injectData (tarnRouter d hm) (routerOf f.core) flTileData (entryOf s f.core m.fill) (m.fill, 0) f.pav (slice l.data 0 4096)).fab ∧ mfind i (s'.home hm).dir = some e'
        ∧ (m.die, e.p) ∈ e'.holders ∧ e'.p = e.p ∧ s'.mem = s.mem)
      ∧ (cleanAt s d m.tag e.p = none → ∃ s', exec (.holderForward id) s = .next s'
        ∧ mfind id s'.tmsgs = some { m with kind := .request f.exact f.ver } ∧ s'.mem = s.mem)))
    -- until its flits have come a message changes nothing
    ∧ (∀ (id hm : Nat) (m : TMsg), mfind id s.tmsgs = some m → m.home = some hm → s.come id 0 = false →
      (∀ exact ver, m.kind = .request exact ver → exec (.tileDirRequest id) s = .next s)
      ∧ (∀ d, m.kind = .forward d → exec (.holderForward id) s = .next s) ∧ (∀ v, m.kind = .wbBegin v → exec (.tileWritebackBegin id) s = .next s)
      ∧ (m.kind = .drop → exec (.tileDropReport id) s = .next s) ∧ (∀ q, m.kind = .query q → exec (.tileVersionQuery id) s = .next s))
    -- the entry was freed meanwhile: the request is to be handled as Absent
    ∧ (∀ (id hm d : Nat) (m : TMsg) (f : TFill), Stands s id m hm → m.kind = .forward d → dirFind (s.home hm) m.tag = none →
      mfind m.fill s.tfills = some f → ∃ s', exec (.holderForward id) s = .next s'
        ∧ mfind id s'.tmsgs = some { m with kind := .request f.exact f.ver } ∧ s'.homes = s.homes ∧ s'.mem = s.mem)
    ∧ (∀ (id hm v : Nat) (m : TMsg), Stands s id m hm →
      (m.kind = .wbBegin v → (∀ x ∈ (s.home hm).dir, id ∉ x.2.wbHeld) →
        (later 16 v (pubOf (s.home hm) m.tag).1 = false → ∃ s', exec (.tileWritebackBegin id) s = .next s' ∧ mfind id s'.tmsgs = none)
        ∧ (later 16 v (pubOf (s.home hm) m.tag).1 = true → (∀ i e, dirFind (s.home hm) m.tag = some (i, e) → e.st = .present ∨ e.st = .recalling) →
          ∃ s', exec (.tileWritebackBegin id) s = .next s' ∧ s'.mem = s.mem ∧ mfind id s'.tmsgs = some { m with kind := .writing v }
            ∧ ∀ i e, Entry s hm i m.tag e → e.st = .present → ∃ e', mfind i (s'.home hm).dir = some e' ∧ e'.st = .writing ∧ e'.p = e.p))
      ∧ (m.kind = .writing v →
        (atDram s id = true → exec (.tileWritebackBegin id) s = .next s)
        ∧ (∀ s1 w, atDram s id = false → storeTile (s.undram id) m.die m.pav m.desc m.tag m.data m.ts = .ok s1 w →
          ∃ s', exec (.tileWritebackBegin id) s = .next s' ∧ s'.mem = s1.mem ∧ mfind id s'.tmsgs = some { m with kind := .publish v, ts := w }))
      ∧ (m.kind = .publish v → (∀ i e, dirFind (s.home hm) m.tag = some (i, e) → mfind i (s.home hm).dir = some e) →
        ∃ s', exec (.tilePublish id) s = .next s' ∧ pubOf (s'.home hm) m.tag = (v, m.ts) ∧ mfind id s'.tmsgs = none)
      ∧ (∀ i e, m.kind = .drop → Entry s hm i m.tag e → ∃ s' e', exec (.tileDropReport id) s = .next s' ∧ mfind id s'.tmsgs = none
        ∧ mfind i (s'.home hm).dir = some e' ∧ (s.line? m.die m.tag = none → ∀ x ∈ e'.holders, x.1 ≠ m.die)
        ∧ (s.line? m.die m.tag ≠ none → e' = e) ∧ s'.mem = s.mem)
      ∧ (∀ q, m.kind = .query q → m.known = none → ∃ s', exec (.tileVersionQuery id) s = .next s'
        ∧ mfind id s'.tmsgs = some { m with known := some (pubOf (s.home hm) m.tag).1 } ∧ { s' with tmsgs := s.tmsgs, fab := s.fab } = s)
      ∧ (∀ c n p, m.kind = .query (.product c n) → m.known = some p → ∃ s', exec (.tileVersionQuery id) s = .next s' ∧ mfind id s'.tmsgs = none
        ∧ (∀ q ∈ (s'.core c).replay, q.n = n → (m.tag, p) ∈ q.known) ∧ s'.mem = s.mem))
    ∧ (∀ (home : HomeId) (i : Nat) (e : DirEntry), mfind i (s.home home.val).dir = some e → e.st = .recalling → e.holders = [] →
      (∀ x ∈ (s.home home.val).dir, x.2.st = .recalling → x = (i, e)) →
      (∀ x ∈ s.tmsgs, x.2.tag = e.tag → x.2.home = some home.val → ∀ v, x.2.kind ≠ .wbBegin v ∧ x.2.kind ≠ .writing v ∧ x.2.kind ≠ .publish v) →
      ∃ s', exec (.directoryRecallDone home) s = .next s' ∧ mfind i (s'.home home.val).dir = none ∧ s'.mem = s.mem
        ∧ ((∀ x ∈ (s.home home.val).vers, x.1 ≠ e.tag) → e.p ≠ 0 → (e.tag, e.p, e.ts) ∈ (s'.home home.val).vers)
        ∧ (∀ x ∈ (s.home home.val).vers, x.1 = e.tag → (s'.home home.val).vers = (s.home home.val).vers))
    ∧ (∀ (id : Nat) (off : Fin 64), servingEntry s id = none →
      let come := s.fab.arrived.find? (fun x => x.msg = (id, 0) && x.off = off.val)
      (come = none → exec (.reassemblyFlit id off) s = .next s)
      ∧ (∀ x, come = some x → mfind id s.tfills = none → ∃ s', exec (.reassemblyFlit id off) s = .next s'
        ∧ (s'.core x.core).badFlits = satInc (s.core x.core).badFlits ∧ s'.fab.arrived = s.fab.arrived.erase x
        ∧ { s' with cores := s.cores, fab := s.fab } = s)
      ∧ (∀ x (f : TFill), come = some x → mfind id s.tfills = some f →
        let g : TFill := { f with flits := f.flits ||| BitVec.ofNat 64 (2 ^ off.val), got := mset off.val x f.got,
                                  spilled := if f.orphan then ladd off.val f.spilled else f.spilled }
        (g.flits ≠ BitVec.allOnes 64 ∨ f.waitWb ≠ [] → ∃ s', exec (.reassemblyFlit id off) s = .next s' ∧ mfind id s'.tfills = some g
          ∧ s'.fab.arrived = s.fab.arrived.erase x ∧ { s' with tfills := s.tfills, fab := s.fab } = s)
        ∧ (∀ l v ts src, g.flits = BitVec.allOnes 64 → f.waitWb = [] → f.data = some (v, ts, src) → NoReaders s →
          mfind f.way (s.die f.die).tarn = some l → l.tag = f.tag → ∃ s', exec (.reassemblyFlit id off) s = .next s' ∧ Landed s s' id g v ts)))
    ∧ (∀ (id : Nat) (f : TFill), mfind id s.tfills = some f →
      (f.flits ≠ BitVec.allOnes 64 ∨ f.waitWb ≠ [] ∨ f.data = none → exec (.tarnFillArrival id) s = .next s)
      ∧ (∀ l v ts src, f.flits = BitVec.allOnes 64 → f.waitWb = [] → f.data = some (v, ts, src) → NoReaders s →
        mfind f.way (s.die f.die).tarn = some l → l.tag = f.tag → ∃ s', exec (.tarnFillArrival id) s = .next s' ∧ Landed s s' id f v ts))

/-- R361 to R369, R407 to R409, R411: a stack serves the request its scheduler takes, corrects one and two symbols of a half, and
poisons at three and four; patrol, hot list, remap and halving; one cycle of a plane keeps every flit; windows, old flits, notices. -/
def Obligations.StacksAndFabricTurns : Prop :=
  ∀ (s : State),
    (∀ (stack : StackId),
      let m := stack.val
      let k := s.stack m
      let score := fun (s : State) (row : Nat) => mget row 0 (s.stack m).scores
      let passed := fun (at_ : Option Word64) (n : Nat) => ∀ c, at_ = some c → n ≤ (s.cyc - c).toNat
      (∀ (pc : Fin 512) (banks : BitVec 16),
        let q := (mget pc.val [] k.queues).filter (fun r => !r.served || dramOwner s r.own)
        let next := nextReq s.cyc k banks (q.filter s.here)
        (next = none → ∀ e0 e1, ∃ s', exec (.dramRequestServe stack ⟨pc, banks⟩ e0 e1) s = .next s' ∧ mget pc.val [] (s'.stack m).queues = q
          ∧ { s' with drams := s.drams } = s)
        ∧ (∀ r, next = some r → r ∈ q ∧ r.served = false ∧ s.come r.own (lineOf r.pa) = true
          ∧ (k.remapping.contains (rowNo r.pa) = false ∨ r.ahead = true)
          ∧ banks.getLsbD (dramLoc r.pa).bank = true
          ∧ (∀ w, r.pay = some w → ∃ s', exec (.dramRequestServe stack ⟨pc, banks⟩ 0 0) s = .next s'
            ∧ mget pc.val [] (s'.stack m).queues = q.erase r ∧ s'.mem = (s.putLine r.key (lineOf r.pa) w.mask w.data).mem)
          ∧ (r.pay = none → ∃ s', exec (.dramRequestServe stack ⟨pc, banks⟩ 0 0) s = .next s'
            ∧ mget pc.val [] (s'.stack m).queues = q.map (fun x => if x = r then { x with served := true } else x)
            ∧ (∀ p, p ≠ pc.val → mget p [] (s'.stack m).queues = mget p [] k.queues) ∧ (∀ row, score s' row = score s row)
            ∧ s'.mem = s.mem ∧ s'.poison = s.poison)
          ∧ (∀ e0, e0 ≤ 4 → r.write = false → r.pay = none → k.ring = 0 → ∃ s', exec (.dramRequestServe stack ⟨pc, banks⟩ e0 0) s = .next s'
            ∧ s'.mem = s.mem ∧ (lineOf r.pa ∈ s'.poison ↔ lineOf r.pa ∈ s.poison ∨ 3 ≤ e0)
            ∧ score s' (rowNo r.pa) = (if e0 = 0 then score s (rowNo r.pa) else min 1023 (score s (rowNo r.pa) + if e0 = 1 then 16 else 64)))))
      ∧ (∀ pc : Fin 512,
        let lo := mget pc.val 0 k.patrol
        let pa := paOf m (pc.val / 16) (pc.val % 16) lo
        let idle := mget pc.val [] k.queues = [] ∨ passed (mfind pc.val k.lastPatrol) 1024
        let free := k.remapping.contains (rowNo pa) = false ∧ lineHeld s k pa = false
        let due := lo = 0 → passed (mfind pc.val k.passAt) dayCycles
        (idle → free → due → ∃ s', exec (.patrolRead stack pc 0 0) s = .next s' ∧ mget pc.val 0 (s'.stack m).patrol = (lo + 1) % 1572864
          ∧ mfind pc.val (s'.stack m).lastPatrol = some s.cyc ∧ (lo = 0 → mfind pc.val (s'.stack m).passAt = some s.cyc) ∧ s'.mem = s.mem)
        ∧ (¬ (idle ∧ free ∧ due) → ∀ e0 e1, exec (.patrolRead stack pc e0 e1) s = .next s))
      ∧ (∀ (n lo row : Nat), k.hot[n]? = some row → lo < 16 →
        let pa := paOf m (row / 2 ^ 24) (row / 2 ^ 20 % 16) (row % 2 ^ 16 * 256 + row / 2 ^ 16 % 16 * 16 + lo)
        let due := passed (mfind (16 * row + lo) k.hotAt) hotCycles
        let free := k.remapping.contains row = false ∧ lineHeld s k pa = false
        (¬ (due ∧ free) → ∀ e0 e1, exec (.hotListScrub stack n lo e0 e1) s = .next s)
        ∧ (due → free → k.ring = 0 → ∀ e0, e0 ≤ 2 → ∃ s', exec (.hotListScrub stack n lo e0 0) s = .next s' ∧ s'.mem = s.mem
          ∧ mfind (16 * row + lo) (s'.stack m).hotAt = some s.cyc
          ∧ score s' (rowNo pa) = (if e0 = 0 then score s (rowNo pa) else min 1023 (score s (rowNo pa) + if e0 = 1 then 16 else 64))))
      ∧ (∀ row rest errs, k.remapping = row :: rest → copyWaits s k row = true → exec (.rowRemapDone ⟨stack, errs⟩) s = .next s)
      ∧ (∀ row rest errs, k.remapping = row :: rest → copyWaits s k row = false → k.ring = 0 → (∀ x ∈ errs, x.1 ≤ 4 ∧ x.2 ≤ 4) →
        ∃ s', exec (.rowRemapDone ⟨stack, errs⟩) s = .next s' ∧ (s'.stack m).remapping = rest ∧ score s' row = 0 ∧ row ∉ (s'.stack m).hot
          ∧ mget (bankNo row) 0 (s'.stack m).spares = mget (bankNo row) 0 k.spares + 1 ∧ s'.mem = s.mem)
      ∧ (s.cyc.toNat / dayCycles * dayCycles ≤ k.halvedAt.toNat → exec (.scoreHalving stack) s = .next s)
      ∧ (k.halvedAt.toNat < s.cyc.toNat / dayCycles * dayCycles → ∃ s', exec (.scoreHalving stack) s = .next s'
        ∧ s'.stack m = { k with halving := true, halvedAt := s.cyc } ∧ { s' with drams := s.drams } = s)
      ∧ (k.halving = true → (k.scores.map (·.1)).Nodup → (∀ row, mget row 0 k.endCycle.scores = mget row 0 k.scores / 2)
        ∧ (∀ row, row ∈ k.endCycle.hot ↔ row ∈ k.hot ∧ 2 ≤ mget row 0 k.scores) ∧ k.endCycle.halving = false))
    ∧ (∀ plane : Fin 4,
      let p := plane.val
      let old := mget p [] s.fab.flight
      let wait := mget p [] s.fab.waiting
      ∃ s', exec (.routerPortAssignment plane) s = .next s'
        ∧ { s' with fab := s.fab, dies := s.dies, drams := s.drams, ports := s.ports, free := s.free } = s
        ∧ (s.rops = [] → s'.ports = s.ports ∧ s'.free = s.free)
        ∧ (∀ m pc, (mget pc [] (s'.stack m).queues).Perm (mget pc [] (s.stack m).queues))
        ∧ (∀ f, s'.fab.ejected = [f] → isResponse f.typ = false → s'.fab.clear f.msg = true →
          let q := dramQueue (128 * f.msg.2)
          let mine := fun (r : DReq) => r.own = f.msg.1 && r.pa = 128 * f.msg.2 && !r.served
          mget q.2 [] (s'.stack q.1).queues
            = (mget q.2 [] (s.stack q.1).queues).filter (fun r => !mine r) ++ (mget q.2 [] (s.stack q.1).queues).filter mine)
        ∧ (∀ d, { s'.die d with oldFlits := (s.die d).oldFlits } = s.die d)
        ∧ (∀ f ∈ mget p [] s'.fab.flight, 1024 ≤ f.age → f.old = true)
        ∧ (mget p [] s'.fab.flight).length + (mget p [] s'.fab.waiting).length + s'.fab.ejected.length = old.length + wait.length
        ∧ (∀ f ∈ s'.fab.ejected, f.productive = [])
        ∧ s'.fab.arrived = s.fab.arrived ++ s'.fab.ejected.filter (fun f => f.typ = flTileData)
        ∧ (∀ q, q ≠ p → mget q [] s'.fab.flight = mget q [] s.fab.flight ∧ mget q [] s'.fab.waiting = mget q [] s.fab.waiting))
    ∧ ((s.cyc.toNat / 64 = s.fab.win → exec .pressureWindow s = .next s)
      ∧ (s.cyc.toNat / 64 ≠ s.fab.win → ∃ s', exec .pressureWindow s = .next s' ∧ s'.fab.win = s.cyc.toNat / 64 ∧ s'.fab.defl = []
        ∧ (∀ r, r < 384 → levelAt s' r = if routerDie r ∈ s.fab.oldDies then 7 else levelOf (mget r 0 s.fab.defl)) ∧ { s' with fab := s.fab } = s))
    ∧ (∀ (n : Nat) (f : Flit), (mget (n % 4) [] s.fab.flight)[n / 4]? = some f →
      (f.old = true ∨ f.age < 1024 → exec (.oldFlit n) s = .next s)
      ∧ (f.old = false → 1024 ≤ f.age → ∃ s', exec (.oldFlit n) s = .next s' ∧ routerDie f.at_ ∈ s'.fab.oldDies
        ∧ (s'.die (routerDie f.at_)).oldFlits = satInc (s.die (routerDie f.at_)).oldFlits
        ∧ (mget (n % 4) [] s'.fab.flight)[n / 4]? = some { f with old := true } ∧ s'.mem = s.mem))
    ∧ (∀ (core : CoreId) (x : BitVec 512),
      let k := s.core core.val
      ∃ s', exec (.noticeReceive core x) s = .next s' ∧ { s' with cores := s.cores } = s
        ∧ (k.notices.length < 64 → s'.core core.val = { k with notices := k.notices ++ [x] })
        ∧ (64 ≤ k.notices.length → s'.core core.val = { k with spill := k.spill ++ [x] })
        ∧ ∀ c, c ≠ core.val → s'.core c = s.core c)


/-! ## Peer links and remote requests (spec/21) -/

namespace Sys2Proof.Claim

/-- A port of the device and the rest of it: only that port changes. -/
def OnlyPort (s s' : State) (n : Nat) (p : Port) : Prop :=
  s'.port n = p ∧ (∀ m, m ≠ n → s'.port m = s.port m) ∧ { s' with ports := s.ports } = s

/-- A frame that is not damaged and has the shape of Table 21-4. -/
def Shaped (s : State) (f : ShulosFrame) : Prop :=
  f.good = true ∧ f.etype = s.dev.etype ∧ f.ver = 1 ∧ f.kind.toNat ≤ 2 ∧ f.flits.length ≤ 64 ∧ (f.kind = 0 → f.flits ≠ [])

/-- The answer to a remote request is the last one sent, and no byte of memory and no register of a task has changed. -/
def Replied (s s' : State) (r : RemoteReq) (code : BitVec 8) (data : List Byte) : Prop :=
  (∃ a, s'.answers = s.answers ++ [a] ∧ a.op = s.nextId ∧ a.node = r.snode ∧ a.pav = r.spav.val ∧ a.code = code ∧ a.data = data)
    ∧ ∀ c l, s'.task? c l = s.task? c l

end Sys2Proof.Claim

/-- R397, R413 to R416, R422, Table 21-5: what a port does with a frame, when it acknowledges and sends again, and the states of
its link. -/
def Obligations.PeerLinksCarryFramesInOrder : Prop :=
  ∀ (s : State) (port : PortId),
    let n := port.val
    let p := s.port n
    let self := selfNode s
    (∀ f : ShulosFrame,
      (¬ Shaped s f → ∃ s', exec (.shulosFrameReceive port f) s = .next s' ∧ OnlyPort s s' n { p with drop := p.drop + 1 })
      ∧ (Shaped s f → f.kind ≠ 2 → p.st ≠ .up →
          ∃ s', exec (.shulosFrameReceive port f) s = .next s' ∧ OnlyPort s s' n { p with drop := p.drop + 1 })
      ∧ (Shaped s f → f.kind = 2 → exec (.shulosFrameReceive port f) s = .next s)
      ∧ (Shaped s f → f.kind = 1 → p.st = .up → p.waiting = [] → ∃ s' p', exec (.shulosFrameReceive port f) s = .next s' ∧ OnlyPort s s' n p'
          ∧ p'.unacked = p.unacked.filter (fun x => !(later 32 f.ack.toNat x.1)) ∧ p'.rxSeq = p.rxSeq ∧ p'.delivered = p.delivered
          ∧ (p'.unacked.length < p.unacked.length → p'.timeouts = 0 ∧ p'.lastAck = s.cyc))
      ∧ (Shaped s f → f.kind = 0 → p.st = .up → p.waiting = [] → s.dev.node = some f.dnode → f.seq = p.rxSeq →
          ∃ s' p', exec (.shulosFrameReceive port f) s = .next s' ∧ OnlyPort s s' n p' ∧ p'.rxSeq = p.rxSeq + 1 ∧ p'.ackDue = true
            ∧ p'.drop = p.drop ∧ p'.delivered.length = p.delivered.length + f.flits.length
            ∧ (∀ i h d, f.flits[i]? = some (h, d) → ∃ h', p'.delivered[p.delivered.length + i]? = some (h', d)
                ∧ h'.setWidth 55 = (h.setWidth 55 : BitVec 55)))
      ∧ (Shaped s f → f.kind = 0 → p.st = .up → p.waiting = [] → f.seq ≠ p.rxSeq → ∃ s' p', exec (.shulosFrameReceive port f) s = .next s'
          ∧ OnlyPort s s' n p' ∧ p'.rxSeq = p.rxSeq ∧ p'.delivered = p.delivered ∧ p'.drop = p.drop + 1))
    ∧ (∃ s', exec (.shulosAckSend port) s = .next s' ∧ OnlyPort s s' n (if p.st = .up ∧ p.ackDue = true then
        { p with ackDue := false,
                 sent := p.sent ++ [{ good := true, etype := s.dev.etype, ver := 1, kind := 1, seq := p.txSeq, ack := p.rxSeq, dnode := self,
                                      snode := self, flits := [] }] } else p))
    ∧ (let due := p.st = .up ∧ p.unacked ≠ [] ∧ 16000 ≤ (s.cyc - p.lastAck).toNat
      (¬ due → ∃ s', exec (.shulosRetransmit port) s = .next s' ∧ OnlyPort s s' n p)
      ∧ (due → 15 ≤ p.timeouts → ∃ s', exec (.shulosRetransmit port) s = .next s' ∧ OnlyPort s s' n
          { p with st := .training, lostSince := some s.cyc, disagreements := 0, timeouts := 0 })
      ∧ (due → p.timeouts < 15 → ∃ s' l, exec (.shulosRetransmit port) s = .next s'
          ∧ OnlyPort s s' n { p with sent := p.sent ++ l, timeouts := p.timeouts + 1, lastAck := s.cyc }
          ∧ (∀ q x, (q, x) ∈ p.unacked → (p.unacked.map (·.1)).Nodup → p.frame s.dev.etype self 0 (BitVec.ofNat 32 q) x ∈ l)))
    ∧ (∃ s', exec (.linkDownTimer port) s = .next s'
        ∧ OnlyPort s s' n (if p.st = .down ∧ 800000000 ≤ (s.cyc - p.downSince).toNat then { p with st := .training } else p))
    ∧ (∀ v : View, ∃ s', exec (.linkTrained port v) s = .next s' ∧ (p.st ≠ .training → OnlyPort s s' n p)
        ∧ (p.st = .training → ∃ f, f.kind = 2 ∧ OnlyPort s s' n { p with st := .exchange, lview := v, sent := p.sent ++ [f] }))
    ∧ (∀ v : View,
      (p.st ≠ .exchange → exec (.linkViewReceive port v) s = .next s)
      ∧ (p.st = .exchange → p.lview = v → ∃ s', exec (.linkViewReceive port v) s = .next s' ∧ (s'.port n).st = .up ∧ (s'.port n).rview = v
          ∧ (s'.port n).lost = false ∧ (s'.port n).lostSince = none ∧ (s'.port n).timeouts = 0)
      ∧ (p.st = .exchange → p.lview ≠ v → p.disagreements < 2 → ∃ s', exec (.linkViewReceive port v) s = .next s'
          ∧ s'.port n = { p with st := .training, rview := v, disagreements := p.disagreements + 1 })
      ∧ (p.st = .exchange → p.lview ≠ v → 2 ≤ p.disagreements → ∃ s', exec (.linkViewReceive port v) s = .next s'
          ∧ s'.port n = { p with st := .down, downSince := s.cyc, rview := v, disagreements := p.disagreements + 1 }))
    ∧ (∃ s', exec (.linkLoss port) s = .next s' ∧ OnlyPort s s' n (if p.st = .up then
        { p with st := .training, lostSince := some s.cyc, disagreements := 0, timeouts := 0 } else p))
    ∧ (∀ c, p.lostSince = some c → p.lost = false →
      ((s.cyc - c).toNat < 1600000 → exec (.peerLost port) s = .next s)
      ∧ (1600000 ≤ (s.cyc - c).toNat → s.rops = [] → ∃ s', exec (.peerLost port) s = .next s'
          ∧ { s' with ports := s.ports, answers := s.answers } = s ∧ s'.port n = { p with lost := true }
          ∧ (∀ a ∈ s'.answers, a ∈ s.answers ∧ ¬ ∃ e ∈ s.dev.nodes, e.1 = a.node ∧ nbit e.2.toNat n = true
              ∧ ∀ m, m < 16 → nbit e.2.toNat m = true → (s'.port m).lost = true)))

/-- R237, R238, R243, R418, R419: the checks of a remote request in their order, each with its code; a request that passes reads
or writes its bytes and is answered; an answer reaches the operation that waits for it. -/
def Obligations.RemoteRequestsAreCheckedAndAnswered : Prop :=
  ∀ (s : State),
    (∀ (r : RemoteReq) (p : Pav), s.dev.node ≠ none → s.pav? r.tpav.val = some p →
      let fails := fun (code : BitVec 8) => ∃ s', exec (.remoteIngress r) s = .next s' ∧ Replied s s' r code [] ∧ s'.mem = s.mem
      let t := r.token
      let good := fun (key : BitVec 128) =>
        grantCheck key (tokWin t) (tokRights t) (tokExpiry t) r.snode.toNat r.spav.val = t.toNat % 2 ^ 32
      let late := 0 < sext ((s.cyc.toNat / 2 ^ 20 + 2 ^ 16 - tokExpiry t) % 2 ^ 16) 16
      let x := reach r
      -- write-backs of cached lines on their way to memory stand before what the request reads and writes (R360)
      let s0 := s.settle (fun q => q.pay.isSome)
      (p.st ≠ .running → fails fRemoteFault)
      ∧ (p.st = .running →
        (grantWindow s r.tpav.val (tokWin t) = none → fails fTokenForged)
        ∧ (∀ base len, grantWindow s r.tpav.val (tokWin t) = some (base, len) →
          let va := base + r.off
          let bytes := fun (n : Nat) => (s0.readVa (bridgeDie r.tpav.val) r.tpav.val va n).getD []
          let passes := good p.grantKey ∧ ¬ late ∧ tokRights t &&& needRights r.kind = needRights r.kind ∧ x.2 ≤ len ∧ va % remoteAlign r.kind = 0
            ∧ pagesPass s r.tpav.val (base + x.1) (x.2 - x.1) (remoteAcc r.kind) = true
          (¬ good p.grantKey → (∀ k, p.prevKey = some k → ¬ good k) → fails fTokenForged)
          ∧ (∀ k, ¬ good p.grantKey → p.prevKey = some k → good k → fails fTokenExpired)
          ∧ (good p.grantKey → late → fails fTokenExpired)
          ∧ (good p.grantKey → ¬ late → tokRights t &&& needRights r.kind ≠ needRights r.kind ∨ len < x.2 → fails fTokenBounds)
          ∧ (good p.grantKey → ¬ late → tokRights t &&& needRights r.kind = needRights r.kind → x.2 ≤ len → va % remoteAlign r.kind ≠ 0 →
              fails fRemoteFault)
          ∧ (passes → ∀ d, r.kind = .load d → rangePoison s0 r.tpav.val va (wordBytes d) = true → (∃ s', exec (.remoteIngress r) s = .next s' ∧ Replied s s' r fDataLoss [] ∧ s'.mem = s0.mem))
          ∧ (passes → ∀ n, (∃ d, r.kind = .load d ∧ n = wordBytes d ∧ rangePoison s0 r.tpav.val va n = false)
              ∨ (r.kind = .get n ∧ ∀ c ∈ cuts va n, rangePoison s0 r.tpav.val (va + c.1) c.2 = false) →
            ∃ s', exec (.remoteIngress r) s = .next s' ∧ s'.mem = s0.mem ∧ Replied s s' r 0 (bytes n))
          ∧ (passes → ∀ n c, r.kind = .get n → (cuts va n).find? (fun c => rangePoison s0 r.tpav.val (va + c.1) c.2) = some c →
            ∃ s', exec (.remoteIngress r) s = .next s' ∧ s'.mem = s0.mem ∧ Replied s s' r fDataLoss (bytes c.1))
          ∧ (passes → ∀ bs, (∃ d v, r.kind = .store d v ∧ bs = bytesOf (wordBytes d) v.toNat) ∨ (∃ bad, r.kind = .put .plain bs bad) →
            ∃ s', exec (.remoteIngress r) s = .next s' ∧ Replied s s' r 0 [] ∧ s'.mem = (s0.hostWrite r.tpav.val va bs).mem)
          ∧ (passes → ∀ op d v, r.kind = .amo op d v → rangePoison s0 r.tpav.val va (wordBytes d) = false →
            let old := bytes (wordBytes d)
            ∃ s', exec (.remoteIngress r) s = .next s' ∧ Replied s s' r 0 old
              ∧ s'.mem = (s0.hostWrite r.tpav.val va (bytesOf (wordBytes d) (amoResult op (wordBytes d) (natOf old) (v.toNat % 2 ^ (8 * wordBytes d))))).mem))))
    ∧ (∀ r : RemoteReq, s.dev.node = none → exec (.remoteIngress r) s = .next s)
    ∧ (∀ (id : Nat) (op : RemoteOp) (code : BitVec 8) (data : List Byte) (ver : BitVec 16) (n : Nat), mfind id s.rops = some op → op.port = some n →
      ((s.port n).lost = true ∨ s.come id 0 = false → exec (.remoteResponse id code data ver) s = .next s)
      ∧ (∀ x tag t d, (s.port n).lost = false → s.come id 0 = true → op.owner = .scalar x tag → op.req.kind = .load d → code ≠ fTokenForged →
        s.task? x.core.val x.slot.val = some t → ∃ s' t', exec (.remoteResponse id code data ver) s = .next s' ∧ mfind id s'.rops = none
          ∧ s'.task? x.core.val x.slot.val = some t' ∧ { t' with pend := t.pend } = t ∧ s'.mem = s.mem
          ∧ t'.pend = t.pend.map (fun p => if p.tag = tag then
              { p with res := if code = 0 then .value (extended op.sx op.n (field data 0 op.n)) else .remote code } else p))
      ∧ (∀ c i m x, (s.port n).lost = false → s.come id 0 = true → op.owner = .copy c i → code ≠ fTokenForged → s.slotId? c i = some (m, x) →
        ∃ s', exec (.remoteResponse id code data ver) s = .next s' ∧ mfind id s'.rops = none
          ∧ s'.slot? c m = some { x with stage := .back code data } ∧ s'.mem = s.mem))


/-! ## The host port and ACT (spec/10, spec/16) -/

namespace Sys2Proof.Claim

/-- One response of a command has left, under the pavilion's command key (R249, R251). -/
def Ans (s s' : State) (pav : PavId) (seq : Word32) (op stat : Nat) (payload : List Byte) : Prop :=
  ∃ p, s.pav? pav.val = some p ∧ s'.out = s.out ++ [.act pav.val (actMessage p.net.cmdkey op 1 pav.val seq stat payload)]

/-- A command is refused at a field: status 4, the offset, nothing else. -/
def Refused (s : State) (i : Instr) (pav : PavId) (seq : Word32) (op off : Nat) : Prop :=
  ∃ s', exec i s = .next s' ∧ Ans s s' pav seq op 4 (bytesOf 8 (4 + off % 256 * 2 ^ 8)) ∧ { s' with pavs := s.pavs, out := s.out } = s

/-- A record of a launch is queued under a new launch id and answered with it (R259). -/
def Launched (s s' : State) (pav : PavId) (p : Pav) (r : LaunchRec) (mbox : Option Nat) : Prop :=
  (∃ q ∈ s'.queued, q.pav = pav.val ∧ q.cr.fp = r.argb ∧ q.cr.join = r.join ∧ q.cr.image = r.image ∧ q.cr.region = r.region
    ∧ q.cr.mbox = mbox.isSome ∧ (∀ c, mbox = some c → q.cr.core.toNat = c) ∧ q.saved = none)
  ∧ (∃ p' l, s'.pav? pav.val = some p' ∧ p'.nextLid = p.nextLid + 1 ∧ mfind p.nextLid p'.launches = some l ∧ l.live = true
    ∧ l.region = r.region.toNat ∧ mfind l.acct s.accts = none) ∧ s'.mem = s.mem

/-- No task and no queued, saved, placed or submitted record has an image. -/
def Unused (s : State) (h : BitVec 16) : Prop :=
  (∀ t ∈ s.tasks, t.2.2.cr.image ≠ h) ∧ (∀ q ∈ s.queued, q.cr.image ≠ h) ∧ (∀ v ∈ s.saved, v.2.task.cr.image ≠ h)
    ∧ (∀ c ∈ s.cores, ∀ r ∈ c.2.starting, r.2.cr.image ≠ h)
    ∧ ∀ c ∈ s.crsubs, field c.2.rec_ (match c.2.src with | .launch .. => 0x18 | _ => 0x10) 2 ≠ h.toNat

end Sys2Proof.Claim

/-- R253 to R265, R268, Tables 10-3, 10-4, 10-11 to 10-13: what the commands of a pavilion do, the response of each, and 0xA5 while
the pavilion is frozen. -/
def Obligations.PavilionCommandsActAndAnswer : Prop :=
  ∀ (s : State) (pav : PavId) (seq : Word32) (p : Pav), s.pav? pav.val = some p → bridgeUp s pav.val = true →
    let n := pav.val
    (p.st = .frozen ∨ p.st = .resetting →
      ∀ (va len : Word64) (base window rate qp rkey : Word32) (h core idx port : BitVec 16) (r : LaunchRec) (q rights : BitVec 8) (ip : BitVec 128),
        ∀ x ∈ [((0x01 : Nat), Instr.imgReg pav seq va len base), (0x02, .imgDrop pav seq h), (0x03, .actLaunch pav seq r),
            (0x04, .mbox pav seq core r), (0x06, .nqCreate pav seq q window rate ip port), (0x06, .nqDestroy pav seq q),
            (0x07, .winHostCreate pav seq idx qp va rkey len ip), (0x07, .winHostDestroy pav seq idx),
            (0x07, .winDeviceCreate pav seq idx va len rights), (0x07, .winDeviceDestroy pav seq idx)],
          ∃ s', exec x.2 s = .next s' ∧ Ans s s' pav seq x.1 0xA5 [] ∧ { s' with pavs := s.pavs, out := s.out } = s)
    ∧ (p.st = .running ∨ p.st = .freezing →
      (∀ (va len : Word64) (base : Word32),
        let c := checkImage s n p va.toNat len.toNat base.toNat
        (∀ stat off, c = .bad stat (some off) → ∃ s', exec (.imgReg pav seq va len base) s = .next s'
          ∧ Ans s s' pav seq 0x01 stat (bytesOf 8 (4 + off % 256 * 2 ^ 8)) ∧ s'.images = s.images ∧ s'.mem = s.mem)
        ∧ (∀ stat, c = .bad stat none → ∃ s', exec (.imgReg pav seq va len base) s = .next s' ∧ Ans s s' pav seq 0x01 stat []
          ∧ s'.images = s.images ∧ s'.mem = s.mem)
        ∧ (∀ i ws, c = .ok i ws →
          (i.pav = n ∧ i.base = base.toNat ∧ i.base + i.code.length ≤ 131072 ∧ i.dropping = false
            ∧ ∃ bs, blocksOf i.code (i.code.length + 1) 0 = some bs ∧ ∃ k ∈ bs, k.1 = i.entry ∧ k.2.1 = 0)
          ∧ (∀ h, freeHandle s = some h → ∃ s', exec (.imgReg pav seq va len base) s = .next s' ∧ Ans s s' pav seq 0x01 0 (bytesOf 2 h)
            ∧ mfind h s'.images = some i ∧ mfind h s.images = none ∧ (∀ j, j ≠ h → mfind j s'.images = mfind j s.images))
          ∧ (freeHandle s = none → ∃ s', exec (.imgReg pav seq va len base) s = .next s' ∧ Ans s s' pav seq 0x01 0xA2 [] ∧ s'.images = s.images)))
      ∧ (∀ h : BitVec 16,
        ((∀ i, mfind h.toNat s.images = some i → i.pav ≠ n) → Refused s (.imgDrop pav seq h) pav seq 0x02 0)
        ∧ (∀ i, mfind h.toNat s.images = some i → i.pav = n →
          (i.dropping = true → ∃ s', exec (.imgDrop pav seq h) s = .next s' ∧ Ans s s' pav seq 0x02 0xA6 [] ∧ s'.images = s.images)
          ∧ (i.dropping = false → ∃ s', exec (.imgDrop pav seq h) s = .next s' ∧ Ans s s' pav seq 0x02 0 []
            ∧ (Unused s h → mfind h.toNat s'.images = none)
            ∧ (¬ Unused s h → mfind h.toNat s'.images = some { i with dropping := true }))))
      ∧ (∀ r : LaunchRec,
        let v := launchView (launchBytes r)
        (∀ off, recFault s n v false = some off → ∃ s', exec (.actLaunch pav seq r) s = .next s'
          ∧ Ans s s' pav seq 0x03 4 (bytesOf 8 0 ++ bytesOf 8 (4 + off * 2 ^ 8)) ∧ { s' with pavs := s.pavs, out := s.out } = s)
        ∧ (recFault s n v false = none → s.accts.length < 2 ^ 20 → (∀ d l, roomFor s d l v.gang = true) →
          ∃ s', exec (.actLaunch pav seq r) s = .next s' ∧ Ans s s' pav seq 0x03 0 (bytesOf 8 p.nextLid ++ bytesOf 8 0) ∧ Launched s s' pav p r none)
        ∧ (recFault s n v false = none → 2 ^ 20 ≤ s.accts.length → ∃ s', exec (.actLaunch pav seq r) s = .next s'
          ∧ Ans s s' pav seq 0x03 0xA2 (bytesOf 8 0 ++ bytesOf 8 4) ∧ { s' with pavs := s.pavs, out := s.out } = s)
        ∧ (∀ core : BitVec 16,
          let c := core.toNat
          (256 ≤ c → ∃ s', exec (.mbox pav seq core r) s = .next s' ∧ Ans s s' pav seq 0x04 4 (bytesOf 8 0 ++ bytesOf 8 4))
          ∧ (c < 256 → (s.core c).mbox ≠ none → ∃ s', exec (.mbox pav seq core r) s = .next s' ∧ Ans s s' pav seq 0x04 0xA6 [])
          ∧ (c < 256 → (s.core c).mbox = none → recFault s n v false = none → nbits r.opts.toNat 22 16 = 1 → s.accts.length < 2 ^ 20 →
            (c ∈ regionCores s n r.region ∨ (regionCores s n r.region).length < ((regionEff s n r.region.toNat).getD noEff).maxCores) →
            (∀ d l, roomFor s d l v.gang = true) → ∃ s', exec (.mbox pav seq core r) s = .next s'
              ∧ Ans s s' pav seq 0x04 0 (bytesOf 8 p.nextLid ++ bytesOf 8 0) ∧ Launched s s' pav p r (some c) ∧ (s'.core c).mbox = none)))
      ∧ (∀ (q : BitVec 8) (window rate : Word32) (ip : BitVec 128) (port : BitVec 16),
        let good := fun (v : Word32) => 1 ≤ v.toNat ∧ v.toNat ≤ 1000
        (good window → good rate → ∃ s' p' nq, exec (.nqCreate pav seq q window rate ip port) s = .next s' ∧ Ans s s' pav seq 0x06 0 []
          ∧ s'.pav? n = some p' ∧ mfind q.toNat p'.nqs = some nq ∧ nq.window = window ∧ nq.rate = rate ∧ nq.ip = ip ∧ nq.port = port
          ∧ nq.vals = (match mfind q.toNat p.nqs with | some x => x.vals | none => [])
          ∧ (∀ j, j ≠ q.toNat → mfind j p'.nqs = mfind j p.nqs))
        ∧ (¬ good window → Refused s (.nqCreate pav seq q window rate ip port) pav seq 0x06 4)
        ∧ (good window → ¬ good rate → Refused s (.nqCreate pav seq q window rate ip port) pav seq 0x06 8)
        ∧ (∃ s' p', exec (.nqDestroy pav seq q) s = .next s' ∧ Ans s s' pav seq 0x06 0 [] ∧ s'.pav? n = some p' ∧ mfind q.toNat p'.nqs = none
          ∧ (∀ j, j ≠ q.toNat → mfind j p'.nqs = mfind j p.nqs)))
      ∧ (∀ (idx : BitVec 16) (qp rkey : Word32) (va len : Word64) (ip : BitVec 128) (rights : BitVec 8),
        let w := idx.toNat
        (w < 1024 →
          (∃ s' p', exec (.winHostCreate pav seq idx qp va rkey len ip) s = .next s' ∧ Ans s s' pav seq 0x07 0 [] ∧ s'.pav? n = some p'
            ∧ mfind w p'.hwins = some { qp := qp, raddr := va, rkey := rkey, len := len, ip := ip } ∧ s'.mem = s.mem)
          ∧ (∃ s' p', exec (.winHostDestroy pav seq idx) s = .next s' ∧ Ans s s' pav seq 0x07 0 [] ∧ s'.pav? n = some p'
            ∧ mfind w p'.hwins = none))
        ∧ (1024 ≤ w → Refused s (.winHostCreate pav seq idx qp va rkey len ip) pav seq 0x07 2 ∧ Refused s (.winHostDestroy pav seq idx) pav seq 0x07 2)
        ∧ (w < 256 → va.toNat + len.toNat ≤ 2 ^ 48 → (∀ a ∈ pagesOf va.toNat len.toNat, windowPage s n a = true) → rights.toNat < 4 →
          ∃ s' p' k, exec (.winDeviceCreate pav seq idx va len rights) s = .next s' ∧ Ans s s' pav seq 0x07 0 (bytesOf 4 k.toNat)
            ∧ s'.pav? n = some p' ∧ mfind w p'.dwins = some { va := va, len := len, rights := rights, rkey := k } ∧ s'.mem = s.mem)
        ∧ (w < 256 → ∃ s' p', exec (.winDeviceDestroy pav seq idx) s = .next s' ∧ Ans s s' pav seq 0x07 0 [] ∧ s'.pav? n = some p'
            ∧ mfind w p'.dwins = none)
        ∧ (256 ≤ w → Refused s (.winDeviceCreate pav seq idx va len rights) pav seq 0x07 2 ∧ Refused s (.winDeviceDestroy pav seq idx) pav seq 0x07 2)))
    ∧ (∀ id : Word64, s.stage ≠ .noDram →
      (∀ l, mfind id.toNat p.launches = some l → ∃ s' b, exec (.statusLaunch pav seq id) s = .next s' ∧ Ans s s' pav seq 0x05 0 b
        ∧ b = launchRecord s p id.toNat l ∧ b.length = 48 ∧ field b 0 8 = id.toNat ∧ field b 16 4 = l.started.toNat
        ∧ field b 20 4 = l.ended.toNat ∧ field b 28 4 = l.faults.toNat)
      ∧ (mfind id.toNat p.launches = none → Refused s (.statusLaunch pav seq id) pav seq 0x05 8)
      ∧ (let l := (p.items.drop id.toNat).take 255
        ∃ s', exec (.statusPavilion pav seq id) s = .next s' ∧ Ans s s' pav seq 0x05 0 (bytesOf 1 p.st.code ++ bytesOf 3 0
          ++ bytesOf 4 p.items.length ++ bytesOf 4 id.toNat ++ bytesOf 4 l.length ++ l.flatMap (fun i => i)))
      ∧ (id = 0 → ∃ s' b, exec (.statusCounters pav seq id) s = .next s' ∧ Ans s s' pav seq 0x05 0 b ∧ b.length = 64
        ∧ field b 8 8 = p.ctr.rxf.toNat ∧ field b 16 8 = p.ctr.txf.toNat ∧ field b 24 8 = p.ctr.dropOpt.toNat ∧ field b 32 8 = p.ctr.dropAct.toNat
        ∧ field b 40 8 = p.ctr.retx.toNat ∧ field b 48 8 = p.ctr.cnp.toNat ∧ field b 56 8 = p.ctr.nqDisc.toNat)
      ∧ (id ≠ 0 → Refused s (.statusCounters pav seq id) pav seq 0x05 8))
    ∧ (∀ nonce : BitVec 256,
      (s.dev.signed < 2 ^ 40 → ∃ s' b, exec (.attest pav seq nonce) s = .next s' ∧ Ans s s' pav seq 0x08 0 b ∧ field b 0x10 1 = n
        ∧ field b 0x18 8 = s.cyc.toNat ∧ field b 0xA0 32 = nonce.toNat ∧ b.length = 3860 + Config.certChain.length
        ∧ s'.dev = { s.dev with signed := s.dev.signed + 1 })
      ∧ (2 ^ 40 ≤ s.dev.signed → ∃ s', exec (.attest pav seq nonce) s = .next s' ∧ Ans s s' pav seq 0x08 0xA2 [] ∧ s'.dev = s.dev))

namespace Sys2Proof.Claim

/-- Of the device only the record of pavilion n changes, to q. -/
def OnlyPav (s s' : State) (n : Nat) (q : Pav) : Prop :=
  s'.pav? n = some q ∧ (∀ m, m ≠ n → s'.pav? m = s.pav? m) ∧ { s' with pavs := s.pavs } = s

/-- A host's RDMA request of pavilion n is received, counted, and refused. -/
def Nak (s s' : State) (n : Nat) (p : Pav) : Prop :=
  s'.out = s.out ++ [.rdmaAck n false]
    ∧ OnlyPav { s with out := s'.out } s' n { p with ctr := { p.ctr with rxf := p.ctr.rxf + 1, txf := p.ctr.txf + 1 } }

/-- A copy slot that moves data to or from a host. -/
def HostSlot (x : CopySlot) : Prop := (∃ d o l w, x.op = .hostRd d o l w) ∨ ∃ o a l w, x.op = .hostWr o a l w

/-- A message of at most 8,216 bytes for a pavilion whose tag verifies (R250). -/
def Authentic (p : Pav) (n : Nat) (m : List Byte) : Prop :=
  24 ≤ m.length ∧ m.length ≤ 8216 ∧ field m 4 1 = n ∧ field m 0 1 = 1 ∧ tagOk p.net.cmdkey m = true

/-- The header fields that must be zero are zero, FLAGS is one of four values, the length is that of the payload (R250). -/
def Formed (m : List Byte) : Prop := field m 2 2 < 4 ∧ field m 5 1 = 0 ∧ field m 13 3 = 0 ∧ field m 6 2 = m.length - 24

end Sys2Proof.Claim

/-- R199, R247 to R252, R262, R263, R269, R352, R389: notification messages, host RDMA, frames at the host port, and the checks of
an ACT message in their order. -/
def Obligations.HostTrafficIsCheckedAndCounted : Prop :=
  ∀ (s : State) (pav : PavId) (p : Pav), s.pav? pav.val = some p →
    let n := pav.val
    (bridgeUp s n = false → (∀ m, exec (.actMessageReceive pav m) s = .next s) ∧ ∀ m, s.send n m = s)
    ∧ (bridgeUp s n = true →
    (∀ (q : BitVec 8) (nq : NQueue), mfind q.toNat p.nqs = some nq →
      let now := s.cyc.toNat / 800000
      let sent := if nq.sent.1 = now then nq.sent.2 else 0
      (p.st = .running → nq.due s.cyc = true → sent < nq.rate.toNat → ∃ s' p' m, exec (.notificationSend pav q) s = .next s'
        ∧ m = actMessage p.net.cmdkey 0x40 2 n p.outSeq 0 (nq.message q.toNat) ∧ s'.out = s.out ++ [.notice n nq.ip nq.port m]
        ∧ OnlyPav { s with out := s'.out } s' n p' ∧ p'.outSeq = p.outSeq + 1
        ∧ mfind q.toNat p'.nqs = some { nq with vals := nq.vals.drop 64, dropped := 0, dropSince := none, sent := (now, sent + 1) }
        ∧ mfind p.outSeq.toNat p'.unacked = some { ip := nq.ip, port := nq.port, bytes := m, last := s.cyc, resent := 0 })
      ∧ (p.st ≠ .running ∨ nq.due s.cyc = false ∨ nq.rate.toNat ≤ sent → exec (.notificationSend pav q) s = .next s))
    ∧ (∀ (seq : Word32) (m : NMsg), mfind seq.toNat p.unacked = some m →
      (p.st ≠ .running ∨ (s.cyc - m.last).toNat < 800000 → exec (.notificationRetransmit pav seq) s = .next s)
      ∧ (p.st = .running → 800000 ≤ (s.cyc - m.last).toNat → m.resent < 8 → ∃ s' p', exec (.notificationRetransmit pav seq) s = .next s'
        ∧ s'.out = s.out ++ [.notice n m.ip m.port m.bytes] ∧ OnlyPav { s with out := s'.out } s' n p'
        ∧ mfind seq.toNat p'.unacked = some { m with last := s.cyc, resent := m.resent + 1 })
      ∧ (p.st = .running → 800000 ≤ (s.cyc - m.last).toNat → 8 ≤ m.resent → ∃ s' p', exec (.notificationRetransmit pav seq) s = .next s'
        ∧ OnlyPav s s' n p' ∧ mfind seq.toNat p'.unacked = none ∧ p'.ctr = { p.ctr with nqDisc := p.ctr.nqDisc + 1 })
      ∧ (∃ s' p', exec (.notifyAck pav seq) s = .next s' ∧ OnlyPav s s' n p' ∧ mfind seq.toNat p'.unacked = none
        ∧ ∀ j, j ≠ seq.toNat → mfind j p'.unacked = mfind j p.unacked))
    ∧ (∀ seq : Word32, mfind seq.toNat p.unacked = none → ∃ s', exec (.notifyAck pav seq) s = .next s'
        ∧ OnlyPav s s' n { p with ctr := { p.ctr with dropAct := p.ctr.dropAct + 1 } })
    ∧ (∀ win off len right acc va, devWin s n win off len right acc = some va → p.st = .running
        ∧ ∃ w, mfind win p.dwins = some w ∧ va = w.va.toNat + off ∧ off + len ≤ w.len.toNat ∧ w.rights.getLsbD right = true)
    ∧ (∀ (win : BitVec 8) (off : Nat) (data : List Byte),
      (s.stage ≠ .running → exec (.hostRdmaWrite pav win off data) s = .next s)
      ∧ (s.stage = .running → devWin s n win.toNat off data.length 1 .write = none →
          ∃ s', exec (.hostRdmaWrite pav win off data) s = .next s' ∧ Nak s s' n p)
      ∧ (∀ va, s.stage = .running → devWin s n win.toNat off data.length 1 .write = some va → ∃ s', exec (.hostRdmaWrite pav win off data) s = .next s'
          ∧ s'.out = s.out ++ [.rdmaAck n true] ∧ s'.mem = (s.hostWrite n va data).mem ∧ ∀ c l, s'.task? c l = s.task? c l))
    ∧ (∀ (win : BitVec 8) (off len : Nat),
      (s.stage ≠ .running → exec (.hostRdmaRead pav win off len) s = .next s)
      ∧ (s.stage = .running → devWin s n win.toNat off len 0 .read = none →
          ∃ s', exec (.hostRdmaRead pav win off len) s = .next s' ∧ Nak s s' n p)
      ∧ (∀ va, s.stage = .running → devWin s n win.toNat off len 0 .read = some va →
        (rangePoison s n va len = true → ∃ s', exec (.hostRdmaRead pav win off len) s = .next s' ∧ Nak s s' n p)
        ∧ (∀ bs, rangePoison s n va len = false → s.readVa (bridgeDie n) n va len = some bs →
            ∃ s', exec (.hostRdmaRead pav win off len) s = .next s' ∧ s'.out = s.out ++ [.rdmaData n bs]
              ∧ OnlyPav { s with out := s'.out } s' n { p with ctr := { p.ctr with rxf := p.ctr.rxf + 1, txf := p.ctr.txf + 1 } })))
    ∧ (∀ k : PavId, s.pav? k.val = none → s.stage = .running → bridgeUp s k.val = true → n = 128 → ∀ (win : BitVec 8) (off len : Nat) (data : List Byte),
        ∀ i ∈ [Instr.hostRdmaWrite k win off data, .hostRdmaRead k win off len], ∃ s', exec i s = .next s'
          ∧ OnlyPav s s' n { p with ctr := { p.ctr with dropOpt := p.ctr.dropOpt + 1 } })
    ∧ (∀ (core : CoreId) (i : Nat) (x : CopySlot), s.slot? core.val i = some x →
      (¬ HostSlot x ∨ x.stage ≠ .sent → ∀ lost, exec (.rocev2Retransmit core i lost) s = .next s)
      ∧ (HostSlot x → x.stage = .sent → (∃ s', exec (.rocev2Retransmit core i true) s = .next s'
          ∧ s'.slot? core.val i = some (x.fail fCopyFault 5 0) ∧ { s' with cores := s.cores } = s)
        ∧ (x.pav = n → ∃ s', exec (.rocev2Retransmit core i false) s = .next s' ∧ s'.slot? core.val i = some x
          ∧ ∃ p', s'.pav? n = some p' ∧ p'.ctr.retx = p.ctr.retx + 1)))
    ∧ (∀ f : HostFrame,
      let ctr := fun (c : Counters) (s' : State) => s'.pav? n = some { p with ctr := c } ∧ { s' with pavs := s.pavs } = s
      (portAlive s = false → exec (.hostFrameReceive f) s = .next s ∧ exec (.neighbourEchoReply f) s = .next s)
      ∧ (portAlive s = true → endpointOf s f = none → exec (.neighbourEchoReply f) s = .next s
        ∧ (n = 128 → ∃ s', exec (.hostFrameReceive f) s = .next s' ∧ ctr { p.ctr with dropOpt := p.ctr.dropOpt + 1 } s'))
      ∧ (portAlive s = true → endpointOf s f = some n →
        (s.stage = .running → ∃ s', exec (.neighbourEchoReply f) s = .next s' ∧ s'.out = s.out ++ [.echo n f])
        ∧ (s.stage = .noDram → exec (.neighbourEchoReply f) s = .next s)
        ∧ (f.supported = false → ∃ s', exec (.hostFrameReceive f) s = .next s'
          ∧ ctr { p.ctr with rxf := p.ctr.rxf + 1, dropOpt := p.ctr.dropOpt + 1 } s')
        ∧ (f.supported = true → f.body = .cnp → ∃ s', exec (.hostFrameReceive f) s = .next s'
          ∧ ctr { p.ctr with rxf := p.ctr.rxf + 1, cnp := p.ctr.cnp + 1 } s')
        ∧ (∀ (core : CoreId) (id : Nat) (ok : Bool) (data : List Byte) (j : Nat) (x : CopySlot), f.supported = true → f.body = .rdmaReply core id ok data →
            s.slotId? core.val id = some (j, x) → HostSlot x → x.pav = n → x.stage = .sent → ∃ s', exec (.hostFrameReceive f) s = .next s'
              ∧ s'.slot? core.val j = some { x with stage := .back (if ok then 0 else fCopyFault) data })
        ∧ (∀ m, f.supported = true → f.body = .act m → actPort p = f.port → exec (.hostFrameReceive f) s =
          exec (.actMessageReceive pav m) (s.count n (fun c => { c with rxf := c.rxf + 1 })))))
    ∧ (∀ m : List Byte,
      let op := field m 1 1
      let seq := BitVec.ofNat 32 (field m 8 4)
      let body := m.drop 24
      let d := (seq - p.nseq).toNat
      let runs := exec (.actMessageReceive pav m) s
      let violates := ∃ s' p', runs = .next s' ∧ s'.pav? n = some p' ∧ p'.viol = satInc p.viol ∧ p'.st ≠ .running ∧ s'.mem = s.mem
        ∧ s'.out = s.out
      let flags := field m 2 2
      let known := checkPayload op body ≠ .unknown
      let command := Authentic p n m ∧ Formed m ∧ ¬ (flags = 3 ∧ op = 0x40 ∧ body = [])
      let dropped := ∃ s', runs = .next s' ∧ OnlyPav s s' n { p with ctr := { p.ctr with dropAct := p.ctr.dropAct + 1 } }
      let valid := (d < 64 ∨ 2 ^ 32 - 64 ≤ d) ∧ ¬ (0x80 ≤ op ∧ op ≤ 0x8F ∧ n ≠ 128) ∧ checkPayload op body ≠ .violation
      let allowed := valid ∧ (flags = 0 ∨ ¬ known) ∧ s.stage ≠ .noDram
      (¬ Authentic p n m → dropped)
      ∧ (Authentic p n m → ¬ Formed m → violates)
      ∧ (Authentic p n m → Formed m → flags = 3 → op = 0x40 → body = [] → runs = exec (.notifyAck pav seq) s)
      ∧ (command → 64 ≤ d → d < 2 ^ 32 - 64 → violates)
      ∧ (command → 0x80 ≤ op → op ≤ 0x8F → n ≠ 128 → violates)
      ∧ (command → checkPayload op body = .violation → violates)
      ∧ (command → valid → flags ≠ 0 → known → dropped)
      ∧ (command → allowed → d ≠ 0 → d < 64 → mfind p.nseq.toNat p.heldCmds = none → ∃ s' p', runs = .next s' ∧ OnlyPav s s' n p'
        ∧ mfind seq.toNat p'.heldCmds = some m ∧ p'.nseq = p.nseq)
      ∧ (∀ r, command → allowed → 2 ^ 32 - 64 ≤ d → mfind seq.toNat p.replies = some r → ∃ s', runs = .next s' ∧ s'.out = s.out ++ [.act n r]
        ∧ s'.mem = s.mem ∧ s'.images = s.images ∧ s'.dies = s.dies)
      ∧ (command → allowed → d = 0 → p.heldCmds = [] → p.pendingReply = [] →
        let answers := fun (stat : Nat) (b : List Byte) => ∃ s' p', runs = .next s' ∧ Ans s s' pav seq op stat b ∧ s'.pav? n = some p'
          ∧ p'.nseq = p.nseq + 1 ∧ s'.mem = s.mem
        (p.st = .frozen ∨ p.st = .resetting → known → op ≠ 0x05 → op ≠ 0x08 → ¬ (n = 128 ∧ 0x80 ≤ op ∧ op ≤ 0x8F) → answers 0xA5 [])
        ∧ (checkPayload op body = .unknown → answers 0xA1 [])
        ∧ (∀ off, p.st = .running ∨ p.st = .freezing → checkPayload op body = .refuse off → answers 4 (bytesOf 8 (4 + off % 256 * 2 ^ 8)))
        ∧ (op = 0x05 → checkPayload op body = .ok → field body 0 1 = 2 → field body 8 8 = 0 → answers 0 (counterBytes n p.ctr)))))


/-! ## The management pavilion and the device (spec/10, spec/19, spec/21) -/

namespace Sys2Proof.Claim

/-- A response of the management pavilion. -/
def Mgmt (s s' : State) (seq : Word32) (op stat : Nat) (payload : List Byte) : Prop := Ans s s' mgmt seq op stat payload

/-- The fields of a pavilion's record that only its owner's commands change. -/
def OwnKept (p p' : Pav) : Prop := p'.nqs = p.nqs ∧ p'.hwins = p.hwins ∧ p'.dwins = p.dwins ∧ p'.launches = p.launches ∧ p'.nseq = p.nseq

/-- Counters of an endpoint that has counted nothing. -/
def noCounts : Counters := { rxf := 0, txf := 0, dropOpt := 0, dropAct := 0, retx := 0, cnp := 0, nqDisc := 0 }

/-- No saved context, queued or placed record, operation, gang, account or image is pavilion n's. -/
def Empty (s : State) (n : Nat) : Prop :=
  (∀ v ∈ s.saved, v.2.task.pav ≠ n) ∧ (∀ q ∈ s.queued, q.pav ≠ n) ∧ (∀ r ∈ s.rops, r.2.pav ≠ n) ∧ (∀ g ∈ s.gangs, g.2.pav ≠ n)
    ∧ (∀ c ∈ s.cores, ∀ r ∈ c.2.starting, r.2.pav ≠ n) ∧ ∀ c ∈ s.crsubs, c.2.pav ≠ n

end Sys2Proof.Claim

/-- R266, R267, R272, R389 to R399, R420: each management command on a tenant pavilion or the device, with its response; freezing,
reset and thawing; bring-up and loss of power. -/
def Obligations.ManagementAndBringUp : Prop :=
  ∀ (s : State),
    (∀ (seq : Word32) (m : Pav), s.pav? 128 = some m → bridgeUp s 128 = true →
    (∀ (b : BitVec 8), (s.pav? b.toNat = none ∨ 128 ≤ b.toNat) →
      ∀ (w1 w2 w3 : BitVec 16) (f : BitVec 8) (t : Word64) (rs : List (Word64 × Word64)),
        ∀ x ∈ [((0x81 : Nat), Instr.pavDestroy seq b), (0x82, .freeze seq b), (0x83, .unfreeze seq b), (0x84, .reset seq b),
            (0x86, .shares seq b w1 w2 w3), (0x89, .pavmem seq b f t rs), (0x8D, .grantkey seq b)], Refused s x.2 mgmt seq x.1 0)
    ∧ (∀ (b : BitVec 8) (p : Pav), s.pav? b.toNat = some p → b.toNat < 128 →
      let n := b.toNat
      (∀ w1 w2 w3 : BitVec 16,
        (w1 ≠ 0 → w2 ≠ 0 → w3 ≠ 0 → ∃ s' p', exec (.shares seq b w1 w2 w3) s = .next s' ∧ Mgmt s s' seq 0x86 0 [] ∧ s'.pav? n = some p'
          ∧ p' = { p with shost := w1, sdram := w2, sinj := w3 })
        ∧ (w1 = 0 → Refused s (.shares seq b w1 w2 w3) mgmt seq 0x86 2))
      ∧ (∃ s' p', exec (.grantkey seq b) s = .next s' ∧ Mgmt s s' seq 0x8D 0 [] ∧ s'.pav? n = some p' ∧ p'.prevKey = some p.grantKey
        ∧ { p' with grantKey := p.grantKey, prevKey := p.prevKey } = p ∧ s'.mem = s.mem)
      ∧ (p.st = .frozen → ∃ s', exec (.freeze seq b) s = .next s' ∧ Mgmt s s' seq 0x82 0 (bytesOf 4 p.items.length ++ bytesOf 4 0))
      ∧ (p.st = .running → ∃ s' p' m', exec (.freeze seq b) s = .next s' ∧ s'.pav? n = some p' ∧ p'.st = .freezing ∧ OwnKept p p'
        ∧ s'.pav? 128 = some m' ∧ m'.pendingReply = m.pendingReply ++ [(seq.toNat, n)] ∧ s'.out = s.out
        ∧ (∀ c l t, s.task? c l = some t → t.pav = n → (∀ y ∈ s.tasks, s.task? y.1 y.2.1 = some y.2.2) →
            ∃ t', s'.task? c l = some t' ∧ t'.saving ≠ none ∧ t'.held = true))
      ∧ (∃ s' p', exec (.reset seq b) s = .next s' ∧ s'.pav? n = some p' ∧ p'.st = .resetting ∧ OwnKept p p' ∧ s'.out = s.out)
      ∧ (p.st ≠ .frozen → ∃ s', exec (.unfreeze seq b) s = .next s' ∧ Mgmt s s' seq 0x83 0 [] ∧ s'.pav? n = some p)
      ∧ (p.st = .frozen → ∃ s' p', exec (.unfreeze seq b) s = .next s' ∧ Mgmt s s' seq 0x83 0 [] ∧ s'.pav? n = some p'
        ∧ ((∀ v ∈ s.saved, v.2.task.pav ≠ n) → p' = { p with st := .running, wasReset := false }))
      ∧ (p.st ≠ .frozen ∨ p.wasReset = false → Refused s (.pavDestroy seq b) mgmt seq 0x81 0)
      ∧ (p.st = .frozen → p.wasReset = true → ∃ s', exec (.pavDestroy seq b) s = .next s' ∧ Mgmt s s' seq 0x81 0 [] ∧ s'.pav? n = none
        ∧ (∀ i ∈ s'.images, i.2.pav ≠ n) ∧ (∀ d, ∀ e ∈ (s'.die d).tc, ∀ l, e ≠ .leaf n l)
        ∧ (p.key ≠ 0 → (∀ x ∈ s.pavs, x.1 ≠ n → x.2.key ≠ p.key) → p.key ∈ s'.dev.keyPool) ∧ s'.mem = s.mem)
      ∧ (∀ (root : Word64) (rs : List (Word64 × Word64)),
        (rootInside root.toNat p.ranges = true → ∃ s' p', exec (.pavmem seq b 1 root []) s = .next s' ∧ Mgmt s s' seq 0x89 0 []
          ∧ s'.pav? n = some p' ∧ p' = { p with troot := root.toNat } ∧ (∀ d, ∀ e ∈ (s'.die d).tc, ∀ l, e ≠ .leaf n l)
          ∧ s'.mem = (s.settle (fun r => r.pay.isSome)).mem)
        ∧ (∀ f : BitVec 8, 4 ≤ f.toNat → exec (.pavmem seq b f root rs) s = .next (s.violation 128))
        ∧ (rs ≠ [] → rs.length ≤ 64 → rootInside root.toNat (rangesOf rs) = true → rangesBad s n 0x10 rs = [] →
          ∃ s' p', exec (.pavmem seq b 3 root rs) s = .next s' ∧ Mgmt s s' seq 0x89 0 [] ∧ s'.pav? n = some p' ∧ p'.troot = root.toNat
            ∧ p'.ranges = rangesOf rs ∧ (∀ c, ∀ l ∈ (s'.core c).l1, l.pav = n → outside (rangesOf rs) (128 * l.line) = false)
            ∧ (∀ d, ∀ l ∈ (s'.die d).dlc, l.pav = n → outside (rangesOf rs) (128 * l.line) = false)
            ∧ (∀ x ∈ tilesKnown s n p, tileOutside s n (rangesOf rs) x.1 x.2 = true → ∀ h,
                (∀ e ∈ (s'.home h).dir, e.2.tag ≠ x.1) ∧ ∀ v ∈ (s'.home h).vers, v.1 ≠ x.1)))
      ∧ (∀ pav : PavId, pav.val = n → (p.st = .running ∨ p.st = .frozen ∨ (∃ y ∈ s.tasks, y.2.2.pav = n) → (s.pav? 128).all (fun x => x.heldCmds = []) →
          exec (.freezeComplete pav) s = .next s)
        ∧ (p.st = .freezing → (∀ y ∈ s.tasks, y.2.2.pav ≠ n) → m.heldCmds = [] → ∃ s' p', exec (.freezeComplete pav) s = .next s'
          ∧ s'.pav? n = some p' ∧ p'.st = .frozen ∧ OwnKept p p'
          ∧ (∀ r, m.pendingReply.find? (fun r => r.2 = n) = some r →
              Mgmt s s' (BitVec.ofNat 32 r.1) 0x82 0 (bytesOf 4 p'.items.length ++ bytesOf 4 0)))
        ∧ (p.st = .resetting → (∀ y ∈ s.tasks, y.2.2.pav ≠ n) → m.heldCmds = [] → tilesLeft s (ofPav n p.key) = false →
          ∃ s' p', exec (.freezeComplete pav) s = .next s' ∧ s'.pav? n = some p' ∧ p'.st = .frozen ∧ p'.wasReset = true ∧ p'.nqs.map (·.1) = p.nqs.map (·.1)
            ∧ (∀ q ∈ p'.nqs, q.2.vals = [] ∧ q.2.dropped = 0 ∧ q.2.dropSince = none) ∧ p'.unacked = []
            ∧ p'.hwins = [] ∧ p'.dwins = [] ∧ p'.nseq = 0 ∧ p'.replies = [] ∧ p'.prevKey = none ∧ Empty s' n
            ∧ (∀ c, ∀ l ∈ (s'.core c).l1, l.key ≠ p.key) ∧ (∀ d, ∀ l ∈ (s'.die d).dlc, l.key ≠ p.key)
            ∧ (∀ r, m.pendingReply.find? (fun r => r.2 = n) = some r →
                Mgmt s s' (BitVec.ofNat 32 r.1) 0x84 0 (bytesOf 4 p'.items.length ++ bytesOf 4 0)))))
    ∧ (∀ (net : NetCfg) (rtab root : Word64) (rtlen : Word32) (w1 w2 w3 : BitVec 16) (rs : List (Word64 × Word64)) (keys : List (List Byte)),
      let n := net.pav.toNat
      (∀ pav : PavId, pav.val ≠ 128 → exec (.pavCreate pav seq net rtab rtlen w1 w2 w3 root rs keys) s = .next (s.violation pav.val))
      ∧ (n < 128 → s.pav? n = none → netBad net = [] → keys.length ≤ 4 → (∀ k ∈ keys, hssKeyOk k = true) → 1 ≤ rs.length → rs.length ≤ 64 →
        rtab.toNat % 8 = 0 → 1 ≤ rtlen.toNat → rtlen.toNat ≤ 65536 → w1 ≠ 0 → w2 ≠ 0 → w3 ≠ 0 → rootInside root.toNat (rangesOf rs) = true →
        rangesBad s n 0x50 rs = [] →
        (s.dev.keyPool = [] → ∃ s', exec (.pavCreate mgmt seq net rtab rtlen w1 w2 w3 root rs keys) s = .next s' ∧ Mgmt s s' seq 0x80 0xA2 []
          ∧ s'.pav? n = none)
        ∧ (s.dev.keyPool ≠ [] → ∃ s' p' key, exec (.pavCreate mgmt seq net rtab rtlen w1 w2 w3 root rs keys) s = .next s'
          ∧ Mgmt s s' seq 0x80 0 (bytesOf 1 key ++ bytesOf 7 0) ∧ key ∈ s.dev.keyPool ∧ (∀ k ∈ s.dev.keyPool, key ≤ k) ∧ key ∉ s'.dev.keyPool
          ∧ s'.pav? n = some p' ∧ p'.st = .running ∧ p'.net = net ∧ p'.imgKeys = keys ∧ p'.key = key ∧ p'.troot = root.toNat ∧ p'.ranges = rangesOf rs
          ∧ p'.rtab = rtab ∧ p'.rtlen = rtlen.toNat ∧ p'.shost = w1 ∧ p'.sdram = w2 ∧ p'.sinj = w3 ∧ p'.nqs = [] ∧ p'.hwins = [] ∧ p'.dwins = []
          ∧ p'.launches = [] ∧ p'.nseq = 0 ∧ (∀ k, k ≠ n → k ≠ 128 → s'.pav? k = s.pav? k) ∧ s'.mem = s.mem))
      ∧ (∀ p, s.pav? n = some p → netBad net = [] → ∃ s' p', exec (.pavnet seq net) s = .next s' ∧ Mgmt s s' seq 0x8A 0 [] ∧ s'.pav? n = some p'
        ∧ p'.net = net ∧ p'.key = p.key ∧ OwnKept p p')
      ∧ (16 ≤ net.pflags.toNat → exec (.pavnet seq net) s = .next (s.violation 128) ∧ exec (.mgmtcfg seq net) s = .next (s.violation 128))
      ∧ (net.pflags.toNat < 16 → s.pav? n = none → Refused s (.pavnet seq net) mgmt seq 0x8A 0)
      ∧ (net.pav = 128 → netBad net = [] → ∃ s' x, exec (.mgmtcfg seq net) s = .next s' ∧ Mgmt s s' seq 0x8C 0 [] ∧ s'.dev = { s.dev with flash := some (net, x) })
      ∧ (net.pflags.toNat < 16 → net.pav ≠ 128 → Refused s (.mgmtcfg seq net) mgmt seq 0x8C 0))
    ∧ (∀ (b : BitVec 8) (clr : Bool),
      let n := b.toNat
      (s.pav? n = none → Refused s (.counters seq b clr) mgmt seq 0x87 0)
      ∧ (∀ p, s.pav? n = some p → ∃ s' p', exec (.counters seq b clr) s = .next s' ∧ Mgmt s s' seq 0x87 0 (countersBytes s n p) ∧ s'.pav? n = some p'
        ∧ (clr = true → p'.viol = 0 ∧ p'.forged = 0 ∧ p'.undeliv = 0
          ∧ s'.mem = (each (uniq ((lostCounts s n p).map (fun r => r.2.1))) (fun fq s => s.writeVa (bridgeDie n) n (fq + 12) (bytesOf 4 0))
              (s.modPav n (fun p => { p with ctr := noCounts, viol := 0, forged := 0, undeliv := 0 }))).mem
          ∧ (n ≠ 128 → p'.ctr.rxf = 0 ∧ p'.ctr.dropAct = 0))
        ∧ (clr = false → s'.mem = s.mem ∧ (n ≠ 128 → p' = p)))
      ∧ (n < 16 → (∃ s', exec (.memstatErrorRing seq b clr) s = .next s'
          ∧ Mgmt s s' seq 0x85 0 (bytesOf 4 (s.stack n).head.toNat ++ bytesOf 4 (s.stack n).tail.toNat ++ bytesOf 4 (s.stack n).overflow.toNat ++ bytesOf 4 0)
          ∧ s'.stack n = if clr then { s.stack n with tail := (s.stack n).head, overflow := 0 } else s.stack n)
        ∧ (∀ start : Word32, ∃ s' x, exec (.memstatHotList seq b clr start) s = .next s' ∧ Mgmt s s' seq 0x85 0 x
          ∧ field x 0 4 = (s.stack n).hot.length % 2 ^ 32 ∧ x.length = 8 + 8 * min 1022 ((s.stack n).hot.length - start.toNat))
        ∧ (∀ va : Word64, va = 0 ∨ va.toNat % 32 = 0 ∧ s.classAt 0 128 va.toNat = some .coh → ∃ s', exec (.errring seq b va) s = .next s'
          ∧ Mgmt s s' seq 0x8B 0 [] ∧ s'.stack n = { s.stack n with ring := va, head := 0, tail := 0, overflow := 0 }))
      ∧ (16 ≤ n → Refused s (.memstatErrorRing seq b clr) mgmt seq 0x85 0 ∧ (∀ w, Refused s (.memstatHotList seq b clr w) mgmt seq 0x85 0)
        ∧ ∀ va, Refused s (.errring seq b va) mgmt seq 0x8B 0)
      ∧ (n < 64 → ∃ s' x, exec (.memstatDeadlines seq b clr) s = .next s' ∧ Mgmt s s' seq 0x85 0 x ∧ x.length = 5152
        ∧ (∀ i, i < 1288 → field x (4 * i) 4 = (mget i 0 (s.home n).missed).toNat) ∧ (clr = true → (s'.home n).missed = []))
      ∧ (64 ≤ n → Refused s (.memstatDeadlines seq b clr) mgmt seq 0x85 0))
    ∧ (∀ (node etype : BitVec 16) (es : List (BitVec 16 × BitVec 16)),
      (node ≠ 0xFFFF → etype = 0 ∨ 0x0600 ≤ etype.toNat → es.length ≤ 1022 → (es.map (·.1)).Nodup → node ∉ es.map (·.1) →
        (∀ e ∈ es, 1 ≤ (List.range 16).countP (fun i => e.2.getLsbD i) ∧ (List.range 16).countP (fun i => e.2.getLsbD i) ≤ 4) →
        ∃ s', exec (.nodecfg seq node etype es) s = .next s' ∧ Mgmt s s' seq 0x88 0 []
          ∧ s'.dev = { s.dev with node := some node, etype := if etype = 0 then s.dev.etype else etype, nodes := es })
      ∧ (node = 0xFFFF → Refused s (.nodecfg seq node etype es) mgmt seq 0x88 0)))
    ∧ (∀ (fw dram : Bool) (up : BitVec 16), ∃ s', exec (.deviceReset fw dram up) s = .next s' ∧ s'.cyc = 0 ∧ s'.mem = [] ∧ s'.tasks = [] ∧ s'.images = []
      ∧ s'.dev.flash = s.dev.flash ∧ s'.dev.flashPavs = s.dev.flashPavs ∧ s'.dev.signed = s.dev.signed ∧ s'.agenda = s.agenda
      ∧ s'.stage = (if fw then (if dram then .running else .noDram) else .noFirmware) ∧ (fw = false → s'.pavs = [])
      ∧ (fw = true → (∃ p, s'.pav? 128 = some p ∧ p.st = .running ∧ p.key = 0 ∧ p.net = mgmtNet s.dev
          ∧ (dram = false ∨ s.dev.flashPavs = [] → s'.pavs = [(128, p)]))
        ∧ (∀ c, dram = true → s.dev.flashPavs = [c] → createBad State.reset c = none → ∃ p, s'.pav? c.net.pav.toNat = some p ∧ p.st = .running
          ∧ p.net = c.net ∧ p.ranges = rangesOf c.ranges ∧ p.troot = c.troot.toNat ∧ p.imgKeys = c.keys)
        ∧ (dram = true → ∀ i, i < 16 → (s'.port i).st = if up.getLsbD i then .up else .down)))
    ∧ (∃ s', exec .powerLoss s = .next s' ∧ s'.stage = .off ∧ s'.mem = [] ∧ s'.tasks = [] ∧ s'.pavs = [] ∧ s'.dev.flash = s.dev.flash)


/-! ## The whole machine: encoding, steps, reset -/

/-- R29, R30, R42, R44 to R60: decoding what encode writes of a well-formed instruction gives that instruction and its length in
parcels, whatever follows it, for every stream, instruction and operand value. -/
def Obligations.DecodingGivesBackEveryEncodedInstruction : Prop :=
  ∀ (st : Stream) (i : Instr) (rest : List Parcel), i.wf st = true → decode st (encode i ++ rest) = .ok (i, (encode i).length)

/-- R42: parcels that decode at all decode to a well-formed instruction of the stream, of which they are the one encoding. -/
def Obligations.EveryDecodedWordIsTheEncodingOfItsInstruction : Prop :=
  ∀ (st : Stream) (ps : List Parcel) (i : Instr) (n : Nat), decode st ps = .ok (i, n) →
    i.wf st = true ∧ encode i = ps.take n ∧ n ≤ ps.length

/-- R21: every step keeps the canonical form of physical memory. -/
def Obligations.EveryStepKeepsMemoryCanonical : Prop :=
  ∀ s s' : State, Memory.wf s.mem = true → step s = .next s' → Memory.wf s'.mem = true

/-- R374: from every state, the step gives a next state: no instruction, event or command stops the device, every fault of the
spec being a state it goes on from. -/
def Obligations.EveryStepGoesOn : Prop := ∀ s : State, ∃ s', step s = .next s'

namespace Sys2Proof.Claim

/-- The next turn is a stream's, and it may issue: a resident task neither stopped nor being saved, on a running device and a core
that withholds nothing, t being the task and x the stream's context. -/
def TurnOf (s : State) (c : Ctx) (n : Nat) (rest : List Turn) (t : Task) : Prop :=
  s.agenda = { ev := none, ctx := c, cycles := n } :: rest ∧ s.task? c.core.val c.slot.val = some t ∧ s.stage = .running
    ∧ t.stopped = false ∧ t.saving = none ∧ (s.core c.core.val).withheld = false

/-- The state in which a stream's turn begins: the agenda moved on, the stream current. -/
def begun (s : State) (c : Ctx) (rest : List Turn) : State := { s with agenda := rest, cur := c }

/-- The same with the stream's engine taken (R285). -/
def engaged (s : State) (c : Ctx) (rest : List Turn) : State :=
  (begun s c rest).modCore c.core.val (fun k => { k with engines := mset c.stream.code { busy := some c.slot.val } k.engines })

/-- The parcels of a stream's loop buffer from its pc on. -/
def ahead (x : StreamCtx) : List Parcel := x.lbuf.drop (x.pc - x.blk - 2).toNat

end Sys2Proof.Claim

/-- R31, R33, R37, R42, R173, R285: a step executes the instruction that the parcels at the stream's pc decode to, in the state in
which the stream has its engine, and passes the turn's cycles; the header at a stream's pc; what is no instruction raises
ILLEGAL_INSN; device events run as their turn comes. The agenda is the model's (log 1). -/
def Obligations.AStepRunsTheDecodedInstruction : Prop :=
  (∀ (s : State) (c : Ctx) (n : Nat) (rest : List Turn) (t : Task), TurnOf s c n rest t →
    let x := t.st c.stream
    let free := (mget c.stream.code { busy := none } (s.core c.core.val).engines).busy
    (x.phase = .inBlock → free = none ∨ free = some c.slot.val →
      (∀ i m, decode c.stream (ahead x) = .ok (i, m) → (∀ h, i ≠ .blockHeaderEntry h) → badStamp t c.stream i = false →
        (c.stream = .v → vHeld t i = false) →
        step s = timed n (exec i (engaged s c rest)))
      ∧ (∀ i m, decode .v (ahead x) = .ok (i, m) → (∀ h, i ≠ .blockHeaderEntry h) → badStamp t .v i = false → c.stream = .v → vHeld t i = true →
        step s = .next ((engaged s c rest).pass n))
      ∧ (∀ e, decode c.stream (ahead x) = .error e → step s = .next (((engaged s c rest).takeFault fIllegalInsn 0).pass n))
      ∧ (∀ i m, decode c.stream (ahead x) = .ok (i, m) → (∃ h, i = .blockHeaderEntry h) ∨ badStamp t c.stream i = true →
        step s = .next (((engaged s c rest).takeFault fIllegalInsn 0).pass n)))
    ∧ (x.phase = .inBlock → (∃ l, free = some l ∧ l ≠ c.slot.val) → step s = .next ((begun s c rest).pass n))
    ∧ (x.phase = .atHeader →
      let h := (s.core c.core.val).headerAt x.pc.toNat
      (nbits h.toNat 31 30 = 3 → step s = timed n (exec (.blockHeaderEntry (h.setWidth 30)) (begun s c rest)))
      ∧ (nbits h.toNat 31 30 ≠ 3 → x.wait = none → step s = .next (((begun s c rest).takeFault fIllegalInsn 0).pass n)))
    ∧ (x.phase = .halted → step s = .next ((begun s c rest).pass n)))
  ∧ (∀ (s : State) (i : Instr) (c : Ctx) (n : Nat) (rest : List Turn), s.agenda = { ev := some i, ctx := c, cycles := n } :: rest →
      isEvent i = true → s.stage ≠ .off ∨ (∃ a b p, i = .deviceReset a b p) → step s = timed n (exec i { s with agenda := rest }))
  ∧ (∀ (s : State) (x : Turn) (rest : List Turn), s.agenda = x :: rest →
      step s = step { s.corrected x.ecc with agenda := { x with ecc := [] } :: rest })
  ∧ (∀ s : State, s.agenda = [] → step s = step { s with rr := s.rr + 1, agenda := [{ ev := none, ctx := turnOf s.rr, cycles := 1 }] })
  ∧ (∀ (s : State) (nbits w : Nat) (k : Stream) (i : Instr), (s.core 0).withheld = false → (s.core 0).engines = [] →
      readTableWord nbits w = some (k, i) → (∀ h, i ≠ .blockHeaderEntry h) →
      ∃ s2 : State, step (s.withFetchWord nbits w) = timed 1 (exec i s2) ∧ s2.cur = { core := 0, slot := 0, stream := k } ∧ s2.agenda = []
        ∧ ∃ t, s2.curTask = some t ∧ ahead (t.st k) = tableParcels nbits w)

/-- Words that the spec writes out in full (Tables 4-3, 4-5, 4-8, 5-2, 6-7, 7-12, 8-7) decode to the instructions it names. -/
def Obligations.WrittenOutWordsDecode : Prop :=
  decode .s [0x5781, 0x3000] = .ok (.ld ⟨.none, .s 4, .b8, false, 0, 0⟩, 2)
  ∧ decode .s [0x4181, 0x4005] = .ok (.addi ⟨.none, .s 5, 5⟩, 2)
  ∧ decode .s [0x4014, 0x2200] = .ok (.add ⟨.s 2, .q 0, .q 1, false⟩, 2)
  ∧ decode .s [0x8B28, 0x7FFD, 0xFFFF] = .ok (.li (.s 5) 0x7FFFFFFD, 3)
  ∧ decode .s [0x9C39, 0x121B, 0x4000] = .ok (.cas ⟨.s 7, .s 4, .s 9, true, .dev⟩ (.s 8), 3)
  ∧ decode .v [0x8105, 0x00D0, 0x0241] = .ok (.vfma ⟨10, .v 3, .v 4, true, false, 2, .f32, true⟩, 3)
  ∧ decode .m [0x0628] = .ok (.mmaC 5, 1)
  ∧ decode .m [0x5460, 0x4010] = .ok (.grow 3 0 true 16, 2)
  ∧ decode .c [0x8E01, 0xC800, 0x0000] = .ok (.swadd 4 3, 3)
  ∧ decode .s [0x609F, 0x9C00] = .ok (.fence .sys 15 true true (.s 7), 2)

/-- R16, R266, R344, R367: after device reset CYC and every logical time is 0, no task is resident, memory lists nothing and reads as
zero (log 3), and nothing runs before bring-up; that memory is canonical. -/
def Obligations.ResetLeavesTheDeviceEmpty : Prop :=
  State.reset.cyc = 0 ∧ State.reset.tasks = [] ∧ State.reset.pavs = [] ∧ State.reset.images = [] ∧ State.reset.mem = []
  ∧ Memory.wf State.reset.mem = true ∧ (∀ a, memRead a State.reset.mem = 0) ∧ State.reset.stage = .released
  ∧ (∀ c, (State.reset.core c).ltime = 0 ∧ (State.reset.core c).l1 = []) ∧ (∀ h, (State.reset.home h).mts = 0 ∧ (State.reset.home h).recs = [])
  ∧ State.reset.dev.floor = 0 ∧ (∀ m r, mget r 0 (State.reset.stack m).scores = 0) ∧ (∀ p, (State.reset.port p).st = .down)
  ∧ State.reset.dev.etype = 0x88B5
  ∧ ∀ c : Ctx, ∃ s', step { State.reset with agenda := [{ ev := none, ctx := c, cycles := 1 }] } = .next s' ∧ s'.cyc = 1 ∧ s'.cores = []
end

