-- ==== Sys2Proof/Laws/State.lean ====
section
/-!
SUPPORT. What each update of State leaves: one lemma for each field that an update does not touch, and for each part that it
reads back. All are used by simp.
-/

namespace Sys2Proof.Laws
open Sys2Proof Sys2Proof.Machine

@[simp] theorem setCore_cyc (s : State) (c : Nat) (x : Core) : (s.setCore c x).cyc = s.cyc := rfl
@[simp] theorem setCore_stage (s : State) (c : Nat) (x : Core) : (s.setCore c x).stage = s.stage := rfl
@[simp] theorem setCore_agenda (s : State) (c : Nat) (x : Core) : (s.setCore c x).agenda = s.agenda := rfl
@[simp] theorem setCore_cur (s : State) (c : Nat) (x : Core) : (s.setCore c x).cur = s.cur := rfl
@[simp] theorem setCore_rr (s : State) (c : Nat) (x : Core) : (s.setCore c x).rr = s.rr := rfl
@[simp] theorem setCore_nextId (s : State) (c : Nat) (x : Core) : (s.setCore c x).nextId = s.nextId := rfl
@[simp] theorem setCore_free (s : State) (c : Nat) (x : Core) : (s.setCore c x).free = s.free := rfl
@[simp] theorem setCore_mem (s : State) (c : Nat) (x : Core) : (s.setCore c x).mem = s.mem := rfl
@[simp] theorem setCore_memKey (s : State) (c : Nat) (x : Core) : (s.setCore c x).memKey = s.memKey := rfl
@[simp] theorem setCore_poison (s : State) (c : Nat) (x : Core) : (s.setCore c x).poison = s.poison := rfl
@[simp] theorem setCore_losses (s : State) (c : Nat) (x : Core) : (s.setCore c x).losses = s.losses := rfl
@[simp] theorem setCore_dies (s : State) (c : Nat) (x : Core) : (s.setCore c x).dies = s.dies := rfl
@[simp] theorem setCore_homes (s : State) (c : Nat) (x : Core) : (s.setCore c x).homes = s.homes := rfl
@[simp] theorem setCore_drams (s : State) (c : Nat) (x : Core) : (s.setCore c x).drams = s.drams := rfl
@[simp] theorem setCore_pavs (s : State) (c : Nat) (x : Core) : (s.setCore c x).pavs = s.pavs := rfl
@[simp] theorem setCore_ports (s : State) (c : Nat) (x : Core) : (s.setCore c x).ports = s.ports := rfl
@[simp] theorem setCore_images (s : State) (c : Nat) (x : Core) : (s.setCore c x).images = s.images := rfl
@[simp] theorem setCore_accts (s : State) (c : Nat) (x : Core) : (s.setCore c x).accts = s.accts := rfl
@[simp] theorem setCore_saved (s : State) (c : Nat) (x : Core) : (s.setCore c x).saved = s.saved := rfl
@[simp] theorem setCore_gangs (s : State) (c : Nat) (x : Core) : (s.setCore c x).gangs = s.gangs := rfl
@[simp] theorem setCore_reqs (s : State) (c : Nat) (x : Core) : (s.setCore c x).reqs = s.reqs := rfl
@[simp] theorem setCore_walks (s : State) (c : Nat) (x : Core) : (s.setCore c x).walks = s.walks := rfl
@[simp] theorem setCore_tmsgs (s : State) (c : Nat) (x : Core) : (s.setCore c x).tmsgs = s.tmsgs := rfl
@[simp] theorem setCore_tfills (s : State) (c : Nat) (x : Core) : (s.setCore c x).tfills = s.tfills := rfl
@[simp] theorem setCore_crsubs (s : State) (c : Nat) (x : Core) : (s.setCore c x).crsubs = s.crsubs := rfl
@[simp] theorem setCore_rops (s : State) (c : Nat) (x : Core) : (s.setCore c x).rops = s.rops := rfl
@[simp] theorem setCore_fab (s : State) (c : Nat) (x : Core) : (s.setCore c x).fab = s.fab := rfl
@[simp] theorem setCore_dev (s : State) (c : Nat) (x : Core) : (s.setCore c x).dev = s.dev := rfl
@[simp] theorem setCore_out (s : State) (c : Nat) (x : Core) : (s.setCore c x).out = s.out := rfl
@[simp] theorem setCore_answers (s : State) (c : Nat) (x : Core) : (s.setCore c x).answers = s.answers := rfl

@[simp] theorem modCore_cyc (s : State) (c : Nat) (f : Core → Core) : (s.modCore c f).cyc = s.cyc := rfl
@[simp] theorem modCore_stage (s : State) (c : Nat) (f : Core → Core) : (s.modCore c f).stage = s.stage := rfl
@[simp] theorem modCore_agenda (s : State) (c : Nat) (f : Core → Core) : (s.modCore c f).agenda = s.agenda := rfl
@[simp] theorem modCore_cur (s : State) (c : Nat) (f : Core → Core) : (s.modCore c f).cur = s.cur := rfl
@[simp] theorem modCore_rr (s : State) (c : Nat) (f : Core → Core) : (s.modCore c f).rr = s.rr := rfl
@[simp] theorem modCore_nextId (s : State) (c : Nat) (f : Core → Core) : (s.modCore c f).nextId = s.nextId := rfl
@[simp] theorem modCore_free (s : State) (c : Nat) (f : Core → Core) : (s.modCore c f).free = s.free := rfl
@[simp] theorem modCore_mem (s : State) (c : Nat) (f : Core → Core) : (s.modCore c f).mem = s.mem := rfl
@[simp] theorem modCore_memKey (s : State) (c : Nat) (f : Core → Core) : (s.modCore c f).memKey = s.memKey := rfl
@[simp] theorem modCore_poison (s : State) (c : Nat) (f : Core → Core) : (s.modCore c f).poison = s.poison := rfl
@[simp] theorem modCore_losses (s : State) (c : Nat) (f : Core → Core) : (s.modCore c f).losses = s.losses := rfl
@[simp] theorem modCore_dies (s : State) (c : Nat) (f : Core → Core) : (s.modCore c f).dies = s.dies := rfl
@[simp] theorem modCore_homes (s : State) (c : Nat) (f : Core → Core) : (s.modCore c f).homes = s.homes := rfl
@[simp] theorem modCore_drams (s : State) (c : Nat) (f : Core → Core) : (s.modCore c f).drams = s.drams := rfl
@[simp] theorem modCore_pavs (s : State) (c : Nat) (f : Core → Core) : (s.modCore c f).pavs = s.pavs := rfl
@[simp] theorem modCore_ports (s : State) (c : Nat) (f : Core → Core) : (s.modCore c f).ports = s.ports := rfl
@[simp] theorem modCore_images (s : State) (c : Nat) (f : Core → Core) : (s.modCore c f).images = s.images := rfl
@[simp] theorem modCore_accts (s : State) (c : Nat) (f : Core → Core) : (s.modCore c f).accts = s.accts := rfl
@[simp] theorem modCore_saved (s : State) (c : Nat) (f : Core → Core) : (s.modCore c f).saved = s.saved := rfl
@[simp] theorem modCore_gangs (s : State) (c : Nat) (f : Core → Core) : (s.modCore c f).gangs = s.gangs := rfl
@[simp] theorem modCore_reqs (s : State) (c : Nat) (f : Core → Core) : (s.modCore c f).reqs = s.reqs := rfl
@[simp] theorem modCore_walks (s : State) (c : Nat) (f : Core → Core) : (s.modCore c f).walks = s.walks := rfl
@[simp] theorem modCore_tmsgs (s : State) (c : Nat) (f : Core → Core) : (s.modCore c f).tmsgs = s.tmsgs := rfl
@[simp] theorem modCore_tfills (s : State) (c : Nat) (f : Core → Core) : (s.modCore c f).tfills = s.tfills := rfl
@[simp] theorem modCore_crsubs (s : State) (c : Nat) (f : Core → Core) : (s.modCore c f).crsubs = s.crsubs := rfl
@[simp] theorem modCore_rops (s : State) (c : Nat) (f : Core → Core) : (s.modCore c f).rops = s.rops := rfl
@[simp] theorem modCore_fab (s : State) (c : Nat) (f : Core → Core) : (s.modCore c f).fab = s.fab := rfl
@[simp] theorem modCore_dev (s : State) (c : Nat) (f : Core → Core) : (s.modCore c f).dev = s.dev := rfl
@[simp] theorem modCore_out (s : State) (c : Nat) (f : Core → Core) : (s.modCore c f).out = s.out := rfl
@[simp] theorem modCore_answers (s : State) (c : Nat) (f : Core → Core) : (s.modCore c f).answers = s.answers := rfl

@[simp] theorem modCurCore_cyc (s : State) (f : Core → Core) : (s.modCurCore f).cyc = s.cyc := rfl
@[simp] theorem modCurCore_stage (s : State) (f : Core → Core) : (s.modCurCore f).stage = s.stage := rfl
@[simp] theorem modCurCore_agenda (s : State) (f : Core → Core) : (s.modCurCore f).agenda = s.agenda := rfl
@[simp] theorem modCurCore_cur (s : State) (f : Core → Core) : (s.modCurCore f).cur = s.cur := rfl
@[simp] theorem modCurCore_rr (s : State) (f : Core → Core) : (s.modCurCore f).rr = s.rr := rfl
@[simp] theorem modCurCore_nextId (s : State) (f : Core → Core) : (s.modCurCore f).nextId = s.nextId := rfl
@[simp] theorem modCurCore_free (s : State) (f : Core → Core) : (s.modCurCore f).free = s.free := rfl
@[simp] theorem modCurCore_mem (s : State) (f : Core → Core) : (s.modCurCore f).mem = s.mem := rfl
@[simp] theorem modCurCore_memKey (s : State) (f : Core → Core) : (s.modCurCore f).memKey = s.memKey := rfl
@[simp] theorem modCurCore_poison (s : State) (f : Core → Core) : (s.modCurCore f).poison = s.poison := rfl
@[simp] theorem modCurCore_losses (s : State) (f : Core → Core) : (s.modCurCore f).losses = s.losses := rfl
@[simp] theorem modCurCore_dies (s : State) (f : Core → Core) : (s.modCurCore f).dies = s.dies := rfl
@[simp] theorem modCurCore_homes (s : State) (f : Core → Core) : (s.modCurCore f).homes = s.homes := rfl
@[simp] theorem modCurCore_drams (s : State) (f : Core → Core) : (s.modCurCore f).drams = s.drams := rfl
@[simp] theorem modCurCore_pavs (s : State) (f : Core → Core) : (s.modCurCore f).pavs = s.pavs := rfl
@[simp] theorem modCurCore_ports (s : State) (f : Core → Core) : (s.modCurCore f).ports = s.ports := rfl
@[simp] theorem modCurCore_images (s : State) (f : Core → Core) : (s.modCurCore f).images = s.images := rfl
@[simp] theorem modCurCore_accts (s : State) (f : Core → Core) : (s.modCurCore f).accts = s.accts := rfl
@[simp] theorem modCurCore_saved (s : State) (f : Core → Core) : (s.modCurCore f).saved = s.saved := rfl
@[simp] theorem modCurCore_gangs (s : State) (f : Core → Core) : (s.modCurCore f).gangs = s.gangs := rfl
@[simp] theorem modCurCore_reqs (s : State) (f : Core → Core) : (s.modCurCore f).reqs = s.reqs := rfl
@[simp] theorem modCurCore_walks (s : State) (f : Core → Core) : (s.modCurCore f).walks = s.walks := rfl
@[simp] theorem modCurCore_tmsgs (s : State) (f : Core → Core) : (s.modCurCore f).tmsgs = s.tmsgs := rfl
@[simp] theorem modCurCore_tfills (s : State) (f : Core → Core) : (s.modCurCore f).tfills = s.tfills := rfl
@[simp] theorem modCurCore_crsubs (s : State) (f : Core → Core) : (s.modCurCore f).crsubs = s.crsubs := rfl
@[simp] theorem modCurCore_rops (s : State) (f : Core → Core) : (s.modCurCore f).rops = s.rops := rfl
@[simp] theorem modCurCore_fab (s : State) (f : Core → Core) : (s.modCurCore f).fab = s.fab := rfl
@[simp] theorem modCurCore_dev (s : State) (f : Core → Core) : (s.modCurCore f).dev = s.dev := rfl
@[simp] theorem modCurCore_out (s : State) (f : Core → Core) : (s.modCurCore f).out = s.out := rfl
@[simp] theorem modCurCore_answers (s : State) (f : Core → Core) : (s.modCurCore f).answers = s.answers := rfl

@[simp] theorem modDie_cyc (s : State) (d : Nat) (f : Die → Die) : (s.modDie d f).cyc = s.cyc := rfl
@[simp] theorem modDie_stage (s : State) (d : Nat) (f : Die → Die) : (s.modDie d f).stage = s.stage := rfl
@[simp] theorem modDie_agenda (s : State) (d : Nat) (f : Die → Die) : (s.modDie d f).agenda = s.agenda := rfl
@[simp] theorem modDie_cur (s : State) (d : Nat) (f : Die → Die) : (s.modDie d f).cur = s.cur := rfl
@[simp] theorem modDie_rr (s : State) (d : Nat) (f : Die → Die) : (s.modDie d f).rr = s.rr := rfl
@[simp] theorem modDie_nextId (s : State) (d : Nat) (f : Die → Die) : (s.modDie d f).nextId = s.nextId := rfl
@[simp] theorem modDie_free (s : State) (d : Nat) (f : Die → Die) : (s.modDie d f).free = s.free := rfl
@[simp] theorem modDie_mem (s : State) (d : Nat) (f : Die → Die) : (s.modDie d f).mem = s.mem := rfl
@[simp] theorem modDie_memKey (s : State) (d : Nat) (f : Die → Die) : (s.modDie d f).memKey = s.memKey := rfl
@[simp] theorem modDie_poison (s : State) (d : Nat) (f : Die → Die) : (s.modDie d f).poison = s.poison := rfl
@[simp] theorem modDie_losses (s : State) (d : Nat) (f : Die → Die) : (s.modDie d f).losses = s.losses := rfl
@[simp] theorem modDie_cores (s : State) (d : Nat) (f : Die → Die) : (s.modDie d f).cores = s.cores := rfl
@[simp] theorem modDie_homes (s : State) (d : Nat) (f : Die → Die) : (s.modDie d f).homes = s.homes := rfl
@[simp] theorem modDie_drams (s : State) (d : Nat) (f : Die → Die) : (s.modDie d f).drams = s.drams := rfl
@[simp] theorem modDie_pavs (s : State) (d : Nat) (f : Die → Die) : (s.modDie d f).pavs = s.pavs := rfl
@[simp] theorem modDie_ports (s : State) (d : Nat) (f : Die → Die) : (s.modDie d f).ports = s.ports := rfl
@[simp] theorem modDie_images (s : State) (d : Nat) (f : Die → Die) : (s.modDie d f).images = s.images := rfl
@[simp] theorem modDie_accts (s : State) (d : Nat) (f : Die → Die) : (s.modDie d f).accts = s.accts := rfl
@[simp] theorem modDie_saved (s : State) (d : Nat) (f : Die → Die) : (s.modDie d f).saved = s.saved := rfl
@[simp] theorem modDie_gangs (s : State) (d : Nat) (f : Die → Die) : (s.modDie d f).gangs = s.gangs := rfl
@[simp] theorem modDie_reqs (s : State) (d : Nat) (f : Die → Die) : (s.modDie d f).reqs = s.reqs := rfl
@[simp] theorem modDie_walks (s : State) (d : Nat) (f : Die → Die) : (s.modDie d f).walks = s.walks := rfl
@[simp] theorem modDie_tmsgs (s : State) (d : Nat) (f : Die → Die) : (s.modDie d f).tmsgs = s.tmsgs := rfl
@[simp] theorem modDie_tfills (s : State) (d : Nat) (f : Die → Die) : (s.modDie d f).tfills = s.tfills := rfl
@[simp] theorem modDie_crsubs (s : State) (d : Nat) (f : Die → Die) : (s.modDie d f).crsubs = s.crsubs := rfl
@[simp] theorem modDie_rops (s : State) (d : Nat) (f : Die → Die) : (s.modDie d f).rops = s.rops := rfl
@[simp] theorem modDie_fab (s : State) (d : Nat) (f : Die → Die) : (s.modDie d f).fab = s.fab := rfl
@[simp] theorem modDie_dev (s : State) (d : Nat) (f : Die → Die) : (s.modDie d f).dev = s.dev := rfl
@[simp] theorem modDie_out (s : State) (d : Nat) (f : Die → Die) : (s.modDie d f).out = s.out := rfl
@[simp] theorem modDie_answers (s : State) (d : Nat) (f : Die → Die) : (s.modDie d f).answers = s.answers := rfl

@[simp] theorem modHome_cyc (s : State) (h : Nat) (f : Home → Home) : (s.modHome h f).cyc = s.cyc := rfl
@[simp] theorem modHome_stage (s : State) (h : Nat) (f : Home → Home) : (s.modHome h f).stage = s.stage := rfl
@[simp] theorem modHome_agenda (s : State) (h : Nat) (f : Home → Home) : (s.modHome h f).agenda = s.agenda := rfl
@[simp] theorem modHome_cur (s : State) (h : Nat) (f : Home → Home) : (s.modHome h f).cur = s.cur := rfl
@[simp] theorem modHome_rr (s : State) (h : Nat) (f : Home → Home) : (s.modHome h f).rr = s.rr := rfl
@[simp] theorem modHome_nextId (s : State) (h : Nat) (f : Home → Home) : (s.modHome h f).nextId = s.nextId := rfl
@[simp] theorem modHome_free (s : State) (h : Nat) (f : Home → Home) : (s.modHome h f).free = s.free := rfl
@[simp] theorem modHome_mem (s : State) (h : Nat) (f : Home → Home) : (s.modHome h f).mem = s.mem := rfl
@[simp] theorem modHome_memKey (s : State) (h : Nat) (f : Home → Home) : (s.modHome h f).memKey = s.memKey := rfl
@[simp] theorem modHome_poison (s : State) (h : Nat) (f : Home → Home) : (s.modHome h f).poison = s.poison := rfl
@[simp] theorem modHome_losses (s : State) (h : Nat) (f : Home → Home) : (s.modHome h f).losses = s.losses := rfl
@[simp] theorem modHome_cores (s : State) (h : Nat) (f : Home → Home) : (s.modHome h f).cores = s.cores := rfl
@[simp] theorem modHome_dies (s : State) (h : Nat) (f : Home → Home) : (s.modHome h f).dies = s.dies := rfl
@[simp] theorem modHome_drams (s : State) (h : Nat) (f : Home → Home) : (s.modHome h f).drams = s.drams := rfl
@[simp] theorem modHome_pavs (s : State) (h : Nat) (f : Home → Home) : (s.modHome h f).pavs = s.pavs := rfl
@[simp] theorem modHome_ports (s : State) (h : Nat) (f : Home → Home) : (s.modHome h f).ports = s.ports := rfl
@[simp] theorem modHome_images (s : State) (h : Nat) (f : Home → Home) : (s.modHome h f).images = s.images := rfl
@[simp] theorem modHome_accts (s : State) (h : Nat) (f : Home → Home) : (s.modHome h f).accts = s.accts := rfl
@[simp] theorem modHome_saved (s : State) (h : Nat) (f : Home → Home) : (s.modHome h f).saved = s.saved := rfl
@[simp] theorem modHome_gangs (s : State) (h : Nat) (f : Home → Home) : (s.modHome h f).gangs = s.gangs := rfl
@[simp] theorem modHome_reqs (s : State) (h : Nat) (f : Home → Home) : (s.modHome h f).reqs = s.reqs := rfl
@[simp] theorem modHome_walks (s : State) (h : Nat) (f : Home → Home) : (s.modHome h f).walks = s.walks := rfl
@[simp] theorem modHome_tmsgs (s : State) (h : Nat) (f : Home → Home) : (s.modHome h f).tmsgs = s.tmsgs := rfl
@[simp] theorem modHome_tfills (s : State) (h : Nat) (f : Home → Home) : (s.modHome h f).tfills = s.tfills := rfl
@[simp] theorem modHome_crsubs (s : State) (h : Nat) (f : Home → Home) : (s.modHome h f).crsubs = s.crsubs := rfl
@[simp] theorem modHome_rops (s : State) (h : Nat) (f : Home → Home) : (s.modHome h f).rops = s.rops := rfl
@[simp] theorem modHome_fab (s : State) (h : Nat) (f : Home → Home) : (s.modHome h f).fab = s.fab := rfl
@[simp] theorem modHome_dev (s : State) (h : Nat) (f : Home → Home) : (s.modHome h f).dev = s.dev := rfl
@[simp] theorem modHome_out (s : State) (h : Nat) (f : Home → Home) : (s.modHome h f).out = s.out := rfl
@[simp] theorem modHome_answers (s : State) (h : Nat) (f : Home → Home) : (s.modHome h f).answers = s.answers := rfl

@[simp] theorem modStack_cyc (s : State) (m : Nat) (f : Stack → Stack) : (s.modStack m f).cyc = s.cyc := rfl
@[simp] theorem modStack_stage (s : State) (m : Nat) (f : Stack → Stack) : (s.modStack m f).stage = s.stage := rfl
@[simp] theorem modStack_agenda (s : State) (m : Nat) (f : Stack → Stack) : (s.modStack m f).agenda = s.agenda := rfl
@[simp] theorem modStack_cur (s : State) (m : Nat) (f : Stack → Stack) : (s.modStack m f).cur = s.cur := rfl
@[simp] theorem modStack_rr (s : State) (m : Nat) (f : Stack → Stack) : (s.modStack m f).rr = s.rr := rfl
@[simp] theorem modStack_nextId (s : State) (m : Nat) (f : Stack → Stack) : (s.modStack m f).nextId = s.nextId := rfl
@[simp] theorem modStack_free (s : State) (m : Nat) (f : Stack → Stack) : (s.modStack m f).free = s.free := rfl
@[simp] theorem modStack_mem (s : State) (m : Nat) (f : Stack → Stack) : (s.modStack m f).mem = s.mem := rfl
@[simp] theorem modStack_memKey (s : State) (m : Nat) (f : Stack → Stack) : (s.modStack m f).memKey = s.memKey := rfl
@[simp] theorem modStack_poison (s : State) (m : Nat) (f : Stack → Stack) : (s.modStack m f).poison = s.poison := rfl
@[simp] theorem modStack_losses (s : State) (m : Nat) (f : Stack → Stack) : (s.modStack m f).losses = s.losses := rfl
@[simp] theorem modStack_cores (s : State) (m : Nat) (f : Stack → Stack) : (s.modStack m f).cores = s.cores := rfl
@[simp] theorem modStack_dies (s : State) (m : Nat) (f : Stack → Stack) : (s.modStack m f).dies = s.dies := rfl
@[simp] theorem modStack_homes (s : State) (m : Nat) (f : Stack → Stack) : (s.modStack m f).homes = s.homes := rfl
@[simp] theorem modStack_pavs (s : State) (m : Nat) (f : Stack → Stack) : (s.modStack m f).pavs = s.pavs := rfl
@[simp] theorem modStack_ports (s : State) (m : Nat) (f : Stack → Stack) : (s.modStack m f).ports = s.ports := rfl
@[simp] theorem modStack_images (s : State) (m : Nat) (f : Stack → Stack) : (s.modStack m f).images = s.images := rfl
@[simp] theorem modStack_accts (s : State) (m : Nat) (f : Stack → Stack) : (s.modStack m f).accts = s.accts := rfl
@[simp] theorem modStack_saved (s : State) (m : Nat) (f : Stack → Stack) : (s.modStack m f).saved = s.saved := rfl
@[simp] theorem modStack_gangs (s : State) (m : Nat) (f : Stack → Stack) : (s.modStack m f).gangs = s.gangs := rfl
@[simp] theorem modStack_reqs (s : State) (m : Nat) (f : Stack → Stack) : (s.modStack m f).reqs = s.reqs := rfl
@[simp] theorem modStack_walks (s : State) (m : Nat) (f : Stack → Stack) : (s.modStack m f).walks = s.walks := rfl
@[simp] theorem modStack_tmsgs (s : State) (m : Nat) (f : Stack → Stack) : (s.modStack m f).tmsgs = s.tmsgs := rfl
@[simp] theorem modStack_tfills (s : State) (m : Nat) (f : Stack → Stack) : (s.modStack m f).tfills = s.tfills := rfl
@[simp] theorem modStack_crsubs (s : State) (m : Nat) (f : Stack → Stack) : (s.modStack m f).crsubs = s.crsubs := rfl
@[simp] theorem modStack_rops (s : State) (m : Nat) (f : Stack → Stack) : (s.modStack m f).rops = s.rops := rfl
@[simp] theorem modStack_fab (s : State) (m : Nat) (f : Stack → Stack) : (s.modStack m f).fab = s.fab := rfl
@[simp] theorem modStack_dev (s : State) (m : Nat) (f : Stack → Stack) : (s.modStack m f).dev = s.dev := rfl
@[simp] theorem modStack_out (s : State) (m : Nat) (f : Stack → Stack) : (s.modStack m f).out = s.out := rfl
@[simp] theorem modStack_answers (s : State) (m : Nat) (f : Stack → Stack) : (s.modStack m f).answers = s.answers := rfl

@[simp] theorem modPort_cyc (s : State) (p : Nat) (f : Port → Port) : (s.modPort p f).cyc = s.cyc := rfl
@[simp] theorem modPort_stage (s : State) (p : Nat) (f : Port → Port) : (s.modPort p f).stage = s.stage := rfl
@[simp] theorem modPort_agenda (s : State) (p : Nat) (f : Port → Port) : (s.modPort p f).agenda = s.agenda := rfl
@[simp] theorem modPort_cur (s : State) (p : Nat) (f : Port → Port) : (s.modPort p f).cur = s.cur := rfl
@[simp] theorem modPort_rr (s : State) (p : Nat) (f : Port → Port) : (s.modPort p f).rr = s.rr := rfl
@[simp] theorem modPort_nextId (s : State) (p : Nat) (f : Port → Port) : (s.modPort p f).nextId = s.nextId := rfl
@[simp] theorem modPort_free (s : State) (p : Nat) (f : Port → Port) : (s.modPort p f).free = s.free := rfl
@[simp] theorem modPort_mem (s : State) (p : Nat) (f : Port → Port) : (s.modPort p f).mem = s.mem := rfl
@[simp] theorem modPort_memKey (s : State) (p : Nat) (f : Port → Port) : (s.modPort p f).memKey = s.memKey := rfl
@[simp] theorem modPort_poison (s : State) (p : Nat) (f : Port → Port) : (s.modPort p f).poison = s.poison := rfl
@[simp] theorem modPort_losses (s : State) (p : Nat) (f : Port → Port) : (s.modPort p f).losses = s.losses := rfl
@[simp] theorem modPort_cores (s : State) (p : Nat) (f : Port → Port) : (s.modPort p f).cores = s.cores := rfl
@[simp] theorem modPort_dies (s : State) (p : Nat) (f : Port → Port) : (s.modPort p f).dies = s.dies := rfl
@[simp] theorem modPort_homes (s : State) (p : Nat) (f : Port → Port) : (s.modPort p f).homes = s.homes := rfl
@[simp] theorem modPort_drams (s : State) (p : Nat) (f : Port → Port) : (s.modPort p f).drams = s.drams := rfl
@[simp] theorem modPort_pavs (s : State) (p : Nat) (f : Port → Port) : (s.modPort p f).pavs = s.pavs := rfl
@[simp] theorem modPort_images (s : State) (p : Nat) (f : Port → Port) : (s.modPort p f).images = s.images := rfl
@[simp] theorem modPort_accts (s : State) (p : Nat) (f : Port → Port) : (s.modPort p f).accts = s.accts := rfl
@[simp] theorem modPort_saved (s : State) (p : Nat) (f : Port → Port) : (s.modPort p f).saved = s.saved := rfl
@[simp] theorem modPort_gangs (s : State) (p : Nat) (f : Port → Port) : (s.modPort p f).gangs = s.gangs := rfl
@[simp] theorem modPort_reqs (s : State) (p : Nat) (f : Port → Port) : (s.modPort p f).reqs = s.reqs := rfl
@[simp] theorem modPort_walks (s : State) (p : Nat) (f : Port → Port) : (s.modPort p f).walks = s.walks := rfl
@[simp] theorem modPort_tmsgs (s : State) (p : Nat) (f : Port → Port) : (s.modPort p f).tmsgs = s.tmsgs := rfl
@[simp] theorem modPort_tfills (s : State) (p : Nat) (f : Port → Port) : (s.modPort p f).tfills = s.tfills := rfl
@[simp] theorem modPort_crsubs (s : State) (p : Nat) (f : Port → Port) : (s.modPort p f).crsubs = s.crsubs := rfl
@[simp] theorem modPort_rops (s : State) (p : Nat) (f : Port → Port) : (s.modPort p f).rops = s.rops := rfl
@[simp] theorem modPort_fab (s : State) (p : Nat) (f : Port → Port) : (s.modPort p f).fab = s.fab := rfl
@[simp] theorem modPort_dev (s : State) (p : Nat) (f : Port → Port) : (s.modPort p f).dev = s.dev := rfl
@[simp] theorem modPort_out (s : State) (p : Nat) (f : Port → Port) : (s.modPort p f).out = s.out := rfl
@[simp] theorem modPort_answers (s : State) (p : Nat) (f : Port → Port) : (s.modPort p f).answers = s.answers := rfl

@[simp] theorem modDev_cyc (s : State) (f : Dev → Dev) : (s.modDev f).cyc = s.cyc := rfl
@[simp] theorem modDev_stage (s : State) (f : Dev → Dev) : (s.modDev f).stage = s.stage := rfl
@[simp] theorem modDev_agenda (s : State) (f : Dev → Dev) : (s.modDev f).agenda = s.agenda := rfl
@[simp] theorem modDev_cur (s : State) (f : Dev → Dev) : (s.modDev f).cur = s.cur := rfl
@[simp] theorem modDev_rr (s : State) (f : Dev → Dev) : (s.modDev f).rr = s.rr := rfl
@[simp] theorem modDev_nextId (s : State) (f : Dev → Dev) : (s.modDev f).nextId = s.nextId := rfl
@[simp] theorem modDev_free (s : State) (f : Dev → Dev) : (s.modDev f).free = s.free := rfl
@[simp] theorem modDev_mem (s : State) (f : Dev → Dev) : (s.modDev f).mem = s.mem := rfl
@[simp] theorem modDev_memKey (s : State) (f : Dev → Dev) : (s.modDev f).memKey = s.memKey := rfl
@[simp] theorem modDev_poison (s : State) (f : Dev → Dev) : (s.modDev f).poison = s.poison := rfl
@[simp] theorem modDev_losses (s : State) (f : Dev → Dev) : (s.modDev f).losses = s.losses := rfl
@[simp] theorem modDev_cores (s : State) (f : Dev → Dev) : (s.modDev f).cores = s.cores := rfl
@[simp] theorem modDev_dies (s : State) (f : Dev → Dev) : (s.modDev f).dies = s.dies := rfl
@[simp] theorem modDev_homes (s : State) (f : Dev → Dev) : (s.modDev f).homes = s.homes := rfl
@[simp] theorem modDev_drams (s : State) (f : Dev → Dev) : (s.modDev f).drams = s.drams := rfl
@[simp] theorem modDev_pavs (s : State) (f : Dev → Dev) : (s.modDev f).pavs = s.pavs := rfl
@[simp] theorem modDev_ports (s : State) (f : Dev → Dev) : (s.modDev f).ports = s.ports := rfl
@[simp] theorem modDev_images (s : State) (f : Dev → Dev) : (s.modDev f).images = s.images := rfl
@[simp] theorem modDev_accts (s : State) (f : Dev → Dev) : (s.modDev f).accts = s.accts := rfl
@[simp] theorem modDev_saved (s : State) (f : Dev → Dev) : (s.modDev f).saved = s.saved := rfl
@[simp] theorem modDev_gangs (s : State) (f : Dev → Dev) : (s.modDev f).gangs = s.gangs := rfl
@[simp] theorem modDev_reqs (s : State) (f : Dev → Dev) : (s.modDev f).reqs = s.reqs := rfl
@[simp] theorem modDev_walks (s : State) (f : Dev → Dev) : (s.modDev f).walks = s.walks := rfl
@[simp] theorem modDev_tmsgs (s : State) (f : Dev → Dev) : (s.modDev f).tmsgs = s.tmsgs := rfl
@[simp] theorem modDev_tfills (s : State) (f : Dev → Dev) : (s.modDev f).tfills = s.tfills := rfl
@[simp] theorem modDev_crsubs (s : State) (f : Dev → Dev) : (s.modDev f).crsubs = s.crsubs := rfl
@[simp] theorem modDev_rops (s : State) (f : Dev → Dev) : (s.modDev f).rops = s.rops := rfl
@[simp] theorem modDev_fab (s : State) (f : Dev → Dev) : (s.modDev f).fab = s.fab := rfl
@[simp] theorem modDev_out (s : State) (f : Dev → Dev) : (s.modDev f).out = s.out := rfl
@[simp] theorem modDev_answers (s : State) (f : Dev → Dev) : (s.modDev f).answers = s.answers := rfl

@[simp] theorem fresh_cyc (s : State) : (s.fresh).cyc = s.cyc := rfl
@[simp] theorem fresh_stage (s : State) : (s.fresh).stage = s.stage := rfl
@[simp] theorem fresh_agenda (s : State) : (s.fresh).agenda = s.agenda := rfl
@[simp] theorem fresh_cur (s : State) : (s.fresh).cur = s.cur := rfl
@[simp] theorem fresh_rr (s : State) : (s.fresh).rr = s.rr := rfl
@[simp] theorem fresh_free (s : State) : (s.fresh).free = s.free := rfl
@[simp] theorem fresh_mem (s : State) : (s.fresh).mem = s.mem := rfl
@[simp] theorem fresh_memKey (s : State) : (s.fresh).memKey = s.memKey := rfl
@[simp] theorem fresh_poison (s : State) : (s.fresh).poison = s.poison := rfl
@[simp] theorem fresh_losses (s : State) : (s.fresh).losses = s.losses := rfl
@[simp] theorem fresh_cores (s : State) : (s.fresh).cores = s.cores := rfl
@[simp] theorem fresh_dies (s : State) : (s.fresh).dies = s.dies := rfl
@[simp] theorem fresh_homes (s : State) : (s.fresh).homes = s.homes := rfl
@[simp] theorem fresh_drams (s : State) : (s.fresh).drams = s.drams := rfl
@[simp] theorem fresh_pavs (s : State) : (s.fresh).pavs = s.pavs := rfl
@[simp] theorem fresh_ports (s : State) : (s.fresh).ports = s.ports := rfl
@[simp] theorem fresh_images (s : State) : (s.fresh).images = s.images := rfl
@[simp] theorem fresh_accts (s : State) : (s.fresh).accts = s.accts := rfl
@[simp] theorem fresh_saved (s : State) : (s.fresh).saved = s.saved := rfl
@[simp] theorem fresh_gangs (s : State) : (s.fresh).gangs = s.gangs := rfl
@[simp] theorem fresh_reqs (s : State) : (s.fresh).reqs = s.reqs := rfl
@[simp] theorem fresh_walks (s : State) : (s.fresh).walks = s.walks := rfl
@[simp] theorem fresh_tmsgs (s : State) : (s.fresh).tmsgs = s.tmsgs := rfl
@[simp] theorem fresh_tfills (s : State) : (s.fresh).tfills = s.tfills := rfl
@[simp] theorem fresh_crsubs (s : State) : (s.fresh).crsubs = s.crsubs := rfl
@[simp] theorem fresh_rops (s : State) : (s.fresh).rops = s.rops := rfl
@[simp] theorem fresh_fab (s : State) : (s.fresh).fab = s.fab := rfl
@[simp] theorem fresh_dev (s : State) : (s.fresh).dev = s.dev := rfl
@[simp] theorem fresh_out (s : State) : (s.fresh).out = s.out := rfl
@[simp] theorem fresh_answers (s : State) : (s.fresh).answers = s.answers := rfl

@[simp] theorem setTask_cyc (s : State) (c l : Nat) (t : Task) : (s.setTask c l t).cyc = s.cyc := rfl
@[simp] theorem setTask_stage (s : State) (c l : Nat) (t : Task) : (s.setTask c l t).stage = s.stage := rfl
@[simp] theorem setTask_agenda (s : State) (c l : Nat) (t : Task) : (s.setTask c l t).agenda = s.agenda := rfl
@[simp] theorem setTask_cur (s : State) (c l : Nat) (t : Task) : (s.setTask c l t).cur = s.cur := rfl
@[simp] theorem setTask_rr (s : State) (c l : Nat) (t : Task) : (s.setTask c l t).rr = s.rr := rfl
@[simp] theorem setTask_nextId (s : State) (c l : Nat) (t : Task) : (s.setTask c l t).nextId = s.nextId := rfl
@[simp] theorem setTask_free (s : State) (c l : Nat) (t : Task) : (s.setTask c l t).free = s.free := rfl
@[simp] theorem setTask_mem (s : State) (c l : Nat) (t : Task) : (s.setTask c l t).mem = s.mem := rfl
@[simp] theorem setTask_memKey (s : State) (c l : Nat) (t : Task) : (s.setTask c l t).memKey = s.memKey := rfl
@[simp] theorem setTask_poison (s : State) (c l : Nat) (t : Task) : (s.setTask c l t).poison = s.poison := rfl
@[simp] theorem setTask_losses (s : State) (c l : Nat) (t : Task) : (s.setTask c l t).losses = s.losses := rfl
@[simp] theorem setTask_dies (s : State) (c l : Nat) (t : Task) : (s.setTask c l t).dies = s.dies := rfl
@[simp] theorem setTask_homes (s : State) (c l : Nat) (t : Task) : (s.setTask c l t).homes = s.homes := rfl
@[simp] theorem setTask_drams (s : State) (c l : Nat) (t : Task) : (s.setTask c l t).drams = s.drams := rfl
@[simp] theorem setTask_pavs (s : State) (c l : Nat) (t : Task) : (s.setTask c l t).pavs = s.pavs := rfl
@[simp] theorem setTask_ports (s : State) (c l : Nat) (t : Task) : (s.setTask c l t).ports = s.ports := rfl
@[simp] theorem setTask_images (s : State) (c l : Nat) (t : Task) : (s.setTask c l t).images = s.images := rfl
@[simp] theorem setTask_accts (s : State) (c l : Nat) (t : Task) : (s.setTask c l t).accts = s.accts := rfl
@[simp] theorem setTask_saved (s : State) (c l : Nat) (t : Task) : (s.setTask c l t).saved = s.saved := rfl
@[simp] theorem setTask_gangs (s : State) (c l : Nat) (t : Task) : (s.setTask c l t).gangs = s.gangs := rfl
@[simp] theorem setTask_reqs (s : State) (c l : Nat) (t : Task) : (s.setTask c l t).reqs = s.reqs := rfl
@[simp] theorem setTask_walks (s : State) (c l : Nat) (t : Task) : (s.setTask c l t).walks = s.walks := rfl
@[simp] theorem setTask_tmsgs (s : State) (c l : Nat) (t : Task) : (s.setTask c l t).tmsgs = s.tmsgs := rfl
@[simp] theorem setTask_tfills (s : State) (c l : Nat) (t : Task) : (s.setTask c l t).tfills = s.tfills := rfl
@[simp] theorem setTask_crsubs (s : State) (c l : Nat) (t : Task) : (s.setTask c l t).crsubs = s.crsubs := rfl
@[simp] theorem setTask_rops (s : State) (c l : Nat) (t : Task) : (s.setTask c l t).rops = s.rops := rfl
@[simp] theorem setTask_fab (s : State) (c l : Nat) (t : Task) : (s.setTask c l t).fab = s.fab := rfl
@[simp] theorem setTask_dev (s : State) (c l : Nat) (t : Task) : (s.setTask c l t).dev = s.dev := rfl
@[simp] theorem setTask_out (s : State) (c l : Nat) (t : Task) : (s.setTask c l t).out = s.out := rfl
@[simp] theorem setTask_answers (s : State) (c l : Nat) (t : Task) : (s.setTask c l t).answers = s.answers := rfl

@[simp] theorem inject_cyc (s : State) (a b c d : Nat) (e : Nat × Nat) (f g h : Nat) : (s.inject a b c d e f g h).cyc = s.cyc := rfl
@[simp] theorem inject_stage (s : State) (a b c d : Nat) (e : Nat × Nat) (f g h : Nat) : (s.inject a b c d e f g h).stage = s.stage := rfl
@[simp] theorem inject_agenda (s : State) (a b c d : Nat) (e : Nat × Nat) (f g h : Nat) : (s.inject a b c d e f g h).agenda = s.agenda := rfl
@[simp] theorem inject_cur (s : State) (a b c d : Nat) (e : Nat × Nat) (f g h : Nat) : (s.inject a b c d e f g h).cur = s.cur := rfl
@[simp] theorem inject_rr (s : State) (a b c d : Nat) (e : Nat × Nat) (f g h : Nat) : (s.inject a b c d e f g h).rr = s.rr := rfl
@[simp] theorem inject_nextId (s : State) (a b c d : Nat) (e : Nat × Nat) (f g h : Nat) : (s.inject a b c d e f g h).nextId = s.nextId := rfl
@[simp] theorem inject_free (s : State) (a b c d : Nat) (e : Nat × Nat) (f g h : Nat) : (s.inject a b c d e f g h).free = s.free := rfl
@[simp] theorem inject_mem (s : State) (a b c d : Nat) (e : Nat × Nat) (f g h : Nat) : (s.inject a b c d e f g h).mem = s.mem := rfl
@[simp] theorem inject_memKey (s : State) (a b c d : Nat) (e : Nat × Nat) (f g h : Nat) : (s.inject a b c d e f g h).memKey = s.memKey := rfl
@[simp] theorem inject_poison (s : State) (a b c d : Nat) (e : Nat × Nat) (f g h : Nat) : (s.inject a b c d e f g h).poison = s.poison := rfl
@[simp] theorem inject_losses (s : State) (a b c d : Nat) (e : Nat × Nat) (f g h : Nat) : (s.inject a b c d e f g h).losses = s.losses := rfl
@[simp] theorem inject_cores (s : State) (a b c d : Nat) (e : Nat × Nat) (f g h : Nat) : (s.inject a b c d e f g h).cores = s.cores := rfl
@[simp] theorem inject_dies (s : State) (a b c d : Nat) (e : Nat × Nat) (f g h : Nat) : (s.inject a b c d e f g h).dies = s.dies := rfl
@[simp] theorem inject_homes (s : State) (a b c d : Nat) (e : Nat × Nat) (f g h : Nat) : (s.inject a b c d e f g h).homes = s.homes := rfl
@[simp] theorem inject_drams (s : State) (a b c d : Nat) (e : Nat × Nat) (f g h : Nat) : (s.inject a b c d e f g h).drams = s.drams := rfl
@[simp] theorem inject_pavs (s : State) (a b c d : Nat) (e : Nat × Nat) (f g h : Nat) : (s.inject a b c d e f g h).pavs = s.pavs := rfl
@[simp] theorem inject_ports (s : State) (a b c d : Nat) (e : Nat × Nat) (f g h : Nat) : (s.inject a b c d e f g h).ports = s.ports := rfl
@[simp] theorem inject_images (s : State) (a b c d : Nat) (e : Nat × Nat) (f g h : Nat) : (s.inject a b c d e f g h).images = s.images := rfl
@[simp] theorem inject_accts (s : State) (a b c d : Nat) (e : Nat × Nat) (f g h : Nat) : (s.inject a b c d e f g h).accts = s.accts := rfl
@[simp] theorem inject_saved (s : State) (a b c d : Nat) (e : Nat × Nat) (f g h : Nat) : (s.inject a b c d e f g h).saved = s.saved := rfl
@[simp] theorem inject_gangs (s : State) (a b c d : Nat) (e : Nat × Nat) (f g h : Nat) : (s.inject a b c d e f g h).gangs = s.gangs := rfl
@[simp] theorem inject_reqs (s : State) (a b c d : Nat) (e : Nat × Nat) (f g h : Nat) : (s.inject a b c d e f g h).reqs = s.reqs := rfl
@[simp] theorem inject_walks (s : State) (a b c d : Nat) (e : Nat × Nat) (f g h : Nat) : (s.inject a b c d e f g h).walks = s.walks := rfl
@[simp] theorem inject_tmsgs (s : State) (a b c d : Nat) (e : Nat × Nat) (f g h : Nat) : (s.inject a b c d e f g h).tmsgs = s.tmsgs := rfl
@[simp] theorem inject_tfills (s : State) (a b c d : Nat) (e : Nat × Nat) (f g h : Nat) : (s.inject a b c d e f g h).tfills = s.tfills := rfl
@[simp] theorem inject_crsubs (s : State) (a b c d : Nat) (e : Nat × Nat) (f g h : Nat) : (s.inject a b c d e f g h).crsubs = s.crsubs := rfl
@[simp] theorem inject_rops (s : State) (a b c d : Nat) (e : Nat × Nat) (f g h : Nat) : (s.inject a b c d e f g h).rops = s.rops := rfl
@[simp] theorem inject_dev (s : State) (a b c d : Nat) (e : Nat × Nat) (f g h : Nat) : (s.inject a b c d e f g h).dev = s.dev := rfl
@[simp] theorem inject_out (s : State) (a b c d : Nat) (e : Nat × Nat) (f g h : Nat) : (s.inject a b c d e f g h).out = s.out := rfl
@[simp] theorem inject_answers (s : State) (a b c d : Nat) (e : Nat × Nat) (f g h : Nat) : (s.inject a b c d e f g h).answers = s.answers := rfl
@[simp] theorem lineRequest_cyc (s : State) (c t i n p v k : Nat) : (s.lineRequest c t i n p v k).cyc = s.cyc := rfl
@[simp] theorem lineRequest_stage (s : State) (c t i n p v k : Nat) : (s.lineRequest c t i n p v k).stage = s.stage := rfl
@[simp] theorem lineRequest_agenda (s : State) (c t i n p v k : Nat) : (s.lineRequest c t i n p v k).agenda = s.agenda := rfl
@[simp] theorem lineRequest_cur (s : State) (c t i n p v k : Nat) : (s.lineRequest c t i n p v k).cur = s.cur := rfl
@[simp] theorem lineRequest_rr (s : State) (c t i n p v k : Nat) : (s.lineRequest c t i n p v k).rr = s.rr := rfl
@[simp] theorem lineRequest_nextId (s : State) (c t i n p v k : Nat) : (s.lineRequest c t i n p v k).nextId = s.nextId := rfl
@[simp] theorem lineRequest_free (s : State) (c t i n p v k : Nat) : (s.lineRequest c t i n p v k).free = s.free := rfl
@[simp] theorem lineRequest_mem (s : State) (c t i n p v k : Nat) : (s.lineRequest c t i n p v k).mem = s.mem := rfl
@[simp] theorem lineRequest_memKey (s : State) (c t i n p v k : Nat) : (s.lineRequest c t i n p v k).memKey = s.memKey := rfl
@[simp] theorem lineRequest_poison (s : State) (c t i n p v k : Nat) : (s.lineRequest c t i n p v k).poison = s.poison := rfl
@[simp] theorem lineRequest_losses (s : State) (c t i n p v k : Nat) : (s.lineRequest c t i n p v k).losses = s.losses := rfl
@[simp] theorem lineRequest_cores (s : State) (c t i n p v k : Nat) : (s.lineRequest c t i n p v k).cores = s.cores := rfl
@[simp] theorem lineRequest_dies (s : State) (c t i n p v k : Nat) : (s.lineRequest c t i n p v k).dies = s.dies := rfl
@[simp] theorem lineRequest_homes (s : State) (c t i n p v k : Nat) : (s.lineRequest c t i n p v k).homes = s.homes := rfl
@[simp] theorem lineRequest_drams (s : State) (c t i n p v k : Nat) : (s.lineRequest c t i n p v k).drams = s.drams := rfl
@[simp] theorem lineRequest_pavs (s : State) (c t i n p v k : Nat) : (s.lineRequest c t i n p v k).pavs = s.pavs := rfl
@[simp] theorem lineRequest_ports (s : State) (c t i n p v k : Nat) : (s.lineRequest c t i n p v k).ports = s.ports := rfl
@[simp] theorem lineRequest_images (s : State) (c t i n p v k : Nat) : (s.lineRequest c t i n p v k).images = s.images := rfl
@[simp] theorem lineRequest_accts (s : State) (c t i n p v k : Nat) : (s.lineRequest c t i n p v k).accts = s.accts := rfl
@[simp] theorem lineRequest_saved (s : State) (c t i n p v k : Nat) : (s.lineRequest c t i n p v k).saved = s.saved := rfl
@[simp] theorem lineRequest_gangs (s : State) (c t i n p v k : Nat) : (s.lineRequest c t i n p v k).gangs = s.gangs := rfl
@[simp] theorem lineRequest_reqs (s : State) (c t i n p v k : Nat) : (s.lineRequest c t i n p v k).reqs = s.reqs := rfl
@[simp] theorem lineRequest_walks (s : State) (c t i n p v k : Nat) : (s.lineRequest c t i n p v k).walks = s.walks := rfl
@[simp] theorem lineRequest_tmsgs (s : State) (c t i n p v k : Nat) : (s.lineRequest c t i n p v k).tmsgs = s.tmsgs := rfl
@[simp] theorem lineRequest_tfills (s : State) (c t i n p v k : Nat) : (s.lineRequest c t i n p v k).tfills = s.tfills := rfl
@[simp] theorem lineRequest_crsubs (s : State) (c t i n p v k : Nat) : (s.lineRequest c t i n p v k).crsubs = s.crsubs := rfl
@[simp] theorem lineRequest_rops (s : State) (c t i n p v k : Nat) : (s.lineRequest c t i n p v k).rops = s.rops := rfl
@[simp] theorem lineRequest_dev (s : State) (c t i n p v k : Nat) : (s.lineRequest c t i n p v k).dev = s.dev := rfl
@[simp] theorem lineRequest_out (s : State) (c t i n p v k : Nat) : (s.lineRequest c t i n p v k).out = s.out := rfl
@[simp] theorem lineRequest_answers (s : State) (c t i n p v k : Nat) : (s.lineRequest c t i n p v k).answers = s.answers := rfl
@[simp] theorem lineAnswer_cyc (s : State) (c t i n p v : Nat) : (s.lineAnswer c t i n p v).cyc = s.cyc := rfl
@[simp] theorem lineAnswer_stage (s : State) (c t i n p v : Nat) : (s.lineAnswer c t i n p v).stage = s.stage := rfl
@[simp] theorem lineAnswer_agenda (s : State) (c t i n p v : Nat) : (s.lineAnswer c t i n p v).agenda = s.agenda := rfl
@[simp] theorem lineAnswer_cur (s : State) (c t i n p v : Nat) : (s.lineAnswer c t i n p v).cur = s.cur := rfl
@[simp] theorem lineAnswer_rr (s : State) (c t i n p v : Nat) : (s.lineAnswer c t i n p v).rr = s.rr := rfl
@[simp] theorem lineAnswer_nextId (s : State) (c t i n p v : Nat) : (s.lineAnswer c t i n p v).nextId = s.nextId := rfl
@[simp] theorem lineAnswer_free (s : State) (c t i n p v : Nat) : (s.lineAnswer c t i n p v).free = s.free := rfl
@[simp] theorem lineAnswer_mem (s : State) (c t i n p v : Nat) : (s.lineAnswer c t i n p v).mem = s.mem := rfl
@[simp] theorem lineAnswer_memKey (s : State) (c t i n p v : Nat) : (s.lineAnswer c t i n p v).memKey = s.memKey := rfl
@[simp] theorem lineAnswer_poison (s : State) (c t i n p v : Nat) : (s.lineAnswer c t i n p v).poison = s.poison := rfl
@[simp] theorem lineAnswer_losses (s : State) (c t i n p v : Nat) : (s.lineAnswer c t i n p v).losses = s.losses := rfl
@[simp] theorem lineAnswer_cores (s : State) (c t i n p v : Nat) : (s.lineAnswer c t i n p v).cores = s.cores := rfl
@[simp] theorem lineAnswer_dies (s : State) (c t i n p v : Nat) : (s.lineAnswer c t i n p v).dies = s.dies := rfl
@[simp] theorem lineAnswer_homes (s : State) (c t i n p v : Nat) : (s.lineAnswer c t i n p v).homes = s.homes := rfl
@[simp] theorem lineAnswer_drams (s : State) (c t i n p v : Nat) : (s.lineAnswer c t i n p v).drams = s.drams := rfl
@[simp] theorem lineAnswer_pavs (s : State) (c t i n p v : Nat) : (s.lineAnswer c t i n p v).pavs = s.pavs := rfl
@[simp] theorem lineAnswer_ports (s : State) (c t i n p v : Nat) : (s.lineAnswer c t i n p v).ports = s.ports := rfl
@[simp] theorem lineAnswer_images (s : State) (c t i n p v : Nat) : (s.lineAnswer c t i n p v).images = s.images := rfl
@[simp] theorem lineAnswer_accts (s : State) (c t i n p v : Nat) : (s.lineAnswer c t i n p v).accts = s.accts := rfl
@[simp] theorem lineAnswer_saved (s : State) (c t i n p v : Nat) : (s.lineAnswer c t i n p v).saved = s.saved := rfl
@[simp] theorem lineAnswer_gangs (s : State) (c t i n p v : Nat) : (s.lineAnswer c t i n p v).gangs = s.gangs := rfl
@[simp] theorem lineAnswer_reqs (s : State) (c t i n p v : Nat) : (s.lineAnswer c t i n p v).reqs = s.reqs := rfl
@[simp] theorem lineAnswer_walks (s : State) (c t i n p v : Nat) : (s.lineAnswer c t i n p v).walks = s.walks := rfl
@[simp] theorem lineAnswer_tmsgs (s : State) (c t i n p v : Nat) : (s.lineAnswer c t i n p v).tmsgs = s.tmsgs := rfl
@[simp] theorem lineAnswer_tfills (s : State) (c t i n p v : Nat) : (s.lineAnswer c t i n p v).tfills = s.tfills := rfl
@[simp] theorem lineAnswer_crsubs (s : State) (c t i n p v : Nat) : (s.lineAnswer c t i n p v).crsubs = s.crsubs := rfl
@[simp] theorem lineAnswer_rops (s : State) (c t i n p v : Nat) : (s.lineAnswer c t i n p v).rops = s.rops := rfl
@[simp] theorem lineAnswer_dev (s : State) (c t i n p v : Nat) : (s.lineAnswer c t i n p v).dev = s.dev := rfl
@[simp] theorem lineAnswer_out (s : State) (c t i n p v : Nat) : (s.lineAnswer c t i n p v).out = s.out := rfl
@[simp] theorem lineAnswer_answers (s : State) (c t i n p v : Nat) : (s.lineAnswer c t i n p v).answers = s.answers := rfl

@[simp] theorem stamp_cyc (s : State) (pa : Nat) (w : Word32) : (s.stamp pa w).cyc = s.cyc := rfl
@[simp] theorem stamp_stage (s : State) (pa : Nat) (w : Word32) : (s.stamp pa w).stage = s.stage := rfl
@[simp] theorem stamp_agenda (s : State) (pa : Nat) (w : Word32) : (s.stamp pa w).agenda = s.agenda := rfl
@[simp] theorem stamp_cur (s : State) (pa : Nat) (w : Word32) : (s.stamp pa w).cur = s.cur := rfl
@[simp] theorem stamp_rr (s : State) (pa : Nat) (w : Word32) : (s.stamp pa w).rr = s.rr := rfl
@[simp] theorem stamp_nextId (s : State) (pa : Nat) (w : Word32) : (s.stamp pa w).nextId = s.nextId := rfl
@[simp] theorem stamp_free (s : State) (pa : Nat) (w : Word32) : (s.stamp pa w).free = s.free := rfl
@[simp] theorem stamp_mem (s : State) (pa : Nat) (w : Word32) : (s.stamp pa w).mem = s.mem := rfl
@[simp] theorem stamp_memKey (s : State) (pa : Nat) (w : Word32) : (s.stamp pa w).memKey = s.memKey := rfl
@[simp] theorem stamp_poison (s : State) (pa : Nat) (w : Word32) : (s.stamp pa w).poison = s.poison := rfl
@[simp] theorem stamp_losses (s : State) (pa : Nat) (w : Word32) : (s.stamp pa w).losses = s.losses := rfl
@[simp] theorem stamp_cores (s : State) (pa : Nat) (w : Word32) : (s.stamp pa w).cores = s.cores := rfl
@[simp] theorem stamp_dies (s : State) (pa : Nat) (w : Word32) : (s.stamp pa w).dies = s.dies := rfl
@[simp] theorem stamp_drams (s : State) (pa : Nat) (w : Word32) : (s.stamp pa w).drams = s.drams := rfl
@[simp] theorem stamp_pavs (s : State) (pa : Nat) (w : Word32) : (s.stamp pa w).pavs = s.pavs := rfl
@[simp] theorem stamp_ports (s : State) (pa : Nat) (w : Word32) : (s.stamp pa w).ports = s.ports := rfl
@[simp] theorem stamp_images (s : State) (pa : Nat) (w : Word32) : (s.stamp pa w).images = s.images := rfl
@[simp] theorem stamp_accts (s : State) (pa : Nat) (w : Word32) : (s.stamp pa w).accts = s.accts := rfl
@[simp] theorem stamp_saved (s : State) (pa : Nat) (w : Word32) : (s.stamp pa w).saved = s.saved := rfl
@[simp] theorem stamp_gangs (s : State) (pa : Nat) (w : Word32) : (s.stamp pa w).gangs = s.gangs := rfl
@[simp] theorem stamp_reqs (s : State) (pa : Nat) (w : Word32) : (s.stamp pa w).reqs = s.reqs := rfl
@[simp] theorem stamp_walks (s : State) (pa : Nat) (w : Word32) : (s.stamp pa w).walks = s.walks := rfl
@[simp] theorem stamp_tmsgs (s : State) (pa : Nat) (w : Word32) : (s.stamp pa w).tmsgs = s.tmsgs := rfl
@[simp] theorem stamp_tfills (s : State) (pa : Nat) (w : Word32) : (s.stamp pa w).tfills = s.tfills := rfl
@[simp] theorem stamp_crsubs (s : State) (pa : Nat) (w : Word32) : (s.stamp pa w).crsubs = s.crsubs := rfl
@[simp] theorem stamp_rops (s : State) (pa : Nat) (w : Word32) : (s.stamp pa w).rops = s.rops := rfl
@[simp] theorem stamp_fab (s : State) (pa : Nat) (w : Word32) : (s.stamp pa w).fab = s.fab := rfl
@[simp] theorem stamp_dev (s : State) (pa : Nat) (w : Word32) : (s.stamp pa w).dev = s.dev := rfl
@[simp] theorem stamp_out (s : State) (pa : Nat) (w : Word32) : (s.stamp pa w).out = s.out := rfl
@[simp] theorem stamp_answers (s : State) (pa : Nat) (w : Word32) : (s.stamp pa w).answers = s.answers := rfl

@[simp] theorem raiseLtime_cyc (s : State) (c : Nat) (w : Word32) : (s.raiseLtime c w).cyc = s.cyc := rfl
@[simp] theorem raiseLtime_stage (s : State) (c : Nat) (w : Word32) : (s.raiseLtime c w).stage = s.stage := rfl
@[simp] theorem raiseLtime_agenda (s : State) (c : Nat) (w : Word32) : (s.raiseLtime c w).agenda = s.agenda := rfl
@[simp] theorem raiseLtime_cur (s : State) (c : Nat) (w : Word32) : (s.raiseLtime c w).cur = s.cur := rfl
@[simp] theorem raiseLtime_rr (s : State) (c : Nat) (w : Word32) : (s.raiseLtime c w).rr = s.rr := rfl
@[simp] theorem raiseLtime_nextId (s : State) (c : Nat) (w : Word32) : (s.raiseLtime c w).nextId = s.nextId := rfl
@[simp] theorem raiseLtime_free (s : State) (c : Nat) (w : Word32) : (s.raiseLtime c w).free = s.free := rfl
@[simp] theorem raiseLtime_mem (s : State) (c : Nat) (w : Word32) : (s.raiseLtime c w).mem = s.mem := rfl
@[simp] theorem raiseLtime_memKey (s : State) (c : Nat) (w : Word32) : (s.raiseLtime c w).memKey = s.memKey := rfl
@[simp] theorem raiseLtime_poison (s : State) (c : Nat) (w : Word32) : (s.raiseLtime c w).poison = s.poison := rfl
@[simp] theorem raiseLtime_losses (s : State) (c : Nat) (w : Word32) : (s.raiseLtime c w).losses = s.losses := rfl
@[simp] theorem raiseLtime_dies (s : State) (c : Nat) (w : Word32) : (s.raiseLtime c w).dies = s.dies := rfl
@[simp] theorem raiseLtime_homes (s : State) (c : Nat) (w : Word32) : (s.raiseLtime c w).homes = s.homes := rfl
@[simp] theorem raiseLtime_drams (s : State) (c : Nat) (w : Word32) : (s.raiseLtime c w).drams = s.drams := rfl
@[simp] theorem raiseLtime_pavs (s : State) (c : Nat) (w : Word32) : (s.raiseLtime c w).pavs = s.pavs := rfl
@[simp] theorem raiseLtime_ports (s : State) (c : Nat) (w : Word32) : (s.raiseLtime c w).ports = s.ports := rfl
@[simp] theorem raiseLtime_images (s : State) (c : Nat) (w : Word32) : (s.raiseLtime c w).images = s.images := rfl
@[simp] theorem raiseLtime_accts (s : State) (c : Nat) (w : Word32) : (s.raiseLtime c w).accts = s.accts := rfl
@[simp] theorem raiseLtime_saved (s : State) (c : Nat) (w : Word32) : (s.raiseLtime c w).saved = s.saved := rfl
@[simp] theorem raiseLtime_gangs (s : State) (c : Nat) (w : Word32) : (s.raiseLtime c w).gangs = s.gangs := rfl
@[simp] theorem raiseLtime_reqs (s : State) (c : Nat) (w : Word32) : (s.raiseLtime c w).reqs = s.reqs := rfl
@[simp] theorem raiseLtime_walks (s : State) (c : Nat) (w : Word32) : (s.raiseLtime c w).walks = s.walks := rfl
@[simp] theorem raiseLtime_tmsgs (s : State) (c : Nat) (w : Word32) : (s.raiseLtime c w).tmsgs = s.tmsgs := rfl
@[simp] theorem raiseLtime_tfills (s : State) (c : Nat) (w : Word32) : (s.raiseLtime c w).tfills = s.tfills := rfl
@[simp] theorem raiseLtime_crsubs (s : State) (c : Nat) (w : Word32) : (s.raiseLtime c w).crsubs = s.crsubs := rfl
@[simp] theorem raiseLtime_rops (s : State) (c : Nat) (w : Word32) : (s.raiseLtime c w).rops = s.rops := rfl
@[simp] theorem raiseLtime_fab (s : State) (c : Nat) (w : Word32) : (s.raiseLtime c w).fab = s.fab := rfl
@[simp] theorem raiseLtime_dev (s : State) (c : Nat) (w : Word32) : (s.raiseLtime c w).dev = s.dev := rfl
@[simp] theorem raiseLtime_out (s : State) (c : Nat) (w : Word32) : (s.raiseLtime c w).out = s.out := rfl
@[simp] theorem raiseLtime_answers (s : State) (c : Nat) (w : Word32) : (s.raiseLtime c w).answers = s.answers := rfl

@[simp] theorem takeEntry_cyc (s : State) (c id line : Nat) : (s.takeEntry c id line).cyc = s.cyc := rfl
@[simp] theorem takeEntry_stage (s : State) (c id line : Nat) : (s.takeEntry c id line).stage = s.stage := rfl
@[simp] theorem takeEntry_agenda (s : State) (c id line : Nat) : (s.takeEntry c id line).agenda = s.agenda := rfl
@[simp] theorem takeEntry_cur (s : State) (c id line : Nat) : (s.takeEntry c id line).cur = s.cur := rfl
@[simp] theorem takeEntry_rr (s : State) (c id line : Nat) : (s.takeEntry c id line).rr = s.rr := rfl
@[simp] theorem takeEntry_nextId (s : State) (c id line : Nat) : (s.takeEntry c id line).nextId = s.nextId := rfl
@[simp] theorem takeEntry_free (s : State) (c id line : Nat) : (s.takeEntry c id line).free = s.free := rfl
@[simp] theorem takeEntry_mem (s : State) (c id line : Nat) : (s.takeEntry c id line).mem = s.mem := rfl
@[simp] theorem takeEntry_memKey (s : State) (c id line : Nat) : (s.takeEntry c id line).memKey = s.memKey := rfl
@[simp] theorem takeEntry_poison (s : State) (c id line : Nat) : (s.takeEntry c id line).poison = s.poison := rfl
@[simp] theorem takeEntry_losses (s : State) (c id line : Nat) : (s.takeEntry c id line).losses = s.losses := rfl
@[simp] theorem takeEntry_dies (s : State) (c id line : Nat) : (s.takeEntry c id line).dies = s.dies := rfl
@[simp] theorem takeEntry_homes (s : State) (c id line : Nat) : (s.takeEntry c id line).homes = s.homes := rfl
@[simp] theorem takeEntry_drams (s : State) (c id line : Nat) : (s.takeEntry c id line).drams = s.drams := rfl
@[simp] theorem takeEntry_pavs (s : State) (c id line : Nat) : (s.takeEntry c id line).pavs = s.pavs := rfl
@[simp] theorem takeEntry_ports (s : State) (c id line : Nat) : (s.takeEntry c id line).ports = s.ports := rfl
@[simp] theorem takeEntry_images (s : State) (c id line : Nat) : (s.takeEntry c id line).images = s.images := rfl
@[simp] theorem takeEntry_accts (s : State) (c id line : Nat) : (s.takeEntry c id line).accts = s.accts := rfl
@[simp] theorem takeEntry_saved (s : State) (c id line : Nat) : (s.takeEntry c id line).saved = s.saved := rfl
@[simp] theorem takeEntry_gangs (s : State) (c id line : Nat) : (s.takeEntry c id line).gangs = s.gangs := rfl
@[simp] theorem takeEntry_reqs (s : State) (c id line : Nat) : (s.takeEntry c id line).reqs = s.reqs := rfl
@[simp] theorem takeEntry_walks (s : State) (c id line : Nat) : (s.takeEntry c id line).walks = s.walks := rfl
@[simp] theorem takeEntry_tmsgs (s : State) (c id line : Nat) : (s.takeEntry c id line).tmsgs = s.tmsgs := rfl
@[simp] theorem takeEntry_tfills (s : State) (c id line : Nat) : (s.takeEntry c id line).tfills = s.tfills := rfl
@[simp] theorem takeEntry_crsubs (s : State) (c id line : Nat) : (s.takeEntry c id line).crsubs = s.crsubs := rfl
@[simp] theorem takeEntry_rops (s : State) (c id line : Nat) : (s.takeEntry c id line).rops = s.rops := rfl
@[simp] theorem takeEntry_fab (s : State) (c id line : Nat) : (s.takeEntry c id line).fab = s.fab := rfl
@[simp] theorem takeEntry_dev (s : State) (c id line : Nat) : (s.takeEntry c id line).dev = s.dev := rfl
@[simp] theorem takeEntry_out (s : State) (c id line : Nat) : (s.takeEntry c id line).out = s.out := rfl
@[simp] theorem takeEntry_answers (s : State) (c id line : Nat) : (s.takeEntry c id line).answers = s.answers := rfl

@[simp] theorem freeLine_cyc (s : State) (c id line : Nat) : (s.freeLine c id line).cyc = s.cyc := rfl
@[simp] theorem freeLine_stage (s : State) (c id line : Nat) : (s.freeLine c id line).stage = s.stage := rfl
@[simp] theorem freeLine_agenda (s : State) (c id line : Nat) : (s.freeLine c id line).agenda = s.agenda := rfl
@[simp] theorem freeLine_cur (s : State) (c id line : Nat) : (s.freeLine c id line).cur = s.cur := rfl
@[simp] theorem freeLine_rr (s : State) (c id line : Nat) : (s.freeLine c id line).rr = s.rr := rfl
@[simp] theorem freeLine_nextId (s : State) (c id line : Nat) : (s.freeLine c id line).nextId = s.nextId := rfl
@[simp] theorem freeLine_free (s : State) (c id line : Nat) : (s.freeLine c id line).free = s.free := rfl
@[simp] theorem freeLine_mem (s : State) (c id line : Nat) : (s.freeLine c id line).mem = s.mem := rfl
@[simp] theorem freeLine_memKey (s : State) (c id line : Nat) : (s.freeLine c id line).memKey = s.memKey := rfl
@[simp] theorem freeLine_poison (s : State) (c id line : Nat) : (s.freeLine c id line).poison = s.poison := rfl
@[simp] theorem freeLine_losses (s : State) (c id line : Nat) : (s.freeLine c id line).losses = s.losses := rfl
@[simp] theorem freeLine_dies (s : State) (c id line : Nat) : (s.freeLine c id line).dies = s.dies := rfl
@[simp] theorem freeLine_homes (s : State) (c id line : Nat) : (s.freeLine c id line).homes = s.homes := rfl
@[simp] theorem freeLine_drams (s : State) (c id line : Nat) : (s.freeLine c id line).drams = s.drams := rfl
@[simp] theorem freeLine_pavs (s : State) (c id line : Nat) : (s.freeLine c id line).pavs = s.pavs := rfl
@[simp] theorem freeLine_ports (s : State) (c id line : Nat) : (s.freeLine c id line).ports = s.ports := rfl
@[simp] theorem freeLine_images (s : State) (c id line : Nat) : (s.freeLine c id line).images = s.images := rfl
@[simp] theorem freeLine_accts (s : State) (c id line : Nat) : (s.freeLine c id line).accts = s.accts := rfl
@[simp] theorem freeLine_saved (s : State) (c id line : Nat) : (s.freeLine c id line).saved = s.saved := rfl
@[simp] theorem freeLine_gangs (s : State) (c id line : Nat) : (s.freeLine c id line).gangs = s.gangs := rfl
@[simp] theorem freeLine_reqs (s : State) (c id line : Nat) : (s.freeLine c id line).reqs = s.reqs := rfl
@[simp] theorem freeLine_walks (s : State) (c id line : Nat) : (s.freeLine c id line).walks = s.walks := rfl
@[simp] theorem freeLine_tmsgs (s : State) (c id line : Nat) : (s.freeLine c id line).tmsgs = s.tmsgs := rfl
@[simp] theorem freeLine_tfills (s : State) (c id line : Nat) : (s.freeLine c id line).tfills = s.tfills := rfl
@[simp] theorem freeLine_crsubs (s : State) (c id line : Nat) : (s.freeLine c id line).crsubs = s.crsubs := rfl
@[simp] theorem freeLine_rops (s : State) (c id line : Nat) : (s.freeLine c id line).rops = s.rops := rfl
@[simp] theorem freeLine_fab (s : State) (c id line : Nat) : (s.freeLine c id line).fab = s.fab := rfl
@[simp] theorem freeLine_dev (s : State) (c id line : Nat) : (s.freeLine c id line).dev = s.dev := rfl
@[simp] theorem freeLine_out (s : State) (c id line : Nat) : (s.freeLine c id line).out = s.out := rfl
@[simp] theorem freeLine_answers (s : State) (c id line : Nat) : (s.freeLine c id line).answers = s.answers := rfl

@[simp] theorem freeEntry_cyc (s : State) (c id : Nat) : (s.freeEntry c id).cyc = s.cyc := rfl
@[simp] theorem freeEntry_stage (s : State) (c id : Nat) : (s.freeEntry c id).stage = s.stage := rfl
@[simp] theorem freeEntry_agenda (s : State) (c id : Nat) : (s.freeEntry c id).agenda = s.agenda := rfl
@[simp] theorem freeEntry_cur (s : State) (c id : Nat) : (s.freeEntry c id).cur = s.cur := rfl
@[simp] theorem freeEntry_rr (s : State) (c id : Nat) : (s.freeEntry c id).rr = s.rr := rfl
@[simp] theorem freeEntry_nextId (s : State) (c id : Nat) : (s.freeEntry c id).nextId = s.nextId := rfl
@[simp] theorem freeEntry_free (s : State) (c id : Nat) : (s.freeEntry c id).free = s.free := rfl
@[simp] theorem freeEntry_mem (s : State) (c id : Nat) : (s.freeEntry c id).mem = s.mem := rfl
@[simp] theorem freeEntry_memKey (s : State) (c id : Nat) : (s.freeEntry c id).memKey = s.memKey := rfl
@[simp] theorem freeEntry_poison (s : State) (c id : Nat) : (s.freeEntry c id).poison = s.poison := rfl
@[simp] theorem freeEntry_losses (s : State) (c id : Nat) : (s.freeEntry c id).losses = s.losses := rfl
@[simp] theorem freeEntry_dies (s : State) (c id : Nat) : (s.freeEntry c id).dies = s.dies := rfl
@[simp] theorem freeEntry_homes (s : State) (c id : Nat) : (s.freeEntry c id).homes = s.homes := rfl
@[simp] theorem freeEntry_drams (s : State) (c id : Nat) : (s.freeEntry c id).drams = s.drams := rfl
@[simp] theorem freeEntry_pavs (s : State) (c id : Nat) : (s.freeEntry c id).pavs = s.pavs := rfl
@[simp] theorem freeEntry_ports (s : State) (c id : Nat) : (s.freeEntry c id).ports = s.ports := rfl
@[simp] theorem freeEntry_images (s : State) (c id : Nat) : (s.freeEntry c id).images = s.images := rfl
@[simp] theorem freeEntry_accts (s : State) (c id : Nat) : (s.freeEntry c id).accts = s.accts := rfl
@[simp] theorem freeEntry_saved (s : State) (c id : Nat) : (s.freeEntry c id).saved = s.saved := rfl
@[simp] theorem freeEntry_gangs (s : State) (c id : Nat) : (s.freeEntry c id).gangs = s.gangs := rfl
@[simp] theorem freeEntry_reqs (s : State) (c id : Nat) : (s.freeEntry c id).reqs = s.reqs := rfl
@[simp] theorem freeEntry_walks (s : State) (c id : Nat) : (s.freeEntry c id).walks = s.walks := rfl
@[simp] theorem freeEntry_tmsgs (s : State) (c id : Nat) : (s.freeEntry c id).tmsgs = s.tmsgs := rfl
@[simp] theorem freeEntry_tfills (s : State) (c id : Nat) : (s.freeEntry c id).tfills = s.tfills := rfl
@[simp] theorem freeEntry_crsubs (s : State) (c id : Nat) : (s.freeEntry c id).crsubs = s.crsubs := rfl
@[simp] theorem freeEntry_rops (s : State) (c id : Nat) : (s.freeEntry c id).rops = s.rops := rfl
@[simp] theorem freeEntry_fab (s : State) (c id : Nat) : (s.freeEntry c id).fab = s.fab := rfl
@[simp] theorem freeEntry_dev (s : State) (c id : Nat) : (s.freeEntry c id).dev = s.dev := rfl
@[simp] theorem freeEntry_out (s : State) (c id : Nat) : (s.freeEntry c id).out = s.out := rfl
@[simp] theorem freeEntry_answers (s : State) (c id : Nat) : (s.freeEntry c id).answers = s.answers := rfl

@[simp] theorem submit_cyc (s : State) (x : CrSub) : (s.submit x).cyc = s.cyc := rfl
@[simp] theorem submit_stage (s : State) (x : CrSub) : (s.submit x).stage = s.stage := rfl
@[simp] theorem submit_agenda (s : State) (x : CrSub) : (s.submit x).agenda = s.agenda := rfl
@[simp] theorem submit_cur (s : State) (x : CrSub) : (s.submit x).cur = s.cur := rfl
@[simp] theorem submit_rr (s : State) (x : CrSub) : (s.submit x).rr = s.rr := rfl
@[simp] theorem submit_free (s : State) (x : CrSub) : (s.submit x).free = s.free := rfl
@[simp] theorem submit_mem (s : State) (x : CrSub) : (s.submit x).mem = s.mem := rfl
@[simp] theorem submit_memKey (s : State) (x : CrSub) : (s.submit x).memKey = s.memKey := rfl
@[simp] theorem submit_poison (s : State) (x : CrSub) : (s.submit x).poison = s.poison := rfl
@[simp] theorem submit_losses (s : State) (x : CrSub) : (s.submit x).losses = s.losses := rfl
@[simp] theorem submit_cores (s : State) (x : CrSub) : (s.submit x).cores = s.cores := rfl
@[simp] theorem submit_dies (s : State) (x : CrSub) : (s.submit x).dies = s.dies := rfl
@[simp] theorem submit_homes (s : State) (x : CrSub) : (s.submit x).homes = s.homes := rfl
@[simp] theorem submit_drams (s : State) (x : CrSub) : (s.submit x).drams = s.drams := rfl
@[simp] theorem submit_pavs (s : State) (x : CrSub) : (s.submit x).pavs = s.pavs := rfl
@[simp] theorem submit_ports (s : State) (x : CrSub) : (s.submit x).ports = s.ports := rfl
@[simp] theorem submit_images (s : State) (x : CrSub) : (s.submit x).images = s.images := rfl
@[simp] theorem submit_accts (s : State) (x : CrSub) : (s.submit x).accts = s.accts := rfl
@[simp] theorem submit_saved (s : State) (x : CrSub) : (s.submit x).saved = s.saved := rfl
@[simp] theorem submit_gangs (s : State) (x : CrSub) : (s.submit x).gangs = s.gangs := rfl
@[simp] theorem submit_reqs (s : State) (x : CrSub) : (s.submit x).reqs = s.reqs := rfl
@[simp] theorem submit_walks (s : State) (x : CrSub) : (s.submit x).walks = s.walks := rfl
@[simp] theorem submit_tmsgs (s : State) (x : CrSub) : (s.submit x).tmsgs = s.tmsgs := rfl
@[simp] theorem submit_tfills (s : State) (x : CrSub) : (s.submit x).tfills = s.tfills := rfl
@[simp] theorem submit_rops (s : State) (x : CrSub) : (s.submit x).rops = s.rops := rfl
@[simp] theorem submit_fab (s : State) (x : CrSub) : (s.submit x).fab = s.fab := rfl
@[simp] theorem submit_dev (s : State) (x : CrSub) : (s.submit x).dev = s.dev := rfl
@[simp] theorem submit_out (s : State) (x : CrSub) : (s.submit x).out = s.out := rfl
@[simp] theorem submit_answers (s : State) (x : CrSub) : (s.submit x).answers = s.answers := rfl

@[simp] theorem stopStreams_cyc (s : State) (c l : Nat) : (s.stopStreams c l).cyc = s.cyc := rfl
@[simp] theorem stopStreams_stage (s : State) (c l : Nat) : (s.stopStreams c l).stage = s.stage := rfl
@[simp] theorem stopStreams_agenda (s : State) (c l : Nat) : (s.stopStreams c l).agenda = s.agenda := rfl
@[simp] theorem stopStreams_cur (s : State) (c l : Nat) : (s.stopStreams c l).cur = s.cur := rfl
@[simp] theorem stopStreams_rr (s : State) (c l : Nat) : (s.stopStreams c l).rr = s.rr := rfl
@[simp] theorem stopStreams_nextId (s : State) (c l : Nat) : (s.stopStreams c l).nextId = s.nextId := rfl
@[simp] theorem stopStreams_free (s : State) (c l : Nat) : (s.stopStreams c l).free = s.free := rfl
@[simp] theorem stopStreams_mem (s : State) (c l : Nat) : (s.stopStreams c l).mem = s.mem := rfl
@[simp] theorem stopStreams_memKey (s : State) (c l : Nat) : (s.stopStreams c l).memKey = s.memKey := rfl
@[simp] theorem stopStreams_poison (s : State) (c l : Nat) : (s.stopStreams c l).poison = s.poison := rfl
@[simp] theorem stopStreams_losses (s : State) (c l : Nat) : (s.stopStreams c l).losses = s.losses := rfl
@[simp] theorem stopStreams_dies (s : State) (c l : Nat) : (s.stopStreams c l).dies = s.dies := rfl
@[simp] theorem stopStreams_homes (s : State) (c l : Nat) : (s.stopStreams c l).homes = s.homes := rfl
@[simp] theorem stopStreams_drams (s : State) (c l : Nat) : (s.stopStreams c l).drams = s.drams := rfl
@[simp] theorem stopStreams_pavs (s : State) (c l : Nat) : (s.stopStreams c l).pavs = s.pavs := rfl
@[simp] theorem stopStreams_ports (s : State) (c l : Nat) : (s.stopStreams c l).ports = s.ports := rfl
@[simp] theorem stopStreams_images (s : State) (c l : Nat) : (s.stopStreams c l).images = s.images := rfl
@[simp] theorem stopStreams_accts (s : State) (c l : Nat) : (s.stopStreams c l).accts = s.accts := rfl
@[simp] theorem stopStreams_saved (s : State) (c l : Nat) : (s.stopStreams c l).saved = s.saved := rfl
@[simp] theorem stopStreams_gangs (s : State) (c l : Nat) : (s.stopStreams c l).gangs = s.gangs := rfl
@[simp] theorem stopStreams_reqs (s : State) (c l : Nat) : (s.stopStreams c l).reqs = s.reqs := rfl
@[simp] theorem stopStreams_walks (s : State) (c l : Nat) : (s.stopStreams c l).walks = s.walks := rfl
@[simp] theorem stopStreams_tmsgs (s : State) (c l : Nat) : (s.stopStreams c l).tmsgs = s.tmsgs := rfl
@[simp] theorem stopStreams_tfills (s : State) (c l : Nat) : (s.stopStreams c l).tfills = s.tfills := rfl
@[simp] theorem stopStreams_crsubs (s : State) (c l : Nat) : (s.stopStreams c l).crsubs = s.crsubs := rfl
@[simp] theorem stopStreams_rops (s : State) (c l : Nat) : (s.stopStreams c l).rops = s.rops := rfl
@[simp] theorem stopStreams_fab (s : State) (c l : Nat) : (s.stopStreams c l).fab = s.fab := rfl
@[simp] theorem stopStreams_dev (s : State) (c l : Nat) : (s.stopStreams c l).dev = s.dev := rfl
@[simp] theorem stopStreams_out (s : State) (c l : Nat) : (s.stopStreams c l).out = s.out := rfl
@[simp] theorem stopStreams_answers (s : State) (c l : Nat) : (s.stopStreams c l).answers = s.answers := rfl

@[simp] theorem modBank_cyc (s : State) (c p : Nat) (f : Bank → Bank) : (s.modBank c p f).cyc = s.cyc := rfl
@[simp] theorem modBank_stage (s : State) (c p : Nat) (f : Bank → Bank) : (s.modBank c p f).stage = s.stage := rfl
@[simp] theorem modBank_agenda (s : State) (c p : Nat) (f : Bank → Bank) : (s.modBank c p f).agenda = s.agenda := rfl
@[simp] theorem modBank_cur (s : State) (c p : Nat) (f : Bank → Bank) : (s.modBank c p f).cur = s.cur := rfl
@[simp] theorem modBank_rr (s : State) (c p : Nat) (f : Bank → Bank) : (s.modBank c p f).rr = s.rr := rfl
@[simp] theorem modBank_nextId (s : State) (c p : Nat) (f : Bank → Bank) : (s.modBank c p f).nextId = s.nextId := rfl
@[simp] theorem modBank_free (s : State) (c p : Nat) (f : Bank → Bank) : (s.modBank c p f).free = s.free := rfl
@[simp] theorem modBank_mem (s : State) (c p : Nat) (f : Bank → Bank) : (s.modBank c p f).mem = s.mem := rfl
@[simp] theorem modBank_memKey (s : State) (c p : Nat) (f : Bank → Bank) : (s.modBank c p f).memKey = s.memKey := rfl
@[simp] theorem modBank_poison (s : State) (c p : Nat) (f : Bank → Bank) : (s.modBank c p f).poison = s.poison := rfl
@[simp] theorem modBank_losses (s : State) (c p : Nat) (f : Bank → Bank) : (s.modBank c p f).losses = s.losses := rfl
@[simp] theorem modBank_dies (s : State) (c p : Nat) (f : Bank → Bank) : (s.modBank c p f).dies = s.dies := rfl
@[simp] theorem modBank_homes (s : State) (c p : Nat) (f : Bank → Bank) : (s.modBank c p f).homes = s.homes := rfl
@[simp] theorem modBank_drams (s : State) (c p : Nat) (f : Bank → Bank) : (s.modBank c p f).drams = s.drams := rfl
@[simp] theorem modBank_pavs (s : State) (c p : Nat) (f : Bank → Bank) : (s.modBank c p f).pavs = s.pavs := rfl
@[simp] theorem modBank_ports (s : State) (c p : Nat) (f : Bank → Bank) : (s.modBank c p f).ports = s.ports := rfl
@[simp] theorem modBank_images (s : State) (c p : Nat) (f : Bank → Bank) : (s.modBank c p f).images = s.images := rfl
@[simp] theorem modBank_accts (s : State) (c p : Nat) (f : Bank → Bank) : (s.modBank c p f).accts = s.accts := rfl
@[simp] theorem modBank_saved (s : State) (c p : Nat) (f : Bank → Bank) : (s.modBank c p f).saved = s.saved := rfl
@[simp] theorem modBank_gangs (s : State) (c p : Nat) (f : Bank → Bank) : (s.modBank c p f).gangs = s.gangs := rfl
@[simp] theorem modBank_reqs (s : State) (c p : Nat) (f : Bank → Bank) : (s.modBank c p f).reqs = s.reqs := rfl
@[simp] theorem modBank_walks (s : State) (c p : Nat) (f : Bank → Bank) : (s.modBank c p f).walks = s.walks := rfl
@[simp] theorem modBank_tmsgs (s : State) (c p : Nat) (f : Bank → Bank) : (s.modBank c p f).tmsgs = s.tmsgs := rfl
@[simp] theorem modBank_tfills (s : State) (c p : Nat) (f : Bank → Bank) : (s.modBank c p f).tfills = s.tfills := rfl
@[simp] theorem modBank_crsubs (s : State) (c p : Nat) (f : Bank → Bank) : (s.modBank c p f).crsubs = s.crsubs := rfl
@[simp] theorem modBank_rops (s : State) (c p : Nat) (f : Bank → Bank) : (s.modBank c p f).rops = s.rops := rfl
@[simp] theorem modBank_fab (s : State) (c p : Nat) (f : Bank → Bank) : (s.modBank c p f).fab = s.fab := rfl
@[simp] theorem modBank_dev (s : State) (c p : Nat) (f : Bank → Bank) : (s.modBank c p f).dev = s.dev := rfl
@[simp] theorem modBank_out (s : State) (c p : Nat) (f : Bank → Bank) : (s.modBank c p f).out = s.out := rfl
@[simp] theorem modBank_answers (s : State) (c p : Nat) (f : Bank → Bank) : (s.modBank c p f).answers = s.answers := rfl

@[simp] theorem modTask_cyc (s : State) (c l : Nat) (f : Task → Task) : (s.modTask c l f).cyc = s.cyc := by
  unfold State.modTask; split <;> rfl
@[simp] theorem modTask_stage (s : State) (c l : Nat) (f : Task → Task) : (s.modTask c l f).stage = s.stage := by
  unfold State.modTask; split <;> rfl
@[simp] theorem modTask_agenda (s : State) (c l : Nat) (f : Task → Task) : (s.modTask c l f).agenda = s.agenda := by
  unfold State.modTask; split <;> rfl
@[simp] theorem modTask_cur (s : State) (c l : Nat) (f : Task → Task) : (s.modTask c l f).cur = s.cur := by
  unfold State.modTask; split <;> rfl
@[simp] theorem modTask_rr (s : State) (c l : Nat) (f : Task → Task) : (s.modTask c l f).rr = s.rr := by
  unfold State.modTask; split <;> rfl
@[simp] theorem modTask_nextId (s : State) (c l : Nat) (f : Task → Task) : (s.modTask c l f).nextId = s.nextId := by
  unfold State.modTask; split <;> rfl
@[simp] theorem modTask_free (s : State) (c l : Nat) (f : Task → Task) : (s.modTask c l f).free = s.free := by
  unfold State.modTask; split <;> rfl
@[simp] theorem modTask_mem (s : State) (c l : Nat) (f : Task → Task) : (s.modTask c l f).mem = s.mem := by
  unfold State.modTask; split <;> rfl
@[simp] theorem modTask_memKey (s : State) (c l : Nat) (f : Task → Task) : (s.modTask c l f).memKey = s.memKey := by
  unfold State.modTask; split <;> rfl
@[simp] theorem modTask_poison (s : State) (c l : Nat) (f : Task → Task) : (s.modTask c l f).poison = s.poison := by
  unfold State.modTask; split <;> rfl
@[simp] theorem modTask_losses (s : State) (c l : Nat) (f : Task → Task) : (s.modTask c l f).losses = s.losses := by
  unfold State.modTask; split <;> rfl
@[simp] theorem modTask_dies (s : State) (c l : Nat) (f : Task → Task) : (s.modTask c l f).dies = s.dies := by
  unfold State.modTask; split <;> rfl
@[simp] theorem modTask_homes (s : State) (c l : Nat) (f : Task → Task) : (s.modTask c l f).homes = s.homes := by
  unfold State.modTask; split <;> rfl
@[simp] theorem modTask_drams (s : State) (c l : Nat) (f : Task → Task) : (s.modTask c l f).drams = s.drams := by
  unfold State.modTask; split <;> rfl
@[simp] theorem modTask_pavs (s : State) (c l : Nat) (f : Task → Task) : (s.modTask c l f).pavs = s.pavs := by
  unfold State.modTask; split <;> rfl
@[simp] theorem modTask_ports (s : State) (c l : Nat) (f : Task → Task) : (s.modTask c l f).ports = s.ports := by
  unfold State.modTask; split <;> rfl
@[simp] theorem modTask_images (s : State) (c l : Nat) (f : Task → Task) : (s.modTask c l f).images = s.images := by
  unfold State.modTask; split <;> rfl
@[simp] theorem modTask_accts (s : State) (c l : Nat) (f : Task → Task) : (s.modTask c l f).accts = s.accts := by
  unfold State.modTask; split <;> rfl
@[simp] theorem modTask_saved (s : State) (c l : Nat) (f : Task → Task) : (s.modTask c l f).saved = s.saved := by
  unfold State.modTask; split <;> rfl
@[simp] theorem modTask_gangs (s : State) (c l : Nat) (f : Task → Task) : (s.modTask c l f).gangs = s.gangs := by
  unfold State.modTask; split <;> rfl
@[simp] theorem modTask_reqs (s : State) (c l : Nat) (f : Task → Task) : (s.modTask c l f).reqs = s.reqs := by
  unfold State.modTask; split <;> rfl
@[simp] theorem modTask_walks (s : State) (c l : Nat) (f : Task → Task) : (s.modTask c l f).walks = s.walks := by
  unfold State.modTask; split <;> rfl
@[simp] theorem modTask_tmsgs (s : State) (c l : Nat) (f : Task → Task) : (s.modTask c l f).tmsgs = s.tmsgs := by
  unfold State.modTask; split <;> rfl
@[simp] theorem modTask_tfills (s : State) (c l : Nat) (f : Task → Task) : (s.modTask c l f).tfills = s.tfills := by
  unfold State.modTask; split <;> rfl
@[simp] theorem modTask_crsubs (s : State) (c l : Nat) (f : Task → Task) : (s.modTask c l f).crsubs = s.crsubs := by
  unfold State.modTask; split <;> rfl
@[simp] theorem modTask_rops (s : State) (c l : Nat) (f : Task → Task) : (s.modTask c l f).rops = s.rops := by
  unfold State.modTask; split <;> rfl
@[simp] theorem modTask_fab (s : State) (c l : Nat) (f : Task → Task) : (s.modTask c l f).fab = s.fab := by
  unfold State.modTask; split <;> rfl
@[simp] theorem modTask_dev (s : State) (c l : Nat) (f : Task → Task) : (s.modTask c l f).dev = s.dev := by
  unfold State.modTask; split <;> rfl
@[simp] theorem modTask_out (s : State) (c l : Nat) (f : Task → Task) : (s.modTask c l f).out = s.out := by
  unfold State.modTask; split <;> rfl
@[simp] theorem modTask_answers (s : State) (c l : Nat) (f : Task → Task) : (s.modTask c l f).answers = s.answers := by
  unfold State.modTask; split <;> rfl

@[simp] theorem modPav_cyc (s : State) (p : Nat) (f : Pav → Pav) : (s.modPav p f).cyc = s.cyc := by
  unfold State.modPav; split <;> rfl
@[simp] theorem modPav_stage (s : State) (p : Nat) (f : Pav → Pav) : (s.modPav p f).stage = s.stage := by
  unfold State.modPav; split <;> rfl
@[simp] theorem modPav_agenda (s : State) (p : Nat) (f : Pav → Pav) : (s.modPav p f).agenda = s.agenda := by
  unfold State.modPav; split <;> rfl
@[simp] theorem modPav_cur (s : State) (p : Nat) (f : Pav → Pav) : (s.modPav p f).cur = s.cur := by
  unfold State.modPav; split <;> rfl
@[simp] theorem modPav_rr (s : State) (p : Nat) (f : Pav → Pav) : (s.modPav p f).rr = s.rr := by
  unfold State.modPav; split <;> rfl
@[simp] theorem modPav_nextId (s : State) (p : Nat) (f : Pav → Pav) : (s.modPav p f).nextId = s.nextId := by
  unfold State.modPav; split <;> rfl
@[simp] theorem modPav_free (s : State) (p : Nat) (f : Pav → Pav) : (s.modPav p f).free = s.free := by
  unfold State.modPav; split <;> rfl
@[simp] theorem modPav_mem (s : State) (p : Nat) (f : Pav → Pav) : (s.modPav p f).mem = s.mem := by
  unfold State.modPav; split <;> rfl
@[simp] theorem modPav_memKey (s : State) (p : Nat) (f : Pav → Pav) : (s.modPav p f).memKey = s.memKey := by
  unfold State.modPav; split <;> rfl
@[simp] theorem modPav_poison (s : State) (p : Nat) (f : Pav → Pav) : (s.modPav p f).poison = s.poison := by
  unfold State.modPav; split <;> rfl
@[simp] theorem modPav_losses (s : State) (p : Nat) (f : Pav → Pav) : (s.modPav p f).losses = s.losses := by
  unfold State.modPav; split <;> rfl
@[simp] theorem modPav_cores (s : State) (p : Nat) (f : Pav → Pav) : (s.modPav p f).cores = s.cores := by
  unfold State.modPav; split <;> rfl
@[simp] theorem modPav_dies (s : State) (p : Nat) (f : Pav → Pav) : (s.modPav p f).dies = s.dies := by
  unfold State.modPav; split <;> rfl
@[simp] theorem modPav_homes (s : State) (p : Nat) (f : Pav → Pav) : (s.modPav p f).homes = s.homes := by
  unfold State.modPav; split <;> rfl
@[simp] theorem modPav_drams (s : State) (p : Nat) (f : Pav → Pav) : (s.modPav p f).drams = s.drams := by
  unfold State.modPav; split <;> rfl
@[simp] theorem modPav_ports (s : State) (p : Nat) (f : Pav → Pav) : (s.modPav p f).ports = s.ports := by
  unfold State.modPav; split <;> rfl
@[simp] theorem modPav_images (s : State) (p : Nat) (f : Pav → Pav) : (s.modPav p f).images = s.images := by
  unfold State.modPav; split <;> rfl
@[simp] theorem modPav_accts (s : State) (p : Nat) (f : Pav → Pav) : (s.modPav p f).accts = s.accts := by
  unfold State.modPav; split <;> rfl
@[simp] theorem modPav_saved (s : State) (p : Nat) (f : Pav → Pav) : (s.modPav p f).saved = s.saved := by
  unfold State.modPav; split <;> rfl
@[simp] theorem modPav_gangs (s : State) (p : Nat) (f : Pav → Pav) : (s.modPav p f).gangs = s.gangs := by
  unfold State.modPav; split <;> rfl
@[simp] theorem modPav_reqs (s : State) (p : Nat) (f : Pav → Pav) : (s.modPav p f).reqs = s.reqs := by
  unfold State.modPav; split <;> rfl
@[simp] theorem modPav_walks (s : State) (p : Nat) (f : Pav → Pav) : (s.modPav p f).walks = s.walks := by
  unfold State.modPav; split <;> rfl
@[simp] theorem modPav_tmsgs (s : State) (p : Nat) (f : Pav → Pav) : (s.modPav p f).tmsgs = s.tmsgs := by
  unfold State.modPav; split <;> rfl
@[simp] theorem modPav_tfills (s : State) (p : Nat) (f : Pav → Pav) : (s.modPav p f).tfills = s.tfills := by
  unfold State.modPav; split <;> rfl
@[simp] theorem modPav_crsubs (s : State) (p : Nat) (f : Pav → Pav) : (s.modPav p f).crsubs = s.crsubs := by
  unfold State.modPav; split <;> rfl
@[simp] theorem modPav_rops (s : State) (p : Nat) (f : Pav → Pav) : (s.modPav p f).rops = s.rops := by
  unfold State.modPav; split <;> rfl
@[simp] theorem modPav_fab (s : State) (p : Nat) (f : Pav → Pav) : (s.modPav p f).fab = s.fab := by
  unfold State.modPav; split <;> rfl
@[simp] theorem modPav_dev (s : State) (p : Nat) (f : Pav → Pav) : (s.modPav p f).dev = s.dev := by
  unfold State.modPav; split <;> rfl
@[simp] theorem modPav_out (s : State) (p : Nat) (f : Pav → Pav) : (s.modPav p f).out = s.out := by
  unfold State.modPav; split <;> rfl
@[simp] theorem modPav_answers (s : State) (p : Nat) (f : Pav → Pav) : (s.modPav p f).answers = s.answers := by
  unfold State.modPav; split <;> rfl

@[simp] theorem charge_cyc (s : State) (a n : Nat) : (s.charge a n).cyc = s.cyc := by
  unfold State.charge; split <;> rfl
@[simp] theorem charge_stage (s : State) (a n : Nat) : (s.charge a n).stage = s.stage := by
  unfold State.charge; split <;> rfl
@[simp] theorem charge_agenda (s : State) (a n : Nat) : (s.charge a n).agenda = s.agenda := by
  unfold State.charge; split <;> rfl
@[simp] theorem charge_cur (s : State) (a n : Nat) : (s.charge a n).cur = s.cur := by
  unfold State.charge; split <;> rfl
@[simp] theorem charge_rr (s : State) (a n : Nat) : (s.charge a n).rr = s.rr := by
  unfold State.charge; split <;> rfl
@[simp] theorem charge_nextId (s : State) (a n : Nat) : (s.charge a n).nextId = s.nextId := by
  unfold State.charge; split <;> rfl
@[simp] theorem charge_free (s : State) (a n : Nat) : (s.charge a n).free = s.free := by
  unfold State.charge; split <;> rfl
@[simp] theorem charge_mem (s : State) (a n : Nat) : (s.charge a n).mem = s.mem := by
  unfold State.charge; split <;> rfl
@[simp] theorem charge_memKey (s : State) (a n : Nat) : (s.charge a n).memKey = s.memKey := by
  unfold State.charge; split <;> rfl
@[simp] theorem charge_poison (s : State) (a n : Nat) : (s.charge a n).poison = s.poison := by
  unfold State.charge; split <;> rfl
@[simp] theorem charge_losses (s : State) (a n : Nat) : (s.charge a n).losses = s.losses := by
  unfold State.charge; split <;> rfl
@[simp] theorem charge_cores (s : State) (a n : Nat) : (s.charge a n).cores = s.cores := by
  unfold State.charge; split <;> rfl
@[simp] theorem charge_dies (s : State) (a n : Nat) : (s.charge a n).dies = s.dies := by
  unfold State.charge; split <;> rfl
@[simp] theorem charge_homes (s : State) (a n : Nat) : (s.charge a n).homes = s.homes := by
  unfold State.charge; split <;> rfl
@[simp] theorem charge_drams (s : State) (a n : Nat) : (s.charge a n).drams = s.drams := by
  unfold State.charge; split <;> rfl
@[simp] theorem charge_pavs (s : State) (a n : Nat) : (s.charge a n).pavs = s.pavs := by
  unfold State.charge; split <;> rfl
@[simp] theorem charge_ports (s : State) (a n : Nat) : (s.charge a n).ports = s.ports := by
  unfold State.charge; split <;> rfl
@[simp] theorem charge_images (s : State) (a n : Nat) : (s.charge a n).images = s.images := by
  unfold State.charge; split <;> rfl
@[simp] theorem charge_saved (s : State) (a n : Nat) : (s.charge a n).saved = s.saved := by
  unfold State.charge; split <;> rfl
@[simp] theorem charge_gangs (s : State) (a n : Nat) : (s.charge a n).gangs = s.gangs := by
  unfold State.charge; split <;> rfl
@[simp] theorem charge_reqs (s : State) (a n : Nat) : (s.charge a n).reqs = s.reqs := by
  unfold State.charge; split <;> rfl
@[simp] theorem charge_walks (s : State) (a n : Nat) : (s.charge a n).walks = s.walks := by
  unfold State.charge; split <;> rfl
@[simp] theorem charge_tmsgs (s : State) (a n : Nat) : (s.charge a n).tmsgs = s.tmsgs := by
  unfold State.charge; split <;> rfl
@[simp] theorem charge_tfills (s : State) (a n : Nat) : (s.charge a n).tfills = s.tfills := by
  unfold State.charge; split <;> rfl
@[simp] theorem charge_crsubs (s : State) (a n : Nat) : (s.charge a n).crsubs = s.crsubs := by
  unfold State.charge; split <;> rfl
@[simp] theorem charge_rops (s : State) (a n : Nat) : (s.charge a n).rops = s.rops := by
  unfold State.charge; split <;> rfl
@[simp] theorem charge_fab (s : State) (a n : Nat) : (s.charge a n).fab = s.fab := by
  unfold State.charge; split <;> rfl
@[simp] theorem charge_dev (s : State) (a n : Nat) : (s.charge a n).dev = s.dev := by
  unfold State.charge; split <;> rfl
@[simp] theorem charge_out (s : State) (a n : Nat) : (s.charge a n).out = s.out := by
  unfold State.charge; split <;> rfl
@[simp] theorem charge_answers (s : State) (a n : Nat) : (s.charge a n).answers = s.answers := by
  unfold State.charge; split <;> rfl

@[simp] theorem sendHeld_cyc (s : State) (r : Req) : (s.sendHeld r).cyc = s.cyc := by
  unfold State.sendHeld; dsimp only; split
  · rfl
  · split <;> rfl
@[simp] theorem sendHeld_stage (s : State) (r : Req) : (s.sendHeld r).stage = s.stage := by
  unfold State.sendHeld; dsimp only; split
  · rfl
  · split <;> rfl
@[simp] theorem sendHeld_agenda (s : State) (r : Req) : (s.sendHeld r).agenda = s.agenda := by
  unfold State.sendHeld; dsimp only; split
  · rfl
  · split <;> rfl
@[simp] theorem sendHeld_cur (s : State) (r : Req) : (s.sendHeld r).cur = s.cur := by
  unfold State.sendHeld; dsimp only; split
  · rfl
  · split <;> rfl
@[simp] theorem sendHeld_rr (s : State) (r : Req) : (s.sendHeld r).rr = s.rr := by
  unfold State.sendHeld; dsimp only; split
  · rfl
  · split <;> rfl
@[simp] theorem sendHeld_nextId (s : State) (r : Req) : (s.sendHeld r).nextId = s.nextId := by
  unfold State.sendHeld; dsimp only; split
  · rfl
  · split <;> rfl
@[simp] theorem sendHeld_mem (s : State) (r : Req) : (s.sendHeld r).mem = s.mem := by
  unfold State.sendHeld; dsimp only; split
  · rfl
  · split <;> rfl
@[simp] theorem sendHeld_memKey (s : State) (r : Req) : (s.sendHeld r).memKey = s.memKey := by
  unfold State.sendHeld; dsimp only; split
  · rfl
  · split <;> rfl
@[simp] theorem sendHeld_poison (s : State) (r : Req) : (s.sendHeld r).poison = s.poison := by
  unfold State.sendHeld; dsimp only; split
  · rfl
  · split <;> rfl
@[simp] theorem sendHeld_losses (s : State) (r : Req) : (s.sendHeld r).losses = s.losses := by
  unfold State.sendHeld; dsimp only; split
  · rfl
  · split <;> rfl
@[simp] theorem sendHeld_cores (s : State) (r : Req) : (s.sendHeld r).cores = s.cores := by
  unfold State.sendHeld; dsimp only; split
  · rfl
  · split <;> rfl
@[simp] theorem sendHeld_dies (s : State) (r : Req) : (s.sendHeld r).dies = s.dies := by
  unfold State.sendHeld; dsimp only; split
  · rfl
  · split <;> rfl
@[simp] theorem sendHeld_homes (s : State) (r : Req) : (s.sendHeld r).homes = s.homes := by
  unfold State.sendHeld; dsimp only; split
  · rfl
  · split <;> rfl
@[simp] theorem sendHeld_pavs (s : State) (r : Req) : (s.sendHeld r).pavs = s.pavs := by
  unfold State.sendHeld; dsimp only; split
  · rfl
  · split <;> rfl
@[simp] theorem sendHeld_ports (s : State) (r : Req) : (s.sendHeld r).ports = s.ports := by
  unfold State.sendHeld; dsimp only; split
  · rfl
  · split <;> rfl
@[simp] theorem sendHeld_images (s : State) (r : Req) : (s.sendHeld r).images = s.images := by
  unfold State.sendHeld; dsimp only; split
  · rfl
  · split <;> rfl
@[simp] theorem sendHeld_accts (s : State) (r : Req) : (s.sendHeld r).accts = s.accts := by
  unfold State.sendHeld; dsimp only; split
  · rfl
  · split <;> rfl
@[simp] theorem sendHeld_saved (s : State) (r : Req) : (s.sendHeld r).saved = s.saved := by
  unfold State.sendHeld; dsimp only; split
  · rfl
  · split <;> rfl
@[simp] theorem sendHeld_gangs (s : State) (r : Req) : (s.sendHeld r).gangs = s.gangs := by
  unfold State.sendHeld; dsimp only; split
  · rfl
  · split <;> rfl
@[simp] theorem sendHeld_walks (s : State) (r : Req) : (s.sendHeld r).walks = s.walks := by
  unfold State.sendHeld; dsimp only; split
  · rfl
  · split <;> rfl
@[simp] theorem sendHeld_tmsgs (s : State) (r : Req) : (s.sendHeld r).tmsgs = s.tmsgs := by
  unfold State.sendHeld; dsimp only; split
  · rfl
  · split <;> rfl
@[simp] theorem sendHeld_tfills (s : State) (r : Req) : (s.sendHeld r).tfills = s.tfills := by
  unfold State.sendHeld; dsimp only; split
  · rfl
  · split <;> rfl
@[simp] theorem sendHeld_crsubs (s : State) (r : Req) : (s.sendHeld r).crsubs = s.crsubs := by
  unfold State.sendHeld; dsimp only; split
  · rfl
  · split <;> rfl
@[simp] theorem sendHeld_rops (s : State) (r : Req) : (s.sendHeld r).rops = s.rops := by
  unfold State.sendHeld; dsimp only; split
  · rfl
  · split <;> rfl
@[simp] theorem sendHeld_dev (s : State) (r : Req) : (s.sendHeld r).dev = s.dev := by
  unfold State.sendHeld; dsimp only; split
  · rfl
  · split <;> rfl
@[simp] theorem sendHeld_out (s : State) (r : Req) : (s.sendHeld r).out = s.out := by
  unfold State.sendHeld; dsimp only; split
  · rfl
  · split <;> rfl
@[simp] theorem sendHeld_answers (s : State) (r : Req) : (s.sendHeld r).answers = s.answers := by
  unfold State.sendHeld; dsimp only; split
  · rfl
  · split <;> rfl

@[simp] theorem dropReq_cyc (s : State) (id : Nat) : (s.dropReq id).cyc = s.cyc := by
  unfold State.dropReq; split
  · rfl
  · dsimp only; split <;> exact sendHeld_cyc ..
@[simp] theorem dropReq_stage (s : State) (id : Nat) : (s.dropReq id).stage = s.stage := by
  unfold State.dropReq; split
  · rfl
  · dsimp only; split <;> exact sendHeld_stage ..
@[simp] theorem dropReq_agenda (s : State) (id : Nat) : (s.dropReq id).agenda = s.agenda := by
  unfold State.dropReq; split
  · rfl
  · dsimp only; split <;> exact sendHeld_agenda ..
@[simp] theorem dropReq_cur (s : State) (id : Nat) : (s.dropReq id).cur = s.cur := by
  unfold State.dropReq; split
  · rfl
  · dsimp only; split <;> exact sendHeld_cur ..
@[simp] theorem dropReq_rr (s : State) (id : Nat) : (s.dropReq id).rr = s.rr := by
  unfold State.dropReq; split
  · rfl
  · dsimp only; split <;> exact sendHeld_rr ..
@[simp] theorem dropReq_nextId (s : State) (id : Nat) : (s.dropReq id).nextId = s.nextId := by
  unfold State.dropReq; split
  · rfl
  · dsimp only; split <;> exact sendHeld_nextId ..
@[simp] theorem dropReq_mem (s : State) (id : Nat) : (s.dropReq id).mem = s.mem := by
  unfold State.dropReq; split
  · rfl
  · dsimp only; split <;> exact sendHeld_mem ..
@[simp] theorem dropReq_memKey (s : State) (id : Nat) : (s.dropReq id).memKey = s.memKey := by
  unfold State.dropReq; split
  · rfl
  · dsimp only; split <;> exact sendHeld_memKey ..
@[simp] theorem dropReq_poison (s : State) (id : Nat) : (s.dropReq id).poison = s.poison := by
  unfold State.dropReq; split
  · rfl
  · dsimp only; split <;> exact sendHeld_poison ..
@[simp] theorem dropReq_losses (s : State) (id : Nat) : (s.dropReq id).losses = s.losses := by
  unfold State.dropReq; split
  · rfl
  · dsimp only; split <;> exact sendHeld_losses ..
@[simp] theorem dropReq_dies (s : State) (id : Nat) : (s.dropReq id).dies = s.dies := by
  unfold State.dropReq; split
  · rfl
  · dsimp only; split <;> exact sendHeld_dies ..
@[simp] theorem dropReq_homes (s : State) (id : Nat) : (s.dropReq id).homes = s.homes := by
  unfold State.dropReq; split
  · rfl
  · dsimp only; split <;> exact sendHeld_homes ..
@[simp] theorem dropReq_pavs (s : State) (id : Nat) : (s.dropReq id).pavs = s.pavs := by
  unfold State.dropReq; split
  · rfl
  · dsimp only; split <;> exact sendHeld_pavs ..
@[simp] theorem dropReq_ports (s : State) (id : Nat) : (s.dropReq id).ports = s.ports := by
  unfold State.dropReq; split
  · rfl
  · dsimp only; split <;> exact sendHeld_ports ..
@[simp] theorem dropReq_images (s : State) (id : Nat) : (s.dropReq id).images = s.images := by
  unfold State.dropReq; split
  · rfl
  · dsimp only; split <;> exact sendHeld_images ..
@[simp] theorem dropReq_accts (s : State) (id : Nat) : (s.dropReq id).accts = s.accts := by
  unfold State.dropReq; split
  · rfl
  · dsimp only; split <;> exact sendHeld_accts ..
@[simp] theorem dropReq_saved (s : State) (id : Nat) : (s.dropReq id).saved = s.saved := by
  unfold State.dropReq; split
  · rfl
  · dsimp only; split <;> exact sendHeld_saved ..
@[simp] theorem dropReq_gangs (s : State) (id : Nat) : (s.dropReq id).gangs = s.gangs := by
  unfold State.dropReq; split
  · rfl
  · dsimp only; split <;> exact sendHeld_gangs ..
@[simp] theorem dropReq_walks (s : State) (id : Nat) : (s.dropReq id).walks = s.walks := by
  unfold State.dropReq; split
  · rfl
  · dsimp only; split <;> exact sendHeld_walks ..
@[simp] theorem dropReq_tmsgs (s : State) (id : Nat) : (s.dropReq id).tmsgs = s.tmsgs := by
  unfold State.dropReq; split
  · rfl
  · dsimp only; split <;> exact sendHeld_tmsgs ..
@[simp] theorem dropReq_tfills (s : State) (id : Nat) : (s.dropReq id).tfills = s.tfills := by
  unfold State.dropReq; split
  · rfl
  · dsimp only; split <;> exact sendHeld_tfills ..
@[simp] theorem dropReq_crsubs (s : State) (id : Nat) : (s.dropReq id).crsubs = s.crsubs := by
  unfold State.dropReq; split
  · rfl
  · dsimp only; split <;> exact sendHeld_crsubs ..
@[simp] theorem dropReq_rops (s : State) (id : Nat) : (s.dropReq id).rops = s.rops := by
  unfold State.dropReq; split
  · rfl
  · dsimp only; split <;> exact sendHeld_rops ..
@[simp] theorem dropReq_dev (s : State) (id : Nat) : (s.dropReq id).dev = s.dev := by
  unfold State.dropReq; split
  · rfl
  · dsimp only; split <;> exact sendHeld_dev ..
@[simp] theorem dropReq_out (s : State) (id : Nat) : (s.dropReq id).out = s.out := by
  unfold State.dropReq; split
  · rfl
  · dsimp only; split <;> exact sendHeld_out ..
@[simp] theorem dropReq_answers (s : State) (id : Nat) : (s.dropReq id).answers = s.answers := by
  unfold State.dropReq; split
  · rfl
  · dsimp only; split <;> exact sendHeld_answers ..

@[simp] theorem modCur_cyc (s : State) (f : Task → Task) : (s.modCur f).cyc = s.cyc := modTask_cyc ..
@[simp] theorem modCur_stage (s : State) (f : Task → Task) : (s.modCur f).stage = s.stage := modTask_stage ..
@[simp] theorem modCur_agenda (s : State) (f : Task → Task) : (s.modCur f).agenda = s.agenda := modTask_agenda ..
@[simp] theorem modCur_cur (s : State) (f : Task → Task) : (s.modCur f).cur = s.cur := modTask_cur ..
@[simp] theorem modCur_rr (s : State) (f : Task → Task) : (s.modCur f).rr = s.rr := modTask_rr ..
@[simp] theorem modCur_nextId (s : State) (f : Task → Task) : (s.modCur f).nextId = s.nextId := modTask_nextId ..
@[simp] theorem modCur_free (s : State) (f : Task → Task) : (s.modCur f).free = s.free := modTask_free ..
@[simp] theorem modCur_mem (s : State) (f : Task → Task) : (s.modCur f).mem = s.mem := modTask_mem ..
@[simp] theorem modCur_memKey (s : State) (f : Task → Task) : (s.modCur f).memKey = s.memKey := modTask_memKey ..
@[simp] theorem modCur_poison (s : State) (f : Task → Task) : (s.modCur f).poison = s.poison := modTask_poison ..
@[simp] theorem modCur_losses (s : State) (f : Task → Task) : (s.modCur f).losses = s.losses := modTask_losses ..
@[simp] theorem modCur_dies (s : State) (f : Task → Task) : (s.modCur f).dies = s.dies := modTask_dies ..
@[simp] theorem modCur_homes (s : State) (f : Task → Task) : (s.modCur f).homes = s.homes := modTask_homes ..
@[simp] theorem modCur_drams (s : State) (f : Task → Task) : (s.modCur f).drams = s.drams := modTask_drams ..
@[simp] theorem modCur_pavs (s : State) (f : Task → Task) : (s.modCur f).pavs = s.pavs := modTask_pavs ..
@[simp] theorem modCur_ports (s : State) (f : Task → Task) : (s.modCur f).ports = s.ports := modTask_ports ..
@[simp] theorem modCur_images (s : State) (f : Task → Task) : (s.modCur f).images = s.images := modTask_images ..
@[simp] theorem modCur_accts (s : State) (f : Task → Task) : (s.modCur f).accts = s.accts := modTask_accts ..
@[simp] theorem modCur_saved (s : State) (f : Task → Task) : (s.modCur f).saved = s.saved := modTask_saved ..
@[simp] theorem modCur_gangs (s : State) (f : Task → Task) : (s.modCur f).gangs = s.gangs := modTask_gangs ..
@[simp] theorem modCur_reqs (s : State) (f : Task → Task) : (s.modCur f).reqs = s.reqs := modTask_reqs ..
@[simp] theorem modCur_walks (s : State) (f : Task → Task) : (s.modCur f).walks = s.walks := modTask_walks ..
@[simp] theorem modCur_tmsgs (s : State) (f : Task → Task) : (s.modCur f).tmsgs = s.tmsgs := modTask_tmsgs ..
@[simp] theorem modCur_tfills (s : State) (f : Task → Task) : (s.modCur f).tfills = s.tfills := modTask_tfills ..
@[simp] theorem modCur_crsubs (s : State) (f : Task → Task) : (s.modCur f).crsubs = s.crsubs := modTask_crsubs ..
@[simp] theorem modCur_rops (s : State) (f : Task → Task) : (s.modCur f).rops = s.rops := modTask_rops ..
@[simp] theorem modCur_fab (s : State) (f : Task → Task) : (s.modCur f).fab = s.fab := modTask_fab ..
@[simp] theorem modCur_dev (s : State) (f : Task → Task) : (s.modCur f).dev = s.dev := modTask_dev ..
@[simp] theorem modCur_out (s : State) (f : Task → Task) : (s.modCur f).out = s.out := modTask_out ..
@[simp] theorem modCur_answers (s : State) (f : Task → Task) : (s.modCur f).answers = s.answers := modTask_answers ..

@[simp] theorem modSt_cyc (s : State) (f : StreamCtx → StreamCtx) : (s.modSt f).cyc = s.cyc := modCur_cyc ..
@[simp] theorem modSt_stage (s : State) (f : StreamCtx → StreamCtx) : (s.modSt f).stage = s.stage := modCur_stage ..
@[simp] theorem modSt_agenda (s : State) (f : StreamCtx → StreamCtx) : (s.modSt f).agenda = s.agenda := modCur_agenda ..
@[simp] theorem modSt_cur (s : State) (f : StreamCtx → StreamCtx) : (s.modSt f).cur = s.cur := modCur_cur ..
@[simp] theorem modSt_rr (s : State) (f : StreamCtx → StreamCtx) : (s.modSt f).rr = s.rr := modCur_rr ..
@[simp] theorem modSt_nextId (s : State) (f : StreamCtx → StreamCtx) : (s.modSt f).nextId = s.nextId := modCur_nextId ..
@[simp] theorem modSt_free (s : State) (f : StreamCtx → StreamCtx) : (s.modSt f).free = s.free := modCur_free ..
@[simp] theorem modSt_mem (s : State) (f : StreamCtx → StreamCtx) : (s.modSt f).mem = s.mem := modCur_mem ..
@[simp] theorem modSt_memKey (s : State) (f : StreamCtx → StreamCtx) : (s.modSt f).memKey = s.memKey := modCur_memKey ..
@[simp] theorem modSt_poison (s : State) (f : StreamCtx → StreamCtx) : (s.modSt f).poison = s.poison := modCur_poison ..
@[simp] theorem modSt_losses (s : State) (f : StreamCtx → StreamCtx) : (s.modSt f).losses = s.losses := modCur_losses ..
@[simp] theorem modSt_dies (s : State) (f : StreamCtx → StreamCtx) : (s.modSt f).dies = s.dies := modCur_dies ..
@[simp] theorem modSt_homes (s : State) (f : StreamCtx → StreamCtx) : (s.modSt f).homes = s.homes := modCur_homes ..
@[simp] theorem modSt_drams (s : State) (f : StreamCtx → StreamCtx) : (s.modSt f).drams = s.drams := modCur_drams ..
@[simp] theorem modSt_pavs (s : State) (f : StreamCtx → StreamCtx) : (s.modSt f).pavs = s.pavs := modCur_pavs ..
@[simp] theorem modSt_ports (s : State) (f : StreamCtx → StreamCtx) : (s.modSt f).ports = s.ports := modCur_ports ..
@[simp] theorem modSt_images (s : State) (f : StreamCtx → StreamCtx) : (s.modSt f).images = s.images := modCur_images ..
@[simp] theorem modSt_accts (s : State) (f : StreamCtx → StreamCtx) : (s.modSt f).accts = s.accts := modCur_accts ..
@[simp] theorem modSt_saved (s : State) (f : StreamCtx → StreamCtx) : (s.modSt f).saved = s.saved := modCur_saved ..
@[simp] theorem modSt_gangs (s : State) (f : StreamCtx → StreamCtx) : (s.modSt f).gangs = s.gangs := modCur_gangs ..
@[simp] theorem modSt_reqs (s : State) (f : StreamCtx → StreamCtx) : (s.modSt f).reqs = s.reqs := modCur_reqs ..
@[simp] theorem modSt_walks (s : State) (f : StreamCtx → StreamCtx) : (s.modSt f).walks = s.walks := modCur_walks ..
@[simp] theorem modSt_tmsgs (s : State) (f : StreamCtx → StreamCtx) : (s.modSt f).tmsgs = s.tmsgs := modCur_tmsgs ..
@[simp] theorem modSt_tfills (s : State) (f : StreamCtx → StreamCtx) : (s.modSt f).tfills = s.tfills := modCur_tfills ..
@[simp] theorem modSt_crsubs (s : State) (f : StreamCtx → StreamCtx) : (s.modSt f).crsubs = s.crsubs := modCur_crsubs ..
@[simp] theorem modSt_rops (s : State) (f : StreamCtx → StreamCtx) : (s.modSt f).rops = s.rops := modCur_rops ..
@[simp] theorem modSt_fab (s : State) (f : StreamCtx → StreamCtx) : (s.modSt f).fab = s.fab := modCur_fab ..
@[simp] theorem modSt_dev (s : State) (f : StreamCtx → StreamCtx) : (s.modSt f).dev = s.dev := modCur_dev ..
@[simp] theorem modSt_out (s : State) (f : StreamCtx → StreamCtx) : (s.modSt f).out = s.out := modCur_out ..
@[simp] theorem modSt_answers (s : State) (f : StreamCtx → StreamCtx) : (s.modSt f).answers = s.answers := modCur_answers ..

@[simp] theorem chargeCur_cyc (s : State) (n : Nat) : (s.chargeCur n).cyc = s.cyc := by
  unfold State.chargeCur; split
  · rfl
  · exact charge_cyc ..
@[simp] theorem chargeCur_stage (s : State) (n : Nat) : (s.chargeCur n).stage = s.stage := by
  unfold State.chargeCur; split
  · rfl
  · exact charge_stage ..
@[simp] theorem chargeCur_agenda (s : State) (n : Nat) : (s.chargeCur n).agenda = s.agenda := by
  unfold State.chargeCur; split
  · rfl
  · exact charge_agenda ..
@[simp] theorem chargeCur_cur (s : State) (n : Nat) : (s.chargeCur n).cur = s.cur := by
  unfold State.chargeCur; split
  · rfl
  · exact charge_cur ..
@[simp] theorem chargeCur_rr (s : State) (n : Nat) : (s.chargeCur n).rr = s.rr := by
  unfold State.chargeCur; split
  · rfl
  · exact charge_rr ..
@[simp] theorem chargeCur_nextId (s : State) (n : Nat) : (s.chargeCur n).nextId = s.nextId := by
  unfold State.chargeCur; split
  · rfl
  · exact charge_nextId ..
@[simp] theorem chargeCur_free (s : State) (n : Nat) : (s.chargeCur n).free = s.free := by
  unfold State.chargeCur; split
  · rfl
  · exact charge_free ..
@[simp] theorem chargeCur_mem (s : State) (n : Nat) : (s.chargeCur n).mem = s.mem := by
  unfold State.chargeCur; split
  · rfl
  · exact charge_mem ..
@[simp] theorem chargeCur_memKey (s : State) (n : Nat) : (s.chargeCur n).memKey = s.memKey := by
  unfold State.chargeCur; split
  · rfl
  · exact charge_memKey ..
@[simp] theorem chargeCur_poison (s : State) (n : Nat) : (s.chargeCur n).poison = s.poison := by
  unfold State.chargeCur; split
  · rfl
  · exact charge_poison ..
@[simp] theorem chargeCur_losses (s : State) (n : Nat) : (s.chargeCur n).losses = s.losses := by
  unfold State.chargeCur; split
  · rfl
  · exact charge_losses ..
@[simp] theorem chargeCur_cores (s : State) (n : Nat) : (s.chargeCur n).cores = s.cores := by
  unfold State.chargeCur; split
  · rfl
  · exact charge_cores ..
@[simp] theorem chargeCur_dies (s : State) (n : Nat) : (s.chargeCur n).dies = s.dies := by
  unfold State.chargeCur; split
  · rfl
  · exact charge_dies ..
@[simp] theorem chargeCur_homes (s : State) (n : Nat) : (s.chargeCur n).homes = s.homes := by
  unfold State.chargeCur; split
  · rfl
  · exact charge_homes ..
@[simp] theorem chargeCur_drams (s : State) (n : Nat) : (s.chargeCur n).drams = s.drams := by
  unfold State.chargeCur; split
  · rfl
  · exact charge_drams ..
@[simp] theorem chargeCur_pavs (s : State) (n : Nat) : (s.chargeCur n).pavs = s.pavs := by
  unfold State.chargeCur; split
  · rfl
  · exact charge_pavs ..
@[simp] theorem chargeCur_ports (s : State) (n : Nat) : (s.chargeCur n).ports = s.ports := by
  unfold State.chargeCur; split
  · rfl
  · exact charge_ports ..
@[simp] theorem chargeCur_images (s : State) (n : Nat) : (s.chargeCur n).images = s.images := by
  unfold State.chargeCur; split
  · rfl
  · exact charge_images ..
@[simp] theorem chargeCur_saved (s : State) (n : Nat) : (s.chargeCur n).saved = s.saved := by
  unfold State.chargeCur; split
  · rfl
  · exact charge_saved ..
@[simp] theorem chargeCur_gangs (s : State) (n : Nat) : (s.chargeCur n).gangs = s.gangs := by
  unfold State.chargeCur; split
  · rfl
  · exact charge_gangs ..
@[simp] theorem chargeCur_reqs (s : State) (n : Nat) : (s.chargeCur n).reqs = s.reqs := by
  unfold State.chargeCur; split
  · rfl
  · exact charge_reqs ..
@[simp] theorem chargeCur_walks (s : State) (n : Nat) : (s.chargeCur n).walks = s.walks := by
  unfold State.chargeCur; split
  · rfl
  · exact charge_walks ..
@[simp] theorem chargeCur_tmsgs (s : State) (n : Nat) : (s.chargeCur n).tmsgs = s.tmsgs := by
  unfold State.chargeCur; split
  · rfl
  · exact charge_tmsgs ..
@[simp] theorem chargeCur_tfills (s : State) (n : Nat) : (s.chargeCur n).tfills = s.tfills := by
  unfold State.chargeCur; split
  · rfl
  · exact charge_tfills ..
@[simp] theorem chargeCur_crsubs (s : State) (n : Nat) : (s.chargeCur n).crsubs = s.crsubs := by
  unfold State.chargeCur; split
  · rfl
  · exact charge_crsubs ..
@[simp] theorem chargeCur_rops (s : State) (n : Nat) : (s.chargeCur n).rops = s.rops := by
  unfold State.chargeCur; split
  · rfl
  · exact charge_rops ..
@[simp] theorem chargeCur_fab (s : State) (n : Nat) : (s.chargeCur n).fab = s.fab := by
  unfold State.chargeCur; split
  · rfl
  · exact charge_fab ..
@[simp] theorem chargeCur_dev (s : State) (n : Nat) : (s.chargeCur n).dev = s.dev := by
  unfold State.chargeCur; split
  · rfl
  · exact charge_dev ..
@[simp] theorem chargeCur_out (s : State) (n : Nat) : (s.chargeCur n).out = s.out := by
  unfold State.chargeCur; split
  · rfl
  · exact charge_out ..
@[simp] theorem chargeCur_answers (s : State) (n : Nat) : (s.chargeCur n).answers = s.answers := by
  unfold State.chargeCur; split
  · rfl
  · exact charge_answers ..

@[simp] theorem chargeIssue_cyc (s : State) : (s.chargeIssue).cyc = s.cyc := by
  unfold State.chargeIssue; split
  · exact chargeCur_cyc ..
  · rfl
@[simp] theorem chargeIssue_stage (s : State) : (s.chargeIssue).stage = s.stage := by
  unfold State.chargeIssue; split
  · exact chargeCur_stage ..
  · rfl
@[simp] theorem chargeIssue_agenda (s : State) : (s.chargeIssue).agenda = s.agenda := by
  unfold State.chargeIssue; split
  · exact chargeCur_agenda ..
  · rfl
@[simp] theorem chargeIssue_cur (s : State) : (s.chargeIssue).cur = s.cur := by
  unfold State.chargeIssue; split
  · exact chargeCur_cur ..
  · rfl
@[simp] theorem chargeIssue_rr (s : State) : (s.chargeIssue).rr = s.rr := by
  unfold State.chargeIssue; split
  · exact chargeCur_rr ..
  · rfl
@[simp] theorem chargeIssue_nextId (s : State) : (s.chargeIssue).nextId = s.nextId := by
  unfold State.chargeIssue; split
  · exact chargeCur_nextId ..
  · rfl
@[simp] theorem chargeIssue_free (s : State) : (s.chargeIssue).free = s.free := by
  unfold State.chargeIssue; split
  · exact chargeCur_free ..
  · rfl
@[simp] theorem chargeIssue_mem (s : State) : (s.chargeIssue).mem = s.mem := by
  unfold State.chargeIssue; split
  · exact chargeCur_mem ..
  · rfl
@[simp] theorem chargeIssue_memKey (s : State) : (s.chargeIssue).memKey = s.memKey := by
  unfold State.chargeIssue; split
  · exact chargeCur_memKey ..
  · rfl
@[simp] theorem chargeIssue_poison (s : State) : (s.chargeIssue).poison = s.poison := by
  unfold State.chargeIssue; split
  · exact chargeCur_poison ..
  · rfl
@[simp] theorem chargeIssue_losses (s : State) : (s.chargeIssue).losses = s.losses := by
  unfold State.chargeIssue; split
  · exact chargeCur_losses ..
  · rfl
@[simp] theorem chargeIssue_cores (s : State) : (s.chargeIssue).cores = s.cores := by
  unfold State.chargeIssue; split
  · exact chargeCur_cores ..
  · rfl
@[simp] theorem chargeIssue_dies (s : State) : (s.chargeIssue).dies = s.dies := by
  unfold State.chargeIssue; split
  · exact chargeCur_dies ..
  · rfl
@[simp] theorem chargeIssue_homes (s : State) : (s.chargeIssue).homes = s.homes := by
  unfold State.chargeIssue; split
  · exact chargeCur_homes ..
  · rfl
@[simp] theorem chargeIssue_drams (s : State) : (s.chargeIssue).drams = s.drams := by
  unfold State.chargeIssue; split
  · exact chargeCur_drams ..
  · rfl
@[simp] theorem chargeIssue_pavs (s : State) : (s.chargeIssue).pavs = s.pavs := by
  unfold State.chargeIssue; split
  · exact chargeCur_pavs ..
  · rfl
@[simp] theorem chargeIssue_ports (s : State) : (s.chargeIssue).ports = s.ports := by
  unfold State.chargeIssue; split
  · exact chargeCur_ports ..
  · rfl
@[simp] theorem chargeIssue_images (s : State) : (s.chargeIssue).images = s.images := by
  unfold State.chargeIssue; split
  · exact chargeCur_images ..
  · rfl
@[simp] theorem chargeIssue_saved (s : State) : (s.chargeIssue).saved = s.saved := by
  unfold State.chargeIssue; split
  · exact chargeCur_saved ..
  · rfl
@[simp] theorem chargeIssue_gangs (s : State) : (s.chargeIssue).gangs = s.gangs := by
  unfold State.chargeIssue; split
  · exact chargeCur_gangs ..
  · rfl
@[simp] theorem chargeIssue_reqs (s : State) : (s.chargeIssue).reqs = s.reqs := by
  unfold State.chargeIssue; split
  · exact chargeCur_reqs ..
  · rfl
@[simp] theorem chargeIssue_walks (s : State) : (s.chargeIssue).walks = s.walks := by
  unfold State.chargeIssue; split
  · exact chargeCur_walks ..
  · rfl
@[simp] theorem chargeIssue_tmsgs (s : State) : (s.chargeIssue).tmsgs = s.tmsgs := by
  unfold State.chargeIssue; split
  · exact chargeCur_tmsgs ..
  · rfl
@[simp] theorem chargeIssue_tfills (s : State) : (s.chargeIssue).tfills = s.tfills := by
  unfold State.chargeIssue; split
  · exact chargeCur_tfills ..
  · rfl
@[simp] theorem chargeIssue_crsubs (s : State) : (s.chargeIssue).crsubs = s.crsubs := by
  unfold State.chargeIssue; split
  · exact chargeCur_crsubs ..
  · rfl
@[simp] theorem chargeIssue_rops (s : State) : (s.chargeIssue).rops = s.rops := by
  unfold State.chargeIssue; split
  · exact chargeCur_rops ..
  · rfl
@[simp] theorem chargeIssue_fab (s : State) : (s.chargeIssue).fab = s.fab := by
  unfold State.chargeIssue; split
  · exact chargeCur_fab ..
  · rfl
@[simp] theorem chargeIssue_dev (s : State) : (s.chargeIssue).dev = s.dev := by
  unfold State.chargeIssue; split
  · exact chargeCur_dev ..
  · rfl
@[simp] theorem chargeIssue_out (s : State) : (s.chargeIssue).out = s.out := by
  unfold State.chargeIssue; split
  · exact chargeCur_out ..
  · rfl
@[simp] theorem chargeIssue_answers (s : State) : (s.chargeIssue).answers = s.answers := by
  unfold State.chargeIssue; split
  · exact chargeCur_answers ..
  · rfl

@[simp] theorem finish_cyc (s : State) (n : Nat) : (s.finish n).cyc = s.cyc := (modSt_cyc ..).trans (chargeIssue_cyc ..)
@[simp] theorem finish_stage (s : State) (n : Nat) : (s.finish n).stage = s.stage := (modSt_stage ..).trans (chargeIssue_stage ..)
@[simp] theorem finish_agenda (s : State) (n : Nat) : (s.finish n).agenda = s.agenda := (modSt_agenda ..).trans (chargeIssue_agenda ..)
@[simp] theorem finish_cur (s : State) (n : Nat) : (s.finish n).cur = s.cur := (modSt_cur ..).trans (chargeIssue_cur ..)
@[simp] theorem finish_rr (s : State) (n : Nat) : (s.finish n).rr = s.rr := (modSt_rr ..).trans (chargeIssue_rr ..)
@[simp] theorem finish_nextId (s : State) (n : Nat) : (s.finish n).nextId = s.nextId := (modSt_nextId ..).trans (chargeIssue_nextId ..)
@[simp] theorem finish_free (s : State) (n : Nat) : (s.finish n).free = s.free := (modSt_free ..).trans (chargeIssue_free ..)
@[simp] theorem finish_mem (s : State) (n : Nat) : (s.finish n).mem = s.mem := (modSt_mem ..).trans (chargeIssue_mem ..)
@[simp] theorem finish_memKey (s : State) (n : Nat) : (s.finish n).memKey = s.memKey := (modSt_memKey ..).trans (chargeIssue_memKey ..)
@[simp] theorem finish_poison (s : State) (n : Nat) : (s.finish n).poison = s.poison := (modSt_poison ..).trans (chargeIssue_poison ..)
@[simp] theorem finish_losses (s : State) (n : Nat) : (s.finish n).losses = s.losses := (modSt_losses ..).trans (chargeIssue_losses ..)
@[simp] theorem finish_dies (s : State) (n : Nat) : (s.finish n).dies = s.dies := (modSt_dies ..).trans (chargeIssue_dies ..)
@[simp] theorem finish_homes (s : State) (n : Nat) : (s.finish n).homes = s.homes := (modSt_homes ..).trans (chargeIssue_homes ..)
@[simp] theorem finish_drams (s : State) (n : Nat) : (s.finish n).drams = s.drams := (modSt_drams ..).trans (chargeIssue_drams ..)
@[simp] theorem finish_pavs (s : State) (n : Nat) : (s.finish n).pavs = s.pavs := (modSt_pavs ..).trans (chargeIssue_pavs ..)
@[simp] theorem finish_ports (s : State) (n : Nat) : (s.finish n).ports = s.ports := (modSt_ports ..).trans (chargeIssue_ports ..)
@[simp] theorem finish_images (s : State) (n : Nat) : (s.finish n).images = s.images := (modSt_images ..).trans (chargeIssue_images ..)
@[simp] theorem finish_saved (s : State) (n : Nat) : (s.finish n).saved = s.saved := (modSt_saved ..).trans (chargeIssue_saved ..)
@[simp] theorem finish_gangs (s : State) (n : Nat) : (s.finish n).gangs = s.gangs := (modSt_gangs ..).trans (chargeIssue_gangs ..)
@[simp] theorem finish_reqs (s : State) (n : Nat) : (s.finish n).reqs = s.reqs := (modSt_reqs ..).trans (chargeIssue_reqs ..)
@[simp] theorem finish_walks (s : State) (n : Nat) : (s.finish n).walks = s.walks := (modSt_walks ..).trans (chargeIssue_walks ..)
@[simp] theorem finish_tmsgs (s : State) (n : Nat) : (s.finish n).tmsgs = s.tmsgs := (modSt_tmsgs ..).trans (chargeIssue_tmsgs ..)
@[simp] theorem finish_tfills (s : State) (n : Nat) : (s.finish n).tfills = s.tfills := (modSt_tfills ..).trans (chargeIssue_tfills ..)
@[simp] theorem finish_crsubs (s : State) (n : Nat) : (s.finish n).crsubs = s.crsubs := (modSt_crsubs ..).trans (chargeIssue_crsubs ..)
@[simp] theorem finish_rops (s : State) (n : Nat) : (s.finish n).rops = s.rops := (modSt_rops ..).trans (chargeIssue_rops ..)
@[simp] theorem finish_fab (s : State) (n : Nat) : (s.finish n).fab = s.fab := (modSt_fab ..).trans (chargeIssue_fab ..)
@[simp] theorem finish_dev (s : State) (n : Nat) : (s.finish n).dev = s.dev := (modSt_dev ..).trans (chargeIssue_dev ..)
@[simp] theorem finish_out (s : State) (n : Nat) : (s.finish n).out = s.out := (modSt_out ..).trans (chargeIssue_out ..)
@[simp] theorem finish_answers (s : State) (n : Nat) : (s.finish n).answers = s.answers := (modSt_answers ..).trans (chargeIssue_answers ..)

@[simp] theorem endBlockWith_cyc (s : State) (n : Nat) (a : After) : (s.endBlockWith n a).cyc = s.cyc := (modSt_cyc ..).trans (chargeIssue_cyc ..)
@[simp] theorem endBlockWith_stage (s : State) (n : Nat) (a : After) : (s.endBlockWith n a).stage = s.stage := (modSt_stage ..).trans (chargeIssue_stage ..)
@[simp] theorem endBlockWith_agenda (s : State) (n : Nat) (a : After) : (s.endBlockWith n a).agenda = s.agenda := (modSt_agenda ..).trans (chargeIssue_agenda ..)
@[simp] theorem endBlockWith_cur (s : State) (n : Nat) (a : After) : (s.endBlockWith n a).cur = s.cur := (modSt_cur ..).trans (chargeIssue_cur ..)
@[simp] theorem endBlockWith_rr (s : State) (n : Nat) (a : After) : (s.endBlockWith n a).rr = s.rr := (modSt_rr ..).trans (chargeIssue_rr ..)
@[simp] theorem endBlockWith_nextId (s : State) (n : Nat) (a : After) : (s.endBlockWith n a).nextId = s.nextId := (modSt_nextId ..).trans (chargeIssue_nextId ..)
@[simp] theorem endBlockWith_free (s : State) (n : Nat) (a : After) : (s.endBlockWith n a).free = s.free := (modSt_free ..).trans (chargeIssue_free ..)
@[simp] theorem endBlockWith_mem (s : State) (n : Nat) (a : After) : (s.endBlockWith n a).mem = s.mem := (modSt_mem ..).trans (chargeIssue_mem ..)
@[simp] theorem endBlockWith_memKey (s : State) (n : Nat) (a : After) : (s.endBlockWith n a).memKey = s.memKey := (modSt_memKey ..).trans (chargeIssue_memKey ..)
@[simp] theorem endBlockWith_poison (s : State) (n : Nat) (a : After) : (s.endBlockWith n a).poison = s.poison := (modSt_poison ..).trans (chargeIssue_poison ..)
@[simp] theorem endBlockWith_losses (s : State) (n : Nat) (a : After) : (s.endBlockWith n a).losses = s.losses := (modSt_losses ..).trans (chargeIssue_losses ..)
@[simp] theorem endBlockWith_dies (s : State) (n : Nat) (a : After) : (s.endBlockWith n a).dies = s.dies := (modSt_dies ..).trans (chargeIssue_dies ..)
@[simp] theorem endBlockWith_homes (s : State) (n : Nat) (a : After) : (s.endBlockWith n a).homes = s.homes := (modSt_homes ..).trans (chargeIssue_homes ..)
@[simp] theorem endBlockWith_drams (s : State) (n : Nat) (a : After) : (s.endBlockWith n a).drams = s.drams := (modSt_drams ..).trans (chargeIssue_drams ..)
@[simp] theorem endBlockWith_pavs (s : State) (n : Nat) (a : After) : (s.endBlockWith n a).pavs = s.pavs := (modSt_pavs ..).trans (chargeIssue_pavs ..)
@[simp] theorem endBlockWith_ports (s : State) (n : Nat) (a : After) : (s.endBlockWith n a).ports = s.ports := (modSt_ports ..).trans (chargeIssue_ports ..)
@[simp] theorem endBlockWith_images (s : State) (n : Nat) (a : After) : (s.endBlockWith n a).images = s.images := (modSt_images ..).trans (chargeIssue_images ..)
@[simp] theorem endBlockWith_saved (s : State) (n : Nat) (a : After) : (s.endBlockWith n a).saved = s.saved := (modSt_saved ..).trans (chargeIssue_saved ..)
@[simp] theorem endBlockWith_gangs (s : State) (n : Nat) (a : After) : (s.endBlockWith n a).gangs = s.gangs := (modSt_gangs ..).trans (chargeIssue_gangs ..)
@[simp] theorem endBlockWith_reqs (s : State) (n : Nat) (a : After) : (s.endBlockWith n a).reqs = s.reqs := (modSt_reqs ..).trans (chargeIssue_reqs ..)
@[simp] theorem endBlockWith_walks (s : State) (n : Nat) (a : After) : (s.endBlockWith n a).walks = s.walks := (modSt_walks ..).trans (chargeIssue_walks ..)
@[simp] theorem endBlockWith_tmsgs (s : State) (n : Nat) (a : After) : (s.endBlockWith n a).tmsgs = s.tmsgs := (modSt_tmsgs ..).trans (chargeIssue_tmsgs ..)
@[simp] theorem endBlockWith_tfills (s : State) (n : Nat) (a : After) : (s.endBlockWith n a).tfills = s.tfills := (modSt_tfills ..).trans (chargeIssue_tfills ..)
@[simp] theorem endBlockWith_crsubs (s : State) (n : Nat) (a : After) : (s.endBlockWith n a).crsubs = s.crsubs := (modSt_crsubs ..).trans (chargeIssue_crsubs ..)
@[simp] theorem endBlockWith_rops (s : State) (n : Nat) (a : After) : (s.endBlockWith n a).rops = s.rops := (modSt_rops ..).trans (chargeIssue_rops ..)
@[simp] theorem endBlockWith_fab (s : State) (n : Nat) (a : After) : (s.endBlockWith n a).fab = s.fab := (modSt_fab ..).trans (chargeIssue_fab ..)
@[simp] theorem endBlockWith_dev (s : State) (n : Nat) (a : After) : (s.endBlockWith n a).dev = s.dev := (modSt_dev ..).trans (chargeIssue_dev ..)
@[simp] theorem endBlockWith_out (s : State) (n : Nat) (a : After) : (s.endBlockWith n a).out = s.out := (modSt_out ..).trans (chargeIssue_out ..)
@[simp] theorem endBlockWith_answers (s : State) (n : Nat) (a : After) : (s.endBlockWith n a).answers = s.answers := (modSt_answers ..).trans (chargeIssue_answers ..)

@[simp] theorem pendResult_cyc (s : State) (d : SDst) (va : Nat) (acq : Bool) (r : SRes) : (s.pendResult d va acq r).cyc = s.cyc := modCur_cyc ..
@[simp] theorem pendResult_stage (s : State) (d : SDst) (va : Nat) (acq : Bool) (r : SRes) : (s.pendResult d va acq r).stage = s.stage := modCur_stage ..
@[simp] theorem pendResult_agenda (s : State) (d : SDst) (va : Nat) (acq : Bool) (r : SRes) : (s.pendResult d va acq r).agenda = s.agenda := modCur_agenda ..
@[simp] theorem pendResult_cur (s : State) (d : SDst) (va : Nat) (acq : Bool) (r : SRes) : (s.pendResult d va acq r).cur = s.cur := modCur_cur ..
@[simp] theorem pendResult_rr (s : State) (d : SDst) (va : Nat) (acq : Bool) (r : SRes) : (s.pendResult d va acq r).rr = s.rr := modCur_rr ..
@[simp] theorem pendResult_nextId (s : State) (d : SDst) (va : Nat) (acq : Bool) (r : SRes) : (s.pendResult d va acq r).nextId = s.nextId := modCur_nextId ..
@[simp] theorem pendResult_free (s : State) (d : SDst) (va : Nat) (acq : Bool) (r : SRes) : (s.pendResult d va acq r).free = s.free := modCur_free ..
@[simp] theorem pendResult_mem (s : State) (d : SDst) (va : Nat) (acq : Bool) (r : SRes) : (s.pendResult d va acq r).mem = s.mem := modCur_mem ..
@[simp] theorem pendResult_memKey (s : State) (d : SDst) (va : Nat) (acq : Bool) (r : SRes) : (s.pendResult d va acq r).memKey = s.memKey := modCur_memKey ..
@[simp] theorem pendResult_poison (s : State) (d : SDst) (va : Nat) (acq : Bool) (r : SRes) : (s.pendResult d va acq r).poison = s.poison := modCur_poison ..
@[simp] theorem pendResult_losses (s : State) (d : SDst) (va : Nat) (acq : Bool) (r : SRes) : (s.pendResult d va acq r).losses = s.losses := modCur_losses ..
@[simp] theorem pendResult_dies (s : State) (d : SDst) (va : Nat) (acq : Bool) (r : SRes) : (s.pendResult d va acq r).dies = s.dies := modCur_dies ..
@[simp] theorem pendResult_homes (s : State) (d : SDst) (va : Nat) (acq : Bool) (r : SRes) : (s.pendResult d va acq r).homes = s.homes := modCur_homes ..
@[simp] theorem pendResult_drams (s : State) (d : SDst) (va : Nat) (acq : Bool) (r : SRes) : (s.pendResult d va acq r).drams = s.drams := modCur_drams ..
@[simp] theorem pendResult_pavs (s : State) (d : SDst) (va : Nat) (acq : Bool) (r : SRes) : (s.pendResult d va acq r).pavs = s.pavs := modCur_pavs ..
@[simp] theorem pendResult_ports (s : State) (d : SDst) (va : Nat) (acq : Bool) (r : SRes) : (s.pendResult d va acq r).ports = s.ports := modCur_ports ..
@[simp] theorem pendResult_images (s : State) (d : SDst) (va : Nat) (acq : Bool) (r : SRes) : (s.pendResult d va acq r).images = s.images := modCur_images ..
@[simp] theorem pendResult_accts (s : State) (d : SDst) (va : Nat) (acq : Bool) (r : SRes) : (s.pendResult d va acq r).accts = s.accts := modCur_accts ..
@[simp] theorem pendResult_saved (s : State) (d : SDst) (va : Nat) (acq : Bool) (r : SRes) : (s.pendResult d va acq r).saved = s.saved := modCur_saved ..
@[simp] theorem pendResult_gangs (s : State) (d : SDst) (va : Nat) (acq : Bool) (r : SRes) : (s.pendResult d va acq r).gangs = s.gangs := modCur_gangs ..
@[simp] theorem pendResult_reqs (s : State) (d : SDst) (va : Nat) (acq : Bool) (r : SRes) : (s.pendResult d va acq r).reqs = s.reqs := modCur_reqs ..
@[simp] theorem pendResult_walks (s : State) (d : SDst) (va : Nat) (acq : Bool) (r : SRes) : (s.pendResult d va acq r).walks = s.walks := modCur_walks ..
@[simp] theorem pendResult_tmsgs (s : State) (d : SDst) (va : Nat) (acq : Bool) (r : SRes) : (s.pendResult d va acq r).tmsgs = s.tmsgs := modCur_tmsgs ..
@[simp] theorem pendResult_tfills (s : State) (d : SDst) (va : Nat) (acq : Bool) (r : SRes) : (s.pendResult d va acq r).tfills = s.tfills := modCur_tfills ..
@[simp] theorem pendResult_crsubs (s : State) (d : SDst) (va : Nat) (acq : Bool) (r : SRes) : (s.pendResult d va acq r).crsubs = s.crsubs := modCur_crsubs ..
@[simp] theorem pendResult_rops (s : State) (d : SDst) (va : Nat) (acq : Bool) (r : SRes) : (s.pendResult d va acq r).rops = s.rops := modCur_rops ..
@[simp] theorem pendResult_fab (s : State) (d : SDst) (va : Nat) (acq : Bool) (r : SRes) : (s.pendResult d va acq r).fab = s.fab := modCur_fab ..
@[simp] theorem pendResult_dev (s : State) (d : SDst) (va : Nat) (acq : Bool) (r : SRes) : (s.pendResult d va acq r).dev = s.dev := modCur_dev ..
@[simp] theorem pendResult_out (s : State) (d : SDst) (va : Nat) (acq : Bool) (r : SRes) : (s.pendResult d va acq r).out = s.out := modCur_out ..
@[simp] theorem pendResult_answers (s : State) (d : SDst) (va : Nat) (acq : Bool) (r : SRes) : (s.pendResult d va acq r).answers = s.answers := modCur_answers ..

/-! ## Parts read back -/

@[simp] theorem core_setCore_same (s : State) (c : Nat) (x : Core) : (s.setCore c x).core c = x := by
  simp [State.core, State.setCore]
theorem core_setCore_other (s : State) {b c : Nat} (h : b ≠ c) (x : Core) : (s.setCore c x).core b = s.core b := by
  simp [State.core, State.setCore, mget_mset_other h]
@[simp] theorem core_modCore_same (s : State) (c : Nat) (f : Core → Core) : (s.modCore c f).core c = f (s.core c) := by
  simp [State.modCore]
theorem core_modCore_other (s : State) {b c : Nat} (h : b ≠ c) (f : Core → Core) : (s.modCore c f).core b = s.core b :=
  core_setCore_other s h _
@[simp] theorem die_modDie_same (s : State) (d : Nat) (f : Die → Die) : (s.modDie d f).die d = f (s.die d) := by
  simp [State.die, State.modDie]
theorem die_modDie_other (s : State) {b d : Nat} (h : b ≠ d) (f : Die → Die) : (s.modDie d f).die b = s.die b := by
  simp [State.die, State.modDie, mget_mset_other h]
@[simp] theorem home_modHome_same (s : State) (d : Nat) (f : Home → Home) : (s.modHome d f).home d = f (s.home d) := by
  simp [State.home, State.modHome]
@[simp] theorem port_modPort_same (s : State) (d : Nat) (f : Port → Port) : (s.modPort d f).port d = f (s.port d) := by
  simp [State.port, State.modPort]

@[simp] theorem task_setTask_same (s : State) (c l : Nat) (t : Task) : (s.setTask c l t).task? c l = some t := by
  simp [State.task?, State.setTask, mfind_mset_same]
theorem task_setTask_other (s : State) {b m c l : Nat} (h : (b, m) ≠ (c, l)) (t : Task) :
    (s.setTask c l t).task? b m = s.task? b m := by
  by_cases hb : b = c
  · subst hb
    have : m ≠ l := fun e => h (by rw [e])
    simp [State.task?, State.setTask, mfind_mset_other this]
  · simp [State.task?, State.setTask, core_modCore_other s hb]
theorem task_modTask_same {s : State} {c l : Nat} {t : Task} (h : s.task? c l = some t) (f : Task → Task) :
    (s.modTask c l f).task? c l = some (f t) := by
  simp [State.modTask, h]
theorem task_modTask_other (s : State) {b m c l : Nat} (h : (b, m) ≠ (c, l)) (f : Task → Task) :
    (s.modTask c l f).task? b m = s.task? b m := by
  unfold State.modTask
  split
  · exact task_setTask_other s h _
  · rfl

theorem curTask_modCur {s : State} {t : Task} (h : s.curTask = some t) (f : Task → Task) :
    (s.modCur f).curTask = some (f t) := by
  simp only [State.curTask, State.modCur, modTask_cur] at h ⊢
  exact task_modTask_same h f
theorem curTask_modSt {s : State} {t : Task} (h : s.curTask = some t) (f : StreamCtx → StreamCtx) :
    (s.modSt f).curTask = some (t.modSt s.cur.stream f) := curTask_modCur h _

/-- A change of a core's fields other than its slots leaves its tasks. -/
theorem task_modCore {s : State} {b c l : Nat} {f : Core → Core} (h : (f (s.core c)).slots = (s.core c).slots) :
    (s.modCore c f).task? b l = s.task? b l := by
  by_cases e : b = c
  · subst e; simp [State.task?, h]
  · simp [State.task?, core_modCore_other s e]

@[simp] theorem st_setSt_same (t : Task) (k : Stream) (x : StreamCtx) : (t.setSt k x).st k = x := by
  simp [Task.st, Task.setSt]
theorem st_setSt_other (t : Task) {j k : Stream} (h : j ≠ k) (x : StreamCtx) : (t.setSt k x).st j = t.st j := by
  have : j.code ≠ k.code := by cases j <;> cases k <;> simp_all [Stream.code]
  simp [Task.st, Task.setSt, mget_mset_other this]
@[simp] theorem st_modSt_same (t : Task) (k : Stream) (f : StreamCtx → StreamCtx) : (t.modSt k f).st k = f (t.st k) := by
  simp [Task.modSt]
theorem st_modSt_other (t : Task) {j k : Stream} (h : j ≠ k) (f : StreamCtx → StreamCtx) : (t.modSt k f).st j = t.st j :=
  st_setSt_other t h _

theorem sreg_setSreg (t : Task) (n m : Nat) (v : Word64) : (t.setSreg n v).sreg m = if m = n then v else t.sreg m := by
  by_cases h : m = n
  · subst h; simp [Task.sreg, Task.setSreg]
  · simp [Task.sreg, Task.setSreg, mget_mset_other h, h]
theorem a_setA_same (t : Task) (k : Stream) (n : Nat) (v : Word64) : (t.setA k n v).a k n = v := by
  simp [Task.a, Task.setA]
@[simp] theorem kreg_zero (t : Task) : t.kreg 0 = BitVec.allOnes 1024 := rfl
@[simp] theorem setK_zero (t : Task) (v : BitVec 1024) : t.setK 0 v = t := rfl

theorem curSt_eq {s : State} {t : Task} (h : s.curTask = some t) : s.curSt = t.st s.cur.stream := by
  simp [State.curSt, h]

end Sys2Proof.Laws
end

