-- ==== Sys2Proof/Laws/Ops.lean ====
section
/-!
SUPPORT. What the shared operations do, said once: the shapes of scalar instructions, the issue charge, and that every memory
operation keeps the canonical form of memory.
-/

namespace Sys2Proof.Laws
open Sys2Proof Sys2Proof.Machine

/-! ## Shapes -/

theorem onTask_some {s : State} {t : Task} (h : s.curTask = some t) (f : Task → State) : onTask s f = .next (f t) := by
  simp [onTask, h]

theorem onTask_none {s : State} (h : s.curTask = none) (f : Task → State) : onTask s f = .fault .noTask := by
  simp [onTask, h]

/-- A meaning of a stream instruction answers a next state exactly where the issuing slot has a task. -/
theorem onTask_next {s s' : State} {f : Task → State} (h : onTask s f = .next s') : ∃ t, s.curTask = some t ∧ s' = f t := by
  unfold onTask at h
  split at h
  · cases h
  · next t ht => cases h; exact ⟨t, ht, rfl⟩

/-- A scalar instruction that need not wait writes its result and moves on (R87, R90, R91). -/
theorem scalarOp_issues {s : State} {t : Task} {srcs : List SSrc} {d : SDst} (h : s.curTask = some t)
    (hs : t.ready srcs = true) (hd : t.dstReady d = true) (hp : t.canPend = true) (n : Nat) (f : Task → Word64) :
    scalarOp srcs d n f s = .next ((s.modCur (fun u => u.result d (f t))).finish n) := by
  unfold Task.ready at hs
  rw [scalarOp, onTask_some h]
  simp only [hs, hd, hp, Bool.and_self, if_true]
  have : s.modCur (fun u => u.result d (f u)) = s.modCur (fun u => u.result d (f t)) := by
    simp only [State.curTask] at h
    simp [State.modCur, State.modTask, h]
  exact congrArg (fun x => Host.Outcome.next (State.finish x n)) this

/-- A scalar instruction that must wait leaves the state as it is (R90, R91). -/
theorem scalarOp_waits {s : State} {t : Task} {srcs : List SSrc} {d : SDst} (h : s.curTask = some t)
    (hw : (t.ready srcs && t.dstReady d && t.canPend) = false) (n : Nat) (f : Task → Word64) :
    scalarOp srcs d n f s = .next s := by
  unfold Task.ready at hw
  rw [scalarOp, onTask_some h]
  simp [hw]

/-! ## The issue charge and the next instruction -/

theorem task_charge (s : State) (a n c l : Nat) : (s.charge a n).task? c l = s.task? c l := by
  unfold State.charge; split <;> rfl
theorem task_chargeCur (s : State) (n c l : Nat) : (s.chargeCur n).task? c l = s.task? c l := by
  unfold State.chargeCur; split
  · rfl
  · exact task_charge ..
theorem task_chargeIssue (s : State) (c l : Nat) : s.chargeIssue.task? c l = s.task? c l := by
  unfold State.chargeIssue; split
  · exact task_chargeCur ..
  · rfl
theorem curTask_chargeIssue (s : State) : s.chargeIssue.curTask = s.curTask := by
  simp [State.curTask, task_chargeIssue]
theorem cores_chargeIssue (s : State) : s.chargeIssue.cores = s.cores := by
  unfold State.chargeIssue State.chargeCur State.charge
  repeat' split
  all_goals rfl

/-- The issuing task after `finish`: its stream's context has moved on, and nothing else of it has changed. -/
theorem curTask_finish {s : State} {t : Task} (h : s.curTask = some t) (n : Nat) :
    (s.finish n).curTask = some (t.modSt s.cur.stream (fun x => x.advance n)) := by
  have h' : s.chargeIssue.curTask = some t := by rw [curTask_chargeIssue, h]
  simpa [State.finish] using curTask_modSt h' (fun x => x.advance n)

/-! ## Memory keeps its canonical form -/

/-- The memory of a state is in its canonical form. -/
abbrev WfMem (s : State) : Prop := Memory.wf s.mem = true

theorem wf_putByte {s : State} (h : WfMem s) (key a : Nat) (b : Byte) : WfMem (s.putByte key a b) := Memory.wf_write a b h

theorem wf_putBytes {s : State} (h : WfMem s) (key a : Nat) (bs : List Byte) : WfMem (s.putBytes key a bs) := by
  induction bs generalizing s a with
  | nil => exact h
  | cons b bs ih => exact ih (wf_putByte h key a b) (a + 1)

/-- A change made for each element keeps what each single change keeps. -/
theorem each_keeps {α σ : Type} (P : σ → Prop) (f : α → σ → σ) (hf : ∀ a s, P s → P (f a s)) (l : List α) (s : σ) (h : P s) :
    P (each l f s) := by
  induction l generalizing s with
  | nil => exact h
  | cons a l ih => exact ih _ (hf a s h)

theorem wf_putLine {s : State} (h : WfMem s) (key line : Nat) (mask : BitVec 128) (data : List Byte) :
    WfMem (s.putLine key line mask data) := by
  have : WfMem (each (List.range 128)
      (fun i s => if mask.getLsbD i then s.putByte key (128 * line + i) (data.getD i 0) else s) s) := by
    refine each_keeps WfMem _ (fun i s hs => ?_) _ _ h
    split
    · exact wf_putByte hs ..
    · exact hs
  unfold State.putLine
  split <;> exact this

theorem wf_store {s : State} (h : WfMem s) (key a : Nat) (bs : List Byte) : WfMem (s.store key a bs) :=
  wf_putBytes h key a bs

theorem wf_modCore {s : State} (h : WfMem s) (c : Nat) (f : Core → Core) : WfMem (s.modCore c f) := h
theorem wf_modHome {s : State} (h : WfMem s) (d : Nat) (f : Home → Home) : WfMem (s.modHome d f) := h
theorem wf_modDev {s : State} (h : WfMem s) (f : Dev → Dev) : WfMem (s.modDev f) := h

theorem wf_applyPay {s : State} (h : WfMem s) (r : DReq) : WfMem (s.applyPay r) := by
  unfold State.applyPay
  split
  · exact h
  · split
    · exact wf_putLine h ..
    · exact wf_putLine h ..

theorem wf_countMiss {s : State} (h : WfMem s) (r : DReq) : WfMem (s.countMiss r) := by
  unfold State.countMiss
  split
  · exact wf_modHome h ..
  · exact h

theorem wf_settle {s : State} (h : WfMem s) (f : DReq → Bool) : WfMem (s.settle f) := by
  unfold State.settle
  simp only
  split
  · exact h
  · exact each_keeps WfMem _ (fun r s hs => wf_applyPay (wf_countMiss hs r) r) _ _ h

theorem wf_broadcast {s : State} (h : WfMem s) : WfMem s.broadcast := by
  unfold State.broadcast
  generalize List.range 256 = cs
  generalize List.range 64 = hs
  exact wf_modDev (each_keeps WfMem _ (fun d s hs => wf_modHome hs d _) hs _
    (each_keeps WfMem _ (fun c s hs => wf_modCore hs c _) cs s h)) _

theorem wf_floorFor {s : State} (h : WfMem s) (w : State → Word32) : WfMem (s.floorFor w) := by
  unfold State.floorFor
  split
  · exact wf_broadcast h
  · exact h

theorem wf_writeVa {s : State} (h : WfMem s) (d p va : Nat) (bs : List Byte) : WfMem (s.writeVa d p va bs) := by
  unfold State.writeVa
  split
  · dsimp only
    split
    · unfold WfMem
      rw [stamp_mem]
      exact wf_floorFor (wf_store (wf_settle h _) ..) _
    · exact wf_store (wf_settle h _) ..
  · exact h

theorem wf_toMem {s : State} (h : WfMem s) (d : Nat) (l : CLine) : WfMem (s.toMem d l) := h

theorem wf_roomDlc {s : State} (h : WfMem s) (d line : Nat) : WfMem (s.roomDlc d line) := by
  unfold State.roomDlc
  simp only
  repeat' split
  all_goals exact h

theorem wf_putDlc {s : State} (h : WfMem s) (d : Nat) (l : CLine) (lru : Bool) : WfMem (s.putDlc d l lru) := by
  unfold State.putDlc WfMem
  rw [modDie_mem]
  split
  · exact h
  · exact wf_roomDlc h ..

theorem wf_toDlc {s : State} (h : WfMem s) (c : Nat) (l : CLine) : WfMem (s.toDlc c l) := by
  unfold State.toDlc WfMem
  rw [modCore_mem]
  exact wf_putDlc h ..

theorem wf_roomL1 {s : State} (h : WfMem s) (c line : Nat) : WfMem (s.roomL1 c line) := by
  unfold State.roomL1
  simp only
  repeat' split
  all_goals first | exact h | (unfold WfMem; rw [modCore_mem]; first | exact h | exact wf_toDlc h ..)

theorem wf_putL1 {s : State} (h : WfMem s) (c : Nat) (l : CLine) (lru : Bool) : WfMem (s.putL1 c l lru) := by
  unfold State.putL1 WfMem
  rw [modCore_mem]
  split
  · exact h
  · exact wf_roomL1 h ..

theorem wf_fetchPriv {s : State} (h : WfMem s) (c pav key line rd : Nat) (load : Bool) :
    WfMem (s.fetchPriv c pav key line rd load).1 := by
  unfold State.fetchPriv
  split
  · exact wf_putL1 h ..
  · simp only
    split
    · exact wf_putDlc h ..
    · exact wf_putL1 (wf_putDlc h ..) ..

theorem wf_writePriv {s : State} (h : WfMem s) (o : Orig) (c pav key line rd : Nat) (mask : BitVec 128) (data : List Byte) :
    WfMem (s.writePriv o c pav key line rd mask data) := by
  unfold State.writePriv WfMem
  simp only [modCore_mem]
  exact wf_fetchPriv h ..

theorem wf_releaseCaches {s : State} (h : WfMem s) (c pav key : Nat) (dev : Bool) : WfMem (s.releaseCaches c pav key dev) := by
  have h1 : WfMem (each ((s.core c).l1.filter (fun l => !l.coh && l.key = key && l.pav = pav && l.dirty ≠ 0))
      (fun l s => s.toDlc c l) s) := each_keeps WfMem _ (fun l s hs => wf_toDlc hs c l) _ _ h
  unfold State.releaseCaches
  simp only
  split
  · exact each_keeps WfMem _ (fun l s hs => wf_toMem hs _ l) _ _ h1
  · exact h1

theorem wf_acquireCaches {s : State} (h : WfMem s) (c pav key : Nat) (dev : Bool) : WfMem (s.acquireCaches c pav key dev) := by
  unfold State.acquireCaches WfMem
  simp only
  split
  · simpa using h
  · simpa using h

theorem wf_releaseAt {s : State} (h : WfMem s) (c : Nat) (t : Task) (sc : Scope) : WfMem (s.releaseAt c t sc) := by
  have h1 : WfMem (if scopeNum sc ≥ 2 then s.releaseCaches c t.pav t.key (scopeNum sc ≥ 3) else s) := by
    split
    · exact wf_releaseCaches h ..
    · exact h
  unfold State.releaseAt
  simp only
  split
  · exact h1
  · exact h1

theorem wf_acquireAt {s : State} (h : WfMem s) (c : Nat) (t : Task) (sc : Scope) (w : Word32) : WfMem (s.acquireAt c t sc w) := by
  have h1 : WfMem (if scopeNum sc ≥ 2 then s.acquireCaches c t.pav t.key (scopeNum sc ≥ 3) else s) := by
    split
    · exact wf_acquireCaches h ..
    · exact h
  unfold State.acquireAt
  simp only
  split
  · exact h1
  · exact h1

theorem wf_performWrite {s : State} (h : WfMem s) (id : Nat) (r : Req) (rel : Bool) (mask : BitVec 128) (data old : List Byte) :
    WfMem (s.performWrite id r rel mask data old) := by
  have h0 : WfMem (if r.cls = .coh then s.floorFor (fun s => reqTime s r rel) else s) := by
    split
    · exact wf_floorFor h _
    · exact h
  unfold State.performWrite
  extract_lets s0 w
  split
  · exact h0
  · rename_i s1 s2 _
    have h2 : WfMem s2 := by
      show WfMem (if _ then _ else _)
      split
      · unfold WfMem
        rw [stamp_mem]
        exact wf_putLine h0 ..
      · exact wf_putLine h0 ..
    unfold State.answerFlits WfMem
    rw [lineAnswer_mem]
    exact h2

end Sys2Proof.Laws
end

