-- ==== Sys2Proof/Laws/PerInstr.lean ====
section
/-!
SUPPORT. Per-instruction families named in LAWS.json. Parcels: what the encoder writes of an operation is no more than three
parcels, and it writes none exactly for the device's events and host commands, which no stream executes (R29, R30).
-/

namespace Sys2Proof.Laws.Parcels

/-- The number of parcels of an operation, none for an event (R29, R30). -/
def Statement (i : Instr) : Prop :=
  (encode i).length ≤ 3 ∧ ((encode i = []) ↔ Machine.isEvent i = true)

theorem tile_len (maj : Nat) (o : TileF) : (encTile maj o).length = 3 := by
  unfold encTile
  split <;> rfl

theorem of_lengths {i : Instr} (n : Nat) (h : (encode i).length = n) (hn : n ≤ 3) (b : Bool)
    (hb : Machine.isEvent i = b) (hz : (n = 0) ↔ b = true) : Statement i := by
  refine ⟨by omega, ?_⟩
  rw [← List.length_eq_zero_iff, h, hb, hz]

theorem blockHeaderEntry (hdr : BitVec 30) : Statement (.blockHeaderEntry hdr) := of_lengths 2 rfl (by decide) false rfl (by decide)
theorem blockComplete (x : Ctx) : Statement (.blockComplete x) := of_lengths 0 rfl (by decide) true rfl (by decide)
theorem tokenPushDeferred (x : Ctx) : Statement (.tokenPushDeferred x) := of_lengths 0 rfl (by decide) true rfl (by decide)
theorem addC (d : Fin 16) (a : SSrc) : Statement (.addC d a) := of_lengths 1 rfl (by decide) false rfl (by decide)
theorem subC (d : Fin 16) (a : SSrc) : Statement (.subC d a) := of_lengths 1 rfl (by decide) false rfl (by decide)
theorem andC (d : Fin 16) (a : SSrc) : Statement (.andC d a) := of_lengths 1 rfl (by decide) false rfl (by decide)
theorem orC (d : Fin 16) (a : SSrc) : Statement (.orC d a) := of_lengths 1 rfl (by decide) false rfl (by decide)
theorem addiC (d : Fin 16) (imm : BitVec 5) : Statement (.addiC d imm) := of_lengths 1 rfl (by decide) false rfl (by decide)
theorem movC (d : Fin 16) (a : SSrc) : Statement (.movC d a) := of_lengths 1 rfl (by decide) false rfl (by decide)
theorem nopC : Statement (.nopC) := of_lengths 1 rfl (by decide) false rfl (by decide)
theorem add (o : Alu) : Statement (.add o) := of_lengths 2 rfl (by decide) false rfl (by decide)
theorem sub (o : Alu) : Statement (.sub o) := of_lengths 2 rfl (by decide) false rfl (by decide)
theorem and (o : Alu) : Statement (.and o) := of_lengths 2 rfl (by decide) false rfl (by decide)
theorem or (o : Alu) : Statement (.or o) := of_lengths 2 rfl (by decide) false rfl (by decide)
theorem xor (o : Alu) : Statement (.xor o) := of_lengths 2 rfl (by decide) false rfl (by decide)
theorem andn (o : Alu) : Statement (.andn o) := of_lengths 2 rfl (by decide) false rfl (by decide)
theorem shl (o : Alu) : Statement (.shl o) := of_lengths 2 rfl (by decide) false rfl (by decide)
theorem shr (o : Alu) : Statement (.shr o) := of_lengths 2 rfl (by decide) false rfl (by decide)
theorem sar (o : Alu) : Statement (.sar o) := of_lengths 2 rfl (by decide) false rfl (by decide)
theorem mul (o : Alu) : Statement (.mul o) := of_lengths 2 rfl (by decide) false rfl (by decide)
theorem mulh (o : Alu) : Statement (.mulh o) := of_lengths 2 rfl (by decide) false rfl (by decide)
theorem mulhu (o : Alu) : Statement (.mulhu o) := of_lengths 2 rfl (by decide) false rfl (by decide)
theorem div (o : Alu) : Statement (.div o) := of_lengths 2 rfl (by decide) false rfl (by decide)
theorem divu (o : Alu) : Statement (.divu o) := of_lengths 2 rfl (by decide) false rfl (by decide)
theorem rem (o : Alu) : Statement (.rem o) := of_lengths 2 rfl (by decide) false rfl (by decide)
theorem remu (o : Alu) : Statement (.remu o) := of_lengths 2 rfl (by decide) false rfl (by decide)
theorem min (o : Alu) : Statement (.min o) := of_lengths 2 rfl (by decide) false rfl (by decide)
theorem max (o : Alu) : Statement (.max o) := of_lengths 2 rfl (by decide) false rfl (by decide)
theorem minu (o : Alu) : Statement (.minu o) := of_lengths 2 rfl (by decide) false rfl (by decide)
theorem maxu (o : Alu) : Statement (.maxu o) := of_lengths 2 rfl (by decide) false rfl (by decide)
theorem slt (o : Alu) : Statement (.slt o) := of_lengths 2 rfl (by decide) false rfl (by decide)
theorem sltu (o : Alu) : Statement (.sltu o) := of_lengths 2 rfl (by decide) false rfl (by decide)
theorem seq (o : Alu) : Statement (.seq o) := of_lengths 2 rfl (by decide) false rfl (by decide)
theorem clz (o : Alu1) : Statement (.clz o) := of_lengths 2 rfl (by decide) false rfl (by decide)
theorem ctz (o : Alu1) : Statement (.ctz o) := of_lengths 2 rfl (by decide) false rfl (by decide)
theorem popc (o : Alu1) : Statement (.popc o) := of_lengths 2 rfl (by decide) false rfl (by decide)
theorem addi (o : ImmOp) : Statement (.addi o) := of_lengths 2 rfl (by decide) false rfl (by decide)
theorem andi (o : ImmOp) : Statement (.andi o) := of_lengths 2 rfl (by decide) false rfl (by decide)
theorem ori (o : ImmOp) : Statement (.ori o) := of_lengths 2 rfl (by decide) false rfl (by decide)
theorem xori (o : ImmOp) : Statement (.xori o) := of_lengths 2 rfl (by decide) false rfl (by decide)
theorem shli (o : ShiftImm) : Statement (.shli o) := of_lengths 2 rfl (by decide) false rfl (by decide)
theorem shri (o : ShiftImm) : Statement (.shri o) := of_lengths 2 rfl (by decide) false rfl (by decide)
theorem sari (o : ShiftImm) : Statement (.sari o) := of_lengths 2 rfl (by decide) false rfl (by decide)
theorem slti (o : ImmOp) : Statement (.slti o) := of_lengths 2 rfl (by decide) false rfl (by decide)
theorem sltiu (o : ImmOp) : Statement (.sltiu o) := of_lengths 2 rfl (by decide) false rfl (by decide)
theorem lui (d : SDst) (imm : BitVec 19) : Statement (.lui d imm) := of_lengths 2 rfl (by decide) false rfl (by decide)
theorem li (d : SDst) (imm : BitVec 31) : Statement (.li d imm) := of_lengths 3 rfl (by decide) false rfl (by decide)
theorem bfx (o : BField) : Statement (.bfx o) := of_lengths 2 rfl (by decide) false rfl (by decide)
theorem bfxs (o : BField) : Statement (.bfxs o) := of_lengths 2 rfl (by decide) false rfl (by decide)
theorem bfi (o : BField) : Statement (.bfi o) := of_lengths 2 rfl (by decide) false rfl (by decide)
theorem beq (o : CmpBr) : Statement (.beq o) := of_lengths 2 rfl (by decide) false rfl (by decide)
theorem bne (o : CmpBr) : Statement (.bne o) := of_lengths 2 rfl (by decide) false rfl (by decide)
theorem blt (o : CmpBr) : Statement (.blt o) := of_lengths 2 rfl (by decide) false rfl (by decide)
theorem bge (o : CmpBr) : Statement (.bge o) := of_lengths 2 rfl (by decide) false rfl (by decide)
theorem bltu (o : CmpBr) : Statement (.bltu o) := of_lengths 2 rfl (by decide) false rfl (by decide)
theorem bgeu (o : CmpBr) : Statement (.bgeu o) := of_lengths 2 rfl (by decide) false rfl (by decide)
theorem call (off : BitVec 24) : Statement (.call off) := of_lengths 2 rfl (by decide) false rfl (by decide)
theorem ret : Statement (.ret) := of_lengths 2 rfl (by decide) false rfl (by decide)
theorem jr (a : SSrc) : Statement (.jr a) := of_lengths 2 rfl (by decide) false rfl (by decide)
theorem ld (o : LoadOp) : Statement (.ld o) := of_lengths 2 rfl (by decide) false rfl (by decide)
theorem st (o : StoreOp) : Statement (.st o) := of_lengths 2 rfl (by decide) false rfl (by decide)
theorem ldacq (o : LoadOp) : Statement (.ldacq o) := of_lengths 2 rfl (by decide) false rfl (by decide)
theorem strel (o : StoreOp) : Statement (.strel o) := of_lengths 2 rfl (by decide) false rfl (by decide)
theorem amoadd (o : AmoF) : Statement (.amoadd o) := of_lengths 2 rfl (by decide) false rfl (by decide)
theorem amoand (o : AmoF) : Statement (.amoand o) := of_lengths 2 rfl (by decide) false rfl (by decide)
theorem amoor (o : AmoF) : Statement (.amoor o) := of_lengths 2 rfl (by decide) false rfl (by decide)
theorem amoxor (o : AmoF) : Statement (.amoxor o) := of_lengths 2 rfl (by decide) false rfl (by decide)
theorem amomin (o : AmoF) : Statement (.amomin o) := of_lengths 2 rfl (by decide) false rfl (by decide)
theorem amomax (o : AmoF) : Statement (.amomax o) := of_lengths 2 rfl (by decide) false rfl (by decide)
theorem amominu (o : AmoF) : Statement (.amominu o) := of_lengths 2 rfl (by decide) false rfl (by decide)
theorem amomaxu (o : AmoF) : Statement (.amomaxu o) := of_lengths 2 rfl (by decide) false rfl (by decide)
theorem amoswap (o : AmoF) : Statement (.amoswap o) := of_lengths 2 rfl (by decide) false rfl (by decide)
theorem cas (o : AmoF) (cmp : SSrc) : Statement (.cas o cmp) := of_lengths 3 rfl (by decide) false rfl (by decide)
theorem rld (d : SDst) (addr : SSrc) (dword : Bool) (scope : Scope) (tok : SSrc) : Statement (.rld d addr dword scope tok) := of_lengths 3 rfl (by decide) false rfl (by decide)
theorem rst (addr : SSrc) (val : SSrc) (dword : Bool) (scope : Scope) (tok : SSrc) : Statement (.rst addr val dword scope tok) := of_lengths 3 rfl (by decide) false rfl (by decide)
theorem ramo (op : AmoOp) (o : AmoF) (tok : SSrc) : Statement (.ramo op o tok) := of_lengths 3 rfl (by decide) false rfl (by decide)
theorem fence (scope : Scope) (kinds : BitVec 4) (acq : Bool) (rel : Bool) (d : SDst) : Statement (.fence scope kinds acq rel d) := of_lengths 2 rfl (by decide) false rfl (by decide)
theorem ifence (d : SDst) : Statement (.ifence d) := of_lengths 2 rfl (by decide) false rfl (by decide)
theorem tfence (d : SDst) : Statement (.tfence d) := of_lengths 2 rfl (by decide) false rfl (by decide)
theorem fork (d : SDst) (a : SSrc) : Statement (.fork d a) := of_lengths 2 rfl (by decide) false rfl (by decide)
theorem join (a : SSrc) : Statement (.join a) := of_lengths 2 rfl (by decide) false rfl (by decide)
theorem spawn (t : Stream) (off : BitVec 22) : Statement (.spawn t off) := of_lengths 2 rfl (by decide) false rfl (by decide)
theorem exit : Statement (.exit) := of_lengths 2 rfl (by decide) false rfl (by decide)
theorem yield : Statement (.yield) := of_lengths 2 rfl (by decide) false rfl (by decide)
theorem launch (d : SDst) (a : SSrc) : Statement (.launch d a) := of_lengths 2 rfl (by decide) false rfl (by decide)
theorem tdld (t : TSlot) (a : SSrc) : Statement (.tdld t a) := of_lengths 2 rfl (by decide) false rfl (by decide)
theorem tdver (t : TSlot) (a : SSrc) : Statement (.tdver t a) := of_lengths 2 rfl (by decide) false rfl (by decide)
theorem swinit (a : SSrc) (b : SSrc) : Statement (.swinit a b) := of_lengths 2 rfl (by decide) false rfl (by decide)
theorem barr (a : SSrc) : Statement (.barr a) := of_lengths 2 rfl (by decide) false rfl (by decide)
theorem hnotify (a : SSrc) (b : SSrc) : Statement (.hnotify a b) := of_lengths 2 rfl (by decide) false rfl (by decide)
theorem trap (code : BitVec 16) : Statement (.trap code) := of_lengths 2 rfl (by decide) false rfl (by decide)
theorem resume (d : SDst) (a : SSrc) (b : SSrc) : Statement (.resume d a b) := of_lengths 2 rfl (by decide) false rfl (by decide)
theorem kill (d : SDst) (a : SSrc) (b : SSrc) : Statement (.kill d a b) := of_lengths 2 rfl (by decide) false rfl (by decide)
theorem rqrel (d : SDst) (a : SSrc) (b : SSrc) : Statement (.rqrel d a b) := of_lengths 2 rfl (by decide) false rfl (by decide)
theorem tlbinv (d : SDst) (a : SSrc) (b : SSrc) : Statement (.tlbinv d a b) := of_lengths 2 rfl (by decide) false rfl (by decide)
theorem snaprd (d : SDst) (a : SSrc) (b : SSrc) : Statement (.snaprd d a b) := of_lengths 2 rfl (by decide) false rfl (by decide)
theorem snapwr (d : SDst) (a : SSrc) (b : SSrc) : Statement (.snapwr d a b) := of_lengths 2 rfl (by decide) false rfl (by decide)
theorem keyret (d : SDst) (a : SSrc) (b : SSrc) : Statement (.keyret d a b) := of_lengths 2 rfl (by decide) false rfl (by decide)
theorem grant (d : SDst) (a : SSrc) (b : SSrc) : Statement (.grant d a b) := of_lengths 2 rfl (by decide) false rfl (by decide)
theorem nop : Statement (.nop) := of_lengths 2 rfl (by decide) false rfl (by decide)
theorem br (off : BitVec 24) : Statement (.br off) := of_lengths 2 rfl (by decide) false rfl (by decide)
theorem bzS (a : SSrc) (off : BitVec 14) : Statement (.bzS a off) := of_lengths 2 rfl (by decide) false rfl (by decide)
theorem bzA (a : AReg) (off : BitVec 14) : Statement (.bzA a off) := of_lengths 2 rfl (by decide) false rfl (by decide)
theorem bnzS (a : SSrc) (off : BitVec 14) : Statement (.bnzS a off) := of_lengths 2 rfl (by decide) false rfl (by decide)
theorem bnzA (a : AReg) (off : BitVec 14) : Statement (.bnzA a off) := of_lengths 2 rfl (by decide) false rfl (by decide)
theorem loopImm (lvl2 : Bool) (len : BitVec 9) (cnt : BitVec 12) : Statement (.loopImm lvl2 len cnt) := of_lengths 2 rfl (by decide) false rfl (by decide)
theorem loopRegS (lvl2 : Bool) (len : BitVec 9) (a : SSrc) : Statement (.loopRegS lvl2 len a) := of_lengths 2 rfl (by decide) false rfl (by decide)
theorem loopRegA (lvl2 : Bool) (len : BitVec 9) (a : AReg) : Statement (.loopRegA lvl2 len a) := of_lengths 2 rfl (by decide) false rfl (by decide)
theorem waitGenS (addr : SSrc) (gen : SSrc) : Statement (.waitGenS addr gen) := of_lengths 2 rfl (by decide) false rfl (by decide)
theorem waitGenA (addr : AReg) (gen : AReg) : Statement (.waitGenA addr gen) := of_lengths 2 rfl (by decide) false rfl (by decide)
theorem waitTok (src : Stream) (n : Fin 16) : Statement (.waitTok src n) := of_lengths 2 rfl (by decide) false rfl (by decide)
theorem tksend (dst : Stream) (n : Fin 16) : Statement (.tksend dst n) := of_lengths 2 rfl (by decide) false rfl (by decide)
theorem halt : Statement (.halt) := of_lengths 2 rfl (by decide) false rfl (by decide)
theorem beacon (tag : BitVec 16) : Statement (.beacon tag) := of_lengths 2 rfl (by decide) false rfl (by decide)
theorem mfsrS (d : SDst) (idx : BitVec 10) : Statement (.mfsrS d idx) := of_lengths 2 rfl (by decide) false rfl (by decide)
theorem mfsrA (d : AReg) (idx : BitVec 10) : Statement (.mfsrA d idx) := of_lengths 2 rfl (by decide) false rfl (by decide)
theorem mtsrS (a : SSrc) (idx : BitVec 10) : Statement (.mtsrS a idx) := of_lengths 2 rfl (by decide) false rfl (by decide)
theorem mtsrA (a : AReg) (idx : BitVec 10) : Statement (.mtsrA a idx) := of_lengths 2 rfl (by decide) false rfl (by decide)
theorem awr (t : Stream) (n : AReg) (a : SSrc) : Statement (.awr t n a) := of_lengths 2 rfl (by decide) false rfl (by decide)
theorem amov (d : AReg) (a : AReg) : Statement (.amov d a) := of_lengths 2 rfl (by decide) false rfl (by decide)
theorem aadd (d : AReg) (a : AReg) (imm : BitVec 18) : Statement (.aadd d a imm) := of_lengths 2 rfl (by decide) false rfl (by decide)
theorem acset (d : AReg) (lane : Fin 4) (imm : BitVec 16) : Statement (.acset d lane imm) := of_lengths 2 rfl (by decide) false rfl (by decide)
theorem acinc (d : AReg) (lane : Fin 4) (imm : BitVec 16) : Statement (.acinc d lane imm) := of_lengths 2 rfl (by decide) false rfl (by decide)
theorem vadd (o : V3) : Statement (.vadd o) := of_lengths 3 rfl (by decide) false rfl (by decide)
theorem vsub (o : V3) : Statement (.vsub o) := of_lengths 3 rfl (by decide) false rfl (by decide)
theorem vmul (o : V3) : Statement (.vmul o) := of_lengths 3 rfl (by decide) false rfl (by decide)
theorem vmin (o : V3) : Statement (.vmin o) := of_lengths 3 rfl (by decide) false rfl (by decide)
theorem vmax (o : V3) : Statement (.vmax o) := of_lengths 3 rfl (by decide) false rfl (by decide)
theorem vabs (o : V3u) : Statement (.vabs o) := of_lengths 3 rfl (by decide) false rfl (by decide)
theorem vneg (o : V3u) : Statement (.vneg o) := of_lengths 3 rfl (by decide) false rfl (by decide)
theorem vcpsgn (o : V3) : Statement (.vcpsgn o) := of_lengths 3 rfl (by decide) false rfl (by decide)
theorem vfma (o : V3) : Statement (.vfma o) := of_lengths 3 rfl (by decide) false rfl (by decide)
theorem vfms (o : V3) : Statement (.vfms o) := of_lengths 3 rfl (by decide) false rfl (by decide)
theorem vfnma (o : V3) : Statement (.vfnma o) := of_lengths 3 rfl (by decide) false rfl (by decide)
theorem vrcp (o : V3u) : Statement (.vrcp o) := of_lengths 3 rfl (by decide) false rfl (by decide)
theorem vsqrt (o : V3u) : Statement (.vsqrt o) := of_lengths 3 rfl (by decide) false rfl (by decide)
theorem vrsqrt (o : V3u) : Statement (.vrsqrt o) := of_lengths 3 rfl (by decide) false rfl (by decide)
theorem vexp2 (o : V3u) : Statement (.vexp2 o) := of_lengths 3 rfl (by decide) false rfl (by decide)
theorem vlog2 (o : V3u) : Statement (.vlog2 o) := of_lengths 3 rfl (by decide) false rfl (by decide)
theorem viadd (o : V3) : Statement (.viadd o) := of_lengths 3 rfl (by decide) false rfl (by decide)
theorem visub (o : V3) : Statement (.visub o) := of_lengths 3 rfl (by decide) false rfl (by decide)
theorem vimul (o : V3) : Statement (.vimul o) := of_lengths 3 rfl (by decide) false rfl (by decide)
theorem vimin (o : V3) : Statement (.vimin o) := of_lengths 3 rfl (by decide) false rfl (by decide)
theorem vimax (o : V3) : Statement (.vimax o) := of_lengths 3 rfl (by decide) false rfl (by decide)
theorem vqadd (o : V3) : Statement (.vqadd o) := of_lengths 3 rfl (by decide) false rfl (by decide)
theorem vqsub (o : V3) : Statement (.vqsub o) := of_lengths 3 rfl (by decide) false rfl (by decide)
theorem vimulh (o : V3) : Statement (.vimulh o) := of_lengths 3 rfl (by decide) false rfl (by decide)
theorem vand (o : V3) : Statement (.vand o) := of_lengths 3 rfl (by decide) false rfl (by decide)
theorem vor (o : V3) : Statement (.vor o) := of_lengths 3 rfl (by decide) false rfl (by decide)
theorem vxor (o : V3) : Statement (.vxor o) := of_lengths 3 rfl (by decide) false rfl (by decide)
theorem vandn (o : V3) : Statement (.vandn o) := of_lengths 3 rfl (by decide) false rfl (by decide)
theorem vshl (o : V3) : Statement (.vshl o) := of_lengths 3 rfl (by decide) false rfl (by decide)
theorem vshr (o : V3) : Statement (.vshr o) := of_lengths 3 rfl (by decide) false rfl (by decide)
theorem vsar (o : V3) : Statement (.vsar o) := of_lengths 3 rfl (by decide) false rfl (by decide)
theorem vcmp (cond : Cond) (d : KReg) (a : VSrc) (b : VSrc) (ta : Bool) (tb : Bool) (k : KReg) (ty : ETy) (zm : Bool) : Statement (.vcmp cond d a b ta tb k ty zm) := of_lengths 3 rfl (by decide) false rfl (by decide)
theorem vsel (d : VReg) (a : VSrc) (b : VSrc) (ta : Bool) (tb : Bool) (k : KReg) : Statement (.vsel d a b ta tb k) := of_lengths 3 rfl (by decide) false rfl (by decide)
theorem kand (d : KReg) (a : KReg) : Statement (.kand d a) := of_lengths 2 rfl (by decide) false rfl (by decide)
theorem kor (d : KReg) (a : KReg) : Statement (.kor d a) := of_lengths 2 rfl (by decide) false rfl (by decide)
theorem kxor (d : KReg) (a : KReg) : Statement (.kxor d a) := of_lengths 2 rfl (by decide) false rfl (by decide)
theorem knot (d : KReg) (a : KReg) : Statement (.knot d a) := of_lengths 2 rfl (by decide) false rfl (by decide)
theorem kmov (d : KReg) (a : KReg) : Statement (.kmov d a) := of_lengths 2 rfl (by decide) false rfl (by decide)
theorem vcvt (d : VReg) (a : VSrc) (ta : Bool) (k : KReg) (sty : ETy) (dty : ETy) (rm : RMode) (zm : Bool) : Statement (.vcvt d a ta k sty dty rm zm) := of_lengths 3 rfl (by decide) false rfl (by decide)
theorem vmov (d : VReg) (a : VSrc) : Statement (.vmov d a) := of_lengths 2 rfl (by decide) false rfl (by decide)
theorem vmovi (d : VReg) (imm : BitVec 31) : Statement (.vmovi d imm) := of_lengths 3 rfl (by decide) false rfl (by decide)
theorem vext (x : AReg) (v : VSrc) (n : Fin 1024) : Statement (.vext x v n) := of_lengths 2 rfl (by decide) false rfl (by decide)
theorem vrotr (d : VReg) (a : VSrc) (n : Fin 64) : Statement (.vrotr d a n) := of_lengths 2 rfl (by decide) false rfl (by decide)
theorem vrotc (d : VReg) (a : VSrc) (n : Fin 16) : Statement (.vrotc d a n) := of_lengths 2 rfl (by decide) false rfl (by decide)
theorem vbcr (d : VReg) (a : VSrc) (n : Fin 64) : Statement (.vbcr d a n) := of_lengths 2 rfl (by decide) false rfl (by decide)
theorem vbcc (d : VReg) (a : VSrc) (n : Fin 16) : Statement (.vbcc d a n) := of_lengths 2 rfl (by decide) false rfl (by decide)
theorem vredr (d : VReg) (a : VSrc) (op : RedOp) (ty : ETy) : Statement (.vredr d a op ty) := of_lengths 2 rfl (by decide) false rfl (by decide)
theorem vredc (d : VReg) (a : VSrc) (op : RedOp) (ty : ETy) : Statement (.vredc d a op ty) := of_lengths 2 rfl (by decide) false rfl (by decide)
theorem vtr16 (d : VReg) (a : VSrc) : Statement (.vtr16 d a) := of_lengths 2 rfl (by decide) false rfl (by decide)
theorem vperm (d : VReg) (a : VSrc) (b : VSrc) (ta : Bool) (tb : Bool) (k : KReg) (zm : Bool) : Statement (.vperm d a b ta tb k zm) := of_lengths 3 rfl (by decide) false rfl (by decide)
theorem vld (o : VMem VReg) : Statement (.vld o) := of_lengths 3 rfl (by decide) false rfl (by decide)
theorem vst (o : VMem VSrc) : Statement (.vst o) := of_lengths 3 rfl (by decide) false rfl (by decide)
theorem vgath (o : VMemX VReg) : Statement (.vgath o) := of_lengths 3 rfl (by decide) false rfl (by decide)
theorem vscat (o : VMemX VSrc) : Statement (.vscat o) := of_lengths 3 rfl (by decide) false rfl (by decide)
theorem vtld (o : VTile VReg) : Statement (.vtld o) := of_lengths 3 rfl (by decide) false rfl (by decide)
theorem vtst (o : VTile VSrc) (pub : Bool) : Statement (.vtst o pub) := of_lengths 3 rfl (by decide) false rfl (by decide)
theorem vacvt (o : VAcc VReg) (rm : RMode) : Statement (.vacvt o rm) := of_lengths 3 rfl (by decide) false rfl (by decide)
theorem vafil (o : VAcc VSrc) : Statement (.vafil o) := of_lengths 3 rfl (by decide) false rfl (by decide)
theorem vfeEmpty (v : VReg) : Statement (.vfeEmpty v) := of_lengths 2 rfl (by decide) false rfl (by decide)
theorem vfeFull (v : VReg) : Statement (.vfeFull v) := of_lengths 2 rfl (by decide) false rfl (by decide)
theorem vfeC (v : VReg) : Statement (.vfeC v) := of_lengths 1 rfl (by decide) false rfl (by decide)
theorem mma (o : MOps) (asub : Fin 16) (bsub : Fin 16) (ah : Hint) (bh : Hint) (tb : Bool) : Statement (.mma o asub bsub ah bh tb) := of_lengths 3 rfl (by decide) false rfl (by decide)
theorem mmaC (bank : BankNo) : Statement (.mmaC bank) := of_lengths 1 rfl (by decide) false rfl (by decide)
theorem mmag (o : MOps) (idx : VSrc) (ah : Hint) (bh : Hint) : Statement (.mmag o idx ah bh) := of_lengths 3 rfl (by decide) false rfl (by decide)
theorem mmk (o : MOps) (n : BitVec 8) (la : Fin 4) (lb : Fin 4) : Statement (.mmk o n la lb) := of_lengths 3 rfl (by decide) false rfl (by decide)
theorem mres (bank : BankNo) (a : AReg) : Statement (.mres bank a) := of_lengths 2 rfl (by decide) false rfl (by decide)
theorem msca (d : BankNo) (src : BankNo) (scale : VSrc) (mode : ScaMode) : Statement (.msca d src scale mode) := of_lengths 3 rfl (by decide) false rfl (by decide)
theorem mrnm (bank : BankNo) (k : BitVec 12) : Statement (.mrnm bank k) := of_lengths 2 rfl (by decide) false rfl (by decide)
theorem mzero (bank : BankNo) (n : Fin 64) (imm : BitVec 12) : Statement (.mzero bank n imm) := of_lengths 2 rfl (by decide) false rfl (by decide)
theorem manch (bank : BankNo) (imm : BitVec 12) : Statement (.manch bank imm) := of_lengths 2 rfl (by decide) false rfl (by decide)
theorem mcopy (d : BankNo) (src : BankNo) : Statement (.mcopy d src) := of_lengths 2 rfl (by decide) false rfl (by decide)
theorem aalloc (bank : BankNo) (n : Fin 64) (wait : Bool) : Statement (.aalloc bank n wait) := of_lengths 2 rfl (by decide) false rfl (by decide)
theorem afree (bank : BankNo) (n : Fin 64) : Statement (.afree bank n) := of_lengths 2 rfl (by decide) false rfl (by decide)
theorem aband (bank : BankNo) (q : BankNo) (owners : BitVec 12) : Statement (.aband bank q owners) := of_lengths 2 rfl (by decide) false rfl (by decide)
theorem msync (bank : BankNo) : Statement (.msync bank) := of_lengths 2 rfl (by decide) false rfl (by decide)
theorem mstb (a : AReg) (per : BitVec 12) : Statement (.mstb a per) := of_lengths 2 rfl (by decide) false rfl (by decide)
theorem mstamp (off : BitVec 9) : Statement (.mstamp off) := of_lengths 1 rfl (by decide) false rfl (by decide)
theorem gload (a : AReg) : Statement (.gload a) := of_lengths 2 rfl (by decide) false rfl (by decide)
theorem gslot (bank : BankNo) (n : BitVec 7) : Statement (.gslot bank n) := of_lengths 2 rfl (by decide) false rfl (by decide)
theorem gxwin (v : Fin 512) (bf16 : Bool) : Statement (.gxwin v bf16) := of_lengths 2 rfl (by decide) false rfl (by decide)
theorem geval (lvl : Fin 16) : Statement (.geval lvl) := of_lengths 2 rfl (by decide) false rfl (by decide)
theorem grow (a : AReg) (bank : BankNo) (ovw : Bool) (n : Fin 32) : Statement (.grow a bank ovw n) := of_lengths 2 rfl (by decide) false rfl (by decide)
theorem cpy (dst : AReg) (src : AReg) (len : AReg) (sw : SwF) (rd : Fin 4) : Statement (.cpy dst src len sw rd) := of_lengths 3 rfl (by decide) false rfl (by decide)
theorem cpy2 (dst : AReg) (src : AReg) (len : AReg) (sw : SwF) (rd : Fin 4) (dim : Dim2) : Statement (.cpy2 dst src len sw rd dim) := of_lengths 3 rfl (by decide) false rfl (by decide)
theorem cpyf (dst : AReg) (src : AReg) (len : AReg) (sw : SwF) (rd : Fin 4) (size : Size) : Statement (.cpyf dst src len sw rd size) := of_lengths 3 rfl (by decide) false rfl (by decide)
theorem cpyxExp (dst : AReg) (src : AReg) (len : AReg) (sw : SwF) (rd : Fin 4) (dim : Dim2) : Statement (.cpyxExp dst src len sw rd dim) := of_lengths 3 rfl (by decide) false rfl (by decide)
theorem cpyxPack (dst : AReg) (src : AReg) (len : AReg) (sw : SwF) (rd : Fin 4) (dim : Dim2) : Statement (.cpyxPack dst src len sw rd dim) := of_lengths 3 rfl (by decide) false rfl (by decide)
theorem cpyt (coord : AReg) (deliver : Option AReg) (sw : SwF) (rd : Fin 4) (slot : TSlot) (xv : Bool) (hint : Hint) : Statement (.cpyt coord deliver sw rd slot xv hint) := of_lengths 3 rfl (by decide) false rfl (by decide)
theorem cpyw (coord : AReg) (sw : SwF) (slot : TSlot) (xv : Bool) (last : Bool) : Statement (.cpyw coord sw slot xv last) := of_lengths 3 rfl (by decide) false rfl (by decide)
theorem cpyrGet (dst : AReg) (src : AReg) (len : AReg) (sw : SwF) (rd : Fin 4) (tok : AReg) (tgt : AReg) : Statement (.cpyrGet dst src len sw rd tok tgt) := of_lengths 3 rfl (by decide) false rfl (by decide)
theorem cpyrPut (dst : AReg) (src : AReg) (len : AReg) (sw : SwF) (rd : Fin 4) (tok : AReg) (tgt : AReg) (op : PutOp) : Statement (.cpyrPut dst src len sw rd tok tgt op) := of_lengths 3 rfl (by decide) false rfl (by decide)
theorem cpyhRd (dst : AReg) (src : AReg) (len : AReg) (sw : SwF) (rd : Fin 4) (win : AReg) : Statement (.cpyhRd dst src len sw rd win) := of_lengths 3 rfl (by decide) false rfl (by decide)
theorem cpyhWr (dst : AReg) (src : AReg) (len : AReg) (sw : SwF) (rd : Fin 4) (win : AReg) : Statement (.cpyhWr dst src len sw rd win) := of_lengths 3 rfl (by decide) false rfl (by decide)
theorem tcpin (o : TileF) : Statement (.tcpin o) := of_lengths 3 (tile_len _ o) (by decide) false rfl (by decide)
theorem tcunp (o : TileF) : Statement (.tcunp o) := of_lengths 3 (tile_len _ o) (by decide) false rfl (by decide)
theorem tcinv (o : TileF) : Statement (.tcinv o) := of_lengths 3 (tile_len _ o) (by decide) false rfl (by decide)
theorem tcfls (o : TileF) : Statement (.tcfls o) := of_lengths 3 (tile_len _ o) (by decide) false rfl (by decide)
theorem tcitn (addr : AReg) (cnt : AReg) (hint : Hint) (win : BitVec 6) : Statement (.tcitn addr cnt hint win) := of_lengths 3 rfl (by decide) false rfl (by decide)
theorem tcqry (d : AReg) (slot : TSlot) (coord : AReg) (xv : Bool) : Statement (.tcqry d slot coord xv) := of_lengths 3 rfl (by decide) false rfl (by decide)
theorem swadd (sw : AReg) (amt : AReg) : Statement (.swadd sw amt) := of_lengths 3 rfl (by decide) false rfl (by decide)
theorem scalarResultArrival (core : CoreId) (slot : SlotId) (tag : Nat) : Statement (.scalarResultArrival core slot tag) := of_lengths 0 rfl (by decide) true rfl (by decide)
theorem translationWalkEnd (id : Nat) : Statement (.translationWalkEnd id) := of_lengths 0 rfl (by decide) true rfl (by decide)
theorem vectorFillLand (core : CoreId) (slot : SlotId) (v : VReg) : Statement (.vectorFillLand core slot v) := of_lengths 0 rfl (by decide) true rfl (by decide)
theorem feTimeout (x : Ctx) : Statement (.feTimeout x) := of_lengths 0 rfl (by decide) true rfl (by decide)
theorem bankLanding (core : CoreId) (slot : SlotId) (n : Nat) : Statement (.bankLanding core slot n) := of_lengths 0 rfl (by decide) true rfl (by decide)
theorem bankReadyToken (core : CoreId) (slot : SlotId) : Statement (.bankReadyToken core slot) := of_lengths 0 rfl (by decide) true rfl (by decide)
theorem bankRelease (core : CoreId) (bank : BankNo) : Statement (.bankRelease core bank) := of_lengths 0 rfl (by decide) true rfl (by decide)
theorem stampedIssue (core : CoreId) (slot : SlotId) : Statement (.stampedIssue core slot) := of_lengths 0 rfl (by decide) true rfl (by decide)
theorem replayReentry (core : CoreId) : Statement (.replayReentry core) := of_lengths 0 rfl (by decide) true rfl (by decide)
theorem tarnFillArrival (id : Nat) : Statement (.tarnFillArrival id) := of_lengths 0 rfl (by decide) true rfl (by decide)
theorem reassemblyFlit (id : Nat) (off : Fin 64) : Statement (.reassemblyFlit id off) := of_lengths 0 rfl (by decide) true rfl (by decide)
theorem itineraryPrefetch (core : CoreId) (slot : SlotId) : Statement (.itineraryPrefetch core slot) := of_lengths 0 rfl (by decide) true rfl (by decide)
theorem tileDirRequest (id : Nat) : Statement (.tileDirRequest id) := of_lengths 0 rfl (by decide) true rfl (by decide)
theorem tileVersionQuery (id : Nat) : Statement (.tileVersionQuery id) := of_lengths 0 rfl (by decide) true rfl (by decide)
theorem tileWritebackBegin (id : Nat) : Statement (.tileWritebackBegin id) := of_lengths 0 rfl (by decide) true rfl (by decide)
theorem tilePublish (id : Nat) : Statement (.tilePublish id) := of_lengths 0 rfl (by decide) true rfl (by decide)
theorem tileDropReport (id : Nat) : Statement (.tileDropReport id) := of_lengths 0 rfl (by decide) true rfl (by decide)
theorem holderForward (id : Nat) : Statement (.holderForward id) := of_lengths 0 rfl (by decide) true rfl (by decide)
theorem directoryRecallDone (home : HomeId) : Statement (.directoryRecallDone home) := of_lengths 0 rfl (by decide) true rfl (by decide)
theorem copySlotEnd (core : CoreId) (n : Nat) : Statement (.copySlotEnd core n) := of_lengths 0 rfl (by decide) true rfl (by decide)
theorem copySlotFail (core : CoreId) (n : Nat) : Statement (.copySlotFail core n) := of_lengths 0 rfl (by decide) true rfl (by decide)
theorem copySlotPause (core : CoreId) (n : Nat) : Statement (.copySlotPause core n) := of_lengths 0 rfl (by decide) true rfl (by decide)
theorem syncWordAdd (id : Nat) : Statement (.syncWordAdd id) := of_lengths 0 rfl (by decide) true rfl (by decide)
theorem generationReport (x : Ctx) : Statement (.generationReport x) := of_lengths 0 rfl (by decide) true rfl (by decide)
theorem joinAtHome (id : Nat) : Statement (.joinAtHome id) := of_lengths 0 rfl (by decide) true rfl (by decide)
theorem homeLoad (id : Nat) : Statement (.homeLoad id) := of_lengths 0 rfl (by decide) true rfl (by decide)
theorem homeStore (id : Nat) : Statement (.homeStore id) := of_lengths 0 rfl (by decide) true rfl (by decide)
theorem homeAtomic (id : Nat) : Statement (.homeAtomic id) := of_lengths 0 rfl (by decide) true rfl (by decide)
theorem storeAck (id : Nat) : Statement (.storeAck id) := of_lengths 0 rfl (by decide) true rfl (by decide)
theorem ltimeTick : Statement (.ltimeTick) := of_lengths 0 rfl (by decide) true rfl (by decide)
theorem floorBroadcast : Statement (.floorBroadcast) := of_lengths 0 rfl (by decide) true rfl (by decide)
theorem crEnqueue (id : Nat) : Statement (.crEnqueue id) := of_lengths 0 rfl (by decide) true rfl (by decide)
theorem dispatchDecision (die : DieId) : Statement (.dispatchDecision die) := of_lengths 0 rfl (by decide) true rfl (by decide)
theorem crPriorityRise (die : DieId) (n : Nat) : Statement (.crPriorityRise die n) := of_lengths 0 rfl (by decide) true rfl (by decide)
theorem crMigrate (die : DieId) : Statement (.crMigrate die) := of_lengths 0 rfl (by decide) true rfl (by decide)
theorem gangReserve (die : DieId) : Statement (.gangReserve die) := of_lengths 0 rfl (by decide) true rfl (by decide)
theorem imemFillDone (core : CoreId) (slot : SlotId) : Statement (.imemFillDone core slot) := of_lengths 0 rfl (by decide) true rfl (by decide)
theorem taskStart (core : CoreId) (slot : SlotId) : Statement (.taskStart core slot) := of_lengths 0 rfl (by decide) true rfl (by decide)
theorem taskEnd (core : CoreId) (slot : SlotId) : Statement (.taskEnd core slot) := of_lengths 0 rfl (by decide) true rfl (by decide)
theorem taskSaveDone (core : CoreId) (slot : SlotId) : Statement (.taskSaveDone core slot) := of_lengths 0 rfl (by decide) true rfl (by decide)
theorem taskRestoreDone (core : CoreId) (slot : SlotId) : Statement (.taskRestoreDone core slot) := of_lengths 0 rfl (by decide) true rfl (by decide)
theorem watchdogFire (core : CoreId) (slot : SlotId) : Statement (.watchdogFire core slot) := of_lengths 0 rfl (by decide) true rfl (by decide)
theorem energyExhausted (acct : BitVec 20) : Statement (.energyExhausted acct) := of_lengths 0 rfl (by decide) true rfl (by decide)
theorem thermalWithhold (core : CoreId) : Statement (.thermalWithhold core) := of_lengths 0 rfl (by decide) true rfl (by decide)
theorem stateLoss (core : CoreId) : Statement (.stateLoss core) := of_lengths 0 rfl (by decide) true rfl (by decide)
theorem freezeComplete (pav : PavId) : Statement (.freezeComplete pav) := of_lengths 0 rfl (by decide) true rfl (by decide)
theorem dramRequestServe (stack : StackId) (turn : DramTurn) (e0 : Nat) (e1 : Nat) : Statement (.dramRequestServe stack turn e0 e1) := of_lengths 0 rfl (by decide) true rfl (by decide)
theorem patrolRead (stack : StackId) (pc : Fin 512) (e0 : Nat) (e1 : Nat) : Statement (.patrolRead stack pc e0 e1) := of_lengths 0 rfl (by decide) true rfl (by decide)
theorem hotListScrub (stack : StackId) (n : Nat) (lo : Nat) (e0 : Nat) (e1 : Nat) : Statement (.hotListScrub stack n lo e0 e1) := of_lengths 0 rfl (by decide) true rfl (by decide)
theorem rowRemapDone (copy : RowCopy) : Statement (.rowRemapDone copy) := of_lengths 0 rfl (by decide) true rfl (by decide)
theorem scoreHalving (stack : StackId) : Statement (.scoreHalving stack) := of_lengths 0 rfl (by decide) true rfl (by decide)
theorem pressureWindow : Statement (.pressureWindow) := of_lengths 0 rfl (by decide) true rfl (by decide)
theorem oldFlit (n : Nat) : Statement (.oldFlit n) := of_lengths 0 rfl (by decide) true rfl (by decide)
theorem noticeReceive (core : CoreId) (payload : BitVec 512) : Statement (.noticeReceive core payload) := of_lengths 0 rfl (by decide) true rfl (by decide)
theorem shulosFrameReceive (port : PortId) (f : ShulosFrame) : Statement (.shulosFrameReceive port f) := of_lengths 0 rfl (by decide) true rfl (by decide)
theorem shulosAckSend (port : PortId) : Statement (.shulosAckSend port) := of_lengths 0 rfl (by decide) true rfl (by decide)
theorem shulosRetransmit (port : PortId) : Statement (.shulosRetransmit port) := of_lengths 0 rfl (by decide) true rfl (by decide)
theorem linkDownTimer (port : PortId) : Statement (.linkDownTimer port) := of_lengths 0 rfl (by decide) true rfl (by decide)
theorem linkTrained (port : PortId) (view : View) : Statement (.linkTrained port view) := of_lengths 0 rfl (by decide) true rfl (by decide)
theorem linkViewReceive (port : PortId) (view : View) : Statement (.linkViewReceive port view) := of_lengths 0 rfl (by decide) true rfl (by decide)
theorem linkLoss (port : PortId) : Statement (.linkLoss port) := of_lengths 0 rfl (by decide) true rfl (by decide)
theorem peerLost (port : PortId) : Statement (.peerLost port) := of_lengths 0 rfl (by decide) true rfl (by decide)
theorem remoteIngress (r : RemoteReq) : Statement (.remoteIngress r) := of_lengths 0 rfl (by decide) true rfl (by decide)
theorem remoteResponse (id : Nat) (code : BitVec 8) (data : List Byte) (ver : BitVec 16) : Statement (.remoteResponse id code data ver) := of_lengths 0 rfl (by decide) true rfl (by decide)
theorem deviceReset (fwOk : Bool) (dramOk : Bool) (portsUp : BitVec 16) : Statement (.deviceReset fwOk dramOk portsUp) := of_lengths 0 rfl (by decide) true rfl (by decide)
theorem hostFrameReceive (f : HostFrame) : Statement (.hostFrameReceive f) := of_lengths 0 rfl (by decide) true rfl (by decide)
theorem neighbourEchoReply (f : HostFrame) : Statement (.neighbourEchoReply f) := of_lengths 0 rfl (by decide) true rfl (by decide)
theorem actMessageReceive (pav : PavId) (msg : List Byte) : Statement (.actMessageReceive pav msg) := of_lengths 0 rfl (by decide) true rfl (by decide)
theorem imgReg (pav : PavId) (seq : Word32) (va : Word64) (len : Word64) (base : Word32) : Statement (.imgReg pav seq va len base) := of_lengths 0 rfl (by decide) true rfl (by decide)
theorem imgDrop (pav : PavId) (seq : Word32) (handle : BitVec 16) : Statement (.imgDrop pav seq handle) := of_lengths 0 rfl (by decide) true rfl (by decide)
theorem actLaunch (pav : PavId) (seq : Word32) (r : LaunchRec) : Statement (.actLaunch pav seq r) := of_lengths 0 rfl (by decide) true rfl (by decide)
theorem mbox (pav : PavId) (seq : Word32) (core : BitVec 16) (r : LaunchRec) : Statement (.mbox pav seq core r) := of_lengths 0 rfl (by decide) true rfl (by decide)
theorem statusLaunch (pav : PavId) (seq : Word32) (id : Word64) : Statement (.statusLaunch pav seq id) := of_lengths 0 rfl (by decide) true rfl (by decide)
theorem statusPavilion (pav : PavId) (seq : Word32) (id : Word64) : Statement (.statusPavilion pav seq id) := of_lengths 0 rfl (by decide) true rfl (by decide)
theorem statusCounters (pav : PavId) (seq : Word32) (id : Word64) : Statement (.statusCounters pav seq id) := of_lengths 0 rfl (by decide) true rfl (by decide)
theorem nqCreate (pav : PavId) (seq : Word32) (q : BitVec 8) (window : Word32) (rate : Word32) (ip : BitVec 128) (port : BitVec 16) : Statement (.nqCreate pav seq q window rate ip port) := of_lengths 0 rfl (by decide) true rfl (by decide)
theorem nqDestroy (pav : PavId) (seq : Word32) (q : BitVec 8) : Statement (.nqDestroy pav seq q) := of_lengths 0 rfl (by decide) true rfl (by decide)
theorem winHostCreate (pav : PavId) (seq : Word32) (idx : BitVec 16) (qp : Word32) (raddr : Word64) (rkey : Word32) (len : Word64) (ip : BitVec 128) : Statement (.winHostCreate pav seq idx qp raddr rkey len ip) := of_lengths 0 rfl (by decide) true rfl (by decide)
theorem winHostDestroy (pav : PavId) (seq : Word32) (idx : BitVec 16) : Statement (.winHostDestroy pav seq idx) := of_lengths 0 rfl (by decide) true rfl (by decide)
theorem winDeviceCreate (pav : PavId) (seq : Word32) (idx : BitVec 16) (va : Word64) (len : Word64) (rights : BitVec 8) : Statement (.winDeviceCreate pav seq idx va len rights) := of_lengths 0 rfl (by decide) true rfl (by decide)
theorem winDeviceDestroy (pav : PavId) (seq : Word32) (idx : BitVec 16) : Statement (.winDeviceDestroy pav seq idx) := of_lengths 0 rfl (by decide) true rfl (by decide)
theorem attest (pav : PavId) (seq : Word32) (nonce : BitVec 256) : Statement (.attest pav seq nonce) := of_lengths 0 rfl (by decide) true rfl (by decide)
theorem notifyAck (pav : PavId) (seq : Word32) : Statement (.notifyAck pav seq) := of_lengths 0 rfl (by decide) true rfl (by decide)
theorem notificationSend (pav : PavId) (q : BitVec 8) : Statement (.notificationSend pav q) := of_lengths 0 rfl (by decide) true rfl (by decide)
theorem notificationRetransmit (pav : PavId) (seq : Word32) : Statement (.notificationRetransmit pav seq) := of_lengths 0 rfl (by decide) true rfl (by decide)
theorem hostRdmaWrite (pav : PavId) (win : BitVec 8) (off : Nat) (data : List Byte) : Statement (.hostRdmaWrite pav win off data) := of_lengths 0 rfl (by decide) true rfl (by decide)
theorem hostRdmaRead (pav : PavId) (win : BitVec 8) (off : Nat) (len : Nat) : Statement (.hostRdmaRead pav win off len) := of_lengths 0 rfl (by decide) true rfl (by decide)
theorem pavCreate (pav : PavId) (seq : Word32) (net : NetCfg) (rtab : Word64) (rtlen : Word32) (shost : BitVec 16) (sdram : BitVec 16) (sinj : BitVec 16) (troot : Word64) (ranges : List (Word64 × Word64)) (keys : List (List Byte)) : Statement (.pavCreate pav seq net rtab rtlen shost sdram sinj troot ranges keys) := of_lengths 0 rfl (by decide) true rfl (by decide)
theorem pavDestroy (seq : Word32) (pav : BitVec 8) : Statement (.pavDestroy seq pav) := of_lengths 0 rfl (by decide) true rfl (by decide)
theorem freeze (seq : Word32) (pav : BitVec 8) : Statement (.freeze seq pav) := of_lengths 0 rfl (by decide) true rfl (by decide)
theorem unfreeze (seq : Word32) (pav : BitVec 8) : Statement (.unfreeze seq pav) := of_lengths 0 rfl (by decide) true rfl (by decide)
theorem reset (seq : Word32) (pav : BitVec 8) : Statement (.reset seq pav) := of_lengths 0 rfl (by decide) true rfl (by decide)
theorem memstatErrorRing (seq : Word32) (sel : BitVec 8) (clr : Bool) : Statement (.memstatErrorRing seq sel clr) := of_lengths 0 rfl (by decide) true rfl (by decide)
theorem memstatDeadlines (seq : Word32) (sel : BitVec 8) (clr : Bool) : Statement (.memstatDeadlines seq sel clr) := of_lengths 0 rfl (by decide) true rfl (by decide)
theorem memstatHotList (seq : Word32) (sel : BitVec 8) (clr : Bool) (start : Word32) : Statement (.memstatHotList seq sel clr start) := of_lengths 0 rfl (by decide) true rfl (by decide)
theorem shares (seq : Word32) (pav : BitVec 8) (shost : BitVec 16) (sdram : BitVec 16) (sinj : BitVec 16) : Statement (.shares seq pav shost sdram sinj) := of_lengths 0 rfl (by decide) true rfl (by decide)
theorem counters (seq : Word32) (pav : BitVec 8) (clr : Bool) : Statement (.counters seq pav clr) := of_lengths 0 rfl (by decide) true rfl (by decide)
theorem nodecfg (seq : Word32) (node : BitVec 16) (etype : BitVec 16) (ents : List (BitVec 16 × BitVec 16)) : Statement (.nodecfg seq node etype ents) := of_lengths 0 rfl (by decide) true rfl (by decide)
theorem pavmem (seq : Word32) (pav : BitVec 8) (mflags : BitVec 8) (troot : Word64) (ranges : List (Word64 × Word64)) : Statement (.pavmem seq pav mflags troot ranges) := of_lengths 0 rfl (by decide) true rfl (by decide)
theorem pavnet (seq : Word32) (net : NetCfg) : Statement (.pavnet seq net) := of_lengths 0 rfl (by decide) true rfl (by decide)
theorem errring (seq : Word32) (stack : BitVec 8) (va : Word64) : Statement (.errring seq stack va) := of_lengths 0 rfl (by decide) true rfl (by decide)
theorem mgmtcfg (seq : Word32) (net : NetCfg) : Statement (.mgmtcfg seq net) := of_lengths 0 rfl (by decide) true rfl (by decide)
theorem grantkey (seq : Word32) (pav : BitVec 8) : Statement (.grantkey seq pav) := of_lengths 0 rfl (by decide) true rfl (by decide)
theorem routerPortAssignment (plane : Fin 4) : Statement (.routerPortAssignment plane) := of_lengths 0 rfl (by decide) true rfl (by decide)
theorem rocev2Retransmit (core : CoreId) (n : Nat) (lost : Bool) : Statement (.rocev2Retransmit core n lost) := of_lengths 0 rfl (by decide) true rfl (by decide)
theorem coreStateCleared (core : CoreId) : Statement (.coreStateCleared core) := of_lengths 0 rfl (by decide) true rfl (by decide)
theorem powerLoss : Statement (.powerLoss) := of_lengths 0 rfl (by decide) true rfl (by decide)

end Sys2Proof.Laws.Parcels
end

