-- ==== Sys2Proof/Tests/Slice0.lean ====
section
/-!
SUPPORT. Tests of the model, and witnesses: for each statement that has hypotheses, a state and operands that meet them together.
The expected values of the tests are those of the spec's tables and worked examples.
-/

namespace Sys2Proof.Tests
open Sys2Proof Sys2Proof.Machine Sys2Proof.Claim
-- one theorem at a time: the evaluations of many at once would need a thread and its stack each
set_option Elab.async false

/-! ## Small states -/

/-- A task of pavilion 0 whose stream k is in a block of the given parcels. -/
def inBlock (k : Stream) (ps : List Parcel) : Task :=
  { newTask 0 1 probeCr noEff 7 none 0 0 [] with strm := mset k.code (probeStream false ps) [] }

/-- The device with one task, in slot 0 of core 0, whose stream k has its turn. -/
def on (k : Stream) (t : Task) : State :=
  ({ State.reset with stage := .running, cur := { core := 0, slot := 0, stream := k } } : State).setTask 0 0 t

/-- What some fact says of the next state of an outcome. -/
def after (o : Out) (f : State → Bool) : Bool :=
  match o with
  | .next s => f s
  | _ => false

/-- The current task after an instruction. -/
def task (o : Out) (f : Task → Bool) : Bool := after o (fun s => match s.curTask with | some t => f t | none => false)


/-! ## Scalar instructions -/

/-- A task with S4 = 10000 hex, S5 = 7 and queue Q1 = 3. -/
def sTask : Task := { inBlock .s [0, 0, 0, 0] with s := [(4, 0x10000), (5, 7), (15, 100)], q := [3] }

theorem test_can_issue : CanIssue (on .s sTask) sTask [.s 4, .q 15] (.s 15) := ⟨rfl, rfl, rfl, rfl⟩
theorem test_can_issue_none : CanIssue (on .s sTask) sTask [.q 0] .none := ⟨rfl, rfl, rfl, rfl⟩
theorem test_can_issue_bfi : CanIssue (on .s sTask) sTask [.s 15, .s 0] (.s 15) := ⟨rfl, rfl, rfl, rfl⟩
theorem test_frame_meets : (on .s sTask).curTask = some sTask ∧ (on .s sTask).cur.stream = .s ∧ ∃ s', wrote (on .s sTask) (.s 15) 9 2 = .next s' :=
  ⟨rfl, rfl, _, rfl⟩
theorem test_divider_free : (on .s sTask).curCore.divAt.toNat ≤ (on .s sTask).cyc.toNat := by decide

-- Table 4-5: LUI S4, #0x3B2A1, then ADDI S4, S4, #0x1210
theorem test_lui : task (exec (.lui (.s 4) 0x3B2A1) (on .s sTask)) (fun t => t.sreg 4 = 0x76542000) := by decide
-- R100: LI S5, #-3
theorem test_li : task (exec (.li (.s 5) 0x7FFFFFFD) (on .s sTask)) (fun t => t.sreg 5 = 0xFFFFFFFFFFFFFFFD) := by decide
-- R96: division by zero gives all ones, the remainder the dividend
theorem test_div_zero : task (exec (.div ⟨.s 3, .s 4, .s 0, false⟩) (on .s { sTask with s := [(4, 9)] })) (fun t => t.sreg 3 = BitVec.allOnes 64) := by decide


/-! ## Control -/

/-- The same device where the task's image holds, at parcel 4, a header of stream n with one repeat and a body of one parcel. -/
def coded (n : Nat) (k : Stream) (t : Task) : State :=
  ({ on k t with images := [(0, { pav := 0, base := 0, code := List.replicate 8 0, entry := 0, manifest := [], dropping := false })] }
    : State).modCore 0 (fun x => { x with imem := [(2, 1), (4, BitVec.ofNat 16 (0xC000 + n * 2 ^ 12 + 8)), (5, 0x0100)] })

theorem test_branch_taken_meets : (coded 0 .s sTask).curTask = some sTask ∧ sTask.ready [.s 5, .s 5] = true
    ∧ sTask.src (.s 5) = sTask.src (.s 5) ∧ GoodTarget (coded 0 .s sTask) sTask ((coded 0 .s sTask).curSt.pc.toNat + (2 : BitVec 14).toInt) :=
  ⟨rfl, rfl, rfl, by unfold GoodTarget; decide⟩
theorem test_branch_not_taken_meets : sTask.ready [.s 5, .s 0] = true ∧ ¬ sTask.src (.s 5) = sTask.src (.s 0) := by decide
theorem test_order_taken_meets : sTask.src (.s 5) ≠ sTask.src (.s 4) ∧ (sTask.src (.s 5)).toInt < (sTask.src (.s 4)).toInt
    ∧ (sTask.src (.s 5)).toNat < (sTask.src (.s 4)).toNat ∧ (sTask.src (.s 5)).toInt ≤ (sTask.src (.s 5)).toInt := by decide
theorem test_bz_meets : sTask.srcReady (.s 1) = true ∧ sTask.src (.s 1) = 0 ∧ sTask.src (.q 0) ≠ 0 ∧ sTask.a .s 7 = 0
    ∧ ({ sTask with areg := [(aIndex .m 7, 1)] } : Task).a .m 7 ≠ 0 := by decide
theorem test_target_kinds : targetFault (coded 0 .s sTask) 0 sTask .s 4 = none ∧ targetFault (coded 1 .s sTask) 0 sTask .s 4 = some fIllegalStream
    ∧ targetFault (coded 0 .s sTask) 0 sTask .s 2 = some fIllegalTarget ∧ targetFault (coded 0 .s sTask) 0 sTask .s 8 = some fIllegalTarget
    ∧ targetFault (coded 0 .s sTask) 0 sTask .s (-1) = some fIllegalTarget := by decide
/-- S15 = 4, the address of a good target; S6 = 2^17, beyond every parcel address. -/
def jTask : Task := { sTask with s := [(6, 0x20000), (15, 4)] }
theorem test_ret_meets : (coded 0 .s jTask).curTask = some jTask ∧ jTask.dstReady (.s 15) = true ∧ jTask.srcReady (.s 15) = true
    ∧ (jTask.sreg 15).toNat < 2 ^ 17 ∧ targetFault (coded 0 .s jTask) 0 jTask .s ((jTask.sreg 15).toNat : Int) = none
    ∧ 2 ^ 17 ≤ (jTask.src (.s 6)).toNat := ⟨rfl, by decide, by decide, by decide, by decide, by decide⟩
theorem test_jumped_meets : ∃ s', jumped (on .v sTask) 4 = .next s' := ⟨_, rfl⟩

/-- A context in a block at 0 with a body of 4 parcels, about to pass parcel 4 with an instruction of 2. -/
def ctxAt (pc : BitVec 17) (l1 l2 : Option (BitVec 17 × BitVec 17)) (n0 n1 n2 : Word32) : StreamCtx :=
  { probeStream false [0, 0, 0, 0] with pc := pc, l1 := l1, l2 := l2, lc0 := n0, lc1 := n1, lc2 := n2 }
theorem test_advance_meets :
    (let x := ctxAt 2 none none 1 0 0; endsAt x.l1 (x.pc + 2) = none ∧ endsAt x.l2 (x.pc + 2) = none ∧ x.pc + 2 ≠ x.blkEnd)
    ∧ (let x := ctxAt 2 (some (2, 4)) none 1 2 0; endsAt x.l1 (x.pc + 2) = some 2 ∧ endsAt x.l2 (x.pc + 2) = none ∧ 2 ≤ x.lc1.toNat)
    ∧ (let x := ctxAt 2 (some (2, 4)) none 1 1 0; endsAt x.l1 (x.pc + 2) = some 2 ∧ endsAt x.l2 (x.pc + 2) = none ∧ x.lc1.toNat ≤ 1
        ∧ x.pc + 2 ≠ x.blkEnd)
    ∧ (let x := ctxAt 2 none (some (2, 4)) 1 0 2; endsAt x.l2 (x.pc + 2) = some 2 ∧ endsAt x.l1 (x.pc + 2) = none ∧ 2 ≤ x.lc2.toNat)
    ∧ (let x := ctxAt 2 none (some (2, 4)) 1 0 0; endsAt x.l2 (x.pc + 2) = some 2 ∧ endsAt x.l1 (x.pc + 2) = none ∧ x.lc2.toNat ≤ 1
        ∧ x.pc + 2 ≠ x.blkEnd) := by decide
theorem test_advance_meets_both_levels :
    (let x := ctxAt 4 (some (2, 6)) (some (3, 6)) 1 1 2; endsAt x.l1 (x.pc + 2) = some 2 ∧ endsAt x.l2 (x.pc + 2) = some 3 ∧ 2 ≤ x.lc2.toNat)
    ∧ (let x := ctxAt 4 (some (3, 6)) (some (2, 6)) 1 2 1; endsAt x.l1 (x.pc + 2) = some 3 ∧ endsAt x.l2 (x.pc + 2) = some 2 ∧ 2 ≤ x.lc1.toNat)
    ∧ (let x := ctxAt 4 none none 2 0 0; endsAt x.l1 (x.pc + 2) = none ∧ endsAt x.l2 (x.pc + 2) = none ∧ x.pc + 2 = x.blkEnd ∧ 2 ≤ x.lc0.toNat)
    ∧ (let x := ctxAt 4 none none 1 0 0; x.pc + 2 = x.blkEnd ∧ x.lc0.toNat ≤ 1) := by decide

/-- A task of a region with the SYSSVC right, and one of the management pavilion. -/
def svc (t : Task) : Task := { t with eff := { t.eff with sysSvc := true } }
theorem test_mfsr_meets : (on .s (svc sTask)).curTask = some (svc sTask) ∧ CanIssue (on .s (svc sTask)) (svc sTask) [] (.s 0)
    ∧ (svc sTask).eff.sysSvc = true ∧ sTask.eff.sysSvc = false := ⟨rfl, ⟨rfl, rfl, rfl, rfl⟩, rfl, rfl⟩
theorem test_mtsr_meets : sTask.srcReady (.s 5) = true ∧ sTask.src (.s 5) = 7 ∧ sTask.a .v 3 = 0 ∧ sTask.gangId = none
    ∧ (mfind sTask.cr.lacct.toNat (on .s sTask).accts).map (·.exhausted) ≠ some true
    ∧ sTask.flagged &&& 0x1F = sTask.flagged ∧ sTask.srCyc = []
    ∧ noteSr 5 16 .v sTask.srCyc = [(5, 16, 1)] ∧ Stream.s.code < 1 := by decide

theorem test_loop_meets : LoopFits (on .s (inBlock .s [0x4181, 0x4005, 0x4181, 0x4005])) false 2 ∧ (on .s sTask).curTask = some sTask
    ∧ LoopFits (on .v (inBlock .v [0x4181, 0x4005, 0x4181, 0x4005])) true 2 := by
  refine ⟨⟨rfl, by decide, by decide, by decide, by decide, ?_, ?_⟩, rfl, ⟨rfl, by decide, by decide, by decide, by decide, ?_, ?_⟩⟩ <;>
    (intro b e h; cases h)
theorem test_loop_open_meets : (on .v { sTask with strm := [(1, ctxAt 2 (some (2, 4)) none 1 1 0)] }).curSt.l1 ≠ none := by decide
theorem test_tksend_meets : effectsDone (on .s sTask) sTask .s (sTask.st .s).blkId = true ∧ (sTask.fifo .s .v).length + (15 : Fin 16).val ≤ 15
    ∧ 15 < ((sTask.setFifo .s .v [newTok (on .s sTask) sTask .s]).fifo .s .v).length + (15 : Fin 16).val := by decide
theorem test_waitgen_meets : sTask.ready [.s 4, .s 5] = true ∧ (sTask.src (.s 4)).toNat % 16 = 0 ∧ (sTask.src (.s 5)).toNat % 16 ≠ 0 := by decide

/-- A stream s at the header of `coded`, its FIFOs empty. -/
def atHead : Task := { sTask with strm := [(0, { StreamCtx.reset with phase := .atHeader, pc := 4, spawned := true })] }
theorem test_entry_meets : (coded 0 .s atHead).curTask = some atHead ∧ (atHead.st .s).phase = .atHeader
    ∧ headerFault .s 0xC0080100 = none ∧ waitPopClash .s 0xC0080100 (atHead.st .s).wait = false
    ∧ entryHolds (coded 0 .s atHead) atHead .s 0xC0080100 (atHead.st .s).wait = true ∧ (coded 0 .s atHead).curCore.engine .s = none
    ∧ chosenSlot (coded 0 .s atHead) 0 .s = some 0 := ⟨rfl, rfl, rfl, rfl, by decide, by decide, by decide⟩
-- a POP of V with an empty FIFO waits; a body length of 0 is a fault
theorem test_entry_waits_meets : entryHolds (on .s atHead) atHead .s 0xC00801E0 none = false ∧ headerFault .s 0xC0000100 = some fIllegalInsn := by
  decide
/-- A stream that has ended a block which pushes to V. -/
def draining (owed : List Stream) : Task :=
  { sTask with strm := [(0, { (probeStream false [0]) with phase := .draining .header, hdr := 0xC0080108, owed := owed })] }
theorem test_complete_meets : (on .s (draining [])).task? 0 0 = some (draining []) ∧ ((draining []).st .s).phase = .draining .header
    ∧ effectsDone (on .s (draining [])) (draining []) .s ((draining []).st .s).blkId = true
    ∧ maskStreams .s (pushMask 0xC0080108) ≠ [] ∧ (∀ j ∈ maskStreams .s (pushMask 0xC0080108), ((draining []).fifo .s j).length < 15)
    ∧ [Stream.v].Nodup ∧ ((draining [.v]).fifo .s .v).length < 15 := by
  refine ⟨rfl, rfl, by decide, by decide, by decide, by decide, by decide⟩

-- R213: MFSR of CYC; R216: LC0 written; R219: BNZ of a zero register falls through
theorem test_mfsr : task (exec (.mfsrS (.s 3) 0) { on .s sTask with cyc := 77 }) (fun t => t.sreg 3 = 77) := by decide
theorem test_bnz : task (exec (.bnzA 3 0x3FF8) (on .v (inBlock .v [0, 0, 0]))) (fun t => (t.st .v).pc = 4) := by decide
-- R217: a lane increment carries into no other lane
theorem test_acinc : task (exec (.acinc 2 1 1) (on .v { inBlock .v [0, 0] with areg := [(aIndex .v 2, 0xFFFF0000)] })) (fun t => t.a .v 2 = 0) := by
  decide


/-! ## Scalar memory accesses -/

def net0 : NetCfg := { pav := 0, pflags := 0, vlan := 0, actport := 0, ipv4 := 0, ipv6 := 0, cmdkey := 1 }
/-- Pavilion 0, of key id 1, with 2 GiB of memory and a translation root at 1000 hex. -/
def pav0 : Pav := { newPav net0 1 5 with troot := 0x1000, ranges := [(0, 0x80000000)], rtlen := 2 }
/-- The gigabyte at 0, mapped onto itself. -/
def page (c : PClass) : Leaf := { va := 0, size := 0x40000000, pa := 0, cls := c, r := true, w := true, key := 1 }
/-- The same device where die 0 holds that page for pavilion 0. -/
def paged (c : PClass) (s : State) : State :=
  { s with pavs := [(0, pav0), (128, { newPav { net0 with pav := 128 } 0 0 with troot := 0x1000 })]
           dies := [(0, { Die.reset with tc := [.leaf 0 (page c), .leaf 128 { page c with key := 0 }] })] }

theorem test_reaches : Reaches (paged .priv (on .s sTask)) sTask (smEa 0x10000 0xFF 8) 8 .read (page .priv) 0x107F8
    ∧ Reaches (paged .coh (on .s sTask)) sTask (smEa 0x10000 0x100 8) 8 .store (page .coh) 0xF800
    ∧ Reaches (paged .dev (on .s sTask)) sTask 0x10000 16 .write (page .dev) 0x10000 :=
  ⟨⟨rfl, rfl, by decide, by decide, by decide⟩, ⟨rfl, rfl, by decide, by decide, by decide⟩, rfl, rfl, by decide, by decide, by decide⟩
theorem test_unheld : Unheld (paged .priv (on .s sTask)) sTask true 0x107F8 ∧ Unheld (paged .dev (on .s sTask)) sTask false 0x10000
    ∧ sReqs (paged .dev (on .s sTask)) sTask = [] ∧ AtomicFree (paged .coh (on .s sTask)) sTask .sys 0xF800
    ∧ releaseReady (paged .coh (on .s sTask)) sTask .dev = true :=
  ⟨⟨by decide, by decide⟩, ⟨by decide, by decide⟩, by decide, ⟨⟨by decide, by decide⟩, by decide, by decide, by decide⟩, by decide⟩
theorem test_line_meets : (lineHere (paged .priv (on .s sTask)) sTask (page .priv) 0x107F8).poison = false
    ∧ cohCopy (paged .coh (on .s sTask)) 1 0xF800 = none := by decide
/-- The line of 10000 hex as the L1 of core 0 holds it. -/
def lineIn (coh : Bool) : CLine :=
  { line := 0x200, key := 1, pav := 0, coh := coh, data := List.replicate 128 9, valid := BitVec.allOnes 128, dirty := 0,
    orig := { req := 0, svc := 0, deadline := 0 }, wts := 0, rts := 5, poison := false }
def cachedHere : State := (paged .priv (on .s sTask)).modCore 0 (fun k => { k with l1 := [lineIn false] })
theorem test_in_caches : Cached (page .priv) ∧ InCaches cachedHere (page .priv) 0x10000
    ∧ InCaches (released cachedHere sTask (some .dev)) (page .priv) 0x10000
    ∧ (lineHere (released cachedHere sTask (some .dev)) sTask (page .priv) 0x10000).poison = false :=
  ⟨.inl rfl, by unfold InCaches; decide +kernel, by unfold InCaches; decide +kernel, by decide +kernel⟩
theorem test_asks : ¬ InCaches (paged .priv (on .s sTask)) (page .priv) 0x10000 ∧ Asks (paged .priv (on .s sTask)) sTask (page .priv) 0x10000
    ∧ ((paged .dev (on .s sTask)).devReady sTask).2 = true ∧ reasmFree (paged .priv (on .s sTask)) 0 = true := by
  have h : ¬ InCaches (paged .priv (on .s sTask)) (page .priv) 0x10000 := by unfold InCaches; decide
  exact ⟨h, .inl ⟨.inl rfl, h⟩, by decide, by decide⟩
/-- A valid copy of the COH line of 10000 hex in the L1 of core 0. -/
def cohLine : CLine := lineIn true
theorem test_coh_copy_meets :
    cohCopy ((paged .coh (on .s sTask)).modCore 0 (fun k => { k with l1 := [cohLine] })) 1 0x10000 = some cohLine := by decide
theorem test_scopes_meet : scopeNum .core < 2 ∧ sTask.ready [.s 4, .s 5, .q 0] = true ∧ 1 ≤ (sTask.src (.s 5)).toNat
    ∧ (sTask.src (.s 5)).toNat < 2 ^ 36 ∧ sTask.ready [.s 4] = true := by decide

/-- A result in flight for S4 in Q2. -/
def flying (r : SRes) : SPend :=
  { tag := 3, dst := .s 4, qpos := some 1, iaddr := 2, faddr := 0x10000, holds := false, acq := false, res := r }
def pTask (r : SRes) : Task := { sTask with q := List.replicate 16 0, pend := [flying r] }
theorem test_hazard_meets : ((pTask .waiting).ready [.s 4, .s 5] && (pTask .waiting).dstReady .none && (pTask .waiting).canPend) = false
    ∧ ((pTask .waiting).ready [.s 5] && (pTask .waiting).dstReady (.s 4)) = false ∧ (pTask .waiting).ready [.q 1, .s 5] = false
    ∧ ((pTask .waiting).ready [.s 5] && (pTask .waiting).dstReady .none) = true
    ∧ (on .s sTask).cyc.toNat < ({ Core.reset with divAt := 5 } : Core).divAt.toNat := by decide
theorem test_checks_meet : (smEa 0x10001 0 8).toNat % 8 ≠ 0 ∧ (0x10000 : Word64).toNat % 8 = 0
    ∧ xlate (on .s sTask) 0 0 0x10000 .read = .bad fTrans ∧ xlate (paged .rshr (on .s sTask)) 0 0 0x10000 .store = .bad fPerm
    ∧ (page .rshr).key = pav0.key ∧ (2 : Nat) ∈ ({ pav0 with retired := [2] } : Pav).retired := by decide

/-- A request of the S stream of the task in slot 0 of core 0. -/
def rq (c : PClass) (k : ReqKind) (st : ReqStage) : Req :=
  { ctx := { core := 0, slot := 0, stream := .s }, task := 7, pav := 0, orig := { req := 0, svc := 0, deadline := 0 }, blk := 0, tag := 3, iaddr := 2, va := 0x10000, pa := 0x10000, cls := c, key := 1,
    scope := .dev, rd := 0, lt := 0, kind := k, stage := st }
theorem test_store_busy_meets : storeBusy (paged .coh (on .s sTask)) sTask .coh 0xF800 = false ∧ ownLine (paged .coh (on .s sTask)) sTask 0xF800 = false
    ∧ (let s : State := { paged .coh (on .s sTask) with reqs := [(3, rq .coh (.store 1 [] false) .sent)] }
       storeBusy s sTask .coh 0x10000 = false ∧ ownLine s sTask 0x10000 = true ∧ heldBack s sTask false = false) := by decide +kernel
def asked (r : Req) : State := { paged .coh (on .s (pTask .waiting)) with reqs := [(3, r)] }
theorem test_at_home (k : ReqKind) : AtHome (asked (rq .coh k .sent)) 3 (rq .coh k .sent)
    ∧ AtHome (asked (rq .dev k .sent)) 3 (rq .dev k .sent) :=
  ⟨⟨rfl, rfl, by rfl, by rfl, .inl rfl⟩, rfl, rfl, by rfl, by rfl, .inr ⟨rfl, by rfl⟩⟩
theorem test_brings : mfind 3 (asked (rq .priv (.load 8 false false) .sent)).reqs = some (rq .priv (.load 8 false false) .sent)
    ∧ atDram (asked (rq .priv (.load 8 false false) .sent)) 3 = false := by decide
theorem test_may_write : MayWrite (asked (rq .coh .gen .sent)) (rq .coh .gen .sent) true := fun _ => by decide
theorem test_load_time_meets : beyondFloor (asked (rq .coh (.load 8 false false) .sent))
    (loadTime ((asked (rq .coh (.load 8 false false) .sent)).home (homeOf 0x10000)) 0 0x200 0 1).2 = false := by decide
theorem test_cas_meets : natOf (slice ((asked (rq .coh (.cas 4 0 1) .sent)).bytesK 1 0x10000 128) 0 4) = (0 : Word64).toNat
    ∧ natOf (slice ((asked (rq .coh (.cas 4 1 0) .sent)).bytesK 1 0x10000 128) 0 4) ≠ (1 : Word64).toNat
    ∧ 0x10000 % 128 + 16 ≤ 128 ∧ (5 : Word64).toNat < 2 ^ (8 * 4) := by decide
/-- A JOIN whose counter is n. -/
def joining (n : Byte) : State :=
  { asked (rq .coh (.join 0 1 2) .sent) with mem := if n = 0 then [] else [(0x10000, n)], memKey := if n = 0 then [] else [(0x10000, 1)] }
theorem test_join_meets : natOf (slice ((joining 2).bytesK 1 0x10000 128) 0 8) = 2 ∧ natOf (slice ((joining 1).bytesK 1 0x10000 128) 0 8) = 1
    ∧ natOf (slice ((joining 0).bytesK 1 0x10000 128) 0 8) = 0 ∧ Memory.wf (joining 2).mem = true := by decide
theorem test_join_at_home : AtHome (joining 1) 3 (rq .coh (.join 0 1 2) .sent) := ⟨rfl, rfl, by decide, by decide, .inl rfl⟩
theorem test_ack_meets : mfind 3 (asked (rq .coh (.join 0 1 2) (.done [0] 9 9 false))).reqs = some (rq .coh (.join 0 1 2) (.done [0] 9 9 false))
    ∧ (asked (rq .coh (.join 0 1 2) (.done [0] 9 9 false))).task? 0 0 = some (pTask .waiting) ∧ (pTask .waiting).taskid = 7 := ⟨rfl, rfl, rfl⟩
theorem test_dropped_meets : mfind 3 (asked (rq .coh .notifD (.done [] 0 0 false))).reqs = some (rq .coh .notifD (.done [] 0 0 false)) := rfl
theorem test_arrival_meets : (on .s (pTask (.value 1))).task? 0 0 = some (pTask (.value 1))
    ∧ (pTask (.value 1)).pend.find? (fun x => x.tag = 3) = some (flying (.value 1)) ∧ (pTask (.value 1)).q.length = 16
    ∧ (flying (.value 1)).qpos = some 1 ∧ mfind 3 (asked (rq .dev (.load 8 false false) (.done [1] 0 0 false))).reqs
        = some (rq .dev (.load 8 false false) (.done [1] 0 0 false)) ∧ 0x10000 % 128 + 8 ≤ 128 := ⟨rfl, by decide, by decide, rfl, rfl, by decide⟩
/-- A device with a walk in flight, whose memory holds a root entry and a one-gigabyte leaf. -/
def walking (m : List Host.Cell) : State :=
  { paged .coh (on .s { sTask with strm := [(0, { StreamCtx.reset with phase := .atHeader, wait := some (.gen 0x10000 0x10000 0 none) })] }) with
    mem := m, walks := [(5, { die := 0, pav := 0, va := 0x10, failed := false, asks := [] })], dies := [] }
theorem test_walk_meets : (walk (walking [(0x1000, 1), (0x1001, 0x20), (0x2000, 0x63), (0x2006, 4)]) 0 0x10000 []).isSome = true
    ∧ walk (walking []) 0 0x10000 [] = none ∧ mfind 5 (walking []).walks = some { die := 0, pav := 0, va := 0x10, failed := false, asks := [] } := by decide
theorem test_report_meets : natOf ((asked (rq .coh .gen .sent)).bytesK 1 0x10000 16) / 2 ^ 72 % 2 ^ 32 = 0
    ∧ 2 ^ 31 ≤ ((0 : Int) - (1 : Word32).toNat) % 2 ^ 32
    ∧ xlateNow (walking [(0x1000, 1), (0x1001, 0x20), (0x2000, 0x63), (0x2006, 4)]) 0 0 0x10000 .read = .ok { page .priv with cls := .priv } 0x10000 := by
  decide

-- R107: LD NONE, [S4+0] takes the eight bytes of a PRIV line in the L1, and leaves S4
theorem test_ld : task (exec (.ld ⟨.none, .s 4, .b8, false, 0, 0⟩) cachedHere)
    (fun t => t.q.head? = some 0x0909090909090909 && t.sreg 4 = 0x10000) := by decide
-- R109: a misaligned access faults with ALIGN_FAULT at its address
/-- A task of a region that reports and continues, with a fault queue of 16 records at 8000 hex. -/
def reporting (t : Task) : Task := { t with eff := { t.eff with policy := 1, fq := 0x8000, storm := 9 } }
def queued (s : State) : State := { paged .coh s with mem := [(0x8000, 16)], memKey := [(0x8000, 1)] }
theorem test_st_misaligned : task (exec (.st ⟨.s 5, .s 5, .b2, 0, 0⟩) (queued (on .s (reporting sTask)))) (fun t => t.stopped && t.fault = fAlign) := by
  decide
-- Table 19-2, R376: the record's first byte is the fault's code, and HEAD is 1
theorem test_fault_record : after (exec (.trap 0x12) (queued (on .s (reporting sTask)))) (fun s =>
    memRead 0x8040 s.mem = fTrapSw && memRead 0x8004 s.mem = 1) := by decide
-- R114: a CAS at its home that finds its comparand writes the new value
theorem test_cas_home : after (exec (.homeAtomic 3) (asked (rq .coh (.cas 4 0 7) .sent))) (fun s => memRead 0x10000 s.mem = 7) := by decide
-- R233: a JOIN takes one from its counter
theorem test_join_home : after (exec (.joinAtHome 3) (joining 2)) (fun s => memRead 0x10000 s.mem = 1 && s.crsubs.isEmpty) := by decide


/-! ## System -/

theorem test_spawn_meets : (on .s sTask).curCore.filling = [] ∧ (sTask.st .v).phase = .halted ∧ (sTask.st .s).phase ≠ .halted
    ∧ ((coded 1 .s sTask).curCore.parcel 4).toNat / 2 ^ 14 = 3 ∧ ((coded 1 .s sTask).curCore.parcel 4).toNat / 2 ^ 12 % 4 = Stream.v.code
    ∧ ((coded 0 .s sTask).curCore.parcel 4).toNat / 2 ^ 12 % 4 = Stream.s.code ∧ ((coded 0 .s sTask).curCore.parcel 2).toNat / 2 ^ 14 ≠ 3
    ∧ (coded 1 .s sTask).curSt.pc.toNat + (2 : BitVec 22).toInt = 4 := by decide
theorem test_fork_meets : Reaches (paged .coh (on .s sTask)) sTask (sTask.src (.s 4)) 32 .read (page .coh) 0x10000
    ∧ Reaches (paged .priv (on .s sTask)) sTask (sTask.src (.s 4)) 64 .read (page .priv) 0x10000
    ∧ heldBack (paged .coh (on .s sTask)) sTask true = false ∧ lineOf 0x10000 ∉ ((released (paged .coh (on .s sTask)) sTask (some .dev)).settle (fun r => r.pa = 0x10000)).poison :=
  ⟨⟨rfl, rfl, by decide, by decide, by decide⟩, ⟨rfl, rfl, by decide, by decide, by decide⟩, by decide, by decide⟩
def emptyNq : NQueue := { window := 0, rate := 1, ip := 0, port := 0, vals := [], dropped := 0, dropSince := none, sent := (0, 0) }
def withNq (s : State) : State := { paged .coh s with pavs := [(0, { pav0 with nqs := [(7, emptyNq)] })] }
theorem test_hnotify_meets : sTask.ready [.s 5, .s 4] = true ∧ (sTask.src (.s 5)).toNat = 7 ∧ releaseReady (withNq (on .s sTask)) sTask .sys = true
    ∧ (withNq (on .s sTask)).pav? 0 = some { pav0 with nqs := [(7, emptyNq)] } ∧ mfind 7 [(7, emptyNq)] = some emptyNq ∧ emptyNq.vals.length < 256
    ∧ mfind 7 pav0.nqs = none := by decide

/-- A device that is node n, whose port 15 leads to node 2. -/
def noded (n : BitVec 16) (s : State) : State := { s with dev := { s.dev with node := some n, nodes := [(2, 0x8000)] } }
/-- A global address: pavilion 3 of node 2, window offset 1000 hex in S4; bit 59 set in S5. -/
def gTask : Task := { inBlock .s [0, 0, 0] with s := [(4, 0x0030002000001000), (5, 0x0800000000000000), (6, 0x0030002000001001)] }
theorem test_remote_meets : (gTask.src (.s 4)).toNat < 2 ^ 59 ∧ (gTask.src (.s 4)).toNat % 8 = 0
    ∧ (gTask.src (.s 4)).toNat / 2 ^ 36 % 2 ^ 16 = 2 ∧ routeFor (released (noded 2 (on .s gTask)) gTask (some .sys)) gTask.pav 2 0x1000 = .here
    ∧ routeFor (released (noded 2 (on .s gTask)) gTask (some .sys)) 128 2 0x1000 = .fail fRemoteFault
    ∧ 2 ^ 59 ≤ (gTask.src (.s 5)).toNat ∧ (gTask.src (.s 6)).toNat % 4 ≠ 0 ∧ gTask.ready [.s 4, .s 5, .s 6] = true ∧ gTask.canPend = true := by decide
theorem test_remote_out_meets : routeFor (released (noded 1 (on .s gTask)) gTask (some .sys)) gTask.pav 2 0x1000 = .out 15 := by decide

theorem test_fault_meets : (queued (on .s (reporting sTask))).task? 0 0 = some (reporting sTask)
    ∧ (fqHead (queued (on .s (reporting sTask))) 0 (reporting sTask).eff.fq).isSome = true ∧ (reporting sTask).eff.policy ≠ 0
    ∧ (reporting sTask).stopped = false ∧ (reporting sTask).saving = none := by decide
theorem test_record_meets : fqHead (queued (on .s sTask)) 0 0x8000 = some { cap := 16, head := 0, tail := 0, lost := 0 }
    ∧ (queued (on .s sTask)).pav? 0 = some pav0 ∧ Memory.wf (queued (on .s sTask)).mem = true ∧ NoWriteBacks (queued (on .s sTask))
    ∧ (∀ va, 0x8000 ≤ va → va < 0x8000 + 64 + 64 * 16 → tcLeaf ((queued (on .s sTask)).die (bridgeDie 0)).tc 0 va = some (page .coh))
    ∧ (∀ va, leafCheck pav0 .write va (page .coh) = .ok (page .coh) ((page .coh).pa + va % (page .coh).size)) := by
  refine ⟨by decide, rfl, by decide, (fun _ h => nomatch h), ?_, fun va => rfl⟩
  intro va h1 h2
  have h : va < 0 + 0x40000000 := by omega
  exact if_pos ⟨rfl, Nat.zero_le va, h⟩

/-- A second task, of TASKID 9, stopped in slot 1 of core 0, which S6 names. -/
def stoppedTask : Task := { sTask with stopped := true, fault := fTrapSw, taskid := 9, skipTo := some 4 }
def namer : Task := svc { sTask with s := [(6, 9), (5, 0)] }
theorem test_resume_meets : namedTask ((paged .coh (on .s namer)).setTask 0 1 stoppedTask) namer (namer.src (.s 6)) (namer.src (.s 5))
      = .resident 0 1 stoppedTask ∧ ((paged .coh (on .s namer)).setTask 0 1 stoppedTask).task? 0 1 = some stoppedTask
    ∧ stoppedTask.saving = none ∧ stoppedTask.gangId = none ∧ pav0.heldRegions = [] := ⟨rfl, rfl, rfl, rfl, rfl⟩
theorem test_nowhere_meets : namedTask (on .s namer) namer (namer.src (.s 6)) 0 = .nowhere
    ∧ namedTask (on .s namer) namer 7 0 = .resident 0 0 namer ∧ namer.stopped = false := ⟨rfl, rfl, rfl⟩
theorem test_sysop_meets : CanIssue ((paged .coh (on .s namer)).setTask 0 1 stoppedTask) namer [.s 6, .s 5] (.s 15) := ⟨rfl, rfl, rfl, rfl⟩

/-- A device on which entry 0 of the grant window table of pavilion 0 is a window of 16 bytes. -/
def granting (t : Task) : State :=
  { paged .coh (on .s t) with
    dies := [(0, { Die.reset with tc := [.leaf 0 { page .coh with va := 0xFFFFC0000000 }] })]
    mem := [(0x3FFE0008, 16), (0x3FFE0011, 1)], memKey := [(0x3FFE0008, 1), (0x3FFE0011, 1)] }
/-- GRANT's operands: window 0, rights read, a life of 32767; node 1, pavilion 2. -/
def grantor : Task := svc { sTask with s := [(6, 0x7FFF1000), (5, 0x20001)] }
theorem test_grant_meets : (grantWindow (granting grantor) 0 0).isSome = true ∧ (grantor.src (.s 6)).toNat < 2 ^ 32 ∧ (grantor.src (.s 5)).toNat < 2 ^ 23
    ∧ 1 ≤ (grantor.src (.s 6)).toNat / 2 ^ 16 % 2 ^ 16 ∧ (grantor.src (.s 6)).toNat / 2 ^ 16 % 2 ^ 16 ≤ 32767
    ∧ (grantor.src (.s 6)).toNat % 2 ^ 12 = 0 ∧ grantor.eff.sysSvc = true := by decide
theorem test_tlbinv_meets : (svc sTask).eff.sysSvc = true ∧ (0 : Word64).toNat / 2 ^ 16 % 256 = 0
    ∧ mfind 0 (paged .coh (on .s (svc sTask))).dies ≠ none := by decide

-- R242: RESUME lets a stopped task go on after its TRAP
theorem test_resume : after (exec (.resume (.s 3) (.s 6) (.s 5)) ((paged .coh (on .s namer)).setTask 0 1 stoppedTask)) (fun s =>
    match s.task? 0 1 with | some t => !t.stopped && (t.st .s).pc = 4 | none => false) := by decide
-- R241: without the system-service flag a SYSOP raises PRIV_OP
theorem test_priv_op : task (exec (.kill (.s 3) (.s 6) (.s 5)) (queued (on .s (reporting sTask)))) (fun t => t.fault = fPrivOp) := by decide
-- R243: window 5, read and write rights, expiry 0x0123 and the low half 0x9A3C51E7 are laid out as the spec's example token
theorem test_token : (BitVec.ofNat 64 (5 * 2 ^ 52 + 3 * 2 ^ 48 + 0x123 * 2 ^ 32 + 0x9A3C51E7) : Word64) = 0x005301239A3C51E7 := by decide


/-! ## Vectors -/

def vTask : Task := inBlock .v [0, 0, 0, 0, 0, 0]
/-- V20 empty with a fill on its way, V21 empty. -/
def eTask : Task := { vTask with empty := [20, 21], fills := [{ n := 0, parkN := 0, waited := false, v := 20, blk := 0, iaddr := 2, kind := .ready [] 0 }] }

theorem full_regs {t : Task} (h : t.v = []) : FullRegs t := fun n => by
  rw [Task.vreg, h]
  exact List.length_replicate
theorem test_vec_meets : FullRegs vTask ∧ VecCan (on .v vTask) vTask [.v 383, .colIdx] [383] ∧ VecCan (on .v vTask) vTask [.a 7] [0]
    ∧ vTask.full (.v 383) = true :=
  ⟨full_regs rfl, ⟨rfl, by decide, by decide⟩, ⟨rfl, by decide, by decide⟩, rfl⟩
theorem test_vec_none_meets : VecCan (on .v vTask) vTask [] [383] ∧ VecCan (on .v vTask) vTask [.zero, .v 5] [] ∧ ETy.i8.isFloat = false :=
  ⟨⟨rfl, by decide, by decide⟩, ⟨rfl, by decide, by decide⟩, rfl⟩
theorem test_vec_waits_meets : eTask.inWindow (.v 21) = true ∧ eTask.filling 20 = true ∧ eTask.filling 22 = false ∧ eTask.full (.v 21) = false
    ∧ eTask.full (.v 22) = true := by decide
theorem test_window_meets : ¬ (96 : VReg).val < ({ vTask with cr := { probeCr with win := 3 } } : Task).window
    ∧ (95 : VReg).val < ({ vTask with cr := { probeCr with win := 3 } } : Task).window := by decide
theorem test_vec_wrote_meets : (on .v vTask).cur.stream = .v ∧ vTask.fly = [] ∧ ∃ s', vecWrote (on .v vTask) 3 1 8 [] 60 3 = .next s' :=
  ⟨rfl, rfl, _, rfl⟩
/-- A V stream that has waited on an empty source since cycle 5. -/
def waiter : Task := { vTask with empty := [21], strm := [(1, { (probeStream false [0, 0, 0]) with feSince := some 5, feOn := [21] })] }
theorem test_timeout_meets : (on .v waiter).task? 0 0 = some waiter ∧ (waiter.st .v).feSince = some 5 ∧ (∃ n ∈ (waiter.st .v).feOn, n ∈ waiter.empty) ∧ waiter.stopped = false ∧ waiter.saving = none
    ∧ (5 : Word64).toNat + 2 ^ 24 ≤ ({ on .v waiter with cyc := 0x1000005 } : State).cyc.toNat
    ∧ ({ on .v waiter with cyc := 0x1000004 } : State).cyc.toNat < (5 : Word64).toNat + 2 ^ 24 := ⟨rfl, rfl, ⟨21, by decide, by decide⟩, rfl, rfl, by decide, by decide⟩
theorem test_fmt_meets : fmtBF16 = fmtBF16 ∧ 0x3F80 < 2 ^ (fmtBF16.eb + fmtBF16.p) ∧ decodeF fmtBF16 0x3F80 ≠ .nan ∧ decodeF fmtF16 0x7FFF = .nan := by
  decide

-- R63, R68: 1.0 + 2^-8 lies half way between two BF16 numbers and goes to the even one; RU goes up
theorem test_rne : encodeF fmtBF16 .rne (decodeF fmtF32 0x3F808000) = 0x3F80 ∧ encodeF fmtBF16 .ru (decodeF fmtF32 0x3F808000) = 0x3F81 := by decide
-- R127: a shift takes the low five bits of its amount
theorem test_knot : task (exec (.knot 1 0) (on .v vTask)) (fun t => t.kreg 1 = 0 && t.kreg 0 = BitVec.allOnes 1024) := by decide +kernel


/-! ## Vector memory, accumulators, tiles -/

/-- A V task with K1 = lane 0 only, A1 = 10000 hex, and the task slot T0 loaded with a descriptor. -/
def desc0 : List Byte :=
  bytesOf 8 0x10000 ++ bytesOf 2 5 ++ bytesOf 2 0 ++ bytesOf 2 2 ++ bytesOf 2 2 ++ bytesOf 4 4 ++ bytesOf 4 4 ++ bytesOf 2 1 ++ bytesOf 2 1
    ++ bytesOf 4 0 ++ bytesOf 8 16 ++ bytesOf 8 0 ++ bytesOf 8 0 ++ bytesOf 8 0
def mTask : Task := { vTask with k := [(1, 1)], areg := [(aIndex .v 1, 0x10000)], tslot := [(0, desc0)] }
/-- The element that lane 0 names. -/
def el0 (c : PClass) : VEl := { cell := 0, va := 0x10000, parts := [{ pa := 0x10000, n := 4, key := 1, cls := c }], shift := 0 }

theorem test_elements_meet :
    checkElems (paged .coh (on .v mTask)) 0 0 .read (rowElems .f32 (mTask.a .v 1) 0 0 (mTask.kreg 1)) = .ok [el0 .coh]
    ∧ vecMayGo (paged .coh (on .v mTask)) mTask [el0 .coh] false = true ∧ vecMayGo (paged .coh (on .v mTask)) mTask [el0 .coh] true = true
    ∧ reasmFree (paged .coh (on .v mTask)) 0 = true := by
  decide +kernel
theorem test_elements_bad_meet :
    checkElems (paged .rshr (on .v mTask)) 0 0 .store (rowElems .f32 (mTask.a .v 1) 0 0 (mTask.kreg 1)) = .bad fPerm 0x10000
    ∧ checkElems (on .v mTask) 0 0 .read (gatherElems .f32 (mTask.a .v 1) 0 (mTask.vsrc .zero) 7 (mTask.kreg 1)) = .bad fTrans 0x10000
    ∧ parks mTask fTrans = false := by decide +kernel
theorem test_dev_free_meets : DevFree (paged .coh (on .v mTask)) mTask [el0 .coh]
    ∧ (∃ e ∈ [el0 .dev], ∃ p ∈ e.parts, p.cls = .dev) ∧ ((paged .dev (on .v mTask)).devReady mTask).2 = true :=
  ⟨fun h => absurd h (by decide +kernel), by decide +kernel, by decide +kernel⟩
theorem test_store_meets : ∃ p, (el0 .coh).parts = [p] ∧ p.pa % 128 + p.n ≤ 128 ∧ 8 * p.n = ETy.f32.bits ∧ (el0 .coh).shift = 0 := ⟨_, rfl, by decide +kernel⟩
/-- A fill of V383 whose element lies on a DEV page. -/
def fillTask : Task := { vTask with empty := [383], fills := [{ n := 0, parkN := 0, waited := false, v := 383, blk := 0, iaddr := 2, kind := .mem 7 [el0 .dev] .f32 0 }] }
/-- Its line asked for and served, with an entry of the reassembly table. -/
def filled : State :=
  let q : DReq := { pa := 0x10000, write := false, key := 1, requester := 0, cls := 0, stamp := 0, since := 0, own := 7, served := true, ahead := false, pay := none }
  ((on .v fillTask).takeEntry 0 7 0x200).modStack (dramQueue 0x10000).1 (fun m => { m with queues := mset (dramQueue 0x10000).2 [q] m.queues })
theorem test_land_meets : fillTask.fills.find? (fun g => g.v = 383) = some { n := 0, parkN := 0, waited := false, v := 383, blk := 0, iaddr := 2, kind := .mem 7 [el0 .dev] .f32 0 }
    ∧ FullRegs fillTask ∧ (∀ e ∈ [el0 .dev], ∀ p ∈ e.parts, p.cls = .dev ∧ p.pa % 128 + p.n ≤ 128 ∧ lineOf p.pa ∉ filled.poison)
    ∧ ([el0 .dev].map (·.cell)).Nodup ∧ (∀ e ∈ [el0 .dev], ∀ p ∈ e.parts, Served filled 7 p.pa)
    ∧ filled.task? 0 0 = some fillTask ∧ (∀ e ∈ [el0 .dev], e.cell < 1024) ∧ (0, (7, 0x200)) ∈ (filled.core 0).reasm ∧ fillBehind fillTask { n := 0, parkN := 0, waited := false, v := 383, blk := 0, iaddr := 2, kind := .mem 7 [el0 .dev] .f32 0 } = false :=
  ⟨rfl, full_regs rfl, by decide +kernel, by decide +kernel,
    fun e he p hp => ⟨⟨_, by
      obtain rfl := List.mem_singleton.mp he
      obtain rfl := List.mem_singleton.mp hp
      rfl, rfl⟩, rfl⟩, rfl, by decide +kernel, by decide +kernel, by decide +kernel⟩
theorem test_mask_meets : cellsOf 1 = [0] := by decide +kernel

/-- A task that owns physical bank 5 as AB0, on a core where band 1 of bank 6, its AB1, is another slot's. -/
def bTask (accu : Bool) : Task := { vTask with bmap := [(0, .own 5), (1, .own 6)], eff := { noEff with accu := accu } }
def someBank : Bank :=
  { els := List.replicate 1024 zeroElem, count := 0, inexact := false, range := false, anchor := 0, rule := false, owners := none }
def banked (k : Stream) (t : Task) : State :=
  (on k t).modCore 0 (fun x => { x with banks := [(5, someBank), (6, { someBank with owners := some [0, 2, 0, 0] })] })
theorem test_bank_meets : (bTask true).phys 0 = some 5 ∧ ownsBands ((banked .v (bTask true)).curCore.bank 5) 0 none = true
    ∧ (bTask true).vOrdered 5 = true ∧ ((banked .v (bTask true)).curCore.bank 5).els.length = 1024 ∧ FullRegs (bTask true)
    ∧ lateOn (banked .v (bTask true)) 0 (bTask true) 5 = [] ∧ VecCan (banked .v (bTask true)) (bTask true) [.v 383] [] ∧ (bTask true).stopped = false ∧ (bTask true).saving = none ∧ (bTask true).eff.accu = true :=
  ⟨rfl, by decide +kernel, by decide +kernel, by decide +kernel, full_regs rfl, by decide +kernel, ⟨rfl, by decide +kernel, by decide +kernel⟩, rfl, rfl, rfl⟩
theorem test_bank_stops_meet : (bTask false).phys 63 = none ∧ (bTask false).eff.accu = false ∧ (bTask false).phys 1 = some 6
    ∧ ownsBands ((banked .v (bTask false)).curCore.bank 6) 0 (some 1) = false := by decide +kernel

/-- Tile (0, 0) of the descriptor in the tarn of die 0, at version 3. -/
def line0 : TLine :=
  { tag := tileTag mTask (readDesc desc0) 0, ver := 3, data := [1, 2], filling := false, dirty := false, rrpv := 0, lastref := 0,
    region := (0, 0), zero := false, spec := false, desc := desc0, home := some 0, pub := none }
def tarned (s : State) : State := { s with dies := s.dies.map (fun d => (d.1, { d.2 with tarn := [(0, line0)] })) }
theorem test_tile_alone_meets : tileWaits mTask line0.tag = false := by decide +kernel
theorem test_tile_hit_meets :
    lookTile (tarned (paged .coh (on .v mTask))) 0 mTask line0.tag (needOf mTask (readDesc desc0) 0 false .none 0) none = .hit 0 line0 := rfl
theorem test_tile_meets : mTask.desc 0 = some desc0 ∧ (0 : Fin 16).val < subBlocks (tyOf (readDesc desc0).ty)
    ∧ tileStall (tarned (paged .coh (on .v mTask))) mTask line0.tag (needOf mTask (readDesc desc0) 0 false .none 0) = false
    ∧ mTask.desc 31 = none ∧ subBlocks (tyOf (readDesc desc0).ty) ≤ (15 : Fin 16).val := by decide +kernel
theorem test_tile_pages_meet : (match tilePages (tarned (paged .coh (on .v mTask))) mTask (readDesc desc0)
      (maskPages (readDesc desc0) line0.tag 0 (mTask.kreg 1)) .store with | .ok _ => true | _ => false) = true
    ∧ vDevOpen (tarned (paged .coh (on .v mTask))) mTask = false := by decide +kernel
theorem test_tile_miss_meets : lookTile (paged .coh (on .v mTask)) 0 mTask line0.tag (needOf mTask (readDesc desc0) 0 false .none 0) none = .miss none
    ∧ tileStall (paged .coh (on .v mTask)) mTask line0.tag (needOf mTask (readDesc desc0) 0 false .none 0) = false
    ∧ (∃ pg, tilePages (paged .coh (on .v mTask)) mTask (readDesc desc0) (footPages (readDesc desc0) line0.tag) .read = .ok pg) := ⟨rfl, by decide +kernel, _, rfl⟩


/-! ## Copies -/

/-- A C task: A1 = 10000 hex, A2 = 16, A3 = 2^36, A4 = 7, descriptor slot T0 loaded, expecting version 3. -/
def cTask : Task :=
  { inBlock .c [0, 0, 0, 0, 0, 0] with
    areg := [(aIndex .c 1, 0x10000), (aIndex .c 2, 16), (aIndex .c 3, 0x1000000000), (aIndex .c 4, 7)]
    tslot := [(0, desc0)], tver := [(0, 3)] }
theorem test_sync_meets : SyncOk (paged .coh (on .c cTask)) cTask { sw := 1, use := true } (some (0x10000, 1))
    ∧ SyncOk (on .c cTask) cTask { sw := 0, use := false } none :=
  ⟨.inr ⟨page .coh, 0x10000, rfl, by decide, rfl, rfl, rfl⟩, .inl ⟨rfl, rfl⟩⟩
theorem test_sync_bad_meets : (cTask.a .c 4).toNat % 16 ≠ 0 ∧ (cTask.a .c 1).toNat % 16 = 0
    ∧ xlate (paged .dev (on .c cTask)) 0 0 0x10000 .write = .ok (page .dev) 0x10000 ∧ (page .dev).cls ≠ .coh := by decide
theorem test_copy_meets : (on .c cTask).curTask = some cTask ∧ (cTask.a .c 2).toNat < 2 ^ 36 ∧ ¬ (cTask.a .c 3).toNat < 2 ^ 36
    ∧ (cTask.a .c 4).toNat < 2 ^ 16 ∧ (cTask.a .c 1).toNat % 8 = 0 ∧ (cTask.a .c 2).toNat % 8 = 0 ∧ (on .c cTask).curCore.copies.length < 1024 :=
  ⟨rfl, by decide, by decide, by decide, by decide, by decide, by decide⟩
def slot0 (op : CopyOp) (st : CStage) : CopySlot :=
  { id := 0, seen := [], ctx := { core := 0, slot := 0, stream := .c }, uid := 0, task := 7, pav := 0, key := 1, region := 0, acct := 0, blk := 0, iaddr := 2,
    major := 0, state := 0, cause := 0, detail := 0, bytes := 0, count2 := 0, faddr := 0, sync := none, desc := [], rd := 0, op := op, stage := st,
    adds := [], parkN := 0, waited := false, carry := [] }
theorem test_slots_full_meets : 1024 ≤ ((on .c cTask).modCore 0 (fun k => { k with
    copies := (List.range 1024).map (fun n => (n, slot0 .itin .wait)) })).curCore.copies.length := by
  have h : ∀ l : SMap CopySlot, ((on .c cTask).modCore 0 (fun k => { k with copies := l })).curCore.copies = l := fun _ => rfl
  rw [h, List.length_map, List.length_range]

theorem test_maintenance_meets : cTask.desc 0 = some desc0 ∧ (tarned (paged .coh (on .c cTask))).line? 0 line0.tag = some (0, line0)
    ∧ line0.filling = false ∧ line0.ver = (mget 0 0 cTask.tver).toNat ∧ line0.dirty = false ∧ line0.rrpv < 8
    ∧ (needOf cTask (readDesc desc0) 0 true .none 0).exact = true ∧ pinned (tarned (paged .coh (on .c cTask))) 0 line0.tag = false
    ∧ (paged .coh (on .c cTask)).line? 0 line0.tag = none ∧ line0.tag = tileTag cTask (readDesc desc0) (cTask.a .c 0) := by decide +kernel
theorem test_itin_meets : (cTask.a .c 1).toNat % 16 = 0 ∧ (cTask.a .c 2).toNat < 2 ^ 32 := by decide

/-- A request for a line that memory has served. -/
def served1 (own pa : Nat) : DReq :=
  { pa := pa, write := false, key := 1, requester := 0, cls := 0, stamp := 0, since := 0, own := own, served := true, ahead := false, pay := none }
def withServed (own pa : Nat) (s : State) : State :=
  s.modStack (dramQueue pa).1 (fun m => { m with queues := mset (dramQueue pa).2 [served1 own pa] m.queues })
/-- A device of one page and one slot, whose lines memory has served. -/
def slotted (x : CopySlot) : State :=
  withServed 0 0x20000 (withServed 0 0x10000 ((paged .dev (on .c cTask)).modCore 0 (fun k => { k with copies := [(0, x)] })))
theorem test_slot_meets : (slotted (slot0 .itin .landed)).slot? 0 0 = some (slot0 .itin .landed)
    ∧ ownerOf (slotted (slot0 .itin .landed)) 0 = .resident 0 0 cTask := ⟨rfl, rfl⟩
theorem test_fill_slot_meets : xlateNow (slotted (slot0 (.fill 0x10000 128 8 5) .start)) 0 0 0x10000 .write = .ok (page .dev) 0x10000
    ∧ 0x10000 % 128 + 128 ≤ 128 ∧ Memory.wf (slotted (slot0 (.fill 0x10000 128 8 5) .start)).mem = true
    ∧ xlateNow (slotted (slot0 (.mem 0x10000 0x20000 128 1 0 0) .start)) 0 0 0x20000 .read = .ok (page .dev) 0x20000
    ∧ lineOf 0x20000 ∉ (slotted (slot0 (.mem 0x10000 0x20000 128 1 0 0) .start)).poison
    ∧ devHeld (slotted (slot0 (.mem 0x10000 0x20000 128 1 0 0) .start)) (slot0 (.mem 0x10000 0x20000 128 1 0 0) .start) = false
    ∧ slotFrozen (slotted (slot0 (.mem 0x10000 0x20000 128 1 0 0) .start)) (slot0 (.mem 0x10000 0x20000 128 1 0 0) .start) = false
    ∧ slotPrior (slotted (slot0 (.mem 0x10000 0x20000 128 1 0 0) .start)) (slot0 (.mem 0x10000 0x20000 128 1 0 0) .start) = []
    ∧ ((slotted (slot0 (.mem 0x10000 0x20000 128 1 0 0) .start)).devReadyAt 0 0 1).2 = true
    ∧ (tcLeaf ((slotted (slot0 .itin .start)).die 0).tc 0 0x10000).isSome = true ∧ (tcLeaf ((slotted (slot0 .itin .start)).die 0).tc 0 0x20000).isSome = true
    := by decide +kernel
theorem test_slot_served_meets : Served (slotted (slot0 .itin .start)) 0 0x10000 ∧ Served (slotted (slot0 .itin .start)) 0 0x20000 :=
  ⟨⟨⟨_, rfl, rfl⟩, rfl⟩, ⟨_, rfl, rfl⟩, rfl⟩
theorem test_failed_meets : pauses (slotted (slot0 .itin .failed)) (slot0 .itin .failed) = false ∧ cTask.stopped = false
    ∧ pauses ((on .c { cTask with eff := { noEff with recovery := true } }).modCore 0 (fun k => { k with
        copies := [(0, { slot0 .itin .failed with cause := fPerm })] })) { slot0 .itin .failed with cause := fPerm } = true := by decide
/-- A task with an itinerary of two entries of 16 bytes at 10000 hex. -/
def itinTask : Task := { cTask with itin := some { va := 0x10000, count := 2, win := 64, hint := .none, p := 0, f := 0, got := [], open_ := [] } }
def itinState (m : List Host.Cell) : State :=
  { tarned (paged .dev (on .c itinTask)) with mem := m, memKey := m.map (fun x => (x.1, 1)) }
theorem test_itin_entry_meets : (itinState [(0x10004, 1)]).readVa 0 0 0x10000 16 = some [0, 0, 0, 0, 1, 0, 0, 0, 0, 0, 0, 0, 0, 0, 0, 0]
    ∧ (itinState [(0x10001, 1), (0x10002, 3)]).readVa 0 0 0x10000 16 = some [0, 1, 3, 0, 0, 0, 0, 0, 0, 0, 0, 0, 0, 0, 0, 0]
    ∧ itinTask.desc 0 = some desc0 := by decide +kernel
theorem test_itin_hit_meets : lookTile (itinState [(0x10001, 1), (0x10002, 3)]) 0 itinTask line0.tag
    { needOf itinTask (readDesc desc0) 0 true .none 0 with ver := 3 } none = .hit 0 line0
    ∧ Machine.asked (itinState [(0x10001, 1), (0x10002, 3)]) (.prefetch 0 0 0) = false ∧ lineWaits (itinState [(0x10001, 1), (0x10002, 3)]) 0x10000 = false :=
  ⟨rfl, rfl, by decide +kernel⟩

-- Table 7-2, R182: a copy claims slot 0 and moves on
theorem test_cpy : after (exec (.cpy 1 1 2 { sw := 0, use := false } 0) (on .c cTask)) (fun s => match s.slot? 0 0 with
    | some x => x.op = .mem 0x10000 0x10000 16 1 0 0 | none => false) := by decide
-- R182: an amount past 36 bits
theorem test_swadd_operand : task (exec (.swadd 1 3) (queued (on .c (reporting cTask)))) (fun t => t.fault = fIllegalOperand) := by decide


/-! ## Matrix stream and grammar -/

/-- An M task: AB0 is bank 5, AB1 bank 7, AB2 an alias; A1 = 10000 hex. -/
def mmTask : Task :=
  { inBlock .m [0, 0, 0, 0, 0, 0] with
    bmap := [(0, .own 5), (1, .own 7), (2, .alias_ 8 1)], areg := [(aIndex .m 1, 0x10000)], eff := { noEff with banks := 4 } }
theorem test_m_meets : MCan (banked .m mmTask) mmTask ∧ Owns (banked .m mmTask) mmTask 0 5 ∧ Owns (banked .m mmTask) mmTask 1 7
    ∧ (∀ y ∈ mmTask.mq, y.open_ = false) ∧ mmTask.pendingOn [5, 7] = false ∧ mmTask.rtoks.length < 4 ∧ mmTask.drains = []
    ∧ Unstored (banked .m mmTask) :=
  ⟨⟨rfl, rfl, rfl⟩, ⟨rfl, by decide +kernel⟩, ⟨rfl, by decide +kernel⟩, by decide, by decide, by decide, rfl, by unfold Unstored; decide +kernel⟩
theorem test_m_banks_meet : (List.range 2).map (fun i => mmTask.bank (0 + i)) = [5, 7].map (fun p => some (.own p))
    ∧ anchorOf ((banked .m mmTask).curCore.bank 5) + (2047 : BitVec 12).toNat ≤ 2047
    ∧ 2047 < anchorOf ((banked .m mmTask).curCore.bank 5) + (2048 : BitVec 12).toNat ∧ mmTask.bank 63 = none
    ∧ mmTask.bank 2 = some (.alias_ 8 1) ∧ mmTask.inWindow (.v 383) = true ∧ mmTask.full (.v 383) = true ∧ mmTask.eff.accu = false := by
  decide +kernel
theorem test_m_rule_meets : (((on .m mmTask).modCore 0 (fun x => { x with banks := [(5, { someBank with rule := true })] })).curCore.bank 5).rule = true := by
  decide +kernel
/-- The same in a block that may be stamped. -/
def stampTask : Task := { mmTask with strm := [(2, { (probeStream false [0, 0, 0, 0]) with hdr := 0xE0200103 })], stamp := some 5 }
theorem test_mstamp_meets : (stampTask.st .m).hdr.getLsbD 1 = true ∧ (stampTask.st .m).pc + 1 ≠ (stampTask.st .m).blkEnd
    ∧ (stampTask.st .m).l1 = none ∧ (mmTask.st .m).hdr.getLsbD 1 = false := by decide
/-- The same with an MSTB behind its stamp. -/
def stbTask : Task := { stampTask with strm := [(2, { (probeStream false (encode (.mstb 1 2) ++ [0, 0])) with hdr := 0xE0200103 })] }
theorem test_stamped_meets : decode .m ((stbTask.st .m).lbuf.drop ((stbTask.st .m).pc - (stbTask.st .m).blk - 2).toNat) = .ok (.mstb 1 2, 2)
    ∧ canIssue (on .m stbTask) { core := 0, slot := 0, stream := .m } = true ∧ stampAt stbTask 5 ≤ ({ on .m stbTask with cyc := 5 } : State).cyc.toNat
    ∧ (on .m stbTask).cyc.toNat < stampAt stbTask 5 ∧ stbTask.mAsk = none := ⟨by decide +kernel, by decide +kernel, by decide +kernel, by decide +kernel, rfl⟩
theorem test_stamp_meets : stampAt stampTask 5 = 5 ∧ (stampTask.st .m).hdr.getLsbD 0 = true ∧ stampTask.stopped = false
    ∧ (({ stampTask with strm := [(2, { (probeStream false [0, 0]) with hdr := 0xE0200102 })] } : Task).st .m).hdr.getLsbD 0 = false := by decide
theorem test_alloc_meets : (heldBanks mmTask).length + (1 : Fin 64).val + 1 ≤ mmTask.eff.banks ∧ (2 : Nat) ≤ banksLeft (on .m mmTask) (on .m mmTask).curCore
    ∧ mmTask.eff.banks < (heldBanks mmTask).length + (2 : Fin 64).val + 1 ∧ (∀ i, i ≤ (1 : Fin 64).val → mmTask.bank (62 + i) = none) := by decide +kernel
theorem test_alloc_short_meets : banksLeft (on .m mmTask) (((on .m mmTask).modCore 0 (fun x => { x with freeing := List.range 64 })).curCore) < 1 := by
  decide +kernel
theorem test_band_meets : (∀ o ∈ (List.range 4).map (fun b => (0b010000000000 : BitVec 12).toNat / 2 ^ (3 * b) % 8), o < 4)
    ∧ 2 ∈ (List.range 4).map (fun b => (0b010000000000 : BitVec 12).toNat / 2 ^ (3 * b) % 8)
    ∧ ((banked .m mmTask).setTask 0 2 vTask).task? 0 2 = some vTask ∧ vTask.pav = mmTask.pav ∧ vTask.cr.region = mmTask.cr.region
    ∧ vTask.bank 9 = none ∧ (∀ o ∈ (List.range 4).map (fun b => (0 : BitVec 12).toNat / 2 ^ (3 * b) % 8), o = 0) := by
  refine ⟨by decide, by decide, rfl, rfl, rfl, by decide, by decide⟩

/-- BF16 descriptors of T0 and T1, their tiles present in the tarn. -/
def descM (tid : Nat) : List Byte :=
  bytesOf 8 0x10000 ++ bytesOf 2 tid ++ bytesOf 2 1 ++ bytesOf 2 2 ++ bytesOf 2 2 ++ bytesOf 4 64 ++ bytesOf 4 64 ++ bytesOf 2 1 ++ bytesOf 2 1
    ++ bytesOf 4 0 ++ bytesOf 8 128 ++ bytesOf 8 0 ++ bytesOf 8 0 ++ bytesOf 8 0
def pTaskM : Task := { mmTask with tslot := [(0, descM 5), (1, descM 6)] }
def oM (ctl : MCtl) : MOps := { bank := 0, aslot := 0, acoord := 0, bslot := 1, bcoord := 1, ctl := ctl, fmt := .bf16, xv := false }
def tileA (tid : Nat) (c : Word64) : TLine := { line0 with tag := tileTag pTaskM (readDesc (descM tid)) c, desc := descM tid, data := [1, 2] }
def prodState (t : Task) : State :=
  { paged .coh (banked .m t) with dies := [(0, { Die.reset with
      tc := [.leaf 0 (page .coh)], tarn := [(0, tileA 5 0), (1, tileA 6 0x10000)] })] }
def prodM (ctl : MCtl) : Prod := mkProd pTaskM (oM ctl) 5 (descM 5, descM 6) 0 0x10000 0 .none .none false none
theorem test_formats_meet : Formats pTaskM (oM .rdy) (descM 5) (descM 6) ∧ Formats pTaskM (oM .acc) (descM 5) (descM 6)
    ∧ statMfmt pTaskM.status = .bf16 :=
  ⟨⟨by decide +kernel, by decide +kernel, by decide +kernel, by decide +kernel⟩,
   ⟨by decide +kernel, by decide +kernel, by decide +kernel, by decide +kernel⟩, by decide⟩
theorem test_at_hand_meets : (lookOp (prodState pTaskM) 0 pTaskM (prodM .acc).atag (prodM .acc).aneed []).data = some [1, 2]
    ∧ (lookOp (prodState pTaskM) 0 pTaskM (prodM .acc).btag (prodM .acc).bneed []).data = some [1, 2]
    ∧ (prodState pTaskM).curCore.replay = [] ∧ pTaskM.inFlight (prodState pTaskM).curCore 0 < 32 ∧ replayUse (prodState pTaskM) 0 < 32
    ∧ (lookOp (paged .coh (banked .m pTaskM)) 0 pTaskM (prodM .acc).atag (prodM .acc).aneed []).data = none
    ∧ (prodState pTaskM).curCore.reasm.length + fillsNeeded (prodM .acc) (.miss none) (.miss none) ≤ 256 := by decide +kernel
theorem test_prod_pages_meet : ∃ pg, prodPages (prodState pTaskM) 0 pTaskM (prodM .acc) = .ok pg := by
  generalize h : prodPages (prodState pTaskM) 0 pTaskM (prodM .acc) = r
  have : (match prodPages (prodState pTaskM) 0 pTaskM (prodM .acc) with | .ok _ => true | _ => false) = true := by decide +kernel
  rw [h] at this
  cases r with
  | ok l => exact ⟨l, rfl⟩
  | miss _ => simp at this
  | bad _ _ => simp at this
/-- The counter record of an MMK of 3 steps stopped after step n, in the first 32 bytes of an L1 line at 10000 hex. -/
def recM (n : Nat) : List Byte :=
  match encode (.mmk (oM .acc) 3 0 1) with
  | [a, b, e] => bytesOf 2 b.toNat ++ bytesOf 2 a.toNat ++ bytesOf 2 e.toNat ++ bytesOf 2 n ++ List.replicate 112 0
  | _ => []
theorem test_run_meets : runOps (BitVec.ofNat 32 (field (recM 1) 0 4)) (BitVec.ofNat 16 (field (recM 1) 4 2))
      = some { o := oM .acc, n := 3, la := 0, lb := 1 } ∧ field (recM 3) 6 2 = 3 ∧ field (recM 4) 8 8 = 0 ∧ (recM 0).length = 120 := by decide +kernel
def mresState (n : Nat) : State := withServed (prodState pTaskM).nextId 0x10000
  { prodState pTaskM with dies := [(0, { Die.reset with tc := [.leaf 0 (page .dev)], tarn := [(0, tileA 5 1), (1, tileA 6 0x10000)] })]
                          mem := memWrites 0x10000 (recM n) [], memKey := (List.range 32).map (fun i => (0x10000 + i, 1)) }
def runM : MRun :=
  { descs := some (descM 5, descM 6), stamped := false, word := BitVec.ofNat 32 (field (recM 1) 0 4), ext := BitVec.ofNat 16 (field (recM 1) 4 2), step := 1,
    acrd := 0, bcrd := 0, bank := 0, iaddr := (pTaskM.st .m).pc, parked := false, stopped := false }
def stepM : Prod := stepProd pTaskM runM { o := oM .acc, n := 3, la := 0, lb := 1 } 5 (descM 5, descM 6)
theorem test_mres_meets : (match (mresState 1).mRead pTaskM 0x10000 32 with
    | .ok s1 bs => decide (bs = (recM 1).take 32) && decide ((lookOp s1 0 pTaskM stepM.atag stepM.aneed []).data = some [1, 2])
        && decide ((lookOp s1 0 pTaskM stepM.btag stepM.bneed []).data = some [1, 2]) && s1.curCore.replay.isEmpty
        && (match prodPages s1 0 pTaskM stepM with | .ok _ => true | _ => false)
    | _ => false) = true := by decide +kernel

/-- A change whose turn it is, behind one of another bank; a promised token; a freed bank. -/
def chg (n bank : Nat) (open_ : Bool) : Pending := { n := n, due := 0, blk := 0, bank := bank, open_ := open_, mix := [], op := .zero 3 }
def evTask : Task := { mmTask with mq := [chg 1 7 false, chg 2 5 false], rtoks := [{ after_ := 0, bank := 5, left := none }] }
theorem test_events_meet : evTask.mq = [chg 1 7 false] ++ chg 2 5 false :: [] ∧ (∀ y ∈ [chg 1 7 false], y.n ≠ (chg 2 5 false).n ∧ (chg 2 5 false).after y = false)
    ∧ (∀ x ∈ evTask.mq, x.bank ≠ 5 ∨ 0 < x.n) ∧ ((banked .m evTask).curCore.bank 5).owners = none ∧ (evTask.fifo .m .v).length < 15
    ∧ evTask.past = [] ∧ (chg 2 5 false).due ≤ (on .m evTask).cyc
    ∧ 15 ≤ ((evTask.setFifo .m .v (List.replicate 15 (newTok (on .m evTask) evTask .m))).fifo .m .v).length := by
  refine ⟨rfl, by decide +kernel, by decide +kernel, by decide +kernel, by decide, rfl, by decide, by decide⟩
theorem test_release_meets : (63 : BankNo).val ∈ ((on .m mmTask).modCore 0 (fun x => { x with freeing := [63] })).curCore.freeing := by decide
def parkedM : Parked :=
  { slot := 0, n := 9, blk := 0, iaddr := 2, prod := prodM .acc, run := none, waits := [], behind := [], recovery := false, parkN := 0, stamped := false,
    late := false, fresh := false, waited := [], took := [], known := [] }
def parkTask : Task := { pTaskM with mq := [chg 9 5 true] }
theorem test_reentry_meets : parkedReady ((prodState parkTask).modCore 0 (fun x => { x with replay := [parkedM] })) 0 parkedM = true
    ∧ parkTask.mq = [] ++ chg 9 5 true :: [] ∧ (lookOp (prodState parkTask) 0 parkTask parkedM.prod.atag parkedM.prod.aneed []).data = some [1, 2] :=
  ⟨by decide +kernel, rfl, by decide +kernel⟩

/-- A page of one rule with no symbol and one row that refers to it; its header alone is 64 bytes. -/
def pageG : List Byte :=
  bytesOf 2 1 ++ bytesOf 2 1 ++ bytesOf 4 3 ++ bytesOf 2 1 ++ bytesOf 1 0 ++ bytesOf 1 1 ++ bytesOf 4 0 ++ (List.range 15).flatMap (fun _ => bytesOf 2 1)
    ++ bytesOf 2 0 ++ bytesOf 8 0 ++ bytesOf 4 64 ++ bytesOf 4 72 ++ bytesOf 4 0 ++ bytesOf 4 1 ++ bytesOf 4 0x80000000 ++ bytesOf 4 0x40000000
    ++ bytesOf 4 0x80000000
theorem test_page_meets : headOk pageG = true ∧ tablesOk pageG = true ∧ orderFault pageG = none ∧ headOk [] = false ∧ pageG.length = 84
    -- a row that refers to a rule beyond the last
    ∧ orderFault (pageG.take 76 ++ bytesOf 4 0x40000001 ++ bytesOf 4 0x80000000) = some fRuleOrder := by decide +kernel
def pageState (b : List Byte) : State := withServed (banked .m mmTask).nextId 0x10000
  { paged .dev (banked .m mmTask) with mem := memWrites 0x10000 b [], memKey := (List.range 128).map (fun i => (0x10000 + i, 1)) }
theorem test_page_reads_meet : (match (pageState pageG).mRead mmTask 0x10000 64 with
    | .ok s1 hb => decide (hb = pageG.take 64) && (match s1.mReads mmTask ((gHead (pageG.take 64)).ranges 0x10000) with
        | .ok _ bs => decide (bs = pageG.drop 64)
        | _ => false)
    | _ => false) = true := by decide +kernel
theorem read_ok (x : MRead) (b : List Byte) (h : (match x with | .ok _ bs => decide (bs = b) | _ => false) = true) : ∃ s, x = .ok s b := by
  match x, h with
  | .ok s _, h => exact ⟨s, by rw [of_decide_eq_true h]⟩
theorem test_readable_meets : ∃ s', Readable (pageState pageG) s' mmTask 0x10000 (pageG, []) := by
  have hp : (match gPages (pageState pageG) mmTask ((gHead (pageG.take 64)).ranges 0x10000) with | .ok _ => true | _ => false) = true := by
    decide +kernel
  have hr := test_page_reads_meet
  generalize h : gPages (pageState pageG) mmTask ((gHead (pageG.take 64)).ranges 0x10000) = r at hp
  generalize h1 : (pageState pageG).mRead mmTask 0x10000 64 = r1 at hr
  match r, r1, hp, hr with
  | .ok l, .ok s1 hb, _, hr =>
    simp only [Bool.and_eq_true, decide_eq_true_eq] at hr
    obtain ⟨rfl, hr⟩ := hr
    obtain ⟨s2, h2⟩ := read_ok _ _ hr
    exact ⟨s2, s1, _, _, l, by decide, h1, by decide +kernel, h, h2, by decide +kernel⟩
/-- The page loaded, a window at V0, AB0 its slots with rule 0 evaluated or not. -/
def gramTask (ev : Bool) : Task :=
  { mmTask with gram := { page := some (pageG, []), pageVa := 0x10000, win := some (0, false), base := 0, count := 1, anchor := 0,
                          slots := if ev then [(0, { ev := true, range := false, inexact := false, cnt := 0 })] else [] } }
/-- Its bank AB0 in rule mode. -/
def gramState (t : Task) : State := (on .m t).modCore 0 (fun x => { x with banks := [(5, { someBank with rule := true }), (7, someBank)] })
theorem test_gram_meets : ruleBanks (gramState (gramTask true)).curCore (gramTask true) = [5] ∧ slotBank (gramState (gramTask true)).curCore (gramTask true) (0 / 16) = some 5 ∧ winFull (gramTask true) = true ∧ (gramTask true).pendingOn [7, 5] = false
    ∧ (gEnv (gramTask true) (slotAnchor (gramState (gramTask true)).curCore (gramTask true) 0)).isSome = true ∧ ruleRange (gHead pageG) 1 = [0] ∧ (0 : Fin 16).val + 255 < mmTask.window
    ∧ mmTask.window ≤ (511 : Fin 512).val + 255 ∧ (gHead pageG).nrow = 1 := by decide +kernel
def envG : GEnv := { page := pageG, syms := pageSyms pageG, bf16 := false, vals := [], input := winInput (gramTask true) 0, anchor := anchorOf someBank }
-- rule 0 refers to none: GEVAL completes
theorem test_geval_meets : ∀ n ∈ [0], ∀ m, ¬ refersTo envG n m := by
  intro n h m
  simp only [List.mem_singleton] at h
  subst h
  have : spanOf envG.page envG.syms 0 = [] := by decide +kernel
  rw [refersTo, this]
  exact List.not_mem_nil
-- rule 1 of this page refers to rule 0, which is not evaluated
theorem test_geval_undef_meets : refersTo envG 1 0 ∧ slotVal (gramState (gramTask false)) (gramTask false) 0 = none := by
  unfold refersTo
  decide +kernel
theorem test_grow_meets : refersTo envG (1 + 0) 0 ∧ (slotVal (gramState (gramTask true)) (gramTask true) 0).isSome = true
    ∧ Owns (gramState (gramTask true)) (gramTask true) 1 7 ∧ anchorOf someBank = slotAnchor (gramState (gramTask true)).curCore (gramTask true) (anchorOf someBank) := by
  unfold refersTo Owns
  decide +kernel

-- R168: MZERO is issued as a change of its bank's order
theorem test_mzero : task (exec (.mzero 0 0 3) (banked .m mmTask)) (fun t => changes t.mq = [(5, .zero 3, false)]) := by decide +kernel
-- R76, R153: the change's turn sets the bank's anchor and clears it
theorem test_landing : after (exec (.bankLanding 0 0 1) ((banked .m { mmTask with mq := [chg 1 5 false] }))) (fun s =>
    (((s.core 0).bank 5).anchor = 3)) := by decide +kernel


/-! ## Saved contexts, key retirement, logical time -/

/-- A task of two banks that is being saved for a pre-emption, with a result in flight or none. -/
def goneTask (p : List SPend) : Task := { sTask with saving := some 0, bmap := [(0, .own 5), (2, .alias_ 8 1)], pend := p }
def savingState (p : List SPend) : State :=
  { (paged .coh (on .s sTask)).setTask 0 0 (goneTask p) with cores := (((paged .coh (on .s sTask)).setTask 0 0 (goneTask p)).modCore 0 (fun x =>
      { x with banks := [(5, someBank)] })).cores }
theorem test_save_meets : (savingState []).task? 0 0 = some (goneTask []) ∧ stopQuiet (savingState []) (goneTask []) = true
    ∧ stopQuiet (savingState [flying .waiting]) (goneTask [flying .waiting]) = false ∧ (goneTask []).stopped = false ∧ (goneTask []).held = false
    ∧ savedQueued (savingState []) (savingState []).nextId = false ∧ (savingState []).pav? 0 = some pav0 ∧ pav0.heldRegions = [] := by decide +kernel
/-- A saved context of one bank, and the device on which it was placed on slot 2 of core 0. -/
def savedV : Saved :=
  { task := { stoppedTask with bmap := [(3, .own 9)] }, core := 0, tstop := 40, byFault := true, held := false, watchdog := false,
    banks := [(3, someBank)], parked := [parkedM], pins := [], slots := [], nexts := [], ltime := 0, released := false }
def placedBack : Starting := { pav := 0, cr := probeCr, prio := 3, floor := 0, gangId := none, saved := some 5, filled := true, ts := 0 }
def backState : State := { (paged .coh (on .s namer)).modCore 0 (fun x => { x with starting := [(2, placedBack)] }) with saved := [(5, savedV)] }
theorem test_restore_meets : mfind 2 (backState.core 0).starting = some placedBack ∧ placedBack.saved = some 5 ∧ mfind 5 backState.saved = some savedV
    ∧ placedBack.filled = true ∧ savedV.banks.length ≤ (backState.core 0).freeBanks.length ∧ (savedV.banks.map (·.1)).Nodup ∧ savedV.pins = [] ∧ savedV.released = false
    ∧ replayUse backState 0 + savedV.parked.length + savedV.task.behindOps ≤ 32 ∧ startsOn backState 0 placedBack.pav = true
    ∧ (backState.core 0).reasm.length + ((taskFills backState savedV.task.uid).filter (fun f => f.2.orphan)).length ≤ 256 := by
  decide +kernel

/-- S6 names TASKID 9, S5 holds an address in the page. -/
def snapper : Task := svc { sTask with s := [(6, 9), (5, 0x10000), (4, 0)] }
def snapState : State := (paged .coh (on .s snapper)).setTask 0 1 stoppedTask
theorem test_snap_meets : CanIssue snapState snapper [.s 6, .s 5] (.s 15) ∧ snapper.eff.sysSvc = true
    ∧ stoppedView snapState snapper (snapper.src (.s 6)) = some (residentView snapState 0 1 stoppedTask)
    ∧ stoppedView snapState snapper (snapper.src (.s 5)) = none ∧ ((0, 1) : Nat × Nat) ≠ (snapState.cur.core.val, snapState.cur.slot.val) :=
  ⟨⟨rfl, rfl, rfl, rfl⟩, rfl, rfl, rfl, by decide⟩
theorem test_snap_saved_meets : stoppedView backState namer (namer.src (.s 6)) = some (savedV.view backState)
    ∧ namedTask backState namer (namer.src (.s 6)) 0 = .saved 5 savedV ∧ namedTask snapState namer (namer.src (.s 6)) (namer.src (.s 5)) = .resident 0 1 stoppedTask
    ∧ stoppedTask.fills = [] ∧ taskSlots backState savedV.task.uid = [] ∧ namedTask (on .s namer) namer 9 0 = .nowhere := ⟨rfl, rfl, rfl, rfl, by decide, rfl⟩

theorem bytesOf_length (n w : Nat) : (bytesOf n w).length = n := by
  induction n generalizing w with
  | zero => rfl
  | succ n ih => simp [bytesOf, ih]
theorem slice_length (bs : List Byte) (o n : Nat) : (slice bs o n).length = n := by
  simp only [slice, List.length_append, List.length_replicate, List.length_take, List.length_drop]
  omega
theorem streamRec_length (t : Task) (k : Stream) : (streamRec t k).length = 64 := by
  unfold streamRec
  cases h1 : (t.st k).l1 <;> cases h2 : (t.st k).l2 <;> simp [h1, h2, bytesOf_length]
theorem flatMap_length {α : Type} (f : α → List Byte) (m : Nat) (h : ∀ n, (f n).length = m) (l : List α) : (l.flatMap f).length = m * l.length := by
  induction l with
  | nil => rfl
  | cons a l ih => simp [List.flatMap_cons, h, ih, Nat.mul_add]; omega
/-- Table 19-6: the fixed part of a save area ends at 1500 hex. -/
theorem areaBytes_length (v : AreaView) (h : v.task.run = none) : (areaBytes v).length = 0x1500 + (areaTail v).length := by
  unfold areaBytes
  simp only [h, List.length_append, bytesOf_length, slice_length, streamRec_length, CR.bytes, allStreams, List.flatMap_cons, List.flatMap_nil,
    List.length_nil, flatMap_length _ 8 (fun _ => bytesOf_length 8 _), flatMap_length _ 2 (fun _ => bytesOf_length 2 _),
    flatMap_length _ 128 (fun _ => bytesOf_length 128 _), flatMap_length _ 64 (fun _ => slice_length _ 0 64), List.length_range]
theorem snap_tail_length : (areaTail (residentView snapState 0 1 stoppedTask)).length = 0x100 + 4096 * 384 := by
  have hv : ∀ n, (stoppedTask.vreg n).length = 1024 := fun n => by
    rw [Task.vreg, show stoppedTask.v = [] from rfl]
    exact List.length_replicate
  have e : areaSections (residentView snapState 0 1 stoppedTask) =
      [(1, 384, (List.range 384).flatMap (fun n => (stoppedTask.vreg n).flatMap (fun c => bytesOf 4 c.toNat))),
       (2, 0, []), (3, 0, []), (4, 0, []), (5, 0, []), (6, 0, []), (7, 0, []), (8, 0, []), (9, 0, []), (10, 0, []), (11, 0, [])] := by rfl
  unfold areaTail
  simp only [e, List.length_append, slice_length, List.flatMap_cons, List.flatMap_nil, List.length_nil]
  rw [flatMap_length _ 4096 (fun n => by rw [flatMap_length _ 4 (fun _ => bytesOf_length 4 _), hv])]
  simp
theorem snap_area_le : (areaBytes (residentView snapState 0 1 stoppedTask)).length ≤ 0x200000 := by
  have h := areaBytes_length (residentView snapState 0 1 stoppedTask) rfl
  have h2 := snap_tail_length
  generalize (areaBytes (residentView snapState 0 1 stoppedTask)).length = a at *
  generalize (areaTail (residentView snapState 0 1 stoppedTask)).length = b at *
  omega
theorem snap_page {s : State} (hs : s.pav? 0 = some pav0) (ht0 : (s.die 0).tc = [.leaf 0 (page .coh), .leaf 128 { page .coh with key := 0 }]) (acc : AccKind) (h : leafCheck pav0 acc 0 (page .coh) = .ok (page .coh) 0) (p : Nat) (hp : p < 0x40000000) :
    xlateNow s 0 0 p acc = .ok (page .coh) p := by
  have ht : tcLeaf (s.die 0).tc 0 p = some (page .coh) := ht0 ▸ if_pos ⟨rfl, Nat.zero_le p, (by omega : p < 0 + 0x40000000)⟩
  have hl : leafCheck pav0 acc p (page .coh) = .ok (page .coh) p := by
    have : (page PClass.coh).pa + p % (page PClass.coh).size = p := by
      show 0 + p % 0x40000000 = p
      omega
    cases acc <;> exact congrArg (Xl.ok (page .coh)) this
  have h0 : ¬ p ≥ 2 ^ 48 := by omega
  simp only [xlateNow, h0, if_false, hs, ht, hl]
theorem snap_pages (p n : Nat) (hn : n ≤ 0x200000) (h : p ∈ pagesOf 0x10000 n) : p < 0x40000000 := by
  unfold pagesOf at h
  split at h
  · simp at h
  · simp only [List.mem_cons, List.mem_map, List.mem_range] at h
    omega
theorem snap_va : (snapper.src (.s 5)).toNat = 0x10000 := rfl
theorem pages_read (n : Nat) (hn : n ≤ 0x200000) : ∀ p ∈ pagesOf (snapper.src (.s 5)).toNat n,
    ∃ lf pa, xlateNow snapState snapState.curDie snapper.pav p .read = .ok lf pa := by
  rw [snap_va]
  exact fun p h => ⟨_, _, snap_page rfl rfl .read rfl p (snap_pages p n hn h)⟩
theorem range_written (bs : List Byte) (hn : bs.length ≤ 0x200000) : ∃ s1, snapState.writeRange 0 0 0x10000 bs = .inl s1 := by
  unfold State.writeRange
  split
  · next c h =>
    obtain ⟨p, hp, hc⟩ := List.exists_of_findSome?_eq_some h
    rw [snap_page rfl rfl .write rfl p (snap_pages p _ hn hp)] at hc
    simp at hc
  · exact ⟨_, rfl⟩
theorem test_snap_pages_meet : ∀ p ∈ pagesOf (snapper.src (.s 5)).toNat (areaBytes (residentView snapState 0 1 stoppedTask)).length,
    ∃ lf pa, xlateNow snapState snapState.curDie snapper.pav p .read = .ok lf pa := pages_read _ snap_area_le
theorem test_snap_write_meets : ∃ s1, snapState.writeRange snapState.curDie snapper.pav (snapper.src (.s 5)).toNat
    (areaBytes (residentView snapState 0 1 stoppedTask)) = .inl s1 := by
  rw [snap_va]
  exact range_written _ snap_area_le
theorem test_snap_refused_meets : ∃ code, (on .s snapper).writeRange (on .s snapper).curDie snapper.pav 0x10000 [1, 2] = .inr code := ⟨_, rfl⟩

/-- A stopped task without a register window, and memory that holds its save area or nothing. -/
def bareTask : Task := { stoppedTask with cr := { probeCr with win := 0 }, lease := 1, key := 1 }
def bareState (m : List Host.Cell) : State :=
  { (paged .coh (on .s snapper)).setTask 0 1 bareTask with
    mem := m
    images := [(0, { pav := 0, base := 0, code := List.replicate 8 0, entry := 0, manifest := [], dropping := false })] }
def bareArea : List Byte := areaBytes (residentView (bareState []) 0 1 bareTask)
/-- Its bytes that are not zero: the layout version, flags, size, TASKID, ... (Table 19-6). -/
def areaMem : List Host.Cell :=
  [(65536, 1), (65538, 1), (65541, 22), (65544, 9), (65551, 1), (65591, 2), (65594, 1), (65600, 2),
   (65609, 1), (65610, 32), (65611, 192), (65612, 1), (65640, 4), (65704, 3), (65768, 3), (65832, 3),
   (65890, 1), (65896, 7), (65976, 100), (65984, 3), (66144, 1), (70790, 255), (70791, 1), (70912, 1),
   (70921, 22), (70928, 2), (70937, 22), (70944, 3), (70953, 22), (70960, 4), (70969, 22), (70976, 5),
   (70985, 22), (70992, 6), (71001, 22), (71008, 7), (71017, 22), (71024, 8), (71033, 22), (71040, 9),
   (71049, 22), (71056, 10), (71065, 22), (71072, 11), (71081, 22)]
/-- Consecutive bytes of a memory whose first listed address is not below the first of them. -/
def sweep (a : Nat) : Nat → List Host.Cell → List Byte
  | 0, _ => []
  | n + 1, [] => 0 :: sweep (a + 1) n []
  | n + 1, (j, v) :: m => if j = a then v :: sweep (a + 1) n m else 0 :: sweep (a + 1) n ((j, v) :: m)
theorem memReads_succ (a n : Nat) (m : List Host.Cell) : memReads a (n + 1) m = memRead a m :: memReads (a + 1) n m := by
  simp only [memReads, tab, List.range_succ_eq_map, List.map_cons, List.map_map, Nat.add_zero]
  congr 1
  exact List.map_congr_left (fun i _ => by simp only [Function.comp]; congr 1; omega)
theorem sweep_eq (n a : Nat) (m : List Host.Cell) (h : memWfFrom a m = true) : memReads a n m = sweep a n m := by
  induction n generalizing a m with
  | zero => cases m <;> rfl
  | succ n ih =>
    rw [memReads_succ]
    cases m with
    | nil => rw [ih (a + 1) [] rfl]; rfl
    | cons p m =>
      obtain ⟨j, v⟩ := p
      simp only [memWfFrom, Bool.and_eq_true, decide_eq_true_eq] at h
      by_cases hj : j = a
      · have e : memReads (a + 1) n ((j, v) :: m) = memReads (a + 1) n m :=
          List.map_congr_left (fun i _ => if_neg (by omega))
        rw [e, ih (a + 1) m (hj ▸ h.2)]
        simp [memRead, sweep, hj]
      · rw [ih (a + 1) ((j, v) :: m) (by simp only [memWfFrom, Bool.and_eq_true, decide_eq_true_eq]; refine ⟨⟨by omega, h.1.2⟩, h.2⟩)]
        have : memRead a m = 0 := memRead_of_lt h.2 (by omega)
        simp [memRead, sweep, hj, this]
/-- Two lists compared from their first bytes on. -/
def sameBytes : List Byte → List Byte → Bool
  | [], [] => true
  | a :: xs, b :: ys => if a = b then sameBytes xs ys else false
  | _, _ => false
theorem sameBytes_eq (xs ys : List Byte) (h : sameBytes xs ys = true) : xs = ys := by
  induction xs generalizing ys with
  | nil => cases ys with
    | nil => rfl
    | cons b ys => simp [sameBytes] at h
  | cons a xs ih => cases ys with
    | nil => simp [sameBytes] at h
    | cons b ys =>
      simp only [sameBytes] at h
      split at h
      · next e => rw [e, ih ys h]
      · simp at h
theorem area_swept : sameBytes (sweep 0x10000 5632 areaMem) bareArea = true := by decide +kernel
theorem bare_area : memReads 0x10000 5632 areaMem = bareArea :=
  (sweep_eq 5632 0x10000 areaMem (by decide +kernel)).trans (sameBytes_eq _ _ area_swept)
theorem bare_length : bareArea.length = 5632 := by
  rw [← bare_area, memReads, tab, List.length_map, List.length_range]
theorem bare_length' (m : List Host.Cell) : (areaBytes (residentView (bareState m) 0 1 bareTask)).length = 5632 := by
  have h : residentView (bareState m) 0 1 bareTask = residentView (bareState []) 0 1 bareTask := rfl
  rw [h]
  exact bare_length
theorem bare_view (m : List Host.Cell) :
    stoppedView (bareState m) snapper (snapper.src (.s 6)) = some (residentView (bareState m) 0 1 bareTask) := rfl
theorem bare_reads (m : List Host.Cell) (n : Nat) (hn : n ≤ 0x200000) : (bareState m).readVa 0 0 0x10000 n = some (memReads 0x10000 n m) := by
  have h1 : (bareState m).pav? 0 = some pav0 := by rfl
  have h2 : ((bareState m).die 0).tc = [.leaf 0 (page .coh), .leaf 128 { page .coh with key := 0 }] := by rfl
  have hp : ∀ p, p < 0x40000000 → xlateNow (bareState m) 0 0 p .read = .ok (page .coh) p := fun p h => snap_page h1 h2 .read rfl p h
  unfold State.readVa
  rw [if_pos]
  · refine congrArg some (List.map_congr_left (fun i hi => ?_))
    rw [List.mem_range] at hi
    rw [hp _ (by omega)]
    rfl
  · rw [List.all_eq_true]
    intro p h
    rw [hp p (snap_pages p _ hn h)]
theorem test_read_area_meets : (bareState areaMem).readVa (bareState areaMem).curDie snapper.pav (snapper.src (.s 5)).toNat
      (areaBytes (residentView (bareState areaMem) 0 1 bareTask)).length = some bareArea
    ∧ (readArea (bareState areaMem) (residentView (bareState areaMem) 0 1 bareTask) bareArea).isSome = true := by
  refine ⟨?_, by decide +kernel⟩
  rw [bare_length', snap_va]
  exact (bare_reads areaMem _ (by decide)).trans (congrArg some bare_area)
theorem test_dir_ok_meets : dirOk bareArea = true ∧ field bareArea 4 4 = 5632 ∧ dirOk [] = false := by decide +kernel
theorem test_read_area_none_meets : (bareState []).readVa (bareState []).curDie snapper.pav (snapper.src (.s 5)).toNat
      (areaBytes (residentView (bareState []) 0 1 bareTask)).length = some (memReads 0x10000 5632 [])
    ∧ readArea (bareState []) (residentView (bareState []) 0 1 bareTask) (memReads 0x10000 5632 []) = none := by
  refine ⟨?_, Option.isNone_iff_eq_none.mp (by rw [sweep_eq _ _ _ rfl]; decide +kernel)⟩
  rw [bare_length', snap_va]
  exact bare_reads [] _ (by decide)

/-- A task of the management pavilion with the system-service flag; S5 = 7, a key id. -/
def keyTask (p : Nat) : Task := { svc sTask with pav := p }
theorem test_keyret_meets : CanIssue (on .s (keyTask 128)) (keyTask 128) [.s 5, .s 0] (.s 15) ∧ (keyTask 128).pav = 128 ∧ (keyTask 0).pav ≠ 128
    ∧ tilesLeft (on .s (keyTask 128)) (fun g => g.key = nbits ((keyTask 128).src (.s 5)).toNat 6 0) = false
    ∧ tilesLeft (tarned (paged .coh (on .s (keyTask 128)))) (fun g => g.key = nbits line0.tag.key 6 0) = true :=
  ⟨⟨rfl, rfl, rfl, rfl⟩, rfl, by decide, by decide +kernel, by decide +kernel⟩
theorem test_tick_meets : State.reset.cyc.toNat / 256 ≤ State.reset.dev.ticks
    ∧ ({ State.reset with cyc := 256 } : State).dev.ticks < ({ State.reset with cyc := 256 } : State).cyc.toNat / 256
    ∧ (∀ c, c < 256 → beyondFloor State.reset (if (State.reset.core c).raised then (State.reset.core c).ltime else (State.reset.core c).ltime + 1) = false)
    ∧ State.reset.dev.ticks + 1 < State.reset.dev.floorTick + 2 ^ 24 ∧ 0 + 2 ^ 24 ≤ (2 ^ 24 - 1) + 1 := by decide +kernel
theorem test_floor_meets : State.reset.dev.ticks < State.reset.dev.floorTick + 2 ^ 24 ∧ floorAsked State.reset = false
    ∧ (let s : State := { State.reset with dev := { State.reset.dev with ticks := 2 ^ 24 } }; s.dev.floorTick + 2 ^ 24 ≤ s.dev.ticks) := by decide +kernel


/-! ## Dispatch and tasks -/

/-- The control block of a root region: ways, banks 8, window 12, levels 1 to 9, policy 1, fault queue at 8000 hex (Table 11-1). -/
def rcb0 : List Byte :=
  bytesOf 2 0xFFFF ++ bytesOf 2 0 ++ bytesOf 4 8 ++ bytesOf 2 256 ++ bytesOf 2 1 ++ bytesOf 2 0xFFFF ++ [8, 12, 5, 1, 9, 1] ++ bytesOf 2 256
    ++ bytesOf 2 0 ++ bytesOf 4 0 ++ [0, 1, 0, 0] ++ bytesOf 8 0 ++ bytesOf 4 1 ++ bytesOf 4 0 ++ bytesOf 8 0x8000 ++ bytesOf 8 0
/-- A device whose pavilion 0 has one region and one image, of the parcels of a header. -/
def img0 : Image := { pav := 0, base := 16, code := [0xC008, 0x0100], entry := 0, manifest := [], dropping := false }
def regioned (s : State) : State :=
  { paged .coh s with
    pavs := [(0, { pav0 with rtab := 0x9000, rtlen := 1 })], images := [(0, img0)]
    mem := memWrites 0xA000 rcb0 (memWrites 0x9000 (bytesOf 8 0xA000) []) }
theorem test_rcb_meets : rcb0.length = 64 ∧ rcbOk 0 rcb0 = true ∧ (regionEff (regioned State.reset) 0 0).isSome = true
    ∧ regionEff (regioned State.reset) 0 1 = none := by decide +kernel

/-- A CR and a launch record of region 0, image 0, level 5, 12 window units, a gang of one; the same at a bad frame pointer. -/
def crRec (fp : Nat) : List Byte := bytesOf 8 fp ++ bytesOf 8 0 ++ bytesOf 2 0 ++ bytesOf 2 0 ++ bytesOf 4 0 ++ bytesOf 4 (5 + 12 * 2 ^ 5 + 2 ^ 16) ++ bytesOf 4 0
def launchRec (fp : Nat) : List Byte := bytesOf 8 fp ++ bytesOf 8 900 ++ bytesOf 8 0 ++ bytesOf 2 0 ++ bytesOf 2 0 ++ bytesOf 4 (5 + 12 * 2 ^ 5 + 2 ^ 16)
def subState (b : List Byte) (src : CrFrom) (a : Option (BitVec 20)) : State :=
  { regioned (on .s (pTask .waiting)) with crsubs := [(0, { pav := 0, rec_ := b, addr := 0, src := src, acct := a, checked := false, ts := 0 })] }
def ctx0 : Ctx := { core := 0, slot := 0, stream := .s }
theorem test_fork_record_meets : recFault (subState (crRec 0x2000) (.fork ctx0 3) (some 0)) 0 (crView (crRec 0x2000)) true = none
    ∧ recFault (subState (crRec (2 ^ 48)) (.fork ctx0 3) (some 0)) 0 (crView (crRec (2 ^ 48))) true = some 0 := by decide +kernel
theorem test_launch_record_meets : recFault (subState (launchRec 0x2000) (.launch ctx0 3 0) none) 0 (launchView (launchRec 0x2000)) false = none
    ∧ recFault (subState (launchRec (2 ^ 48)) (.launch ctx0 3 0) none) 0 (launchView (launchRec (2 ^ 48))) false = some 0
    ∧ (subState (launchRec 0x2000) (.launch ctx0 3 0) none).accts.length < 2 ^ 20 := by decide +kernel
theorem room_meets (s : State) (h : ∀ d, (s.die d).levels = []) (d p n : Nat) (hn : n ≤ 64) : roomFor s d p n = true := by
  have e : ∀ k, (mget k Level.empty (s.die d).levels).crs = [] := fun k => by rw [h]; rfl
  have z : ∀ l : List Nat, l.foldl (fun m _ => m + (0 - 64)) 0 = 0 := fun l => by induction l with
    | nil => rfl
    | cons a l ih => exact ih
  simp only [roomFor, e, List.foldl_nil, z, decide_eq_true_eq]
  omega
theorem test_room_for_meets : ∀ d p, roomFor (subState (crRec 0x2000) (.fork ctx0 3) (some 0)) d p (crView (crRec 0x2000)).gang = true :=
  fun d p => room_meets _ (fun d => by cases d <;> rfl) d p _ (by decide)
/-- As many accounts as there are numbers. -/
def manyAccts (n : Nat) : SMap Acct :=
  (List.range n).map (fun i => (i, { pav := 0, lid := 1, charge := 0, exhausted := false, exhAt := 0, budget := 1 }))
theorem many_accts (n : Nat) : ({ State.reset with accts := manyAccts n } : State).accts.length = n := by
  show (manyAccts n).length = n
  rw [manyAccts, List.length_map, List.length_range]
theorem test_accounts_full_meets : 2 ^ 20 ≤ ({ State.reset with accts := manyAccts (2 ^ 20) } : State).accts.length :=
  Nat.le_of_eq (many_accts (2 ^ 20)).symm

/-- A queued record of region 0 and the device that holds it at one level of die 0. -/
def eff0 : Eff := (regionEff (regioned State.reset) 0 0).getD noEff
def qcr (cr : CR) (claim : Option (Option Nat × List Word32)) : QCr :=
  { pav := 0, cr := cr, eff := eff0, since := 0, age := 4, saved := none, claim := claim, ts := 0 }
def lined (level : Nat) (q : QCr) (s : State) : State :=
  { regioned s with dies := [(0, { Die.reset with
      tc := [.leaf 0 (page .coh)]
      levels := [(level, { crs := [q], ptr := some (0, 0), deficit := [(0, 0, 0)], headSince := some (4, 0) })]
      top := some (level, 4, 0) })] }
def cr7 : CR := { probeCr with prio := 7 }
theorem test_decide_meets : ((lined 7 (qcr cr7 none) State.reset).die 0).levels
      = [(7, { crs := [qcr cr7 none], ptr := some (0, 0), deficit := [(0, 0, 0)], headSince := some (4, 0) })]
    ∧ (qcr cr7 none).region = (0, 0) ∧ cr7.gang.toNat ≤ 1 ∧ (∀ y ∈ (lined 7 (qcr cr7 none) State.reset).queued, y.claim = none)
    ∧ (∀ y ∈ (lined 7 (qcr cr7 none) State.reset).dies, y.2.reserves = []) ∧ 1 ≤ weightOf { crs := [qcr cr7 none], ptr := some (0, 0), deficit := [(0, 0, 0)], headSince := some (4, 0) } (0, 0) := by
  refine ⟨rfl, rfl, by decide, by decide +kernel, by decide +kernel, by decide +kernel⟩
theorem test_decide_fits_meets : (coreOrder (lined 7 (qcr cr7 none) State.reset) 0).find?
      (fun e => (fitOn (lined 7 (qcr cr7 none) State.reset) e (qcr cr7 none)).isSome) = some 0
    ∧ fitOn (lined 7 (qcr cr7 none) State.reset) 0 (qcr cr7 none) = some (0, 0) := by decide +kernel
theorem test_claim_meets : claimOf (lined 7 (qcr cr7 (some (some 3, [7]))) (on .s sTask)) 0 = some (7, qcr cr7 (some (some 3, [7])), some 3, [7])
    ∧ leaving (lined 7 (qcr cr7 (some (some 3, [7]))) (on .s sTask)) [7] ≠ []
    ∧ leaving (lined 7 (qcr cr7 (some (some 3, [9]))) (on .s sTask)) [9] = []
    ∧ fitOn (lined 7 (qcr cr7 (some (some 3, [9]))) (on .s sTask)) 3 (qcr cr7 (some (some 3, [9]))) = some (0, 0) := by decide +kernel
/-- A record that may run only on core 0, whose window a task of level 0 fills. -/
def fullState : State := (lined 7 (qcr { cr7 with mbox := true } none) (on .s sTask)).modCore 0 (fun k => { k with vwin := [(0, (0, 12))] })
theorem test_preempt_meets : after (exec (.dispatchDecision 0) fullState) (fun s' => s'.task? 0 0 = some { sTask with saving := some 0 }) = true
    ∧ fullState.task? 0 0 = some sTask ∧ sTask.saving = none ∧ (∀ p ∈ fullState.tasks, fullState.task? p.1 p.2.1 = some p.2.2) := by
  refine ⟨by decide +kernel, rfl, rfl, by decide +kernel⟩
theorem test_rise_meets : (({ lined 7 (qcr cr7 none) State.reset with cyc := 2 ^ 20 } : State).die 0).levels.findSome? (fun p =>
      (p.2.crs.find? (fun y => y.age = 4)).map (fun y => (p.1, y))) = some (7, qcr cr7 none)
    ∧ 7 < (qcr cr7 none).eff.ceil ∧ savedGang (lined 7 (qcr cr7 none) State.reset) (qcr cr7 none) = none
    ∧ qcr cr7 none ∈ (mget 7 Level.empty (({ lined 7 (qcr cr7 none) State.reset with cyc := 2 ^ 20 } : State).die 0).levels).crs ∧ (0 : Word64).toNat < 2 ^ 20
    ∧ 2 ^ 20 ≤ ((2 ^ 20 : Word64) - (qcr cr7 none).since).toNat ∧ spent (lined 7 (qcr cr7 none) State.reset) 0 = false := by decide +kernel
/-- A record of core 40, which is of die 1, at the head of die 0 since cycle 0. -/
def strayState : State := { lined 7 (qcr { cr7 with mbox := true, core := 40 } none) State.reset with cyc := 4096 }
theorem test_migrate_meets : (strayState.die 0).top = some (7, 4, 0) ∧ 4096 ≤ (strayState.cyc - 0).toNat
    ∧ (List.range 32).any (fun i => (fitOn strayState (32 * 0 + i) (qcr { cr7 with mbox := true, core := 40 } none)).isSome) = false
    ∧ sortBy (diePress strayState) ((List.range 8).filter (fun e => e ≠ 0
        && (List.range 32).any (fun i => (fitOn strayState (32 * e + i) (qcr { cr7 with mbox := true, core := 40 } none)).isSome))) = [1] := by decide +kernel
/-- A gang of two at the head of its level since cycle 0. -/
def gangState : State := { lined 7 (qcr { cr7 with gang := 2 } none) State.reset with cyc := 2 ^ 16 }
theorem test_reserve_meets : ∃ lv, (7, lv) ∈ (gangState.die 0).levels ∧ lv.headSince = some (4, 0) ∧ 2 ^ 16 ≤ (gangState.cyc - 0).toNat
    ∧ lv.crs.find? (fun y => y.age = 4 && decide (1 < y.cr.gang.toNat)) = some (qcr { cr7 with gang := 2 } none) :=
  ⟨_, List.mem_singleton.mpr rfl, rfl, by decide, rfl⟩

/-- A record placed on slot 1 of core 0, its image filled or being filled, on a core that holds the image's header at parcel 16. -/
def started (r : Starting) (fill : Bool) : State :=
  (regioned State.reset).modCore 0 (fun k => { k with
    starting := [(1, r)], filling := if fill then [(1, 0)] else [], imem := [(16, 0xC008), (17, 0x0100)], resident := [0] })
def placed0 (f : Bool) : Starting := { placedBack with cr := { probeCr with banks := 2 }, saved := none, filled := f }
theorem test_fill_done_meets : ((started (placed0 false) true).core 0).filling.find? (fun f => f.1 = 1) = some (1, 0)
    ∧ mfind (0 : BitVec 16).toNat (started (placed0 false) true).images = some img0 := by decide
theorem test_start_meets : mfind 1 ((started (placed0 true) false).core 0).starting = some (placed0 true) ∧ (placed0 true).saved = none
    ∧ (placed0 true).filled = true ∧ (started (placed0 true) false).pav? 0 = some { pav0 with rtab := 0x9000, rtlen := 1 }
    ∧ mfind (placed0 true).cr.image.toNat (started (placed0 true) false).images = some img0
    ∧ (placed0 true).cr.banks.toNat ≤ ((started (placed0 true) false).core 0).freeBanks.length
    ∧ ((started (placed0 true) false).core 0).quarantine = none ∧ pav0.st = PState.running ∧ img0.base + (placed0 true).cr.entry.toNat < 2 ^ 17
    ∧ nbits (((started (placed0 true) false).core 0).parcel 16).toNat 15 12 = 12 := by
  refine ⟨rfl, rfl, rfl, rfl, rfl, by decide +kernel, rfl, rfl, by decide, by decide⟩
theorem test_quarantine_meets : (((started (placed0 true) false).modCore 0 (fun k => { k with quarantine := some 5 })).core 0).quarantine = some 5
    ∧ ({ pav0 with st := .frozen } : Pav).st ≠ PState.running ∧ ((5 : Word64) - 5).toNat < 2 ^ 16 ∧ 2 ^ 16 ≤ ((0x10005 : Word64) - 5).toNat := by decide

/-- A task that has ended, of account 0. -/
def endTask : Task := { sTask with exiting := true, strm := (sTask.strm.map (fun x => (x.1, { x.2 with phase := .halted }))) }
def launch0 : Launch :=
  { acct := 0, region := 0, live := true, ended := 0, budget := 2, charge := 0, exhausted := false, started := 0, faults := 0 }
def endState (t : Task) : State :=
  { paged .coh (on .s t) with
    accts := [(0, { pav := 0, lid := 1, charge := 40000, exhausted := false, exhAt := 0, budget := 2 })]
    pavs := [(0, { pav0 with nqs := [(0, emptyNq)], launches := [(1, launch0)] })] }
theorem test_end_meets : Quiet (endState endTask) endTask ∧ ¬ Quiet (endState sTask) sTask ∧ endTask.cr.join = 0 ∧ (endState endTask).task? 0 0 = some endTask := by
  refine ⟨⟨rfl, rfl, rfl, fun k => by cases k <;> rfl, by decide, rfl, fun r h => (by cases h), fun r h => by cases h⟩, fun h => absurd h.1 (by decide), rfl, rfl⟩
theorem test_exhaust_meets : ({ pav := 0, lid := 1, charge := 40000, exhausted := false, exhAt := 0, budget := 2 } : Acct).over = true
    ∧ ({ pav := 0, lid := 1, charge := 39999, exhausted := false, exhAt := 0, budget := 2 } : Acct).over = false
    ∧ (0 : Word64) = ({ State.reset with cyc := 1 } : State).cyc - 1 := by decide
theorem test_account_meets : mfind endTask.cr.lacct.toNat (endState endTask).accts
      = some { pav := 0, lid := 1, charge := 40000, exhausted := false, exhAt := 0, budget := 2 } ∧ (2 : Nat) * 20000 ≤ 40000 ∧ (39999 : Nat) < 2 * 20000
    ∧ ((endState endTask).pav? 0).map (fun p => mfind 0 p.nqs) = some (some emptyNq) ∧ emptyNq.vals.length < 256 := by decide
/-- A task whose watchdog of 1,024 cycles saves it, its count below the limit or at it. -/
def dogTask (n : Nat) : Task := { reporting sTask with eff := { (reporting sTask).eff with wdMode := 1, wdWin := 1 }, wdCount := n }
theorem test_watchdog_meets : (dogTask 1024).eff.wdMode ≠ 0 ∧ (dogTask 1024).stopped = false ∧ (dogTask 1024).saving = none
    ∧ (dogTask 1024).eff.wdWin * 2 ^ 10 ≤ (dogTask 1024).wdCount ∧ (dogTask 1023).wdCount < (dogTask 1023).eff.wdWin * 2 ^ 10
    ∧ (dogTask 1024).wdDue = false ∧ (dogTask 1024).eff.policy ≠ 0 ∧ (fqHead (queued (on .s (dogTask 1024))) 0 (dogTask 1024).eff.fq).isSome = true := by decide

-- R277: a record whose frame pointer has a bit above 47 is refused with 04 and offset 0
theorem test_enqueue_refuses : after (exec (.crEnqueue 0) (subState (crRec (2 ^ 48)) (.fork ctx0 3) (some 0))) (fun s =>
    match s.task? 0 0 with | some t => t.pend.map (·.res) = [.value 4] | none => false) := by decide +kernel
-- R280: the record of level 7 is placed on core 0
theorem test_dispatch : after (exec (.dispatchDecision 0) (lined 7 (qcr cr7 none) State.reset)) (fun s => (mfind 0 (s.core 0).starting).isSome) := by
  decide +kernel


/-! ## Tile directories, stacks, fabric -/

def tagD : TTag := line0.tag
def msg0 (k : TMsgKind) : TMsg :=
  { home := some 0, die := 0, core := 0, pav := 0, key := 1, tag := tagD, desc := desc0, kind := k, fill := 5, way := some 0, slot := none, data := [1, 2]
    ts := none, remote := none }
def entry0 (st : DirState) (h : List (Nat × Nat)) : DirEntry :=
  { tag := tagD, p := 3, ts := none, st := st, holders := h, queue := [], serving := [], wbHeld := [], lastReq := 0 }
def fill5 (fl : BitVec 64) (w : List Nat) : TFill :=
  { die := 0, way := 0, core := 0, entry := true, uid := 0, acct := 0, pav := 0, tag := tagD, desc := desc0, exact := false, ver := none, sent := true,
    data := some (3, none, .memory), flits := fl, got := [], waitWb := w }
/-- Flit 3 of message 5, of tile data, at its destination. -/
def flit3 : Flit :=
  { dx := 0, dy := 1, sx := 0, sy := 0, age := 4, typ := flTileData, tag := 5, off := 3, cnt := 63, pav := 0, x := 0, y := 1, cap := 0
    old := false, msg := (5, 0), data := 0xAB }
/-- A device with message 1 at home 0 and a directory there; the tile's line stands clean on die 0. -/
def homed (k : TMsgKind) (dir : SMap DirEntry) : State :=
  { tarned (paged .coh (on .c cTask)) with
    fab := { State.reset.fab with arrived := [flit3] }, tmsgs := [(1, msg0 k)], nextId := 6, tfills := [(5, fill5 0 [])], homes := [(0, { (State.reset.home 0) with dir := dir })] }
theorem test_nearest_meets : nearest (entry0 .present [(2, 3), (1, 3), (3, 2)]) 0 false = some 1 := by decide
theorem test_stands_meets (k : TMsgKind) (dir : SMap DirEntry) : Stands (homed k dir) 1 (msg0 k) 0 := ⟨rfl, rfl, (by decide : 1 < 6), rfl⟩
-- R307: a query that has come is answered with the P of the home's store, and the answer sets out for its core
theorem test_query_answered : after (exec (.tileVersionQuery 1) (homed (.query (.product 0 0)) [(4, entry0 .present [])])) (fun s =>
    (mfind 1 s.tmsgs).map (·.known) = some (some (entry0 .present []).p) && !s.come 1 0) := by decide +kernel
theorem test_query_meets : (msg0 (.query (.product 0 0))).known = none ∧ ({ msg0 (.query (.product 0 0)) with known := some 3 } : TMsg).known = some 3 := by
  decide
theorem test_request_meets : dirFind ((homed (.request false none) []).home 0) tagD = none ∧ waiting ((homed (.request false none) []).home 0) 1 = true
    ∧ servable 0 false none = true ∧ servable 0 true (some 3) = false ∧ (msg0 (.request false none)).remote = none
    ∧ waiting ((homed (.request false none) [(4, entry0 .present [(1, 3)])]).home 0) 1 = true
    ∧ nearest (entry0 .present [(1, 3)]) (msg0 (.request false none)).die false = some 1 ∧ servable (entry0 .present []).p false none = true
    ∧ servable (entry0 .present []).p true (some 4) = false := by decide +kernel
theorem test_dir_entry_meets (k : TMsgKind) (st : DirState) (h : List (Nat × Nat)) : Entry (homed k [(4, entry0 st h)]) 0 4 tagD (entry0 st h) := ⟨rfl, rfl⟩
/-- The entry of another tile, and a directory of n such entries. -/
def entry6 : DirEntry := { entry0 .present [] with tag := { tagD with tid := 6 } }
def others : Nat → SMap DirEntry
  | 0 => []
  | n + 1 => (n, entry6) :: others n
theorem others_all (n : Nat) (x : Nat × DirEntry) (h : x ∈ others n) : x.2 = entry6 := by
  induction n with
  | zero => cases h
  | succ n ih => cases h with
    | head => rfl
    | tail _ h => exact ih h
theorem others_length (n : Nat) : (others n).length = n := by
  induction n with
  | zero => rfl
  | succ n ih => simp [others, ih]
theorem others_fold (k n : Nat) : ((others n).filter (fun p => p.2.st = .present && p.2.queue.isEmpty)).foldl (fun b p => match b with
    | none => some p
    | some (q : Nat × DirEntry) => if p.2.lastReq < q.2.lastReq then some p else b) (some (k, entry6)) = some (k, entry6) := by
  induction n with
  | zero => rfl
  | succ n ih => exact ih
theorem test_full_directory_meets (n : Nat) : ((homed (.request false none) (others (n + 1))).home 0).dir = others (n + 1)
    ∧ (others (n + 1)).length = n + 1 ∧ dirFind ((homed (.request false none) (others (n + 1))).home 0) tagD = none
    ∧ (∀ x ∈ others (n + 1), x.2.st ≠ .recalling) ∧ dirVictim ((homed (.request false none) (others (n + 1))).home 0) = some (n, entry6)
    ∧ mfind n (others (n + 1)) = some entry6 ∧ waiting ((homed (.request false none) (others (n + 1))).home 0) 1 = true := by
  have ht : entry6.tag ≠ tagD := by decide +kernel
  refine ⟨rfl, others_length _, ?_, fun x h => ?_, others_fold n n, ?_, ?_⟩
  · refine List.find?_eq_none.mpr (fun x h => ?_)
    rw [others_all _ x h]
    simpa using ht
  · rw [others_all _ x h]
    decide
  · simp [others, mfind]
  · show ((others (n + 1)).map (·.2)).all _ = true
    rw [List.all_map, List.all_eq_true]
    intro x h
    rw [Function.comp, others_all _ x h]
    rfl

theorem test_forward_meets : mfind (msg0 (.forward 0)).fill (homed (.forward 0) [(4, entry0 .present [(0, 3)])]).tfills = some (fill5 0 [])
    ∧ cleanAt (homed (.forward 0) [(4, entry0 .present [(0, 3)])]) 0 tagD (entry0 .present [(0, 3)]).p = some line0
    ∧ cleanAt (homed (.forward 1) [(4, entry0 .present [(1, 3)])]) 1 tagD (entry0 .present [(1, 3)]).p = none
    ∧ servable (entry0 .present []).p (fill5 0 []).exact (fill5 0 []).ver = true ∧ (entry0 .recalling []).st = .recalling
    ∧ dirFind ((homed (.forward 0) []).home 0) tagD = none := by decide +kernel
theorem test_writeback_meets : later 16 4 (pubOf ((homed (.wbBegin 4) [(4, entry0 .present [])]).home 0) tagD).1 = true
    ∧ later 16 3 (pubOf ((homed (.wbBegin 3) [(4, entry0 .present [])]).home 0) tagD).1 = false
    ∧ (∀ x ∈ ((homed (.wbBegin 4) [(4, entry0 .present [])]).home 0).dir, (1 : Nat) ∉ x.2.wbHeld)
    ∧ footFault (homed (.wbBegin 4) [(4, entry0 .present [])]) 0 0 (readDesc desc0) tagD .write = none ∧ (readDesc desc0).layout ≠ 3 := by
  decide +kernel
theorem test_store_tile_meets : ∃ s1 w, storeTile ((homed (.writing 4) [(4, entry0 .writing [])]).undram 1) 0 0 desc0 tagD [1, 2] none = .ok s1 w := by
  have h : footFault ((homed (.writing 4) [(4, entry0 .writing [])]).undram 1) 0 0 (readDesc desc0) tagD .write = none
      ∧ (readDesc desc0).layout ≠ 3 := by decide +kernel
  unfold storeTile
  simp only [h.1, if_neg h.2]
  exact ⟨_, _, rfl⟩
theorem test_entry_states_meet (i : Nat) (e : DirEntry) (h : dirFind ((homed (.wbBegin 4) [(4, entry0 .present [])]).home 0) tagD = some (i, e)) :
    e.st = .present ∨ e.st = .recalling := by
  have : dirFind ((homed (.wbBegin 4) [(4, entry0 .present [])]).home 0) tagD = some (4, entry0 .present []) := rfl
  rw [this] at h
  cases h
  exact .inl rfl
theorem test_recall_meets : mfind 4 ((homed .drop [(4, entry0 .recalling [])]).home 0).dir = some (entry0 .recalling [])
    ∧ (∀ x ∈ ((homed .drop [(4, entry0 .recalling [])]).home 0).dir, x.2.st = .recalling → x = (4, entry0 .recalling []))
    ∧ (∀ x ∈ (homed .drop [(4, entry0 .recalling [])]).tmsgs, x.2.kind = .drop) ∧ (homed .drop []).line? 0 tagD ≠ none
    ∧ (paged .coh (on .c cTask)).line? 0 tagD = none ∧ (entry0 .recalling []).p ≠ 0 := by decide +kernel
theorem test_flit_meets : mfind 5 (homed .drop []).tfills = some (fill5 0 []) ∧ servingEntry (homed .drop []) 5 = none
    ∧ (0 : BitVec 64) ||| BitVec.ofNat 64 (2 ^ 3) ≠ BitVec.allOnes 64 ∧ (BitVec.allOnes 64 - 8) ||| BitVec.ofNat 64 (2 ^ 3) = BitVec.allOnes 64
    ∧ mfind (fill5 0 []).way ((homed .drop []).die (fill5 0 []).die).tarn = some line0 ∧ line0.tag = (fill5 0 []).tag ∧ (fill5 0 [7]).waitWb ≠ [] := by
  decide +kernel
theorem test_arrived_meets : (homed .drop []).fab.arrived.find? (fun x => x.msg = (5, 0) && x.off = (3 : Fin 64).val) = some flit3
    ∧ (homed .drop []).fab.arrived.find? (fun x => x.msg = (5, 0) && x.off = (4 : Fin 64).val) = none
    ∧ mfind 5 ({ homed .drop [] with tfills := [] } : State).tfills = none ∧ servingEntry ({ homed .drop [] with tfills := [] } : State) 5 = none := by
  decide +kernel
theorem test_no_readers_meets : NoReaders (homed .drop []) := by unfold NoReaders; decide +kernel

/-- The same with a flit of message 1 before the fabric. -/
def onTheWay (k : TMsgKind) : State := { homed k [] with fab := { State.reset.fab with waiting := [(0, [{ flit3 with typ := flTile, msg := (1, 0) }])] } }
theorem test_on_the_way_meets : (onTheWay .drop).come 1 0 = false ∧ mfind 1 (onTheWay .drop).tmsgs = some (msg0 .drop) ∧ (msg0 .drop).home = some 0 := by
  decide +kernel

/-- A stack with one request queued at pseudo-channel 0, a row in its hot list and a row being remapped. -/
def dreq : DReq := { pa := 0, write := false, key := 1, requester := 0, cls := 0, stamp := 0, since := 0, own := 0, served := false, ahead := false, pay := none }
def stackOf (q : List DReq) (rem : List Nat) : Stack :=
  { queues := [(0, q)], scores := [(7, 3)], hot := [7], remapping := rem, spares := [], noSpare := [], patrol := [], lastPatrol := [(0, 0)], passAt := [(0, 0)], hotAt := [(112, 0)]
    halvedAt := 0, halving := true, ring := 0
    head := 0, tail := 0, overflow := 0 }
def stacked (k : Stack) (c : Word64) : State := { State.reset with drams := [(0, k)], cyc := c }
theorem test_serve_meets : nextReq 0 ((stacked (stackOf [dreq] []) 0).stack 0) 0xFFFF (mget (0 : Fin 512).val [] (stackOf [dreq] []).queues) = some dreq
    ∧ ([dreq].filter (stacked (stackOf [dreq] []) 0).here) = [dreq]
    ∧ nextReq 0 ((stacked (stackOf [dreq] []) 0).stack 0) 0 (mget (0 : Fin 512).val [] (stackOf [dreq] []).queues) = none
    ∧ dreq.write = false ∧ dreq.pay = none ∧ ((stacked (stackOf [dreq] []) 0).stack 0).ring = 0 := by decide +kernel
-- R412: a request whose flit comes takes its place behind those that are there
theorem test_request_reaches : after (exec (.routerPortAssignment 0) { stacked (stackOf [{ dreq with own := 2 }, { dreq with own := 3 }] []) 0 with
      fab := { State.reset.fab with waiting := [(0, [{ flit3 with typ := flRead, msg := (2, 0) }])] } }) (fun s =>
    (mget 0 [] (s.stack 0).queues).map (·.own) = [3, 2] && s.fab.ejected.length = 1 && s.come 2 0) := by decide +kernel
theorem test_serve_writeback_meets : nextReq 0 ((stacked (stackOf [{ dreq with write := true, pay := some { mask := 1, data := [7], poison := false } }] []) 0).stack 0)
      0xFFFF [{ dreq with write := true, pay := some { mask := 1, data := [7], poison := false } }]
    = some { dreq with write := true, pay := some { mask := 1, data := [7], poison := false } } := by decide +kernel
theorem test_at_dram_meets : atDram (homed (.writing 4) [(4, entry0 .writing [])]) 1 = false
    ∧ atDram (stacked (stackOf [{ dreq with own := 1 }] []) 0) 1 = true := by decide +kernel
theorem test_patrol_meets : mget (0 : Fin 512).val [] (stackOf [] []).queues = [] ∧ mfind (1 : Fin 512).val (stackOf [dreq] []).lastPatrol = none
    ∧ mfind (0 : Fin 512).val (stackOf [dreq] []).lastPatrol = some 0 ∧ 1024 ≤ ((1024 : Word64) - 0).toNat ∧ ¬ 1024 ≤ ((1023 : Word64) - 0).toNat
    ∧ ((stacked (stackOf [] []) 0).stack 0).remapping.contains (rowNo (paOf 0 0 0 0)) = false ∧ lineHeld (stacked (stackOf [] []) 0) (stackOf [] []) 0 = false
    ∧ lineHeld (stacked (stackOf [dreq] []) 0) (stackOf [dreq] []) 0 = true ∧ mfind (0 : Fin 512).val (stackOf [] []).passAt = some 0
    ∧ ((stacked (stackOf [] [rowNo (paOf 0 0 0 0)]) 0).stack 0).remapping.contains (rowNo (paOf 0 0 0 0)) = true := by decide +kernel
theorem test_days_meet : (stackOf [] []).halvedAt.toNat < (69120000000000 : Word64).toNat / dayCycles * dayCycles
    ∧ (69119999999999 : Word64).toNat / dayCycles * dayCycles ≤ (stackOf [] []).halvedAt.toNat ∧ dayCycles ≤ ((69120000000000 : Word64) - 0).toNat
    ∧ hotCycles ≤ ((1080000000000 : Word64) - 0).toNat := by decide
theorem test_hot_meets : ((stacked (stackOf [] []) 0).stack 0).hot[0]? = some 7 ∧ (stackOf [] []).remapping.contains 7 = false
    ∧ lineHeld (stacked (stackOf [] []) 0) (stackOf [] []) (paOf 0 0 0 0x700) = false ∧ mfind (16 * 7 + 0) (stackOf [] []).hotAt = some 0 ∧ mfind (16 * 7 + 1) (stackOf [] []).hotAt = none
    ∧ ((stacked (stackOf [] [7, 9]) 0).stack 0).remapping = 7 :: [9]
    ∧ copyWaits (stacked (stackOf [] [7, 9]) 0) (stackOf [] [7, 9]) 7 = false
    ∧ copyWaits (stacked (stackOf [{ dreq with ahead := true }] [rowNo 0]) 0) (stackOf [{ dreq with ahead := true }] [rowNo 0]) (rowNo 0) = true ∧ (((stackOf [] []).scores).map (·.1)).Nodup ∧ (stackOf [] []).halving = true := by
  decide +kernel
def flit0 (age : Nat) (old : Bool) : Flit :=
  { dx := 1, dy := 0, sx := 0, sy := 0, age := age, typ := 0, tag := 0, off := 0, cnt := 1, pav := 0, x := 0, y := 0, cap := 0, old := old, msg := 0, data := 0 }
def flitState (f : Flit) : State := { State.reset with fab := { State.reset.fab with flight := [(2, [f])] }, cyc := 64 }
theorem test_old_flit_meets : (mget (2 % 4) [] (flitState (flit0 1024 false)).fab.flight)[2 / 4]? = some (flit0 1024 false)
    ∧ (flit0 1023 false).age < 1024 ∧ 1024 ≤ (flit0 1024 false).age ∧ (flit0 1024 true).old = true
    ∧ (flitState (flit0 0 false)).cyc.toNat / 64 ≠ (flitState (flit0 0 false)).fab.win ∧ State.reset.cyc.toNat / 64 = State.reset.fab.win := by decide +kernel
theorem test_notices_meet : ((State.reset.core 0).notices).length < 64
    ∧ 64 ≤ (((State.reset.modCore 0 (fun k => { k with notices := List.replicate 64 0 })).core 0).notices).length := by decide

-- R366: a one-symbol error adds 16 to its row's score
theorem test_score : after (exec (.dramRequestServe 0 ⟨0, 0xFFFF⟩ 1 0) (stacked (stackOf [dreq] []) 0)) (fun s =>
    mget (rowNo 0) 0 (s.stack 0).scores = 16 && mget 0 [] (s.stack 0).queues = [{ dreq with served := true }]) := by decide +kernel
-- R407: an old flit is counted and notes its die
theorem test_old : after (exec (.oldFlit 2) (flitState (flit0 1024 false))) (fun s => s.fab.oldDies.contains 0) := by decide +kernel


/-! ## Peer links, remote requests -/

def portState (p : Port) (c : Word64) : State :=
  { noded 1 State.reset with ports := [(3, p)], cyc := c }
def portUp : Port := { Port.reset with st := .up, unacked := [(0, 2, [])], lastAck := 0 }
def frame0 (kind : BitVec 8) (seq : Word32) : ShulosFrame :=
  { good := true, etype := State.reset.dev.etype, ver := 1, kind := kind, seq := seq, ack := 1, dnode := 1, snode := 2, flits := [(0, 0)] }
theorem test_frames_meet : Shaped (portState portUp 0) (frame0 0 0) ∧ Shaped (portState portUp 0) (frame0 1 0) ∧ Shaped (portState portUp 0) (frame0 2 0)
    ∧ ¬ Shaped (portState portUp 0) { frame0 0 0 with good := false } ∧ (portState portUp 0).port 3 = portUp ∧ portUp.st = .up ∧ portUp.waiting = []
    ∧ (portState portUp 0).dev.node = some (frame0 0 0).dnode ∧ (frame0 0 0).seq = portUp.rxSeq ∧ (frame0 0 7).seq ≠ portUp.rxSeq
    ∧ Port.reset.st ≠ .up := by unfold Shaped; decide
theorem test_resend_meets : portUp.unacked ≠ [] ∧ 16000 ≤ ((16000 : Word64) - portUp.lastAck).toNat ∧ ¬ 16000 ≤ ((15999 : Word64) - portUp.lastAck).toNat
    ∧ (0, 2, ([] : List (BitVec 64 × BitVec 512))) ∈ portUp.unacked ∧ (portUp.unacked.map (·.1)).Nodup
    ∧ ({ portUp with timeouts := 14 } : Port).timeouts < 15 ∧ 15 ≤ ({ portUp with timeouts := 15 } : Port).timeouts := by decide
theorem test_link_states_meet : ({ Port.reset with st := .training } : Port).st = .training ∧ Port.reset.st ≠ .training
    ∧ (let p : Port := { Port.reset with st := .exchange, lview := 5, disagreements := 1 }; p.lview ≠ 6 ∧ p.disagreements < 2 ∧ p.lview = 5)
    ∧ (2 : Nat) ≤ ({ Port.reset with st := .exchange, disagreements := 2 } : Port).disagreements := by decide
theorem test_peer_lost_meets : ({ Port.reset with lostSince := some 0 } : Port).lost = false ∧ ((1599999 : Word64) - 0).toNat < 1600000
    ∧ 1600000 ≤ ((1600000 : Word64) - 0).toNat ∧ (portState Port.reset 1600000).rops = [] := by decide

/-- A device that is node 1 with a grant window of 16 bytes at address 0 of pavilion 0; requests of node 2, pavilion 3. -/
def servedState : State :=
  { noded 1 (granting sTask) with
    dies := [(0, { Die.reset with tc := [.leaf 0 { page .coh with va := 0xFFFFC0000000 }, .leaf 0 (page .coh)] })] }
def remote0 (key : BitVec 128) (rights expiry off : Nat) (k : RemoteKind) : RemoteReq :=
  { snode := 2, spav := 3, tpav := 0, token := grantToken key 0 rights expiry 2 3, off := off, kind := k }
def goodTok (key : BitVec 128) (r : RemoteReq) : Prop :=
  grantCheck key (tokWin r.token) (tokRights r.token) (tokExpiry r.token) r.snode.toNat r.spav.val = r.token.toNat % 2 ^ 32
def lateTok (r : RemoteReq) : Prop := 0 < sext ((servedState.cyc.toNat / 2 ^ 20 + 2 ^ 16 - tokExpiry r.token) % 2 ^ 16) 16
theorem test_served_meets : servedState.dev.node ≠ none ∧ servedState.pav? 0 = some pav0 ∧ pav0.st = .running ∧ ({ pav0 with st := .frozen } : Pav).st ≠ .running
    ∧ grantWindow servedState 0 (tokWin (remote0 5 1 0 8 (.load true)).token) = some (0, 16) ∧ grantWindow servedState 0 1 = none
    ∧ (noded 1 (on .s sTask)).dev.node ≠ none ∧ State.reset.dev.node = none := by decide +kernel
theorem test_tokens_meet : goodTok pav0.grantKey (remote0 5 1 0 8 (.load true)) ∧ ¬ lateTok (remote0 5 1 0 8 (.load true))
    ∧ lateTok (remote0 5 1 0xFFFF 8 (.load true)) ∧ goodTok pav0.grantKey (remote0 5 1 0xFFFF 8 (.load true))
    ∧ ¬ goodTok pav0.grantKey (remote0 6 1 0 8 (.load true)) ∧ pav0.prevKey = none
    ∧ (({ pav0 with prevKey := some 6 } : Pav).prevKey = some 6 ∧ goodTok 6 (remote0 6 1 0 8 (.load true))) := by
  unfold goodTok lateTok; decide +kernel
theorem test_checks_in_order_meet : tokRights (remote0 5 1 0 8 (.load true)).token &&& needRights (.load true) = needRights (.load true)
    ∧ tokRights (remote0 5 1 0 8 (.store true 7)).token &&& needRights (.store true 7) ≠ needRights (.store true 7)
    ∧ (reach (remote0 5 1 0 8 (.load true))).2 ≤ 16 ∧ 16 < (reach (remote0 5 1 0 12 (.load true))).2 ∧ (0 + 4) % remoteAlign (.load true) ≠ 0
    ∧ (0 + 8) % remoteAlign (.load true) = 0 ∧ pagesPass servedState 0 8 8 .read = true ∧ pagesPass servedState 0 8 8 .write = true
    ∧ rangePoison servedState 0 8 8 = false ∧ rangePoison { servedState with poison := [0] } 0 8 8 = true := by decide +kernel
theorem test_writers_meet : tokRights (remote0 5 6 0 8 (.store true 7)).token &&& needRights (.store true 7) = needRights (.store true 7)
    ∧ tokRights (remote0 5 6 0 8 (.put .plain [1, 2] false)).token &&& needRights (.put .plain [1, 2] false) = needRights (.put .plain [1, 2] false)
    ∧ tokRights (remote0 5 6 0 8 (.amo .add true 7)).token &&& needRights (.amo .add true 7) = needRights (.amo .add true 7)
    ∧ goodTok pav0.grantKey (remote0 5 6 0 8 (.store true 7)) ∧ (reach (remote0 5 6 0 8 (.put .plain [1, 2] false))).2 ≤ 16
    ∧ remoteAcc (.load true) = .read ∧ (8 + 0) % remoteAlign (.put .plain [1, 2] false) = 0 := by unfold goodTok; decide +kernel
def rop0 (o : RemoteOwner) : RemoteOp :=
  { pav := 0, task := 7, region := 0, iaddr := 2, node := 2, port := some 3, req := remote0 5 1 0 8 (.load true), owner := o, n := 8, sx := false
    writes := false, core := 0, scope := .sys }
def ropState (o : RemoteOwner) (p : Port) : State :=
  { slotted (slot0 .itin .wait) with rops := [(9, rop0 o)], ports := [(3, p)] }
theorem test_response_meets : mfind 9 (ropState (.scalar ctx0 3) portUp).rops = some (rop0 (.scalar ctx0 3)) ∧ (rop0 (.scalar ctx0 3)).port = some 3
    ∧ ((ropState (.scalar ctx0 3) portUp).port 3).lost = false ∧ (ropState (.scalar ctx0 3) portUp).task? 0 0 = some cTask
    ∧ (ropState (.scalar ctx0 3) portUp).come 9 0 = true ∧ (0 : BitVec 8) ≠ fTokenForged ∧ ((ropState (.scalar ctx0 3) { portUp with lost := true }).port 3).lost = true
    ∧ (ropState (.copy 0 0) portUp).slotId? 0 0 = some (0, slot0 .itin .wait) := ⟨rfl, rfl, rfl, rfl, rfl, by decide, rfl, by decide +kernel⟩

-- R416: a data frame in order is delivered and its acknowledgement owed
theorem test_frame : after (exec (.shulosFrameReceive 3 (frame0 0 0)) (portState portUp 0)) (fun s =>
    (s.port 3).rxSeq = 1 && (s.port 3).ackDue && (s.port 3).delivered.length = 1) := by decide
-- R416: the sixteenth timeout in a row leaves UP
theorem test_timeouts : after (exec (.shulosRetransmit 3) (portState { portUp with timeouts := 15 } 16000)) (fun s =>
    (s.port 3).st = .training && (s.port 3).lostSince == some 16000) := by decide
-- R418: a load of eight bytes through a valid token is answered with them
theorem test_remote : after (exec (.remoteIngress (remote0 5 1 0 8 (.load true))) servedState) (fun s =>
    s.answers.map (fun a => (a.code, a.data)) = [(0, List.replicate 8 0)]) := by decide +kernel


/-! ## The host port -/

def bytesBE32 (w : Nat) : List Byte := (bytesOf 32 w).reverse
/-- A manifest of one segment, a block of one parcel, with the SHA-256 digests of the segment and of no relocations; `bad` spoils
the first digest. -/
def imageFile (bad : Nat) : List Byte :=
  bytesOf 4 0x4E594C43 ++ bytesOf 2 1 ++ bytesOf 2 0 ++ bytesOf 24 0 ++ bytesOf 4 0 ++ bytesOf 4 1 ++ bytesOf 4 0 ++ bytesOf 4 0
    ++ bytesBE32 0xe3b0c44298fc1c149afbf4c8996fb92427ae41e4649b934ca495991b7852b855 ++ bytesOf 16 0
    ++ bytesOf 4 0xA0 ++ bytesOf 4 6 ++ bytesOf 8 0 ++ bytesOf 16 0
    ++ bytesBE32 (0x91ac995ee813a44b97e30dab894dc8f6374c28495334509abba943dc1e6f7b92 + bad)
    ++ [0x08, 0xC0, 0x00, 0x01, 0x00, 0x00]
def imageState (bad : Nat) : State := { regioned State.reset with mem := memWrites 0x10000 (imageFile bad) [] }
theorem test_image_meets : (match checkImage (imageState 0) 0 pav0 0x10000 0xA6 16 with | .ok i _ => i.code.length = 3 | _ => false) = true := by decide +kernel
theorem test_image_bad_meets : (match checkImage (imageState 0) 0 pav0 0x10000 0x50 16 with | .bad 4 (some 8) => true | _ => false) = true
    ∧ (match checkImage (imageState 1) 0 pav0 0x10000 0xA6 16 with | .bad 0xA3 none => true | _ => false) = true := by decide +kernel
theorem test_handle_meets : (freeHandle (imageState 0)).isSome = true := by
  have : freeHandle (imageState 0) = some 1 := by
    unfold freeHandle
    rw [show (65535 : Nat) = 65534 + 1 from rfl, List.range_succ_eq_map]
    rfl
  rw [this]; rfl
theorem mfind_of_mem {α : Type} (k : Nat) (v : α) (l : List (Nat × α)) (h : (k, v) ∈ l) : (mfind k l).isSome = true := by
  induction l with
  | nil => cases h
  | cons a l ih =>
    obtain ⟨i, x⟩ := a
    by_cases hi : i = k
    · simp [mfind, hi]
    · have : (k, v) ∈ l := by
        cases h with
        | head => exact absurd rfl hi
        | tail _ h => exact h
      simpa [mfind, hi] using ih this
theorem test_no_handle_meets : freeHandle { State.reset with images := (List.range 65536).map (fun h => (h, img0)) } = none := by
  unfold freeHandle
  refine List.find?_eq_none.mpr (fun h hm => ?_)
  obtain ⟨i, hi, rfl⟩ := List.mem_map.mp hm
  rw [List.mem_range] at hi
  have : (mfind (i + 1) ((List.range 65536).map (fun h => (h, img0)))).isSome = true :=
    mfind_of_mem _ img0 _ (List.mem_map.mpr ⟨i + 1, List.mem_range.mpr (by omega), rfl⟩)
  simp only [Option.isNone_iff_eq_none]
  intro e
  rw [e] at this
  simp at this
theorem test_drop_meets : mfind (0 : BitVec 16).toNat (regioned State.reset).images = some img0 ∧ img0.pav = 0 ∧ img0.dropping = false
    ∧ mfind (9 : BitVec 16).toNat (regioned State.reset).images = none ∧ ({ img0 with dropping := true } : Image).dropping = true
    ∧ ¬ Unused (regioned (on .s sTask)) 0 := by
  refine ⟨rfl, rfl, rfl, rfl, rfl, fun h => ?_⟩
  exact h.1 (0, 0, sTask) (by decide) rfl
theorem test_unused_meets : Unused (regioned State.reset) 0 := by
  refine ⟨fun t h => ?_, fun q h => ?_, fun v h => ?_, fun c h => ?_, fun c h => ?_⟩
  · exact absurd h (by rw [show (regioned State.reset).tasks = [] from rfl]; exact List.not_mem_nil)
  · exact absurd h (by rw [show (regioned State.reset).queued = [] from rfl]; exact List.not_mem_nil)
  · exact absurd h (by rw [show (regioned State.reset).saved = [] from rfl]; exact List.not_mem_nil)
  · exact absurd h (by rw [show (regioned State.reset).cores = [] from rfl]; exact List.not_mem_nil)
  · exact absurd h (by rw [show (regioned State.reset).crsubs = [] from rfl]; exact List.not_mem_nil)
/-- A launch record of region 0 and image 0, and one with a bad frame pointer. -/
def lrec (argb : Word64) : LaunchRec :=
  { argb := argb, energy := 900, join := 0, image := 0, region := 0, opts := 5 + 12 * 2 ^ 5 + 2 ^ 16 }
theorem test_act_launch_meets : recFault (regioned State.reset) 0 (launchView (launchBytes (lrec 0x2000))) false = none
    ∧ recFault (regioned State.reset) 0 (launchView (launchBytes (lrec (2 ^ 48)))) false = some 0 ∧ (regioned State.reset).accts.length < 2 ^ 20
    ∧ nbits (lrec 0x2000).opts.toNat 22 16 = 1 ∧ ((regioned State.reset).core 3).mbox = none
    ∧ (regionCores (regioned State.reset) 0 0).length < ((regionEff (regioned State.reset) 0 0).getD noEff).maxCores
    ∧ ((regioned State.reset).modCore 3 (fun k => { k with mbox := some (lrec 0) })).core 3 ≠ (regioned State.reset).core 3 := by decide +kernel
theorem test_act_room_meets : ∀ d l, roomFor (regioned State.reset) d l (launchView (launchBytes (lrec 0x2000))).gang = true :=
  fun d p => room_meets _ (fun d => by cases d <;> rfl) d p _ (by decide)
theorem test_act_full_meets : 2 ^ 20 ≤ ({ regioned State.reset with accts := manyAccts (2 ^ 20) } : State).accts.length
    ∧ recFault { regioned State.reset with accts := manyAccts (2 ^ 20) } 0 (launchView (launchBytes (lrec 0x2000))) false = none :=
  ⟨Nat.le_of_eq (many_accts (2 ^ 20)).symm, by decide +kernel⟩
theorem test_windows_meet : (0 : BitVec 16).toNat < 256 ∧ 256 ≤ (256 : BitVec 16).toNat ∧ (1023 : BitVec 16).toNat < 1024 ∧ 1024 ≤ (1024 : BitVec 16).toNat
    ∧ (0x10000 : Word64).toNat + (64 : Word64).toNat ≤ 2 ^ 48 ∧ (∀ a ∈ pagesOf 0x10000 64, windowPage (regioned State.reset) 0 a = true)
    ∧ (3 : BitVec 8).toNat < 4 ∧ 1 ≤ (1000 : Word32).toNat ∧ ¬ (1 ≤ (0 : Word32).toNat) ∧ pav0.st = .running := by decide +kernel
theorem test_status_meets : State.reset.stage ≠ .noDram ∧ mfind (1 : Word64).toNat [(1, launch0)] = some launch0 ∧ mfind (2 : Word64).toNat [(1, launch0)] = none
    ∧ State.reset.dev.signed < 2 ^ 40 ∧ 2 ^ 40 ≤ ({ State.reset.dev with signed := 2 ^ 40 } : Dev).signed := by decide

/-- A pavilion with a due notification queue, one message not acknowledged, and a device window of 64 bytes. -/
def nq1 : NQueue := { emptyNq with vals := [(5, 0)] }
def nmsg (n : Nat) : NMsg := { ip := 0, port := 0, bytes := [], last := 0, resent := n }
def pavH : Pav := { pav0 with nqs := [(7, nq1)], unacked := [(4, nmsg 7)], dwins := [(4, { va := 0x10000, len := 64, rights := 3, rkey := 0 })] }
def hostState : State := { paged .coh (on .s sTask) with pavs := [(0, pavH)] }
theorem test_notify_meets : hostState.pav? (0 : PavId).val = some pavH ∧ mfind 7 pavH.nqs = some nq1 ∧ nq1.due hostState.cyc = true ∧ (0 : Nat) < nq1.rate.toNat
    ∧ emptyNq.due 0 = false ∧ mfind 4 pavH.unacked = some (nmsg 7) ∧ 800000 ≤ ((800000 : Word64) - (nmsg 7).last).toNat
    ∧ ((799999 : Word64) - (nmsg 7).last).toNat < 800000 ∧ (nmsg 7).resent < 8 ∧ 8 ≤ (nmsg 8).resent ∧ mfind 5 pavH.unacked = none := by decide
theorem test_rdma_meets : devWin hostState 0 4 8 16 1 .write = some 0x10008 ∧ devWin hostState 0 4 8 16 0 .read = some 0x10008
    ∧ devWin hostState 0 5 8 16 0 .read = none ∧ rangePoison hostState 0 0x10008 16 = false ∧ rangePoison { hostState with poison := [0x200] } 0 0x10008 16 = true
    ∧ hostState.readVa (bridgeDie 0) 0 0x10008 4 = some [0, 0, 0, 0] ∧ hostState.stage = .running ∧ State.reset.stage ≠ .running := by decide +kernel
theorem test_rocev2_meets : HostSlot (slot0 (.hostRd 0x10000 0 8 0) .sent) ∧ (slot0 (.hostRd 0x10000 0 8 0) .sent).stage = .sent
    ∧ ¬ HostSlot (slot0 .itin .sent) ∧ (slot0 (.hostRd 0x10000 0 8 0) .sent).pav = 0
    ∧ (slotted (slot0 (.hostRd 0x10000 0 8 0) .sent)).slot? 0 0 = some (slot0 (.hostRd 0x10000 0 8 0) .sent)
    ∧ (slotted (slot0 (.hostRd 0x10000 0 8 0) .sent)).slotId? 0 0 = some (0, slot0 (.hostRd 0x10000 0 8 0) .sent) := by
  refine ⟨.inl ⟨_, _, _, _, rfl⟩, rfl, ?_, rfl, rfl, by decide +kernel⟩
  rintro (⟨_, _, _, _, h⟩ | ⟨_, _, _, _, h⟩) <;> cases h
/-- The options of a plain frame. -/
def opts0 : FrameOpts :=
  { len := 64, tags := 0, fragment := false, ipOptions := false, multicast := false, sumZero := false, reliable := true, mtu := 4096
    atomic := false, immediate := false, window2 := false }
/-- A frame for the endpoint of pavilion 0, which takes IPv4. -/
def frameH (b : FrameBody) (ok : Bool) : HostFrame :=
  { mac := macOf 0, vlan := none, ip4 := some 0, ip6 := none, port := 47000, opts := { opts0 with fragment := !ok }, body := b }
def epState : State := { hostState with pavs := [(0, { pavH with net := { pavH.net with pflags := 4 } })] }
theorem test_host_frame_meets : endpointOf epState (frameH .cnp true) = some 0 ∧ portAlive epState = true ∧ portAlive State.reset = false
    ∧ (frameH .cnp true).supported = true ∧ (frameH .cnp false).supported = false ∧ bridgeUp hostState 0 = true
    ∧ endpointOf epState { frameH .cnp true with ip4 := none } = none ∧ actPort pavH = (frameH (.act []) true).port := by
  refine ⟨?_, rfl, rfl, rfl, rfl, rfl, ?_, rfl⟩
  · simp [endpointOf, epState, matchesEndpoint, frameH, pavH, pav0, newPav, net0]
  · simp [endpointOf, epState, matchesEndpoint, frameH]

/-- A message of pavilion 0 under its command key. -/
def msgH (op flags : Nat) (seq : Word32) (body : List Byte) : List Byte := actMessage pav0.net.cmdkey op flags 0 seq 0 body
theorem test_authentic_meets : Authentic pav0 0 (msgH 5 0 0 (2 :: bytesOf 15 0)) ∧ Formed (msgH 5 0 0 (2 :: bytesOf 15 0)) ∧ Authentic pav0 0 (msgH 5 4 0 [])
    ∧ ¬ Formed (msgH 5 4 0 []) ∧ ¬ Authentic pav0 0 [] ∧ Authentic pav0 0 (msgH 0x40 3 4 []) ∧ Formed (msgH 0x40 3 4 [])
    ∧ field (msgH 0x40 3 4 []) 2 2 = 3 ∧ (msgH 0x40 3 4 []).drop 24 = [] := by unfold Authentic Formed; decide +kernel
theorem test_command_meets : (let m := msgH 5 0 64 (2 :: bytesOf 15 0); 64 ≤ (BitVec.ofNat 32 (field m 8 4) - pav0.nseq).toNat ∧ Authentic pav0 0 m ∧ Formed m
      ∧ field m 2 2 = 0)
    ∧ (let m := msgH 0x81 0 0 (bytesOf 8 0); Authentic pav0 0 m ∧ Formed m ∧ field m 1 1 = 0x81)
    ∧ (let m := msgH 5 1 0 (2 :: bytesOf 15 0); Authentic pav0 0 m ∧ Formed m ∧ field m 2 2 ≠ 0)
    ∧ (let m := msgH 9 1 0 []; Authentic pav0 0 m ∧ Formed m ∧ field m 1 1 = 9)
    ∧ checkPayload 5 (2 :: bytesOf 15 1) = .violation ∧ checkPayload 5 (2 :: bytesOf 15 0) = .ok ∧ checkPayload 9 [] = .unknown
    ∧ checkPayload 5 [] = .refuse 0 ∧ field (2 :: bytesOf 15 0) 0 1 = 2 ∧ field (2 :: bytesOf 15 0) 8 8 = 0 := by
  unfold Authentic Formed; decide +kernel
theorem test_order_meets : (let m := msgH 5 0 3 (2 :: bytesOf 15 0); (BitVec.ofNat 32 (field m 8 4) - pav0.nseq).toNat = 3)
    ∧ mfind pav0.nseq.toNat pav0.heldCmds = none ∧ 2 ^ 32 - 64 ≤ ((0 : Word32) - 1).toNat ∧ mfind (0 : Word32).toNat [(0, ([] : List Byte))] = some []
    ∧ pav0.heldCmds = [] ∧ pav0.pendingReply = [] ∧ (State.reset.stage ≠ .noDram) := by decide +kernel

-- R268, Table 10-13: STATUS of kind 2 answers with 64 bytes of counters
theorem test_counters : after (exec (.statusCounters 0 9 0) hostState) (fun s => s.out.length = 1) := by decide
-- R250: a message that does not verify is counted in DROPACT
theorem test_dropact : after (exec (.actMessageReceive 0 []) hostState) (fun s => (s.pav? 0).map (fun p => p.ctr.dropAct) = some 1) := by decide


/-! ## Management -/

/-- A device of the management pavilion and one tenant. -/
def managed (p : Pav) (m : Pav) (s : State) : State := { paged .coh s with pavs := [(0, p), (128, m)] }
def mgmt0 : Pav := { newPav { net0 with pav := 128 } 0 0 with troot := 0x1000 }
theorem test_managed_meets : (managed pav0 mgmt0 (on .s sTask)).pav? 128 = some mgmt0 ∧ (managed pav0 mgmt0 (on .s sTask)).pav? (0 : BitVec 8).toNat = some pav0
    ∧ (managed pav0 mgmt0 (on .s sTask)).pav? (9 : BitVec 8).toNat = none ∧ 128 ≤ (200 : BitVec 8).toNat ∧ (0 : BitVec 8).toNat < 128
    ∧ pav0.st = .running ∧ pav0.st ≠ .frozen ∧ ({ pav0 with st := .frozen, wasReset := true } : Pav).wasReset = true ∧ pav0.wasReset = false
    ∧ (1 : BitVec 16) ≠ 0 ∧ (managed pav0 mgmt0 (on .s sTask)).task? 0 0 = some sTask ∧ sTask.pav = 0
    ∧ (∀ y ∈ (managed pav0 mgmt0 (on .s sTask)).tasks, (managed pav0 mgmt0 (on .s sTask)).task? y.1 y.2.1 = some y.2.2)
    ∧ (∀ v ∈ (managed pav0 mgmt0 (on .s sTask)).saved, v.2.task.pav ≠ 0) := by
  refine ⟨rfl, rfl, rfl, by decide, by decide, rfl, by decide, rfl, rfl, by decide, rfl, rfl, by decide +kernel, ?_⟩
  intro v h
  exact absurd h (by rw [show (managed pav0 mgmt0 (on .s sTask)).saved = [] from rfl]; exact List.not_mem_nil)
theorem test_no_endpoint_meets : (managed pav0 mgmt0 (on .s sTask)).pav? (9 : PavId).val = none ∧ (managed pav0 mgmt0 (on .s sTask)).stage = .running
    ∧ bridgeUp (managed pav0 mgmt0 (on .s sTask)) 9 = true ∧ mgmt.val = 128 := by decide +kernel
theorem test_destroy_meets : pav0.key ≠ 0 ∧ (∀ x ∈ (managed { pav0 with st := .frozen, wasReset := true } mgmt0 State.reset).pavs, x.1 ≠ 0 → x.2.key ≠ pav0.key) := by
  decide
theorem test_pavmem_meets : rootInside (0x1000 : Word64).toNat pav0.ranges = true ∧ ([((0 : Word64), (0x200000 : Word64))]).length ≤ 64
    ∧ rootInside (0x1000 : Word64).toNat (rangesOf [((0 : Word64), (0x200000 : Word64))]) = true
    ∧ rangesBad (managed pav0 mgmt0 State.reset) 0 0x10 [((0 : Word64), (0x200000 : Word64))] = [] := by decide
/-- A tile of the tenant in memory that it is to lose. -/
theorem test_pavmem_tiles_meet : (tilesKnown (tarned (managed pav0 mgmt0 State.reset)) 0 pav0).map (·.1) = [line0.tag]
    ∧ tileOutside (tarned (managed pav0 mgmt0 State.reset)) 0 (rangesOf [((0x200000 : Word64), (0x200000 : Word64))]) line0.tag desc0 = true
    ∧ rootInside (0x200000 : Word64).toNat (rangesOf [((0x200000 : Word64), (0x200000 : Word64))]) = true
    ∧ rangesBad (tarned (managed pav0 mgmt0 State.reset)) 0 0x10 [((0x200000 : Word64), (0x200000 : Word64))] = []
    ∧ 4 ≤ (4 : BitVec 8).toNat ∧ 16 ≤ ({ net0 with pflags := 16 } : NetCfg).pflags.toNat ∧ net0.pflags.toNat < 16 := by decide +kernel
/-- The command of SEQ 6 that waits for the tenant's freeze or reset. -/
def asking : Pav := { mgmt0 with pendingReply := [(6, 0)] }
theorem test_freeze_meets : (∃ y ∈ (managed pav0 mgmt0 (on .s sTask)).tasks, y.2.2.pav = 0) ∧ (managed { pav0 with st := .freezing } asking State.reset).tasks = []
    ∧ asking.heldCmds = [] ∧ asking.pendingReply.find? (fun r => r.2 = 0) = some (6, 0)
    ∧ tilesLeft (managed { pav0 with st := .resetting } asking State.reset) (ofPav 0 pav0.key) = false
    ∧ ((managed pav0 mgmt0 State.reset).pav? 128).all (fun x => x.heldCmds = []) := by
  refine ⟨⟨(0, 0, sTask), by decide, rfl⟩, rfl, rfl, rfl, by decide, by decide⟩
/-- The network settings of a new tenant, a range above the first tenant's, an HSS key. -/
def net9 : NetCfg := { net0 with pav := 9 }
def hssKey : List Byte := [0, 0, 0, 2, 0, 0, 0, 8, 0, 0, 0, 4] ++ bytesOf 48 0
theorem test_create_meets : net9.pav.toNat < 128 ∧ (managed pav0 mgmt0 State.reset).pav? 9 = none ∧ netBad net9 = [] ∧ (∀ k ∈ [hssKey], hssKeyOk k = true)
    ∧ (0x8000 : Word64).toNat % 8 = 0 ∧ 1 ≤ (65536 : Word32).toNat ∧ (65536 : Word32).toNat ≤ 65536
    ∧ rootInside (0x80001000 : Word64).toNat (rangesOf [((0x80000000 : Word64), (0x200000 : Word64))]) = true
    ∧ rangesBad (managed pav0 mgmt0 State.reset) 9 0x50 [((0x80000000 : Word64), (0x200000 : Word64))] = []
    ∧ (managed pav0 mgmt0 State.reset).dev.keyPool ≠ [] ∧ ({ State.reset.dev with keyPool := [] } : Dev).keyPool = []
    ∧ bridgeUp (managed pav0 mgmt0 State.reset) 128 = true
    ∧ netBad net0 = [] ∧ netBad { net0 with pav := 128 } = [] ∧ (mgmt.val = 128) ∧ ((0 : PavId).val ≠ 128) := by decide +kernel
def flashed : PavCfg :=
  { net := net9, rtab := 0x8000, rtlen := 1, shost := 1, sdram := 1, sinj := 1, troot := 0x80001000
    ranges := [(0x80000000, 0x200000)], keys := [hssKey] }
theorem test_flash_meets : createBad State.reset flashed = none := by decide +kernel
theorem test_stats_meet : (15 : BitVec 8).toNat < 16 ∧ 16 ≤ (16 : BitVec 8).toNat ∧ (63 : BitVec 8).toNat < 64 ∧ 64 ≤ (64 : BitVec 8).toNat
    ∧ (0x8000 : Word64).toNat % 32 = 0 ∧ (managed pav0 mgmt0 State.reset).classAt 0 128 0x8000 = some .coh := by decide +kernel
theorem test_nodecfg_meets : (1 : BitVec 16) ≠ 0xFFFF ∧ 0x0600 ≤ (0x88B5 : BitVec 16).toNat ∧ ([((2 : BitVec 16), (0x8001 : BitVec 16))].map (·.1)).Nodup
    ∧ (1 : BitVec 16) ∉ [((2 : BitVec 16), (0x8001 : BitVec 16))].map (·.1)
    ∧ (List.range 16).countP (fun i => (0x8001 : BitVec 16).getLsbD i) = 2 := by
  refine ⟨by decide, ?_, by decide, by decide, by decide⟩
  show 0x0600 ≤ 0x88B5
  omega

-- R389: FREEZE of a running pavilion begins the freeze and answers nothing yet
theorem test_freeze : after (exec (.freeze 1 0) (managed pav0 mgmt0 (on .s sTask))) (fun s =>
    ((s.pav? 0).map (·.st) = some PState.freezing) && s.out.isEmpty) := by decide
-- R392: a command for a tenant that does not exist is refused
theorem test_unfreeze_refused : after (exec (.unfreeze 1 9) (managed pav0 mgmt0 State.reset)) (fun s => s.out.length = 1) := by decide


/-! ## Encoding -/

theorem test_wf_meets : (Instr.addi ⟨.none, .s 5, 5⟩).wf .s = true ∧ (Instr.grow 3 0 true 16).wf .m = true
    ∧ decode .s [0x4181, 0x4005, 7] = .ok (.addi ⟨.none, .s 5, 5⟩, 2) := by decide +kernel

-- WellFormed refuses a term for each of its checks; expected: the rules that the checks cite
theorem test_refused_scalar : (Instr.ld ⟨.s 1, .s 4, .b8, true, 0, 0⟩).wf .s = false ∧ (Instr.bfi ⟨.none, .s 1, 0, 4⟩).wf .s = false
    ∧ (Instr.awr .s 1 (.s 0)).wf .s = false ∧ (Instr.spawn .s 4).wf .s = false ∧ (Instr.waitTok .s 1).wf .s = false ∧ (Instr.waitTok .v 0).wf .s = false
    ∧ (Instr.tksend .s 1).wf .s = false ∧ (Instr.tksend .v 0).wf .s = false ∧ (Instr.loopImm true 0 1).wf .s = false
    ∧ (Instr.loopImm true 2 0).wf .s = false ∧ (Instr.loopRegS true 0 (.s 1)).wf .s = false ∧ (Instr.loopRegA true 0 1).wf .v = false := by decide +kernel
theorem test_refused_stream : (Instr.addi ⟨.none, .s 5, 5⟩).wf .v = false ∧ (Instr.mmaC 5).wf .c = false ∧ (Instr.swadd 4 3).wf .m = false
    ∧ (Instr.knot 1 0).wf .s = false ∧ (Instr.acinc 2 1 1).wf .s = false ∧ (Instr.crMigrate 0).wf .s = false := by decide +kernel
def vop (t : ETy) : V3 := ⟨1, .v 2, .v 3, false, false, 0, t, false⟩
theorem test_refused_vector : (Instr.vadd (vop .i32)).wf .v = false ∧ (Instr.viadd (vop .f32)).wf .v = false ∧ (Instr.vand (vop .i8)).wf .v = false
    ∧ (Instr.vadd (vop .bf16)).wf .v = true ∧ (Instr.vand (vop .n32)).wf .v = true := by decide +kernel
theorem test_refused_others : (Instr.gslot 0 65).wf .s = false ∧ (Instr.gslot 1 64).wf .m = true
    ∧ (Instr.tcpin ⟨.all, 1, 0, false⟩).wf .c = false ∧ (Instr.tcpin ⟨.run 1 0, 1, 0, false⟩).wf .c = false
    ∧ (Instr.tcinv ⟨.all, 1, 2, false⟩).wf .c = false ∧ (Instr.tcfls ⟨.all, 1, 0, true⟩).wf .c = false
    ∧ (Instr.tcitn 1 2 .pin 0).wf .c = false ∧ (Instr.tcitn 1 2 .none 3).wf .c = false ∧ (Instr.tcitn 1 2 .none 4).wf .c = true := by decide +kernel

-- words of Tables 4-3, 4-5, 4-8 and of R104
theorem test_words_scalar : decode .s [0x4080, 0xA401] = .ok (.sub ⟨.none, .s 2, .q 2, false⟩, 2)
    ∧ decode .s [0x4A23, 0xB2A1] = .ok (.lui (.s 4) 0x3B2A1, 2) ∧ decode .s [0x4121, 0x1210] = .ok (.addi ⟨.s 4, .s 4, 0x1210⟩, 2)
    ∧ decode .s [0x4F08, 0xBFFA] = .ok (.bne ⟨.s 1, .s 2, -6⟩, 2) ∧ decode .s [0x5B31, 0x0A13] = .ok (.amoadd ⟨.s 6, .s 4, .s 5, false, .dev⟩, 2)
    -- R24: class 01 of a major that is class 10
    ∧ decode .s [0x4B00, 0x0005] = .error .word := by decide +kernel
-- words of Table 5-2
theorem test_words_vector : decode .v [0x940A, 0x1400, 0] = .ok (.vld ⟨20, 1, 2, 0, 0, .f32, 0⟩, 3)
    ∧ decode .v [0x810A, 0x8500, 0x0B00] = .ok (.vfma ⟨21, .v 20, .v 22, false, false, 0, .f32, false⟩, 3)
    ∧ decode .v [0x810A, 0x8500, 0x0B40] = .ok (.vfma ⟨21, .v 20, .v 22, true, false, 0, .f32, false⟩, 3)
    ∧ decode .v [0x800B, 0x8602, 0x0C80] = .ok (.vmul ⟨23, .v 24, .v 25, false, false, 0, .f32, false⟩, 3) := by decide +kernel
-- words of R160 and Table 6-7
theorem test_words_matrix : decode .m [0x8200, 0x0025, 0x0440] = .ok (.mmk ⟨0, 0, 0, 1, 1, .acc, .bf16, false⟩ 4 1 0, 3)
    ∧ decode .m [0x800C, 0x44B1, 0x1000] = .ok (.mma ⟨3, 2, 1, 5, 4, .acc, .bf16, false⟩ 1 0 .none .none false, 3)
    ∧ decode .m [0x8404, 0x2000, 0x0500] = .ok (.msca 1 2 (.v 10) .scalar, 3) ∧ decode .m [0x4600, 0x1FF6] = .ok (.mzero 0 1 (-10), 2)
    ∧ decode .m [0x4708, 0x0FEB] = .ok (.manch 2 (-21), 2) ∧ decode .m [0x4910, 0x3000] = .ok (.aalloc 4 3 false, 2)
    ∧ decode .m [0x4D00, 0x2040] = .ok (.mstb 2 64, 2) ∧ decode .m [0x4300, 0x5000] = .ok (.mres 0 5, 2) := by decide +kernel
theorem test_words_grammar : decode .m [0x5020, 0] = .ok (.gload 1, 2) ∧ decode .m [0x5104, 0x0004] = .ok (.gslot 8 4, 2)
    ∧ decode .m [0x5200, 0x2000] = .ok (.gxwin 128 false, 2) ∧ decode .m [0x5300, 0] = .ok (.geval 0, 2) := by decide +kernel
-- words of Table 7-12
theorem test_words_copy : decode .c [0x8029, 0x8000, 0] = .ok (.cpy 1 2 3 ⟨0, false⟩ 0, 3)
    ∧ decode .c [0x8408, 0x4A11, 0] = .ok (.cpyt 0 (some 2) ⟨4, true⟩ 1 1 false .none, 3)
    ∧ decode .c [0x8420, 0x4A10, 0] = .ok (.cpyt 1 none ⟨4, true⟩ 1 1 false .none, 3)
    ∧ decode .c [0x8850, 0x0400, 0x0008] = .ok (.tcpin ⟨.run 1 8, 1, 0, false⟩, 3) ∧ decode .c [0x8D60, 0x0400, 0] = .ok (.tcqry 3 1 0 false, 3) := by decide +kernel
-- words of Table 8-7
theorem test_words_system : decode .s [0x7918, 0] = .ok (.mfsrS (.s 3) 0, 2) ∧ decode .s [0x7B51, 0x4000] = .ok (.awr .v 2 (.s 5), 2)
    ∧ decode .v [0x7C24, 0x1000] = .ok (.aadd 1 1 4096, 2) ∧ decode .v [0x7E48, 0x0001] = .ok (.acinc 2 1 1, 2)
    ∧ decode .v [0x7360, 0x3FF8] = .ok (.bnzA 3 (-8), 2) ∧ decode .s [0x7508, 0x6000] = .ok (.waitGenS (.s 4) (.s 6), 2)
    ∧ decode .v [0x7562, 0] = .ok (.waitTok .m 2, 2) ∧ decode .s [0x7644, 0] = .ok (.tksend .v 1, 2) ∧ decode .s [0x7700, 0] = .ok (.halt, 2) := by decide +kernel
theorem test_words_events : decode .s [0x6540, 0x0014] = .ok (.spawn .v 20, 2) ∧ decode .s [0x6600, 0] = .ok (.exit, 2) ∧ decode .s [0x6918, 0x8000] = .ok (.tdld 3 (.s 2), 2)
    ∧ decode .s [0x6B01, 0x0A00] = .ok (.swinit (.s 4) (.s 5), 2) ∧ decode .s [0x6C01, 0] = .ok (.barr (.s 4), 2)
    ∧ decode .s [0x9D19, 0x0014, 0x2800] = .ok (.rld (.s 3) (.s 4) false .sys (.s 5), 3) ∧ decode .s [0x6E00, 0x0012] = .ok (.trap 0x12, 2)
    ∧ decode .s [0x6F39, 0x4C07] = .ok (.grant (.s 7) (.s 5) (.s 6), 2) := by decide +kernel

/-! ## Steps -/

/-- The turn of a stream of the one task is next. -/
def turning (k : Stream) (t : Task) : State := { coded 0 k t with agenda := [{ ev := none, ctx := { core := 0, slot := 0, stream := k }, cycles := 4 }] }
theorem test_turn_meets : TurnOf (turning .s (inBlock .s [0x4181, 0x4005])) { core := 0, slot := 0, stream := .s } 4 [] (inBlock .s [0x4181, 0x4005])
    ∧ ((inBlock .s [0x4181, 0x4005]).st .s).phase = .inBlock
    ∧ (mget Stream.s.code { busy := none } ((turning .s (inBlock .s [0x4181, 0x4005])).core 0).engines).busy = none
    ∧ decode .s (ahead ((inBlock .s [0x4181, 0x4005]).st .s)) = .ok (.addi ⟨.none, .s 5, 5⟩, 2)
    ∧ badStamp (inBlock .s [0x4181, 0x4005]) .s (.addi ⟨.none, .s 5, 5⟩) = false
    ∧ decode .s (ahead ((inBlock .s [0x4B00, 0x0005]).st .s)) = .error .word
    ∧ badStamp { inBlock .m [0x7700, 0] with stamp := some 5 } .m .halt = true :=
  ⟨⟨rfl, rfl, rfl, rfl, rfl, rfl⟩, rfl, rfl, by decide +kernel, by decide +kernel, by decide +kernel, by decide +kernel⟩
theorem test_header_turn_meets : TurnOf (turning .s atHead) { core := 0, slot := 0, stream := .s } 4 [] atHead ∧ (atHead.st .s).phase = .atHeader
    ∧ nbits (((turning .s atHead).core 0).headerAt (atHead.st .s).pc.toNat).toNat 31 30 = 3 ∧ nbits ((State.reset.core 0).headerAt 4).toNat 31 30 ≠ 3
    ∧ (atHead.st .s).wait = none ∧ (atHead.st .v).phase = .halted := ⟨⟨rfl, rfl, rfl, rfl, rfl, rfl⟩, rfl, rfl, by decide, rfl, rfl⟩
theorem test_engine_busy_meets : (mget Stream.s.code { busy := none } (((turning .s sTask).modCore 0 (fun k => { k with
    engines := mset Stream.s.code { busy := some 2 } k.engines })).core 0).engines).busy = some 2 := by decide +kernel
theorem test_event_turn_meets : isEvent .ltimeTick = true ∧ State.reset.stage ≠ .off ∧ State.reset.agenda = [] := by decide +kernel
theorem test_fetch_word_meets : readTableWord 32 0x41814005 = some (.s, .addi ⟨.none, .s 5, 5⟩) ∧ (State.reset.core 0).withheld = false
    ∧ (State.reset.core 0).engines = [] := by decide +kernel
theorem test_memory_step_meets : Memory.wf (turning .s sTask).mem = true ∧ after (step (turning .s sTask)) (fun _ => true) = true := by decide +kernel

-- a step runs the decoded instruction: R17, one ADDI writes Q1 and its turn takes the 4 cycles that the agenda gives
theorem test_step : after (step (turning .s (inBlock .s [0x4181, 0x4005]))) (fun s => s.cyc = 4 && s.agenda.isEmpty
    && (match s.task? 0 0 with | some t => t.q.head? = some 5 && (t.st .s).phase ≠ .atHeader | none => false)) := by decide +kernel

end Sys2Proof.Tests
end

section
/-!
PROOFS. Reset: what a turn right after reset comes to, and that reset leaves the device empty (spec/01 R16, spec/10 R266).
-/

namespace Sys2Proof.Reset
open Sys2Proof Sys2Proof.Machine

/-- A stream of a slot that holds no task issues nothing: its turn only makes it the current one. -/
theorem streamTurn_noTask {s : State} {x : Ctx} (h : s.task? x.core.val x.slot.val = none) :
    streamTurn s x = .done { s with cur := x } := by
  have : canIssue { s with cur := x } x = false := by
    unfold canIssue
    rw [show ({ s with cur := x } : State).task? x.core.val x.slot.val = none from h]
  simp [streamTurn, this]

/-- The device right after reset, n cycles on, with a stream current. -/
def idle (c : Ctx) (n : Word64) : State := { State.reset with cur := c, cyc := n }

theorem step_reset_turn (c : Ctx) :
    step { State.reset with agenda := [{ ev := none, ctx := c, cycles := 1 }] } = .next ((idle c 0).pass 1) := by
  have turn : nextTurn { State.reset with agenda := [{ ev := none, ctx := c, cycles := 1 }] } = (.done (idle c 0), 1) :=
    congrArg (·, 1) (streamTurn_noTask rfl)
  simp only [step, turn]

/-- Cycle 1 begins no tick (R344). -/
theorem endTick_idle (c : Ctx) : (idle c 1).endTick = idle c 1 :=
  if_pos (by simp [tickDue, idle, State.reset])

/-- Cycle 1 lies in the router window that reset begins (R409). -/
theorem pressure_idle (c : Ctx) : (idle c 1).pressure = idle c 1 :=
  if_pos (by simp [idle, State.reset])

theorem arrive_idle (c : Ctx) : (idle c 1).arrive = idle c 1 := by
  have exhaustAll_idle : (idle c 1).exhaustAll = idle c 1 := rfl
  simp only [State.arrive, exhaustAll_idle, endTick_idle, pressure_idle]
  rfl

/-- Nothing falls due on the first cycle, so that it passes alone. -/
theorem pass_idle (c : Ctx) : (idle c 0).pass 1 = idle c 1 := by
  have endCycle_idle : (idle c 0).postLosses.endCycle = idle c 0 := rfl
  have untilDue_idle : untilDue (idle c 0) 1 = 1 := rfl
  have passWithin_idle : (idle c 0).passWithin 1 = idle c 1 := rfl
  simp only [State.pass, State.passFor, endCycle_idle, untilDue_idle, passWithin_idle, arrive_idle]

/-- Settles O60, by computation: reset lists nothing, and a stream's turn passes its cycle. -/
theorem resetLeavesTheDeviceEmpty : Obligations.ResetLeavesTheDeviceEmpty := by
  unfold Obligations.ResetLeavesTheDeviceEmpty
  refine ⟨rfl, rfl, rfl, rfl, rfl, rfl, fun _ => rfl, rfl, fun _ => ⟨rfl, rfl⟩, fun _ => ⟨rfl, rfl⟩, rfl, fun _ _ => rfl,
    fun _ => rfl, rfl, fun c => ⟨idle c 1, ?_, rfl, rfl⟩⟩
  rw [step_reset_turn, pass_idle]

end Sys2Proof.Reset
end

section
/-!
PROOFS. Memory stays canonical: the forms in which an operation answers a state, and the rules for choices and repeated changes.
-/

namespace Sys2Proof.Canonical
open Sys2Proof Sys2Proof.Machine Sys2Proof.Laws

/-! ## The forms in which operations answer a state -/

/-- An outcome whose next state, where there is one, has its memory in canonical form. -/
def OutWf : Out → Prop
  | .next s => WfMem s
  | .fault _ => True
  | .refused _ => True

/-- What a matrix instruction comes to, with the memory of its state in canonical form. -/
def GoWf : MGo → Prop
  | .issue s _ _ => WfMem s
  | .parks s _ => WfMem s
  | .wait s => WfMem s
  | .hold s => WfMem s
  | .begun s => WfMem s
  | .done s => WfMem s
  | .broke s => WfMem s

/-- What a product comes to, with the memory of its state in canonical form. -/
def PGoWf : PGo → Prop
  | .fired s _ => WfMem s
  | .parked s _ => WfMem s
  | .wait s => WfMem s
  | .hold s => WfMem s
  | .done s => WfMem s

/-- What a read of the M stream comes to, with the memory of its state in canonical form. -/
def ReadWf : MRead → Prop
  | .ok s _ => WfMem s
  | .later s => WfMem s
  | .miss _ => True
  | .bad _ _ => True

/-- What the storing of a tile comes to, with the memory of its state in canonical form. -/
def TileWf : TileWrite → Prop
  | .ok s _ => WfMem s
  | .bad _ _ => True

/-- What the submission of a launch comes to, with the memory of its state in canonical form. -/
def SubmittedWf : Submitted → Prop
  | .ok s _ => WfMem s
  | .bad _ => True
  | .full => True

/-- What a turn comes to, with the memory of its state in canonical form. -/
def TodoWf : Todo → Prop
  | .run _ s => WfMem s
  | .done s => WfMem s

theorem wf_of_eq {α : Type} {p q : State × α} (e : p = q) (h : WfMem p.1) : WfMem q.1 := e ▸ h
theorem outWf_of_eq {x y : Out} (e : x = y) (h : OutWf x) : OutWf y := e ▸ h
theorem goWf_of_eq {x y : MGo} (e : x = y) (h : GoWf x) : GoWf y := e ▸ h
theorem pgoWf_of_eq {x y : PGo} (e : x = y) (h : PGoWf x) : PGoWf y := e ▸ h
theorem readWf_of_eq {x y : MRead} (e : x = y) (h : ReadWf x) : ReadWf y := e ▸ h
theorem submittedWf_of_eq {x y : Submitted} (e : x = y) (h : SubmittedWf x) : SubmittedWf y := e ▸ h
theorem tileWf_of_eq {x y : TileWrite} (e : x = y) (h : TileWf x) : TileWf y := e ▸ h

/-! ## Choices and repeated changes -/

section
variable {c : Prop} {dec : Decidable c}

theorem wf_ite {a b : State} (ha : WfMem a) (hb : WfMem b) : WfMem (if c then a else b) :=
  iteInduction (fun _ => ha) (fun _ => hb)
theorem wf_ite_fst {α : Type} {a b : State × α} (ha : WfMem a.1) (hb : WfMem b.1) : WfMem (if c then a else b).1 :=
  iteInduction (motive := fun p : State × α => WfMem p.1) (fun _ => ha) (fun _ => hb)
theorem outWf_ite {a b : Out} (ha : OutWf a) (hb : OutWf b) : OutWf (if c then a else b) :=
  iteInduction (fun _ => ha) (fun _ => hb)
theorem goWf_ite {a b : MGo} (ha : GoWf a) (hb : GoWf b) : GoWf (if c then a else b) :=
  iteInduction (fun _ => ha) (fun _ => hb)
theorem pgoWf_ite {a b : PGo} (ha : PGoWf a) (hb : PGoWf b) : PGoWf (if c then a else b) :=
  iteInduction (fun _ => ha) (fun _ => hb)
theorem readWf_ite {a b : MRead} (ha : ReadWf a) (hb : ReadWf b) : ReadWf (if c then a else b) :=
  iteInduction (fun _ => ha) (fun _ => hb)
theorem todoWf_ite {a b : Todo} (ha : TodoWf a) (hb : TodoWf b) : TodoWf (if c then a else b) :=
  iteInduction (fun _ => ha) (fun _ => hb)

end

theorem wf_each {α : Type} {f : α → State → State} {l : List α} {s : State} (h : WfMem s) (hf : ∀ a s, WfMem s → WfMem (f a s)) :
    WfMem (each l f s) := each_keeps WfMem f hf l s h

theorem wf_foldl {α : Type} {f : State → α → State} {l : List α} {s : State} (h : WfMem s)
    (hf : ∀ s a, WfMem s → WfMem (f s a)) : WfMem (l.foldl f s) := wf_each (f := fun a s => f s a) h fun a s => hf s a

theorem wf_foldl_fst {α β : Type} {f : State × β → α → State × β} {l : List α} {p : State × β} (h : WfMem p.1)
    (hf : ∀ p a, WfMem p.1 → WfMem (f p a).1) : WfMem (l.foldl f p).1 := by
  induction l generalizing p with
  | nil => exact h
  | cons a l ih => exact ih (hf p a h)

theorem wf_orElse {o : Out} {s : State} (ho : OutWf o) (h : WfMem s) : WfMem (orElse o s) := by
  cases o with
  | next s => exact ho
  | fault r => exact h
  | refused r => exact h

end Sys2Proof.Canonical
end

section
/-!
PROOFS. Memory stays canonical: `wf_f` says that the operation `f` of the model keeps the canonical form. An operation that only
updates other fields of the state needs no such lemma, its memory being that of the state before by definition; one that chooses
between states, repeats a change or writes memory has one. Where the operation may give no state or answers one beside a value, the
lemma is about the state it gives. The lemmas stand in the order and under the names of the model's files.
-/

namespace Sys2Proof.Canonical
open Sys2Proof Sys2Proof.Machine Sys2Proof.Laws
variable {s : State}

/-! ## Access -/

theorem wf_modPav {p f} (h : WfMem s) : WfMem (s.modPav p f) := by
  unfold State.modPav
  split <;> exact h

theorem wf_modTask {c l f} (h : WfMem s) : WfMem (s.modTask c l f) := by
  unfold State.modTask
  split <;> exact h

theorem wf_modCur {f} (h : WfMem s) : WfMem (s.modCur f) := wf_modTask h

theorem wf_modSt {f} (h : WfMem s) : WfMem (s.modSt f) := wf_modCur h

theorem wf_onTask {f : Machine.Task → State} (hf : ∀ t, WfMem (f t)) : OutWf (onTask s f) := by
  unfold onTask
  split
  · exact trivial
  · exact hf _

/-! ## Fabric -/

theorem wf_countOld {p i} (h : WfMem s) : WfMem (s.countOld p i) := by
  unfold State.countOld
  extract_lets
  split
  · exact h
  · exact wf_ite h h

theorem wf_pressure (h : WfMem s) : WfMem s.pressure := wf_ite h h

theorem wf_addRop {op cap} (h : WfMem s) : WfMem (s.addRop op cap) := by
  unfold State.addRop
  extract_lets
  split <;> exact h

theorem wf_sendFrames {id} (h : WfMem s) : WfMem (s.sendFrames id) := by
  unfold State.sendFrames
  split <;> exact h

theorem wf_answer {a} (h : WfMem s) : WfMem (s.answer a) := by
  unfold State.answer
  extract_lets
  split <;> exact h

/-! ## Mem -/

theorem wf_startWalk {die pav va} (h : WfMem s) : WfMem (startWalk s die pav va) := wf_ite h (wf_ite h h)

theorem wf_walkIn {die pav vas} (h : WfMem s) : WfMem (s.walkIn die pav vas) := by
  unfold State.walkIn
  refine wf_each h fun _ s1 hs => ?_
  refine wf_ite hs ?_
  split <;> exact hs

/-- The stamps of a line are no part of memory. -/
theorem wf_stamp {pa w} (h : WfMem s) : WfMem (s.stamp pa w) := by
  unfold WfMem
  rw [stamp_mem]
  exact h

/-- The end of a tick on any list of cores. -/
theorem wf_tickCores {cs : List Nat} (h : WfMem s) :
    WfMem ((each cs (fun c s => s.modCore c Core.tick) s).modDev (fun d => { d with ticks := d.ticks + 1 })) :=
  wf_each h fun _ _ hs => wf_modCore hs ..

theorem wf_endTick (h : WfMem s) : WfMem s.endTick := by
  have h1 : WfMem (if (List.range 256).any (fun c => beyondFloor s ((s.core c).tick.ltime)) then s.broadcast else s) :=
    wf_ite (wf_broadcast h) h
  have h2 := wf_tickCores (cs := List.range 256) h1
  unfold State.endTick
  dsimp only
  generalize State.modDev (each (List.range 256) _ _) _ = s2 at h2 ⊢
  exact wf_ite h (wf_ite (wf_broadcast h2) h2)

theorem wf_fillPriv {c pav key line rd} (h : WfMem s) : WfMem (s.fillPriv c pav key line rd) := wf_putDlc h ..

theorem wf_needLines {c o own pav cap ps} (h : WfMem s) : WfMem (s.needLines c o own pav cap ps).1 :=
  wf_each (wf_each h (fun _ _ hs => hs)) (fun _ _ hs => wf_ite hs hs)

theorem wf_needWrite {c o own pav cap pa key n} (h : WfMem s) : WfMem (s.needWrite c o own pav cap pa key n).1 := by
  unfold State.needWrite
  split <;> exact h

/-- A write of the device's own at a virtual address, whatever times it is stamped after. -/
theorem wf_writeVaLts {die pav va bs lts} (h : WfMem s) : WfMem (s.writeVa die pav va bs lts) := by
  unfold State.writeVa
  split
  · rename_i l pa _
    have h1 : WfMem ((s.settle (fun r => decide (r.pa < pa + bs.length) && decide (pa < r.pa + 128))).store l.key pa bs) :=
      wf_store (wf_settle h _) ..
    exact wf_ite (wf_stamp (wf_floorFor h1 _)) h1
  · exact h

/-! ## Region -/

theorem wf_count {pav f} (h : WfMem s) : WfMem (s.count pav f) := wf_modPav h

theorem wf_send {pav m} (h : WfMem s) : WfMem (s.send pav m) := wf_ite (wf_count h) h

/-! ## Ops -/

theorem wf_charge {acct n} (h : WfMem s) : WfMem (s.charge acct n) := by
  unfold State.charge
  split <;> exact h

theorem wf_chargeCur {n} (h : WfMem s) : WfMem (s.chargeCur n) := by
  unfold State.chargeCur
  split
  · exact h
  · exact wf_charge h

theorem wf_chargeIssue (h : WfMem s) : WfMem s.chargeIssue := wf_ite (wf_chargeCur h) h

theorem wf_finish {n} (h : WfMem s) : WfMem (s.finish n) := wf_modSt (wf_chargeIssue h)

theorem wf_postNq {pav q v s'} (h : WfMem s) (e : s.postNq pav q v = some s') : WfMem s' := by
  unfold State.postNq at e
  split at e
  · cases e
  · split at e
    · cases e
    · cases e
      exact wf_modPav h

theorem wf_postEvent {pav v} (h : WfMem s) : WfMem (s.postEvent pav v) := by
  unfold State.postEvent
  split
  · rename_i e
    exact wf_postNq h e
  · exact wf_modPav h

theorem wf_submitHandler {pav region fq} (h : WfMem s) : WfMem (s.submitHandler pav region fq) := by
  unfold State.submitHandler
  split
  · exact h
  · exact wf_ite h h

theorem wf_writeRecord {fq r} (h : WfMem s) : WfMem (s.writeRecord fq r).1 := by
  unfold State.writeRecord
  split
  · exact h
  · exact wf_ite_fst (wf_submitHandler (wf_postEvent (wf_writeVaLts (wf_writeVaLts h)))) (wf_writeVaLts h)

theorem wf_deviceEvent {pav code key faddr phys} (h : WfMem s) : WfMem (s.deviceEvent pav code key faddr phys) := by
  unfold State.deviceEvent
  extract_lets
  split
  · rename_i e
    exact wf_of_eq e (wf_writeRecord h)
  · rename_i e
    exact wf_modPav (wf_of_eq e (wf_writeRecord h))

theorem wf_modLaunch {acct f} (h : WfMem s) : WfMem (s.modLaunch acct f) := by
  unfold State.modLaunch
  split
  · exact h
  · exact wf_modPav h

theorem wf_freeAcct {acct} (h : WfMem s) : WfMem (s.freeAcct acct) := by
  unfold State.freeAcct
  refine wf_ite h ?_
  split
  · exact h
  · exact wf_modPav (wf_modLaunch h)

theorem wf_beginSave {c l why} (h : WfMem s) : WfMem (s.beginSave c l why) := wf_modTask h

theorem wf_beginFreeze {pav} (h : WfMem s) : WfMem (s.beginFreeze pav) := by
  unfold State.beginFreeze
  split
  · exact h
  · exact wf_ite h (wf_each (wf_modPav h) (fun _ _ hs => wf_beginSave hs))

theorem wf_violation {pav} (h : WfMem s) : WfMem (s.violation pav) := wf_beginFreeze (wf_modPav h)

theorem wf_countFault {pav region storm acct} (h : WfMem s) : WfMem (s.countFault pav region storm acct) := by
  unfold State.countFault
  split
  · exact h
  · exact wf_ite (wf_violation (wf_modLaunch (wf_modPav h))) (wf_modLaunch (wf_modPav h))

theorem wf_postRecord {fq r storm acct} (h : WfMem s) : WfMem (s.postRecord fq r storm acct).1 :=
  wf_ite (wf_countFault (wf_writeRecord h)) (wf_writeRecord h)

theorem wf_noteTimeout {t} (h : WfMem s) : WfMem (s.noteTimeout t) := wf_ite (wf_postRecord h) h

theorem wf_itemRecords {t} (h : WfMem s) : WfMem (s.itemRecords t) := wf_each (wf_postRecord h) (fun _ _ hs => wf_postRecord hs)

theorem wf_freeImage {handle} (h : WfMem s) : WfMem (s.freeImage handle) := by
  unfold State.freeImage
  split
  · exact h
  · exact wf_ite h h

theorem wf_endTask {c l t} (h : WfMem s) : WfMem (s.endTask c l t) := wf_freeImage (wf_freeAcct (wf_modLaunch h))

theorem wf_gangJoin {g rank code acct region} (h : WfMem s) : WfMem (s.gangJoin g rank code acct region) :=
  wf_ite h (wf_writeVaLts (wf_writeVaLts h))

theorem wf_remoteItems {t} (h : WfMem s) : WfMem (s.remoteItems t) := wf_each h (fun _ _ hs => wf_postRecord hs)

theorem wf_endSaved {id t} (h : WfMem s) : WfMem (s.endSaved id t) := by
  have hr : WfMem ((s.noteTimeout t).itemRecords t) := wf_itemRecords (wf_noteTimeout h)
  unfold State.endSaved
  generalize (s.noteTimeout t).itemRecords t = r at hr ⊢
  exact wf_freeImage (wf_freeAcct (wf_modLaunch hr))

theorem wf_notStarted {pav cr fq storm n} (h : WfMem s) : WfMem (s.notStarted pav cr fq storm n) :=
  wf_each h (fun _ _ hs => wf_postRecord hs)

theorem wf_dropPlaced {f fq storm} (h : WfMem s) : WfMem (s.dropPlaced f fq storm) :=
  wf_each h (fun _ _ hs => wf_freeImage (wf_freeAcct (wf_notStarted hs)))

theorem wf_dropStarting {gid fq storm} (h : WfMem s) : WfMem (s.dropStarting gid fq storm) := wf_dropPlaced h

theorem wf_gangAbort {lost code} (h : WfMem s) : WfMem (s.gangAbort lost code) := by
  unfold State.gangAbort
  split
  · exact h
  · split
    · exact h
    · split
      · exact h
      · exact wf_gangJoin (wf_dropStarting (wf_each (wf_each (wf_remoteItems h)
          (fun _ _ hs => wf_endTask (wf_remoteItems (wf_itemRecords (wf_noteTimeout hs)))))
          (fun _ _ hs => wf_endSaved (wf_remoteItems hs))))

theorem wf_killTask {c l t} (h : WfMem s) : WfMem (s.killTask c l t) :=
  wf_gangAbort (wf_endTask (wf_itemRecords (wf_noteTimeout h)))

theorem wf_killSaved {id v} (h : WfMem s) : WfMem (s.killSaved id v) := wf_gangAbort (wf_endSaved h)

theorem wf_discardCrs {pav region fq storm} (h : WfMem s) : WfMem (s.discardCrs pav region fq storm) :=
  wf_each (wf_dropPlaced (wf_each h (fun _ _ hs => wf_freeImage (wf_freeAcct (wf_notStarted hs)))))
    (fun _ _ hs => wf_freeImage (wf_ite (wf_freeAcct (wf_postRecord hs)) (wf_postRecord hs)))

theorem wf_killRegion {pav region fq storm} (h : WfMem s) : WfMem (s.killRegion pav region fq storm) := by
  unfold State.killRegion
  extract_lets s1 s2
  have hs1 : WfMem s1 := by
    unfold s1
    refine wf_each h fun _ s2 hs => ?_
    split
    · exact wf_ite (wf_killTask hs) hs
    · exact hs
  have hs2 : WfMem s2 := by
    unfold s2
    refine wf_each hs1 fun _ s3 hs => ?_
    split
    · exact wf_killSaved hs
    · exact hs
  exact wf_discardCrs hs2

theorem wf_postFaultOf {t r policy other} {kill : State → State} (h : WfMem s)
    (hkill : ∀ s, WfMem s → WfMem (kill s)) : WfMem (s.postFaultOf t r policy kill other) :=
  wf_ite (wf_postRecord h) (wf_ite (wf_killRegion (hkill _ (wf_postRecord h)))
    (wf_ite (wf_each (wf_modPav (wf_postRecord h)) (fun _ _ hs => wf_beginSave hs)) (wf_postRecord h)))

theorem wf_postFault {c l t r policy} (h : WfMem s) : WfMem (s.postFault c l t r policy) := by
  unfold State.postFault
  refine wf_postFaultOf h (fun s1 hs => ?_)
  split
  · exact wf_killTask hs
  · exact hs

theorem wf_takeFaultOf {c l k code precise aux iaddr faddr attach} (h : WfMem s) :
    WfMem (s.takeFaultOf c l k code precise aux iaddr faddr attach) := by
  unfold State.takeFaultOf
  split
  · exact h
  · exact wf_postFault (wf_modTask h)

theorem wf_takeFault {code faddr} (h : WfMem s) : WfMem (s.takeFault code faddr) := wf_takeFaultOf h

theorem wf_takeMemFault {code va} (h : WfMem s) : WfMem (s.takeMemFault code va) := by
  unfold State.takeMemFault
  split
  · exact h
  · exact wf_takeFault h

theorem wf_postOnly {c l r} (h : WfMem s) : WfMem (s.postOnly c l r) := by
  unfold State.postOnly
  split
  · exact h
  · exact wf_postFault h

theorem wf_branchTo {t p} (h : WfMem s) : WfMem (s.branchTo t p) := by
  unfold State.branchTo
  split
  · exact wf_takeFault h
  · exact wf_modSt (wf_chargeIssue h)

theorem wf_endBlockWith {n a} (h : WfMem s) : WfMem (s.endBlockWith n a) := wf_modSt (wf_chargeIssue h)

theorem wf_modUid {uid f} (h : WfMem s) : WfMem (s.modUid uid f) := by
  unfold State.modUid
  split
  · exact wf_modTask h
  · exact h
  · exact h

/-! ## Operands -/

theorem wf_scalarOp {srcs d len f} (h : WfMem s) : OutWf (scalarOp srcs d len f s) :=
  wf_onTask (fun _ => wf_ite (wf_finish (wf_modCur h)) h)

theorem wf_slowOp {lat free srcs d len f} {take_ : State → State} (h : WfMem s)
    (htake_ : ∀ s, WfMem s → WfMem (take_ s)) : OutWf (slowOp lat free take_ srcs d len f s) :=
  wf_onTask (fun _ => wf_ite (wf_finish (htake_ _ (wf_modCur h))) h)

theorem wf_waitEmpty {srcs} (h : WfMem s) : WfMem (s.waitEmpty srcs) := by
  unfold State.waitEmpty
  split
  · exact h
  · exact wf_modSt h

theorem wf_vecIssue {uses dsts} {f : Machine.Task → State} (h : WfMem s) (hf : ∀ a, WfMem (f a)) :
    OutWf (vecIssue uses dsts s f) :=
  wf_onTask (fun _ => wf_ite (wf_takeFault h) (wf_ite (wf_waitEmpty h) (wf_ite h (wf_ite (wf_takeFault h) (hf _)))))

/-! ## Place -/

/-! ## Queue -/

theorem wf_requeue {id} (h : WfMem s) : WfMem (s.requeue id) := by
  unfold State.requeue
  split
  · exact h
  · exact wf_ite h h

theorem wf_releaseRegion {pav region} (h : WfMem s) : WfMem (s.releaseRegion pav region) :=
  wf_each (wf_modPav h) (fun _ _ hs => wf_requeue hs)

/-! ## Common -/

theorem wf_enterBlock {t hdr} (h : WfMem s) : WfMem (s.enterBlock t hdr) := wf_each h (fun _ _ hs => wf_modTask hs)

theorem wf_execBlockHeaderEntry {hdr} (h : WfMem s) : OutWf (execBlockHeaderEntry hdr s) := by
  unfold execBlockHeaderEntry
  refine wf_onTask (fun _ => ?_)
  extract_lets
  refine wf_ite (wf_takeFault h) ?_
  split
  · exact wf_takeFault h
  · exact wf_ite (wf_takeFault h) (wf_ite (wf_enterBlock h) h)

theorem wf_afterBlock {c l k a} (h : WfMem s) : WfMem (s.afterBlock c l k a) := by
  unfold State.afterBlock
  extract_lets
  split
  · exact wf_modTask h
  · exact wf_modTask h
  · exact wf_modTask h
  · exact wf_modTask (wf_modTask h)
  · split
    · split
      · exact wf_beginSave (wf_modTask h)
      · exact wf_modTask h
    · exact wf_modTask h

theorem wf_sendOwed {c l k a owed} (h : WfMem s) : WfMem (s.sendOwed c l k a owed) := by
  unfold State.sendOwed
  split
  · exact h
  · exact wf_ite (wf_afterBlock h) h

theorem wf_atCtx {x} {f : Machine.Task → StreamCtx → State} (h : WfMem s) (hf : ∀ a b, WfMem (f a b)) :
    OutWf (atCtx s x f) := by
  unfold atCtx
  split
  · exact h
  · exact hf _ _

theorem wf_execBlockComplete {x} (h : WfMem s) : OutWf (execBlockComplete x s) := by
  unfold execBlockComplete
  refine wf_atCtx h (fun _ _ => ?_)
  split
  · exact wf_ite (wf_sendOwed h) h
  · exact h

theorem wf_execTokenPushDeferred {x} (h : WfMem s) : OutWf (execTokenPushDeferred x s) := by
  unfold execTokenPushDeferred
  refine wf_atCtx h (fun _ _ => ?_)
  split
  · exact wf_ite h (wf_sendOwed h)
  · exact h

theorem wf_execNop (h : WfMem s) : OutWf (execNop s) := wf_onTask (fun _ => wf_finish h)

theorem wf_execHalt (h : WfMem s) : OutWf (execHalt s) := wf_onTask (fun _ => wf_endBlockWith h)

theorem wf_execBeacon {tag} (h : WfMem s) : OutWf (execBeacon tag s) := wf_onTask (fun _ => wf_finish (wf_modCur h))

theorem wf_execTksend {dst n} (h : WfMem s) : OutWf (execTksend dst n s) :=
  wf_onTask (fun _ => wf_ite (wf_finish (wf_modCur h)) h)

theorem wf_execWaitTok {src n} (h : WfMem s) : OutWf (execWaitTok src n s) := wf_onTask (fun _ => wf_endBlockWith h)

theorem wf_waitGen {t va g} (h : WfMem s) : WfMem (waitGen t va g s) := by
  unfold waitGen
  refine wf_ite (wf_takeFault h) ?_
  split
  · exact wf_takeMemFault h
  · exact wf_startWalk h
  · exact wf_ite (wf_takeFault h) (wf_endBlockWith h)

theorem wf_execWaitGenS {addr gen} (h : WfMem s) : OutWf (execWaitGenS addr gen s) :=
  wf_onTask (fun _ => wf_ite (wf_waitGen h) h)

theorem wf_execWaitGenA {addr gen} (h : WfMem s) : OutWf (execWaitGenA addr gen s) := wf_onTask (fun _ => wf_waitGen h)

theorem wf_execBr {off} (h : WfMem s) : OutWf (execBr off s) := wf_onTask (fun _ => wf_branchTo h)

theorem wf_testBranch {zero t v off} (h : WfMem s) : WfMem (testBranch zero t v off s) := wf_ite (wf_branchTo h) (wf_finish h)

theorem wf_execBzS {a off} (h : WfMem s) : OutWf (execBzS a off s) := wf_onTask (fun _ => wf_ite (wf_testBranch h) h)

theorem wf_execBnzS {a off} (h : WfMem s) : OutWf (execBnzS a off s) := wf_onTask (fun _ => wf_ite (wf_testBranch h) h)

theorem wf_execBzA {a off} (h : WfMem s) : OutWf (execBzA a off s) := wf_onTask (fun _ => wf_testBranch h)

theorem wf_execBnzA {a off} (h : WfMem s) : OutWf (execBnzA a off s) := wf_onTask (fun _ => wf_testBranch h)

theorem wf_openLoop {lvl2 len n} (h : WfMem s) : WfMem (openLoop lvl2 len n s) :=
  wf_ite (wf_takeFault h) (wf_ite (wf_finish (wf_modSt h)) (wf_modSt (wf_chargeIssue (wf_modSt h))))

theorem wf_execLoopImm {lvl2 len cnt} (h : WfMem s) : OutWf (execLoopImm lvl2 len cnt s) := wf_onTask (fun _ => wf_openLoop h)

theorem wf_execLoopRegS {lvl2 len a} (h : WfMem s) : OutWf (execLoopRegS lvl2 len a s) :=
  wf_onTask (fun _ => wf_ite (wf_openLoop h) h)

theorem wf_execLoopRegA {lvl2 len a} (h : WfMem s) : OutWf (execLoopRegA lvl2 len a s) := wf_onTask (fun _ => wf_openLoop h)

theorem wf_relevel {id p} (h : WfMem s) : WfMem (s.relevel id p) := by
  unfold State.relevel
  refine wf_each h fun _ s1 hs => ?_
  split
  · exact hs
  · exact wf_ite hs hs

theorem wf_setPrio {t p} (h : WfMem s) : WfMem (s.setPrio t p) := by
  unfold State.setPrio
  split
  · exact wf_modCur h
  · exact wf_each (wf_each h (fun _ _ hs => wf_modTask hs)) (fun _ _ hs => wf_relevel hs)

theorem wf_writeSr {t k i v} (h : WfMem s) : WfMem (writeSr s t k i v) := by
  unfold writeSr
  extract_lets
  split
  · exact wf_setPrio h
  · exact wf_modCur h
  · exact wf_modCur h
  · exact wf_modCur h
  · exact wf_modCur h
  · exact wf_modCur h
  · exact h
  · exact h

theorem wf_mtsr {t k i v} (h : WfMem s) : WfMem (s.mtsr t k i v) :=
  wf_ite (wf_writeSr h) (wf_ite (wf_ite h (wf_writeSr h)) (wf_modCur (wf_ite h (wf_writeSr h))))

theorem wf_execMfsrS {d idx} (h : WfMem s) : OutWf (execMfsrS d idx s) := by
  unfold execMfsrS
  refine wf_onTask (fun _ => ?_)
  split
  · exact wf_takeFault h
  · exact wf_ite (wf_finish (wf_modCur h)) h

theorem wf_execMfsrA {d idx} (h : WfMem s) : OutWf (execMfsrA d idx s) := by
  unfold execMfsrA
  refine wf_onTask (fun _ => ?_)
  split
  · exact wf_takeFault h
  · exact wf_finish (wf_modCur h)

theorem wf_execMtsrS {a idx} (h : WfMem s) : OutWf (execMtsrS a idx s) := by
  unfold execMtsrS
  refine wf_onTask (fun _ => ?_)
  split
  · exact wf_takeFault h
  · exact wf_ite (wf_finish (wf_mtsr h)) h

theorem wf_execMtsrA {a idx} (h : WfMem s) : OutWf (execMtsrA a idx s) := by
  unfold execMtsrA
  refine wf_onTask (fun _ => ?_)
  split
  · exact wf_takeFault h
  · exact wf_finish (wf_mtsr h)

theorem wf_execAwr {k n a} (h : WfMem s) : OutWf (execAwr k n a s) := wf_onTask (fun _ => wf_ite (wf_finish (wf_modCur h)) h)

theorem wf_aregOp {d f} (h : WfMem s) : OutWf (aregOp d f s) := wf_onTask (fun _ => wf_finish (wf_modCur h))

/-! ## Memory -/

theorem wf_request {t va pa l sc rd k} (h : WfMem s) : WfMem (s.request t va pa l sc rd k) := wf_ite h h

theorem wf_requestStore {t va pa l rd k} (h : WfMem s) : WfMem (s.requestStore t va pa l rd k) := wf_ite h (wf_request h)

theorem wf_pendResult {d va acq res} (h : WfMem s) : WfMem (s.pendResult d va acq res) := wf_modCur h

theorem wf_withAccess {t va n acc} {f : Leaf → Nat → State} (h : WfMem s) (hf : ∀ a b, WfMem (f a b)) :
    WfMem (withAccess s t va n acc f) := by
  unfold withAccess
  refine wf_ite (wf_takeFault h) ?_
  split
  · exact wf_takeMemFault h
  · exact wf_startWalk h
  · exact hf _ _

theorem wf_devReadyAt {c pav key} (h : WfMem s) : WfMem (s.devReadyAt c pav key).1 := wf_ite_fst (wf_releaseCaches h ..) h

theorem wf_devReady {t} (h : WfMem s) : WfMem (s.devReady t).1 := wf_devReadyAt h

theorem wf_hitResult {d va v poison lat} (h : WfMem s) : WfMem (s.hitResult d va v poison lat) := by
  unfold State.hitResult
  refine wf_ite (wf_pendResult h) ?_
  split
  · exact wf_modCur h
  · exact wf_pendResult h

theorem wf_lineResult {l d va pa n sx lat} (h : WfMem s) : WfMem (s.lineResult l d va pa n sx lat) := wf_hitResult h

theorem wf_loadAt {t d va n sx acq rd} (h : WfMem s) : WfMem (loadAt t d va n sx acq rd s) := by
  unfold loadAt
  refine wf_withAccess h (fun _ _ => ?_)
  refine wf_ite h ?_
  extract_lets ask
  have hask : ∀ s', WfMem s' → WfMem (ask s') := fun _ hs => wf_ite hs (wf_finish (wf_request (wf_pendResult hs)))
  split
  · exact wf_ite (wf_ite (hask _ (wf_devReady h)) (wf_devReady h)) h
  · split
    · exact hask _ h
    · exact wf_finish (wf_ite (wf_acquireAt (wf_lineResult (wf_putL1 (wf_modCur h) ..)) ..)
        (wf_lineResult (wf_putL1 (wf_modCur h) ..)))
  · exact wf_ite (hask _ h) (wf_finish (wf_ite (wf_acquireAt (wf_lineResult (wf_fetchPriv h ..)) ..)
      (wf_lineResult (wf_fetchPriv h ..))))

theorem wf_storeAt {t v va n rel rd} (h : WfMem s) : WfMem (storeAt t v va n rel rd s) :=
  wf_withAccess h (fun _ _ => wf_ite h (wf_ite (wf_devReady h) (wf_ite
    (wf_finish (wf_writePriv (wf_ite (wf_releaseAt h ..) h) ..)) (wf_finish
    (wf_requestStore (wf_ite (wf_releaseAt h ..) h))))))

theorem wf_atomicAt {t d va n sc f k len} (h : WfMem s) : WfMem (atomicAt t d va n sc f k len s) := by
  unfold atomicAt
  refine wf_withAccess h (fun _ _ => ?_)
  refine wf_ite h ?_
  refine wf_ite (wf_devReady h) ?_
  extract_lets
  refine wf_ite (wf_finish (wf_request (wf_pendResult (wf_releaseAt h ..)))) ?_
  split
  · rename_i s1 _ e
    have h1 : WfMem s1 := wf_of_eq e (wf_fetchPriv (wf_releaseAt h ..) ..)
    extract_lets _ s2
    have hs2 : WfMem s2 := by
      unfold s2
      split
      · exact wf_writePriv h1 ..
      · exact h1
    exact wf_finish (wf_acquireAt (wf_hitResult hs2) ..)

theorem wf_execLoad {acq o} (h : WfMem s) : OutWf (execLoad acq o s) := wf_onTask (fun _ => wf_ite (wf_loadAt h) h)

theorem wf_execStore {rel o} (h : WfMem s) : OutWf (execStore rel o s) := wf_onTask (fun _ => wf_ite (wf_storeAt h) h)

theorem wf_execAmo {op o} (h : WfMem s) : OutWf (execAmo op o s) := wf_onTask (fun _ => wf_ite (wf_atomicAt h) h)

theorem wf_execCas {o cmp} (h : WfMem s) : OutWf (execCas o cmp s) := wf_onTask (fun _ => wf_ite (wf_atomicAt h) h)

theorem wf_syncReq {t va align k} (h : WfMem s) : WfMem (syncReq t va align k s) :=
  wf_withAccess h (fun _ _ => wf_ite (wf_takeFault h) (wf_ite h (wf_finish (wf_request (wf_releaseAt h ..)))))

theorem wf_execSwinit {a b} (h : WfMem s) : OutWf (execSwinit a b s) :=
  wf_onTask (fun _ => wf_ite h (wf_ite (wf_takeFault h) (wf_syncReq h)))

theorem wf_execBarr {a} (h : WfMem s) : OutWf (execBarr a s) := wf_onTask (fun _ => wf_ite (wf_syncReq h) h)

theorem wf_execJoin {a} (h : WfMem s) : OutWf (execJoin a s) := wf_onTask (fun _ => wf_ite (wf_syncReq h) h)

theorem wf_bringLine {id r} (h : WfMem s) : WfMem (s.bringLine id r) := by
  unfold State.bringLine
  exact wf_fillPriv (rd := r.rd) h

theorem wf_atReq {id} {f : Req → State} (h : WfMem s) (hf : ∀ a, WfMem (f a)) : OutWf (atReq s id f) := by
  unfold atReq
  split
  · exact wf_ite (wf_ite (wf_bringLine h) (hf _)) h
  · exact h

theorem wf_performLoad {id r} (h : WfMem s) : WfMem (s.performLoad id r) :=
  wf_ite (wf_ite (wf_floorFor h ..) h) (wf_ite (wf_ite (wf_floorFor h ..) h) (wf_ite (wf_floorFor h ..) h))

theorem wf_execHomeLoad {id} (h : WfMem s) : OutWf (execHomeLoad id s) := by
  unfold execHomeLoad
  refine wf_atReq h (fun _ => ?_)
  split
  · exact wf_performLoad h
  · exact wf_performLoad h
  · exact h

theorem wf_execHomeStore {id} (h : WfMem s) : OutWf (execHomeStore id s) := by
  unfold execHomeStore
  refine wf_atReq h (fun _ => ?_)
  split
  · exact wf_performWrite h ..
  · exact wf_performWrite h ..
  · exact h

theorem wf_performAtomic {id r n f} (h : WfMem s) : WfMem (s.performAtomic id r n f) := by
  unfold State.performAtomic
  extract_lets
  split <;> exact wf_performWrite h ..

theorem wf_execHomeAtomic {id} (h : WfMem s) : OutWf (execHomeAtomic id s) := by
  unfold execHomeAtomic
  refine wf_atReq h (fun _ => ?_)
  split
  · exact wf_performAtomic h
  · exact wf_performAtomic h
  · exact wf_performAtomic h
  · exact h

theorem wf_execSyncWordAdd {id} (h : WfMem s) : OutWf (execSyncWordAdd id s) := by
  unfold execSyncWordAdd
  refine wf_atReq h (fun _ => ?_)
  split
  · exact wf_performAtomic h
  · exact h

theorem wf_performJoin {id r pav region acct} (h : WfMem s) : WfMem (s.performJoin id r pav region acct) :=
  wf_ite (wf_performWrite h ..) (wf_ite (wf_performWrite h ..) (wf_performWrite h ..))

theorem wf_execJoinAtHome {id} (h : WfMem s) : OutWf (execJoinAtHome id s) := by
  unfold execJoinAtHome
  refine wf_atReq h (fun _ => ?_)
  split
  · exact wf_performJoin h
  · exact h

theorem wf_installCoh {c pav pa key rd line wts rts poison} (h : WfMem s) :
    WfMem (s.installCoh c pav pa key rd line wts rts poison) := by
  unfold State.installCoh
  extract_lets
  split
  · exact wf_ite h (wf_putL1 h ..)
  · exact wf_ite (wf_putL1 h ..) (wf_ite h (wf_putL1 h ..))

theorem wf_acked {r line w poison} (h : WfMem s) : WfMem (s.acked r line w poison) := by
  unfold State.acked
  refine wf_ite h ?_
  extract_lets
  split
  · exact wf_ite (wf_modTask h) (wf_modTask h)
  · exact wf_modTask h

theorem wf_sendHeld {r} (h : WfMem s) : WfMem (s.sendHeld r) := by
  unfold State.sendHeld
  extract_lets
  refine wf_ite h ?_
  split <;> exact h

theorem wf_dropReq {id} (h : WfMem s) : WfMem (s.dropReq id) := by
  unfold State.dropReq
  split
  · exact h
  · exact wf_sendHeld (wf_ite h h)

theorem wf_writeBits {o c pav key line rd mask data} (h : WfMem s) : WfMem (s.writeBits o c pav key line rd mask data) :=
  wf_writePriv (wf_fetchPriv h ..) ..

theorem wf_storeBrought {id r} (h : WfMem s) : WfMem (s.storeBrought id r) := by
  unfold State.storeBrought
  extract_lets c s1
  have h1 : WfMem s1 := h
  refine wf_ite h ?_
  split
  · exact wf_writePriv h1 ..
  · exact wf_writeBits h1
  · exact h1

theorem wf_execStoreAck {id} (h : WfMem s) : OutWf (execStoreAck id s) := by
  unfold execStoreAck
  split
  · exact h
  · refine outWf_ite h ?_
    split
    · show WfMem _
      split
      · exact wf_storeBrought h
      · exact wf_storeBrought h
      · exact h
    · split
      · exact wf_dropReq (wf_acked h)
      · exact wf_dropReq (wf_acked h)
      · exact wf_dropReq (wf_acked h)
      · exact wf_dropReq (wf_acked h)
      · exact wf_modTask (wf_dropReq h)
      · exact wf_ite (wf_modTask (wf_dropReq (wf_acked h))) (wf_dropReq (wf_acked h))
      · exact h

theorem wf_lossFault {c l k code iaddr faddr} (h : WfMem s) : WfMem (s.lossFault c l k code iaddr faddr) := wf_takeFaultOf h

theorem wf_deliver {c l p v poison} (h : WfMem s) : WfMem (s.deliver c l p v poison) :=
  wf_ite (wf_lossFault (wf_modTask h)) (wf_modTask h)

theorem wf_answered {c l t p id r a} (h : WfMem s) : WfMem (s.answered c l t p id r a) := by
  unfold State.answered
  extract_lets _ s2 s3 s4
  have hs2 : WfMem s2 := wf_ite (wf_modTask (wf_installCoh (wf_dropReq h))) (wf_dropReq h)
  have hs3 : WfMem s3 := wf_modTask (wf_acked (wf_dropReq h))
  have hs4 : WfMem s4 := by
    unfold s4
    split
    · exact wf_ite (wf_acquireAt hs2 ..) hs2
    · exact wf_acquireAt hs3 ..
  exact wf_deliver hs4

theorem wf_answerBrought {c l t p id r} (h : WfMem s) : WfMem (s.answerBrought c l t p id r) := by
  unfold State.answerBrought
  refine wf_ite h ?_
  extract_lets _ _ x _ _ a s2
  have hx : WfMem x.1 := wf_fetchPriv (wf_dropReq h) ..
  have ha : WfMem a.1 := by
    unfold a
    split
    · exact hx
    · exact wf_writePriv hx ..
    · exact wf_ite (wf_writePriv hx ..) hx
    · exact hx
  have hs2 : WfMem s2 := by
    unfold s2
    split
    · exact wf_acquireAt ha ..
    · exact ha
  exact wf_deliver hs2

theorem wf_fenceDone {c l t p sc kinds acq rel lost} (h : WfMem s) : WfMem (s.fenceDone c l t p sc kinds acq rel lost) := by
  unfold State.fenceDone
  extract_lets _ s1 s2 s3
  have hs1 : WfMem s1 := wf_ite (wf_releaseCaches h ..) h
  have hs2 : WfMem s2 := wf_ite (wf_releaseAt hs1 ..) hs1
  have hs3 : WfMem s3 := wf_ite (wf_acquireAt hs2 ..) hs2
  exact wf_deliver hs3

theorem wf_execScalarResultArrival {core slot tag} (h : WfMem s) : OutWf (execScalarResultArrival core slot tag s) := by
  unfold execScalarResultArrival
  extract_lets
  split
  · exact h
  · split
    · show WfMem _
      split
      · exact wf_deliver h
      · exact wf_modTask h
      · exact wf_deliver h
      · exact wf_lossFault (wf_deliver h)
      · exact wf_ite (wf_modTask (wf_deliver h)) h
      · exact wf_ite (wf_fenceDone h) h
      · split
        · exact h
        · refine wf_ite h ?_
          refine wf_ite (wf_ite h (wf_answerBrought h)) ?_
          split
          · exact h
          · exact wf_answered h
    · split
      · exact h
      · split
        · split
          · exact h
          · split
            · exact wf_ite h (wf_ite (wf_lossFault (wf_modTask (wf_fetchPriv (wf_dropReq h) ..)))
                (wf_modTask (wf_fetchPriv (wf_dropReq h) ..)))
            · exact wf_ite (wf_lossFault (wf_modTask (wf_ite (wf_modTask (wf_installCoh (wf_dropReq h))) (wf_dropReq h))))
                (wf_modTask (wf_ite (wf_modTask (wf_installCoh (wf_dropReq h))) (wf_dropReq h)))
        · exact h

theorem wf_execTranslationWalkEnd {id} (h : WfMem s) : OutWf (execTranslationWalkEnd id s) := by
  unfold execTranslationWalkEnd
  split
  · exact h
  · refine outWf_ite h ?_
    split <;> exact h

theorem wf_execGenerationReport {x} (h : WfMem s) : OutWf (execGenerationReport x s) := by
  unfold execGenerationReport
  split
  · exact h
  · split
    · exact outWf_ite (wf_acquireAt (wf_modTask h) ..) h
    · exact h

/-! ## System -/

theorem wf_execFence {scope kinds acq rel d} (h : WfMem s) : OutWf (execFence scope kinds acq rel d s) :=
  wf_onTask (fun _ => wf_ite (wf_finish (wf_pendResult h)) h)

theorem wf_execIfence {d} (h : WfMem s) : OutWf (execIfence d s) := wf_onTask (fun _ => wf_ite h (wf_finish (wf_modCur h)))

theorem wf_execTfence {d} (h : WfMem s) : OutWf (execTfence d s) :=
  wf_onTask (fun _ => wf_ite (wf_finish (wf_pendResult h)) h)

theorem wf_submitRecord {d a src acct} (h : WfMem s) : OutWf (submitRecord d a src acct s) := by
  unfold submitRecord
  refine wf_onTask fun t => wf_ite h (wf_withAccess h fun l pa => wf_ite h ?_)
  have h1 : WfMem ((s.releaseAt s.cur.core.val t .dev).settle (fun r => r.pa = pa / 128 * 128)) :=
    wf_settle (wf_releaseAt h ..) _
  dsimp only
  generalize (s.releaseAt s.cur.core.val t .dev).settle (fun r => r.pa = pa / 128 * 128) = s1 at h1 ⊢
  exact wf_ite (wf_finish (wf_pendResult h1)) (wf_finish (wf_pendResult h1))

theorem wf_execSpawn {k off} (h : WfMem s) : OutWf (execSpawn k off s) :=
  wf_onTask (fun _ => wf_ite (wf_takeFault h) (wf_ite (wf_takeFault h) (wf_ite (wf_takeFault h) (wf_finish (wf_modCur h)))))

theorem wf_execExit (h : WfMem s) : OutWf (execExit s) := wf_onTask (fun _ => wf_endBlockWith h)

theorem wf_execYield (h : WfMem s) : OutWf (execYield s) := wf_onTask (fun _ => wf_endBlockWith h)

theorem wf_execTdld {n a} (h : WfMem s) : OutWf (execTdld n a s) := by
  unfold execTdld
  refine wf_onTask (fun _ => ?_)
  refine wf_ite h ?_
  extract_lets
  refine wf_withAccess h (fun _ _ => ?_)
  refine wf_ite h ?_
  refine wf_ite (wf_devReady h) ?_
  extract_lets set ask
  have hset : ∀ s' v, WfMem s' → WfMem (set s' v) := fun _ _ hs => wf_ite (wf_takeFaultOf (wf_finish (wf_modCur hs)))
      (wf_finish (wf_modCur hs))
  have hask : WfMem ask := wf_ite (wf_finish (wf_request h)) h
  split
  · exact hask
  · split
    · exact hask
    · exact hset _ _ (wf_modCur h)
  · exact wf_ite hask (hset _ _ (wf_fetchPriv h ..))

theorem wf_execTdver {n a} (h : WfMem s) : OutWf (execTdver n a s) := wf_onTask (fun _ => wf_ite (wf_finish (wf_modCur h)) h)

theorem wf_remoteAt {t d addr tok n sc kind} (h : WfMem s) : WfMem (remoteAt t d addr tok n sc kind s) := by
  unfold remoteAt
  extract_lets _ _ _ _ _ _ pend
  have hpend : ∀ s' v, WfMem s' → WfMem (pend s' v) := by
    intro s v hx
    unfold pend
    split
    · exact wf_pendResult hx
    · exact hx
  refine wf_ite (wf_takeFault h) ?_
  refine wf_ite (wf_takeFault h) ?_
  refine wf_ite h ?_
  split
  · split
    · exact wf_finish (wf_pendResult (wf_releaseAt h ..))
    · exact wf_takeFaultOf (wf_finish (wf_releaseAt h ..))
  · exact wf_finish (wf_addRop (hpend _ _ (wf_releaseAt h ..)))
  · exact wf_finish (wf_addRop (hpend _ _ (wf_releaseAt h ..)))

theorem wf_execRld {d addr dword scope tok} (h : WfMem s) : OutWf (execRld d addr dword scope tok s) :=
  wf_onTask (fun _ => wf_ite (wf_remoteAt h) h)

theorem wf_execRst {addr val dword scope tok} (h : WfMem s) : OutWf (execRst addr val dword scope tok s) :=
  wf_onTask (fun _ => wf_ite (wf_remoteAt h) h)

theorem wf_execRamo {op o tok} (h : WfMem s) : OutWf (execRamo op o tok s) := wf_onTask (fun _ => wf_ite (wf_remoteAt h) h)

theorem wf_execHnotify {a b} (h : WfMem s) : OutWf (execHnotify a b s) := by
  unfold execHnotify
  refine wf_onTask (fun _ => ?_)
  refine wf_ite h ?_
  refine wf_ite (wf_takeFault h) ?_
  refine wf_ite h ?_
  extract_lets
  split
  · rename_i e
    exact wf_finish (wf_postNq (wf_releaseAt h ..) e)
  · exact wf_finish (wf_releaseAt h ..)

theorem wf_execTrap {code} (h : WfMem s) : OutWf (execTrap code s) := wf_onTask (fun _ => wf_takeFaultOf (wf_modCur h))

theorem wf_sysop {d a b mgmtOnly} {f : Machine.Task → Word64 → Word64 → State × Word64} (h : WfMem s)
    (hf : ∀ t x y, WfMem (f t x y).1) : OutWf (sysop d a b mgmtOnly f s) :=
  wf_onTask (fun _ => wf_ite (wf_takeFault h) (wf_ite h (wf_finish (wf_modCur (hf _ _ _)))))

theorem wf_releaseBy {t} (h : WfMem s) : WfMem (s.releaseBy t) := by
  unfold State.releaseBy
  split
  · exact h
  · exact wf_ite (wf_releaseRegion h) h

theorem wf_execResume {d a b} (h : WfMem s) : OutWf (execResume d a b s) := by
  unfold execResume
  refine wf_sysop h (fun _ _ _ => ?_)
  split
  · exact wf_ite_fst h (wf_releaseBy (wf_modTask h))
  · exact wf_ite_fst (wf_releaseBy (wf_ite h (wf_requeue h))) h
  · exact h

theorem wf_execKill {d a b} (h : WfMem s) : OutWf (execKill d a b s) := by
  unfold execKill
  refine wf_sysop h (fun _ _ _ => ?_)
  split
  · exact wf_killTask h
  · exact wf_killSaved h
  · exact h

theorem wf_execTlbinv {d a b} (h : WfMem s) : OutWf (execTlbinv d a b s) := by
  unfold execTlbinv
  refine wf_onTask (fun _ => ?_)
  extract_lets
  refine wf_ite (wf_violation (wf_takeFault h)) ?_
  split
  · rename_i e
    exact outWf_of_eq e (wf_sysop h (fun _ _ _ => wf_modCur h))
  · exact h

theorem wf_execGrant {d a b} (h : WfMem s) : OutWf (execGrant d a b s) := by
  unfold execGrant
  refine wf_sysop h (fun _ _ _ => ?_)
  extract_lets
  split
  · exact h
  · exact wf_ite_fst h h

/-! ## Vector -/

theorem wf_vDone {charge n} (h : WfMem s) : WfMem (s.vDone charge n) := wf_finish (wf_chargeCur h)

theorem wf_putV {d mask lat c} (h : WfMem s) : WfMem (s.putV d mask lat c) := wf_modCur h

theorem wf_putMasked {t d k zm lat c} (h : WfMem s) : WfMem (s.putMasked t d k zm lat c) := wf_putV h

theorem wf_putAll {d lat c} (h : WfMem s) : WfMem (s.putAll d lat c) := wf_putV h

theorem wf_vec3 {lat f o} (h : WfMem s) : OutWf (vec3 lat f o s) := wf_vecIssue h (fun _ => wf_vDone (wf_putMasked h))

theorem wf_vec3u {lat f o} (h : WfMem s) : OutWf (vec3u lat f o s) := wf_vecIssue h (fun _ => wf_vDone (wf_putMasked h))

theorem wf_vecFma {np nz o} (h : WfMem s) : OutWf (vecFma np nz o s) := wf_vecIssue h (fun _ => wf_vDone (wf_putMasked h))

theorem wf_vec2 {lat f d a} (h : WfMem s) : OutWf (vec2 lat f d a s) := wf_vecIssue h (fun _ => wf_vDone (wf_putAll h))

theorem wf_execVcmp {cond d a b ta tb k ty zm} (h : WfMem s) : OutWf (execVcmp cond d a b ta tb k ty zm s) :=
  wf_vecIssue h (fun _ => wf_vDone (wf_modCur h))

theorem wf_execVsel {d a b ta tb k} (h : WfMem s) : OutWf (execVsel d a b ta tb k s) :=
  wf_vecIssue h (fun _ => wf_vDone (wf_putAll h))

theorem wf_kop {f d a} (h : WfMem s) : OutWf (kop f d a s) := wf_onTask (fun _ => wf_finish (wf_modCur h))

theorem wf_execVcvt {d a ta k sty dty rm zm} (h : WfMem s) : OutWf (execVcvt d a ta k sty dty rm zm s) :=
  wf_vecIssue h (fun _ => wf_vDone (wf_putMasked h))

theorem wf_execVmovi {d imm} (h : WfMem s) : OutWf (execVmovi d imm s) := wf_vecIssue h (fun _ => wf_vDone (wf_putAll h))

theorem wf_execVext {i v n} (h : WfMem s) : OutWf (execVext i v n s) := wf_vecIssue h (fun _ => wf_finish (wf_modCur h))

theorem wf_execVperm {d a b ta tb k zm} (h : WfMem s) : OutWf (execVperm d a b ta tb k zm s) :=
  wf_vecIssue h (fun _ => wf_vDone (wf_putMasked h))

theorem wf_vfe {n empty len} (h : WfMem s) : OutWf (vfe n empty len s) := wf_vecIssue h (fun _ => wf_finish (wf_modCur h))

theorem wf_execFeTimeout {x} (h : WfMem s) : OutWf (execFeTimeout x s) := by
  unfold execFeTimeout
  refine wf_atCtx h (fun _ _ => ?_)
  split
  · exact wf_ite (wf_takeFaultOf h) h
  · exact h

/-! ## VecMem -/

theorem wf_readLine {c l pa key cls rd} (h : WfMem s) : WfMem (s.readLine c l pa key cls rd).1 := by
  unfold State.readLine
  split
  · exact h
  · extract_lets _ _ _ _ s2
    have hs2 : WfMem s2 := wf_ite h (wf_fillPriv h)
    split
    · exact h
    · split
      · exact wf_modTask (wf_putL1 h ..)
      · exact wf_installCoh (wf_modTask h)
    · exact wf_fetchPriv hs2 ..

theorem wf_readLines {c l rd ps} (h : WfMem s) : WfMem (s.readLines c l rd ps).1 :=
  wf_foldl_fst h (fun _ _ hs => wf_readLine hs)

theorem wf_vecLoad {uses v ty rd els} (h : WfMem s) : OutWf (vecLoad uses v ty rd els s) := by
  unfold vecLoad
  refine wf_vecIssue h (fun _ => ?_)
  extract_lets
  split
  · exact wf_startWalk h
  · exact wf_ite (wf_postOnly (wf_vDone (wf_modCur h))) (wf_takeMemFault h)
  · exact wf_ite h (wf_ite (wf_devReady h) (wf_ite h (wf_vDone (wf_modCur (wf_needLines h)))))

theorem wf_loadFloor {c t ps} (h : WfMem s) : WfMem (s.loadFloor c t ps) := wf_ite (wf_floorFor h ..) h

theorem wf_landVec {c l t f} (h : WfMem s) : WfMem (s.landVec c l t f) := by
  unfold State.landVec
  split
  · extract_lets ps s1 n r val s2 bad
    clear_value bad
    have h1 : WfMem s1 := wf_loadFloor h
    have hn : WfMem n.1 := wf_needLines h1
    have hr : WfMem r.1 := wf_readLines (h1)
    have h2 : WfMem s2 := wf_modTask hr
    refine wf_ite hn ?_
    split
    · exact wf_lossFault h2
    · exact h2
  · exact wf_modTask h
  · exact h

theorem wf_writeLine {t rd w} (h : WfMem s) : WfMem (s.writeLine t rd w) := wf_ite (wf_writeBits h) (wf_requestStore h)

theorem wf_vecStore {uses v ty rd els} (h : WfMem s) : OutWf (vecStore uses v ty rd els s) := by
  unfold vecStore
  refine wf_vecIssue h (fun _ => ?_)
  split
  · exact wf_startWalk h
  · exact wf_takeMemFault h
  · exact wf_ite h (wf_ite (wf_devReady h) (wf_vDone (wf_modCur (wf_each h (fun _ _ hs => wf_writeLine hs)))))

theorem wf_execVacvt {o rm} (h : WfMem s) : OutWf (execVacvt o rm s) := by
  unfold execVacvt
  refine wf_vecIssue h (fun _ => ?_)
  extract_lets
  split
  · exact wf_ite (wf_takeFault h) (wf_vDone (wf_modCur h))
  · exact wf_ite (wf_takeFault h) (wf_vDone (wf_modCur (wf_modCur h)))

theorem wf_execVafil {o} (h : WfMem s) : OutWf (execVafil o s) := by
  unfold execVafil
  refine wf_vecIssue h (fun _ => ?_)
  extract_lets
  split
  · exact wf_takeFault h
  · exact wf_ite (wf_takeFault h) (wf_vDone (wf_modCur h))

/-! ## Tarn -/

theorem wf_addPin {c slot t way l} (h : WfMem s) : WfMem (s.addPin c slot t way l).1 := wf_ite_fst h h

theorem wf_acquireTile {c t l} (h : WfMem s) : WfMem (s.acquireTile c t l) := wf_acquireAt h ..

theorem wf_readTile {c slot t way l need hit note} (h : WfMem s) : WfMem (s.readTile c slot t way l need hit note) :=
  wf_acquireTile (wf_ite (wf_modTask (wf_ite (wf_addPin h) h)) (wf_ite (wf_addPin h) h))

theorem wf_unlatch {die g} (h : WfMem s) : WfMem (s.unlatch die g) := wf_each h (fun _ _ hs => hs)

theorem wf_tell {m} (h : WfMem s) : WfMem (s.tell m) := by
  unfold State.tell
  extract_lets
  repeat' split
  all_goals exact h

theorem wf_removeLine {die way l} (h : WfMem s) : WfMem (s.removeLine die way l) := wf_each (wf_unlatch h) (fun _ _ hs => hs)

theorem wf_dropLine {die way l} (h : WfMem s) : WfMem (s.dropLine die way l) :=
  wf_ite (wf_tell (wf_removeLine h)) (wf_removeLine h)

theorem wf_beginWb {m ver} (h : WfMem s) : WfMem (s.beginWb m ver) := by
  unfold State.beginWb
  extract_lets
  split
  · exact wf_tell h
  · exact wf_addRop (wf_tell h)

theorem wf_evict {die way l uid} (h : WfMem s) : WfMem (s.evict die way l uid).1 :=
  wf_ite_fst (wf_beginWb (wf_removeLine h)) (wf_dropLine h)

theorem wf_victim {die cs s' p} (h : WfMem s) (e : s.victim die cs = some (s', p)) : WfMem s' := by
  obtain ⟨_, _, hp⟩ := Option.map_eq_some_iff.mp e
  cases hp
  exact wf_each h fun _ _ hs => hs

theorem wf_findWay {c t g} (h : WfMem s) : WfMem (s.findWay c t g).1 := by
  unfold State.findWay
  extract_lets die _ _ _ _ _ _ s1 forget wayStep
  have hwayStep : ∀ s, WfMem s → WfMem (wayStep s).1 := by
    intro s hs
    unfold wayStep
    split
    · exact hs
    · split
      · exact hs
      · rename_i i l e
        have h2 := wf_evict (die := die) (way := i) (l := l) (uid := t.uid) (wf_victim hs e)
        exact h2
  have h1 : WfMem s1 := h
  refine wf_ite_fst ?_ (hwayStep _ h1)
  split
  · exact h1
  · rename_i i l e
    have h2 := wf_evict (die := die) (way := i) (l := l) (uid := t.uid) (wf_victim h1 e)
    exact wf_ite_fst h2 (hwayStep _ h2)

theorem wf_sendFill {id} (h : WfMem s) : WfMem (s.sendFill id) := by
  unfold State.sendFill
  split
  · exact h
  · extract_lets
    split
    · exact wf_tell h
    · exact wf_addRop h

theorem wf_startFill {c t g desc need way wbs hold} (h : WfMem s) : WfMem (s.startFill c t g desc need way wbs hold) :=
  wf_ite h (wf_sendFill h)

theorem wf_missTile {c t g desc need inPlace} (h : WfMem s) : WfMem (s.missTile c t g desc need inPlace).1 := by
  unfold State.missTile
  extract_lets
  refine wf_ite_fst h ?_
  split
  · split
    · exact h
    · exact wf_startFill (wf_ite (wf_beginWb (wf_unlatch h)) (wf_unlatch h))
  · split
    · exact wf_findWay h
    · exact wf_startFill (wf_findWay h)

theorem wf_askP {c t g desc r} (h : WfMem s) : WfMem (s.askP c t g desc r).1 := wf_ite_fst (wf_tell h) (wf_addRop (wf_tell h))

theorem wf_mergeTile {c slot t way l x hit} (h : WfMem s) : WfMem (s.mergeTile c slot t way l x hit) :=
  wf_unlatch (wf_modTask (wf_readTile h))

theorem wf_vtldLook {c slot t id g desc need sub p} (h : WfMem s) : WfMem (s.vtldLook c slot t id g desc need sub p) := by
  unfold State.vtldLook
  split
  · exact wf_modTask (wf_readTile h)
  · exact h
  · exact wf_missTile h
  · exact wf_askP h

theorem wf_vtstLook {c slot t x p} (h : WfMem s) : WfMem (s.vtstLook c slot t x p) := by
  unfold State.vtstLook
  split
  · exact wf_modTask (wf_mergeTile h)
  · exact h
  · exact wf_missTile h
  · exact wf_askP h

theorem wf_execVtld {o} (h : WfMem s) : OutWf (execVtld o s) := by
  unfold execVtld
  refine wf_vecIssue h (fun _ => ?_)
  split
  · exact wf_takeFault h
  · extract_lets
    refine wf_ite (wf_takeFault h) ?_
    refine wf_ite h ?_
    split
    · exact wf_startWalk h
    · exact wf_ite (wf_postOnly (wf_vDone (wf_modCur h))) (wf_takeMemFault h)
    · exact wf_ite h (wf_vDone (wf_ite (wf_modCur h) (wf_vtldLook (wf_modCur h))))

theorem wf_execVtst {o pub} (h : WfMem s) : OutWf (execVtst o pub s) := by
  unfold execVtst
  refine wf_vecIssue h (fun _ => ?_)
  split
  · exact wf_takeFault h
  · extract_lets
    refine wf_ite (wf_takeFault h) ?_
    refine wf_ite h ?_
    split
    · exact wf_startWalk h
    · exact wf_takeMemFault h
    · exact wf_ite h (wf_vDone (wf_ite (wf_modCur h) (wf_vtstLook (wf_modCur h))))

theorem wf_offerV {c slot w} (h : WfMem s) : WfMem (s.offerV c slot w) := by
  unfold State.offerV
  split
  · exact h
  · extract_lets
    refine wf_ite h ?_
    split
    · exact h
    · refine wf_ite h ?_
      split
      · split
        · exact wf_missTile h
        · exact wf_askP h
        · exact wf_modTask (wf_readTile h)
      · split
        · exact wf_missTile h
        · exact wf_askP h
        · exact wf_modTask (wf_mergeTile h)

theorem wf_wakeV {die g} (h : WfMem s) : WfMem (s.wakeV die g) :=
  wf_each (wf_each h (fun _ _ hs => wf_each hs (fun _ _ hs1 => wf_modTask hs1))) (fun _ _ hs => wf_offerV hs)

theorem wf_retryV {c slot} (h : WfMem s) : WfMem (s.retryV c slot) := by
  unfold State.retryV
  split
  · exact h
  · refine wf_each h fun _ s1 hs => ?_
    split
    · exact hs
    · refine wf_ite hs ?_
      split
      · exact wf_vtldLook hs
      · exact wf_vtstLook hs

/-! ## Copy -/

theorem wf_claim {t major f desc rd op} {prep : State → State} (h : WfMem s)
    (hprep : ∀ s, WfMem s → WfMem (prep s)) : WfMem (s.claim t major f desc rd op prep) := by
  unfold State.claim
  split
  · exact wf_takeFault h
  · exact wf_startWalk h
  · exact wf_ite h (wf_finish (hprep _ h))

theorem wf_copyInsn {major f rd ok op} (h : WfMem s) : OutWf (copyInsn major f rd ok op s) :=
  wf_onTask (fun _ => wf_ite (wf_takeFault h) (wf_claim h (fun _ hs1 => hs1)))

theorem wf_slotRead {x va n} (h : WfMem s) : WfMem (s.slotRead x va n).1 := by
  unfold State.slotRead
  extract_lets
  refine wf_foldl_fst h fun s1 _ hs => ?_
  split
  · exact hs
  · extract_lets
    split
    · exact hs
    · exact hs
    · split
      · exact hs
      · exact hs
      · exact wf_fetchPriv (wf_ite hs (wf_fillPriv hs)) ..

theorem wf_slotNeeds {x src dst} (h : WfMem s) : WfMem (s.slotNeeds x src dst).1 :=
  wf_foldl_fst (wf_needLines h) (fun _ _ hs => wf_needWrite hs)

theorem wf_flushLine {c key line} (h : WfMem s) : WfMem (s.flushLine c key line) := by
  unfold State.flushLine
  extract_lets s1
  have hs1 : WfMem s1 := by
    unfold s1
    split
    · exact wf_ite h (wf_toDlc h ..)
    · exact h
  split
  · exact wf_ite hs1 hs1
  · exact hs1

theorem wf_slotWrite {x l pa bs poison s'} (h : WfMem s) (e : s.slotWrite x l pa bs poison = some s') : WfMem s' := by
  unfold State.slotWrite at e
  extract_lets c mask data done s1 s2 s3 time s4 w s5 s6 at e
  have hdone : ∀ s, WfMem s → WfMem (done s) := fun _ hs => wf_ite hs hs
  split at e
  · cases e
    have h2 : WfMem s2 := wf_writePriv (wf_ite h (wf_fillPriv h)) ..
    have h3 : WfMem s3 := wf_ite h2 h2
    exact wf_ite (wf_flushLine h3) h3
  · split at e
    · cases e
    · cases e
      have h4 : WfMem s4 := wf_floorFor h time
      have h5 : WfMem s5 := hdone _ (wf_putLine h4 ..)
      have h6 : WfMem s6 := wf_modUid h5
      exact h6
  · cases e
    exact hdone _ (wf_putLine h ..)
  · cases e
    exact hdone _ (wf_putLine h ..)

theorem wf_addSync {x n} (h : WfMem s) : WfMem (s.addSync x n).1 := by
  unfold State.addSync
  split
  · exact h
  · exact wf_ite_fst h h

theorem wf_runPieces {ps skip x} (h : WfMem s) : WfMem (runPieces ps skip s x).1 := by
  induction ps generalizing s skip x with
  | nil => exact h
  | cons p ps ih =>
    unfold runPieces
    refine wf_ite_fst (ih h) ?_
    extract_lets s1 _ _ _ needs r
    have h1 : WfMem s1 := wf_walkIn h
    have hneeds : WfMem needs.1 := wf_slotNeeds h1
    have hr : WfMem r.1 := wf_slotRead (h1)
    refine wf_ite_fst h1 (wf_ite_fst hneeds ?_)
    split
    · exact hr
    · extract_lets
      split
      · exact hr
      · exact hr
      · split
        · exact h1
        · rename_i s2 e
          have h3 : WfMem (s2.charge x.acct 100) := wf_charge (wf_slotWrite hr e)
          extract_lets
          split
          · exact h3
          · exact ih (wf_addSync h3)

theorem wf_ackParts {x off len} (h : WfMem s) : WfMem (s.ackParts x off len).1 :=
  wf_foldl_fst h (fun _ _ hs => wf_addSync (wf_charge hs))

theorem wf_sendRemote {c x node pav off tok k writes} (h : WfMem s) : WfMem (s.sendRemote c x node pav off tok k writes).1 := by
  unfold State.sendRemote
  extract_lets
  split
  · exact h
  · exact wf_addRop h
  · exact wf_addRop h

theorem wf_sourceOf {x src len} (h : WfMem s) : WfMem (s.sourceOf x src len).1 := by
  unfold State.sourceOf
  extract_lets _ needs r
  have hneeds : WfMem needs.1 := wf_slotNeeds (wf_walkIn h)
  have hr : WfMem r.1 := wf_slotRead (wf_walkIn h)
  refine wf_ite_fst (wf_walkIn h) ?_
  refine wf_ite_fst hneeds ?_
  split <;> exact hr

theorem wf_askCopy {c x} (h : WfMem s) : WfMem (s.askCopy c x).1 := by
  unfold State.askCopy
  split
  · exact wf_sendRemote h
  · extract_lets
    split
    · exact wf_sourceOf h
    · exact wf_sendRemote (wf_sourceOf h)
    · exact wf_sendRemote (wf_sourceOf h)
  · split
    · exact h
    · exact wf_ite_fst h (wf_send h)
  · split
    · exact h
    · refine wf_ite_fst h ?_
      extract_lets
      split
      · exact wf_sourceOf h
      · exact wf_sourceOf h
      · exact wf_send (wf_sourceOf h)
  · exact h

theorem wf_deliverTo {x v sub data} (h : WfMem s) : WfMem (s.deliverTo x v sub data) := wf_modUid h

theorem wf_pinFor {x t way l} (h : WfMem s) : WfMem (s.pinFor x t way l).1 := by
  unfold State.pinFor
  split
  · exact wf_ite_fst (wf_addPin h) h
  · exact h
  · exact h

theorem wf_slotReads {x t way l need hit note} (h : WfMem s) : WfMem (s.slotReads x t way l need hit note).1 :=
  wf_acquireTile (wf_ite (wf_modUid (wf_ite_fst (wf_pinFor h) h)) (wf_ite_fst (wf_pinFor h) h))

theorem wf_tilePresent {x t way l a need hit} (h : WfMem s) : WfMem (s.tilePresent x t way l a need hit).1 := by
  unfold State.tilePresent
  split
  · extract_lets _ s1 s2
    have hs1 : WfMem s1 := by
      unfold s1
      split
      · exact wf_deliverTo (wf_slotReads h)
      · exact wf_slotReads h
    have hs2 : WfMem s2 := wf_ite (wf_modUid hs1) hs1
    exact wf_addSync hs2
  · exact wf_pinFor (wf_slotReads h)

theorem wf_slotWb {c x t way l} (h : WfMem s) : WfMem (s.slotWb c x t way l) := wf_beginWb (wf_releaseAt h ..)

theorem wf_wbCounted {x g} (h : WfMem s) : WfMem (s.wbCounted x g).1 := wf_addSync h

theorem wf_tileStep {c x t a g all need p} (h : WfMem s) : WfMem (s.tileStep c x t a g all need p).1 := by
  unfold State.tileStep
  extract_lets die mine less unpin _ _ _ _ d s1 page
  clear_value page
  have hunpin : WfMem (unpin s) := by
    unfold unpin
    split
    · exact h
    · exact h
    · exact h
  have hwb : ∀ w l, WfMem (s.slotWb c x t w l) := fun _ _ => wf_slotWb h
  have h1 : WfMem s1 := wf_ite h (wf_walkIn h)
  split
  case h_1 => exact wf_askP h
  case h_2 =>
    split
    · exact wf_ite_fst hunpin h
    · exact h
  case h_4 => exact wf_tilePresent h
  case h_5 => exact wf_tilePresent h
  case h_6 => exact wf_ite_fst hunpin h
  case h_7 => exact wf_ite_fst h (wf_dropLine h)
  case h_8 => exact wf_ite_fst (wf_ite_fst (hwb _ _) h) (wf_ite_fst h (wf_dropLine h))
  case h_9 => exact wf_ite_fst (wf_ite_fst (hwb _ _) h) (wf_wbCounted h)
  case h_10 => exact wf_ite_fst h (wf_wbCounted h)
  case h_14 =>
    split
    · exact h1
    · exact wf_ite_fst h1 (wf_missTile h1)
  all_goals exact h

theorem wf_pumpTiles {fuel c p x} (h : WfMem s) : WfMem (pumpTiles fuel c p s x).1 := by
  induction fuel generalizing s x p with
  | zero => exact h
  | succ fuel ih =>
    unfold pumpTiles
    split
    · exact h
    · split
      · exact h
      · extract_lets r
        have hr : WfMem r.1 := wf_tileStep h
        split
        · exact wf_ite_fst (ih hr) hr
        · exact hr
    · exact h

theorem wf_pumpSlot {c n p} (h : WfMem s) : WfMem (s.pumpSlot c n p) := by
  unfold State.pumpSlot
  split
  · exact h
  · exact wf_pumpTiles h

theorem wf_offerSlot {c n g} (h : WfMem s) : WfMem (s.offerSlot c n g) := by
  unfold State.offerSlot
  split
  · exact h
  · extract_lets
    split
    · exact wf_ite h (wf_ite (wf_pumpSlot (wf_tilePresent h)) (wf_pumpSlot h))
    · exact wf_pumpSlot h
    · exact h

theorem wf_wakeSlots {die g} (h : WfMem s) : WfMem (s.wakeSlots die g) := wf_each h (fun _ _ hs => wf_offerSlot hs)

theorem wf_poisonedGet {x dst len data} (h : WfMem s) : WfMem (s.poisonedGet x dst len data).1 := by
  unfold State.poisonedGet
  extract_lets ps good r
  have hr : WfMem r.1 := wf_runPieces h
  clear_value r
  refine wf_ite_fst hr ?_
  split
  · exact hr
  · refine wf_ite_fst (wf_slotNeeds hr) ?_
    split
    · split
      · exact hr
      · rename_i e
        exact wf_charge (wf_slotWrite (s := r.1.undram x.id) hr e)
    · exact hr
    · exact hr

theorem wf_advanceSlot {c x} (h : WfMem s) : WfMem (s.advanceSlot c x).1 := by
  unfold State.advanceSlot
  refine wf_ite_fst h ?_
  extract_lets dev
  have hdev : WfMem dev.1 := wf_ite_fst (wf_devReadyAt h) h
  refine wf_ite_fst hdev ?_
  split
  · exact h
  · exact h
  · exact h
  · exact h
  · exact wf_pumpTiles h
  · exact h
  · refine wf_ite_fst h ?_
    split
    · exact h
    · extract_lets s1 r
      have hs1 : WfMem s1 := by
        unfold s1
        split
        · exact wf_ite h (wf_releaseAt h ..)
        · exact h
      have hr : WfMem r.1 := wf_addSync (wf_releaseAt hs1 ..)
      exact hr
  · exact wf_askCopy h
  · exact wf_askCopy h
  · exact wf_ite_fst h (wf_askCopy h)
  · exact wf_ite_fst h (wf_askCopy h)
  · exact wf_ite_fst (wf_ackParts h) h
  · exact wf_ite_fst (wf_ackParts h) h
  · exact wf_ite_fst (wf_runPieces h) (wf_ite_fst (wf_poisonedGet h) h)
  · exact wf_ite_fst (wf_runPieces h) h
  · exact h
  · exact wf_runPieces h

theorem wf_followTask {c x} (h : WfMem s) : WfMem (s.followTask c x) := by
  unfold State.followTask
  split
  · exact wf_ite h (wf_acquireCaches (wf_releaseCaches h ..) ..)
  · exact wf_releaseCaches h ..
  · exact h

theorem wf_freeSlot {c n x} (h : WfMem s) : WfMem (s.freeSlot c n x) := by
  unfold State.freeSlot
  extract_lets
  split <;> exact wf_followTask h

theorem wf_execCopySlotEnd {core n} (h : WfMem s) : OutWf (execCopySlotEnd core n s) := by
  unfold execCopySlotEnd
  extract_lets
  split
  · exact h
  · exact outWf_ite (wf_freeSlot (wf_advanceSlot h)) (wf_advanceSlot h)

theorem wf_copyFault {x} (h : WfMem s) : WfMem (s.copyFault x) := by
  unfold State.copyFault
  split
  · exact wf_ite (wf_postOnly (wf_modTask h)) (wf_takeFaultOf h)
  · extract_lets
    refine wf_postFaultOf h (fun s3 hs => ?_)
    split
    · exact wf_killSaved hs
    · exact hs
  · exact h

theorem wf_undeliver {x} (h : WfMem s) : WfMem (s.undeliver x) := by
  unfold State.undeliver
  split
  · exact wf_modUid h
  · exact h

theorem wf_execCopySlotFail {core n} (h : WfMem s) : OutWf (execCopySlotFail core n s) := by
  unfold execCopySlotFail
  extract_lets
  split
  · exact h
  · exact outWf_ite (wf_copyFault (wf_freeSlot (wf_undeliver (wf_advanceSlot h)))) (wf_advanceSlot h)

theorem wf_execCopySlotPause {core n} (h : WfMem s) : OutWf (execCopySlotPause core n s) := by
  unfold execCopySlotPause
  extract_lets
  split
  · exact h
  · extract_lets
    refine outWf_ite ?_ (wf_advanceSlot h)
    show WfMem _
    split
    · exact wf_postOnly (wf_advanceSlot h)
    · exact wf_postFaultOf (wf_advanceSlot h) (fun _ hs => hs)
    · exact wf_advanceSlot h

theorem wf_tileInsn {major slot f ok act tiles all need prep} (h : WfMem s) :
    OutWf (tileInsn major slot f ok act tiles all need prep s) := by
  unfold tileInsn
  refine wf_onTask (fun _ => ?_)
  split
  · exact wf_takeFault h
  · exact wf_ite (wf_takeFault h) (wf_ite (wf_claim h (fun _ hs => wf_modCur hs))
      (wf_ite (wf_pumpSlot (wf_claim h (fun _ hs => wf_modCur hs))) (wf_claim h (fun _ hs => wf_modCur hs))))

theorem wf_execCpyt {coord deliver sw rd slot xv hint} (h : WfMem s) : OutWf (execCpyt coord deliver sw rd slot xv hint s) := by
  unfold execCpyt
  refine wf_onTask (fun _ => ?_)
  extract_lets
  refine wf_ite (wf_takeFault h) ?_
  split
  · rename_i e
    exact outWf_of_eq e (wf_tileInsn h)
  · exact h

theorem wf_maintain {major act o} (h : WfMem s) : OutWf (maintain major act o s) := wf_tileInsn h

theorem wf_execTcitn {addr cnt hint win} (h : WfMem s) : OutWf (execTcitn addr cnt hint win s) :=
  wf_onTask (fun _ => wf_ite (wf_takeFault h) (wf_claim h (fun _ hs1 => wf_modCur hs1)))

theorem wf_execTcqry {d slot coord xv} (h : WfMem s) : OutWf (execTcqry d slot coord xv s) := by
  unfold execTcqry
  refine wf_onTask (fun _ => ?_)
  split
  · exact wf_takeFault h
  · extract_lets
    split
    · exact wf_finish (wf_modCur h)
    · exact wf_ite h (wf_askP h)

theorem wf_prefetch {c slot t p} (h : WfMem s) : WfMem (s.prefetch c slot t p) := by
  unfold State.prefetch
  extract_lets
  refine wf_ite h ?_
  split
  · exact wf_modTask (wf_readTile h)
  · exact wf_modTask h
  · exact wf_askP h
  · exact wf_ite (wf_modTask h) (wf_modTask (wf_missTile h))

theorem wf_pumpPres {c slot g} (h : WfMem s) : WfMem (s.pumpPres c slot g) := by
  unfold State.pumpPres
  split
  · exact h
  · refine wf_each h fun _ s1 hs => ?_
    split
    · exact wf_prefetch hs
    · exact hs

theorem wf_execItineraryPrefetch {core slot} (h : WfMem s) : OutWf (execItineraryPrefetch core slot s) := by
  unfold execItineraryPrefetch
  extract_lets
  split
  · exact h
  · split
    · exact h
    · refine outWf_ite h ?_
      extract_lets
      refine outWf_ite (wf_pumpPres h) ?_
      split
      · exact wf_modTask (wf_pumpPres h)
      · extract_lets s2
        have hs2 : WfMem s2 := wf_modTask (wf_pumpPres h)
        show WfMem _
        split
        · exact wf_prefetch hs2
        · exact hs2

/-! ## Fills -/

theorem wf_storeVa {die pav va bs} (h : WfMem s) : WfMem (s.storeVa die pav va bs) := by
  unfold State.storeVa
  refine wf_each h fun _ s1 hs => ?_
  split
  · exact wf_putByte hs ..
  · exact hs

theorem wf_storeTile {die pav desc g data ts} (h : WfMem s) : TileWf (storeTile s die pav desc g data ts) := by
  unfold storeTile
  extract_lets d stored pas whole cleared coh r
  have hstored : WfMem stored := wf_each h fun _ _ hs => wf_storeVa hs
  have hr : WfMem r.1 := wf_foldl_fst (p := (cleared, ts)) hstored fun _ _ hs => wf_stamp (wf_floorFor hs _)
  split
  · trivial
  · split
    · trivial
    · exact hr

theorem wf_wakeTile {die g} (h : WfMem s) : WfMem (s.wakeTile die g) := by
  unfold State.wakeTile
  exact wf_wakeSlots (wf_each (wf_wakeV h) fun _ _ hs => wf_each hs fun _ _ hs => wf_pumpPres (wf_modTask hs))

theorem wf_unpark {die id} (h : WfMem s) : WfMem (s.unpark die id) := wf_each h (fun _ _ hs => hs)

theorem wf_takeParked {c e g need way l} (h : WfMem s) : WfMem (s.takeParked c e g need way l) := by
  unfold State.takeParked
  split
  · exact h
  · rename_i t _
    have h1 : WfMem (s.readTile c e.slot t way l need false true) := wf_readTile h
    dsimp only
    generalize s.readTile c e.slot t way l need false true = s1 at h1 ⊢
    exact wf_ite h h1

theorem wf_wakeParked {die id way g} (h : WfMem s) : WfMem (s.wakeParked die id way g) := by
  unfold State.wakeParked
  extract_lets s1
  have hs1 : WfMem s1 := wf_each h (fun _ _ hs => hs)
  refine wf_unpark ?_
  refine wf_each hs1 fun _ s2 hs => ?_
  split
  · exact wf_ite hs (wf_ite (wf_takeParked hs) (wf_takeParked (wf_takeParked hs)))
  · exact hs

theorem wf_sendTile {src id v ts from_ data} (h : WfMem s) : WfMem (s.sendTile src id v ts from_ data) := by
  unfold State.sendTile
  split <;> exact h

theorem wf_landFill {id} (h : WfMem s) : WfMem (s.landFill id) := by
  unfold State.landFill
  split
  · exact h
  · split
    · exact h
    · exact wf_ite h (wf_wakeTile (wf_wakeParked (wf_charge h)))

theorem wf_failParked {c p code va} (h : WfMem s) : WfMem (s.failParked c p code va) := wf_lossFault (wf_modTask h)

theorem wf_failV {c l g code va} (h : WfMem s) : WfMem (s.failV c l g code va) := by
  unfold State.failV
  split
  · exact h
  · extract_lets s1
    have hs1 : WfMem s1 := by
      unfold s1
      refine wf_each h fun _ s2 hs => ?_
      split
      · exact wf_ite (wf_lossFault (wf_modTask hs)) hs
      · exact hs
    exact wf_each hs1 (fun _ _ hs => wf_lossFault (wf_modTask hs))

theorem wf_failFill {id code va} (h : WfMem s) : WfMem (s.failFill id code va) := by
  unfold State.failFill
  split
  · exact h
  · extract_lets _ s2 s3
    have hs2 : WfMem s2 := by
      unfold s2
      split
      · exact wf_ite (wf_dropLine h) h
      · exact h
    have hs3 : WfMem s3 := by
      unfold s3
      refine wf_each hs2 fun _ s4 hs => ?_
      extract_lets s5 s6 s7
      have hs5 : WfMem s5 := wf_each hs (fun _ _ hs => wf_failParked hs)
      have hs6 : WfMem s6 := by
        unfold s6
        refine wf_each hs5 fun _ s7 hs1 => ?_
        split
        · exact hs1
        · exact hs1
        · exact wf_pumpSlot hs1
      have hs7 : WfMem s7 := wf_each hs6 (fun _ _ hs => wf_modTask hs)
      exact wf_each hs7 (fun _ _ hs => wf_failV hs)
    exact hs3

theorem wf_answerPeer {m id e node pav} (h : WfMem s) : WfMem (s.answerPeer m id e node pav) := wf_answer h

theorem wf_beginServe {hm i id m} (h : WfMem s) : WfMem (s.beginServe hm i id m) := wf_each h (fun _ _ hs => hs)

theorem wf_serveReq {hm i id} (h : WfMem s) : WfMem (s.serveReq hm i id) := by
  unfold State.serveReq
  split
  · split
    · extract_lets
      refine wf_ite h ?_
      split
      · exact wf_ite (wf_answerPeer h) (wf_ite h (wf_beginServe h))
      · split
        · exact h
        · split <;> exact h
        · exact wf_beginServe h
    · exact h
  · exact h

theorem wf_serveQueue {hm i} (h : WfMem s) : WfMem (s.serveQueue hm i) := by
  unfold State.serveQueue
  split
  · exact h
  · exact wf_each h (fun _ _ hs => wf_serveReq hs)

theorem wf_recallHolders {hm i uid e} (h : WfMem s) : WfMem (s.recallHolders hm i uid e) := by
  unfold State.recallHolders
  extract_lets
  refine wf_each h fun _ s1 hs => ?_
  split
  · exact wf_ite hs hs
  · exact wf_ite (wf_evict hs) (wf_ite hs hs)

theorem wf_recall {hm i uid e} (h : WfMem s) : WfMem (s.recall hm i uid e) := wf_recallHolders h

theorem wf_releaseWb {id inPlace} (h : WfMem s) : WfMem (s.releaseWb id inPlace) :=
  wf_each h (fun _ _ hs => wf_ite (wf_sendFill hs) hs)

theorem wf_wbLine {m f} (h : WfMem s) : WfMem (s.wbLine m f) := by
  unfold State.wbLine
  split <;> exact h

theorem wf_endWb {id m code va keep} (h : WfMem s) : WfMem (s.endWb id m code va keep) := by
  unfold State.endWb
  extract_lets _ _ s3 _ _ s5
  have hs3 : WfMem s3 := by
    unfold s3
    refine wf_ite (wf_wbLine h) ?_
    split
    · exact wf_ite (wf_dropLine (wf_wbLine h)) (wf_wbLine h)
    · exact wf_wbLine h
  have hs5 : WfMem s5 := wf_ite (wf_deviceEvent h) (wf_tell (wf_deviceEvent h))
  split
  · exact wf_answer h
  · split
    · extract_lets s6
      have hs6 : WfMem s6 := by
        unfold s6
        split
        · exact wf_ite hs3 hs3
        · exact hs3
      exact wf_wakeTile hs6
    · exact wf_releaseWb (wf_releaseWb hs5)

theorem wf_slotPublished {c id m} (h : WfMem s) : WfMem (s.slotPublished c id m) := by
  unfold State.slotPublished
  split
  · exact h
  · split
    · exact wf_wbCounted h
    · extract_lets s1
      have hs1 : WfMem s1 := by
        unfold s1
        split
        · exact wf_ite h (wf_dropLine h)
        · exact h
      exact hs1
    · exact h

theorem wf_wbDone {id m ts} (h : WfMem s) : WfMem (s.wbDone id m ts) := by
  unfold State.wbDone
  split
  · exact wf_answer h
  · extract_lets _ _ _ s2
    have hs2 : WfMem s2 := wf_ite (wf_wbLine h) (wf_tell (wf_wbLine h))
    split
    · extract_lets s3 s4
      have hs3 : WfMem s3 := wf_slotPublished (wf_wbLine h)
      have hs4 : WfMem s4 := by
        unfold s4
        split
        · exact wf_ite (wf_pumpSlot hs3) hs3
        · exact hs3
      exact wf_wakeTile hs4
    · exact wf_releaseWb (wf_releaseWb hs2)

theorem wf_wbToDram {hm id m} (h : WfMem s) : WfMem (s.wbToDram hm id m) := by
  unfold State.wbToDram
  refine wf_each h fun _ s1 hs => ?_
  split <;> exact hs

theorem wf_takeWb {hm id v m} (h : WfMem s) : WfMem (s.takeWb hm id v m) := by
  unfold State.takeWb
  extract_lets hd entry hold s1 write
  clear_value entry
  have h1 : WfMem s1 := wf_wbToDram h
  have hwrite : WfMem write := by
    unfold write
    split
    · exact wf_ite h1 h1
    · exact h1
  refine wf_ite (wf_endWb h) ?_
  split
  · split
    · exact h
    · exact h
    · exact hwrite
  · exact hwrite

theorem wf_takeHeld {hm i} (h : WfMem s) : WfMem (s.takeHeld hm i) := by
  unfold State.takeHeld
  split
  · exact h
  · refine wf_each h fun _ s1 hs => ?_
    split
    · split
      · exact wf_takeWb hs
      · exact hs
    · exact hs

theorem wf_chargeWb {m} (h : WfMem s) : WfMem (s.chargeWb m) := by
  unfold State.chargeWb
  split
  · exact wf_charge h
  · exact h

theorem wf_writeWb {hm id v m} (h : WfMem s) : WfMem (s.writeWb hm id v m) := by
  unfold State.writeWb
  refine wf_ite h ?_
  extract_lets
  split
  · extract_lets
    split
    · exact wf_serveQueue (wf_takeHeld (wf_endWb h))
    · exact wf_endWb h
  · rename_i e
    exact wf_releaseWb (wf_chargeWb (tileWf_of_eq e (wf_storeTile h)))

theorem wf_execTileWritebackBegin {id} (h : WfMem s) : OutWf (execTileWritebackBegin id s) := by
  unfold execTileWritebackBegin
  split
  · exact h
  · split
    · exact wf_writeWb h
    · exact outWf_ite h (wf_takeWb h)
    · exact h

theorem wf_execTilePublish {id} (h : WfMem s) : OutWf (execTilePublish id s) := by
  unfold execTilePublish
  split
  · exact h
  · split
    · extract_lets
      split
      · exact wf_wbDone h
      · exact wf_serveQueue (wf_takeHeld (wf_wbDone h))
    · exact h

theorem wf_execTileDropReport {id} (h : WfMem s) : OutWf (execTileDropReport id s) := by
  unfold execTileDropReport
  split
  · exact h
  · split
    · refine outWf_ite h ?_
      extract_lets
      split
      · exact h
      · exact wf_ite h h
    · exact h

theorem wf_execDirectoryRecallDone {home} (h : WfMem s) : OutWf (execDirectoryRecallDone home s) := by
  unfold execDirectoryRecallDone
  extract_lets _ s1
  have hs1 : WfMem s1 := wf_each h (fun _ _ hs => wf_recallHolders hs)
  split <;> exact hs1

theorem wf_cancelFill {id} (h : WfMem s) : WfMem (s.cancelFill id) := by
  unfold State.cancelFill
  split
  · exact h
  · extract_lets _ s1 s2 s3
    have hs1 : WfMem s1 := by
      unfold s1
      refine wf_each h fun _ s2 hs => ?_
      split
      · exact wf_ite (wf_serveQueue (wf_takeHeld hs)) hs
      · exact hs
    have hs3 : WfMem s3 := by
      unfold s3
      split
      · exact wf_ite (wf_removeLine hs1) hs1
      · exact hs1
    exact wf_wakeTile (wf_unpark hs3)

theorem wf_sendData {hm i e} (h : WfMem s) : WfMem (s.sendData hm i e) := by
  unfold State.sendData
  extract_lets s1 s2
  have hs1 : WfMem s1 := by
    unfold s1
    refine wf_each h fun _ s2 hs => ?_
    split
    · exact hs
    · extract_lets
      split
      · exact wf_answerPeer hs
      · split
        · exact wf_sendTile hs
        · exact wf_failFill hs
  exact wf_serveQueue (wf_takeHeld hs1)

theorem wf_execTileDirRequest {id} (h : WfMem s) : OutWf (execTileDirRequest id s) := by
  unfold execTileDirRequest
  split
  · exact h
  · split
    · extract_lets
      refine outWf_ite h ?_
      split
      · show WfMem _
        split
        · exact wf_ite h (wf_sendData h)
        · exact h
      · split
        · exact wf_serveReq h
        · refine outWf_ite (wf_serveReq h) ?_
          refine outWf_ite h ?_
          split
          · exact h
          · exact wf_recall h
    · exact h

theorem wf_execHolderForward {id} (h : WfMem s) : OutWf (execHolderForward id s) := by
  unfold execHolderForward
  split
  · exact h
  · split
    · refine outWf_ite h ?_
      split
      · exact h
      · extract_lets
        split
        · exact h
        · refine outWf_ite h ?_
          split
          · exact wf_sendTile h
          · exact wf_ite (wf_beginServe h) h
    · exact h

theorem wf_execReassemblyFlit {id off} (h : WfMem s) : OutWf (execReassemblyFlit id off s) := by
  unfold execReassemblyFlit
  extract_lets s1
  have hs1 : WfMem s1 := by
    unfold s1
    split
    · exact wf_ite h (wf_sendData h)
    · exact h
  split
  · exact hs1
  · extract_lets
    split
    · exact hs1
    · exact wf_landFill hs1

theorem wf_answerQuery {id p} (h : WfMem s) : WfMem (s.answerQuery id p) := by
  unfold State.answerQuery
  split
  · exact h
  · extract_lets
    split
    · split
      · exact h
      · split
        · exact wf_modTask (wf_vtldLook h)
        · exact h
    · split
      · exact h
      · split
        · exact wf_vtstLook h
        · exact h
    · split
      · exact wf_pumpSlot h
      · exact h
    · exact wf_modTask h
    · extract_lets
      split
      · exact wf_prefetch (wf_modTask h)
      · exact wf_modTask h
    · exact wf_unpark h
    · exact h

theorem wf_execTileVersionQuery {id} (h : WfMem s) : OutWf (execTileVersionQuery id s) := by
  unfold execTileVersionQuery
  split
  · exact h
  · split
    · refine outWf_ite h ?_
      split
      · exact wf_answerQuery h
      · exact h
    · exact h

theorem wf_execVectorFillLand {core slot v} (h : WfMem s) : OutWf (execVectorFillLand core slot v s) := by
  unfold execVectorFillLand
  extract_lets
  split
  · exact h
  · split
    · split
      · exact wf_retryV h
      · exact wf_landVec h
    · exact wf_ite h (wf_retryV h)

/-! ## Dram -/

theorem wf_postMemErr {m pa kind src key half} (h : WfMem s) : WfMem (s.postMemErr m pa kind src key half) :=
  wf_ite h (wf_ite (wf_writeVaLts h) h)

theorem wf_retire {m pa src key} (h : WfMem s) : WfMem (s.retire m pa src key) :=
  wf_ite h (wf_ite h (wf_ite h (wf_postMemErr h)))

theorem wf_eccHalf {m pa half n src key} (h : WfMem s) : WfMem (s.eccHalf m pa half n src key) := by
  unfold State.eccHalf
  generalize List.range 64 = bytes
  extract_lets row line note a
  have hnote : ∀ s add kind, WfMem s → WfMem (note s add kind) := fun _ _ _ hs => wf_retire (wf_postMemErr hs)
  refine wf_ite h (wf_ite (hnote _ _ _ h) (wf_ite (hnote _ _ _ h) (wf_ite (hnote _ _ _ h) (wf_ite (wf_postMemErr h) ?_))))
  exact wf_each h fun _ _ hs => Memory.wf_write _ _ hs

theorem wf_eccRead {m pa e0 e1 src key} (h : WfMem s) : WfMem (s.eccRead m pa e0 e1 src key) := wf_eccHalf (wf_eccHalf h)

theorem wf_answerRead {r} (h : WfMem s) : WfMem (s.answerRead r) := by
  unfold State.answerRead
  split
  · exact wf_ite h h
  · exact h

theorem wf_execDramRequestServe {stack turn e0 e1} (h : WfMem s) : OutWf (execDramRequestServe stack turn e0 e1 s) := by
  unfold execDramRequestServe
  extract_lets m pc q put
  have hput : ∀ s q, WfMem s → WfMem (put s q) := fun _ _ hs => hs
  split
  · exact h
  · rename_i r _
    extract_lets s1 s2
    have h1 : WfMem s1 := wf_countMiss h r
    have h2 : WfMem s2 := hput _ _ h1
    exact wf_ite (wf_applyPay (hput _ _ h1) r) (wf_ite h2 (wf_answerRead (wf_eccRead h2)))

theorem wf_execPatrolRead {stack pc e0 e1} (h : WfMem s) : OutWf (execPatrolRead stack pc e0 e1 s) := outWf_ite h (wf_eccRead h)

theorem wf_execHotListScrub {stack n lo e0 e1} (h : WfMem s) : OutWf (execHotListScrub stack n lo e0 e1 s) := by
  unfold execHotListScrub
  extract_lets
  split
  · exact h
  · exact outWf_ite h (wf_eccRead h)

theorem wf_execRowRemapDone {copy} (h : WfMem s) : OutWf (execRowRemapDone copy s) := by
  unfold execRowRemapDone
  extract_lets
  split
  · exact h
  · exact outWf_ite h (wf_postMemErr (wf_each h (fun _ _ hs => wf_eccRead hs)))

theorem wf_execScoreHalving {stack} (h : WfMem s) : OutWf (execScoreHalving stack s) := wf_ite h h

theorem wf_reached {f} (h : WfMem s) : WfMem (s.reached f) := wf_ite h (wf_sendFrames h)

theorem wf_execRouterPortAssignment {plane} (h : WfMem s) : OutWf (execRouterPortAssignment plane s) :=
  wf_each (wf_each h (fun _ _ hs => wf_countOld hs)) (fun _ _ hs => wf_reached hs)

/-! ## Links -/

theorem wf_deliverFrame {n f} (h : WfMem s) : WfMem (s.deliverFrame n f) := by
  unfold State.deliverFrame
  refine wf_ite h ?_
  split <;> exact h

theorem wf_execShulosFrameReceive {port f} (h : WfMem s) : OutWf (execShulosFrameReceive port f s) :=
  outWf_ite h (outWf_ite h (outWf_ite h (outWf_ite h (outWf_ite h (wf_deliverFrame h)))))

theorem wf_linkEvent {n} (h : WfMem s) : WfMem (s.linkEvent n) := wf_postEvent h

theorem wf_linkUp {n} (h : WfMem s) : WfMem (s.linkUp n) := wf_linkEvent h

theorem wf_execLinkViewReceive {port view} (h : WfMem s) : OutWf (execLinkViewReceive port view s) :=
  outWf_ite h (outWf_ite (wf_linkUp h) (outWf_ite (wf_linkEvent h) (wf_linkEvent (wf_linkEvent h))))

theorem wf_hostWrite {pav va bs lts} (h : WfMem s) : WfMem (s.hostWrite pav va bs lts) := by
  unfold State.hostWrite
  exact wf_each h fun _ _ hs => wf_writeVaLts hs

theorem wf_poisonVa {pav va} (h : WfMem s) : WfMem (s.poisonVa pav va) := by
  unfold State.poisonVa
  split <;> exact h

theorem wf_performRemote {r op base} (h : WfMem s) : WfMem (s.performRemote r op base) := by
  unfold State.performRemote
  extract_lets _ _ _ _ _ _ read
  have hread : ∀ v, WfMem (read v) := fun _ => wf_ite (wf_answer (wf_settle h ..)) (wf_answer (wf_settle h ..))
  split
  · exact hread _
  · split <;> exact wf_answer (wf_settle h ..)
  · exact wf_answer (wf_hostWrite (wf_settle h ..))
  · exact wf_ite (wf_answer (wf_settle h ..)) (wf_answer (wf_hostWrite (wf_settle h ..)))
  · exact wf_answer (wf_ite (wf_poisonVa (wf_hostWrite (wf_settle h ..))) (wf_hostWrite (wf_settle h ..)))
  · exact wf_tell (wf_settle h ..)
  · exact wf_answer (wf_settle h ..)
  · exact wf_tell (wf_settle h ..)

theorem wf_ingress {r op} (h : WfMem s) : WfMem (s.ingress r op) :=
  wf_ite (wf_answer h) (wf_ite (wf_performRemote h) (wf_answer h))

theorem wf_execRemoteIngress {r} (h : WfMem s) : OutWf (execRemoteIngress r s) := outWf_ite h (wf_ingress h)

theorem wf_countForged {pav} (h : WfMem s) : WfMem (s.countForged pav) := by
  unfold State.countForged
  split
  · exact h
  · exact wf_ite (wf_violation (wf_modPav h)) (wf_modPav h)

theorem wf_ownTimes {c l op} (h : WfMem s) : WfMem (s.ownTimes c l op) := by
  unfold State.ownTimes
  split
  · exact h
  · exact wf_ite (wf_modTask h) (wf_modTask h)

theorem wf_remoteFault {c l op code item} (h : WfMem s) : WfMem (s.remoteFault c l op code item) := by
  unfold State.remoteFault
  split
  · exact h
  · exact wf_postFault (wf_modTask h)

theorem wf_scalarAnswer {x tag op code data} (h : WfMem s) : WfMem (s.scalarAnswer x tag op code data) := by
  unfold State.scalarAnswer
  extract_lets _ _ s1 s2
  have hs1 : WfMem s1 := wf_ite (wf_ownTimes h) h
  have hs2 : WfMem s2 := by
    unfold s2
    split
    · exact wf_ite (wf_acquireAt hs1 ..) hs1
    · exact hs1
  split
  · exact wf_ite hs2 (wf_remoteFault hs2)
  · extract_lets
    refine wf_ite ?_ (wf_modTask hs2)
    split
    · exact wf_remoteFault (wf_deliver hs2)
    · exact hs2

theorem wf_failQuery {id code} (h : WfMem s) : WfMem (s.failQuery id code) := by
  unfold State.failQuery
  split
  · exact h
  · extract_lets
    split
    · exact wf_failV h
    · exact wf_failV h
    · split <;> exact h
    · split
      · exact wf_failParked h
      · exact h
    · exact wf_modTask h
    · exact wf_modTask h
    · exact h

theorem wf_endRop {id op code data ver} (h : WfMem s) : WfMem (s.endRop id op code data ver) := by
  unfold State.endRop
  extract_lets _ s2
  have hs2 : WfMem s2 := wf_ite (wf_countForged h) h
  split
  · exact wf_scalarAnswer hs2
  · split
    · exact hs2
    · exact wf_ite (wf_ownTimes hs2) hs2
  · refine wf_ite (wf_sendTile hs2) ?_
    split
    · exact wf_failFill hs2
    · exact hs2
  · exact wf_ite (wf_answerQuery hs2) (wf_failQuery hs2)
  · split
    · exact hs2
    · exact wf_ite (wf_wbDone hs2) (wf_endWb hs2)

theorem wf_execRemoteResponse {id code data ver} (h : WfMem s) : OutWf (execRemoteResponse id code data ver s) := by
  unfold execRemoteResponse
  split
  · exact h
  · split
    · exact outWf_ite h (wf_endRop h)
    · split
      · split
        · exact wf_endRop h
        · exact outWf_ite h (wf_ingress h)
      · exact wf_endRop h
      · exact wf_endRop h

theorem wf_loseFences {id op} (h : WfMem s) : WfMem (s.loseFences id op) := by
  unfold State.loseFences
  split
  · exact wf_modTask h
  · exact h

theorem wf_lostPut {op} (h : WfMem s) : WfMem (s.lostPut op) := by
  unfold State.lostPut
  split
  · exact wf_ite h (wf_postRecord h)
  · exact h

theorem wf_peerLost {n} (h : WfMem s) : WfMem (s.peerLost n) := by
  unfold State.peerLost
  split
  · exact h
  · exact wf_ite h (wf_each (wf_each h (fun _ _ hs => wf_loseFences hs)) (fun _ _ hs => wf_endRop (wf_lostPut hs)))

theorem wf_portTimers (h : WfMem s) : WfMem s.portTimers := wf_each h (fun _ _ hs => wf_peerLost hs)

/-! ## Drains -/

theorem memory_wf_foldl {α : Type} {f : List Host.Cell → α → List Host.Cell} {l : List α} {m : List Host.Cell}
    (h : Memory.wf m = true) (hf : ∀ m a, Memory.wf m = true → Memory.wf (f m a) = true) : Memory.wf (l.foldl f m) = true :=
  each_keeps (fun m => Memory.wf m = true) (fun a m => f m a) (fun a m => hf m a) l m h

theorem wf_swapBits {x y} (h : WfMem s) : WfMem (s.swapBits x y) := by
  refine memory_wf_foldl h fun m z hm => ?_
  split
  · exact Memory.wf_write _ _ hm
  · exact hm

theorem wf_swapEls {ty els old new} (h : WfMem s) : WfMem (s.swapEls ty els old new) := wf_each h (fun _ _ hs => wf_swapBits hs)

theorem wf_swapTiles {c id pav g desc sub mask old new} (h : WfMem s) : WfMem (s.swapTiles c id pav g desc sub mask old new) :=
  wf_ite h (wf_swapEls h)

theorem wf_spoilDrain {c l d} (h : WfMem s) : WfMem (s.spoilDrain c l d) := by
  unfold State.spoilDrain
  extract_lets
  refine wf_each (wf_modTask h) fun _ s2 hs => ?_
  split
  · exact wf_swapEls hs
  · exact wf_swapTiles hs

theorem wf_spoilBank {c slot p} (h : WfMem s) : WfMem (s.spoilBank c slot p) :=
  wf_each h (fun _ _ hs => wf_each hs (fun _ _ hs1 => wf_spoilDrain hs1))

/-! ## Matrix -/

theorem wf_mDone {n} (h : WfMem s) : WfMem (s.mDone n) := wf_ite h (wf_finish h)

theorem wf_mBegin (h : WfMem s) : WfMem s.mBegin := wf_ite (wf_modCur h) h

theorem wf_mEnd (h : WfMem s) : WfMem s.mEnd := by
  unfold State.mEnd
  split
  · exact h
  · exact wf_modCur h

theorem wf_mInsn {f : Machine.Task → MGo} (h : WfMem s) (hf : ∀ t, GoWf (f t)) : OutWf (mInsn s f) := by
  unfold mInsn
  refine wf_onTask fun t => ?_
  have hgo : GoWf (f t) := hf t
  have hmiss : WfMem (s.mEnd.takeFault fSchedMiss 0) := wf_takeFault (wf_mEnd h)
  generalize f t = go at hgo ⊢
  split
  · cases go with
    | issue | parks => exact wf_mDone (wf_mEnd hgo)
    | wait | hold | begun => exact hgo
    | done | broke => exact wf_mEnd hgo
  · refine wf_ite h ?_
    cases go with
    | hold => exact hgo
    | done => exact wf_mEnd hgo
    | begun => exact wf_ite hmiss hgo
    | wait | broke => exact wf_ite hmiss (wf_mEnd hgo)
    | issue | parks => exact wf_ite hmiss (wf_mDone (wf_modCur (wf_mEnd hgo)))

theorem wf_execMstamp {off} (h : WfMem s) : OutWf (execMstamp off s) :=
  wf_onTask (fun _ => wf_ite (wf_takeFault h) (wf_finish (wf_modCur h)))

theorem wf_execMstb {a per} (h : WfMem s) : OutWf (execMstb a per s) := wf_mInsn h (fun _ => wf_modCur h)

theorem wf_change {c slot p n blk open_ lat op} (h : WfMem s) : WfMem (s.change c slot p n blk open_ lat op) :=
  wf_modTask (wf_spoilBank h)

theorem wf_mChange {p lat op} (h : WfMem s) : WfMem (s.mChange p lat op) := wf_change h

theorem wf_landChange {c l n} (h : WfMem s) : WfMem (s.landChange c l n) := by
  unfold State.landChange
  split
  · exact h
  · extract_lets
    split
    · exact h
    · exact wf_ite h (wf_modTask h)

theorem wf_landTask {k c l} (h : WfMem s) : WfMem (State.landTask k c l s) := by
  induction k generalizing s with
  | zero => exact h
  | succ k ih =>
    unfold State.landTask
    split
    · exact ih (wf_landChange h)
    · exact h

theorem wf_landAll (h : WfMem s) : WfMem s.landAll := wf_each h (fun _ _ hs => wf_each hs (fun _ _ hs1 => wf_landTask hs1))

theorem wf_readFlag {src} (h : WfMem s) : WfMem (s.readFlag src) := wf_ite (wf_modCur h) h

theorem wf_mFault {c} (h : WfMem s) : GoWf (mFault s c) := wf_takeFault h

theorem wf_bankOp {t ps} {go : State → State} (h : WfMem s) (hgo : ∀ s, WfMem s → WfMem (go s)) :
    GoWf (bankOp s t ps go) :=
  goWf_ite h (hgo _ h)

theorem wf_execMzero {bank n imm} (h : WfMem s) : OutWf (execMzero bank n imm s) := by
  unfold execMzero
  refine wf_mInsn h (fun _ => ?_)
  extract_lets
  split
  · exact wf_mFault h
  · exact goWf_ite (wf_mFault h) (wf_bankOp h (fun _ hs => wf_modCur (wf_each hs (fun _ _ hs1 => wf_mChange hs1))))

theorem wf_execManch {bank imm} (h : WfMem s) : OutWf (execManch bank imm s) := by
  unfold execManch
  refine wf_mInsn h (fun _ => ?_)
  split
  · exact wf_mFault h
  · exact wf_bankOp h (fun _ hs => wf_mChange hs)

theorem wf_execMrnm {bank k} (h : WfMem s) : OutWf (execMrnm bank k s) := by
  unfold execMrnm
  refine wf_mInsn h (fun _ => ?_)
  split
  · exact wf_mFault h
  · exact goWf_ite h (goWf_ite (wf_mFault h) (goWf_ite h (wf_mChange h)))

theorem wf_execMcopy {d src} (h : WfMem s) : OutWf (execMcopy d src s) := by
  unfold execMcopy
  refine wf_mInsn h (fun _ => ?_)
  split
  · exact wf_mFault h
  · exact wf_mFault h
  · exact goWf_ite h (goWf_ite h (wf_bankOp h (fun _ hs => wf_mChange hs)))

theorem wf_execMsca {d src scale mode} (h : WfMem s) : OutWf (execMsca d src scale mode s) := by
  unfold execMsca
  refine wf_mInsn h fun _ => ?_
  split
  · exact wf_mFault h
  · exact wf_mFault h
  · refine goWf_ite (wf_mFault h) (goWf_ite (wf_waitEmpty h) ?_)
    split
    · rename_i s1 _ _ e
      have h1 : GoWf (.issue s1 _ _) := goWf_of_eq e (wf_bankOp h fun _ hs => wf_mChange hs)
      exact h1
    · exact wf_bankOp h fun _ hs => wf_mChange hs

theorem wf_promise {c slot n p} (h : WfMem s) : WfMem (s.promise c slot n p) := wf_modTask h

theorem wf_execMsync {bank} (h : WfMem s) : OutWf (execMsync bank s) := by
  unfold execMsync
  refine wf_mInsn h (fun _ => ?_)
  extract_lets
  split
  · exact wf_mFault h
  · exact goWf_ite (wf_mFault h) (goWf_ite h (wf_promise (wf_readFlag h)))
  · exact goWf_ite h (wf_promise (wf_readFlag h))

theorem wf_execBankReadyToken {core slot} (h : WfMem s) : OutWf (execBankReadyToken core slot s) := by
  unfold execBankReadyToken
  extract_lets
  split
  · exact h
  · extract_lets
    split
    · exact h
    · exact wf_modTask (wf_each h (fun _ _ hs => wf_modTask hs))

theorem wf_execAalloc {bank n wait} (h : WfMem s) : OutWf (execAalloc bank n wait s) :=
  wf_mInsn h (fun _ => goWf_ite (wf_mFault h) (goWf_ite (wf_modCur h) (goWf_ite (goWf_ite h (wf_modCur h)) (wf_modCur h))))

theorem wf_execAfree {bank n} (h : WfMem s) : OutWf (execAfree bank n s) := wf_mInsn h (fun _ => goWf_ite h (wf_modCur h))

theorem wf_execBankRelease {core bank} (h : WfMem s) : OutWf (execBankRelease core bank s) := wf_ite h h

theorem wf_execAband {bank q owners} (h : WfMem s) : OutWf (execAband bank q owners s) := by
  unfold execAband
  refine wf_mInsn h (fun _ => ?_)
  split
  · exact wf_mFault h
  · exact goWf_ite (wf_mFault h) h

theorem wf_readOp {c slot g need took waited o} (h : WfMem s) : WfMem (s.readOp c slot g need took waited o) := by
  unfold State.readOp
  split
  · exact h
  · split
    · refine wf_modTask ?_
      split <;> exact h
    · split
      · extract_lets s1
        have hs1 : WfMem s1 := by
          unfold s1
          split
          · exact wf_readTile h
          · exact h
        exact wf_modTask hs1
      · exact wf_modTask (wf_readTile h)
      · exact h

theorem wf_seekOp {c n t g desc need waited o} (h : WfMem s) : WfMem (s.seekOp c n t g desc need waited o).1 := by
  unfold State.seekOp
  extract_lets
  split
  · exact h
  · exact h
  · exact h
  · exact wf_missTile h
  · exact wf_askP h

theorem wf_seekBoth {c n t p known waited} (h : WfMem s) : WfMem (s.seekBoth c n t p known waited).1 := wf_seekOp (wf_seekOp h)

theorem wf_readProd {c slot t p la lb took waited} (h : WfMem s) : WfMem (s.readProd c slot t p la lb took waited) :=
  wf_charge (wf_readOp (wf_readOp h))

theorem wf_parkProd {c slot blk n iaddr p run stamped late recovery waits behind} (h : WfMem s) :
    WfMem (s.parkProd c slot blk n iaddr p run stamped late recovery waits behind) :=
  wf_change h

theorem wf_tryProd {t p run tok} (h : WfMem s) : PGoWf (s.tryProd t p run tok) := by
  unfold State.tryProd
  extract_lets
  split
  · exact wf_startWalk h
  · exact pgoWf_ite (pgoWf_ite h (wf_postOnly (wf_parkProd h))) (wf_takeFaultOf (wf_modTask h))
  · refine pgoWf_ite h ?_
    split
    · exact wf_change (wf_readProd h)
    · exact pgoWf_ite h (wf_parkProd (wf_seekBoth h))

theorem wf_issueProd {t p len} (h : WfMem s) : GoWf (issueProd s t p len) := by
  have hgo : PGoWf (s.tryProd t p none p.tok) := wf_tryProd h
  unfold issueProd
  generalize s.tryProd t p none p.tok = go at hgo ⊢
  cases go with
  | fired | parked => exact wf_ite (wf_promise hgo) hgo
  | wait | hold | done => exact hgo

theorem wf_mmaInsn {o asub bsub ah bh tb idx len} (h : WfMem s) : OutWf (mmaInsn s o asub bsub ah bh tb idx len) := by
  unfold mmaInsn
  refine wf_mInsn h (fun _ => ?_)
  split
  · exact wf_mFault h
  · extract_lets
    refine goWf_ite (wf_mFault h) ?_
    split
    · exact wf_mFault h
    · extract_lets
      refine goWf_ite (wf_issueProd h) ?_
      split
      · exact wf_waitEmpty h
      · exact goWf_ite (wf_waitEmpty h) (wf_issueProd h)
      · exact wf_startWalk h

theorem wf_execMma {o asub bsub ah bh tb} (h : WfMem s) : OutWf (execMma o asub bsub ah bh tb s) := wf_mmaInsn h

theorem wf_execMmaC {bank} (h : WfMem s) : OutWf (execMmaC bank s) := by
  unfold execMmaC
  refine wf_onTask (fun _ => ?_)
  split
  · rename_i e
    exact outWf_of_eq e (wf_mmaInsn h)
  · exact h

theorem wf_execMmag {o idx ah bh} (h : WfMem s) : OutWf (execMmag o idx ah bh s) := wf_mmaInsn h

theorem wf_runStep {t r len} (h : WfMem s) : GoWf (runStep s t r len) := by
  unfold runStep
  split
  · exact wf_mFault h
  · split
    · exact wf_mFault h
    · split
      · exact wf_takeFaultOf (wf_modCur h)
      · extract_lets r1 q tok
        have htok : ∀ s n b, WfMem s → WfMem (tok s n b) := fun _ _ _ hs => wf_ite (wf_promise hs) hs
        clear_value tok
        split
        case h_1 e =>
          have h1 := pgoWf_of_eq e (wf_tryProd h)
          exact goWf_ite (wf_modCur (htok _ _ _ h1)) (wf_modCur h1)
        case h_2 e => exact wf_modCur (htok _ _ _ (pgoWf_of_eq e (wf_tryProd h)))
        case h_3 e | h_4 e | h_5 e => exact pgoWf_of_eq e (wf_tryProd h)

theorem wf_execMmk {o n la lb} (h : WfMem s) : OutWf (execMmk o n la lb s) := by
  unfold execMmk
  refine wf_mInsn h (fun _ => ?_)
  split <;> exact wf_runStep h

theorem wf_mRead {t va n} (h : WfMem s) : ReadWf (s.mRead t va n) := by
  unfold State.mRead
  extract_lets
  split
  · exact trivial
  · exact trivial
  · extract_lets _ n1
    have hn1 : WfMem n1.1 := wf_needLines (wf_loadFloor (wf_mBegin h))
    refine readWf_ite hn1 ?_
    split
    · exact trivial
    · exact wf_readLines hn1

theorem wf_execMres {bank a} (h : WfMem s) : OutWf (execMres bank a s) := by
  unfold execMres
  refine wf_mInsn h (fun _ => ?_)
  split
  · exact wf_runStep h
  · split
    · exact wf_mFault h
    · extract_lets
      refine goWf_ite (wf_takeFault h) ?_
      split
      · exact wf_startWalk (wf_mBegin h)
      · exact wf_takeMemFault h
      · rename_i e
        exact readWf_of_eq e (wf_mRead h)
      · rename_i s1 _ e
        have h1 : WfMem s1 := readWf_of_eq e (wf_mRead h)
        extract_lets
        split
        · exact wf_takeFault h
        · exact goWf_ite (wf_takeFault h) (goWf_ite (goWf_ite h (wf_ite (wf_promise h1) h1)) (wf_runStep (wf_modCur h1)))

theorem wf_freeParked {c e} (h : WfMem s) : WfMem (s.freeParked c e) := wf_modTask h

theorem wf_clearRun {c e} (h : WfMem s) : WfMem (s.clearRun c e) := wf_modTask h

theorem wf_reFire {c t e la lb a b} (h : WfMem s) : WfMem (s.reFire c t e la lb a b) := by
  unfold State.reFire
  extract_lets _ _ s2
  have hs2 : WfMem s2 := wf_modTask (wf_readProd h)
  split
  · exact wf_freeParked hs2
  · exact wf_ite (wf_freeParked hs2) (wf_clearRun hs2)

theorem wf_faultParked {c e code va} (h : WfMem s) : WfMem (s.faultParked c e code va) := wf_takeFaultOf (wf_modTask h)

theorem wf_reEnter {c e0} (h : WfMem s) : WfMem (s.reEnter c e0) := by
  unfold State.reEnter
  split
  · exact h
  · split
    · exact wf_faultParked h
    · extract_lets
      split
      · exact wf_startWalk h
      · exact wf_ite (wf_postOnly h) (wf_faultParked h)
      · split
        · exact wf_reFire h
        · exact wf_ite h (wf_clearRun (wf_seekBoth h))

theorem wf_execReplayReentry {core} (h : WfMem s) : OutWf (execReplayReentry core s) := by
  unfold execReplayReentry
  show WfMem _
  split
  · exact wf_reEnter h
  · exact h

/-! ## Grammar -/

theorem wf_noPage (h : WfMem s) : WfMem s.noPage := wf_modCur h

theorem wf_mReads {t rs} (h : WfMem s) : ReadWf (s.mReads t rs) := by
  induction rs generalizing s with
  | nil => exact h
  | cons r rs ih =>
    have hr : ReadWf (s.mRead t r.1 r.2) := wf_mRead h
    unfold State.mReads
    split
    · rename_i s1 _ e
      have h1 : ReadWf (s1.mReads t rs) := ih (readWf_of_eq e hr)
      split
      · rename_i s2 _ e2
        have h2 : WfMem s2 := readWf_of_eq e2 h1
        exact h2
      · exact h1
    · exact hr

theorem wf_execGload {a} (h : WfMem s) : OutWf (execGload a s) := by
  unfold execGload
  refine wf_mInsn h (fun _ => ?_)
  extract_lets
  refine goWf_ite (wf_takeFault (wf_noPage h)) ?_
  split
  · exact wf_startWalk (wf_mBegin h)
  · exact wf_takeMemFault (wf_noPage h)
  · rename_i e
    exact readWf_of_eq e (wf_mRead h)
  · rename_i s1 _ e
    have h1 : WfMem s1 := readWf_of_eq e (wf_mRead h)
    refine goWf_ite (wf_takeFault (wf_noPage h)) ?_
    extract_lets
    split
    · exact wf_startWalk (wf_mBegin h)
    · exact wf_takeMemFault (wf_noPage h)
    · split
      · exact wf_startWalk (wf_mBegin h)
      · exact wf_takeMemFault (wf_noPage h)
      · rename_i e1
        exact readWf_of_eq e1 (wf_mReads h1)
      · rename_i s2 _ e1
        have h2 : WfMem s2 := readWf_of_eq e1 (wf_mReads h1)
        extract_lets
        refine goWf_ite (wf_takeFault (wf_noPage h)) ?_
        split
        · exact wf_takeFault (wf_noPage h)
        · exact wf_modCur h2

theorem wf_execGslot {bank n} (h : WfMem s) : OutWf (execGslot bank n s) := by
  unfold execGslot
  refine wf_mInsn h (fun _ => ?_)
  extract_lets _ _ _ _ s1
  have hs1 : WfMem s1 := wf_foldl h (fun _ _ hs => wf_mChange hs)
  refine goWf_ite (wf_mFault h) ?_
  refine goWf_ite (wf_mFault h) ?_
  split
  · exact wf_mFault h
  · exact goWf_ite (wf_mFault h) (goWf_ite h (wf_modCur (wf_foldl hs1 (fun _ _ hs => wf_mChange hs))))

theorem wf_execGxwin {v bf16} (h : WfMem s) : OutWf (execGxwin v bf16 s) :=
  wf_mInsn h (fun _ => goWf_ite (wf_mFault h) (wf_modCur h))

theorem wf_writeSlots {t lat vs} (h : WfMem s) : WfMem (s.writeSlots t lat vs) := by
  unfold State.writeSlots
  extract_lets _ s1
  have hs1 : WfMem s1 := by
    unfold s1
    refine wf_foldl h fun s2 _ hs => ?_
    extract_lets
    split
    · exact wf_mChange hs
    · exact hs
  exact wf_modCur hs1

theorem wf_execGeval {lvl} (h : WfMem s) : OutWf (execGeval lvl s) := by
  unfold execGeval
  refine wf_mInsn h (fun _ => ?_)
  split
  · exact wf_mFault h
  · exact goWf_ite (wf_mFault h) (goWf_ite h (goWf_ite (wf_takeFault (wf_chargeCur (wf_writeSlots h)))
      (wf_chargeCur (wf_writeSlots h))))

theorem wf_execGrow {a bank ovw n} (h : WfMem s) : OutWf (execGrow a bank ovw n s) := by
  unfold execGrow
  refine wf_mInsn h (fun _ => ?_)
  split
  · exact wf_mFault h
  · extract_lets
    split
    · exact wf_mFault h
    · exact goWf_ite (wf_mFault h) (goWf_ite h (goWf_ite (wf_mFault h) (goWf_ite h
        (goWf_ite (wf_takeFault (wf_chargeCur (wf_ite h (wf_mChange h)))) (wf_chargeCur (wf_ite h (wf_mChange h)))))))

theorem wf_stampedMeaning {a} (h : WfMem s) : OutWf (stampedMeaning a s) := by
  unfold stampedMeaning
  split
  · exact wf_execMma h
  · exact wf_execMmaC h
  · exact wf_execMmag h
  · exact wf_execMmk h
  · exact wf_execMres h
  · exact wf_execMsca h
  · exact wf_execMrnm h
  · exact wf_execMzero h
  · exact wf_execManch h
  · exact wf_execMcopy h
  · exact wf_execAalloc h
  · exact wf_execAfree h
  · exact wf_execAband h
  · exact wf_execMsync h
  · exact wf_execMstb h
  · exact wf_execGload h
  · exact wf_execGslot h
  · exact wf_execGxwin h
  · exact wf_execGeval h
  · exact wf_execGrow h
  · exact h

theorem wf_execStampedIssue {core slot} (h : WfMem s) : OutWf (execStampedIssue core slot s) := by
  unfold execStampedIssue
  extract_lets x
  split
  · exact h
  · split
    · refine outWf_ite h ?_
      have hx : WfMem { s with cur := x } := h
      split
      · rename_i s1 e
        have h1 : WfMem s1 := outWf_of_eq e (wf_stampedMeaning hx)
        exact h1
      · exact wf_stampedMeaning hx
    · exact h

/-! ## Save -/

theorem wf_execTaskSaveDone {core slot} (h : WfMem s) : OutWf (execTaskSaveDone core slot s) := by
  unfold execTaskSaveDone
  extract_lets
  split
  · exact h
  · split
    · exact h
    · exact outWf_ite h (wf_ite (wf_each (wf_ite (wf_releaseAt h ..) (wf_releaseAt h ..)) (fun _ _ hs => hs))
        (wf_requeue (wf_each (wf_ite (wf_releaseAt h ..) (wf_releaseAt h ..)) (fun _ _ hs => hs))))

theorem wf_rePin {c l p} (h : WfMem s) : WfMem (s.rePin c l p) := by
  unfold State.rePin
  split
  · exact h
  · extract_lets gone _ s1
    have hs1 : WfMem s1 := by
      unfold s1
      split
      · exact wf_missTile h
      · exact h
    split
    · exact wf_ite (wf_modTask hs1) hs1
    · unfold gone
      refine wf_modTask ?_
      refine wf_foldl hs1 fun s2 _ hs => ?_
      split
      · exact wf_addPin hs
      · exact hs

theorem wf_rePins {c l} (h : WfMem s) : WfMem (s.rePins c l) := by
  unfold State.rePins
  split
  · exact h
  · exact wf_each h (fun _ _ hs => wf_rePin hs)

theorem wf_reFill {c l f} (h : WfMem s) : WfMem (s.reFill c l f) := by
  unfold State.reFill
  split
  · exact h
  · extract_lets put again
    have hput : ∀ s g, WfMem s → WfMem (put s g) := fun _ _ hs => wf_modTask hs
    have hagain : ∀ s code va, WfMem s → WfMem (again s code va) := fun s _ _ hs => wf_postOnly (hput s.fresh _ hs)
    split
    · extract_lets as s1 odd bad
      clear_value odd bad
      have h1 : WfMem s1 := wf_walkIn h
      split
      · exact wf_takeFaultOf (wf_modTask h1)
      · exact hagain _ _ _ h1
      · exact hput _ _ h1
    · extract_lets d s1 s2
      have h1 : WfMem s1 := wf_ite h (wf_walkIn h)
      have h2 : WfMem s2 := hput _ _ h1
      split
      · exact hagain _ _ _ h1
      · split
        · exact wf_ite (wf_vtldLook h2) h2
        · exact h2
    · exact h

theorem wf_release {c l t} (h : WfMem s) : WfMem (s.release c l t) := by
  unfold State.release
  refine wf_each h fun _ s1 hs => ?_
  split
  · exact wf_reFill hs
  · split <;> exact hs
  · extract_lets
    split
    · exact wf_ite (wf_reEnter hs) hs
    · exact hs

theorem wf_execTaskRestoreDone {core slot} (h : WfMem s) : OutWf (execTaskRestoreDone core slot s) := by
  unfold execTaskRestoreDone
  extract_lets
  split
  · exact wf_rePins h
  · split
    · exact h
    · split
      · exact h
      · extract_lets _ _ _ _ _ _ _ _ _ s1 s2 _ s3 s4 s5
        have h2 : WfMem s2 := wf_each (s := s1) h fun _ _ hs => hs
        have h3 : WfMem s3 := h2
        have h4 : WfMem s4 := wf_acquireAt h3 ..
        have h5 : WfMem s5 := by
          refine wf_ite (wf_each h4 fun x _ hs => ?_) h4
          split
          · exact wf_reFill hs
          · exact hs
        exact outWf_ite h (wf_rePins h5)

theorem wf_writeRange {die pav va bs s'} (h : WfMem s) (e : s.writeRange die pav va bs = .inl s') : WfMem s' := by
  unfold State.writeRange at e
  split at e
  · cases e
  · cases e
    exact wf_foldl h fun _ _ hs => wf_writeVaLts hs

theorem wf_execSnaprd {d a b} (h : WfMem s) : OutWf (execSnaprd d a b s) := by
  refine wf_sysop h fun t x y => ?_
  split
  · exact h
  · split
    · rename_i e
      exact wf_writeRange h e
    · exact h

theorem wf_putArea {c l old x} (h : WfMem s) : WfMem (s.putArea c l old x) := by
  unfold State.putArea
  extract_lets _ _ _ _ s1
  have hs1 : WfMem s1 := by
    unfold s1
    refine wf_foldl h fun s2 _ hs => ?_
    split <;> exact hs
  exact hs1

theorem wf_execSnapwr {d a b} (h : WfMem s) : OutWf (execSnapwr d a b s) := by
  unfold execSnapwr
  refine wf_sysop h (fun _ _ _ => ?_)
  split
  · exact h
  · extract_lets
    split
    · exact h
    · refine wf_ite_fst h ?_
      split
      · exact h
      · split
        · exact wf_putArea h
        · exact h
        · exact h

theorem wf_execRqrel {d a b} (h : WfMem s) : OutWf (execRqrel d a b s) := by
  unfold execRqrel
  refine wf_sysop h (fun _ _ _ => ?_)
  split
  · exact wf_release h
  · extract_lets
    refine wf_each h fun _ s1 hs => ?_
    split <;> exact hs
  · exact h

/-! ## Keys -/

theorem wf_flushCaches {f} (h : WfMem s) : WfMem (s.flushCaches f) := by
  unfold State.flushCaches
  refine wf_settle (wf_each (wf_each h fun c s hs => ?_) fun d s hs => ?_) _
  · exact wf_modCore (wf_each hs fun _ _ hs => wf_toDlc hs ..) ..
  · have hd : WfMem (each ((s.die d.1).dlc.filter (fun l => f l && l.dirty ≠ 0)) (fun l s => s.toMem d.1 l) s) :=
      wf_each hs fun _ _ hs => hs
    exact hd

theorem wf_flushTiles {f} (h : WfMem s) : WfMem (s.flushTiles f) :=
  wf_each h (fun _ _ hs => wf_each hs (fun _ _ hs1 => wf_evict hs1))

theorem wf_endTiles {f} (h : WfMem s) : WfMem (s.endTiles f) := wf_each h (fun _ _ hs => wf_cancelFill hs)

theorem wf_poolKey {key} (h : WfMem s) : WfMem (s.poolKey key) := wf_ite h h

theorem wf_retireKey {key} (h : WfMem s) : WfMem (s.retireKey key) := wf_poolKey h

theorem wf_execKeyret {d a b} (h : WfMem s) : OutWf (execKeyret d a b s) := by
  unfold execKeyret
  refine wf_onTask (fun _ => ?_)
  extract_lets
  refine wf_ite (wf_flushTiles (wf_flushCaches h)) ?_
  split
  · rename_i e
    exact outWf_of_eq e (wf_sysop h (fun _ _ _ => wf_retireKey (wf_endTiles (wf_flushCaches h))))
  · exact h

theorem wf_execFloorBroadcast (h : WfMem s) : OutWf (execFloorBroadcast s) := wf_ite (wf_broadcast h ..) h

/-! ## Sched -/

theorem wf_newAcct {pav region budget s' a} (h : WfMem s) (e : s.newAcct pav region budget = some (s', a)) : WfMem s' := by
  unfold State.newAcct at e
  split at e
  · cases e
  · split at e
    · cases e
    · cases e
      exact wf_modPav h

theorem wf_answerSub {x v} (h : WfMem s) : WfMem (s.answerSub x v) := by
  unfold State.answerSub
  split
  · exact wf_modTask h
  · exact wf_modTask h
  · exact h

theorem wf_refuseSub {x off} (h : WfMem s) : WfMem (s.refuseSub x off) := by
  unfold State.refuseSub
  split
  · exact wf_freeImage (wf_freeAcct (wf_postRecord h))
  · exact wf_freeImage (wf_answerSub h)

theorem wf_queueCr {pav cr die floor ts s'} (h : WfMem s) (e : s.queueCr pav cr die floor ts = some s') : WfMem s' := by
  unfold State.queueCr at e
  extract_lets at e
  split at e
  · cases e
    exact h
  · cases e

theorem wf_execCrEnqueue {id} (h : WfMem s) : OutWf (execCrEnqueue id s) := by
  unfold execCrEnqueue
  split
  · exact h
  · extract_lets gone _ _ _ _ _ _ taken
    have htaken : ∀ s' a, taken = some (s', a) → WfMem s' := by
      intro s' a e
      unfold taken at e
      split at e
      · cases e
        exact h
      · exact wf_newAcct h e
    clear_value taken
    split
    · exact wf_refuseSub h
    · split
      · exact wf_refuseSub h
      · rename_i s1 _
        have h1 : WfMem s1 := htaken _ _ rfl
        extract_lets
        split
        · exact h1
        · rename_i s2 e
          have h2 : WfMem s2 := wf_queueCr h1 e
          apply wf_answerSub
          split
          · exact wf_modPav h2
          · exact h2

theorem wf_placeUnit {d level q ps} (h : WfMem s) : WfMem (s.placeUnit d level q ps) := wf_each (wf_ite h h) (fun _ _ hs => hs)

theorem wf_tryLevels {d p} (h : WfMem s) : WfMem (tryLevels d p s).1 := by
  induction p with
  | zero => exact h
  | succ p ih =>
    unfold tryLevels
    extract_lets
    refine wf_ite_fst ih ?_
    split
    · exact ih
    · exact wf_placeUnit h

theorem wf_preempt {d} (h : WfMem s) : WfMem (s.preempt d) := by
  unfold State.preempt
  split
  · exact h
  · extract_lets
    refine wf_ite h ?_
    split
    · exact h
    · exact wf_each h (fun _ _ hs => wf_beginSave hs)

theorem wf_execDispatchDecision {die} (h : WfMem s) : OutWf (execDispatchDecision die s) := by
  unfold execDispatchDecision
  extract_lets d r
  have hr : WfMem r.1 := wf_tryLevels h
  split
  · extract_lets free ps
    clear_value ps
    have hfree : WfMem free := h
    refine outWf_ite h ?_
    cases ps with
    | none => exact hfree
    | some ps => exact wf_placeUnit hfree
  · exact wf_ite hr (wf_preempt hr)

theorem wf_execCrPriorityRise {die n} (h : WfMem s) : OutWf (execCrPriorityRise die n s) := by
  unfold execCrPriorityRise
  extract_lets
  split
  · exact h
  · exact outWf_ite h h

theorem wf_execCrMigrate {die} (h : WfMem s) : OutWf (execCrMigrate die s) := by
  unfold execCrMigrate
  extract_lets
  split
  · exact h
  · split
    · exact h
    · extract_lets
      refine outWf_ite h ?_
      split <;> exact h

theorem wf_execImemFillDone {core slot} (h : WfMem s) : OutWf (execImemFillDone core slot s) := by
  unfold execImemFillDone
  split <;> exact h

theorem wf_execTaskStart {core slot} (h : WfMem s) : OutWf (execTaskStart core slot s) := by
  unfold execTaskStart
  extract_lets
  split
  · exact h
  · extract_lets
    refine outWf_ite h ?_
    split
    · extract_lets _ _ _ _ _ s3 s4
      have hs3 : WfMem s3 := wf_modPav (wf_modLaunch h)
      have hs4 : WfMem s4 := by
        unfold s4
        split <;> exact hs3
      exact wf_ite (wf_acquireAt hs4 ..) (wf_takeFaultOf (wf_acquireAt hs4 ..))
    · exact h

theorem wf_leaveGang {t} (h : WfMem s) : WfMem (s.leaveGang t) := by
  unfold State.leaveGang
  repeat' split
  all_goals exact h

theorem wf_exitJoin {c l t} (h : WfMem s) : WfMem (s.exitJoin c l t).1 := by
  unfold State.exitJoin
  extract_lets va fault fail
  have hfail : ∀ s, WfMem s → WfMem (fail s) := fun _ hs => wf_postRecord hs
  refine wf_ite_fst h ?_
  split
  · refine wf_ite_fst (hfail _ h) (wf_ite_fst h ?_)
    extract_lets _ joined
    have hj : WfMem joined := wf_performJoin h
    split
    · exact wf_ite_fst h (wf_dropReq hj)
    · exact hj
  · exact hfail _ h

theorem wf_execTaskEnd {core slot} (h : WfMem s) : OutWf (execTaskEnd core slot s) := by
  unfold execTaskEnd
  extract_lets
  split
  · exact h
  · extract_lets r
    have hr : WfMem r.1 := wf_exitJoin (wf_releaseAt h ..)
    exact outWf_ite h (wf_ite (wf_leaveGang (wf_endTask hr)) h)

theorem wf_watchdog {c l} (h : WfMem s) : WfMem (s.watchdog c l) := by
  unfold State.watchdog
  split
  · exact h
  · exact wf_ite h (wf_postFault (wf_modTask (wf_beginSave h)))

theorem wf_exhaust {n a} (h : WfMem s) : WfMem (s.exhaust n a) := wf_postEvent (wf_each h (fun _ _ hs => wf_modTask hs))

theorem wf_toFloor {n} (h : WfMem s) : WfMem (s.toFloor n) :=
  wf_each (wf_each h (fun _ _ hs => wf_modTask hs)) (fun _ _ hs => hs)

theorem wf_execEnergyExhausted {acct} (h : WfMem s) : OutWf (execEnergyExhausted acct s) := by
  unfold execEnergyExhausted
  show WfMem _
  split
  · exact h
  · exact wf_ite (wf_exhaust h) h

theorem wf_execStateLoss {core} (h : WfMem s) : OutWf (execStateLoss core s) := by
  unfold execStateLoss
  extract_lets
  show WfMem _
  refine wf_each h fun _ s2 hs => ?_
  split
  · exact hs
  · exact wf_postFault (wf_gangAbort (wf_endTask (wf_ite (wf_itemRecords (wf_noteTimeout hs)) (wf_noteTimeout hs))))

theorem wf_execCoreStateCleared {core} (h : WfMem s) : OutWf (execCoreStateCleared core s) := by
  unfold execCoreStateCleared
  split
  · exact h
  · exact outWf_ite h h

/-! ## Act -/

theorem wf_respond {pav seq op stat payload} (h : WfMem s) : WfMem (s.respond pav seq op stat payload) := by
  unfold State.respond
  split
  · exact h
  · exact wf_send (wf_modPav h)

theorem wf_refuse {pav seq op off} (h : WfMem s) : WfMem (s.refuse pav seq op off) := wf_respond h

theorem wf_onCommand {pav seq op always} {f : Pav → State} (h : WfMem s) (hf : ∀ a, WfMem (f a)) :
    OutWf (onCommand s pav seq op always f) := by
  unfold onCommand
  split
  · exact h
  · exact outWf_ite (wf_respond h) (hf _)

theorem wf_execNotificationSend {pav q} (h : WfMem s) : OutWf (execNotificationSend pav q s) := by
  unfold execNotificationSend
  split
  · exact h
  · split
    · exact h
    · exact outWf_ite h (wf_send (wf_modPav h))

theorem wf_execNotificationRetransmit {pav seq} (h : WfMem s) : OutWf (execNotificationRetransmit pav seq s) := by
  unfold execNotificationRetransmit
  split
  · exact h
  · split
    · exact h
    · exact outWf_ite h (outWf_ite (wf_send (wf_modPav h)) (wf_modPav h))

theorem wf_execNotifyAck {pav seq} (h : WfMem s) : OutWf (execNotifyAck pav seq s) := by
  unfold execNotifyAck
  split
  · exact h
  · exact outWf_ite (wf_modPav h) (wf_count h)

theorem wf_execNqCreate {pav seq q window rate ip port} (h : WfMem s) :
    OutWf (execNqCreate pav seq q window rate ip port s) := by
  unfold execNqCreate
  refine wf_onCommand h (fun _ => ?_)
  extract_lets
  split
  · exact wf_refuse h
  · exact wf_respond (wf_modPav h)

theorem wf_execNqDestroy {pav seq q} (h : WfMem s) : OutWf (execNqDestroy pav seq q s) :=
  wf_onCommand h (fun _ => wf_respond (wf_modPav h))

theorem wf_execWinHostCreate {pav seq idx qp raddr rkey len ip} (h : WfMem s) :
    OutWf (execWinHostCreate pav seq idx qp raddr rkey len ip s) :=
  wf_onCommand h (fun _ => wf_ite (wf_refuse h) (wf_respond (wf_modPav h)))

theorem wf_execWinHostDestroy {pav seq idx} (h : WfMem s) : OutWf (execWinHostDestroy pav seq idx s) :=
  wf_onCommand h (fun _ => wf_ite (wf_refuse h) (wf_respond (wf_modPav h)))

theorem wf_execWinDeviceCreate {pav seq idx va len rights} (h : WfMem s) :
    OutWf (execWinDeviceCreate pav seq idx va len rights s) := by
  unfold execWinDeviceCreate
  refine wf_onCommand h (fun _ => ?_)
  split
  · exact wf_refuse h
  · exact wf_respond (wf_modPav h)

theorem wf_execWinDeviceDestroy {pav seq idx} (h : WfMem s) : OutWf (execWinDeviceDestroy pav seq idx s) :=
  wf_onCommand h (fun _ => wf_ite (wf_refuse h) (wf_respond (wf_modPav h)))

theorem wf_noteHost {n va len} (h : WfMem s) : WfMem (s.noteHost n va len) := wf_modPav h

theorem wf_rdmaLost {n s'} (h : WfMem s) (e : rdmaLost s n = some s') : WfMem s' := by
  unfold rdmaLost at e
  split at e
  · cases e
    exact h
  · split at e
    · cases e
      exact wf_count h
    · cases e

theorem wf_execHostRdmaWrite {pav win off data} (h : WfMem s) : OutWf (execHostRdmaWrite pav win off data s) := by
  unfold execHostRdmaWrite
  extract_lets
  split
  · rename_i e
    exact wf_rdmaLost h e
  · split
    · exact wf_send (wf_count h)
    · exact wf_send (wf_noteHost (wf_hostWrite (wf_count h)))

theorem wf_execHostRdmaRead {pav win off len} (h : WfMem s) : OutWf (execHostRdmaRead pav win off len s) := by
  unfold execHostRdmaRead
  extract_lets
  split
  · rename_i e
    exact wf_rdmaLost h e
  · split
    · exact wf_send (wf_count h)
    · exact outWf_ite (wf_send (wf_count h)) (wf_send (wf_count h))

theorem wf_execRocev2Retransmit {core n lost} (h : WfMem s) : OutWf (execRocev2Retransmit core n lost s) := by
  unfold execRocev2Retransmit
  extract_lets
  split
  · exact h
  · exact outWf_ite h (outWf_ite h (wf_each (wf_count h) (fun _ _ hs => wf_send hs)))

theorem wf_submitLaunch {pav r mbox} (h : WfMem s) : SubmittedWf (submitLaunch s pav r mbox) := by
  unfold submitLaunch
  extract_lets
  split
  · exact trivial
  · split
    · exact trivial
    · rename_i s1 _ e1
      have h1 : WfMem s1 := wf_newAcct h e1
      split
      · exact trivial
      · rename_i e2
        exact wf_queueCr h1 e2

theorem wf_launchReply {pav seq op x} (h : WfMem s) (hx : SubmittedWf x) : WfMem (s.launchReply pav seq op x) := by
  cases x with
  | bad off => exact wf_respond h
  | full => exact wf_respond h
  | ok s lid => exact wf_respond hx

theorem wf_execActLaunch {pav seq r} (h : WfMem s) : OutWf (execActLaunch pav seq r s) :=
  wf_onCommand h (fun _ => wf_launchReply h (wf_submitLaunch h))

theorem wf_execMbox {pav seq core r} (h : WfMem s) : OutWf (execMbox pav seq core r s) := by
  unfold execMbox
  refine wf_onCommand h fun _ => ?_
  extract_lets c bad e cores s1 emptied
  have hbad : ∀ off, WfMem (bad off) := fun _ => wf_respond h
  have hsub : SubmittedWf (submitLaunch s1 pav.val r (some c)) := wf_submitLaunch h
  refine wf_ite (hbad _) (wf_ite (wf_respond h) (wf_ite (hbad _) (wf_ite (hbad _) ?_)))
  split
  · rename_i s2 _ e2
    have h2 : WfMem s2 := submittedWf_of_eq e2 hsub
    exact wf_launchReply h h2
  · exact wf_launchReply h hsub

theorem wf_execStatusLaunch {pav seq id} (h : WfMem s) : OutWf (execStatusLaunch pav seq id s) := by
  unfold execStatusLaunch
  refine wf_onCommand h (fun _ => ?_)
  split
  · exact wf_respond h
  · exact wf_ite (wf_respond h) (wf_refuse h)

theorem wf_execStatusPavilion {pav seq id} (h : WfMem s) : OutWf (execStatusPavilion pav seq id s) :=
  wf_onCommand h (fun _ => wf_respond h)

theorem wf_execStatusCounters {pav seq id} (h : WfMem s) : OutWf (execStatusCounters pav seq id s) :=
  wf_onCommand h (fun _ => wf_ite (wf_refuse h) (wf_respond h))

theorem wf_execAttest {pav seq nonce} (h : WfMem s) : OutWf (execAttest pav seq nonce s) :=
  wf_onCommand h (fun _ => wf_ite (wf_respond h) (wf_respond h))

/-! ## Images -/

theorem wf_execImgReg {pav seq va len base} (h : WfMem s) : OutWf (execImgReg pav seq va len base s) := by
  unfold execImgReg
  refine wf_onCommand h (fun _ => ?_)
  split
  · exact wf_respond h
  · exact wf_respond h
  · split
    · exact wf_respond h
    · exact wf_respond (wf_each h (fun _ _ hs => wf_noteHost (wf_hostWrite hs)))

theorem wf_execImgDrop {pav seq handle} (h : WfMem s) : OutWf (execImgDrop pav seq handle s) := by
  unfold execImgDrop
  refine wf_onCommand h (fun _ => ?_)
  split
  · exact wf_refuse h
  · exact wf_ite (wf_refuse h) (wf_ite (wf_respond h) (wf_respond (wf_freeImage h)))

/-! ## Manage -/

theorem wf_onTenant {seq op pav} {f : Pav → State} (h : WfMem s) (hf : ∀ a, WfMem (f a)) :
    OutWf (onTenant s seq op pav f) := by
  unfold onTenant
  refine wf_onCommand h (fun _ => ?_)
  split
  · exact wf_refuse h
  · exact wf_ite (wf_refuse h) (hf _)

theorem wf_execPavCreate {pav seq net rtab rtlen shost sdram sinj troot ranges keys} (h : WfMem s) :
    OutWf (execPavCreate pav seq net rtab rtlen shost sdram sinj troot ranges keys s) := by
  unfold execPavCreate
  refine outWf_ite (wf_violation h) ?_
  refine wf_onCommand h (fun _ => ?_)
  extract_lets
  split
  · exact wf_refuse h
  · exact wf_respond h
  · exact wf_respond h

theorem wf_execPavDestroy {seq pav} (h : WfMem s) : OutWf (execPavDestroy seq pav s) :=
  wf_onTenant h (fun _ => wf_ite (wf_refuse h) (wf_respond (wf_poolKey (wf_each h (fun _ _ hs1 => hs1)))))

theorem wf_execPavnet {seq net} (h : WfMem s) : OutWf (execPavnet seq net s) := by
  unfold execPavnet
  refine wf_onCommand h (fun _ => ?_)
  extract_lets
  refine wf_ite (wf_violation h) ?_
  split
  · exact wf_refuse h
  · exact wf_modPav (wf_respond h)

theorem wf_hurryWb {id} (h : WfMem s) : WfMem (s.hurryWb id) := by
  unfold State.hurryWb
  extract_lets _ s1 s2
  have h1 : WfMem s1 := wf_orElse (wf_execTileWritebackBegin (s := ((s.bringNow id).undram id)) h) h
  have h2 : WfMem s2 := wf_orElse (wf_execTileWritebackBegin h1) h1
  exact wf_orElse (wf_execTilePublish h2) h2

theorem wf_writeOut {die way l} (h : WfMem s) : WfMem (s.writeOut die way l) := by
  unfold State.writeOut
  extract_lets _ s1
  have hs1 : WfMem s1 := by
    unfold s1
    refine wf_ite h ?_
    split
    · rename_i e
      exact tileWf_of_eq e (wf_storeTile (wf_settle h ..))
    · exact wf_deviceEvent h
  exact wf_removeLine hs1

theorem wf_execPavmem {seq pav mflags troot ranges} (h : WfMem s) : OutWf (execPavmem seq pav mflags troot ranges s) := by
  unfold execPavmem
  refine wf_onTenant h (fun _ => ?_)
  extract_lets _ _ _ _ _ _ _ _ _ _ _ s2 s3
  have hs2 : WfMem s2 := wf_each (wf_flushCaches h) (fun _ _ hs => wf_hurryWb hs)
  have hs3 : WfMem s3 := wf_each hs2 (fun _ _ hs => wf_each hs (fun _ _ hs1 => wf_writeOut hs1))
  refine wf_ite (wf_violation h) ?_
  split
  · exact wf_refuse h
  · exact wf_respond (wf_endTiles (wf_modPav hs3))

theorem wf_execShares {seq pav shost sdram sinj} (h : WfMem s) : OutWf (execShares seq pav shost sdram sinj s) := by
  unfold execShares
  refine wf_onTenant h (fun _ => ?_)
  split
  · exact wf_refuse h
  · exact wf_respond (wf_modPav h)

theorem wf_execGrantkey {seq pav} (h : WfMem s) : OutWf (execGrantkey seq pav s) :=
  wf_onTenant h (fun _ => wf_respond (wf_modPav h))

theorem wf_execFreeze {seq pav} (h : WfMem s) : OutWf (execFreeze seq pav s) :=
  wf_onTenant h (fun _ => wf_ite (wf_respond h) (wf_beginFreeze (wf_modPav h)))

theorem wf_execReset {seq pav} (h : WfMem s) : OutWf (execReset seq pav s) :=
  wf_onTenant h (fun _ => wf_modPav (wf_beginFreeze (wf_modPav h)))

theorem wf_stopSavedSlots {pav} (h : WfMem s) : WfMem (s.stopSavedSlots pav) := wf_each h (fun _ _ hs => wf_ite hs hs)

theorem wf_emptyFaultQueues {pav p} (h : WfMem s) : WfMem (s.emptyFaultQueues pav p) := by
  unfold State.emptyFaultQueues
  refine wf_each h fun _ s1 hs => ?_
  split
  · exact wf_writeVaLts hs
  · exact hs

theorem wf_emptyGrants {pav} (h : WfMem s) : WfMem (s.emptyGrants pav) := wf_ite (wf_hostWrite h) h

theorem wf_discardPav {pav} (h : WfMem s) : WfMem (s.discardPav pav) :=
  wf_each (wf_each h (fun _ _ hs => wf_freeAcct hs)) (fun _ _ hs => wf_freeImage hs)

theorem wf_resetPav {pav p} (h : WfMem s) : WfMem (s.resetPav pav p) :=
  wf_poolKey (wf_modPav (wf_retireKey (wf_endTiles (wf_flushCaches (wf_discardPav
    (wf_emptyGrants (wf_emptyFaultQueues h)))))))

theorem wf_freezeReply {pav op n} (h : WfMem s) : WfMem (s.freezeReply pav op n) := by
  unfold State.freezeReply
  split
  · exact h
  · exact wf_respond (wf_modPav h)

theorem wf_completeFreeze {pav} (h : WfMem s) : WfMem (s.completeFreeze pav) := by
  unfold State.completeFreeze
  split
  · exact h
  · split
    · exact h
    · extract_lets _ _ s2
      have hs2 : WfMem s2 := wf_modPav (wf_stopSavedSlots h)
      exact wf_ite (wf_freezeReply (wf_modPav hs2)) (wf_ite (wf_flushTiles (wf_flushCaches hs2))
          (wf_freezeReply (wf_resetPav hs2)))

theorem wf_unfreezeSaved {pav id} (h : WfMem s) : WfMem (s.unfreezeSaved pav id) := by
  unfold State.unfreezeSaved
  split
  · exact h
  · exact wf_ite (wf_ite h (wf_requeue h)) (wf_each h (fun _ _ hs => wf_postRecord hs))

theorem wf_execUnfreeze {seq pav} (h : WfMem s) : OutWf (execUnfreeze seq pav s) :=
  wf_onTenant h (fun _ => wf_ite (wf_respond h) (wf_respond (wf_each (wf_modPav h) (fun _ _ hs1 => wf_unfreezeSaved hs1))))

theorem wf_execCounters {seq pav clr} (h : WfMem s) : OutWf (execCounters seq pav clr s) := by
  unfold execCounters
  refine wf_onCommand h (fun _ => ?_)
  extract_lets
  split
  · exact wf_refuse h
  · exact wf_respond (wf_ite h (wf_ite (wf_each (wf_modPav h) (fun _ _ hs => wf_writeVaLts hs))
      (wf_each (wf_modPav h) (fun _ _ hs => wf_writeVaLts hs))))

theorem wf_execMemstatErrorRing {seq sel clr} (h : WfMem s) : OutWf (execMemstatErrorRing seq sel clr s) :=
  wf_onCommand h (fun _ => wf_ite (wf_refuse h) (wf_respond (wf_ite h h)))

theorem wf_execMemstatDeadlines {seq sel clr} (h : WfMem s) : OutWf (execMemstatDeadlines seq sel clr s) :=
  wf_onCommand h (fun _ => wf_ite (wf_refuse h) (wf_respond (wf_ite h h)))

theorem wf_execMemstatHotList {seq sel clr start} (h : WfMem s) : OutWf (execMemstatHotList seq sel clr start s) :=
  wf_onCommand h (fun _ => wf_ite (wf_refuse h) (wf_respond h))

theorem wf_execErrring {seq stack va} (h : WfMem s) : OutWf (execErrring seq stack va s) :=
  wf_onCommand h (fun _ => wf_ite (wf_refuse h) (wf_ite (wf_refuse h) (wf_respond h)))

theorem wf_execNodecfg {seq node etype ents} (h : WfMem s) : OutWf (execNodecfg seq node etype ents s) := by
  unfold execNodecfg
  refine wf_onCommand h (fun _ => ?_)
  extract_lets
  split
  · exact wf_refuse h
  · exact wf_respond h

theorem wf_execMgmtcfg {seq net} (h : WfMem s) : OutWf (execMgmtcfg seq net s) := by
  unfold execMgmtcfg
  refine wf_onCommand h (fun _ => ?_)
  refine wf_ite (wf_violation h) ?_
  split
  · exact wf_refuse h
  · exact wf_respond h

theorem wf_cold : WfMem s.cold := rfl

theorem wf_fromFlash {c} (h : WfMem s) : WfMem (State.fromFlash c s) := by
  unfold State.fromFlash
  split <;> exact h

theorem wf_execDeviceReset {fwOk dramOk portsUp} : OutWf (execDeviceReset fwOk dramOk portsUp s) :=
  have hcold : WfMem s.cold := wf_cold
  outWf_ite hcold (outWf_ite hcold (wf_each hcold fun _ _ hs => wf_fromFlash hs))

theorem wf_execPowerLoss : OutWf (execPowerLoss s) := wf_cold (s := s)

/-! ## Host -/

theorem wf_execNeighbourEchoReply {f} (h : WfMem s) : OutWf (execNeighbourEchoReply f s) := by
  unfold execNeighbourEchoReply
  split
  · exact h
  · exact wf_ite (wf_send h) h

theorem wf_runCommand {pav seq op b} (h : WfMem s) : OutWf (runCommand pav seq op b s) := by
  unfold runCommand
  extract_lets
  split
  · exact wf_execImgReg h
  · exact wf_execImgDrop h
  · exact wf_execActLaunch h
  · exact wf_execMbox h
  · exact outWf_ite (wf_execStatusLaunch h) (outWf_ite (wf_execStatusPavilion h) (wf_execStatusCounters h))
  · exact outWf_ite (wf_execNqDestroy h) (wf_execNqCreate h)
  · exact outWf_ite (outWf_ite (wf_execWinHostDestroy h) (wf_execWinDeviceDestroy h))
      (outWf_ite (wf_execWinHostCreate h) (wf_execWinDeviceCreate h))
  · exact wf_execAttest h
  · exact wf_execPavCreate h
  · exact wf_execPavDestroy h
  · exact wf_execFreeze h
  · exact wf_execUnfreeze h
  · exact wf_execReset h
  · exact outWf_ite (wf_execMemstatErrorRing h) (outWf_ite (wf_execMemstatDeadlines h) (wf_execMemstatHotList h))
  · exact wf_execShares h
  · exact wf_execCounters h
  · exact wf_execNodecfg h
  · exact wf_execPavmem h
  · exact wf_execPavnet h
  · exact wf_execErrring h
  · exact wf_execMgmtcfg h
  · exact wf_execGrantkey h
  · exact h

theorem wf_runMessage {pav m} (h : WfMem s) : WfMem (s.runMessage pav m) := by
  unfold State.runMessage
  extract_lets
  refine wf_ite (wf_respond (wf_modPav h)) ?_
  refine wf_ite (wf_respond (wf_modPav h)) ?_
  split
  · exact wf_orElse (wf_runCommand (wf_modPav h)) (wf_modPav h)
  · exact wf_refuse (wf_modPav h)
  · exact wf_respond (wf_modPav h)

theorem wf_drain {n pav} (h : WfMem s) : WfMem (State.drain n pav s) := by
  induction n generalizing s with
  | zero => exact h
  | succ n ih =>
    unfold State.drain
    split
    · exact h
    · split
      · exact ih (wf_runMessage (wf_modPav h))
      · exact h

theorem wf_inOrder {pav p m} (h : WfMem s) : WfMem (s.inOrder pav p m) := by
  unfold State.inOrder
  extract_lets
  refine wf_ite (wf_drain (wf_modPav h)) ?_
  split
  · exact wf_send h
  · exact h

theorem wf_execActMessageReceive {pav msg} (h : WfMem s) : OutWf (execActMessageReceive pav msg s) := by
  unfold execActMessageReceive
  extract_lets
  refine outWf_ite h ?_
  split
  · exact h
  · exact outWf_ite (wf_count h) (outWf_ite (wf_violation h) (outWf_ite (wf_execNotifyAck h)
      (outWf_ite (wf_violation h) (outWf_ite (wf_count h) (outWf_ite h (wf_inOrder h))))))

theorem wf_execFreezeComplete {pav} (h : WfMem s) : OutWf (execFreezeComplete pav s) := wf_drain (wf_completeFreeze h)

theorem wf_execHostFrameReceive {f} (h : WfMem s) : OutWf (execHostFrameReceive f s) := by
  unfold execHostFrameReceive
  refine outWf_ite h ?_
  extract_lets
  split
  · exact wf_count h
  · refine outWf_ite h ?_
    extract_lets
    refine outWf_ite (wf_count (wf_count h)) ?_
    split
    · exact outWf_ite (wf_execActMessageReceive (wf_count h)) (wf_count (wf_count h))
    · exact wf_execNeighbourEchoReply (wf_count h)
    · exact wf_execNeighbourEchoReply (wf_count h)
    · exact wf_count (wf_count h)
    · exact wf_count h
    · split
      · exact wf_count h
      · exact wf_ite (wf_count h) (wf_count h)
    · exact wf_count (wf_count h)

/-! ## Scalar -/

theorem wf_aluOp {f64 f32 o} (h : WfMem s) : OutWf (aluOp f64 f32 o s) := wf_scalarOp h

theorem wf_mulOp {f64 f32 o} (h : WfMem s) : OutWf (mulOp f64 f32 o s) := wf_slowOp h (fun _ hs => hs)

theorem wf_divOp {f64 f32 o} (h : WfMem s) : OutWf (divOp f64 f32 o s) := wf_slowOp h (fun _ hs => hs)

theorem wf_aluOp1 {f64 f32 o} (h : WfMem s) : OutWf (aluOp1 f64 f32 o s) := wf_scalarOp h

theorem wf_immOp {f o} (h : WfMem s) : OutWf (immOp f o s) := wf_scalarOp h

theorem wf_shiftOp {f o} (h : WfMem s) : OutWf (shiftOp f o s) := wf_scalarOp h

theorem wf_compactOp {f d a} (h : WfMem s) : OutWf (compactOp f d a s) := wf_scalarOp h

theorem wf_branchIf {srcs c off} (h : WfMem s) : OutWf (branchIf srcs c off s) :=
  wf_onTask (fun _ => wf_ite h (wf_ite (wf_branchTo h) (wf_finish h)))

theorem wf_cmpBranch {c o} (h : WfMem s) : OutWf (cmpBranch c o s) := wf_branchIf h

theorem wf_jumpTo {t v} (h : WfMem s) : WfMem (jumpTo t v s) := wf_ite (wf_takeFault h) (wf_branchTo h)

theorem wf_execNopC (h : WfMem s) : OutWf (execNopC s) := wf_onTask (fun _ => wf_finish h)

theorem wf_execBfi {o} (h : WfMem s) : OutWf (execBfi o s) := by
  unfold execBfi
  split
  · exact wf_scalarOp h
  · exact wf_onTask (fun _ => wf_takeFault h)

theorem wf_execCall {off} (h : WfMem s) : OutWf (execCall off s) := by
  unfold execCall
  refine wf_onTask (fun _ => ?_)
  extract_lets
  refine wf_ite h ?_
  split
  · exact wf_takeFault h
  · exact wf_branchTo (wf_modCur h)

theorem wf_execRet (h : WfMem s) : OutWf (execRet s) := wf_onTask (fun _ => wf_ite (wf_jumpTo h) h)

theorem wf_execJr {a} (h : WfMem s) : OutWf (execJr a s) := wf_onTask (fun _ => wf_ite (wf_jumpTo h) h)

/-! ## Fetch -/

theorem wf_postLosses (h : WfMem s) : WfMem s.postLosses := wf_each h (fun _ _ hs => wf_deviceEvent hs)

theorem wf_endCycle (h : WfMem s) : WfMem s.endCycle :=
  wf_each (wf_each h (fun _ _ hs => wf_watchdog hs)) (fun _ _ hs => wf_modTask hs)

theorem wf_passWithin {n} (h : WfMem s) : WfMem (s.passWithin n) :=
  wf_each (wf_each h (fun _ _ hs => wf_charge hs)) (fun _ _ hs => wf_charge (wf_modTask hs))

theorem wf_exhaustAll (h : WfMem s) : WfMem s.exhaustAll := by
  unfold State.exhaustAll
  refine wf_each h fun _ s1 hs => ?_
  extract_lets s2
  have hs2 : WfMem s2 := by
    unfold s2
    split
    · exact wf_ite (wf_exhaust hs) hs
    · exact hs
  exact wf_ite (wf_toFloor hs2) hs2

theorem wf_arrive (h : WfMem s) : WfMem s.arrive :=
  wf_landAll (wf_each (wf_portTimers (wf_pressure (wf_endTick (wf_exhaustAll h)))) (fun _ _ hs => wf_modTask hs))

theorem wf_passFor {k n} (h : WfMem s) : WfMem (State.passFor k n s) := by
  induction k generalizing s n with
  | zero => exact h
  | succ k ih =>
    cases n with
    | zero => exact h
    | succ n => exact ih (wf_arrive (wf_passWithin (wf_endCycle h)))

theorem wf_pass {n} (h : WfMem s) : WfMem (s.pass n) := wf_passFor (wf_postLosses h)

theorem wf_timed {n o} (h : OutWf o) : OutWf (timed n o) := by
  cases o with
  | next s => exact wf_pass h
  | fault r => trivial
  | refused r => trivial

theorem wf_takeEngine {x} (h : WfMem s) : WfMem (takeEngine s x) := by
  unfold takeEngine
  split <;> exact h

theorem wf_streamTurn {x} (h : WfMem s) : TodoWf (streamTurn s x) := by
  unfold streamTurn
  extract_lets
  refine todoWf_ite ?_ h
  split
  · exact todoWf_ite (wf_takeFault (wf_takeEngine h)) (todoWf_ite (wf_takeEngine h) (wf_takeEngine h))
  · exact wf_ite (wf_takeEngine h) (wf_takeFault (wf_takeEngine h))

theorem wf_corrected {cs} (h : WfMem s) : WfMem (s.corrected cs) := wf_each h (fun _ _ hs => hs)

end Sys2Proof.Canonical
end

section
namespace Sys2Proof.Canonical
open Sys2Proof Sys2Proof.Machine Sys2Proof.Laws
variable {s : State}

/-! ## The step -/

theorem wf_nextTurn (h : WfMem s) : TodoWf (nextTurn s).1 := by
  unfold nextTurn
  split
  · exact wf_streamTurn h
  · rename_i t rest _
    have h1 : WfMem (({ s with agenda := rest } : State).corrected t.ecc) := wf_corrected h
    extract_lets s1
    split
    · exact wf_streamTurn h1
    · extract_lets
      split
      · exact h1
      · exact h1

/-- Every instruction, action and event. -/
theorem wf_exec (i : Instr) (h : WfMem s) : OutWf (exec i s) := by
  unfold exec
  cases i with
  | blockHeaderEntry => exact wf_execBlockHeaderEntry h
  | blockComplete => exact wf_execBlockComplete h
  | tokenPushDeferred => exact wf_execTokenPushDeferred h
  | addC | subC | andC | orC => exact wf_compactOp h
  | addiC | movC | lui | li | bfx | bfxs => exact wf_scalarOp h
  | nopC => exact wf_execNopC h
  | add | sub | and | or | xor | andn | shl | shr | sar | min | max | minu | maxu | slt | sltu | seq => exact wf_aluOp h
  | mul | mulh | mulhu => exact wf_mulOp h
  | div | divu | rem | remu => exact wf_divOp h
  | clz | ctz | popc => exact wf_aluOp1 h
  | addi | andi | ori | xori | slti | sltiu => exact wf_immOp h
  | shli | shri | sari => exact wf_shiftOp h
  | bfi => exact wf_execBfi h
  | beq | bne | blt | bge | bltu | bgeu => exact wf_cmpBranch h
  | call => exact wf_execCall h
  | ret => exact wf_execRet h
  | jr => exact wf_execJr h
  | ld | ldacq => exact wf_execLoad h
  | st | strel => exact wf_execStore h
  | amoadd | amoand | amoor | amoxor | amomin | amomax | amominu | amomaxu | amoswap => exact wf_execAmo h
  | cas => exact wf_execCas h
  | rld => exact wf_execRld h
  | rst => exact wf_execRst h
  | ramo => exact wf_execRamo h
  | fence => exact wf_execFence h
  | ifence => exact wf_execIfence h
  | tfence => exact wf_execTfence h
  | fork | launch => exact wf_submitRecord h
  | join => exact wf_execJoin h
  | spawn => exact wf_execSpawn h
  | exit => exact wf_execExit h
  | yield => exact wf_execYield h
  | tdld => exact wf_execTdld h
  | tdver => exact wf_execTdver h
  | swinit => exact wf_execSwinit h
  | barr => exact wf_execBarr h
  | hnotify => exact wf_execHnotify h
  | trap => exact wf_execTrap h
  | resume => exact wf_execResume h
  | kill => exact wf_execKill h
  | rqrel => exact wf_execRqrel h
  | tlbinv => exact wf_execTlbinv h
  | snaprd => exact wf_execSnaprd h
  | snapwr => exact wf_execSnapwr h
  | keyret => exact wf_execKeyret h
  | grant => exact wf_execGrant h
  | nop => exact wf_execNop h
  | br => exact wf_execBr h
  | bzS => exact wf_execBzS h
  | bzA => exact wf_execBzA h
  | bnzS => exact wf_execBnzS h
  | bnzA => exact wf_execBnzA h
  | loopImm => exact wf_execLoopImm h
  | loopRegS => exact wf_execLoopRegS h
  | loopRegA => exact wf_execLoopRegA h
  | waitGenS => exact wf_execWaitGenS h
  | waitGenA => exact wf_execWaitGenA h
  | waitTok => exact wf_execWaitTok h
  | tksend => exact wf_execTksend h
  | halt => exact wf_execHalt h
  | beacon => exact wf_execBeacon h
  | mfsrS => exact wf_execMfsrS h
  | mfsrA => exact wf_execMfsrA h
  | mtsrS => exact wf_execMtsrS h
  | mtsrA => exact wf_execMtsrA h
  | awr => exact wf_execAwr h
  | amov | aadd | acset | acinc => exact wf_aregOp h
  | vadd | vsub | vmul | vmin | vmax | vcpsgn | viadd | visub | vimul | vimin | vimax | vqadd | vqsub | vimulh | vand
  | vor | vxor | vandn | vshl | vshr | vsar => exact wf_vec3 h
  | vabs | vneg | vrcp | vsqrt | vrsqrt | vexp2 | vlog2 => exact wf_vec3u h
  | vfma | vfms | vfnma => exact wf_vecFma h
  | vcmp => exact wf_execVcmp h
  | vsel => exact wf_execVsel h
  | kand | kor | kxor | knot | kmov => exact wf_kop h
  | vcvt => exact wf_execVcvt h
  | vmov | vrotr | vrotc | vbcr | vbcc | vredr | vredc | vtr16 => exact wf_vec2 h
  | vmovi => exact wf_execVmovi h
  | vext => exact wf_execVext h
  | vperm => exact wf_execVperm h
  | vld | vgath => exact wf_vecLoad h
  | vst | vscat => exact wf_vecStore h
  | vtld => exact wf_execVtld h
  | vtst => exact wf_execVtst h
  | vacvt => exact wf_execVacvt h
  | vafil => exact wf_execVafil h
  | vfeEmpty | vfeFull | vfeC => exact wf_vfe h
  | mma => exact wf_execMma h
  | mmaC => exact wf_execMmaC h
  | mmag => exact wf_execMmag h
  | mmk => exact wf_execMmk h
  | mres => exact wf_execMres h
  | msca => exact wf_execMsca h
  | mrnm => exact wf_execMrnm h
  | mzero => exact wf_execMzero h
  | manch => exact wf_execManch h
  | mcopy => exact wf_execMcopy h
  | aalloc => exact wf_execAalloc h
  | afree => exact wf_execAfree h
  | aband => exact wf_execAband h
  | msync => exact wf_execMsync h
  | mstb => exact wf_execMstb h
  | mstamp => exact wf_execMstamp h
  | gload => exact wf_execGload h
  | gslot => exact wf_execGslot h
  | gxwin => exact wf_execGxwin h
  | geval => exact wf_execGeval h
  | grow => exact wf_execGrow h
  | cpy | cpy2 | cpyf | cpyxExp | cpyxPack | cpyrGet | cpyrPut | cpyhRd | cpyhWr | swadd => exact wf_copyInsn h
  | cpyt => exact wf_execCpyt h
  | cpyw => exact wf_tileInsn h
  | tcpin | tcunp | tcinv | tcfls => exact wf_maintain h
  | tcitn => exact wf_execTcitn h
  | tcqry => exact wf_execTcqry h
  | scalarResultArrival => exact wf_execScalarResultArrival h
  | translationWalkEnd => exact wf_execTranslationWalkEnd h
  | vectorFillLand => exact wf_execVectorFillLand h
  | feTimeout => exact wf_execFeTimeout h
  | bankLanding => exact wf_landChange h
  | bankReadyToken => exact wf_execBankReadyToken h
  | bankRelease => exact wf_execBankRelease h
  | stampedIssue => exact wf_execStampedIssue h
  | replayReentry => exact wf_execReplayReentry h
  | tarnFillArrival => exact wf_landFill h
  | reassemblyFlit => exact wf_execReassemblyFlit h
  | itineraryPrefetch => exact wf_execItineraryPrefetch h
  | tileDirRequest => exact wf_execTileDirRequest h
  | tileVersionQuery => exact wf_execTileVersionQuery h
  | tileWritebackBegin => exact wf_execTileWritebackBegin h
  | tilePublish => exact wf_execTilePublish h
  | tileDropReport => exact wf_execTileDropReport h
  | holderForward => exact wf_execHolderForward h
  | directoryRecallDone => exact wf_execDirectoryRecallDone h
  | copySlotEnd => exact wf_execCopySlotEnd h
  | copySlotFail => exact wf_execCopySlotFail h
  | copySlotPause => exact wf_execCopySlotPause h
  | syncWordAdd => exact wf_execSyncWordAdd h
  | generationReport => exact wf_execGenerationReport h
  | joinAtHome => exact wf_execJoinAtHome h
  | homeLoad => exact wf_execHomeLoad h
  | homeStore => exact wf_execHomeStore h
  | homeAtomic => exact wf_execHomeAtomic h
  | storeAck => exact wf_execStoreAck h
  | ltimeTick => exact wf_endTick h
  | floorBroadcast => exact wf_execFloorBroadcast h
  | crEnqueue => exact wf_execCrEnqueue h
  | dispatchDecision => exact wf_execDispatchDecision h
  | crPriorityRise => exact wf_execCrPriorityRise h
  | crMigrate => exact wf_execCrMigrate h
  | gangReserve | thermalWithhold | noticeReceive | shulosAckSend | shulosRetransmit | linkDownTimer | linkTrained
  | linkLoss => exact h
  | imemFillDone => exact wf_execImemFillDone h
  | taskStart => exact wf_execTaskStart h
  | taskEnd => exact wf_execTaskEnd h
  | taskSaveDone => exact wf_execTaskSaveDone h
  | taskRestoreDone => exact wf_execTaskRestoreDone h
  | watchdogFire => exact wf_watchdog h
  | energyExhausted => exact wf_execEnergyExhausted h
  | stateLoss => exact wf_execStateLoss h
  | freezeComplete => exact wf_execFreezeComplete h
  | dramRequestServe => exact wf_execDramRequestServe h
  | patrolRead => exact wf_execPatrolRead h
  | hotListScrub => exact wf_execHotListScrub h
  | rowRemapDone => exact wf_execRowRemapDone h
  | scoreHalving => exact wf_execScoreHalving h
  | pressureWindow => exact wf_pressure h
  | oldFlit => exact wf_countOld h
  | shulosFrameReceive => exact wf_execShulosFrameReceive h
  | linkViewReceive => exact wf_execLinkViewReceive h
  | peerLost => exact wf_peerLost h
  | remoteIngress => exact wf_execRemoteIngress h
  | remoteResponse => exact wf_execRemoteResponse h
  | deviceReset => exact wf_execDeviceReset
  | hostFrameReceive => exact wf_execHostFrameReceive h
  | neighbourEchoReply => exact wf_execNeighbourEchoReply h
  | actMessageReceive => exact wf_execActMessageReceive h
  | imgReg => exact wf_execImgReg h
  | imgDrop => exact wf_execImgDrop h
  | actLaunch => exact wf_execActLaunch h
  | mbox => exact wf_execMbox h
  | statusLaunch => exact wf_execStatusLaunch h
  | statusPavilion => exact wf_execStatusPavilion h
  | statusCounters => exact wf_execStatusCounters h
  | nqCreate => exact wf_execNqCreate h
  | nqDestroy => exact wf_execNqDestroy h
  | winHostCreate => exact wf_execWinHostCreate h
  | winHostDestroy => exact wf_execWinHostDestroy h
  | winDeviceCreate => exact wf_execWinDeviceCreate h
  | winDeviceDestroy => exact wf_execWinDeviceDestroy h
  | attest => exact wf_execAttest h
  | notifyAck => exact wf_execNotifyAck h
  | notificationSend => exact wf_execNotificationSend h
  | notificationRetransmit => exact wf_execNotificationRetransmit h
  | hostRdmaWrite => exact wf_execHostRdmaWrite h
  | hostRdmaRead => exact wf_execHostRdmaRead h
  | pavCreate => exact wf_execPavCreate h
  | pavDestroy => exact wf_execPavDestroy h
  | freeze => exact wf_execFreeze h
  | unfreeze => exact wf_execUnfreeze h
  | reset => exact wf_execReset h
  | memstatErrorRing => exact wf_execMemstatErrorRing h
  | memstatDeadlines => exact wf_execMemstatDeadlines h
  | memstatHotList => exact wf_execMemstatHotList h
  | shares => exact wf_execShares h
  | counters => exact wf_execCounters h
  | nodecfg => exact wf_execNodecfg h
  | pavmem => exact wf_execPavmem h
  | pavnet => exact wf_execPavnet h
  | errring => exact wf_execErrring h
  | mgmtcfg => exact wf_execMgmtcfg h
  | grantkey => exact wf_execGrantkey h
  | routerPortAssignment => exact wf_execRouterPortAssignment h
  | rocev2Retransmit => exact wf_execRocev2Retransmit h
  | coreStateCleared => exact wf_execCoreStateCleared h
  | powerLoss => exact wf_execPowerLoss

theorem wf_step (h : WfMem s) : OutWf (step s) := by
  have ht : TodoWf (nextTurn s).1 := wf_nextTurn h
  unfold step
  split
  · rename_i i s1 n e
    rw [e] at ht
    exact wf_timed (wf_exec i ht)
  · rename_i s1 n e
    rw [e] at ht
    exact wf_pass ht

/-- Settles O56: every operation of the model keeps the canonical form, by the rules of the primitive writes (chapter Mem). -/
theorem everyStepKeepsMemoryCanonical : Obligations.EveryStepKeepsMemoryCanonical := by
  unfold Obligations.EveryStepKeepsMemoryCanonical
  intro s s' h e
  exact outWf_of_eq e (wf_step h)

end Sys2Proof.Canonical
end

section
/-!
PROOFS. Instruction words as fields (spec/02 R29, R42, R44 to R58): a word as a list of fields with their widths, and what the
decoder's field readers and the encoder's field values make of each other.
-/

namespace Sys2Proof.Words
open Sys2Proof

/-! ## A word as a list of fields, the highest first -/

/-- A field: its width and its value. -/
abbrev Field := Nat × Nat

@[simp] def width : List Field → Nat
  | [] => 0
  | f :: fs => f.1 + width fs

/-- The number that the fields make up. -/
@[simp] def pack : List Field → Nat
  | [] => 0
  | f :: fs => f.2 <<< width fs + pack fs

/-- The fields, where they stand in w, have their values. -/
@[simp] def Holds (w : Nat) : List Field → Prop
  | [] => True
  | f :: fs => fld w (width fs) f.1 = f.2 ∧ Holds w fs

/-- No value is too large for its field. -/
@[simp] def Fits : List Field → Prop
  | [] => True
  | f :: fs => f.2 < 2 ^ f.1 ∧ Fits fs

theorem mod_eq_fld_add (w lo n : Nat) : w % 2 ^ (n + lo) = fld w lo n <<< lo + w % 2 ^ lo := by
  rw [Nat.add_comm n, Nat.pow_add, Nat.mod_mul, Nat.shiftLeft_eq, fld]
  ring

theorem pack_of_holds {w : Nat} : ∀ {fs : List Field}, Holds w fs → pack fs = w % 2 ^ width fs
  | [], _ => by simp [pack, width, Nat.mod_one]
  | f :: fs, ⟨hf, h⟩ => by rw [pack, width, mod_eq_fld_add, pack_of_holds h, hf]

theorem pack_lt : ∀ {fs : List Field}, Fits fs → pack fs < 2 ^ width fs
  | [], _ => by simp [pack, width]
  | f :: fs, ⟨hf, h⟩ => by
    have := pack_lt h
    rw [pack, width, Nat.pow_add, Nat.shiftLeft_eq]
    nlinarith

theorem holds_of_mod_eq {w : Nat} : ∀ {fs : List Field}, Fits fs → w % 2 ^ width fs = pack fs → Holds w fs
  | [], _, _ => trivial
  | f :: fs, ⟨_, h⟩, e => by
    have hlt := pack_lt h
    have hpos : 0 < 2 ^ width fs := Nat.two_pow_pos _
    rw [pack, width, mod_eq_fld_add, Nat.shiftLeft_eq, Nat.shiftLeft_eq] at e
    have hmod := congrArg (· % 2 ^ width fs) e
    rw [Nat.mul_add_mod', Nat.mul_add_mod', Nat.mod_mod, Nat.mod_eq_of_lt hlt] at hmod
    exact ⟨Nat.eq_of_mul_eq_mul_right hpos (by omega), holds_of_mod_eq h hmod⟩

/-! ## Field values and their readers -/

theorem fld_lt (w lo n : Nat) : fld w lo n < 2 ^ n := Nat.mod_lt _ (Nat.two_pow_pos n)

@[simp] theorem flag_eq (w lo : Nat) : flag w lo = decide (fld w lo 1 = 1) := rfl
@[simp] theorem bitOf_decide (w lo : Nat) : bitOf (decide (fld w lo 1 = 1)) = fld w lo 1 := by
  have := fld_lt w lo 1
  rcases h : fld w lo 1 with _ | _ | _ <;> simp_all [bitOf]
@[simp] theorem bitOf_true : bitOf true = 1 := rfl
@[simp] theorem bitOf_false : bitOf false = 0 := rfl
@[simp] theorem bitOf_le (b : Bool) : bitOf b ≤ 1 := by cases b <;> decide
@[simp] theorem bitOf_eq_one (b : Bool) : bitOf b = 1 ↔ b = true := by cases b <;> decide

@[simp] theorem srcOf_enc (a : SSrc) : srcOf a.enc = a := by
  cases a with
  | s n => simp [srcOf, SSrc.enc]
  | q n => simp [srcOf, SSrc.enc, Fin.ext_iff]
@[simp] theorem enc_srcOf (w lo : Nat) : (srcOf (fld w lo 5)).enc = fld w lo 5 := by
  have := fld_lt w lo 5
  unfold srcOf
  split <;> simp [SSrc.enc] <;> omega
@[simp] theorem enc_s_zero : (SSrc.s 0).enc = 0 := rfl
@[simp] theorem SSrc.enc_lt (a : SSrc) : a.enc < 32 := by cases a <;> simp [SSrc.enc] <;> omega

@[simp] theorem dstOf_eq_some {n : Nat} {d : SDst} : dstOf n = some d ↔ n = d.enc := by
  cases d <;> simp only [dstOf, SDst.enc] <;> split <;> simp [Fin.ext_iff] <;> omega
@[simp] theorem dstOf_enc (d : SDst) : dstOf d.enc = some d := dstOf_eq_some.2 rfl
@[simp] theorem enc_none : SDst.none.enc = 16 := rfl
@[simp] theorem dstOf_sixteen : dstOf 16 = some .none := rfl
@[simp] theorem SDst.enc_lt (d : SDst) : d.enc < 32 := by cases d <;> simp [SDst.enc] <;> omega

@[simp] theorem vdOf_eq_some {n : Nat} {d : VReg} : vdOf n = some d ↔ n = d.val := by
  unfold vdOf; split <;> simp [Fin.ext_iff] <;> omega
@[simp] theorem vdOf_val (d : VReg) : vdOf d.val = some d := vdOf_eq_some.2 rfl

@[simp] theorem vsrcOf_enc (a : VSrc) : vsrcOf a.enc = some a := by
  cases a with
  | v n => simp [vsrcOf, VSrc.enc]
  | a n => revert n; decide
  | _ => rfl
theorem enc_of_vsrcOf {n : Nat} {a : VSrc} (h : vsrcOf n = some a) : n = a.enc := by
  unfold vsrcOf at h
  split_ifs at h <;> cases h <;> simp only [VSrc.enc, Fin.ofNat] <;> omega
@[simp] theorem vsrcOf_eq_some {n : Nat} {a : VSrc} : vsrcOf n = some a ↔ n = a.enc :=
  ⟨enc_of_vsrcOf, fun h => h ▸ vsrcOf_enc a⟩
@[simp] theorem VSrc.enc_lt (a : VSrc) : a.enc < 512 := by cases a <;> simp [VSrc.enc] <;> omega

@[simp] theorem etyOf_enc (x : ETy) : etyOf x.enc = some x := by cases x <;> rfl
@[simp] theorem etyOf_eq_some {n : Nat} {x : ETy} : etyOf n = some x ↔ n = x.enc := by
  refine ⟨fun h => ?_, fun h => h ▸ etyOf_enc x⟩
  unfold etyOf at h
  split at h <;> cases h <;> rfl
@[simp] theorem ETy.enc_lt (x : ETy) : x.enc < 16 := by cases x <;> decide
@[simp] theorem rmOf_enc (x : RMode) : rmOf x.enc = some x := by cases x <;> rfl
@[simp] theorem rmOf_eq_some {n : Nat} {x : RMode} : rmOf n = some x ↔ n = x.enc := by
  refine ⟨fun h => ?_, fun h => h ▸ rmOf_enc x⟩
  unfold rmOf at h
  split at h <;> cases h <;> rfl
@[simp] theorem RMode.enc_lt (x : RMode) : x.enc < 8 := by cases x <;> decide
@[simp] theorem scopeOf_enc (x : Scope) : scopeOf x.enc = some x := by cases x <;> rfl
@[simp] theorem scopeOf_eq_some {n : Nat} {x : Scope} : scopeOf n = some x ↔ n = x.enc := by
  refine ⟨fun h => ?_, fun h => h ▸ scopeOf_enc x⟩
  unfold scopeOf at h
  split at h <;> cases h <;> rfl
@[simp] theorem Scope.enc_lt (x : Scope) : x.enc < 8 := by cases x <;> decide
@[simp] theorem amoOf_enc (x : AmoOp) : amoOf x.enc = some x := by cases x <;> rfl
@[simp] theorem amoOf_eq_some {n : Nat} {x : AmoOp} : amoOf n = some x ↔ n = x.enc := by
  refine ⟨fun h => ?_, fun h => h ▸ amoOf_enc x⟩
  unfold amoOf at h
  split at h <;> cases h <;> rfl
@[simp] theorem AmoOp.enc_lt (x : AmoOp) : x.enc < 16 := by cases x <;> decide
@[simp] theorem redOf_enc (x : RedOp) : redOf x.enc = some x := by cases x <;> rfl
@[simp] theorem redOf_eq_some {n : Nat} {x : RedOp} : redOf n = some x ↔ n = x.enc := by
  refine ⟨fun h => ?_, fun h => h ▸ redOf_enc x⟩
  unfold redOf at h
  split at h <;> cases h <;> rfl
@[simp] theorem RedOp.enc_lt (x : RedOp) : x.enc < 4 := by cases x <;> decide
@[simp] theorem putOf_enc (x : PutOp) : putOf x.enc = some x := by cases x <;> rfl
@[simp] theorem putOf_eq_some {n : Nat} {x : PutOp} : putOf n = some x ↔ n = x.enc := by
  refine ⟨fun h => ?_, fun h => h ▸ putOf_enc x⟩
  unfold putOf at h
  split at h <;> cases h <;> rfl
@[simp] theorem PutOp.enc_lt (x : PutOp) : x.enc < 16 := by cases x <;> decide
@[simp] theorem scaOf_enc (x : ScaMode) : scaOf x.enc = some x := by cases x <;> rfl
@[simp] theorem scaOf_eq_some {n : Nat} {x : ScaMode} : scaOf n = some x ↔ n = x.enc := by
  refine ⟨fun h => ?_, fun h => h ▸ scaOf_enc x⟩
  unfold scaOf at h
  split at h <;> cases h <;> rfl
@[simp] theorem ScaMode.enc_lt (x : ScaMode) : x.enc < 4 := by cases x <;> decide
@[simp] theorem sizeOf2_enc (x : Size) : sizeOf2 x.enc = x := by cases x <;> rfl
@[simp] theorem enc_sizeOf2 (w lo : Nat) : (sizeOf2 (fld w lo 2)).enc = fld w lo 2 := by
  have := fld_lt w lo 2
  unfold sizeOf2
  split_ifs <;> simp only [Size.enc] <;> omega
@[simp] theorem Size.enc_lt (x : Size) : x.enc < 4 := by cases x <;> decide
@[simp] theorem hintOf_enc (x : Hint) : hintOf x.enc = x := by cases x <;> rfl
@[simp] theorem enc_hintOf (w lo : Nat) : (hintOf (fld w lo 2)).enc = fld w lo 2 := by
  have := fld_lt w lo 2
  unfold hintOf
  split_ifs <;> simp only [Hint.enc] <;> omega
@[simp] theorem Hint.enc_lt (x : Hint) : x.enc < 4 := by cases x <;> decide
@[simp] theorem condOf_enc (x : Cond) : condOf x.enc = x := by cases x <;> rfl
@[simp] theorem enc_condOf (w lo : Nat) : (condOf (fld w lo 3)).enc = fld w lo 3 := by
  have := fld_lt w lo 3
  unfold condOf
  split_ifs <;> simp only [Cond.enc] <;> omega
@[simp] theorem Cond.enc_lt (x : Cond) : x.enc < 8 := by cases x <;> decide
@[simp] theorem mfmtOf_enc (x : MFmt) : mfmtOf x.enc = x := by cases x <;> rfl
@[simp] theorem enc_mfmtOf (w lo : Nat) : (mfmtOf (fld w lo 2)).enc = fld w lo 2 := by
  have := fld_lt w lo 2
  unfold mfmtOf
  split_ifs <;> simp only [MFmt.enc] <;> omega
@[simp] theorem MFmt.enc_lt (x : MFmt) : x.enc < 4 := by cases x <;> decide
@[simp] theorem mctlOf_enc (x : MCtl) : mctlOf x.enc = x := by cases x <;> rfl
@[simp] theorem enc_mctlOf (w lo : Nat) : (mctlOf (fld w lo 2)).enc = fld w lo 2 := by
  have := fld_lt w lo 2
  unfold mctlOf
  split_ifs <;> simp only [MCtl.enc] <;> omega
@[simp] theorem MCtl.enc_lt (x : MCtl) : x.enc < 4 := by cases x <;> decide
@[simp] theorem ofCode_code (t : Stream) : Stream.ofCode t.code = t := by cases t <;> rfl
@[simp] theorem code_ofCode (w lo : Nat) : (Stream.ofCode (fld w lo 2)).code = fld w lo 2 := by
  have := fld_lt w lo 2
  unfold Stream.ofCode
  split_ifs <;> simp only [Stream.code] <;> omega
@[simp] theorem code_lt (t : Stream) : t.code < 4 := by cases t <;> decide

theorem fld_one_cases (w lo : Nat) : fld w lo 1 = 0 ∨ fld w lo 1 = 1 := by
  have := fld_lt w lo 1
  omega
@[simp] theorem zero_fld (lo n : Nat) : fld 0 lo n = 0 := by simp [fld]
@[simp] theorem fld_ne_one (w lo : Nat) : ¬ fld w lo 1 = 1 ↔ fld w lo 1 = 0 := by
  have := fld_lt w lo 1
  omega
@[simp] theorem fld_mod_of_le {n m : Nat} (w lo : Nat) (h : 2 ^ n ≤ m) : fld w lo n % m = fld w lo n :=
  Nat.mod_eq_of_lt ((fld_lt w lo n).trans_le h)

end Sys2Proof.Words
end

section
/-!
PROOFS. The form of every instruction (spec/02 R29, R30, R44 to R58): its class, its major and its fields, and that the encoder writes them.
-/

namespace Sys2Proof.Words
open Sys2Proof

/-! ## The form of every instruction (Tables 2-6 to 2-18) -/

/-- How an instruction is written: a compact parcel with its opcode and nine bits of fields, a word with its major and 24 bits, an
extended word with a parcel more, a block header; an event is none. -/
inductive Form where
  | compact (op : Nat) (fs : List Field)
  | word (maj : Nat) (fs : List Field)
  | ext (maj : Nat) (fs es : List Field)
  | header (h : BitVec 30)
  | event

def Form.parcels : Form → List Parcel
  | .compact op fs => encH op (pack fs)
  | .word maj fs => encW maj (pack fs)
  | .ext maj fs es => encE maj (pack fs) (pack es)
  | .header h => encode (.blockHeaderEntry h)
  | .event => []

/-! Table 2-8, scalar formats -/
def aluF (fn : Nat) (o : Alu) : Form := .word 0 [(5, o.d.enc), (5, o.a.enc), (5, o.b.enc), (1, bitOf o.w), (8, fn)]
def alu1F (fn : Nat) (o : Alu1) : Form := .word 0 [(5, o.d.enc), (5, o.a.enc), (5, 0), (1, bitOf o.w), (8, fn)]
def immF (maj : Nat) (o : ImmOp) : Form := .word maj [(5, o.d.enc), (5, o.a.enc), (14, o.imm.toNat)]
def shiftF (maj : Nat) (o : ShiftImm) : Form := .word maj [(5, o.d.enc), (5, o.a.enc), (8, 0), (6, o.amt.toNat)]
def bfF (maj sg : Nat) (o : BField) : Form :=
  .word maj [(5, o.d.enc), (5, o.a.enc), (6, o.off.toNat), (7, o.width.toNat), (1, sg)]
def brF (maj : Nat) (o : CmpBr) : Form := .word maj [(5, o.a.enc), (5, o.b.enc), (14, o.off.toNat)]
def loadF (maj : Nat) (o : LoadOp) : Form :=
  .word maj [(5, o.d.enc), (5, o.base.enc), (2, o.size.enc), (1, bitOf o.sx), (2, o.rd.val), (9, o.off.toNat)]
def storeF (maj : Nat) (o : StoreOp) : Form :=
  .word maj [(5, o.src.enc), (5, o.base.enc), (2, o.size.enc), (1, 0), (2, o.rd.val), (9, o.off.toNat)]
@[simp] def saFs (o : AmoF) (op : Nat) : List Field :=
  [(5, o.d.enc), (5, o.addr.enc), (5, o.val.enc), (4, op), (1, 1), (1, bitOf o.dword), (3, o.scope.enc)]
@[simp] def tokFs (t : SSrc) : List Field := [(5, t.enc), (11, 0)]
def sysopF (fn : Nat) (d : SDst) (a b : SSrc) : Form := .word 0x2F [(5, d.enc), (5, a.enc), (5, b.enc), (9, fn)]

/-! Table 2-9, vector formats -/
def v3F (maj fn : Nat) (o : V3) : Form :=
  .ext maj [(9, o.d.val), (9, o.a.enc), (3, o.k.val), (3, fn)]
    [(9, o.b.enc), (1, bitOf o.ta), (1, bitOf o.tb), (4, o.ty.enc), (1, bitOf o.zm)]
def v3uF (maj fn : Nat) (o : V3u) : Form :=
  .ext maj [(9, o.d.val), (9, o.a.enc), (3, o.k.val), (3, fn)]
    [(9, 0), (1, bitOf o.ta), (1, 0), (4, o.ty.enc), (1, bitOf o.zm)]
def v2F (maj d a fn : Nat) : Form := .word maj [(9, d), (9, a), (6, fn)]
def kF (fn : Nat) (d a : KReg) : Form := .word 7 [(6, 0), (3, d.val), (6, 0), (3, a.val), (6, fn)]
def redF (maj : Nat) (d : VReg) (a : VSrc) (op : RedOp) (t : ETy) : Form :=
  .word maj [(9, d.val), (9, a.enc), (2, op.enc), (4, t.enc)]
def vmemF {α : Type} (maj v : Nat) (o : VMem α) : Form :=
  .ext maj [(9, v), (3, o.base.val), (3, o.stride.val), (3, o.k.val), (2, o.rd.val), (4, o.ty.enc)] [(16, o.off.toNat)]
def vmemxF {α : Type} (maj v : Nat) (o : VMemX α) : Form :=
  .ext maj [(9, v), (3, o.base.val), (3, o.stride.val), (3, o.k.val), (2, o.rd.val), (4, o.ty.enc)]
    [(9, o.idx.enc), (3, o.scale.val), (4, 0)]
def vtileF {α : Type} (maj v : Nat) (o : VTile α) (es : List Field) : Form :=
  .ext maj [(9, v), (5, o.slot.val), (3, o.coord.val), (4, o.sub.val), (2, o.hint.enc), (1, bitOf o.xv)]
    ((2, o.rd.val) :: (3, o.k.val) :: es)
/-- The band field of format VA and its all-bands bit (R145). -/
@[simp] def bandFs : Option (Fin 4) → List Field
  | none => [(2, 0), (1, 1)]
  | some b => [(2, b.val), (1, 0)]
def vaccF {α : Type} (maj v : Nat) (o : VAcc α) (es : List Field) : Form :=
  .ext maj ((9, v) :: (6, o.bank.val) :: bandFs o.band ++ [(4, o.ty.enc), (2, 0)]) es

/-! Tables 2-11 and 2-12, matrix and copy formats -/
@[simp] def mopsFs (o : MOps) : List Field :=
  [(6, o.bank.val), (5, o.aslot.val), (3, o.acoord.val), (5, o.bslot.val), (3, o.bcoord.val), (2, o.ctl.enc)]
@[simp] def cpFs (d s l : AReg) (sw : SwF) (rd : Fin 4) (fs : List Field) : List Field :=
  (3, d.val) :: (3, s.val) :: (3, l.val) :: (3, sw.sw.val) :: (1, bitOf sw.use) :: (2, rd.val) :: fs
@[simp] def dimFs (o : Dim2) : List Field := [(3, o.cnt.val), (3, o.dstr.val), (3, o.sstr.val), (7, 0)]
/-- The range of the tile form: its code, its lane, and the count in the extension parcel (Table 7-8). -/
@[simp] def rangeFs : TRange → Nat × Nat × Nat
  | .one => (0, 0, 0)
  | .run l n => (1, l.val, n.toNat)
  | .all => (2, 0, 0)
def tileF (maj : Nat) (o : TileF) : Form :=
  .ext maj [(2, (rangeFs o.range).1), (2, (rangeFs o.range).2.1), (5, 0), (5, o.slot.val), (3, o.coord.val), (6, 0), (1, bitOf o.xv)]
    [(16, (rangeFs o.range).2.2)]
def loopF (lvl2 : Bool) (len : BitVec 9) (fs : List Field) : Form :=
  .word 0x34 ((2, if lvl2 then 2 else 1) :: (9, len.toNat) :: fs)

def form : Instr → Form
  | .blockHeaderEntry h => .header h
  | .addC d a => .compact 2 [(4, d.val), (5, a.enc)] | .subC d a => .compact 3 [(4, d.val), (5, a.enc)]
  | .andC d a => .compact 4 [(4, d.val), (5, a.enc)] | .orC d a => .compact 5 [(4, d.val), (5, a.enc)]
  | .addiC d i => .compact 6 [(4, d.val), (5, i.toNat)] | .movC d a => .compact 7 [(4, d.val), (5, a.enc)]
  | .nopC => .compact 1 [(9, 0)]
  | .add o => aluF 0x00 o | .sub o => aluF 0x01 o | .and o => aluF 0x02 o | .or o => aluF 0x03 o
  | .xor o => aluF 0x04 o | .andn o => aluF 0x05 o | .shl o => aluF 0x06 o | .shr o => aluF 0x07 o
  | .sar o => aluF 0x08 o | .mul o => aluF 0x09 o | .mulh o => aluF 0x0A o | .mulhu o => aluF 0x0B o
  | .div o => aluF 0x0C o | .divu o => aluF 0x0D o | .rem o => aluF 0x0E o | .remu o => aluF 0x0F o
  | .min o => aluF 0x10 o | .max o => aluF 0x11 o | .minu o => aluF 0x12 o | .maxu o => aluF 0x13 o
  | .slt o => aluF 0x14 o | .sltu o => aluF 0x15 o | .seq o => aluF 0x16 o
  | .clz o => alu1F 0x17 o | .ctz o => alu1F 0x18 o | .popc o => alu1F 0x19 o
  | .addi o => immF 1 o | .andi o => immF 2 o | .ori o => immF 3 o | .xori o => immF 4 o
  | .shli o => shiftF 5 o | .shri o => shiftF 6 o | .sari o => shiftF 7 o
  | .slti o => immF 8 o | .sltiu o => immF 9 o
  | .lui d i => .word 0x0A [(5, d.enc), (19, i.toNat)]
  | .li d i => .ext 0x0B [(5, d.enc), (4, 0), (15, i.toNat % 2 ^ 15)] [(16, i.toNat / 2 ^ 15)]
  | .bfx o => bfF 0x0C 0 o | .bfxs o => bfF 0x0C 1 o | .bfi o => bfF 0x0D 0 o
  | .beq o => brF 0x0E o | .bne o => brF 0x0F o | .blt o => brF 0x10 o | .bge o => brF 0x11 o
  | .bltu o => brF 0x12 o | .bgeu o => brF 0x13 o
  | .call f => .word 0x14 [(24, f.toNat)] | .ret => .word 0x15 [(24, 0)]
  | .jr a => .word 0x16 [(5, 16), (5, a.enc), (14, 0)]
  | .ld o => loadF 0x17 o | .st o => storeF 0x18 o | .ldacq o => loadF 0x19 o | .strel o => storeF 0x1A o
  | .amoadd o => .word 0x1B (saFs o 0) | .amoand o => .word 0x1B (saFs o 1) | .amoor o => .word 0x1B (saFs o 2)
  | .amoxor o => .word 0x1B (saFs o 3) | .amomin o => .word 0x1B (saFs o 4) | .amomax o => .word 0x1B (saFs o 5)
  | .amominu o => .word 0x1B (saFs o 6) | .amomaxu o => .word 0x1B (saFs o 7) | .amoswap o => .word 0x1B (saFs o 8)
  | .cas o c => .ext 0x1C (saFs o 0) (tokFs c)
  | .rld d a dw sc t => .ext 0x1D (saFs ⟨d, a, .s 0, dw, sc⟩ 0) (tokFs t)
  | .rst a v dw sc t => .ext 0x1E (saFs ⟨.none, a, v, dw, sc⟩ 0) (tokFs t)
  | .ramo op o t => .ext 0x1F (saFs o op.enc) (tokFs t)
  | .fence sc k q r d => .word 0x20 [(3, sc.enc), (4, k.toNat), (1, bitOf q), (1, bitOf r), (5, d.enc), (10, 0)]
  | .ifence d => .word 0x21 [(9, 0), (5, d.enc), (10, 0)] | .tfence d => .word 0x22 [(9, 0), (5, d.enc), (10, 0)]
  | .fork d a => .word 0x23 [(5, d.enc), (5, a.enc), (14, 0)] | .join a => .word 0x24 [(5, 0), (5, a.enc), (14, 0)]
  | .spawn t f => .word 0x25 [(2, t.code), (22, f.toNat)]
  | .exit => .word 0x26 [(24, 0)] | .yield => .word 0x27 [(24, 0)]
  | .launch d a => .word 0x28 [(5, d.enc), (5, a.enc), (14, 0)]
  | .tdld t a => .word 0x29 [(5, t.val), (5, a.enc), (14, 0)] | .tdver t a => .word 0x2A [(5, t.val), (5, a.enc), (14, 0)]
  | .swinit a b => .word 0x2B [(5, 0), (5, a.enc), (5, b.enc), (9, 0)]
  | .barr a => .word 0x2C [(5, 0), (5, a.enc), (14, 0)]
  | .hnotify a b => .word 0x2D [(5, 0), (5, a.enc), (5, b.enc), (9, 0)]
  | .trap c => .word 0x2E [(8, 0), (16, c.toNat)]
  | .resume d a b => sysopF 0 d a b | .kill d a b => sysopF 1 d a b | .rqrel d a b => sysopF 2 d a b
  | .tlbinv d a b => sysopF 3 d a b | .snaprd d a b => sysopF 4 d a b | .snapwr d a b => sysopF 5 d a b
  | .keyret d a b => sysopF 6 d a b | .grant d a b => sysopF 7 d a b
  | .nop => .word 0x30 [(24, 0)] | .br f => .word 0x31 [(24, f.toNat)]
  | .bzS a f => .word 0x32 [(5, a.enc), (5, 0), (14, f.toNat)] | .bzA a f => .word 0x32 [(3, a.val), (7, 0), (14, f.toNat)]
  | .bnzS a f => .word 0x33 [(5, a.enc), (5, 0), (14, f.toNat)] | .bnzA a f => .word 0x33 [(3, a.val), (7, 0), (14, f.toNat)]
  | .loopImm l n c => loopF l n [(1, 0), (12, c.toNat)]
  | .loopRegS l n a => loopF l n [(1, 1), (5, a.enc), (7, 0)]
  | .loopRegA l n a => loopF l n [(1, 1), (3, a.val), (9, 0)]
  | .waitGenS a g => .word 0x35 [(2, 0), (5, a.enc), (5, g.enc), (12, 0)]
  | .waitGenA a g => .word 0x35 [(2, 0), (3, a.val), (3, g.val), (16, 0)]
  | .waitTok t n => .word 0x35 [(2, 1), (2, t.code), (4, n.val), (16, 0)]
  | .tksend t n => .word 0x36 [(2, t.code), (4, n.val), (18, 0)]
  | .halt => .word 0x37 [(24, 0)] | .beacon t => .word 0x38 [(8, 0), (16, t.toNat)]
  | .mfsrS d i => .word 0x39 [(5, d.enc), (9, 0), (10, i.toNat)] | .mfsrA d i => .word 0x39 [(3, d.val), (11, 0), (10, i.toNat)]
  | .mtsrS a i => .word 0x3A [(5, 0), (5, a.enc), (4, 0), (10, i.toNat)]
  | .mtsrA a i => .word 0x3A [(3, 0), (3, a.val), (8, 0), (10, i.toNat)]
  | .awr t n a => .word 0x3B [(2, t.code), (3, n.val), (5, a.enc), (14, 0)]
  | .amov d a => .word 0x3B [(3, d.val), (3, a.val), (18, 0)]
  | .aadd d a i => .word 0x3C [(3, d.val), (3, a.val), (18, i.toNat)]
  | .acset d l i => .word 0x3D [(3, d.val), (2, l.val), (3, 0), (16, i.toNat)]
  | .acinc d l i => .word 0x3E [(3, d.val), (2, l.val), (3, 0), (16, i.toNat)]
  | .vadd o => v3F 0 0 o | .vsub o => v3F 0 1 o | .vmul o => v3F 0 2 o | .vmin o => v3F 0 3 o
  | .vmax o => v3F 0 4 o | .vabs o => v3uF 0 5 o | .vneg o => v3uF 0 6 o | .vcpsgn o => v3F 0 7 o
  | .vfma o => v3F 1 0 o | .vfms o => v3F 1 1 o | .vfnma o => v3F 1 2 o
  | .vrcp o => v3uF 2 0 o | .vsqrt o => v3uF 2 1 o | .vrsqrt o => v3uF 2 2 o | .vexp2 o => v3uF 2 3 o | .vlog2 o => v3uF 2 4 o
  | .viadd o => v3F 3 0 o | .visub o => v3F 3 1 o | .vimul o => v3F 3 2 o | .vimin o => v3F 3 3 o
  | .vimax o => v3F 3 4 o | .vqadd o => v3F 3 5 o | .vqsub o => v3F 3 6 o | .vimulh o => v3F 3 7 o
  | .vand o => v3F 4 0 o | .vor o => v3F 4 1 o | .vxor o => v3F 4 2 o | .vandn o => v3F 4 3 o
  | .vshl o => v3F 4 4 o | .vshr o => v3F 4 5 o | .vsar o => v3F 4 6 o
  | .vcmp c d a b ta tb k t z => .ext 5 [(6, 0), (3, d.val), (9, a.enc), (3, k.val), (3, c.enc)]
      [(9, b.enc), (1, bitOf ta), (1, bitOf tb), (4, t.enc), (1, bitOf z)]
  | .vsel d a b ta tb k => .ext 6 [(9, d.val), (9, a.enc), (3, k.val), (3, 0)] [(9, b.enc), (1, bitOf ta), (1, bitOf tb), (5, 0)]
  | .kand d a => kF 0 d a | .kor d a => kF 1 d a | .kxor d a => kF 2 d a | .knot d a => kF 3 d a | .kmov d a => kF 4 d a
  | .vcvt d a ta k st dt rm z => .ext 8 [(9, d.val), (9, a.enc), (3, k.val), (3, 0)]
      [(4, st.enc), (3, rm.enc), (2, 0), (1, bitOf ta), (1, 0), (4, dt.enc), (1, bitOf z)]
  | .vmov d a => v2F 9 d.val a.enc 0
  | .vmovi d i => .ext 0x0A [(9, d.val), (15, i.toNat % 2 ^ 15)] [(16, i.toNat / 2 ^ 15)]
  | .vext i v n => .word 0x0B [(3, i.val), (9, v.enc), (10, n.val), (2, 0)]
  | .vrotr d a n => v2F 0x0C d.val a.enc n.val | .vrotc d a n => v2F 0x0D d.val a.enc n.val
  | .vbcr d a n => v2F 0x0E d.val a.enc n.val | .vbcc d a n => v2F 0x0F d.val a.enc n.val
  | .vredr d a op t => redF 0x10 d a op t | .vredc d a op t => redF 0x11 d a op t
  | .vtr16 d a => v2F 0x12 d.val a.enc 0
  | .vperm d a b ta tb k z => .ext 0x13 [(9, d.val), (9, a.enc), (3, k.val), (3, 0)]
      [(9, b.enc), (1, bitOf ta), (1, bitOf tb), (4, 0), (1, bitOf z)]
  | .vld o => vmemF 0x14 o.v.val o | .vst o => vmemF 0x15 o.v.enc o
  | .vgath o => vmemxF 0x16 o.v.val o | .vscat o => vmemxF 0x17 o.v.enc o
  | .vtld o => vtileF 0x18 o.v.val o [(11, 0)] | .vtst o p => vtileF 0x19 o.v.enc o [(1, bitOf p), (10, 0)]
  | .vacvt o rm => vaccF 0x1A o.v.val o [(3, rm.enc), (13, 0)] | .vafil o => vaccF 0x1B o.v.enc o [(16, 0)]
  | .vfeEmpty v => v2F 0x1C v.val 0 0 | .vfeFull v => v2F 0x1C v.val 0 1 | .vfeC v => .compact 2 [(9, v.val)]
  | .mma o sa sb ah bh tb => .ext 0 (mopsFs o)
      [(4, sa.val), (4, sb.val), (2, o.fmt.enc), (2, ah.enc), (2, bh.enc), (1, bitOf o.xv), (1, bitOf tb)]
  | .mmaC b => .compact 3 [(6, b.val), (3, 0)]
  | .mmag o x ah bh => .ext 1 (mopsFs o) [(9, x.enc), (2, o.fmt.enc), (2, ah.enc), (2, bh.enc), (1, bitOf o.xv)]
  | .mmk o n la lb => .ext 2 (mopsFs o) [(8, n.toNat), (2, la.val), (2, lb.val), (2, o.fmt.enc), (1, bitOf o.xv), (1, 0)]
  | .mres b a => .word 3 [(6, b.val), (3, 0), (3, a.val), (12, 0)]
  | .msca d s x m => .ext 4 [(6, d.val), (6, s.val), (12, 0)] [(9, x.enc), (2, m.enc), (5, 0)]
  | .mrnm b k => .word 5 [(6, b.val), (6, 0), (12, k.toNat)]
  | .mzero b n i => .word 6 [(6, b.val), (6, n.val), (12, i.toNat)]
  | .manch b i => .word 7 [(6, b.val), (6, 0), (12, i.toNat)]
  | .mcopy d s => .word 8 [(6, d.val), (6, s.val), (12, 0)]
  | .aalloc b n w => .word 9 [(6, b.val), (6, n.val), (11, 0), (1, bitOf w)]
  | .afree b n => .word 0x0A [(6, b.val), (6, n.val), (12, 0)]
  | .aband b q o => .word 0x0B [(6, b.val), (6, q.val), (12, o.toNat)]
  | .msync b => .word 0x0C [(6, b.val), (18, 0)]
  | .mstb a p => .word 0x0D [(9, 0), (3, a.val), (12, p.toNat)]
  | .mstamp f => .compact 2 [(9, f.toNat)]
  | .gload a => .word 0x10 [(3, a.val), (21, 0)]
  | .gslot b n => .word 0x11 [(3, 0), (6, b.val), (8, 0), (7, n.toNat)]
  | .gxwin v t => .word 0x12 [(9, 0), (9, v.val), (1, 0), (1, bitOf t), (4, 0)]
  | .geval l => .word 0x13 [(20, 0), (4, l.val)]
  | .grow a b o n => .word 0x14 [(3, a.val), (6, b.val), (1, bitOf o), (9, 0), (5, n.val)]
  | .cpy d s l sw rd => .ext 0 (cpFs d s l sw rd [(9, 0)]) [(16, 0)]
  | .cpy2 d s l sw rd m => .ext 1 (cpFs d s l sw rd [(9, 0)]) (dimFs m)
  | .cpyf d s l sw rd z => .ext 2 (cpFs d s l sw rd [(7, 0), (2, z.enc)]) [(16, 0)]
  | .cpyxExp d s l sw rd m => .ext 3 (cpFs d s l sw rd [(8, 0), (1, 0)]) (dimFs m)
  | .cpyxPack d s l sw rd m => .ext 3 (cpFs d s l sw rd [(8, 0), (1, 1)]) (dimFs m)
  | .cpyt c v sw rd t x h => .ext 4 (cpFs c (v.getD 0) 0 sw rd
      [(5, t.val), (1, bitOf x), (2, h.enc), (1, bitOf v.isSome)]) [(16, 0)]
  | .cpyw c sw t x l => .ext 5
      [(3, c.val), (6, 0), (3, sw.sw.val), (1, bitOf sw.use), (2, 0), (5, t.val), (1, bitOf x), (1, bitOf l), (1, 0), (1, 0)] [(16, 0)]
  | .cpyrGet d s l sw rd t g => .ext 6 (cpFs d s l sw rd [(4, 0), (4, 0), (1, 0)]) [(3, t.val), (3, g.val), (10, 0)]
  | .cpyrPut d s l sw rd t g op => .ext 6 (cpFs d s l sw rd [(4, 0), (4, op.enc), (1, 1)]) [(3, t.val), (3, g.val), (10, 0)]
  | .cpyhRd d s l sw rd w => .ext 7 (cpFs d s l sw rd [(8, 0), (1, 0)]) [(3, w.val), (13, 0)]
  | .cpyhWr d s l sw rd w => .ext 7 (cpFs d s l sw rd [(8, 0), (1, 1)]) [(3, w.val), (13, 0)]
  | .tcpin o => tileF 8 o | .tcunp o => tileF 9 o | .tcinv o => tileF 0x0A o | .tcfls o => tileF 0x0B o
  | .tcitn a c h w => .ext 0x0C [(3, a.val), (3, c.val), (15, 0), (2, h.enc), (1, 0)] [(6, w.toNat), (10, 0)]
  | .tcqry d t c x => .ext 0x0D [(3, d.val), (6, 0), (5, t.val), (3, c.val), (6, 0), (1, bitOf x)] [(16, 0)]
  | .swadd s a => .ext 0x0E [(6, 0), (3, a.val), (3, s.val), (1, 1), (11, 0)] [(16, 0)]
  | _ => .event

theorem encH_eq {op body : Nat} {fs : List Field} (h : body = pack fs) : encH op body = (Form.compact op fs).parcels := by
  rw [h]; rfl
theorem encW_eq {maj body : Nat} {fs : List Field} (h : body = pack fs) : encW maj body = (Form.word maj fs).parcels := by
  rw [h]; rfl
theorem encE_eq {maj body e : Nat} {fs es : List Field} (h : body = pack fs) (he : e = pack es) :
    encE maj body e = (Form.ext maj fs es).parcels := by
  rw [h, he]; rfl

theorem encTile_eq (maj : Nat) (o : TileF) : encTile maj o = (tileF maj o).parcels := by
  unfold encTile tileF rangeFs
  cases o.range <;> simp [Form.parcels, Nat.shiftLeft_eq, Nat.add_assoc]

theorem encVAcc_eq {α : Type} {maj v rm : Nat} {o : VAcc α} {es : List Field} (h : rm <<< 13 = pack es) :
    encVAcc maj v rm o = (vaccF maj v o es).parcels := by
  refine encE_eq ?_ h
  cases o.band <;> simp [Nat.shiftLeft_eq, Nat.add_assoc]

theorem saBody_eq (o : AmoF) (op : Nat) : saBody o op = pack (saFs o op) := by
  simp [saBody, Nat.shiftLeft_eq, Nat.add_assoc]

theorem cpBody_eq (d s l : AReg) (sw : SwF) (rd : Fin 4) {f : Nat} {fs : List Field} (h : f = pack fs) (hw : width fs = 9) :
    cpBody d s l sw rd f = pack (cpFs d s l sw rd fs) := by
  simp [cpBody, Nat.shiftLeft_eq, Nat.add_assoc, h, hw]

theorem encode_eq_parcels (i : Instr) : encode i = (form i).parcels := by
  cases i with
  | addC | subC | andC | orC | addiC | movC | nopC | vfeC | mmaC | mstamp =>
    exact encH_eq (by simp [Nat.shiftLeft_eq])
  | tcpin o | tcunp o | tcinv o | tcfls o => exact encTile_eq _ o
  | vacvt | vafil => exact encVAcc_eq (by simp)
  | add | sub | and | or | xor | andn | shl | shr | sar | mul | mulh | mulhu | div | divu | rem | remu | min | max | minu | maxu
  | slt | sltu | seq | clz | ctz | popc | addi | andi | ori | xori | shli | shri | sari | slti | sltiu | lui | bfx | bfxs | bfi
  | beq | bne | blt | bge | bltu | bgeu | call | ret | jr | ld | st | ldacq | strel | fence | ifence | tfence | fork | join
  | spawn | exit | yield | launch | tdld | tdver | swinit | barr | hnotify | trap | resume | kill | rqrel | tlbinv | snaprd
  | snapwr | keyret | grant | nop | br | bzS | bzA | bnzS | bnzA | waitGenS | waitGenA | waitTok | tksend | halt | beacon
  | mfsrS | mfsrA | mtsrS | mtsrA | awr | amov | aadd | acset | acinc | kand | kor | kxor | knot | kmov | vmov | vext | vrotr
  | vrotc | vbcr | vbcc | vredr | vredc | vtr16 | vfeEmpty | vfeFull | mres | mrnm | mzero | manch | mcopy | aalloc | afree
  | aband | msync | mstb | gload | gslot | gxwin | geval | grow =>
    exact encW_eq (by simp [Nat.shiftLeft_eq, Nat.add_assoc])
  | amoadd | amoand | amoor | amoxor | amomin | amomax | amominu | amomaxu | amoswap =>
    exact encW_eq (saBody_eq ..)
  | loopImm | loopRegS | loopRegA => exact encW_eq (by simp [loopBody, Nat.shiftLeft_eq, Nat.add_assoc])
  | cas | rld | rst | ramo =>
    exact encE_eq (saBody_eq ..) (by simp)
  | li | vadd | vsub | vmul | vmin | vmax | vabs | vneg | vcpsgn | vfma | vfms | vfnma | vrcp | vsqrt | vrsqrt | vexp2 | vlog2
  | viadd | visub | vimul | vimin | vimax | vqadd | vqsub | vimulh | vand | vor | vxor | vandn | vshl | vshr | vsar | vcmp
  | vsel | vcvt | vmovi | vperm | vld | vst | vgath | vscat | vtld | vtst | msca | tcitn | tcqry | swadd =>
    exact encE_eq (by simp [Nat.shiftLeft_eq, Nat.add_assoc]) (by simp [Nat.shiftLeft_eq, Nat.add_assoc])
  | mma | mmag | mmk =>
    exact encE_eq (by simp [mopsBody, Nat.shiftLeft_eq, Nat.add_assoc])
      (by simp [Nat.shiftLeft_eq, Nat.add_assoc])
  | cpyt c v => cases v <;> exact encE_eq (cpBody_eq _ _ _ _ _ (by simp [bitOf, Nat.shiftLeft_eq, Nat.add_assoc]) rfl) rfl
  | cpyw => exact encE_eq (by simp [cpBody, Nat.shiftLeft_eq, Nat.add_assoc]) rfl
  | cpy | cpyf => exact encE_eq (cpBody_eq _ _ _ _ _ (by simp [Nat.shiftLeft_eq]) rfl) rfl
  | cpy2 | cpyxExp | cpyxPack | cpyrGet | cpyrPut | cpyhRd | cpyhWr =>
    exact encE_eq (cpBody_eq _ _ _ _ _ (by simp [Nat.shiftLeft_eq]) rfl)
      (by simp [dimE, Nat.shiftLeft_eq, Nat.add_assoc])
  | _ => rfl

/-- Opcodes, majors and fields fill their bits. -/
def Form.Ok : Form → Prop
  | .compact op fs => op < 2 ^ 5 ∧ width fs = 9 ∧ Fits fs
  | .word maj fs => maj < 2 ^ 6 ∧ width fs = 24 ∧ Fits fs
  | .ext maj fs es => maj < 2 ^ 6 ∧ width fs = 24 ∧ Fits fs ∧ width es = 16 ∧ Fits es
  | .header _ | .event => True

@[simp] theorem val_lt_of_le {n m : Nat} (x : Fin n) (h : n ≤ m) : x.val < m := by omega
@[simp] theorem toNat_lt_of_le {n m : Nat} (x : BitVec n) (h : 2 ^ n ≤ m) : x.toNat < m := x.isLt.trans_le h

theorem vaccF_ok {α : Type} {maj v : Nat} {o : VAcc α} {es : List Field} (hm : maj < 2 ^ 6) (hv : v < 2 ^ 9)
    (hw : width es = 16) (he : Fits es) : (vaccF maj v o es).Ok := by
  cases hb : o.band <;> simp_all [vaccF, bandFs, Form.Ok]

theorem tileF_ok {maj : Nat} (hm : maj < 2 ^ 6) (o : TileF) : (tileF maj o).Ok := by
  cases hr : o.range <;> simp_all [tileF, rangeFs, Form.Ok]

theorem form_ok (i : Instr) : (form i).Ok := by
  cases i with
  | addC | subC | andC | orC | addiC | movC | nopC | vfeC | mmaC | mstamp => exact ⟨by decide, rfl, by simp⟩
  | tcpin o | tcunp o | tcinv o | tcfls o => exact tileF_ok (by decide) o
  | vacvt | vafil => exact vaccF_ok (by decide) (by simp) rfl (by simp)
  | add | sub | and | or | xor | andn | shl | shr | sar | mul | mulh | mulhu | div | divu | rem | remu | min | max | minu | maxu
  | slt | sltu | seq | clz | ctz | popc | addi | andi | ori | xori | shli | shri | sari | slti | sltiu | lui | bfx | bfxs | bfi
  | beq | bne | blt | bge | bltu | bgeu | call | ret | jr | ld | st | ldacq | strel | fence | ifence | tfence | fork | join
  | spawn | exit | yield | launch | tdld | tdver | swinit | barr | hnotify | trap | resume | kill | rqrel | tlbinv | snaprd
  | snapwr | keyret | grant | nop | br | bzS | bzA | bnzS | bnzA | waitGenS | waitGenA | waitTok | tksend | halt | beacon
  | mfsrS | mfsrA | mtsrS | mtsrA | awr | amov | aadd | acset | acinc | kand | kor | kxor | knot | kmov | vmov | vext | vrotr
  | vrotc | vbcr | vbcc | vredr | vredc | vtr16 | vfeEmpty | vfeFull | mres | mrnm | mzero | manch | mcopy | aalloc | afree
  | aband | msync | mstb | gload | gslot | gxwin | geval | grow | amoadd | amoand | amoor | amoxor | amomin | amomax | amominu
  | amomaxu | amoswap => exact ⟨by decide, rfl, by simp⟩
  | loopImm l | loopRegS l | loopRegA l => exact ⟨by decide, rfl, by cases l <;> simp⟩
  | cas | rld | rst | ramo => exact ⟨by decide, rfl, by simp, rfl, by simp⟩
  | li _ i | vmovi _ i => exact ⟨by decide, rfl, by simp; omega, rfl, by simp; omega⟩
  | vadd | vsub | vmul | vmin | vmax | vabs | vneg | vcpsgn | vfma | vfms | vfnma | vrcp | vsqrt | vrsqrt | vexp2 | vlog2
  | viadd | visub | vimul | vimin | vimax | vqadd | vqsub | vimulh | vand | vor | vxor | vandn | vshl | vshr | vsar | vcmp
  | vsel | vcvt | vperm | vld | vst | vgath | vscat | vtld | vtst | msca | tcitn | tcqry | swadd
  | mma | mmag | mmk | cpyt | cpy | cpyf | cpyw | cpy2 | cpyxExp | cpyxPack | cpyrGet | cpyrPut | cpyhRd | cpyhWr =>
    exact ⟨by decide, rfl, by simp, rfl, by simp⟩
  | _ => trivial

end Sys2Proof.Words
end

section
/-!
PROOFS. Decoding what the encoder writes (spec/02 R29, R30, R42): from the fields of its form the decoder reads an instruction back.
-/

namespace Sys2Proof.Words
open Sys2Proof

theorem ofNat_split (i : BitVec 31) : BitVec.ofNat 31 (i.toNat % 32768 + i.toNat / 32768 * 32768) = i := by
  rw [Nat.mul_comm, Nat.mod_add_div]; simp

theorem vaccOf_of_holds {α : Type} {vOf : Nat → Option α} {w v : Nat} {o : VAcc α} (hv : vOf v = some o.v)
    (h : Holds w ((9, v) :: (6, o.bank.val) :: bandFs o.band ++ [(4, o.ty.enc), (2, 0)])) : vaccOf vOf w = some o := by
  obtain ⟨a, b, band, c⟩ := o
  cases band <;> simp at h hv <;> simp [vaccOf, req, h, hv]

theorem tileOf_of_holds {w e : Nat} {o : TileF} (h : Holds w [(2, (rangeFs o.range).1), (2, (rangeFs o.range).2.1), (5, 0), (5, o.slot.val), (3, o.coord.val), (6, 0), (1, bitOf o.xv)])
    (he : Holds e [(16, (rangeFs o.range).2.2)]) (h16 : fld e 0 16 = e) : tileOf w e = some o := by
  obtain ⟨range, a, b, c⟩ := o
  cases range <;> simp [h16] at h he <;> simp [tileOf, req, h, he]

theorem inStream_of_wf {st : Stream} {i : Instr} (h : i.wf st = true) : i.inStream st = true := (Bool.and_eq_true_iff.1 h).1

theorem decodeH_of_holds {st : Stream} {i : Instr} {op p : Nat} {fs : List Field} (hf : form i = .compact op fs)
    (hw : i.wf st = true) (hm : fld p 9 5 = op) (h : Holds p fs) : decodeH st p = some i := by
  have hs := inStream_of_wf hw
  cases i with
  | addC | subC | andC | orC | addiC | movC =>
    cases hf
    obtain rfl : st = .s := of_decide_eq_true hs
    simp at h
    simp [decodeH, hm, h]
  | vfeC =>
    cases hf
    obtain rfl : st = .v := of_decide_eq_true hs
    simp at h
    simp [decodeH, hm, h]
  | mstamp | mmaC =>
    cases hf
    obtain rfl : st = .m := of_decide_eq_true hs
    simp at h
    simp [decodeH, req, hm, h]
  | nopC =>
    cases hf
    simp at h
    simp [decodeH, req, hm, h]
  | _ => cases hf

theorem decodeW_of_holds {st : Stream} {i : Instr} {maj w : Nat} {fs : List Field} (hf : form i = .word maj fs)
    (hw : i.wf st = true) (hm : fld w 24 6 = maj) (h : Holds w fs) : decodeW st w = some i := by
  have hs := inStream_of_wf hw
  cases i with
  | add | sub | and | or | xor | andn | shl | shr | sar | mul | mulh | mulhu | div | divu | rem | remu | min | max | minu |
  maxu | slt | sltu | seq | clz | ctz | popc =>
    cases hf
    obtain rfl : st = .s := of_decide_eq_true hs
    simp at h
    simp [decodeW, decodeS, decodeAlu, aluOf, alu1Of, req, hm, h]
  | resume | kill | rqrel | tlbinv | snaprd | snapwr | keyret | grant =>
    cases hf
    obtain rfl : st = .s := of_decide_eq_true hs
    simp at h
    simp [decodeW, decodeS, decodeSysop, hm, h]
  | amoadd | amoand | amoor | amoxor | amomin | amomax | amominu | amomaxu | amoswap =>
    cases hf
    obtain rfl : st = .s := of_decide_eq_true hs
    simp at h
    simp [decodeW, decodeS, decodeAmo, amoFOf, req, hm, h]
  | addi | andi | ori | xori | shli | shri | sari | slti | sltiu | lui | bfx | bfxs | bfi | beq | bne | blt | bge | bltu |
  bgeu | call | ret | jr | ld | st | ldacq | strel | fence | ifence | tfence | fork | join | spawn | exit | yield | launch |
  tdld | tdver | swinit | barr | hnotify | trap =>
    cases hf
    obtain rfl : st = .s := of_decide_eq_true hs
    simp at h
    simp [decodeW, decodeS, immOf, shiftOf, bfOf, brOf, loadOf, storeOf, req, hm, h]
  | bzS | bnzS | loopRegS | waitGenS | mfsrS | mtsrS | awr =>
    cases hf
    obtain rfl : st = .s := of_decide_eq_true hs
    simp at h
    simp [decodeW, decodeCommon, req, hm, h]
  | bzA | bnzA | loopRegA | waitGenA | mfsrA | mtsrA | amov | aadd | acset | acinc =>
    cases hf
    have hs : st ≠ .s := of_decide_eq_true hs
    simp at h
    simp [decodeW, decodeCommon, req, hm, h, hs]
  | nop | br | loopImm | waitTok | tksend | halt | beacon =>
    cases hf
    simp at h
    simp [decodeW, decodeCommon, req, hm, h]
  | kand | kor | kxor | knot | kmov | vmov | vext | vrotr | vrotc | vbcr | vbcc | vredr | vredc | vtr16 | vfeEmpty | vfeFull
  =>
    cases hf
    obtain rfl : st = .v := of_decide_eq_true hs
    simp at h
    simp [decodeW, decodeV, v2Of, req, hm, h]
  | mres | mrnm | mzero | manch | mcopy | aalloc | afree | aband | msync | mstb | gload | gslot | gxwin | geval | grow =>
    cases hf
    obtain rfl : st = .m := of_decide_eq_true hs
    simp at h
    simp [decodeW, decodeM, req, hm, h]
  | _ => cases hf

theorem decodeE_of_holds {st : Stream} {i : Instr} {maj w e : Nat} {fs es : List Field} (hf : form i = .ext maj fs es)
    (hw : i.wf st = true) (hm : fld w 24 6 = maj) (h : Holds w fs) (he : Holds e es) (hlt : e < 2 ^ 16) :
    decodeE st w e = some i := by
  have hs := inStream_of_wf hw
  have h16 : fld e 0 16 = e := by rw [fld, pow_zero, Nat.div_one, Nat.mod_eq_of_lt hlt]
  cases i with
  | cas | rld | rst | ramo =>
    cases hf
    obtain rfl : st = .s := of_decide_eq_true hs
    simp at h he
    simp [decodeE, decodeSE, amoFOf, req, hm, h, he]
  | li =>
    cases hf
    obtain rfl : st = .s := of_decide_eq_true hs
    simp at h he
    simp [decodeE, decodeSE, req, hm, h, he, ofNat_split]
  | vmovi =>
    cases hf
    obtain rfl : st = .v := of_decide_eq_true hs
    simp at h he
    simp [decodeE, decodeVE, hm, h, he, ofNat_split]
  | vadd | vsub | vmul | vmin | vmax | vcpsgn | vfma | vfms | vfnma | viadd | visub | vimul | vimin | vimax | vqadd | vqsub
  | vimulh | vand | vor | vxor | vandn | vshl | vshr | vsar | vabs | vneg | vrcp | vsqrt | vrsqrt | vexp2 | vlog2 =>
    cases hf
    obtain rfl : st = .v := of_decide_eq_true hs
    simp at h he
    simp [decodeE, decodeVE, v3Of, v3uOf, req, hm, h, he]
  | vcmp | vsel | vcvt | vperm | vgath | vscat | vtld | vtst =>
    cases hf
    obtain rfl : st = .v := of_decide_eq_true hs
    simp at h he
    simp [decodeE, decodeVE, vmemxOf, vtileOf, req, hm, h, he]
  | vld | vst =>
    cases hf
    obtain rfl : st = .v := of_decide_eq_true hs
    simp [h16] at h he
    simp [decodeE, decodeVE, vmemOf, hm, h, he]
  | vacvt o =>
    cases hf
    obtain rfl : st = .v := of_decide_eq_true hs
    simp at he
    simp [decodeE, decodeVE, hm, he, vaccOf_of_holds (vdOf_val _) h, req]
  | vafil o =>
    cases hf
    obtain rfl : st = .v := of_decide_eq_true hs
    simp at he
    simp [decodeE, decodeVE, hm, he, vaccOf_of_holds (vsrcOf_enc _) h, req]
  | mma | mmag | mmk | msca =>
    cases hf
    obtain rfl : st = .m := of_decide_eq_true hs
    simp at h he
    simp [decodeE, decodeME, mopsOf, req, hm, h, he]
  | cpy | cpy2 | cpyf | cpyxExp | cpyxPack | cpyw | cpyrGet | cpyrPut | cpyhRd | cpyhWr | tcitn | tcqry | swadd =>
    cases hf
    obtain rfl : st = .c := of_decide_eq_true hs
    simp [h16] at h he
    simp [decodeE, decodeC, swOf, dimOf, req, hm, h, he]
  | cpyt _ v =>
    cases hf
    obtain rfl : st = .c := of_decide_eq_true hs
    cases v <;> simp [h16] at h he <;>
      simp [decodeE, decodeC, swOf, req, hm, h, he]
  | tcpin | tcunp | tcinv | tcfls =>
    cases hf
    obtain rfl : st = .c := of_decide_eq_true hs
    simp [decodeE, decodeC, hm, tileOf_of_holds h he h16]
  | _ => cases hf
/-! ## Decoding by class (R29, R30) -/

theorem decode_compact {p : Parcel} (h : p.toNat / 2 ^ 14 = 0) (st : Stream) (rest : List Parcel) :
    decode st (p :: rest) = checked st 1 .compact (decodeH st p.toNat) := by
  unfold decode; simp only [h]
theorem decode_word {p0 : Parcel} (h : p0.toNat / 2 ^ 14 = 1) (st : Stream) (p1 : Parcel) (rest : List Parcel) :
    decode st (p0 :: p1 :: rest) = checked st 2 .word (decodeW st (p0.toNat * 2 ^ 16 + p1.toNat)) := by
  unfold decode; simp only [h]
theorem decode_ext {p0 : Parcel} (h : p0.toNat / 2 ^ 14 = 2) (st : Stream) (p1 p2 : Parcel) (rest : List Parcel) :
    decode st (p0 :: p1 :: p2 :: rest) = checked st 3 .extended (decodeE st (p0.toNat * 2 ^ 16 + p1.toNat) p2.toNat) := by
  unfold decode; simp only [h]
theorem decode_header {p0 : Parcel} (h : p0.toNat / 2 ^ 14 = 3) (st : Stream) (p1 : Parcel) (rest : List Parcel) :
    decode st (p0 :: p1 :: rest) = .ok (.blockHeaderEntry (BitVec.ofNat 30 (p0.toNat * 2 ^ 16 + p1.toNat)), 2) := by
  unfold decode; simp only [h]

theorem checked_some {st : Stream} {i : Instr} (h : i.wf st = true) (n : Nat) (err : DecErr) :
    checked st n err (some i) = .ok (i, n) := if_pos h

theorem decode_encH {op body : Nat} (ho : op < 2 ^ 5) (hb : body < 2 ^ 9) (st : Stream) (rest : List Parcel) :
    ∃ p, fld p 9 5 = op ∧ p % 2 ^ 9 = body ∧ decode st (encH op body ++ rest) = checked st 1 .compact (decodeH st p) := by
  have hp : (BitVec.ofNat 16 (op <<< 9 + body)).toNat = op * 2 ^ 9 + body := by
    rw [BitVec.toNat_ofNat, Nat.shiftLeft_eq]; omega
  exact ⟨_, by unfold fld; omega, by omega, decode_compact (by omega) st rest⟩

/-- The parcels of a word have its class, its major and its fields. -/
theorem word_parcels {cls c maj body : Nat} (hc : cls = c * 2 ^ 14) (hc' : c < 4) (hm : maj < 2 ^ 6) (hb : body < 2 ^ 24) :
    let p0 := (BitVec.ofNat 16 (cls + maj <<< 8 + body / 2 ^ 16)).toNat
    let w := p0 * 2 ^ 16 + (BitVec.ofNat 16 (body % 2 ^ 16)).toNat
    p0 / 2 ^ 14 = c ∧ fld w 24 6 = maj ∧ w % 2 ^ 24 = body := by
  simp only [BitVec.toNat_ofNat, Nat.shiftLeft_eq, fld]
  omega

theorem decode_encW {maj body : Nat} (hm : maj < 2 ^ 6) (hb : body < 2 ^ 24) (st : Stream) (rest : List Parcel) :
    ∃ w, fld w 24 6 = maj ∧ w % 2 ^ 24 = body ∧ decode st (encW maj body ++ rest) = checked st 2 .word (decodeW st w) :=
  have ⟨hc, hmaj, hbody⟩ := word_parcels (cls := 2 ^ 14) (c := 1) rfl (by decide) hm hb
  ⟨_, hmaj, hbody, decode_word hc st _ rest⟩

theorem decode_encE {maj body e : Nat} (hm : maj < 2 ^ 6) (hb : body < 2 ^ 24) (he : e < 2 ^ 16) (st : Stream)
    (rest : List Parcel) : ∃ w, fld w 24 6 = maj ∧ w % 2 ^ 24 = body
      ∧ decode st (encE maj body e ++ rest) = checked st 3 .extended (decodeE st w e) := by
  have ⟨hc, hmaj, hbody⟩ := word_parcels (cls := 2 ^ 15) (c := 2) rfl (by decide) hm hb
  refine ⟨_, hmaj, hbody, (decode_ext hc st _ _ rest).trans ?_⟩
  have hp : (BitVec.ofNat 16 e).toNat = e := by rw [BitVec.toNat_ofNat, Nat.mod_eq_of_lt he]
  rw [hp]

theorem decode_encode_header (h : BitVec 30) (st : Stream) (rest : List Parcel) :
    decode st (encode (.blockHeaderEntry h) ++ rest) = .ok (.blockHeaderEntry h, 2) := by
  have hp : (BitVec.ofNat 16 (3 <<< 14 + h.toNat / 2 ^ 16)).toNat = 3 * 2 ^ 14 + h.toNat / 2 ^ 16 := by
    rw [BitVec.toNat_ofNat, Nat.shiftLeft_eq]; omega
  refine (decode_header (by omega) st _ rest).trans ?_
  have : BitVec.ofNat 30 ((3 * 2 ^ 14 + h.toNat / 2 ^ 16) * 2 ^ 16 + (BitVec.ofNat 16 (h.toNat % 2 ^ 16)).toNat) = h := by
    apply BitVec.eq_of_toNat_eq
    simp only [BitVec.toNat_ofNat]
    omega
  rw [hp, this]

theorem decode_parcels {st : Stream} {i : Instr} (hw : i.wf st = true) (rest : List Parcel) :
    decode st ((form i).parcels ++ rest) = .ok (i, (form i).parcels.length) := by
  have hok := form_ok i
  cases hf : form i with
  | compact op fs =>
    rw [hf] at hok
    obtain ⟨ho, hwid, hfit⟩ := hok
    obtain ⟨p, hop, hp, hd⟩ := decode_encH ho (hwid ▸ pack_lt hfit) st rest
    rw [Form.parcels, hd, decodeH_of_holds hf hw hop (holds_of_mod_eq hfit (hwid ▸ hp))]
    exact checked_some hw ..
  | word maj fs =>
    rw [hf] at hok
    obtain ⟨hm, hwid, hfit⟩ := hok
    obtain ⟨w, hmaj, hwd, hd⟩ := decode_encW hm (hwid ▸ pack_lt hfit) st rest
    rw [Form.parcels, hd, decodeW_of_holds hf hw hmaj (holds_of_mod_eq hfit (hwid ▸ hwd))]
    exact checked_some hw ..
  | ext maj fs es =>
    rw [hf] at hok
    obtain ⟨hm, hwid, hfit, hwidE, hfitE⟩ := hok
    have he : pack es < 2 ^ 16 := hwidE ▸ pack_lt hfitE
    obtain ⟨w, hmaj, hwd, hd⟩ := decode_encE hm (hwid ▸ pack_lt hfit) he st rest
    have hes : Holds (pack es) es := holds_of_mod_eq hfitE (Nat.mod_eq_of_lt (pack_lt hfitE))
    rw [Form.parcels, hd, decodeE_of_holds hf hw hmaj (holds_of_mod_eq hfit (hwid ▸ hwd)) hes he]
    exact checked_some hw ..
  | header h =>
    obtain rfl : i = .blockHeaderEntry h := by cases i <;> cases hf <;> rfl
    exact decode_encode_header h st rest
  | event =>
    have : i.inStream st = false := by cases i <;> cases hf <;> rfl
    exact absurd (inStream_of_wf hw) (by simp [this])

/-- Settles O54: the parcels of an instruction hold the fields of its form, from which each of the decoder's tables reads it. -/
theorem decodingGivesBackEveryEncodedInstruction : Obligations.DecodingGivesBackEveryEncodedInstruction := by
  unfold Obligations.DecodingGivesBackEveryEncodedInstruction
  intro st i rest hw
  rw [encode_eq_parcels]
  exact decode_parcels hw rest

end Sys2Proof.Words
end

section
/-!
PROOFS. What decodes is the encoding of its instruction (spec/02 R42): an instruction that the decoder answers is spelled by the word.
-/

namespace Sys2Proof.Words
open Sys2Proof

/-- An instruction is written with this major and the fields that w holds. -/
def SpellsW (maj w : Nat) (i : Instr) : Prop := ∃ fs, form i = .word maj fs ∧ Holds w fs

/-- The same of an extended instruction and its extension word. -/
def SpellsE (maj w e : Nat) (i : Instr) : Prop := ∃ fs es, form i = .ext maj fs es ∧ Holds w fs ∧ Holds e es
/-- The same of a compact instruction. -/
def SpellsH (op p : Nat) (i : Instr) : Prop := ∃ fs, form i = .compact op fs ∧ Holds p fs

theorem decodeH_spells (st : Stream) (p : Nat) : ∀ i, decodeH st p = some i → SpellsH (fld p 9 5) p i := by
  unfold decodeH
  dsimp only
  split
  case isTrue h => rw [h]; simp [req]; intros; exact ⟨_, rfl, by simp [*]⟩
  case isFalse =>
    cases st <;> dsimp only <;> (try split) <;> simp_all [req] <;> intros <;> exact ⟨_, rfl, by simp [*]⟩

theorem decodeAlu_spells (w : Nat) : ∀ i, decodeAlu w = some i → SpellsW 0 w i := by
  unfold decodeAlu
  split <;> simp [aluOf, alu1Of, req] <;> intros <;> subst_vars <;> exact ⟨_, rfl, by simp [*]⟩

theorem decodeSysop_spells (w : Nat) : ∀ i, decodeSysop w = some i → SpellsW 0x2F w i := by
  simp only [decodeSysop, Option.bind_eq_some_iff, dstOf_eq_some, forall_exists_index, and_imp]
  intro i d hd
  split <;> simp <;> intros <;> subst_vars <;> exact ⟨_, rfl, by simp [*]⟩

theorem decodeAmo_spells (w : Nat) : ∀ i, decodeAmo w = some i → SpellsW 0x1B w i := by
  simp [decodeAmo, amoFOf, req, Option.bind_eq_some_iff]
  intro i sc h4 d hd hsc
  split <;> simp <;> intros <;> subst_vars <;> exact ⟨_, rfl, by simp [*]⟩

theorem decodeS_spells (maj w : Nat) : ∀ i, decodeS maj w = some i → SpellsW maj w i := by
  unfold decodeS
  split
  case h_1 => exact decodeAlu_spells w
  case h_27 => exact decodeAmo_spells w
  case h_43 => exact decodeSysop_spells w
  case h_12 =>
    split <;> rename_i h <;> simp at h <;> simp [bfOf] <;> intros <;> exact ⟨_, rfl, by simp [*]⟩
  all_goals simp [immOf, shiftOf, bfOf, brOf, loadOf, storeOf, req, Option.bind_eq_some_iff]
  all_goals intros
  all_goals subst_vars
  all_goals exact ⟨_, rfl, by simp [*]⟩

/-- The level field of LOOP holds 1 or 2 (Table 2-13). -/
theorem level_field {n : Nat} (h : n = 1 ∨ n = 2) : (if n = 2 then 2 else 1) = n := by
  rcases h with rfl | rfl <;> rfl

theorem decodeCommon_spells (st : Stream) (maj w : Nat) : ∀ i, decodeCommon st maj w = some i → SpellsW maj w i := by
  unfold decodeCommon
  dsimp only
  split
  all_goals repeat' split
  all_goals simp_all [req]
  all_goals intros
  all_goals subst_vars
  all_goals exact ⟨_, rfl, by simp [*, level_field]⟩

theorem decodeM_spells (maj w : Nat) : ∀ i, decodeM maj w = some i → SpellsW maj w i := by
  unfold decodeM
  dsimp only
  split <;> simp [req] <;> intros <;> subst_vars <;> exact ⟨_, rfl, by simp [*]⟩

theorem decodeME_spells (maj w e : Nat) : ∀ i, decodeME maj w e = some i → SpellsE maj w e i := by
  unfold decodeME
  split <;> simp [req, mopsOf, Option.bind_eq_some_iff] <;> intros <;> subst_vars <;> exact ⟨_, _, rfl, by simp [*], by simp [*]⟩

theorem mod_eq_fld (e : Nat) : e % 65536 = fld e 0 16 := by simp [fld]

theorem tileOf_spells {w e maj : Nat} (he : e < 2 ^ 16) {f : TileF → Instr} (hf : ∀ o, form (f o) = tileF maj o) :
    ∀ i, (tileOf w e).map f = some i → SpellsE maj w e i := by
  intro i hi
  obtain ⟨o, h, rfl⟩ := Option.map_eq_some_iff.1 hi
  refine ⟨_, _, hf o, ?_⟩
  simp [tileOf, req] at h
  obtain ⟨⟨h1, h2⟩, h⟩ := h
  split at h <;> simp at h
  · obtain ⟨⟨h3, rfl⟩, rfl⟩ := h
    simp [*]
  · subst h
    simp [*, mod_eq_fld]
  · obtain ⟨⟨h3, rfl⟩, rfl⟩ := h
    simp [*]

theorem decodeC_spells (maj w e : Nat) (he : e < 2 ^ 16) : ∀ i, decodeC maj w e = some i → SpellsE maj w e i := by
  unfold decodeC
  dsimp only
  split
  case h_9 | h_10 | h_11 | h_12 => exact tileOf_spells he (fun _ => rfl)
  all_goals rcases fld_one_cases w 0 with hb | hb
  all_goals simp [req, swOf, dimOf, hb]
  all_goals intros
  all_goals subst_vars
  all_goals exact ⟨_, _, rfl, by simp [*], by simp [*]⟩

/-- The low 15 and the high 16 bits of a 31-bit immediate. -/
theorem imm_high (w e : Nat) : (fld w 0 15 + fld e 0 16 * 32768) % 2147483648 / 32768 = fld e 0 16 := by
  have := fld_lt w 0 15
  have := fld_lt e 0 16
  omega

theorem decodeSE_spells (maj w e : Nat) : ∀ i, decodeSE maj w e = some i → SpellsE maj w e i := by
  unfold decodeSE
  split
  all_goals simp [req, amoFOf, Option.bind_eq_some_iff]
  all_goals intros
  all_goals subst_vars
  all_goals exact ⟨_, _, rfl, by simp [*], by simp [*, imm_high]⟩

theorem decodeV_spells (maj w : Nat) : ∀ i, decodeV maj w = some i → SpellsW maj w i := by
  unfold decodeV
  dsimp only
  split
  case h_1 =>
    simp [req]
    intro i h1 h2
    split <;> simp <;> intros <;> subst_vars <;> exact ⟨_, rfl, by simp [*]⟩
  case h_11 =>
    simp [req]
    intro i h1 h2 d hd
    split <;> intros <;> subst_vars
    · exact ⟨_, rfl, by simp [*]⟩
    · exact ⟨_, rfl, by simp [*]; omega⟩
  all_goals simp [req, v2Of, Option.bind_eq_some_iff]
  all_goals intros
  all_goals subst_vars
  all_goals exact ⟨_, rfl, by simp [*, Nat.mod_eq_of_lt]⟩

section
variable {maj fn w e : Nat}

theorem v3Of_spells {f : V3 → Instr} (hf : ∀ o, form (f o) = v3F maj fn o) (h : fld w 0 3 = fn) :
    ∀ i, (v3Of w e).map f = some i → SpellsE maj w e i := by
  simp [v3Of, Option.bind_eq_some_iff]
  intros
  subst_vars
  exact ⟨_, _, hf _, by simp [*], by simp [*]⟩

theorem v3uOf_spells {f : V3u → Instr} (hf : ∀ o, form (f o) = v3uF maj fn o) (h : fld w 0 3 = fn) :
    ∀ i, (v3uOf w e).map f = some i → SpellsE maj w e i := by
  simp [v3uOf, req, Option.bind_eq_some_iff]
  intros
  subst_vars
  exact ⟨_, _, hf _, by simp [*], by simp [*]⟩

variable {α : Type} {vOf : Nat → Option α} {enc : α → Nat}

theorem vmemOf_spells {f : VMem α → Instr} (hv : ∀ {n v}, vOf n = some v → n = enc v)
    (hf : ∀ o, form (f o) = vmemF maj (enc o.v) o) : ∀ i, (vmemOf vOf w e).map f = some i → SpellsE maj w e i := by
  simp [vmemOf, Option.bind_eq_some_iff]
  intro i v hw
  have := hv hw
  intros
  subst_vars
  exact ⟨_, _, hf _, by simp [*], by simp [mod_eq_fld]⟩

theorem vmemxOf_spells {f : VMemX α → Instr} (hv : ∀ {n v}, vOf n = some v → n = enc v)
    (hf : ∀ o, form (f o) = vmemxF maj (enc o.v) o) : ∀ i, (vmemxOf vOf w e).map f = some i → SpellsE maj w e i := by
  simp [vmemxOf, req, Option.bind_eq_some_iff]
  intro i v t x h hw
  have := hv hw
  intros
  subst_vars
  exact ⟨_, _, hf _, by simp [*], by simp [*]⟩

theorem vtileOf_holds {o : VTile α} (hv : ∀ {n v}, vOf n = some v → n = enc v) (h : vtileOf vOf w e = some o) :
    Holds w [(9, enc o.v), (5, o.slot.val), (3, o.coord.val), (4, o.sub.val), (2, o.hint.enc), (1, bitOf o.xv)]
      ∧ fld e 14 2 = o.rd.val ∧ fld e 11 3 = o.k.val := by
  obtain ⟨v, hw, rfl⟩ := Option.map_eq_some_iff.1 h
  simp [hv hw]

theorem vaccOf_holds {o : VAcc α} (hv : ∀ {n v}, vOf n = some v → n = enc v) (h : vaccOf vOf w = some o) :
    Holds w ((9, enc o.v) :: (6, o.bank.val) :: bandFs o.band ++ [(4, o.ty.enc), (2, 0)]) := by
  simp [vaccOf, req, Option.bind_eq_some_iff] at h
  obtain ⟨⟨h0, hb⟩, v, hw, t, ht, rfl⟩ := h
  rcases fld_one_cases w 6 with h6 | h6 <;> simp_all [hv hw]

end

/-- A function field that is none of 0 to 6 is 7. -/
theorem fn_seven {n : Nat} (h : n < 8) (h0 : n ≠ 0) (h1 : n ≠ 1) (h2 : n ≠ 2) (h3 : n ≠ 3) (h4 : n ≠ 4) (h5 : n ≠ 5)
    (h6 : n ≠ 6) : n = 7 := by omega

theorem decodeVE_spells (maj w e : Nat) : ∀ i, decodeVE maj w e = some i → SpellsE maj w e i := by
  have hfn := fld_lt w 0 3
  unfold decodeVE
  dsimp only
  split
  case h_1 =>
    split
    case h_6 | h_7 => exact v3uOf_spells (fun _ => rfl) ‹_›
    case h_8 => exact v3Of_spells (fun _ => rfl) (fn_seven hfn ‹_› ‹_› ‹_› ‹_› ‹_› ‹_› ‹_›)
    all_goals exact v3Of_spells (fun _ => rfl) ‹_›
  case h_2 =>
    split
    case h_4 => simp
    all_goals exact v3Of_spells (fun _ => rfl) ‹_›
  case h_3 =>
    split
    case h_6 => simp
    all_goals exact v3uOf_spells (fun _ => rfl) ‹_›
  case h_4 =>
    split
    case h_8 => exact v3Of_spells (fun _ => rfl) (fn_seven hfn ‹_› ‹_› ‹_› ‹_› ‹_› ‹_› ‹_›)
    all_goals exact v3Of_spells (fun _ => rfl) ‹_›
  case h_5 =>
    split
    case h_8 => simp
    all_goals exact v3Of_spells (fun _ => rfl) ‹_›
  case h_11 => exact vmemOf_spells vdOf_eq_some.1 fun _ => rfl
  case h_12 => exact vmemOf_spells vsrcOf_eq_some.1 fun _ => rfl
  case h_13 => exact vmemxOf_spells vdOf_eq_some.1 fun _ => rfl
  case h_14 => exact vmemxOf_spells vsrcOf_eq_some.1 fun _ => rfl
  case h_15 =>
    simp [req]
    intro i h o ho hi
    obtain ⟨hw, he⟩ := vtileOf_holds vdOf_eq_some.1 ho
    exact hi ▸ ⟨_, _, rfl, hw, by simp [h, he]⟩
  case h_16 =>
    simp [req]
    intro i h o ho hi
    obtain ⟨hw, he⟩ := vtileOf_holds vsrcOf_eq_some.1 ho
    exact hi ▸ ⟨_, _, rfl, hw, by simp [h, he]⟩
  case h_17 =>
    simp [req, Option.bind_eq_some_iff]
    intro i h o ho rm hrm hi
    exact hi ▸ ⟨_, _, rfl, vaccOf_holds vdOf_eq_some.1 ho, by simp [h, hrm]⟩
  case h_18 =>
    simp [req]
    intro i h o ho hi
    exact hi ▸ ⟨_, _, rfl, vaccOf_holds vsrcOf_eq_some.1 ho, by simp [h]⟩
  all_goals simp [req, Option.bind_eq_some_iff]
  all_goals intros
  all_goals subst_vars
  all_goals exact ⟨_, _, rfl, by simp [*], by simp [*, imm_high]⟩

theorem decodeW_spells {st : Stream} {w : Nat} {i : Instr} (h : decodeW st w = some i) : SpellsW (fld w 24 6) w i := by
  unfold decodeW at h
  dsimp only at h
  split at h
  · exact decodeCommon_spells _ _ _ i h
  · cases st with
    | s => exact decodeS_spells _ _ i h
    | v => exact decodeV_spells _ _ i h
    | m => exact decodeM_spells _ _ i h
    | c => cases h

theorem decodeE_spells {st : Stream} {w e : Nat} {i : Instr} (he : e < 2 ^ 16) (h : decodeE st w e = some i) :
    SpellsE (fld w 24 6) w e i := by
  cases st with
  | s => exact decodeSE_spells _ _ _ i h
  | v => exact decodeVE_spells _ _ _ i h
  | m => exact decodeME_spells _ _ _ i h
  | c => exact decodeC_spells _ _ _ he i h

/-! ## A word is put together again from its fields -/

theorem encH_fields {p : Parcel} (h : p.toNat / 2 ^ 14 = 0) : encH (fld p.toNat 9 5) (p.toNat % 2 ^ 9) = [p] := by
  refine congrArg (fun x => [x]) (BitVec.eq_of_toNat_eq ?_)
  simp only [BitVec.toNat_ofNat, Nat.shiftLeft_eq, fld]
  omega

/-- Both parcels of a word of class c, from its major and its fields. -/
theorem word_of_fields {p0 p1 : Parcel} {cls c : Nat} (hc : cls = c * 2 ^ 14) (h : p0.toNat / 2 ^ 14 = c) :
    let w := p0.toNat * 2 ^ 16 + p1.toNat
    BitVec.ofNat 16 (cls + fld w 24 6 <<< 8 + w % 2 ^ 24 / 2 ^ 16) = p0 ∧ BitVec.ofNat 16 (w % 2 ^ 24 % 2 ^ 16) = p1 := by
  have h1 := p1.isLt
  constructor <;> refine BitVec.eq_of_toNat_eq ?_ <;> simp only [BitVec.toNat_ofNat, Nat.shiftLeft_eq, fld] <;> omega

theorem encW_fields {p0 p1 : Parcel} (h : p0.toNat / 2 ^ 14 = 1) :
    let w := p0.toNat * 2 ^ 16 + p1.toNat
    encW (fld w 24 6) (w % 2 ^ 24) = [p0, p1] := by
  have ⟨h0, h1⟩ := word_of_fields (p1 := p1) (cls := 2 ^ 14) rfl h
  simp only [encW, h0, h1]

theorem encE_fields {p0 p1 p2 : Parcel} (h : p0.toNat / 2 ^ 14 = 2) :
    let w := p0.toNat * 2 ^ 16 + p1.toNat
    encE (fld w 24 6) (w % 2 ^ 24) p2.toNat = [p0, p1, p2] := by
  have ⟨h0, h1⟩ := word_of_fields (p1 := p1) (cls := 2 ^ 15) rfl h
  simp only [encE, h0, h1, BitVec.ofNat_toNat, BitVec.setWidth_eq]

theorem encode_of_spellsH {op p : Nat} {i : Instr} : SpellsH op p i → encode i = encH op (p % 2 ^ 9)
  | ⟨fs, hf, h⟩ => by
    have hok := form_ok i
    rw [hf] at hok
    rw [encode_eq_parcels, hf, Form.parcels, pack_of_holds h, hok.2.1]

theorem encode_of_spellsW {maj w : Nat} {i : Instr} : SpellsW maj w i → encode i = encW maj (w % 2 ^ 24)
  | ⟨fs, hf, h⟩ => by
    have hok := form_ok i
    rw [hf] at hok
    rw [encode_eq_parcels, hf, Form.parcels, pack_of_holds h, hok.2.1]

theorem encode_of_spellsE {maj w e : Nat} {i : Instr} (he : e < 2 ^ 16) :
    SpellsE maj w e i → encode i = encE maj (w % 2 ^ 24) e
  | ⟨fs, es, hf, h, hes⟩ => by
    have hok := form_ok i
    rw [hf] at hok
    obtain ⟨_, hw, _, hwe, _⟩ := hok
    rw [encode_eq_parcels, hf, Form.parcels, pack_of_holds h, pack_of_holds hes, hw, hwe, Nat.mod_eq_of_lt he]

theorem checked_ok {st : Stream} {m n : Nat} {err : DecErr} {o : Option Instr} {i : Instr} (h : checked st m err o = .ok (i, n)) :
    o = some i ∧ i.wf st = true ∧ n = m := by
  cases o with
  | none => cases h
  | some j =>
    unfold checked at h
    dsimp only at h
    split at h
    · next hw => cases h; exact ⟨rfl, hw, rfl⟩
    · cases h

theorem encode_header_of_parcels {p0 p1 : Parcel} (h : p0.toNat / 2 ^ 14 = 3) :
    encode (.blockHeaderEntry (BitVec.ofNat 30 (p0.toNat * 2 ^ 16 + p1.toNat))) = [p0, p1] := by
  have h1 := p1.isLt
  refine congrArg₂ (fun x y => [x, y]) (BitVec.eq_of_toNat_eq ?_) (BitVec.eq_of_toNat_eq ?_)
  all_goals simp only [BitVec.toNat_ofNat, Nat.shiftLeft_eq]
  all_goals omega

theorem decoded_is_encoded {st : Stream} {ps : List Parcel} {i : Instr} {n : Nat} (h : decode st ps = .ok (i, n)) :
    i.wf st = true ∧ encode i = ps.take n ∧ n ≤ ps.length := by
  match ps with
  | [] => cases h
  | p0 :: rest =>
    have hc : p0.toNat / 2 ^ 14 = 0 ∨ p0.toNat / 2 ^ 14 = 1 ∨ p0.toNat / 2 ^ 14 = 2 ∨ p0.toNat / 2 ^ 14 = 3 := by
      have := p0.isLt
      omega
    rcases hc with hc | hc | hc | hc
    · rw [decode_compact hc] at h
      obtain ⟨hd, hw, rfl⟩ := checked_ok h
      exact ⟨hw, (encode_of_spellsH (decodeH_spells _ _ i hd)).trans (encH_fields hc), by simp⟩
    · match rest with
      | [] => unfold decode at h; simp only [hc] at h; cases h
      | p1 :: rest =>
        rw [decode_word hc] at h
        obtain ⟨hd, hw, rfl⟩ := checked_ok h
        exact ⟨hw, (encode_of_spellsW (decodeW_spells hd)).trans (encW_fields hc), by simp⟩
    · match rest with
      | [] => unfold decode at h; simp only [hc] at h; cases h
      | [_] => unfold decode at h; simp only [hc] at h; cases h
      | p1 :: p2 :: rest =>
        rw [decode_ext hc] at h
        obtain ⟨hd, hw, rfl⟩ := checked_ok h
        exact ⟨hw, (encode_of_spellsE p2.isLt (decodeE_spells p2.isLt hd)).trans (encE_fields hc), by simp⟩
    · match rest with
      | [] => unfold decode at h; simp only [hc] at h; cases h
      | p1 :: rest =>
        rw [decode_header hc] at h
        cases h
        exact ⟨rfl, encode_header_of_parcels hc, by simp⟩

/-- Settles O55: each table of the decoder leaves an instruction whose form's fields are those of the word, reserved ones zero. -/
theorem everyDecodedWordIsTheEncodingOfItsInstruction : Obligations.EveryDecodedWordIsTheEncodingOfItsInstruction := by
  unfold Obligations.EveryDecodedWordIsTheEncodingOfItsInstruction
  exact fun _ _ _ _ h => decoded_is_encoded h

end Sys2Proof.Words
end

section
/-!
PROOFS. Where streams go on (spec/02 R35 to R41, spec/04 R104, R105, spec/08 R219 to R224): what moving on, jumping and ending a
block change, the ends of loop levels and of bodies, branch targets, LOOP, TKSEND and the waits.
-/

namespace Sys2Proof.Control
open Sys2Proof Sys2Proof.Machine Sys2Proof.Laws Sys2Proof.Claim

/-! ## What a change of one task leaves -/

/-- What a reader gets of memory depends on the bytes, their keys and the free values alone. -/
theorem byteK_congr {s s' : State} (hm : s'.mem = s.mem) (hk : s'.memKey = s.memKey) (hf : s'.free = s.free) (key a : Nat) :
    s'.byteK key a = s.byteK key a := by
  unfold State.byteK
  rw [hm, hk, hf]

/-- A core but for its tasks is untouched by a change of a task. -/
theorem core_modTask_but_slots (s : State) (c l : Nat) (f : Task → Task) (b : Nat) :
    { (s.modTask c l f).core b with slots := (s.core b).slots } = s.core b := by
  unfold State.modTask
  split
  · by_cases h : b = c
    · subst h; simp [State.setTask]
    · simp [State.setTask, core_modCore_other s h]
  · rfl

theorem modTask_but_cores (s : State) (c l : Nat) (f : Task → Task) : { s.modTask c l f with cores := s.cores } = s := by
  unfold State.modTask
  split <;> rfl

/-- A change of the issuing task is what it makes of that task. -/
theorem modCur_congr {s : State} {t : Task} (h : s.curTask = some t) {f g : Task → Task} (e : f t = g t) :
    s.modCur f = s.modCur g := by
  simp only [State.curTask] at h
  simp only [State.modCur, State.modTask, h, e]

theorem parcel_modTask (s : State) (c l : Nat) (f : Task → Task) (b p : Nat) :
    ((s.modTask c l f).core b).parcel p = (s.core b).parcel p := by
  have h := congrArg Core.imem (core_modTask_but_slots s c l f b)
  exact congrArg (mget p 0) h

theorem modSt_but_strm (t : Task) (k : Stream) (f : StreamCtx → StreamCtx) : { t.modSt k f with strm := t.strm } = t := rfl

/-! ## The issue charge -/

theorem charge_but_accts (s : State) (b n : Nat) : { s.charge b n with accts := s.accts } = s := by
  unfold State.charge
  split <;> rfl

theorem accts_charge (s : State) (b n a : Nat) :
    mfind a (s.charge b n).accts = (mfind a s.accts).map (fun x => if a = b then { x with charge := x.charge + n } else x) := by
  unfold State.charge
  split
  case h_1 h =>
    by_cases e : a = b
    · subst e; simp [h]
    · simp [e]
  case h_2 x h =>
    by_cases e : a = b
    · subst e; simp [h, mfind_mset_same]
    · simp [e, mfind_mset_other]

/-- In the S stream an instruction charges one unit to its task's account, in the others none (R288). -/
theorem chargeIssue_eq {s : State} {t : Task} (h : s.curTask = some t) :
    s.chargeIssue = if s.cur.stream = .s then s.charge t.cr.lacct.toNat 1 else s := by
  simp [State.chargeIssue, State.chargeCur, h]

theorem chargeIssue_but_accts (s : State) : { s.chargeIssue with accts := s.accts } = s := by
  unfold State.chargeIssue State.chargeCur
  split
  · split
    · rfl
    · exact charge_but_accts ..
  · rfl

theorem accts_chargeIssue {s : State} {t : Task} (h : s.curTask = some t) (a : Nat) :
    mfind a s.chargeIssue.accts = (mfind a s.accts).map (fun x =>
      if s.cur.stream = .s ∧ a = t.cr.lacct.toNat then { x with charge := x.charge + 1 } else x) := by
  rw [chargeIssue_eq h]
  by_cases hs : s.cur.stream = .s
  · simp [hs, accts_charge]
  · simp [hs]

/-! ## A change of the issuing stream's context alone (R41, R219) -/

theorem onlyContext_modSt {s : State} {t : Task} (h : s.curTask = some t) (f : StreamCtx → StreamCtx) :
    OnlyContext s (s.chargeIssue.modSt f) t f := by
  have hc : s.chargeIssue.curTask = some t := by rw [curTask_chargeIssue, h]
  have hcore : ∀ c, s.chargeIssue.core c = s.core c := fun c => congrArg (mget c Core.reset) (cores_chargeIssue s)
  refine ⟨⟨t.modSt s.cur.stream f, ?_, st_modSt_same .., fun k hk => st_modSt_other t hk f, modSt_but_strm ..⟩,
    fun c l hcl => ?_, fun c => ?_, fun a => ?_, ?_, fun key a => byteK_congr (by simp) (by simp) (by simp) key a⟩
  · simpa using curTask_modSt hc f
  · rw [← task_chargeIssue s c l]
    exact task_modTask_other _ (by simpa using hcl) _
  · rw [← hcore c]
    exact core_modTask_but_slots ..
  · rw [modSt_accts]
    exact accts_chargeIssue h a
  · have hm := modTask_but_cores s.chargeIssue s.chargeIssue.cur.core.val s.chargeIssue.cur.slot.val
      (fun u => u.modSt s.chargeIssue.cur.stream f)
    have := congrArg (fun x : State => { x with cores := s.cores, accts := s.accts }) hm
    refine this.trans ?_
    have := congrArg (fun x : State => { x with cores := s.cores }) (chargeIssue_but_accts s)
    exact this

/-- Settles O8: each of the three is the issue charge and a change of the issuing context. -/
theorem controlFrame : Obligations.ControlFrame := by
  unfold Obligations.ControlFrame
  intro s t h
  refine ⟨fun n => onlyContext_modSt h _, fun n a => onlyContext_modSt h _, fun p s' hj => ?_⟩
  cases hj
  exact onlyContext_modSt h _

/-! ## Loop and block ends (R35, R37, R40) -/

theorem dropCount_eq_zero {c : Word32} (h : c.toNat ≤ 1) : dropCount c = 0 := by
  unfold dropCount
  split
  · rfl
  · bv_omega

theorem dropCount_of_two_le {c : Word32} (h : 2 ≤ c.toNat) : dropCount c = c - 1 ∧ c - 1 ≠ 0 := by
  unfold dropCount
  split
  · bv_omega
  · exact ⟨rfl, by bv_omega⟩

/-- Nothing ends at the pc. -/
theorem settle_within {x : StreamCtx} (n : Nat) (h1 : endsAt x.l1 x.pc = none) (h2 : endsAt x.l2 x.pc = none)
    (hb : x.pc ≠ x.blkEnd) : StreamCtx.settle n x = x := by
  cases n with
  | zero => rfl
  | succ n => simp [StreamCtx.settle, h1, h2, hb]

/-- Only the body ends at the pc. -/
theorem settle_body {x : StreamCtx} (n : Nat) (h1 : endsAt x.l1 x.pc = none) (h2 : endsAt x.l2 x.pc = none)
    (hb : x.pc = x.blkEnd) : StreamCtx.settle (n + 1) x = x.endRepeat := by
  simp only [StreamCtx.settle, h1, h2, if_pos hb]

/-- Level 1 ends at the pc, and level 2 does not or is the outer one. -/
theorem settle_level1 {x : StreamCtx} {b : BitVec 17} (n : Nat) (h1 : endsAt x.l1 x.pc = some b)
    (h2 : ∀ b2, endsAt x.l2 x.pc = some b2 → b2.toNat < b.toNat) :
    StreamCtx.settle (n + 1) x = if dropCount x.lc1 = 0 then StreamCtx.settle n { x with lc1 := dropCount x.lc1, l1 := none }
      else { x with lc1 := dropCount x.lc1, pc := b } := by
  cases he : endsAt x.l2 x.pc with
  | none => simp only [StreamCtx.settle, h1, he]
  | some b2 => simp only [StreamCtx.settle, h1, he, if_neg (Nat.not_le.2 (h2 b2 he))]

/-- Level 2 ends at the pc, and level 1 does not or is the outer one. -/
theorem settle_level2 {x : StreamCtx} {b : BitVec 17} (n : Nat) (h2 : endsAt x.l2 x.pc = some b)
    (h1 : ∀ b1, endsAt x.l1 x.pc = some b1 → b1.toNat ≤ b.toNat) :
    StreamCtx.settle (n + 1) x = if dropCount x.lc2 = 0 then StreamCtx.settle n { x with lc2 := dropCount x.lc2, l2 := none }
      else { x with lc2 := dropCount x.lc2, pc := b } := by
  cases he : endsAt x.l1 x.pc with
  | none => simp only [StreamCtx.settle, h2, he]
  | some b1 => simp only [StreamCtx.settle, h2, he, if_pos (h1 b1 he)]

/-- Level 1 ends with a pass left, and level 2 does not end there or is the outer one. -/
theorem settle_level1_again {x : StreamCtx} {b : BitVec 17} (n : Nat) (h1 : endsAt x.l1 x.pc = some b)
    (h2 : ∀ b2, endsAt x.l2 x.pc = some b2 → b2.toNat < b.toNat) (hc : 2 ≤ x.lc1.toNat) :
    StreamCtx.settle (n + 1) x = { x with pc := b, lc1 := x.lc1 - 1 } := by
  obtain ⟨hd, hn⟩ := dropCount_of_two_le hc
  rw [settle_level1 n h1 h2, hd, if_neg hn]

theorem settle_level1_last {x : StreamCtx} {b : BitVec 17} (n : Nat) (h1 : endsAt x.l1 x.pc = some b)
    (h2 : endsAt x.l2 x.pc = none) (hc : x.lc1.toNat ≤ 1) (hb : x.pc ≠ x.blkEnd) :
    StreamCtx.settle (n + 1) x = { x with lc1 := 0, l1 := none } := by
  rw [settle_level1 n h1 (by simp [h2]), dropCount_eq_zero hc, if_pos rfl]
  exact settle_within n rfl h2 hb

/-- Level 2 ends with a pass left, and level 1 does not end there or is the outer one. -/
theorem settle_level2_again {x : StreamCtx} {b : BitVec 17} (n : Nat) (h2 : endsAt x.l2 x.pc = some b)
    (h1 : ∀ b1, endsAt x.l1 x.pc = some b1 → b1.toNat ≤ b.toNat) (hc : 2 ≤ x.lc2.toNat) :
    StreamCtx.settle (n + 1) x = { x with pc := b, lc2 := x.lc2 - 1 } := by
  obtain ⟨hd, hn⟩ := dropCount_of_two_le hc
  rw [settle_level2 n h2 h1, hd, if_neg hn]

theorem settle_level2_last {x : StreamCtx} {b : BitVec 17} (n : Nat) (h2 : endsAt x.l2 x.pc = some b)
    (h1 : endsAt x.l1 x.pc = none) (hc : x.lc2.toNat ≤ 1) (hb : x.pc ≠ x.blkEnd) :
    StreamCtx.settle (n + 1) x = { x with lc2 := 0, l2 := none } := by
  rw [settle_level2 n h2 (by simp [h1]), dropCount_eq_zero hc, if_pos rfl]
  exact settle_within n h1 rfl hb

theorem endRepeat_again {x : StreamCtx} (h : 2 ≤ x.lc0.toNat) :
    x.endRepeat = { x with pc := x.blk + 2, lc0 := x.lc0 - 1, l1 := none, l2 := none } := by
  obtain ⟨hd, hn⟩ := dropCount_of_two_le h
  simp only [StreamCtx.endRepeat, hd, if_neg hn]

theorem endRepeat_last {x : StreamCtx} (h : x.lc0.toNat ≤ 1) :
    x.endRepeat = { x with lc0 := 0, phase := .draining .header, l1 := none, l2 := none } := by
  simp [StreamCtx.endRepeat, dropCount_eq_zero h, StreamCtx.endBlock]

/-- Settles O9: the cases of `settle` at the pc that the context has moved to. -/
theorem loopAndBlockEnds : Obligations.LoopAndBlockEnds := by
  unfold Obligations.LoopAndBlockEnds StreamCtx.advance
  intro x n
  have only : ∀ {l : Option (BitVec 17 × BitVec 17)} {p b c : BitVec 17}, endsAt l p = some b → endsAt l p = some c → c = b :=
    fun hb hc => Option.some.inj (hc.symm.trans hb)
  refine ⟨fun h1 h2 hb => settle_within 3 h1 h2 hb,
    fun b h1 h2 hc => settle_level1_again 2 h1 (fun _ h => nomatch h2.symm.trans h) hc,
    fun b h1 h2 hc hb => settle_level1_last 2 h1 h2 hc hb,
    fun b h2 h1 hc => settle_level2_again 2 h2 (fun _ h => nomatch h1.symm.trans h) hc,
    fun b h2 h1 hc hb => settle_level2_last 2 h2 h1 hc hb,
    fun b1 b2 h1 h2 hle hc => settle_level2_again 2 h2 (fun _ h => only h1 h ▸ hle) hc,
    fun b1 b2 h1 h2 hlt hc => settle_level1_again 2 h1 (fun _ h => only h2 h ▸ hlt) hc,
    fun h1 h2 hb hc => (settle_body 2 h1 h2 hb).trans (endRepeat_again hc),
    fun h1 h2 hb hc => (settle_body 2 h1 h2 hb).trans (endRepeat_last hc)⟩

/-! ## Branches and their targets (R41, R104, R105) -/

theorem nbits_top (w : Parcel) : nbits w.toNat 15 14 = w.toNat / 2 ^ 14 := by
  have := w.isLt
  unfold nbits
  omega

theorem targetFault_cases (s : State) (c : Nat) (t : Task) (k : Stream) (p : Int) :
    let r := imageRange s t
    let here := (r.1 : Int) ≤ p ∧ p < ((r.1 + r.2 : Nat) : Int)
    let w := ((s.core c).parcel p.toNat).toNat
    targetFault s c t k p = if here ∧ w / 2 ^ 14 = 3 then (if w / 2 ^ 12 % 4 = k.code then none else some fIllegalStream)
      else some fIllegalTarget := by
  intro r here w
  have hh : (p < (r.1 : Int) ∨ p ≥ ((r.1 + r.2 : Nat) : Int)) ↔ ¬ here := by
    simp only [here]
    omega
  have hw : nbits w 15 14 = w / 2 ^ 14 := nbits_top _
  have hk : nbits w 13 12 = w / 2 ^ 12 % 4 := rfl
  change (if p < (r.1 : Int) ∨ p ≥ ((r.1 + r.2 : Nat) : Int) then some fIllegalTarget
    else if nbits w 15 14 ≠ 3 then some fIllegalTarget else if nbits w 13 12 ≠ k.code then some fIllegalStream else none) = _
  simp only [hw, hk, hh]
  generalize w / 2 ^ 14 = cls, w / 2 ^ 12 % 4 = tag
  by_cases h : here
  · by_cases h3 : cls = 3 <;> simp [h, h3]
  · simp [h]

/-- The target check reads the images and the IMEM alone. -/
theorem targetFault_modCur (s : State) (f : Task → Task) (c : Nat) (t : Task) (k : Stream) (p : Int) :
    targetFault (s.modCur f) c t k p = targetFault s c t k p := by
  have hi : imageRange (s.modCur f) t = imageRange s t := by simp only [imageRange, modCur_images]
  have hp : ∀ q, ((s.modCur f).core c).parcel q = (s.core c).parcel q := parcel_modTask s _ _ _ c
  simp only [targetFault, hi, hp]

theorem branchTo_good {s : State} {t : Task} {p : Int} (h : GoodTarget s t p) :
    Host.Outcome.next (s.branchTo t p) = jumped s p := by
  unfold GoodTarget at h
  simp only [State.branchTo, h]
  rfl

theorem jumpTo_good {s : State} {t : Task} {v : Word64} (hv : v.toNat < 2 ^ 17) (h : GoodTarget s t v.toNat) :
    Host.Outcome.next (jumpTo t v s) = jumped s v.toNat := by
  simp only [jumpTo, if_neg (Nat.not_le.2 hv)]
  exact branchTo_good h

theorem jumpTo_far {s : State} {t : Task} {v : Word64} (hv : 2 ^ 17 ≤ v.toNat) : jumpTo t v s = s.takeFault fIllegalTarget 0 :=
  if_pos hv

theorem exec_br {s : State} {t : Task} (h : s.curTask = some t) (off : BitVec 24)
    (hg : GoodTarget s t (s.curSt.pc.toNat + off.toInt)) : exec (.br off) s = jumped s (s.curSt.pc.toNat + off.toInt) :=
  (onTask_some h _).trans (branchTo_good hg)

/-- CALL to a good target is BR from the state whose S15 holds the link. -/
theorem exec_call {s : State} {t : Task} (h : s.curTask = some t) (hs : s.cur.stream = .s) (off : BitVec 24)
    (hd : t.dstReady (.s 15) = true) (hg : GoodTarget s t (s.curSt.pc.toNat + off.toInt)) :
    exec (.call off) s =
      jumped (s.modCur (fun u => u.setSreg 15 (BitVec.ofNat 64 (s.curSt.pc + 2).toNat))) (s.curSt.pc.toNat + off.toInt) := by
  have hg' : GoodTarget (s.modCur (fun u => u.setSreg 15 (BitVec.ofNat 64 (s.curSt.pc + 2).toNat))) t
      (s.curSt.pc.toNat + off.toInt) := by
    unfold GoodTarget
    rw [modCur_cur, targetFault_modCur]
    exact hg
  unfold GoodTarget at hg
  rw [hs] at hg
  refine (onTask_some h _).trans ?_
  rw [← branchTo_good hg']
  simp only [hd, hg, Bool.not_true, if_neg Bool.false_ne_true, BitVec.ofNat_toNat]

/-- Settles O7: the target check by its three tests, and each jump as a branch to its address. -/
theorem jumpsAndTargetChecks : Obligations.JumpsAndTargetChecks := by
  unfold Obligations.JumpsAndTargetChecks
  refine ⟨fun s c t k p => ?_, fun s t h => ⟨fun off => exec_br h off, fun hs => ⟨fun off hg hd => exec_call h hs off hd hg, ?_, ?_, ?_⟩⟩⟩
  case refine_1 =>
    have hne : fIllegalStream ≠ fIllegalTarget := by decide
    intro r here w
    rw [targetFault_cases]
    change (ite (here ∧ w / 2 ^ 14 = 3) (if w / 2 ^ 12 % 4 = k.code then none else some fIllegalStream) (some fIllegalTarget) = none
      ↔ _) ∧ (ite (here ∧ w / 2 ^ 14 = 3) (if w / 2 ^ 12 % 4 = k.code then none else some fIllegalStream) _ = _ ↔ _)
      ∧ (ite (here ∧ w / 2 ^ 14 = 3) (if w / 2 ^ 12 % 4 = k.code then none else some fIllegalStream) _ = _ ↔ _)
    generalize w / 2 ^ 14 = cls, w / 2 ^ 12 % 4 = tag
    by_cases hh : here ∧ cls = 3
    · obtain ⟨h1, h2⟩ := hh
      by_cases hk : tag = k.code <;> simp [h1, h2, hk, hne]
    · rw [if_neg hh]
      simp [hh, hne.symm, ← and_assoc]
  case refine_2 =>
    intro hr hv hg
    exact (onTask_some h _).trans (by simp only [hr, if_true, jumpTo_good hv hg])
  case refine_3 =>
    intro a hr hv hg
    exact (onTask_some h _).trans (by simp only [hr, if_true, jumpTo_good hv hg])
  case refine_4 =>
    intro a hr hv
    exact (onTask_some h _).trans (by simp only [hr, if_true, jumpTo_far hv])

/-! ## LOOP (R40) -/

theorem openLoop_fits {s : State} {lvl2 : Bool} {len : BitVec 9} (h : LoopFits s lvl2 len) (n : Word32) :
    Host.Outcome.next (openLoop lvl2 len n s) = loops s lvl2 len n := by
  obtain ⟨hl, hpc, hlt, hlen, hb, h1, h2⟩ := h
  have hoff : s.curSt.pc + 2 - s.curSt.blk - 2 = s.curSt.pc - s.curSt.blk := by bv_omega
  have hend : (s.curSt.pc + 2 + len.setWidth 17 - s.curSt.blk).toNat = (s.curSt.pc - s.curSt.blk).toNat + 2 + len.toNat := by
    bv_omega
  unfold openLoop
  extract_lets x b e off inside
  have inside_of : ∀ l, (∀ b' e', l = some (b', e') → (x.pc - x.blk).toNat + 2 + len.toNat ≤ (e' - x.blk).toNat) →
      inside l = true := by
    rintro (_ | ⟨b', e'⟩) h
    · rfl
    · exact decide_eq_true (hend ▸ h b' e' rfl)
  have hfits : ((if lvl2 then x.l2 else x.l1).isSome || !boundaryAt x.lbuf (off + len.toNat) len.toNat off
      || !decide (off + len.toNat ≤ hdrLen x.hdr) || !inside x.l1 || !inside x.l2) = false := by
    have ho : off = (x.pc - x.blk).toNat := congrArg BitVec.toNat hoff
    rw [ho, inside_of x.l1 h1, inside_of x.l2 h2, hb, decide_eq_true hlen, hl]
    rfl
  rw [hfits, if_neg Bool.false_ne_true]
  unfold loops
  split
  · rfl
  · cases lvl2 <;> rfl

theorem openLoop_active {s : State} {lvl2 : Bool} (h : (if lvl2 then s.curSt.l2 else s.curSt.l1) ≠ none) (len : BitVec 9)
    (n : Word32) : openLoop lvl2 len n s = s.takeFault fIllegalInsn 0 := by
  simp only [openLoop, Option.isSome_iff_ne_none.2 h, Bool.true_or, if_true]

/-! ## TKSEND and the waits (R220, R222, R223) -/

theorem exec_tksend_sends {s : State} {t : Task} (h : s.curTask = some t) (j : Stream) (n : Fin 16)
    (hd : effectsDone s t s.cur.stream (t.st s.cur.stream).blkId = true) (hr : (t.fifo s.cur.stream j).length + n.val ≤ 15) :
    exec (.tksend j n) s = .next ((s.modCur (fun u => u.setFifo s.cur.stream j
      (u.fifo s.cur.stream j ++ List.replicate n.val (newTok s t s.cur.stream)))).finish 2) := by
  refine (onTask_some h _).trans ?_
  have hroom : t.room s.cur.stream j n.val = true := decide_eq_true hr
  simp only [hd, hroom, Bool.and_self, if_true]
  exact congrArg (fun s' : State => Host.Outcome.next (s'.finish 2)) (modCur_congr h rfl)

theorem exec_tksend_waits {s : State} {t : Task} (h : s.curTask = some t) (j : Stream) (n : Fin 16)
    (hr : 15 < (t.fifo s.cur.stream j).length + n.val) : exec (.tksend j n) s = .next s := by
  refine (onTask_some h _).trans ?_
  have hroom : t.room s.cur.stream j n.val = false := decide_eq_false (Nat.not_le.2 hr)
  simp only [hroom, Bool.and_false, if_neg Bool.false_ne_true]

theorem waitGen_misaligned (t : Task) {va : Word64} (g : Word64) (s : State) (h : va.toNat % 16 ≠ 0) :
    waitGen t va g s = s.takeFault fAlign va := if_pos h

/-- WAIT.gen of an aligned address whose page is known. -/
theorem waitGen_reaches {t : Task} {va : Word64} (g : Word64) {s : State} {l : Leaf} {pa : Nat} (h : va.toNat % 16 = 0)
    (hx : xlate s s.curDie t.pav va.toNat .read = .ok l pa) :
    waitGen t va g s = if l.cls ≠ .coh then s.takeFault fSyncClass va
      else s.endBlockWith 2 (.wait (.gen va pa (g.setWidth 32) none)) := by
  simp only [waitGen, h, ne_eq, not_true, if_false, hx]

/-- Settles O12: LOOP by whether it fits, TKSEND by its room, and WAIT.gen by what its address reaches; the rest end the block. -/
theorem loopsTokensAndBlockEnds : Obligations.LoopsTokensAndBlockEnds := by
  unfold Obligations.LoopsTokensAndBlockEnds
  refine ⟨fun s t lvl2 len h => ⟨fun hf => ⟨fun c => ?_, fun a ha => ?_, fun a => ?_⟩, fun hl c => ?_⟩,
    fun s t h => ⟨exec_tksend_sends h, exec_tksend_waits h, fun j n => onTask_some h _, onTask_some h _, onTask_some h _,
      onTask_some h _, fun va g i hi => ?_⟩⟩
  · exact (onTask_some h _).trans (openLoop_fits hf _)
  · refine (onTask_some h _).trans ?_
    rw [if_pos ha]
    exact openLoop_fits hf _
  · exact (onTask_some h _).trans (openLoop_fits hf _)
  · exact (onTask_some h _).trans (congrArg Host.Outcome.next (openLoop_active hl len _))
  · have hw : exec i s = .next (waitGen t va g s) := by
      rcases hi with ⟨a, b, rfl, hr, rfl, rfl⟩ | ⟨a, b, rfl, rfl, rfl⟩
      · exact (onTask_some h _).trans (by rw [if_pos hr])
      · exact onTask_some h _
    rw [hw]
    refine ⟨fun hm => by rw [waitGen_misaligned t g s hm], fun l pa ha hx => ?_⟩
    rw [waitGen_reaches g ha hx]
    exact ⟨fun hc => by rw [if_neg (not_not.2 hc)], fun hc => by rw [if_pos hc]⟩

end Sys2Proof.Control
end

section
/-!
PROOFS. Blocks (spec/02 R32 to R36, spec/08 R221, R224, R230, spec/11 R285): what the token FIFOs hold after tokens leave and
enter them, the context and the engine after an entry, and where a stream stands when its block is complete.
-/

namespace Sys2Proof.Blocks
open Sys2Proof Sys2Proof.Machine Sys2Proof.Laws Sys2Proof.Claim Sys2Proof.Control

/-! ## Token FIFOs (R32) -/

theorem code_lt (k : Stream) : k.code < 4 := by cases k <;> decide

theorem code_inj {j k : Stream} (h : j.code = k.code) : j = k := by cases j <;> cases k <;> simp_all [Stream.code]

theorem fifoIndex_inj {i j a b : Stream} (h : fifoIndex a b = fifoIndex i j) : a = i ∧ b = j := by
  have hb := code_lt b
  have hj := code_lt j
  unfold fifoIndex at h
  exact ⟨code_inj (by omega), code_inj (by omega)⟩

theorem fifo_setFifo (t : Task) (i j a b : Stream) (l : List Tok) :
    (t.setFifo i j l).fifo a b = if a = i ∧ b = j then l else t.fifo a b := by
  split
  case isTrue h => obtain ⟨rfl, rfl⟩ := h; simp [Task.fifo, Task.setFifo]
  case isFalse h => exact mget_mset_other (fun e => h (fifoIndex_inj e)) ..

/-! ## Tokens taken (R32, R36) -/

/-- A task that has only learned the order of some tokens: its FIFOs and scalar registers are those of t, and its contexts but for
what they have seen. -/
structure Learned (t u : Task) : Prop where
  s : u.s = t.s
  q : u.q = t.q
  toks : u.toks = t.toks
  st : ∀ k, ∃ sn, u.st k = { t.st k with seen := sn }

theorem Learned.refl (t : Task) : Learned t t := ⟨rfl, rfl, rfl, fun k => ⟨(t.st k).seen, rfl⟩⟩

theorem Learned.trans {t u v : Task} (h1 : Learned t u) (h2 : Learned u v) : Learned t v := by
  refine ⟨h2.s.trans h1.s, h2.q.trans h1.q, h2.toks.trans h1.toks, fun k => ?_⟩
  obtain ⟨a, ha⟩ := h1.st k
  obtain ⟨b, hb⟩ := h2.st k
  exact ⟨b, by rw [hb, ha]⟩

theorem learned_modSt_seen (t : Task) (j : Stream) (f : StreamCtx → List Nat) :
    Learned t (t.modSt j (fun x => { x with seen := f x })) := by
  refine ⟨rfl, rfl, rfl, fun k => ?_⟩
  by_cases h : k = j
  · subst h; exact ⟨f (t.st k), st_modSt_same ..⟩
  · exact ⟨(t.st k).seen, st_modSt_other t h _⟩

theorem learned_observe (t : Task) (i j : Stream) (x : Tok) : Learned t (t.observe i j x) := by
  have h := learned_modSt_seen t j (fun y => seenBoth y.seen x.seen)
  have hkeep : ∀ (u : Task), u.s = (t.modSt j (fun y => { y with seen := seenBoth y.seen x.seen })).s → u.q = t.q → u.toks = t.toks →
      u.strm = (t.modSt j (fun y => { y with seen := seenBoth y.seen x.seen })).strm → Learned t u := by
    intro u hs hq ht hst
    exact ⟨hs, hq, ht, fun k => by simpa [Task.st, hst] using h.st k⟩
  unfold Task.observe
  dsimp only
  repeat' split
  all_goals exact hkeep _ rfl rfl rfl rfl

theorem learned_foldl_observe (i j : Stream) (l : List Tok) (t : Task) :
    Learned t (l.foldl (fun t x => t.observe i j x) t) := by
  induction l generalizing t with
  | nil => exact Learned.refl t
  | cons x l ih => exact (learned_observe t i j x).trans (ih _)

/-- Of the registers and contexts, popping changes only what the contexts have seen. -/
theorem learned_popToks (t : Task) (i j : Stream) (n : Nat) : Learned (t.setFifo i j ((t.fifo i j).drop n)) (t.popToks i j n) :=
  learned_foldl_observe i j _ _

theorem fifo_of_toks {t u : Task} (h : u.toks = t.toks) (a b : Stream) : u.fifo a b = t.fifo a b := by
  unfold Task.fifo
  rw [h]

theorem fifo_popToks (t : Task) (i j a b : Stream) (n : Nat) :
    (t.popToks i j n).fifo a b = if a = i ∧ b = j then (t.fifo i j).drop n else t.fifo a b := by
  rw [fifo_of_toks (learned_popToks t i j n).toks, fifo_setFifo]

/-- Tokens taken from some FIFOs into stream k, as many as f says of each. -/
def popAll (k : Stream) (f : Stream → Nat) (l : List Stream) (t : Task) : Task :=
  (l.map (fun i => (i, f i))).foldl (fun u p => u.popToks p.1 k p.2) t

theorem fifo_popAll (k : Stream) (f : Stream → Nat) {l : List Stream} (hl : l.Nodup) (t : Task) (i : Stream) :
    (popAll k f l t).fifo i k = if i ∈ l then (t.fifo i k).drop (f i) else t.fifo i k := by
  induction l generalizing t with
  | nil => rfl
  | cons a l ih =>
    obtain ⟨ha, hl⟩ := List.nodup_cons.1 hl
    refine (ih hl (t.popToks a k (f a))).trans ?_
    rw [fifo_popToks]
    by_cases h : i = a
    · subst h; simp [ha]
    · simp [h]

/-- Popping leaves the scalar registers, and the contexts but for what they have seen. -/
theorem popAll_keeps (k : Stream) (f : Stream → Nat) (l : List Stream) (t : Task) :
    (popAll k f l t).s = t.s ∧ (popAll k f l t).q = t.q ∧ ∀ j, ∃ sn, (popAll k f l t).st j = { t.st j with seen := sn } := by
  induction l generalizing t with
  | nil => exact ⟨rfl, rfl, fun j => ⟨(t.st j).seen, rfl⟩⟩
  | cons a l ih =>
    obtain ⟨hs, hq, hst⟩ := ih (t.popToks a k (f a))
    have hp := learned_popToks t a k (f a)
    refine ⟨hs.trans hp.s, hq.trans hp.q, fun j => ?_⟩
    obtain ⟨x, hx⟩ := hst j
    obtain ⟨y, hy⟩ := hp.st j
    exact ⟨x, hx.trans (by rw [hy]; rfl)⟩

/-! ## The context and the state after an entry (R34, R35, R285) -/

/-- The context of a block entered at its header: its passes are those of the header or of LC0, and with none it stands at its end. -/
theorem enter_eq (x : StreamCtx) (h : Word32) (body : List Parcel) (id : Nat) (cyc : Word64) :
    let n := if hdrRepeat h = 0 then x.lc0 else BitVec.ofNat 32 (hdrRepeat h)
    let y := x.enter h body id cyc
    y.hdr = h ∧ y.blk = x.pc ∧ y.lc0 = n ∧ y.l1 = none ∧ y.l2 = none ∧ y.wait = none ∧ y.lbuf = body
      ∧ (n ≠ 0 → y.phase = .inBlock ∧ y.pc = x.pc + 2)
      ∧ (n = 0 → y.phase = .draining .header ∧ y.pc = x.pc + 2 + BitVec.ofNat 17 (hdrLen h)) := by
  intro n y
  by_cases hn : n = 0
  · have hy : y = _ := if_pos hn
    rw [hy]
    exact ⟨rfl, rfl, rfl, rfl, rfl, rfl, rfl, fun e => absurd hn e, fun _ => ⟨rfl, rfl⟩⟩
  · have hy : y = _ := if_neg hn
    rw [hy]
    exact ⟨rfl, rfl, rfl, rfl, rfl, rfl, rfl, fun _ => ⟨rfl, rfl⟩, fun e => absurd e hn⟩

/-- What passing over other slots' blocks leaves: the current stream, memory and the IMEM of every core. -/
structure SameCode (s s' : State) : Prop where
  cur : s'.cur = s.cur
  mem : s'.mem = s.mem
  memKey : s'.memKey = s.memKey
  free : s'.free = s.free
  imem : ∀ c p, (s'.core c).parcel p = (s.core c).parcel p

theorem SameCode.modTask {s s' : State} (h : SameCode s s') (c l : Nat) (f : Task → Task) : SameCode s (s'.modTask c l f) :=
  ⟨by simpa using h.cur, by simpa using h.mem, by simpa using h.memKey, by simpa using h.free,
    fun b p => (parcel_modTask s' c l f b p).trans (h.imem b p)⟩

theorem engine_setEngine (s : State) (c : Nat) (k : Stream) (b : Option Nat) : ((s.setEngine c k b).core c).engine k = b := by
  simp [State.setEngine, Core.engine]

theorem task_setEngine (s : State) (c : Nat) (k : Stream) (b : Option Nat) (d l : Nat) :
    (s.setEngine c k b).task? d l = s.task? d l := task_modCore rfl

theorem header_word (hdr : BitVec 30) : (3#2 ++ hdr : BitVec 32) = BitVec.ofNat 32 (3 * 2 ^ 30 + hdr.toNat) := by
  have := hdr.isLt
  apply BitVec.eq_of_toNat_eq
  rw [BitVec.toNat_append, ← Nat.shiftLeft_add_eq_or_of_lt hdr.isLt]
  simp only [BitVec.toNat_ofNat]
  omega

theorem otherStreams_nodup (k : Stream) : (otherStreams k).Nodup := by cases k <;> decide

/-- The tokens that an entry takes from stream i. -/
def needOf (k : Stream) (h : Word32) (w : Option WaitCond) (i : Stream) : Nat :=
  b2n ((maskStreams k (popMask h)).contains i) + (match w with
    | some (.tok src n) => if src = i then n else 0
    | _ => 0)

/-- The issuing task of s after an entry; s1 is the state in which the other ready streams have been passed over. -/
def enteredTask (s s1 : State) (t : Task) (h : Word32) : Task :=
  let k := s.cur.stream
  let body := tab (hdrLen h) (fun i => (s1.core s.cur.core.val).parcel ((t.st k).pc.toNat + 2 + i))
  ((popAll k (needOf k h (t.st k).wait) (otherStreams k) t).adopt k s1.cyc).modSt k (fun x => x.enter h body s1.nextId s1.cyc)

/-- An entry gives the task its tokens and its context, and the slot the engine; code and memory are as before. -/
theorem enterBlock_eq (s : State) (t : Task) (h : Word32) :
    ∃ s1 : State, SameCode s s1 ∧ s.enterBlock t h = (s1.fresh.setTask s.cur.core.val s.cur.slot.val
      (enteredTask s s1 t h)).setEngine s.cur.core.val s.cur.stream (some s.cur.slot.val) :=
  ⟨_, each_keeps (SameCode s) _ (fun _ _ hs => hs.modTask _ _ _) _ _ ⟨rfl, rfl, rfl, rfl, fun _ _ => rfl⟩, rfl⟩

theorem enteredTask_regs (s s1 : State) (t : Task) (h : Word32) :
    (enteredTask s s1 t h).s = t.s ∧ (enteredTask s s1 t h).q = t.q := by
  obtain ⟨hs, hq, -⟩ := popAll_keeps s.cur.stream (needOf s.cur.stream h (t.st s.cur.stream).wait) (otherStreams s.cur.stream) t
  exact ⟨hs, hq⟩

theorem enteredTask_fifo (s s1 : State) (t : Task) (h : Word32) {i : Stream} (hi : i ∈ otherStreams s.cur.stream) :
    (enteredTask s s1 t h).fifo i s.cur.stream = (t.fifo i s.cur.stream).drop (needOf s.cur.stream h (t.st s.cur.stream).wait i) :=
  (fifo_popAll _ _ (otherStreams_nodup _) t i).trans (if_pos hi)

/-- The context is that of the block entered at the task's own header. -/
theorem enteredTask_st {s s1 : State} (same : SameCode s s1) (t : Task) (h : Word32) :
    ∃ sn, (enteredTask s s1 t h).st s.cur.stream = StreamCtx.enter { t.st s.cur.stream with seen := sn } h
      ((List.range (hdrLen h)).map (fun i => (s.core s.cur.core.val).parcel ((t.st s.cur.stream).pc.toNat + 2 + i))) s1.nextId s1.cyc := by
  obtain ⟨-, -, hst⟩ := popAll_keeps s.cur.stream (needOf s.cur.stream h (t.st s.cur.stream).wait) (otherStreams s.cur.stream) t
  obtain ⟨sn, hsn⟩ := hst s.cur.stream
  refine ⟨sn, (st_modSt_same ..).trans ?_⟩
  rw [← hsn]
  simp only [same.imem]
  rfl

theorem curTask_entered {s s1 : State} (same : SameCode s s1) (u : Task) :
    ((s1.fresh.setTask s.cur.core.val s.cur.slot.val u).setEngine s.cur.core.val s.cur.stream (some s.cur.slot.val)).curTask = some u := by
  rw [State.curTask, task_setEngine]
  exact (congrArg (fun c : Ctx => State.task? _ c.core.val c.slot.val) same.cur).trans (task_setTask_same ..)

theorem needOf_eq (k : Stream) (h : Word32) (w : Option WaitCond) (i : Stream) :
    needOf k h w i = (if i ∈ maskStreams k (popMask h) then 1 else 0) + (match w with
      | some (.tok j n) => if j = i then n else 0
      | _ => 0) := by
  unfold needOf b2n
  simp only [List.contains_iff_mem]

/-- A header whose conditions hold and which its free engine chooses is entered. -/
theorem exec_header_enters {s : State} {t : Task} (hdr : BitVec 30) (ht : s.curTask = some t)
    (hph : (t.st s.cur.stream).phase = .atHeader) :
    let k := s.cur.stream
    let h : Word32 := BitVec.ofNat 32 (3 * 2 ^ 30 + hdr.toNat)
    headerFault k h = none → waitPopClash k h (t.st k).wait = false → entryHolds s t k h (t.st k).wait = true →
      s.curCore.engine k = none → chosenSlot s s.cur.core.val k = some s.cur.slot.val →
      exec (.blockHeaderEntry hdr) s = .next (s.enterBlock t h) := by
  intro k h hf hc he hn hs
  refine (onTask_some ht _).trans ?_
  simp only [header_word, hph, ne_eq, not_true, if_false]
  simp only [k, h] at hf hc he hn hs
  simp only [hf, hc, he, hn, hs, Bool.false_eq_true, if_false, Option.isNone_none, decide_true, Bool.and_self, if_true]
  rfl

theorem exec_header_waits {s : State} {t : Task} (hdr : BitVec 30) (ht : s.curTask = some t)
    (hph : (t.st s.cur.stream).phase = .atHeader) :
    let k := s.cur.stream
    let h : Word32 := BitVec.ofNat 32 (3 * 2 ^ 30 + hdr.toNat)
    headerFault k h = none → waitPopClash k h (t.st k).wait = false → entryHolds s t k h (t.st k).wait = false →
      exec (.blockHeaderEntry hdr) s = .next s := by
  intro k h hf hc he
  refine (onTask_some ht _).trans ?_
  simp only [header_word, hph, ne_eq, not_true, if_false]
  simp only [k, h] at hf hc he
  simp only [hf, hc, he, Bool.false_eq_true, if_false, Bool.false_and]

theorem exec_header_faults {s : State} {t : Task} (hdr : BitVec 30) (ht : s.curTask = some t)
    (hph : (t.st s.cur.stream).phase = .atHeader) (f : BitVec 8)
    (hf : headerFault s.cur.stream (BitVec.ofNat 32 (3 * 2 ^ 30 + hdr.toNat)) = some f) :
    exec (.blockHeaderEntry hdr) s = .next (s.takeFault f 0) := by
  refine (onTask_some ht _).trans ?_
  simp only [header_word, hph, ne_eq, not_true, if_false, hf]

/-! ## Tokens sent (R36) -/

theorem maskStreams_nodup (k : Stream) (mask : Nat) : (maskStreams k mask).Nodup := by
  have h : (maskStreams k mask).Sublist (otherStreams k) := by
    refine (List.filter_sublist.map Prod.fst).trans ?_
    rw [List.map_fst_zip (by cases k <;> exact le_rfl)]
  exact h.nodup (otherStreams_nodup k)

theorem fifo_sendToks (t : Task) (k j i : Stream) (l : List Tok) :
    (t.sendToks k j l).fifo k i = t.fifo k i ++ if i = j then l else [] := by
  unfold Task.sendToks
  rw [fifo_setFifo]
  by_cases h : i = j
  · subst h; simp
  · simp [h]

/-- Where every FIFO has room, all the tokens are sent, and only the FIFOs change. -/
theorem pushOwed_all (k : Stream) (x : Tok) {l : List Stream} (hl : l.Nodup) (t : Task)
    (hr : ∀ j ∈ l, (t.fifo k j).length < 15) :
    ∃ u, t.pushOwed k l x = (u, []) ∧ (∀ j, u.fifo k j = t.fifo k j ++ if j ∈ l then [x] else []) ∧ { u with toks := t.toks } = t := by
  induction l generalizing t with
  | nil => exact ⟨t, rfl, by simp, rfl⟩
  | cons a l ih =>
    obtain ⟨ha, hl⟩ := List.nodup_cons.1 hl
    have hroom : t.room k a 1 = true := decide_eq_true (hr a (by simp))
    have hne : ∀ j ∈ l, j ≠ a := fun j hj e => ha (e ▸ hj)
    obtain ⟨u, hu, hfifo, hrest⟩ := ih hl (t.sendToks k a [x]) (fun j hj => by
      rw [fifo_sendToks, if_neg (hne j hj), List.append_nil]
      exact hr j (by simp [hj]))
    refine ⟨u, ?_, fun j => ?_, congrArg (fun v : Task => { v with toks := t.toks }) hrest⟩
    · rw [← hu]
      unfold Task.pushOwed
      rw [List.foldl_cons, if_pos hroom]
    · rw [hfifo, fifo_sendToks]
      by_cases h : j = a
      · subst h; simp [ha]
      · simp [h]

/-- Where a stream stands after a block that leads to a, and the condition it waits for, w being that of the block. -/
def phaseBehind : After → Phase
  | .halt | .exit => .halted
  | _ => .atHeader

def waitBehind (w : Option WaitCond) : After → Option WaitCond
  | .wait w' => some w'
  | .header => none
  | _ => w

/-- Where stream k of a task stands, and whether the task is ending, after a block that leads to a: what else a task has stays. -/
structure Behind (k : Stream) (a : After) (t t' : Task) : Prop where
  rest : { t' with strm := t.strm, exiting := t.exiting } = t
  owed : (t'.st k).owed = (t.st k).owed
  phase : (t'.st k).phase = phaseBehind a
  wait : (t'.st k).wait = waitBehind (t.st k).wait a
  exiting : t'.exiting = (t.exiting || decide (a = .exit))

/-- What a change of tasks leaves of the device: memory, and the engines of every core. -/
structure SameEngines (s s' : State) : Prop where
  mem : s'.mem = s.mem
  memKey : s'.memKey = s.memKey
  free : s'.free = s.free
  engines : ∀ c, (s'.core c).engines = (s.core c).engines

theorem SameEngines.refl (s : State) : SameEngines s s := ⟨rfl, rfl, rfl, fun _ => rfl⟩

theorem SameEngines.modTask {s s' : State} (h : SameEngines s s') (c l : Nat) (f : Task → Task) :
    SameEngines s (s'.modTask c l f) :=
  ⟨by simpa using h.mem, by simpa using h.memKey, by simpa using h.free,
    fun b => (congrArg Core.engines (core_modTask_but_slots s' c l f b)).trans (h.engines b)⟩

theorem SameEngines.byteK {s s' : State} (h : SameEngines s s') (key a : Nat) : s'.byteK key a = s.byteK key a :=
  byteK_congr h.mem h.memKey h.free key a

theorem SameEngines.engine {s s' : State} (h : SameEngines s s') (c : Nat) (k : Stream) :
    (s'.core c).engine k = (s.core c).engine k := congrArg (fun e => (mget k.code { busy := none } e).busy) (h.engines c)

theorem afterBlock_goes {s : State} {c l : Nat} {t : Task} (h : s.task? c l = some t) (k : Stream) {a : After} (ha : a ≠ .yield) :
    SameEngines s (s.afterBlock c l k a) ∧ ∃ t', (s.afterBlock c l k a).task? c l = some t' ∧ Behind k a t t' := by
  have one : ∀ f : Task → Task, SameEngines s (s.modTask c l f) ∧ (s.modTask c l f).task? c l = some (f t) := fun f =>
    ⟨(SameEngines.refl s).modTask c l f, task_modTask_same h f⟩
  cases a with
  | header => exact ⟨(one _).1, _, (one _).2, rfl, by simp, by simp [phaseBehind], by simp [waitBehind], by simp [Task.modSt, Task.setSt]⟩
  | wait w => exact ⟨(one _).1, _, (one _).2, rfl, by simp, by simp [phaseBehind], by simp [waitBehind], by simp [Task.modSt, Task.setSt]⟩
  | halt => exact ⟨(one _).1, _, (one _).2, rfl, by simp, by simp [phaseBehind], by simp [waitBehind], by simp [Task.modSt, Task.setSt]⟩
  | exit => exact ⟨(one _).1.modTask c l _, _, task_modTask_same (one _).2 _, rfl, by simp [Task.st, Task.modSt, Task.setSt],
      by simp [Task.st, Task.modSt, Task.setSt, phaseBehind], by simp [Task.st, Task.modSt, Task.setSt, waitBehind], by simp⟩
  | yield => exact absurd rfl ha

/-- What a completed block leads to once the tokens it owes to some streams are sent (R36, R221, R224, R230). -/
def Completed (s s' : State) (c l : Nat) (k : Stream) (t : Task) (a : After) (sent : List Stream) : Prop :=
  (∀ key b, s'.byteK key b = s.byteK key b) ∧ ∃ t', s'.task? c l = some t'
    ∧ t'.s = t.s ∧ t'.q = t.q ∧ t'.areg = t.areg ∧ t'.v = t.v
    ∧ (∀ j, t'.fifo k j = t.fifo k j ++ (if j ∈ sent then [newTok s t k] else []))
    ∧ (t'.st k).owed = []
    ∧ (t'.st k).phase = phaseBehind a
    ∧ (t'.st k).wait = waitBehind (t.st k).wait a
    ∧ (t'.exiting = (t.exiting || decide (a = .exit)))

/-- Owed tokens that all have room are sent, and the block is behind the stream. -/
theorem sendOwed_completes {s : State} {c l : Nat} {t : Task} (h : s.task? c l = some t) (k : Stream) {a : After} (ha : a ≠ .yield)
    {owed : List Stream} (hn : owed.Nodup) (hr : ∀ j ∈ owed, (t.fifo k j).length < 15) :
    SameEngines s (s.sendOwed c l k a owed) ∧ Completed s (s.sendOwed c l k a owed) c l k t a owed := by
  obtain ⟨u, hu, hfifo, hrest⟩ := pushOwed_all k (newTok s t k) hn t hr
  have heq : s.sendOwed c l k a owed = (s.modTask c l (fun _ => u.modSt k (fun x => { x with owed := [] }))).afterBlock c l k a := by
    simp only [State.sendOwed, State.modTask, h, hu]
    rfl
  obtain ⟨hs, t', ht', hb⟩ := afterBlock_goes (task_modTask_same h (fun _ => u.modSt k (fun x => { x with owed := [] }))) k ha
  have he : SameEngines s (s.sendOwed c l k a owed) := by
    have h1 := (SameEngines.refl s).modTask c l (fun _ => u.modSt k (fun x => { x with owed := [] }))
    rw [heq]
    exact ⟨hs.mem.trans h1.mem, hs.memKey.trans h1.memKey, hs.free.trans h1.free, fun b => (hs.engines b).trans (h1.engines b)⟩
  have hkeep : { t' with strm := t.strm, exiting := t.exiting, toks := t.toks } = t := by
    have h1 := congrArg (fun v : Task => { v with strm := t.strm, exiting := t.exiting, toks := t.toks }) hb.rest
    exact h1.trans (congrArg (fun v : Task => { v with strm := t.strm, exiting := t.exiting }) hrest)
  have hust : u.st k = t.st k := congrArg (mget k.code StreamCtx.reset) (congrArg Task.strm hrest :)
  refine ⟨he, he.byteK, t', heq ▸ ht', (congrArg Task.s hkeep :), (congrArg Task.q hkeep :),
    (congrArg Task.areg hkeep :), (congrArg Task.v hkeep :), fun j => ?_, ?_, hb.phase, ?_, ?_⟩
  · exact (fifo_of_toks (congrArg Task.toks hb.rest :) k j).trans (hfifo j)
  · rw [hb.owed, st_modSt_same]
  · rw [hb.wait, st_modSt_same, hust]
  · rw [hb.exiting]
    exact congrArg (· || decide (a = .exit)) (congrArg Task.exiting hrest :)

theorem engine_freed (k : Core) (l : Nat) (st : Stream) :
    ({ k with engines := k.engines.map (fun e => if e.1 = st.code then (e.1, freeEngine l e.2) else e) } : Core).engine st ≠ some l := by
  simp only [Core.engine]
  induction k.engines with
  | nil => simp [mget, mfind]
  | cons e es ih =>
    by_cases h : e.1 = st.code
    · simp only [List.map_cons, if_pos h, mget, mfind, Option.getD_some, freeEngine]
      split
      · exact nofun
      · assumption
    · simpa only [List.map_cons, if_neg h, mget, mfind] using ih

/-- A block with effects outstanding does not complete. -/
theorem exec_blockComplete_waits {s : State} {x : Ctx} {t : Task} {a : After} (h : s.task? x.core.val x.slot.val = some t)
    (hph : (t.st x.stream).phase = .draining a) (he : effectsDone s t x.stream (t.st x.stream).blkId = false) :
    exec (.blockComplete x) s = .next s := by
  change execBlockComplete x s = _
  simp only [execBlockComplete, atCtx, h, hph, he, Bool.and_false, Bool.false_eq_true, if_false]

/-- A block whose effects are performed frees its engine and sends its tokens. -/
theorem exec_blockComplete_sends {s : State} {x : Ctx} {t : Task} {a : After} (h : s.task? x.core.val x.slot.val = some t)
    (hph : (t.st x.stream).phase = .draining a) (ho : (t.st x.stream).owed = []) (hf : (t.st x.stream).faulted = false)
    (he : effectsDone s t x.stream (t.st x.stream).blkId = true) :
    exec (.blockComplete x) s = .next ((s.modCore x.core.val (fun k => { k with
        engines := k.engines.map (fun e => if e.1 = x.stream.code then (e.1, freeEngine x.slot.val e.2) else e) })).sendOwed
      x.core.val x.slot.val x.stream a (maskStreams x.stream (pushMask (t.st x.stream).hdr))) := by
  change execBlockComplete x s = _
  simp only [execBlockComplete, atCtx, h, hph, ho, hf, he, List.isEmpty_nil, Bool.not_false, Bool.and_self, if_true]

theorem exec_tokenPushDeferred_sends {s : State} {x : Ctx} {t : Task} {a : After} (h : s.task? x.core.val x.slot.val = some t)
    (hph : (t.st x.stream).phase = .draining a) (ho : (t.st x.stream).owed ≠ []) :
    exec (.tokenPushDeferred x) s = .next (s.sendOwed x.core.val x.slot.val x.stream a (t.st x.stream).owed) := by
  change execTokenPushDeferred x s = _
  simp only [execTokenPushDeferred, atCtx, h, hph, List.isEmpty_eq_false_iff.2 ho, Bool.false_eq_true, if_false]

/-- Settles O13: an entry by its tokens, its context and its engine; a completion by the tokens that are sent. -/
theorem blocksAreEnteredAndCompleted : Obligations.BlocksAreEnteredAndCompleted := by
  unfold Obligations.BlocksAreEnteredAndCompleted
  refine ⟨fun s t hdr ht => ?_, fun s x t a h => ?_⟩
  · intro k c h x hph
    refine ⟨fun hf hc => ⟨fun he hn hs => ?_, fun he => exec_header_waits hdr ht hph hf hc he⟩, exec_header_faults hdr ht hph⟩
    obtain ⟨s1, same, hs'⟩ := enterBlock_eq s t h
    obtain ⟨sn, hst⟩ := enteredTask_st same t h
    obtain ⟨hregs, hq⟩ := enteredTask_regs s s1 t h
    refine ⟨_, enteredTask s s1 t h, hs' ▸ exec_header_enters hdr ht hph hf hc he hn hs, curTask_entered same _, hregs, hq,
      byteK_congr same.mem same.memKey same.free, engine_setEngine .., fun i hi => ?_, ?_⟩
    · exact (enteredTask_fifo s s1 t h hi).trans (congrArg (fun n => (t.fifo i k).drop n) (needOf_eq ..))
    · rw [hst]
      exact enter_eq _ h _ _ _
  · intro c l k y owed hph ha goes
    refine ⟨fun ho hf he hr => ?_, fun ho he => exec_blockComplete_waits h hph he, fun ho hn hr => ?_⟩
    · refine ⟨_, exec_blockComplete_sends h hph ho hf he, ?_⟩
      have h1 : (s.modCore c (fun k' => { k' with
        engines := k'.engines.map (fun e => if e.1 = k.code then (e.1, freeEngine l e.2) else e) })).task? c l = some t :=
        (task_modCore rfl).trans h
      obtain ⟨hs, hgo⟩ := sendOwed_completes h1 k ha (maskStreams_nodup k (pushMask y.hdr)) hr
      refine ⟨hgo, ?_⟩
      rw [hs.engine, core_modCore_same]
      exact engine_freed _ l k
    · exact ⟨_, exec_tokenPushDeferred_sends h hph ho, (sendOwed_completes h k ha hn hr).2⟩

end Sys2Proof.Blocks
end

section
/-!
PROOFS. A stamp that is pending at a block header (spec/06 R173): the turn of that stream raises ILLEGAL_INSN, since a header
cannot be stamped, and does not execute the header.
-/

namespace Sys2Proof.Turns
open Sys2Proof Sys2Proof.Machine Sys2Proof.Claim

/-- The M stream of slot 0 of core 0. -/
def mTurn : Ctx := { core := 0, slot := 0, stream := .m }

/-- A task whose M stream stands at a header with a stamp pending. -/
def stampedTask : Task :=
  { newTask 128 0 probeCr noEff 1 none 0 0 [] with
    strm := [(Stream.m.code, { StreamCtx.reset with phase := .atHeader, spawned := true })]
    stamp := some 0 }

/-- A device whose next turn is that stream's; the header at its pc is a good one of the M stream, with a body of one parcel. -/
def stampedAtHeader : State :=
  { State.reset with
    stage := .running
    agenda := [{ ev := none, ctx := mTurn, cycles := 0 }]
    cores := [(0, { Core.reset with slots := [(0, stampedTask)], imem := [(0, 0xE008), (1, 0)] })] }

/-- Does an outcome leave a task in slot 0 of core 0? -/
def keepsTask : Out → Bool
  | .next s => (s.task? 0 0).isSome
  | _ => false

theorem turnOf_stampedAtHeader : TurnOf stampedAtHeader mTurn 0 [] stampedTask := ⟨rfl, rfl, rfl, rfl, rfl, rfl⟩

/-- The step takes ILLEGAL_INSN, which the region of the task answers with its end. -/
theorem step_stampedAtHeader_ends_task : keepsTask (step stampedAtHeader) = false := by decide

/-- The header itself would let the task go on. -/
theorem exec_header_keeps_task :
    keepsTask (timed 0 (exec (.blockHeaderEntry (((stampedAtHeader.core 0).headerAt 0).setWidth 30)) (begun stampedAtHeader mTurn []))) = true := by
  decide

/-- Refutes O58: with a stamp pending, a good header at the pc of an M stream is not executed; its turn raises ILLEGAL_INSN. -/
theorem not_aStepRunsTheDecodedInstruction : ¬ Obligations.AStepRunsTheDecodedInstruction := by
  unfold Obligations.AStepRunsTheDecodedInstruction
  rintro ⟨turns, -⟩
  obtain ⟨-, -, header, -⟩ := turns _ _ _ _ _ turnOf_stampedAtHeader
  have h := congrArg keepsTask ((header rfl).1 (by decide))
  exact absurd (step_stampedAtHeader_ends_task.symm.trans (h.trans exec_header_keeps_task)) (by decide)

end Sys2Proof.Turns
end

section
/-!
PROOFS. The issue of V instructions (spec/02 R45, spec/05 R119 to R122, spec/19 R374): the order of the issue checks, the wait on
an empty source and its time limit, and all that a vector result leaves.
-/

namespace Sys2Proof.VectorIssue
open Sys2Proof Sys2Proof.Machine Sys2Proof.Laws Sys2Proof.Claim Sys2Proof.Control

/-! ## The issue checks, in their order (R45, R120, R121) -/

section
variable {uses : List VUse} {dsts : List Nat} {s : State} {t : Task} (f : Task → State)

/-- The registers of an instruction lie in the task's window (R45). -/
def AllInside (t : Task) (uses : List VUse) (dsts : List Nat) : Bool :=
  uses.all (fun u => t.inWindow u.src) && dsts.all (fun d => decide (d < t.window))

theorem vecIssue_outside (h : s.curTask = some t) (hw : AllInside t uses dsts = false) :
    vecIssue uses dsts s f = .next (s.takeFault fIllegalOperand 0) := by
  unfold AllInside at hw
  refine (onTask_some h _).trans ?_
  rw [hw, Bool.not_false, if_pos rfl]

theorem vecIssue_blocked (h : s.curTask = some t) (hw : AllInside t uses dsts = true)
    (hb : uses.any (fun u => !u.trap && !t.full u.src) = true) :
    vecIssue uses dsts s f = .next (s.waitEmpty ((uses.filter (fun u => !u.trap)).map (·.src))) := by
  unfold AllInside at hw
  refine (onTask_some h _).trans ?_
  rw [hw, Bool.not_true, if_neg Bool.false_ne_true, if_pos hb]

theorem vecIssue_filling (h : s.curTask = some t) (hw : AllInside t uses dsts = true)
    (hb : uses.any (fun u => !u.trap && !t.full u.src) = false) (hf : dsts.any t.filling = true) :
    vecIssue uses dsts s f = .next s := by
  unfold AllInside at hw
  refine (onTask_some h _).trans ?_
  rw [hw, Bool.not_true, if_neg Bool.false_ne_true, hb, if_neg Bool.false_ne_true, if_pos hf]

theorem vecIssue_traps (h : s.curTask = some t) (hw : AllInside t uses dsts = true)
    (hb : uses.any (fun u => !u.trap && !t.full u.src) = false) (hf : dsts.any t.filling = false)
    (ht : uses.any (fun u => u.trap && !t.full u.src) = true) :
    vecIssue uses dsts s f = .next (s.takeFault fFeTrap 0) := by
  unfold AllInside at hw
  refine (onTask_some h _).trans ?_
  rw [hw, Bool.not_true, if_neg Bool.false_ne_true, hb, if_neg Bool.false_ne_true, hf, if_neg Bool.false_ne_true, if_pos ht]

end

/-- The sources that VADD names, with their trap bits. -/
def vaddUses (o : V3) : List VUse := [{ src := o.a, trap := o.ta }, { src := o.b, trap := o.tb }]

/-- What VADD does once it issues. -/
def vaddDoes (o : V3) (s : State) (t : Task) : State :=
  (s.putMasked t o.d o.k o.zm 8 (zipCells (faddCell o.ty) (t.vsrc o.a) (t.vsrc o.b))).vDone vCharge 3

theorem exec_vadd (o : V3) (s : State) : exec (.vadd o) s = vecIssue (vaddUses o) [o.d.val] s (vaddDoes o s) := rfl

theorem allInside_vadd {t : Task} {o : V3} (ha : t.inWindow o.a = true) (hb : t.inWindow o.b = true) (hd : o.d.val < t.window) :
    AllInside t (vaddUses o) [o.d.val] = true := by
  simp [AllInside, vaddUses, ha, hb, hd]

theorem not_allInside_vadd {t : Task} {o : V3} (hd : ¬ o.d.val < t.window) : AllInside t (vaddUses o) [o.d.val] = false := by
  simp only [AllInside, List.all_cons, List.all_nil, decide_eq_false hd, Bool.false_and, Bool.and_false]

/-! ## The wait on an empty source (R120) -/

/-- The registers among some sources that are empty. -/
def emptyOnes (t : Task) (srcs : List VSrc) : List Nat :=
  srcs.filterMap (fun v => match v with | .v n => if t.full v then none else some n.val | _ => none)

theorem mem_emptyOnes {t : Task} {srcs : List VSrc} {n : VReg} (h : VSrc.v n ∈ srcs) (he : t.full (.v n) = false) :
    n.val ∈ emptyOnes t srcs :=
  List.mem_filterMap.2 ⟨.v n, h, by simp [he]⟩

theorem any_contains (l m : List Nat) : l.any m.contains = decide (∃ n ∈ l, n ∈ m) := by
  rw [Bool.eq_iff_iff]
  simp [List.any_eq_true]

/-- The context of a stream that waits on some empty registers. -/
theorem waitEmpty_eq {s : State} {t : Task} (h : s.curTask = some t) (srcs : List VSrc) :
    s.waitEmpty srcs = s.modSt (fun x => { x with
      feSince := some (if ∃ n ∈ x.feOn, n ∈ t.empty then x.feSince.getD s.cyc else s.cyc)
      feOn := emptyOnes t srcs }) := by
  unfold State.waitEmpty
  rw [h]
  simp only [any_contains, decide_eq_true_eq, ← apply_ite some]
  rfl

theorem exec_feTimeout {s : State} {x : Ctx} {u : Task} {c : Word64} (h : s.task? x.core.val x.slot.val = some u)
    (hc : (u.st x.stream).feSince = some c) (hs : u.stopped = false) (hv : u.saving = none) :
    exec (.feTimeout x) s = .next (if (∃ n ∈ (u.st x.stream).feOn, n ∈ u.empty) ∧ c.toNat + 2 ^ 24 ≤ s.cyc.toNat then
      s.takeFaultOf x.core.val x.slot.val x.stream fFeTimeout true 0 (u.st x.stream).pc 0 [] else s) := by
  change execFeTimeout x s = _
  simp only [execFeTimeout, atCtx, h, hc, hs, hv, any_contains, Bool.not_false, Option.isNone_none, Bool.true_and,
    Bool.and_eq_true, decide_eq_true_eq]

/-! ## What a vector result changes (R119, R122, R288) -/

/-- Of the tasks, the cores and the device only the issuing task and the accounts may differ. -/
structure OneTask (s s' : State) : Prop where
  others : ∀ b l, (b, l) ≠ (s.cur.core.val, s.cur.slot.val) → s'.task? b l = s.task? b l
  cores : ∀ b, { s'.core b with slots := (s.core b).slots } = s.core b
  rest : { s' with cores := s.cores, accts := s.accts } = s

theorem OneTask.refl (s : State) : OneTask s s := ⟨fun _ _ _ => rfl, fun _ => rfl, rfl⟩

theorem OneTask.cur {s s' : State} (h : OneTask s s') : s'.cur = s.cur := (congrArg State.cur h.rest :)

theorem OneTask.byteK {s s' : State} (h : OneTask s s') (key a : Nat) : s'.byteK key a = s.byteK key a :=
  byteK_congr (congrArg State.mem h.rest :) (congrArg State.memKey h.rest :) (congrArg State.free h.rest :) key a

theorem OneTask.modCur {s s' : State} (h : OneTask s s') (f : Task → Task) : OneTask s (s'.modCur f) := by
  refine ⟨fun b l hbl => ?_, fun b => ?_, ?_⟩
  · rw [← h.others b l hbl]
    exact task_modTask_other _ (by rw [h.cur]; exact hbl) _
  · have h1 := core_modTask_but_slots s' s'.cur.core.val s'.cur.slot.val f b
    exact (congrArg (fun k : Core => { k with slots := (s.core b).slots }) h1).trans (h.cores b)
  · have h1 := modTask_but_cores s' s'.cur.core.val s'.cur.slot.val f
    exact (congrArg (fun x : State => { x with cores := s.cores, accts := s.accts }) h1).trans h.rest

theorem OneTask.charge {s s' : State} (h : OneTask s s') (acct n : Nat) : OneTask s (s'.charge acct n) := by
  have h1 := charge_but_accts s' acct n
  have hc : (s'.charge acct n).cores = s'.cores := (congrArg State.cores h1 :)
  refine ⟨fun b l hbl => (task_charge ..).trans (h.others b l hbl), fun b => ?_, ?_⟩
  · have : (s'.charge acct n).core b = s'.core b := congrArg (mget b Core.reset) hc
    rw [this]
    exact h.cores b
  · exact (congrArg (fun x : State => { x with cores := s.cores, accts := s.accts }) h1).trans h.rest

/-- A task with a vector result written, in flight for its latency over the old cells. -/
def withResult (d : VReg) (mask : BitVec 1024) (cyc : Word64) (lat : Nat) (c : Cells) (t : Task) : Task :=
  (t.setV d.val mask c).flying (.v d.val) (.cells (t.vreg d.val)) cyc lat false

theorem setV_but (t : Task) (n : Nat) (mask : BitVec 1024) (c : Cells) :
    { t.setV n mask c with v := t.v, drains := t.drains } = t := rfl

theorem flying_but (t : Task) (d : VDst) (old : VVal) (cyc : Word64) (lat : Nat) (accu : Bool) :
    { t.flying d old cyc lat accu with fly := t.fly } = t := rfl

theorem withResult_but (t : Task) (d : VReg) (mask : BitVec 1024) (cyc : Word64) (lat : Nat) (c : Cells) (f : StreamCtx → StreamCtx) :
    { (withResult d mask cyc lat c t).modSt .v f with v := t.v, fly := t.fly, drains := t.drains, strm := t.strm } = t := by
  have h1 := modSt_but_strm (withResult d mask cyc lat c t) .v f
  have h2 := flying_but (t.setV d.val mask c) (.v d.val) (.cells (t.vreg d.val)) cyc lat false
  have h3 := setV_but t d.val mask c
  have h1' := congrArg (fun u : Task => { u with v := t.v, fly := t.fly, drains := t.drains }) h1
  have h2' := congrArg (fun u : Task => { u with v := t.v, drains := t.drains }) h2
  exact h1'.trans (h2'.trans h3)

/-- Outside the S stream an instruction that moves on charges nothing for its issue (R288). -/
theorem finish_of_not_s {s : State} (h : s.cur.stream ≠ .s) (n : Nat) : s.finish n = s.modSt (fun x => x.advance n) := by
  simp only [State.finish, State.chargeIssue, if_neg h]

theorem chargeCur_eq {s : State} {t : Task} (h : s.curTask = some t) (n : Nat) : s.chargeCur n = s.charge t.cr.lacct.toNat n := by
  simp only [State.chargeCur, h]

/-- A vector result writes its register and charges the account, and the stream moves on. -/
theorem vecWrote_eq {s : State} {t : Task} (h : s.curTask = some t) (hv : s.cur.stream = .v) (d : VReg) (mask : BitVec 1024)
    (lat : Nat) (c : Cells) (ch n : Nat) :
    vecWrote s d mask lat c ch n = .next (((s.modCur (withResult d mask s.cyc lat c)).charge t.cr.lacct.toNat ch).modSt (fun x => x.advance n)) := by
  have h1 : (s.putV d mask lat c).curTask = _ := curTask_modCur h (withResult d mask s.cyc lat c)
  have hcur : ((s.putV d mask lat c).charge t.cr.lacct.toNat ch).cur.stream ≠ .s := by simp [State.putV, hv]
  unfold vecWrote
  rw [chargeCur_eq h1]
  exact congrArg Host.Outcome.next (finish_of_not_s hcur n)

theorem vreg_setV (t : Task) (n m : Nat) (mask : BitVec 1024) (c : Cells) :
    (t.setV n mask c).vreg m = if m = n then c else t.vreg m := by
  by_cases h : m = n
  · subst h
    rw [if_pos rfl]
    exact mget_mset_same ..
  · rw [if_neg h]
    exact mget_mset_other h ..

theorem curTask_charge (s : State) (a n : Nat) : (s.charge a n).curTask = s.curTask := by
  simp only [State.curTask, charge_cur, task_charge]

/-- A result that flies alone lands after its own latency. -/
theorem fly_vis (t : Task) (d : VDst) (old : VVal) (cyc : Word64) (lat : Nat) (accu : Bool) :
    ∃ f, (t.flying d old cyc lat accu).fly = t.fly ++ [f] ∧ f.dst = d ∧ f.old = old
      ∧ (t.fly = [] → f.vis = cyc + BitVec.ofNat 64 lat) := by
  refine ⟨_, rfl, rfl, rfl, fun h => ?_⟩
  rw [h]
  apply BitVec.eq_of_toNat_eq
  simp

/-- Settles O32: VADD by the issue checks in their order, FE_TIMEOUT by its condition, a result by the register that it writes. -/
theorem vectorIssueRules : Obligations.VectorIssueRules := by
  unfold Obligations.VectorIssueRules
  refine ⟨fun s t h => ⟨fun o => ⟨fun hd => (exec_vadd o s).trans (vecIssue_outside _ h (not_allInside_vadd hd)), fun ha hb hd => ?_⟩, ?_⟩, ?_⟩
  · have hin := allInside_vadd ha hb hd
    refine ⟨fun hta hfa => ?_, fun hfa hfb => ?_⟩
    · have hblk : (vaddUses o).any (fun u => !u.trap && !t.full u.src) = true := by simp [vaddUses, hta, hfa]
      have hexec := ((exec_vadd o s).trans (vecIssue_blocked _ h hin hblk)).trans (congrArg Host.Outcome.next (waitEmpty_eq h _))
      refine ⟨_, _, hexec, curTask_modSt h _, rfl, ?_, ?_, ?_, modTask_but_cores ..⟩
      · rw [st_modSt_same]
      · rw [st_modSt_same]
      · rintro n hn
        rw [st_modSt_same]
        exact mem_emptyOnes (by simp [vaddUses, hta, hn]) (hn ▸ hfa)
    · have hopen : (vaddUses o).any (fun u => !u.trap && !t.full u.src) = false := by
        rcases hfa with hfa | hfa <;> rcases hfb with hfb | hfb <;> simp [vaddUses, hfa, hfb]
      refine ⟨fun hf => (exec_vadd o s).trans (vecIssue_filling _ h hin hopen (by simp [hf])), fun hf hta hfa => ?_⟩
      exact (exec_vadd o s).trans (vecIssue_traps _ h hin hopen (by simp [hf]) (by simp [vaddUses, hta, hfa]))
  · intro x u c hu hc hs hv
    rw [exec_feTimeout hu hc hs hv]
    refine ⟨fun he hl => by rw [if_pos ⟨he, hl⟩], fun hw => ?_⟩
    rw [if_neg]
    rintro ⟨⟨n, hn, hne⟩, hl⟩
    rcases hw with hw | hw
    · omega
    · exact hw n hn hne
  · intro s s' t d mask lat c ch n h hv hs'
    rw [vecWrote_eq h hv] at hs'
    cases hs'
    have hcur : ((s.modCur (withResult d mask s.cyc lat c)).charge t.cr.lacct.toNat ch).cur.stream = .v := by simp [hv]
    have htask : ((s.modCur (withResult d mask s.cyc lat c)).charge t.cr.lacct.toNat ch).curTask = some (withResult d mask s.cyc lat c t) :=
      (curTask_charge ..).trans (curTask_modCur h _)
    have hlast := curTask_modSt htask (fun x => x.advance n)
    rw [hcur] at hlast
    have hone := (((OneTask.refl s).modCur (withResult d mask s.cyc lat c)).charge t.cr.lacct.toNat ch).modCur (fun u =>
      u.modSt ((s.modCur (withResult d mask s.cyc lat c)).charge t.cr.lacct.toNat ch).cur.stream (fun x => x.advance n))
    obtain ⟨f, hfly, hdst, hold, hvis⟩ := fly_vis (t.setV d.val mask c) (.v d.val) (.cells (t.vreg d.val)) s.cyc lat false
    refine ⟨⟨_, f, hlast, fun m => vreg_setV t d.val m mask c, hfly, hdst, hold, hvis, st_modSt_same .., fun k hk => st_modSt_other _ hk _,
      withResult_but ..⟩, hone.others, hone.cores, fun a => ?_, hone.rest, hone.byteK⟩
    rw [modSt_accts, accts_charge, modCur_accts]

end Sys2Proof.VectorIssue
end

section
/-!
PROOFS. The three floating formats (spec/03 R64, R68, R70): a bit pattern is its sign, exponent and fraction fields; what they hold
has at most the significand bits of the format, so that its conversion cuts nothing off and puts each field back.
-/

namespace Sys2Proof.Formats
open Sys2Proof Sys2Proof.Machine

/-! ## Bit lengths and exact scaling -/

theorem bitLen_le {m k : Nat} (h : m < 2 ^ k) : bitLen m ≤ k := by
  unfold bitLen
  split
  · omega
  · next h0 => exact (Nat.log2_lt h0).2 h

theorem bitLen_eq {m k : Nat} (hl : 2 ^ k ≤ m) (hu : m < 2 ^ (k + 1)) : bitLen m = k + 1 := by
  have h0 : m ≠ 0 := by have := Nat.two_pow_pos k; omega
  simp only [bitLen, if_neg h0, Nat.add_right_cancel_iff]
  exact (Nat.log2_eq_iff h0).2 ⟨hl, hu⟩

/-- A number that is a multiple of the unit already is its own rounding. -/
theorem roundTo_same (rm : RMode) (neg : Bool) (m : Nat) (e : Int) : roundTo rm neg m e e = m := by
  simp [roundTo, shiftUp]

/-! ## Conversion of what a format holds (R70, Table 3-3) -/

section
variable (f : Fmt) (rm : RMode) (neg : Bool) {m : Nat}

/-- Zero and the subnormals: a significand shorter than the format's keeps the least exponent. -/
theorem encodeF_subnormal (hm : m < 2 ^ (f.p - 1)) :
    encodeF f rm (.fin neg m f.qmin) = b2n neg * 2 ^ (f.eb + f.p - 1) + m := by
  by_cases h0 : m = 0
  · simp [encodeF, h0]
  · have hlen := bitLen_le hm
    have hp : f.p ≠ 0 := by rintro hp; rw [hp] at hm; simp at hm; exact h0 hm
    have hq : (if (bitLen m : Int) + f.qmin - f.p < f.qmin then f.qmin else (bitLen m : Int) + f.qmin - f.p) = f.qmin :=
      if_pos (by omega)
    have hfull : m ≠ 2 ^ f.p := by
      have := Nat.pow_le_pow_right (n := 2) (by omega) (Nat.sub_le f.p 1)
      omega
    simp only [encodeF, if_neg h0, hq, roundTo_same, if_neg hfull, if_pos hm]

/-- The normal numbers: a significand of the format's length keeps its own exponent. -/
theorem encodeF_normal {x : Nat} (hp : f.p ≠ 0) (hl : 2 ^ (f.p - 1) ≤ m) (hu : m < 2 ^ f.p) (hx : x ≠ 0) (hmax : x < 2 ^ f.eb - 1) :
    encodeF f rm (.fin neg m (f.qmin + (x : Int) - 1)) = b2n neg * 2 ^ (f.eb + f.p - 1) + x * 2 ^ (f.p - 1) + (m - 2 ^ (f.p - 1)) := by
  obtain ⟨k, hk⟩ := Nat.exists_eq_succ_of_ne_zero hp
  have hlen : bitLen m = f.p := by
    rw [hk] at hl hu ⊢
    exact bitLen_eq hl hu
  have h0 : m ≠ 0 := by have := Nat.two_pow_pos (f.p - 1); omega
  have hq0 : (bitLen m : Int) + (f.qmin + x - 1) - f.p = f.qmin + x - 1 := by omega
  have hq : (if f.qmin + (x : Int) - 1 < f.qmin then f.qmin else f.qmin + x - 1) = f.qmin + x - 1 := if_neg (by omega)
  have hexp : (f.qmin + (x : Int) - 1 - f.qmin).toNat + 1 = x := by omega
  simp only [encodeF, if_neg h0, hq0, hq, roundTo_same, if_neg (Nat.ne_of_lt hu), if_neg (Nat.not_lt.2 hl), hexp,
    if_neg (show ¬ x ≥ 2 ^ f.eb - 1 by omega)]

end

/-! ## The fields of a bit pattern (R64) -/

theorem nbits_lt (w : Nat) {hi lo k : Nat} (h : hi + 1 - lo = k) : nbits w hi lo < 2 ^ k :=
  h ▸ Nat.mod_lt _ (Nat.two_pow_pos _)

/-- A pattern is its sign, exponent and fraction fields, of 1, eb and p − 1 bits. -/
theorem fields_of_pattern {f : Fmt} {w : Nat} (hp : 2 ≤ f.p) (hw : w < 2 ^ (f.eb + f.p)) :
    b2n (nbit w (f.eb + f.p - 1)) * 2 ^ (f.eb + f.p - 1) + nbits w (f.eb + f.p - 2) (f.p - 1) * 2 ^ (f.p - 1) + nbits w (f.p - 2) 0 = w := by
  have hfr : nbits w (f.p - 2) 0 = w % 2 ^ (f.p - 1) := by
    rw [nbits, pow_zero, Nat.div_one, show f.p - 2 + 1 - 0 = f.p - 1 by omega]
  have hex : nbits w (f.eb + f.p - 2) (f.p - 1) = w / 2 ^ (f.p - 1) % 2 ^ f.eb := by
    rw [nbits, show f.eb + f.p - 2 + 1 - (f.p - 1) = f.eb by omega]
  have hsign : b2n (nbit w (f.eb + f.p - 1)) = w / 2 ^ (f.p - 1) / 2 ^ f.eb := by
    have hlt : w / 2 ^ (f.eb + f.p - 1) < 2 := by
      rw [Nat.div_lt_iff_lt_mul (Nat.two_pow_pos _), ← pow_succ', show f.eb + f.p - 1 + 1 = f.eb + f.p by omega]
      exact hw
    rw [Nat.div_div_eq_div_mul, ← pow_add, show f.p - 1 + f.eb = f.eb + f.p - 1 by omega, nbit, Nat.mod_eq_of_lt hlt]
    rcases Nat.lt_succ_iff_lt_or_eq.1 hlt with h | h
    · simp [b2n, Nat.lt_one_iff.1 h]
    · simp [b2n, h]
  rw [hfr, hex, hsign, show f.eb + f.p - 1 = f.eb + (f.p - 1) by omega, pow_add, ← mul_assoc, ← add_mul,
    Nat.div_add_mod' (w / 2 ^ (f.p - 1)) (2 ^ f.eb), Nat.div_add_mod' w (2 ^ (f.p - 1))]

/-- What a pattern holds converts to its fields again, and so to the pattern (R68, R70). -/
theorem encodeF_decodeF {f : Fmt} {w : Nat} (rm : RMode) (hp : 2 ≤ f.p) (hw : w < 2 ^ (f.eb + f.p))
    (hnan : decodeF f w ≠ .nan) : encodeF f rm (decodeF f w) = w := by
  have hfields := fields_of_pattern hp hw
  have hfr := nbits_lt w (show f.p - 2 + 1 - 0 = f.p - 1 by omega)
  have hex := nbits_lt w (show f.eb + f.p - 2 + 1 - (f.p - 1) = f.eb by omega)
  unfold decodeF at hnan ⊢
  simp only at hnan ⊢
  generalize nbits w (f.p - 2) 0 = fr at *
  generalize nbits w (f.eb + f.p - 2) (f.p - 1) = x at *
  generalize nbit w (f.eb + f.p - 1) = neg at *
  split
  case isTrue hall =>
    rw [if_pos hall] at hnan
    have hfr0 : fr = 0 := by
      by_contra hne
      exact hnan (if_neg hne)
    rw [if_pos hfr0, ← hfields, hfr0, hall, Nat.add_zero]
    rfl
  case isFalse hall =>
    split
    case isTrue hx0 => rw [encodeF_subnormal f rm neg hfr, ← hfields, hx0, Nat.zero_mul, Nat.add_zero]
    case isFalse hx0 =>
      have hpow : 2 ^ (f.p - 1) + 2 ^ (f.p - 1) = 2 ^ f.p := by
        rw [← two_mul, ← pow_succ', show f.p - 1 + 1 = f.p by omega]
      rw [encodeF_normal f rm neg (by omega) (by omega) (by omega) hx0 (by omega), Nat.add_sub_cancel, hfields]

theorem decodeF_nanF {f : Fmt} (hf : f = fmtF32 ∨ f = fmtBF16 ∨ f = fmtF16) : decodeF f (nanF f) = .nan := by
  rcases hf with rfl | rfl | rfl
  all_goals decide

/-- Settles O28: a number that a format holds keeps its fields; NaN is one pattern of each format. -/
theorem representableValuesRoundToThemselves : Obligations.RepresentableValuesRoundToThemselves := by
  unfold Obligations.RepresentableValuesRoundToThemselves
  intro f rm w hf hw
  have hp : 2 ≤ f.p := by rcases hf with rfl | rfl | rfl <;> decide
  exact ⟨encodeF_decodeF rm hp hw, rfl, decodeF_nanF hf⟩

end Sys2Proof.Formats
end

section
/-!
PROOFS. What the memory side of an instruction leaves: caches, requests, their queues at the stacks and flits may change, the tasks
and the bytes of memory do not (spec/16 R332 to R334, spec/17 R361, spec/21 R410).
-/

namespace Sys2Proof.Traffic
open Sys2Proof Sys2Proof.Machine Sys2Proof.Laws Sys2Proof.Claim Sys2Proof.Control

/-- At most caches, reassembly tables, requests, their queues, flits and the numbers given out differ. -/
structure OnlyTraffic (s s' : State) : Prop where
  tasks : ∀ b l, s'.task? b l = s.task? b l
  rest : { s' with cores := s.cores, dies := s.dies, drams := s.drams, fab := s.fab, reqs := s.reqs, nextId := s.nextId } = s

theorem sameBytes_of_eq {s s' : State} (hm : s'.mem = s.mem) (hk : s'.memKey = s.memKey) (hf : s'.free = s.free) : SameBytes s s' :=
  ⟨fun a => by rw [hm], byteK_congr hm hk hf⟩

theorem sameBytes_trans {s s' s'' : State} (h : SameBytes s s') (h' : SameBytes s' s'') : SameBytes s s'' :=
  ⟨fun a => (h'.1 a).trans (h.1 a), fun key a => (h'.2 key a).trans (h.2 key a)⟩

namespace OnlyTraffic
variable {s s' s'' : State}

theorem refl (s : State) : OnlyTraffic s s := ⟨fun _ _ => rfl, rfl⟩

theorem trans (h : OnlyTraffic s s') (h' : OnlyTraffic s' s'') : OnlyTraffic s s'' :=
  ⟨fun b l => (h'.tasks b l).trans (h.tasks b l),
    (congrArg (fun x : State => { x with cores := s.cores, dies := s.dies, drams := s.drams, fab := s.fab, reqs := s.reqs, nextId := s.nextId })
      h'.rest).trans h.rest⟩

theorem cur (h : OnlyTraffic s s') : s'.cur = s.cur := (congrArg State.cur h.rest :)

theorem curTask (h : OnlyTraffic s s') : s'.curTask = s.curTask := by
  unfold State.curTask
  rw [h.cur, h.tasks]

theorem sameBytes (h : OnlyTraffic s s') : SameBytes s s' :=
  sameBytes_of_eq (congrArg State.mem h.rest :) (congrArg State.memKey h.rest :) (congrArg State.free h.rest :)

theorem modCore (s : State) (c : Nat) {f : Core → Core} (h : ∀ k, (f k).slots = k.slots) : OnlyTraffic s (s.modCore c f) :=
  ⟨fun _ _ => task_modCore (h _), rfl⟩

theorem modDie (s : State) (d : Nat) (f : Die → Die) : OnlyTraffic s (s.modDie d f) := ⟨fun _ _ => rfl, rfl⟩

theorem fresh (s : State) : OnlyTraffic s s.fresh := ⟨fun _ _ => rfl, rfl⟩

theorem toDram (s : State) (o : Orig) (pa : Nat) (write : Bool) (key own : Nat) (pay : Option WPay) :
    OnlyTraffic s (s.toDram o pa write key own pay) := ⟨fun _ _ => rfl, rfl⟩

theorem undram (s : State) (own : Nat) : OnlyTraffic s (s.undram own) := ⟨fun _ _ => rfl, rfl⟩

theorem lineRequest (s : State) (c typ id n pa pav cap : Nat) : OnlyTraffic s (s.lineRequest c typ id n pa pav cap) :=
  ⟨fun _ _ => rfl, rfl⟩

theorem takeEntry (s : State) (c id line : Nat) : OnlyTraffic s (s.takeEntry c id line) := modCore s c fun _ => rfl

theorem freeEntry (s : State) (c id : Nat) : OnlyTraffic s (s.freeEntry c id) := modCore s c fun _ => rfl

theorem freeLine (s : State) (c id line : Nat) : OnlyTraffic s (s.freeLine c id line) := modCore s c fun _ => rfl

theorem each {α : Type} {f : α → State → State} (hf : ∀ a x, OnlyTraffic x (f a x)) (l : List α) (s : State) :
    OnlyTraffic s (each l f s) :=
  each_keeps (OnlyTraffic s) f (fun a x h => h.trans (hf a x)) l s (refl s)

end OnlyTraffic

open OnlyTraffic

/-! ## The caches (R332 to R334) -/

theorem onlyTraffic_ite {s x y : State} {p : Prop} [Decidable p] (hx : OnlyTraffic s x) (hy : OnlyTraffic s y) :
    OnlyTraffic s (if p then x else y) := by
  split
  · exact hx
  · exact hy

theorem onlyTraffic_toMem (s : State) (d : Nat) (l : CLine) : OnlyTraffic s (s.toMem d l) :=
  ((fresh s).trans (toDram ..)).trans (modDie ..)

theorem onlyTraffic_roomDlc (s : State) (d line : Nat) : OnlyTraffic s (s.roomDlc d line) := by
  unfold State.roomDlc
  refine onlyTraffic_ite (refl s) ?_
  split
  · exact refl s
  · exact (onlyTraffic_ite (refl s) (onlyTraffic_toMem ..)).trans (modDie ..)

theorem onlyTraffic_putDlc (s : State) (d : Nat) (l : CLine) (lru : Bool) : OnlyTraffic s (s.putDlc d l lru) := by
  unfold State.putDlc
  exact (onlyTraffic_ite (refl s) (onlyTraffic_roomDlc ..)).trans (modDie ..)

theorem onlyTraffic_toDlc (s : State) (c : Nat) (l : CLine) : OnlyTraffic s (s.toDlc c l) := by
  unfold State.toDlc
  exact (onlyTraffic_putDlc ..).trans (modCore _ c fun _ => rfl)

theorem onlyTraffic_roomL1 (s : State) (c line : Nat) : OnlyTraffic s (s.roomL1 c line) := by
  unfold State.roomL1
  refine onlyTraffic_ite (refl s) ?_
  split
  · exact refl s
  · exact (onlyTraffic_ite (refl s) (onlyTraffic_toDlc ..)).trans (modCore _ c fun _ => rfl)

theorem onlyTraffic_putL1 (s : State) (c : Nat) (l : CLine) (lru : Bool) : OnlyTraffic s (s.putL1 c l lru) := by
  unfold State.putL1
  exact (onlyTraffic_ite (refl s) (onlyTraffic_roomL1 ..)).trans (modCore _ c fun _ => rfl)

theorem onlyTraffic_fetchPriv (s : State) (c pav key line rd : Nat) (load : Bool) :
    OnlyTraffic s (s.fetchPriv c pav key line rd load).1 := by
  unfold State.fetchPriv
  split
  · exact onlyTraffic_putL1 ..
  · dsimp only
    split
    · exact onlyTraffic_putDlc ..
    · exact (onlyTraffic_putDlc ..).trans (onlyTraffic_putL1 ..)

theorem onlyTraffic_writePriv (s : State) (o : Orig) (c pav key line rd : Nat) (mask : BitVec 128) (data : List Byte) :
    OnlyTraffic s (s.writePriv o c pav key line rd mask data) := by
  have h := onlyTraffic_fetchPriv s c pav key line rd false
  unfold State.writePriv
  generalize s.fetchPriv c pav key line rd false = r at h ⊢
  exact h.trans (modCore _ c fun _ => rfl)

theorem onlyTraffic_writeBits (s : State) (o : Orig) (c pav key line rd : Nat) (mask data : BitVec 1024) :
    OnlyTraffic s (s.writeBits o c pav key line rd mask data) :=
  (onlyTraffic_fetchPriv s c pav key line rd false).trans (onlyTraffic_writePriv ..)

/-! ## Requests and vector stores (R137, R361, R412) -/

/-- A request written down under the number that comes next. -/
theorem onlyTraffic_keep (s : State) (id : Nat) (r : Req) : OnlyTraffic s { s.fresh with reqs := mset id r s.reqs } := ⟨fun _ _ => rfl, rfl⟩

theorem onlyTraffic_request (s : State) (t : Task) (va pa : Nat) (l : Leaf) (sc : Scope) (rd : Nat) (k : ReqKind) :
    OnlyTraffic s (s.request t va pa l sc rd k) := by
  unfold State.request
  extract_lets r s'
  have hentry : OnlyTraffic s s' := onlyTraffic_ite (takeEntry ..) (refl s)
  exact ((hentry.trans (onlyTraffic_keep s' s'.nextId r)).trans (toDram ..)).trans (lineRequest ..)

theorem onlyTraffic_requestStore (s : State) (t : Task) (va pa : Nat) (l : Leaf) (rd : Nat) (k : ReqKind) :
    OnlyTraffic s (s.requestStore t va pa l rd k) :=
  onlyTraffic_ite (onlyTraffic_keep ..) (onlyTraffic_request ..)

theorem onlyTraffic_writeLine (s : State) (t : Task) (rd : Nat) (w : LineWrite) : OnlyTraffic s (s.writeLine t rd w) :=
  onlyTraffic_ite (onlyTraffic_writeBits ..) (onlyTraffic_requestStore ..)

/-- A store sends its request, or keeps it, under the number that comes next (R412). -/
theorem mfind_requestStore (s : State) (t : Task) (va pa : Nat) (l : Leaf) (rd : Nat) (k : ReqKind) :
    ∃ r, mfind s.nextId (s.requestStore t va pa l rd k).reqs = some r ∧ r.pa = pa ∧ r.kind = k ∧ r.ctx = s.cur := by
  unfold State.requestStore
  split
  · exact ⟨_, mfind_mset_same .., rfl, rfl, rfl⟩
  · refine ⟨s.reqOf t va pa l .dev rd k .sent, ?_, rfl, rfl, rfl⟩
    unfold State.request
    dsimp only
    split
    all_goals exact mfind_mset_same ..

end Sys2Proof.Traffic
end

section
/-!
PROOFS. The addresses of vector elements (spec/03 R71, spec/05 R137, R139): sums modulo 2^64, whatever order the model takes them in.
-/

namespace Sys2Proof.Elements
open Sys2Proof Sys2Proof.Machine Sys2Proof.Claim

/-- An address of 64 bits moved by a number of bytes. -/
theorem ibits_add_mod (x : Int) (n : Nat) : (ibits x 64 + n) % 2 ^ 64 = addr64 (x + n) := by
  unfold ibits addr64
  omega

theorem addr64_add_mod (x : Int) (n : Nat) : (addr64 x + n) % 2 ^ 64 = addr64 (x + n) := by
  unfold addr64
  omega

theorem vaddr_whole {ty : ETy} (h : ty ≠ .i6) (cell ea j : Nat) :
    vaddr ty cell ea j = { cell := cell, va := ea, n := tyBytes ty, shift := 0, align := tyBytes ty } := by
  cases ty
  case i6 => exact absurd rfl h
  all_goals rfl

/-- A packed I6 element: six bits from bit 6j of its group (R71). -/
theorem vaddr_packed (cell ea j : Nat) :
    vaddr .i6 cell ea j = { cell := cell, va := (ea + 6 * j / 8) % 2 ^ 64, n := (6 * j % 8 + 5) / 8 + 1, shift := 6 * j % 8, align := 1 } := by
  simp only [vaddr, VAddr.mk.injEq, true_and, and_true]
  omega

/-- An element of a gather stands alone, a packed type's in the low bits of its byte (R139). -/
theorem vaddr_alone (ty : ETy) (cell : Nat) (x : Int) :
    vaddr ty cell (ibits x 64) 0 = { cell := cell, va := addr64 x, n := tyBytes ty, shift := 0, align := tyBytes ty } := by
  by_cases h : ty = .i6
  · subst h
    rw [vaddr_packed, ibits_add_mod]
    simp [tyBytes]
  · rw [vaddr_whole h]
    rfl

theorem rowElems_whole {ty : ETy} (h : ty ≠ .i6) (base stride : Word64) (off : Int) (k : BitVec 1024) :
    rowElems ty base stride off k = (cellsOf k).map (fun i =>
      { cell := i, va := addr64 (base.toInt + (i / 64 : Nat) * stride.toInt + off + (i % 64 * tyBytes ty : Nat)), n := tyBytes ty,
        shift := 0, align := tyBytes ty }) := by
  refine List.map_congr_left fun i _ => ?_
  have hva : (rowEa base stride off (i / 64) + i % 64 * tyBytes ty) % 2 ^ 64 = _ := ibits_add_mod _ _
  cases ty
  case i6 => exact absurd rfl h
  all_goals exact (vaddr_whole h ..).trans (by rw [hva])

theorem rowElems_packed (base stride : Word64) (off : Int) (k : BitVec 1024) :
    rowElems .i6 base stride off k = (cellsOf k).map (fun i =>
      { cell := i, va := addr64 (base.toInt + (i / 64 : Nat) * stride.toInt + off + (3 * (i % 64 / 4) : Nat) + (6 * (i % 4) / 8 : Nat)),
        n := (6 * (i % 4) % 8 + 5) / 8 + 1, shift := 6 * (i % 4) % 8, align := 1 }) := by
  refine List.map_congr_left fun i _ => ?_
  refine (vaddr_packed ..).trans ?_
  rw [show i % 64 % 4 = i % 4 by omega, rowEa, ibits_add_mod, addr64_add_mod]

/-- Pairs of an entry and its place, filtered by the place. -/
theorem zip_range_filter (x : Cells) (k : BitVec 1024) (h : x.length = 1024) :
    (x.zip (List.range 1024)).filter (fun p => k.getLsbD p.2) = (cellsOf k).map (fun i => (x.getD i 0, i)) := by
  have hzip : x.zip (List.range 1024) = (List.range 1024).map (fun i => (x.getD i 0, i)) := by
    apply List.ext_getElem
    · simp [h]
    · intro i h1 _
      have hi : i < x.length := by simp at h1; omega
      simp [hi]
  rw [hzip, List.filter_map]
  rfl

theorem gatherElems_cells (ty : ETy) (base stride : Word64) {x : Cells} (scale : Nat) (k : BitVec 1024) (h : x.length = 1024) :
    gatherElems ty base stride x scale k = (cellsOf k).map (fun i =>
      { cell := i, va := addr64 (base.toInt + (i / 64 : Nat) * stride.toInt + (x.getD i 0).toInt * 2 ^ scale), n := tyBytes ty,
        shift := 0, align := tyBytes ty }) := by
  unfold gatherElems
  rw [zip_range_filter x k h, List.map_map]
  refine List.map_congr_left fun i _ => (vaddr_alone ..).trans ?_
  simp

end Sys2Proof.Elements
end

section
/-!
PROOFS. A V instruction that issues, and the lines that a load of elements asks memory for (spec/05 R119 to R121, spec/17 R361,
spec/21 R410, R411).
-/

namespace Sys2Proof.VectorLoads
open Sys2Proof Sys2Proof.Machine Sys2Proof.Laws Sys2Proof.Claim Sys2Proof.Control Sys2Proof.Traffic Sys2Proof.VectorIssue

/-! ## Issue (R45, R120, R121) -/

/-- Sources that an instruction waits for. -/
def waits (srcs : List VSrc) : List VUse := srcs.map (fun a => { src := a, trap := false })

theorem vecIssue_issues {s : State} {t : Task} {srcs : List VSrc} {dsts : List Nat} (h : VecCan s t srcs dsts) (f : Task → State) :
    vecIssue (waits srcs) dsts s f = .next (f t) := by
  obtain ⟨ht, hs, hd⟩ := h
  have hin : AllInside t (waits srcs) dsts = true := by
    simp only [AllInside, waits, List.all_map, Bool.and_eq_true, List.all_eq_true, Function.comp_apply, decide_eq_true_eq]
    exact ⟨fun a ha => (hs a ha).1, fun d hd' => (hd d hd').1⟩
  have hfull : ∀ b : Bool, (waits srcs).any (fun u => (u.trap == b) && !t.full u.src) = false := by
    intro b
    simp only [waits, List.any_map, List.any_eq_false, Function.comp_apply]
    exact fun a ha => by simp [(hs a ha).2]
  have hopen : (waits srcs).any (fun u => !u.trap && !t.full u.src) = false := by simpa using hfull false
  have htrap : (waits srcs).any (fun u => u.trap && !t.full u.src) = false := by simpa using hfull true
  have hfill : dsts.any t.filling = false := by
    simp only [List.any_eq_false]
    exact fun d hd' => by simp [(hd d hd').2]
  unfold AllInside at hin
  refine (onTask_some ht _).trans ?_
  simp only [hin, hopen, hfill, htrap, Bool.not_true, Bool.false_eq_true, if_false]

/-- The issuing task changed, its account charged and its stream moved on: nothing else of the device differs. -/
theorem oneTask_vDone {s : State} {t : Task} (h : s.curTask = some t) (hv : s.cur.stream = .v) (f : Task → Task) (ch n : Nat) :
    OneTask s ((s.modCur f).vDone ch n)
      ∧ ((s.modCur f).vDone ch n).curTask = some ((f t).modSt .v (fun x => x.advance n)) := by
  have ht := curTask_modCur h f
  have hcur : ((s.modCur f).charge (f t).cr.lacct.toNat ch).cur.stream = .v := by simp [hv]
  have hdone : (s.modCur f).vDone ch n = ((s.modCur f).charge (f t).cr.lacct.toNat ch).modSt (fun x => x.advance n) := by
    unfold State.vDone
    rw [chargeCur_eq ht]
    exact finish_of_not_s (by rw [hcur]; exact Stream.noConfusion) n
  rw [hdone]
  refine ⟨(((OneTask.refl s).modCur f).charge _ ch).modCur _, ?_⟩
  rw [← hcur]
  exact curTask_modSt ((curTask_charge ..).trans ht) _

/-! ## Requests at the stacks (R361) -/

theorem dramOf_congr {s s' : State} (h : s'.drams = s.drams) (own pa : Nat) : dramOf s' own pa = dramOf s own pa := by
  unfold dramOf State.stack
  rw [h]

/-- A request put before a scheduler stands behind those of its queue. -/
theorem queue_toDram (s : State) (o : Orig) (pa : Nat) (write : Bool) (key own : Nat) (pay : Option WPay) :
    ∃ r : DReq, r.own = own ∧ r.pa = pa / 128 * 128 ∧ ∀ q : Nat × Nat,
      mget q.2 [] ((s.toDram o pa write key own pay).stack q.1).queues
        = mget q.2 [] (s.stack q.1).queues ++ if q = dramQueue pa then [r] else [] := by
  unfold State.toDram
  extract_lets d r at_
  refine ⟨r, rfl, rfl, fun q => ?_⟩
  by_cases h1 : q.1 = at_.1
  · by_cases h2 : q.2 = at_.2
    · rw [if_pos (Prod.ext h1 h2)]
      simp [State.stack, State.modStack, mmod, h1, h2]
    · rw [if_neg fun e => h2 (congrArg Prod.snd e)]
      simp [State.stack, State.modStack, mmod, h1, mget_mset_other h2]
  · rw [if_neg fun e => h1 (congrArg Prod.fst e)]
    simp [State.stack, State.modStack, mget_mset_other h1]

/-- The request of an owner for a line stands until it is taken out. -/
theorem dramOf_toDram_isSome {s : State} {own pa : Nat} (h : (dramOf s own pa).isSome = true) (o : Orig) (pa' : Nat) (write : Bool)
    (key own' : Nat) (pay : Option WPay) : (dramOf (s.toDram o pa' write key own' pay) own pa).isSome = true := by
  obtain ⟨r, -, -, hq⟩ := queue_toDram s o pa' write key own' pay
  unfold dramOf at h ⊢
  rw [hq, List.find?_append]
  simp [Option.isSome_or, h]

theorem dramOf_toDram_same (s : State) (o : Orig) (pa : Nat) (write : Bool) (key own : Nat) (pay : Option WPay) :
    (dramOf (s.toDram o pa write key own pay) own pa).isSome = true := by
  obtain ⟨r, hown, hpa, hq⟩ := queue_toDram s o pa write key own pay
  unfold dramOf
  rw [hq, if_pos rfl, List.find?_isSome]
  exact ⟨r, List.mem_append_right _ (List.mem_singleton_self r), by simp [hown, hpa]⟩

theorem dramOf_some {s : State} {own pa : Nat} {r : DReq} (h : dramOf s own pa = some r) : r.own = own ∧ r.pa = pa / 128 * 128 := by
  have := List.find?_some h
  simpa using this

/-! ## The reassembly table (R411) -/

theorem mfind_isSome_of_mem {α : Type} {m : SMap α} {i : Nat} (h : (mfind i m).isSome = true) : i ∈ m.map (·.1) := by
  induction m with
  | nil => simp [mfind] at h
  | cons p m ih =>
    obtain ⟨j, w⟩ := p
    rw [mfind] at h
    by_cases e : j = i
    · simp [e]
    · rw [if_neg e] at h
      exact List.mem_cons_of_mem _ (ih h)

/-- Among the first m + 1 numbers one is free in a table of m entries. -/
theorem mfind_lowestFree {α : Type} (m : SMap α) : mfind (lowestFree m) m = none := by
  have hex : ∃ i ∈ List.range (m.length + 1), (mfind i m).isNone = true := by
    by_contra hall
    push Not at hall
    have hsub : List.range (m.length + 1) ⊆ m.map (·.1) := fun i hi =>
      mfind_isSome_of_mem (by have := hall i hi; cases h : mfind i m <;> simp_all)
    have := (List.nodup_range.subperm hsub).length_le
    simp at this
  unfold lowestFree
  obtain ⟨i, hi⟩ := Option.isSome_iff_exists.1 (List.find?_isSome.2 hex)
  rw [hi]
  simpa using List.find?_some hi

/-- An entry put under a number that is free adds to those of the table. -/
theorem mset_free {α : Type} {k : Nat} (v : α) {m : SMap α} (h : mfind k m = none) :
    (mset k v m).length = m.length + 1 ∧ ∀ e, e ∈ mset k v m ↔ e = (k, v) ∨ e ∈ m := by
  induction m with
  | nil => simp [mset]
  | cons p m ih =>
    obtain ⟨j, w⟩ := p
    rw [mfind] at h
    have hne : ¬ j = k := by rintro rfl; simp at h
    rw [if_neg hne] at h
    obtain ⟨hlen, hmem⟩ := ih h
    unfold mset
    split
    · simp
    · rw [if_neg (Ne.symm hne)]
      refine ⟨by simp [hlen], fun e => ?_⟩
      rw [List.mem_cons, List.mem_cons, hmem]
      tauto

/-! ## Lines asked for (R361, R410, R411) -/

/-- One line asked for, with an entry of the core's reassembly table, while the table has room. -/
def askLine (c : Nat) (o : Orig) (own pav cap : Nat) (p : VPart) (s : State) : State :=
  if reasmFree s c then ((s.takeEntry c own (lineOf p.pa)).lineRequest c flRead own 1 p.pa pav cap).toDram o p.pa false p.key own none
  else s

/-- What an owner's reads still have to read from memory. -/
def needed (s : State) (c : Nat) (ps : List VPart) : List VPart := (partLines ps).filter (readsMemory s c)

theorem needLines_eq (s : State) (c : Nat) (o : Orig) (own pav cap : Nat) (ps : List VPart) :
    s.needLines c o own pav cap ps =
      (each ((needed s c ps).filter (fun p => (dramOf s own p.pa).isNone)) (askLine c o own pav cap)
        (each ((needed s c ps).filter (fun p => s.servedHere own p.pa)) (fun p s => s.freeLine c own (lineOf p.pa)) s),
      (needed s c ps).all (fun p => s.servedHere own p.pa)) := rfl

/-- Of a core's reassembly table only entries of one owner come and go; no request of the scalar streams changes. -/
structure Asking (c own : Nat) (s s' : State) : Prop where
  traffic : OnlyTraffic s s'
  reqs : s'.reqs = s.reqs
  nextId : s'.nextId = s.nextId
  new : ∀ e ∈ (s'.core c).reasm, e ∈ (s.core c).reasm ∨ e.2.1 = own
  old : ∀ e ∈ (s.core c).reasm, e.2.1 ≠ own → e ∈ (s'.core c).reasm

theorem Asking.refl (c own : Nat) (s : State) : Asking c own s s :=
  ⟨OnlyTraffic.refl s, rfl, rfl, fun _ h => .inl h, fun _ h _ => h⟩

theorem Asking.trans {c own : Nat} {s s' s'' : State} (h : Asking c own s s') (h' : Asking c own s' s'') : Asking c own s s'' :=
  ⟨h.traffic.trans h'.traffic, h'.reqs.trans h.reqs, h'.nextId.trans h.nextId,
    fun e he => (h'.new e he).elim (h.new e) .inr, fun e he hne => h'.old e (h.old e he hne) hne⟩

theorem Asking.each {α : Type} {c own : Nat} {f : α → State → State} (hf : ∀ a x, Asking c own x (f a x)) (l : List α) (s : State) :
    Asking c own s (each l f s) :=
  each_keeps (Asking c own s) f (fun a x h => h.trans (hf a x)) l s (Asking.refl c own s)

theorem asking_freeLine (s : State) (c own line : Nat) : Asking c own s (s.freeLine c own line) := by
  have hreasm : ((s.freeLine c own line).core c).reasm = (s.core c).reasm.filter (fun e => e.2 ≠ (own, line)) :=
    congrArg Core.reasm (core_modCore_same ..)
  refine ⟨OnlyTraffic.freeLine .., rfl, rfl, fun e he => ?_, fun e he hne => ?_⟩
  · rw [hreasm] at he
    exact .inl (List.mem_filter.1 he).1
  · rw [hreasm]
    exact List.mem_filter.2 ⟨he, decide_eq_true fun e2 => hne (congrArg Prod.fst e2)⟩

theorem reasm_takeEntry (s : State) (c own line : Nat) :
    ((s.takeEntry c own line).core c).reasm.length = (s.core c).reasm.length + 1
      ∧ ∀ e, e ∈ ((s.takeEntry c own line).core c).reasm ↔ e = (lowestFree (s.core c).reasm, own, line) ∨ e ∈ (s.core c).reasm := by
  rw [show ((s.takeEntry c own line).core c).reasm = mset (lowestFree (s.core c).reasm) (own, line) (s.core c).reasm from
    congrArg Core.reasm (core_modCore_same ..)]
  exact mset_free _ (mfind_lowestFree _)

section
variable (c : Nat) (o : Orig) (own pav cap : Nat) (p : VPart) (s : State)

theorem asking_askLine : Asking c own s (askLine c o own pav cap p s) := by
  unfold askLine
  split
  · obtain ⟨-, hmem⟩ := reasm_takeEntry s c own (lineOf p.pa)
    refine ⟨((OnlyTraffic.takeEntry ..).trans (OnlyTraffic.lineRequest ..)).trans (OnlyTraffic.toDram ..), rfl, rfl,
      fun e he => ?_, fun e he _ => (hmem e).2 (.inr he)⟩
    rcases (hmem e).1 he with rfl | he
    · exact .inr rfl
    · exact .inl he
  · exact Asking.refl ..

/-- Is the line of a part asked for, or no entry free for its answer? -/
def Pending (c own : Nat) (p : VPart) (s : State) : Prop := (dramOf s own p.pa).isSome = true ∨ 256 ≤ (s.core c).reasm.length

theorem pending_askLine_same : Pending c own p (askLine c o own pav cap p s) := by
  unfold askLine
  split
  · exact .inl (dramOf_toDram_same ..)
  · next h => exact .inr (by simpa [reasmFree] using h)

variable {c own s}

theorem pending_askLine {q : VPart} (h : Pending c own q s) : Pending c own q (askLine c o own pav cap p s) := by
  unfold askLine
  split
  · refine h.imp (fun hd => dramOf_toDram_isSome hd ..) fun hl => ?_
    exact hl.trans ((Nat.le_succ _).trans (reasm_takeEntry s c own (lineOf p.pa)).1.ge)
  · exact h

end

/-- What each step of a list does and no later one undoes holds at the end for all of the list. -/
theorem each_reaches {α σ : Type} {P : α → σ → Prop} {f : α → σ → σ} (hdo : ∀ a s, P a (f a s))
    (hkeep : ∀ a b s, P b s → P b (f a s)) (l : List α) (s : σ) : ∀ a ∈ l, P a (each l f s) := by
  induction l generalizing s with
  | nil => simp
  | cons b l ih =>
    intro a ha
    rcases List.mem_cons.1 ha with rfl | ha
    · exact each_keeps (P a) f (fun b x => hkeep b a x) l _ (hdo a s)
    · exact ih _ a ha

theorem asking_needLines (s : State) (c : Nat) (o : Orig) (own pav cap : Nat) (ps : List VPart) :
    Asking c own s (s.needLines c o own pav cap ps).1 := by
  rw [needLines_eq]
  exact (Asking.each (fun _ _ => asking_freeLine ..) ..).trans (Asking.each (fun _ _ => asking_askLine ..) ..)

/-- Every line that must be read is asked for, while the table has room. -/
theorem pending_needLines (s : State) (c : Nat) (o : Orig) (own pav cap : Nat) (ps : List VPart) {p : VPart} (hp : p ∈ partLines ps)
    (hm : readsMemory s c p = true) : Pending c own p (s.needLines c o own pav cap ps).1 := by
  have hneed : p ∈ needed s c ps := List.mem_filter.2 ⟨hp, hm⟩
  rw [needLines_eq]
  by_cases hd : (dramOf s own p.pa).isSome = true
  · refine each_keeps (Pending c own p) _ (fun q x => pending_askLine o pav cap q) _ _ (.inl ?_)
    rw [← hd]
    refine congrArg Option.isSome (dramOf_congr ?_ own p.pa)
    exact each_keeps (fun x : State => x.drams = s.drams) (fun (q : VPart) x => x.freeLine c own (lineOf q.pa)) (fun _ _ h => h) _ _ rfl
  · refine each_reaches (P := fun p s => Pending c own p s) (fun q x => pending_askLine_same c o own pav cap q x)
      (fun q p x => pending_askLine o pav cap q) _ _ p (List.mem_filter.2 ⟨hneed, ?_⟩)
    simpa using hd

end Sys2Proof.VectorLoads
end

section
/-!
PROOFS. VLD and VGATH (spec/05 R119, R137 to R141): a load whose elements pass their checks asks for its lines and begins a fill; one
that fails a check takes its fault.
-/

namespace Sys2Proof.VectorLoads
open Sys2Proof Sys2Proof.Machine Sys2Proof.Laws Sys2Proof.Claim Sys2Proof.Control Sys2Proof.Traffic Sys2Proof.VectorIssue

section
variable {s s' : State} (h : OneTask s s')
include h

theorem reasm_of_oneTask (b : Nat) : (s'.core b).reasm = (s.core b).reasm := (congrArg Core.reasm (h.cores b) :)

theorem drams_of_oneTask : s'.drams = s.drams := (congrArg State.drams h.rest :)

theorem reqs_of_oneTask : s'.reqs = s.reqs := (congrArg State.reqs h.rest :)

theorem sameBytes_of_oneTask : SameBytes s s' :=
  ⟨fun a => (congrArg (fun x : State => memRead a x.mem) h.rest :), h.byteK⟩

end

section
variable {s : State} {t : Task} {srcs : List VSrc} {ty : ETy} {rd : Nat} {els : Task → List VAddr}

/-- A DEV page asks for nothing more where the earlier stores have reached memory (R335). -/
theorem devFree_any {es : List VEl} (h : DevFree s t es) :
    (es.any (fun e => e.parts.any (fun p => p.cls = .dev)) && !(s.devReady t).2) = false := by
  by_cases hd : ∃ e ∈ es, ∃ p ∈ e.parts, p.cls = .dev
  · simp [h hd]
  · simp only [not_exists, not_and] at hd
    rw [Bool.and_eq_false_iff]
    left
    simp only [List.any_eq_false, List.any_eq_true, decide_eq_true_eq, not_exists, not_and]
    exact hd

/-- The state in which a load's lines have been asked for. -/
def asked (s : State) (t : Task) (es : List VEl) : State :=
  (s.fresh.needLines s.cur.core.val (t.eff.orig s.cur.core.val) s.nextId t.pav t.eff.injCap (es.flatMap (·.parts))).1

/-- The fill that a load begins. -/
def begins (s : State) (v : VReg) (k : FillKind) (t : Task) : Task := t.beginFill s.nextId v.val s.curSt.blkId s.curSt.pc k

/-- The state that a load leaves. -/
def loadStarts (s : State) (t : Task) (v : VReg) (ty : ETy) (rd : Nat) (es : List VEl) : State :=
  ((asked s t es).fresh.modCur (begins (asked s t es) v (.mem s.nextId es ty rd))).vDone vCharge 3

theorem vecLoad_starts {v : VReg} {es : List VEl} (h : VecCan s t srcs [v.val])
    (hc : checkElems s s.curDie t.pav .read (els t) = .ok es) (hgo : vecMayGo s t es false = true) (hdev : DevFree s t es)
    (hroom : reasmFree s s.cur.core.val = true ∨ ∀ e ∈ es, ∀ p ∈ e.parts, readsMemory s s.cur.core.val p = false) :
    vecLoad (waits srcs) v ty rd els s = .next (loadStarts s t v ty rd es) := by
  have hdev' : ((es.flatMap (·.parts)).any (fun p => p.cls = .dev) && !(s.devReady t).2) = false := by
    rw [List.any_flatMap]
    exact devFree_any hdev
  have hroom' : (!reasmFree s s.cur.core.val && (es.flatMap (·.parts)).any (readsMemory s s.cur.core.val)) = false := by
    rw [List.any_flatMap]
    rcases hroom with hr | hr
    · simp [hr]
    · have : es.any (fun e => e.parts.any (readsMemory s s.cur.core.val)) = false := by
        simp only [List.any_eq_false, List.any_eq_true, not_exists, not_and, Bool.not_eq_true]
        exact hr
      simp [this]
  refine (vecIssue_issues h _).trans (congrArg Host.Outcome.next ?_)
  simp only [hc, hgo, hdev', hroom', Bool.not_true, Bool.false_eq_true, if_false]
  rfl

theorem vecLoad_faults {v : VReg} {c : BitVec 8} {va : Nat} (h : VecCan s t srcs [v.val])
    (hc : checkElems s s.curDie t.pav .read (els t) = .bad c va) (hp : parks t c = false) :
    vecLoad (waits srcs) v ty rd els s = .next (s.takeMemFault c va) := by
  refine (vecIssue_issues h _).trans (congrArg Host.Outcome.next ?_)
  simp only [hc, hp, Bool.false_eq_true, if_false]

theorem mem_ladd (x y : Nat) (l : List Nat) : x ∈ ladd y l ↔ x = y ∨ x ∈ l := by
  unfold ladd
  split
  · next h => exact ⟨.inr, fun hx => hx.elim (· ▸ h) id⟩
  · simp [or_comm]

/-- What the instruction itself adds to the lines asked for is a fill of its register (R119). -/
theorem loadBegun_loadStarts (ht : s.curTask = some t) (hv : s.cur.stream = .v) (v : VReg) (es : List VEl) :
    LoadBegun s (loadStarts s t v ty rd es) t v es (.mem s.nextId es ty rd) := by
  have hask : Asking s.cur.core.val s.nextId s.fresh (asked s t es) := asking_needLines ..
  have hasked : OnlyTraffic s (asked s t es) := (OnlyTraffic.fresh s).trans hask.traffic
  have htraffic : OnlyTraffic s (asked s t es).fresh := hasked.trans (OnlyTraffic.fresh _)
  have hcur : (asked s t es).fresh.cur = s.cur := htraffic.cur
  have htask : (asked s t es).fresh.curTask = some t := htraffic.curTask.trans ht
  obtain ⟨hone, hlast⟩ := oneTask_vDone htask (by rw [hcur, hv]) (begins (asked s t es) v (.mem s.nextId es ty rd)) vCharge 3
  have hreasm : ((loadStarts s t v ty rd es).core s.cur.core.val).reasm = ((asked s t es).core s.cur.core.val).reasm :=
    reasm_of_oneTask hone _
  have hdram : dramOf (loadStarts s t v ty rd es) = dramOf (asked s t es) :=
    funext fun own => funext fun pa => dramOf_congr (drams_of_oneTask hone) own pa
  have hctx : (asked s t es).curSt = t.st .v := by
    rw [curSt_eq (hasked.curTask.trans ht), hasked.cur, hv]
  have hbegins : begins (asked s t es) v (.mem s.nextId es ty rd) t
      = t.beginFill (s.nextId + 1) v.val (t.st .v).blkId (t.st .v).pc (.mem s.nextId es ty rd) := by
    unfold begins
    rw [hask.nextId, hctx]
    rfl
  refine ⟨?_, ?_, fun p hp hm => ?_, _, hlast, fun m => ?_, ?_, ?_, ?_, ?_, ?_⟩
  · rw [hreasm]
    exact hask.new
  · rw [hreasm]
    exact hask.old
  · rw [hreasm, hdram]
    exact pending_needLines s.fresh _ _ _ _ _ _ hp hm
  · rw [hbegins]
    exact mem_ladd m v.val t.empty
  · rw [hbegins]
    rfl
  · rw [hbegins]
    exact st_modSt_same ..
  · rw [hbegins]
    rfl
  · exact sameBytes_trans htraffic.sameBytes (sameBytes_of_oneTask hone)
  · exact (reqs_of_oneTask hone).trans hask.reqs

end

theorem exec_vld (o : VMem VReg) (s : State) : exec (.vld o) s = vecLoad (waits []) o.v o.ty o.rd.val
    (fun t => rowElems o.ty (t.a .v o.base.val) (t.a .v o.stride.val) o.off.toInt (t.kreg o.k.val)) s := rfl

theorem exec_vgath (o : VMemX VReg) (s : State) : exec (.vgath o) s = vecLoad (waits [o.idx]) o.v o.ty o.rd.val
    (fun t => gatherElems o.ty (t.a .v o.base.val) (t.a .v o.stride.val) (t.vsrc o.idx) o.scale.val (t.kreg o.k.val)) s := rfl

/-- A vector load once its registers allow it to issue (R137 to R141). -/
theorem exec_load_of_checks {s : State} {t : Task} {i : Instr} {srcs : List VSrc} {v : VReg} {ty : ETy} {rd : Nat}
    {els : Task → List VAddr} (hi : exec i s = vecLoad (waits srcs) v ty rd els s) (hv : s.cur.stream = .v) (h : VecCan s t srcs [v.val]) :
    (∀ es, checkElems s s.curDie t.pav .read (els t) = .ok es → vecMayGo s t es false = true → DevFree s t es →
      (reasmFree s s.cur.core.val = true ∨ ∀ e ∈ es, ∀ p ∈ e.parts, readsMemory s s.cur.core.val p = false) →
      ∃ s', exec i s = .next s' ∧ LoadBegun s s' t v es (.mem s.nextId es ty rd))
    ∧ (∀ c va, checkElems s s.curDie t.pav .read (els t) = .bad c va → parks t c = false → exec i s = .next (s.takeMemFault c va)) :=
  ⟨fun _ hc hgo hdev hroom => ⟨_, hi.trans (vecLoad_starts h hc hgo hdev hroom), loadBegun_loadStarts h.1 hv ..⟩,
    fun _ _ hc hp => hi.trans (vecLoad_faults h hc hp)⟩

end Sys2Proof.VectorLoads
end

section
/-!
PROOFS. VST and VSCAT (spec/05 R137 to R140): a store changes no register and no byte of memory; one element in one line sends exactly
its bytes.
-/

namespace Sys2Proof.VectorStores
open Sys2Proof Sys2Proof.Machine Sys2Proof.Laws Sys2Proof.Claim Sys2Proof.Traffic Sys2Proof.VectorIssue Sys2Proof.VectorLoads

/-! ## Bits and bytes of a line (R4, R137) -/

/-- Bits set one after another where a test fails, from the lowest. -/
theorem testBit_setBits (P : Nat → Prop) [DecidablePred P] (m : Nat) :
    (List.range m).foldl (fun n i => if P i then n else n + 2 ^ i) 0 < 2 ^ m
      ∧ ∀ j, ((List.range m).foldl (fun n i => if P i then n else n + 2 ^ i) 0).testBit j = decide (j < m ∧ ¬ P j) := by
  induction m with
  | zero => simp
  | succ m ih =>
    obtain ⟨hlt, hbit⟩ := ih
    rw [List.range_succ, List.foldl_append, List.foldl_cons, List.foldl_nil]
    generalize List.foldl _ 0 (List.range m) = n at hlt hbit ⊢
    have hpow : 2 ^ (m + 1) = 2 ^ m + 2 ^ m := by rw [pow_succ, mul_two]
    split
    case isTrue hP =>
      refine ⟨by omega, fun j => ?_⟩
      rw [hbit, decide_eq_decide]
      refine ⟨fun h => ⟨by omega, h.2⟩, fun h => ⟨?_, h.2⟩⟩
      have : j ≠ m := fun e => h.2 (e ▸ hP)
      omega
    case isFalse hP =>
      refine ⟨by omega, fun j => ?_⟩
      rw [Nat.add_comm]
      rcases Nat.lt_trichotomy j m with hj | rfl | hj
      · rw [Nat.testBit_two_pow_add_gt hj, hbit, decide_eq_decide]
        exact ⟨fun h => ⟨by omega, h.2⟩, fun h => ⟨hj, h.2⟩⟩
      · rw [Nat.testBit_two_pow_add_eq, Nat.testBit_lt_two_pow hlt]
        simp [hP]
      · rw [Nat.testBit_lt_two_pow]
        · exact (decide_eq_false (by omega)).symm
        · exact (show 2 ^ m + n < 2 ^ (m + 1) by omega).trans_le (Nat.pow_le_pow_right (by omega) hj)

theorem getLsbD_touched (mask : BitVec 1024) {j : Nat} (hj : j < 128) :
    (touched mask).getLsbD j = decide (mask.toNat / 2 ^ (8 * j) % 256 ≠ 0) := by
  obtain ⟨-, hbit⟩ := testBit_setBits (fun i => mask.toNat / 2 ^ (8 * i) % 256 = 0) 128
  rw [touched, BitVec.getLsbD_ofNat, hbit]
  simp [hj]

/-- The bits of n bytes from byte `off` of a line. -/
def byteSpan (off n : Nat) : Nat := (2 ^ (8 * n) - 1) * 2 ^ (8 * off)

theorem byteSpan_byte (off n i : Nat) : byteSpan off n / 2 ^ (8 * i) % 256 = if off ≤ i ∧ i < off + n then 255 else 0 := by
  rw [show 256 = 2 ^ 8 from rfl, show 255 = 2 ^ 8 - 1 from rfl]
  apply Nat.eq_of_testBit_eq
  intro b
  rw [Nat.testBit_mod_two_pow, Nat.testBit_div_two_pow, byteSpan, Nat.testBit_mul_two_pow, Nat.testBit_two_pow_sub_one]
  split
  case isTrue h =>
    rw [Nat.testBit_two_pow_sub_one, Bool.eq_iff_iff]
    simp only [Bool.and_eq_true, decide_eq_true_eq]
    omega
  case isFalse h =>
    rw [Nat.zero_testBit, Bool.eq_false_iff]
    simp only [ne_eq, Bool.and_eq_true, decide_eq_true_eq]
    omega

theorem toNat_byteSpan {off n m : Nat} (h : 8 * (off + n) ≤ m) : (BitVec.ofNat m (byteSpan off n)).toNat = byteSpan off n := by
  have hlt : byteSpan off n < 2 ^ (8 * n) * 2 ^ (8 * off) :=
    Nat.mul_lt_mul_of_pos_right (Nat.sub_lt (Nat.two_pow_pos _) Nat.one_pos) (Nat.two_pow_pos _)
  rw [← pow_add] at hlt
  rw [BitVec.toNat_ofNat]
  exact Nat.mod_eq_of_lt (hlt.trans_le (Nat.pow_le_pow_right (by omega) (by omega)))

theorem wholeBytes_byteSpan (off n : Nat) : wholeBytes (byteSpan off n) = true := by
  simp only [wholeBytes, List.all_eq_true, byteSpan_byte]
  intro i _
  split
  all_goals decide

theorem touched_byteSpan {off n j : Nat} (h : off + n ≤ 128) (hj : j < 128) :
    (touched (BitVec.ofNat 1024 (byteSpan off n))).getLsbD j = decide (off ≤ j ∧ j < off + n) := by
  rw [getLsbD_touched _ hj, toNat_byteSpan (by omega), byteSpan_byte, decide_eq_decide]
  split
  case isTrue hin => simpa using hin
  case isFalse hout => simpa using hout

theorem bytesOf_getD {n i : Nat} (h : i < n) (w : Nat) : (bytesOf n w).getD i 0 = BitVec.ofNat 8 (w / 2 ^ (8 * i)) := by
  induction n generalizing i w with
  | zero => omega
  | succ n ih =>
    cases i with
    | zero => simp [bytesOf]
    | succ i =>
      rw [bytesOf, List.getD_cons_succ, ih (by omega), Nat.div_div_eq_div_mul, show 256 = 2 ^ 8 from rfl, ← pow_add,
        show 8 + 8 * i = 8 * (i + 1) by omega]

/-- Bytes shifted into a line stand there as they are. -/
theorem bytesOf_shifted {off n j : Nat} (h : off + n ≤ 128) (hj : j < n) (v : Nat) :
    (bytesOf 128 (v % 2 ^ (8 * n) * 2 ^ (8 * off))).getD (off + j) 0 = (bytesOf n v).getD j 0 := by
  rw [bytesOf_getD (by omega), bytesOf_getD hj]
  apply BitVec.eq_of_toNat_eq
  rw [BitVec.toNat_ofNat, BitVec.toNat_ofNat]
  apply Nat.eq_of_testBit_eq
  intro b
  rw [Nat.testBit_mod_two_pow, Nat.testBit_mod_two_pow, Nat.testBit_div_two_pow, Nat.testBit_div_two_pow, Nat.testBit_mul_two_pow,
    Nat.testBit_mod_two_pow, show b + 8 * (off + j) - 8 * off = b + 8 * j by omega]
  by_cases hb : b < 8
  · simp [hb, show 8 * off ≤ b + 8 * (off + j) by omega, show b + 8 * j < 8 * n by omega]
  · simp [hb]

/-! ## The writes of a store (R137, R138) -/

/-- The write of the n bytes of a part, all in its line. -/
def partWrite (p : VPart) (va v : Nat) : LineWrite :=
  { part := p, va := va, mask := byteSpan (p.pa % 128) p.n, data := v % 2 ^ (8 * p.n) * 2 ^ (8 * (p.pa % 128)) }

/-- One element of whole bytes in one line is one write, of its bytes. -/
theorem storeWrites_single {ty : ETy} {cells : Cells} {e : VEl} {p : VPart} (hp : e.parts = [p]) (hs : e.shift = 0)
    (hb : 8 * p.n = ty.bits) : storeWrites ty cells [e] = [partWrite p e.va (memBits ty (cells.getD e.cell 0))] := by
  have hpos := Nat.two_pow_pos (8 * p.n)
  simp only [storeWrites, elemWrites, List.foldl_cons, List.foldl_nil, hp, hs, ← hb, addWrite, pow_zero, Nat.mul_one, Nat.mul_zero,
    Nat.div_one, Nat.add_zero, Nat.mod_mod, partWrite, byteSpan, Nat.mod_eq_of_lt (Nat.sub_lt hpos Nat.one_pos)]

section
variable {s : State} {t : Task} {srcs : List VSrc} {v : VSrc} {ty : ETy} {rd : Nat} {els : Task → List VAddr}

/-- The state in which a store's lines have been written or sent. -/
def stored (s : State) (t : Task) (v : VSrc) (ty : ETy) (rd : Nat) (es : List VEl) : State :=
  each (storeWrites ty (t.vsrc v) es) (fun w s => s.writeLine t rd w) s

/-- The state that a store leaves. -/
def storeEnds (s : State) (t : Task) (v : VSrc) (ty : ETy) (rd : Nat) (es : List VEl) : State :=
  ((stored s t v ty rd es).modCur (fun t => t.noteStored v ty es)).vDone vCharge 3

theorem vecStore_ends {es : List VEl} (h : VecCan s t (v :: srcs) []) (hc : checkElems s s.curDie t.pav .store (els t) = .ok es)
    (hgo : vecMayGo s t es true = true) (hdev : DevFree s t es) :
    vecStore (waits srcs) v ty rd els s = .next (storeEnds s t v ty rd es) := by
  refine (vecIssue_issues h _).trans (congrArg Host.Outcome.next ?_)
  simp only [hc, hgo, devFree_any hdev, Bool.not_true, Bool.false_eq_true, if_false]
  rfl

theorem vecStore_faults {c : BitVec 8} {va : Nat} (h : VecCan s t (v :: srcs) [])
    (hc : checkElems s s.curDie t.pav .store (els t) = .bad c va) :
    vecStore (waits srcs) v ty rd els s = .next (s.takeMemFault c va) := by
  refine (vecIssue_issues h _).trans (congrArg Host.Outcome.next ?_)
  simp only [hc]

theorem noteStored_but_drains (t : Task) (v : VSrc) (ty : ETy) (es : List VEl) :
    { t.noteStored v ty es with drains := t.drains } = t := rfl

/-- A line of another class than PRIV and RSHR is written at its home (R137, R332). -/
theorem writeLine_atHome {w : LineWrite} (h : w.part.cls = .coh ∨ w.part.cls = .dev) (hw : wholeBytes w.mask = true) :
    ∃ l : Leaf, s.writeLine t rd w
      = s.requestStore t w.va w.part.pa l rd (.store (touched (BitVec.ofNat 1024 w.mask)) (bytesOf 128 w.data) false) := by
  have hcls : ((w.part.cls = .priv || w.part.cls = .rshr) && privHit s s.cur.core.val w.part.key (lineOf w.part.pa)) = false := by
    rcases h with h | h
    all_goals simp [h]
  unfold State.writeLine
  simp only [hcls, hw, if_true, Bool.false_eq_true, if_false]
  exact ⟨_, rfl⟩

theorem exec_vst (o : VMem VSrc) (s : State) : exec (.vst o) s = vecStore (waits []) o.v o.ty o.rd.val
    (fun t => rowElems o.ty (t.a .v o.base.val) (t.a .v o.stride.val) o.off.toInt (t.kreg o.k.val)) s := rfl

theorem exec_vscat (o : VMemX VSrc) (s : State) : exec (.vscat o) s = vecStore (waits [o.idx]) o.v o.ty o.rd.val
    (fun t => gatherElems o.ty (t.a .v o.base.val) (t.a .v o.stride.val) (t.vsrc o.idx) o.scale.val (t.kreg o.k.val)) s := rfl

/-- The request by which one element in one line of its home is stored: exactly its bytes (R137). -/
theorem request_stored {e : VEl} {p : VPart} (hp : e.parts = [p]) (hs : e.shift = 0) (hcls : p.cls = .coh ∨ p.cls = .dev)
    (hfit : p.pa % 128 + p.n ≤ 128) (hb : 8 * p.n = ty.bits) :
    ∃ r mask data, mfind s.nextId (stored s t v ty rd [e]).reqs = some r ∧ r.pa = p.pa ∧ r.kind = .store mask data false ∧ r.ctx = s.cur
      ∧ (∀ j, j < 128 → mask.getLsbD j = decide (p.pa % 128 ≤ j ∧ j < p.pa % 128 + p.n))
      ∧ (∀ j, j < p.n → data.getD (p.pa % 128 + j) 0 = (bytesOf p.n (memBits ty ((t.vsrc v).getD e.cell 0))).getD j 0) := by
  unfold stored
  rw [storeWrites_single hp hs hb]
  obtain ⟨l, hl⟩ := writeLine_atHome (s := s) (t := t) (rd := rd) (w := partWrite p e.va (memBits ty ((t.vsrc v).getD e.cell 0)))
    hcls (wholeBytes_byteSpan ..)
  obtain ⟨r, hr, hpa, hkind, hctx⟩ := mfind_requestStore s t e.va p.pa l rd _
  exact ⟨r, _, _, (congrArg (fun x : State => mfind s.nextId x.reqs) hl).trans hr, hpa, hkind, hctx,
    fun j hj => touched_byteSpan hfit hj, fun j hj => bytesOf_shifted hfit hj _⟩

/-- A vector store once its registers allow it to issue (R137, R138, R140). -/
theorem exec_store_of_checks {i : Instr} (hi : exec i s = vecStore (waits srcs) v ty rd els s) (hv : s.cur.stream = .v)
    (h : VecCan s t (v :: srcs) []) :
    (∀ es, checkElems s s.curDie t.pav .store (els t) = .ok es → vecMayGo s t es true = true → DevFree s t es →
      ∃ s' t', exec i s = .next s' ∧ s'.curTask = some t' ∧ t'.st .v = (t.st .v).advance 3
        ∧ { t' with strm := t.strm, drains := t.drains } = t ∧ SameBytes s s'
        ∧ (∀ e p, es = [e] → e.parts = [p] → e.shift = 0 → (p.cls = .coh ∨ p.cls = .dev) → p.pa % 128 + p.n ≤ 128 →
            8 * p.n = ty.bits →
            ∃ r mask data, mfind s.nextId s'.reqs = some r ∧ r.pa = p.pa ∧ r.kind = .store mask data false ∧ r.ctx = s.cur
              ∧ (∀ j, j < 128 → mask.getLsbD j = decide (p.pa % 128 ≤ j ∧ j < p.pa % 128 + p.n))
              ∧ (∀ j, j < p.n → data.getD (p.pa % 128 + j) 0 = (bytesOf p.n (memBits ty ((t.vsrc v).getD e.cell 0))).getD j 0)))
    ∧ (∀ c va, checkElems s s.curDie t.pav .store (els t) = .bad c va → exec i s = .next (s.takeMemFault c va)) := by
  refine ⟨fun es hc hgo hdev => ?_, fun c va hc => hi.trans (vecStore_faults h hc)⟩
  have htraffic : OnlyTraffic s (stored s t v ty rd es) := OnlyTraffic.each (fun w x => onlyTraffic_writeLine x t rd w) _ s
  obtain ⟨hone, hlast⟩ := oneTask_vDone (htraffic.curTask.trans h.1) (by rw [htraffic.cur, hv]) (fun t => t.noteStored v ty es) vCharge 3
  refine ⟨_, _, hi.trans (vecStore_ends h hc hgo hdev), hlast, st_modSt_same .., ?_,
    sameBytes_trans htraffic.sameBytes (sameBytes_of_oneTask hone), ?_⟩
  · exact noteStored_but_drains t v ty es
  · intro e p he hp hs hcls hfit hb
    have hreqs : (storeEnds s t v ty rd es).reqs = (stored s t v ty rd es).reqs := reqs_of_oneTask hone
    rw [hreqs]
    subst he
    exact request_stored hp hs hcls hfit hb

end

end Sys2Proof.VectorStores
end

section
/-!
PROOFS. VECTOR_FILL_LAND of elements on DEV pages (spec/05 R119, R138, spec/17 R361): what the lines hold when memory has served the
requests is what the cells get.
-/

namespace Sys2Proof.VectorLands
open Sys2Proof Sys2Proof.Machine Sys2Proof.Laws Sys2Proof.Claim Sys2Proof.Control Sys2Proof.Traffic Sys2Proof.VectorLoads

/-! ## The lines of some parts (R138) -/

/-- Do two parts name one line, under one key and class? -/
def SameLine (q p : VPart) : Prop := lineOf q.pa = lineOf p.pa ∧ q.key = p.key ∧ q.cls = p.cls

theorem any_sameLine (a : List VPart) (p : VPart) :
    a.any (fun q => lineOf q.pa = lineOf p.pa && q.key = p.key && q.cls = p.cls) = true ↔ ∃ q ∈ a, SameLine q p := by
  simp only [List.any_eq_true, Bool.and_eq_true, decide_eq_true_eq, SameLine, and_assoc]

/-- A further part adds its line where it is not there yet. -/
theorem partLines_concat (ps : List VPart) (p : VPart) :
    (∃ q ∈ partLines ps, SameLine q p) ∧ partLines (ps ++ [p]) = partLines ps ∨ partLines (ps ++ [p]) = partLines ps ++ [p] := by
  have hstep : partLines (ps ++ [p])
      = if (partLines ps).any (fun q => lineOf q.pa = lineOf p.pa && q.key = p.key && q.cls = p.cls) then partLines ps
        else partLines ps ++ [p] := by
    unfold partLines
    rw [List.foldl_append]
    rfl
  rw [hstep]
  split
  case isTrue h => exact .inl ⟨(any_sameLine ..).1 h, rfl⟩
  case isFalse => exact .inr rfl

theorem mem_of_mem_partLines {ps : List VPart} {p : VPart} (h : p ∈ partLines ps) : p ∈ ps := by
  induction ps using List.reverseRecOn with
  | nil => exact h
  | append_singleton ps q ih =>
    rcases partLines_concat ps q with ⟨-, he⟩ | he
    · rw [he] at h
      exact List.mem_append_left _ (ih h)
    · rw [he] at h
      exact List.mem_append.2 ((List.mem_append.1 h).imp_left ih)

theorem exists_partLines {ps : List VPart} {p : VPart} (h : p ∈ ps) : ∃ q ∈ partLines ps, SameLine q p := by
  induction ps using List.reverseRecOn with
  | nil => cases h
  | append_singleton ps r ih =>
    rcases partLines_concat ps r with ⟨hr, he⟩ | he
    · rw [he]
      rcases List.mem_append.1 h with h | h
      · exact ih h
      · exact List.mem_singleton.1 h ▸ hr
    · rw [he]
      rcases List.mem_append.1 h with h | h
      · obtain ⟨q, hq, hs⟩ := ih h
        exact ⟨q, List.mem_append_left _ hq, hs⟩
      · exact ⟨p, List.mem_append_right _ h, rfl, rfl, rfl⟩

/-! ## Lines of DEV pages as a core reads them (R332) -/

/-- A line of memory with the part that names it and whether it is poisoned. -/
def lineNow (s : State) (p : VPart) : VPart × List Byte × Bool :=
  (p, s.bytesK p.key (128 * lineOf p.pa) 128, s.poison.contains (lineOf p.pa))

/-- The lines that some parts meet, each once, with what memory holds of them. -/
def linesNow (s : State) (ps : List VPart) : List (VPart × List Byte × Bool) := (partLines ps).map (lineNow s)

theorem readLines_dev {s : State} {c l : Nat} {t : Task} (ht : s.task? c l = some t) (rd : Nat) {ps : List VPart}
    (hdev : ∀ p ∈ ps, p.cls = .dev) : s.readLines c l rd ps = (s, linesNow s ps) := by
  have hread : ∀ p ∈ partLines ps, s.readLine c l p.pa p.key p.cls rd = (s, (lineNow s p).2) := by
    intro p hp
    rw [hdev p (mem_of_mem_partLines hp)]
    simp only [State.readLine, ht]
    rfl
  unfold State.readLines linesNow
  generalize partLines ps = qs at hread ⊢
  induction qs using List.reverseRecOn with
  | nil => rfl
  | append_singleton qs q ih =>
    have hq := hread q (List.mem_append_right _ (List.mem_singleton_self q))
    rw [List.foldl_append, ih fun p hp => hread p (List.mem_append_left _ hp), List.foldl_cons, List.foldl_nil, hq, List.map_append]
    rfl

theorem slice_bytesK (s : State) (key a : Nat) {off n : Nat} (h : off + n ≤ 128) :
    slice (s.bytesK key a 128) off n = s.bytesK key (a + off) n := by
  have hlen : (((s.bytesK key a 128).drop off).take n).length = n := by simp [State.bytesK, tab]; omega
  unfold slice
  simp only [hlen, Nat.sub_self, List.replicate_zero, List.append_nil]
  apply List.ext_getElem
  · rw [hlen]
    simp [State.bytesK, tab]
  · intro i _ _
    simp [State.bytesK, tab, Nat.add_assoc]

/-- The bytes of a part out of its line are those of memory. -/
theorem partBytes_lineNow {s : State} {ps : List VPart} {p : VPart} (hp : p ∈ ps) (hfit : p.pa % 128 + p.n ≤ 128) :
    partBytes (linesNow s ps) p = s.bytesK p.key p.pa p.n := by
  obtain ⟨q, hq, hline, hkey, hcls⟩ := exists_partLines hp
  have hex : ((linesNow s ps).find?
      (fun x => lineOf x.1.pa = lineOf p.pa && x.1.key = p.key && x.1.cls = p.cls)).isSome = true :=
    List.find?_isSome.2 ⟨lineNow s q, List.mem_map_of_mem hq, by simp [lineNow, hline, hkey, hcls]⟩
  obtain ⟨x, hx⟩ := Option.isSome_iff_exists.1 hex
  obtain ⟨q', -, rfl⟩ := List.mem_map.1 (List.mem_of_find?_eq_some hx)
  have hsame := List.find?_some hx
  simp only [lineNow, Bool.and_eq_true] at hsame
  obtain ⟨⟨hline', hkey'⟩, -⟩ := hsame
  simp only [partBytes, hx, lineNow]
  rw [of_decide_eq_true hline', of_decide_eq_true hkey', slice_bytesK s _ _ hfit, lineOf, Nat.div_add_mod]

/-! ## Cells placed in a register (R119) -/

theorem lset_eq_set {α : Type} (l : List α) (i : Nat) (x : α) : lset l i x = l.set i x := by
  unfold lset
  by_cases h : i < l.length
  · rw [if_pos h, List.append_assoc, List.singleton_append, List.set_eq_take_append_cons_drop, if_pos h]
  · rw [if_neg h, List.append_nil, List.take_of_length_le (by omega), List.drop_of_length_le (by omega), List.append_nil,
      List.set_eq_of_length_le (by omega)]

theorem getD_lset {α : Type} (l : List α) (i j : Nat) (x d : α) :
    (lset l i x).getD j d = if j = i ∧ i < l.length then x else l.getD j d := by
  rw [lset_eq_set, List.getD_eq_getElem?_getD, List.getElem?_set, List.getD_eq_getElem?_getD]
  by_cases hj : i = j
  · subst hj
    by_cases h : i < l.length
    · simp [h]
    · simp [h]
  · rw [if_neg hj, if_neg fun h => hj h.1.symm]

theorem placeCells_other {new : List (Nat × Word32)} {j : Nat} (h : j ∉ new.map (·.1)) (old : Cells) :
    (placeCells old new).getD j 0 = old.getD j 0 := by
  induction new generalizing old with
  | nil => rfl
  | cons p new ih =>
    rw [List.map_cons, List.mem_cons, not_or] at h
    refine (ih h.2 (lset old p.1 p.2)).trans ?_
    rw [getD_lset, if_neg fun e => h.1 e.1]

theorem placeCells_same {new : List (Nat × Word32)} (hnd : (new.map (·.1)).Nodup) {p : Nat × Word32} (hp : p ∈ new) {old : Cells}
    (hlt : p.1 < old.length) : (placeCells old new).getD p.1 0 = p.2 := by
  induction new generalizing old with
  | nil => cases hp
  | cons q new ih =>
    rw [List.map_cons, List.nodup_cons] at hnd
    rcases List.mem_cons.1 hp with rfl | hp
    · refine (placeCells_other hnd.1 (lset old p.1 p.2)).trans ?_
      rw [getD_lset, if_pos ⟨rfl, hlt⟩]
    · exact ih hnd.2 hp (old := lset old q.1 q.2) (by rwa [lset_eq_set, List.length_set])

/-! ## The landing -/

section
variable {s : State} {c l id rd : Nat} {u : Task} {f : VFill} {els : List VEl} {ty : ETy}

theorem servedHere_of_served {own pa : Nat} (h : Served s own pa) : s.servedHere own pa = true := by
  obtain ⟨⟨r, hr, hserved⟩, hcome⟩ := h
  obtain ⟨hown, hpa⟩ := dramOf_some hr
  unfold State.servedHere
  rw [hr, Option.any_some, hserved, Bool.true_and, State.here, hown, hpa, lineOf, Nat.mul_div_cancel _ (by omega)]
  exact hcome

theorem needLines_served {o : Orig} {own pav cap : Nat} {ps : List VPart} (h : ∀ p ∈ ps, Served s own p.pa) :
    (s.needLines c o own pav cap ps).2 = true := by
  rw [needLines_eq]
  simp only [List.all_eq_true]
  exact fun p hp => servedHere_of_served (h p (mem_of_mem_partLines (List.mem_filter.1 hp).1))

theorem loadFloor_dev {ps : List VPart} (h : ∀ p ∈ ps, p.cls = .dev) : s.loadFloor c u ps = s := by
  refine if_neg ?_
  simp only [List.any_eq_true, decide_eq_true_eq, not_exists, not_and]
  intro p hp
  simp [h p hp]

/-- The cells that memory holds now for some elements. -/
def cellsNow (s : State) (ty : ETy) (els : List VEl) : List (Nat × Word32) := els.map (fun e => (e.cell, tarnCell ty (elemNow s e)))

/-- The requests of a fill taken out, and its entries of the reassembly table freed. -/
def taken (s : State) (c id : Nat) : State := (s.undram id).freeEntry c id

theorem onlyTraffic_taken (s : State) (c id : Nat) : OnlyTraffic s (taken s c id) :=
  (OnlyTraffic.undram s id).trans (OnlyTraffic.freeEntry _ c id)

/-- The cells that the lines of some elements give are those that memory holds. -/
theorem cells_of_lines (hfit : ∀ e ∈ els, ∀ p ∈ e.parts, p.pa % 128 + p.n ≤ 128) :
    els.map (fun e => (e.cell, tarnCell ty (natOf (e.parts.flatMap (partBytes (linesNow s (els.flatMap (·.parts))))) / 2 ^ e.shift)))
      = cellsNow s ty els := by
  refine List.map_congr_left fun e he => ?_
  have hbytes : e.parts.flatMap (partBytes (linesNow s (els.flatMap (·.parts)))) = e.parts.flatMap (fun p => s.bytesK p.key p.pa p.n) :=
    List.flatMap_congr fun p hp => partBytes_lineNow (List.mem_flatMap.2 ⟨e, he, hp⟩) (hfit e he p hp)
  rw [hbytes]
  rfl

/-- No element meets a poisoned line where none of the lines is poisoned. -/
theorem find_poisoned {ps : List VPart} (h : ∀ p ∈ ps, lineOf p.pa ∉ s.poison) :
    els.find? (fun e => e.parts.any (fun p => (linesNow s ps).any (fun x => x.2.2 && lineOf x.1.pa = lineOf p.pa))) = none := by
  rw [List.find?_eq_none]
  simp only [List.any_eq_true, not_exists, not_and, linesNow, List.any_map, Function.comp_apply, lineNow, Bool.and_eq_true]
  intro e _ p _ q hq hpoison
  have := h q (mem_of_mem_partLines hq)
  simp [this] at hpoison

/-- A fill of elements on DEV pages lands: its register gets what memory holds (R119, R138, R361). -/
theorem landVec_dev (ht : s.task? c l = some u) (hk : f.kind = .mem id els ty rd) (hbehind : fillBehind u f = false)
    (hserved : ∀ e ∈ els, ∀ p ∈ e.parts, Served s id p.pa)
    (hdev : ∀ e ∈ els, ∀ p ∈ e.parts, p.cls = .dev ∧ p.pa % 128 + p.n ≤ 128 ∧ lineOf p.pa ∉ s.poison) :
    s.landVec c l u f = (taken s c id).modTask c l (fun t => t.landFill f (placeCells (t.vreg f.v) (cellsNow s ty els))) := by
  have hparts : ∀ p ∈ els.flatMap (·.parts), p.cls = .dev ∧ p.pa % 128 + p.n ≤ 128 ∧ lineOf p.pa ∉ s.poison := by
    intro p hp
    obtain ⟨e, he, hpe⟩ := List.mem_flatMap.1 hp
    exact hdev e he p hpe
  have hneed : ∀ (o : Orig) (pav cap : Nat), (s.needLines c o id pav cap (els.flatMap (·.parts))).2 = true := by
    refine fun o pav cap => needLines_served fun p hp => ?_
    obtain ⟨e, he, hpe⟩ := List.mem_flatMap.1 hp
    exact hserved e he p hpe
  have htaken : (taken s c id).task? c l = some u := ((onlyTraffic_taken s c id).tasks c l).trans ht
  have hread : (taken s c id).readLines c l rd (els.flatMap (·.parts)) = (taken s c id, linesNow s (els.flatMap (·.parts))) :=
    readLines_dev htaken rd fun p hp => (hparts p hp).1
  unfold State.landVec
  simp only [hk, loadFloor_dev fun p hp => (hparts p hp).1, hneed, hbehind, Bool.not_true, Bool.or_false, Bool.false_eq_true, if_false]
  rw [show ((s.undram id).freeEntry c id) = taken s c id from rfl, hread]
  simp only [cells_of_lines fun e he p hp => (hdev e he p hp).2.1, find_poisoned fun p hp => (hparts p hp).2.2]

end

theorem vreg_landFill (u : Task) (f : VFill) (c : Cells) (m : Nat) : (u.landFill f c).vreg m = if m = f.v then c else u.vreg m :=
  VectorIssue.vreg_setV u f.v m f.mask c

theorem empty_landFill (u : Task) (f : VFill) (c : Cells) : (u.landFill f c).empty = u.empty.filter (· ≠ f.v) := rfl

theorem reasm_taken (s : State) (c id : Nat) : ∀ e ∈ ((taken s c id).core c).reasm, e.2.1 ≠ id := by
  rw [show ((taken s c id).core c).reasm = ((s.undram id).core c).reasm.filter (fun e => e.2.1 ≠ id) from
    congrArg Core.reasm (core_modCore_same ..)]
  exact fun e he => of_decide_eq_true (List.mem_filter.1 he).2

/-- VECTOR_FILL_LAND of elements on DEV pages whose requests memory has served. -/
theorem exec_vectorFillLand_dev {s : State} {c : CoreId} {l : SlotId} {v : VReg} {u : Task} {f : VFill} {id : Nat} {els : List VEl}
    {ty : ETy} {rd : Nat} (hu : s.task? c.val l.val = some u) (hf : u.fills.find? (fun g => g.v = v.val) = some f)
    (hk : f.kind = .mem id els ty rd) (hfull : FullRegs u) (hserved : ∀ e ∈ els, ∀ p ∈ e.parts, Served s id p.pa)
    (hbehind : fillBehind u f = false)
    (hdev : ∀ e ∈ els, ∀ p ∈ e.parts, p.cls = .dev ∧ p.pa % 128 + p.n ≤ 128 ∧ lineOf p.pa ∉ s.poison)
    (hnd : (els.map (·.cell)).Nodup) (hlt : ∀ e ∈ els, e.cell < 1024) :
    ∃ s' u', exec (.vectorFillLand c l v) s = .next s' ∧ s'.task? c.val l.val = some u' ∧ v.val ∉ u'.empty
      ∧ (∀ e ∈ els, (u'.vreg v.val).getD e.cell 0 = tarnCell ty (elemNow s e))
      ∧ (∀ j, j ∉ els.map (·.cell) → (u'.vreg v.val).getD j 0 = (u.vreg v.val).getD j 0)
      ∧ (∀ m, m ≠ v.val → u'.vreg m = u.vreg m) ∧ (∀ e ∈ (s'.core c.val).reasm, e.2.1 ≠ id)
      ∧ SameBytes s s' := by
  have hv : f.v = v.val := by simpa using List.find?_some hf
  have htraffic := onlyTraffic_taken s c.val id
  have hexec : exec (.vectorFillLand c l v) s = .next (s.landVec c.val l.val u f) := by
    change execVectorFillLand c l v s = _
    simp only [execVectorFillLand, hu, hf, hk]
  have hcells : (cellsNow s ty els).map (·.1) = els.map (·.cell) := by
    simp only [cellsNow, List.map_map]
    rfl
  refine ⟨_, _, hexec.trans (congrArg Host.Outcome.next (landVec_dev hu hk hbehind hserved hdev)),
    task_modTask_same ((htraffic.tasks ..).trans hu) _, ?_, fun e he => ?_, fun j hj => ?_, fun m hm => ?_, ?_, ?_⟩
  · simp [empty_landFill, hv]
  · rw [vreg_landFill, if_pos hv.symm, hv]
    exact placeCells_same (hcells ▸ hnd) (List.mem_map_of_mem he) (by rw [hfull]; exact hlt e he)
  · rw [vreg_landFill, if_pos hv.symm, hv]
    exact placeCells_other (hcells ▸ hj) _
  · rw [vreg_landFill, if_neg (by rwa [hv])]
  · have hslots := core_modTask_but_slots (taken s c.val id) c.val l.val
      (fun t => t.landFill f (placeCells (t.vreg f.v) (cellsNow s ty els))) c.val
    rw [(congrArg Core.reasm hslots :)]
    exact reasm_taken s c.val id
  · exact sameBytes_trans htraffic.sameBytes (sameBytes_of_eq (modTask_mem ..) (modTask_memKey ..) (modTask_free ..))

end Sys2Proof.VectorLands
end

section
/-!
PROOFS. Element addresses and the vector accesses over them (spec/05 R137 to R141), put together.
-/

namespace Sys2Proof.VectorAccesses
open Sys2Proof Sys2Proof.Machine Sys2Proof.Claim

/-- Settles O33: addresses by their sums, loads and stores by what they ask for or send, a landing by what the lines hold. -/
theorem vectorAddressesAndAccesses : Obligations.VectorAddressesAndAccesses := by
  unfold Obligations.VectorAddressesAndAccesses
  refine ⟨fun ty base stride off k x scale => ⟨fun h => Elements.rowElems_whole h .., Elements.rowElems_packed ..,
    fun h => Elements.gatherElems_cells ty base stride scale k h⟩, fun s t _ hv => ?_⟩
  dsimp only
  refine ⟨⟨?_, ?_, ?_, ?_⟩, ?_⟩
  · exact fun o h => (VectorLoads.exec_load_of_checks (VectorLoads.exec_vld o s) hv h :)
  · exact fun o h => (VectorStores.exec_store_of_checks (VectorStores.exec_vst o s) hv h :)
  · exact fun o h => (VectorLoads.exec_load_of_checks (VectorLoads.exec_vgath o s) hv h :)
  · exact fun o h => (VectorStores.exec_store_of_checks (VectorStores.exec_vscat o s) hv h :)
  · intro c l v u f id els ty rd hu hf hk hfull hserved hbehind hdev hnd hlt
    exact VectorLands.exec_vectorFillLand_dev hu hf hk hfull hserved hbehind hdev hnd hlt

end Sys2Proof.VectorAccesses
end

section
/-!
PROOFS. S instructions with a result (spec/04 R86 to R96): that one which need not wait issues with `wrote` or `wroteLate`, what these
leave of the state, and the results of Table 4-4 as exact integers.
-/

namespace Sys2Proof.ScalarResults
open Sys2Proof Sys2Proof.Machine Sys2Proof.Laws Sys2Proof.Claim Sys2Proof.Control Sys2Proof.VectorIssue

/-! ## Issue (R90, R91) -/

theorem scalarOp_wrote {s : State} {t : Task} {srcs : List SSrc} {d : SDst} (h : CanIssue s t srcs d) (n : Nat) (f : Task → Word64) :
    scalarOp srcs d n f s = Claim.wrote s d (f t) n :=
  scalarOp_issues h.1 h.2.1 h.2.2.1 h.2.2.2 n f

theorem aluOp_wrote {s : State} {t : Task} {o : Alu} (h : CanIssue s t [o.a, o.b] o.d) (f64 : Word64 → Word64 → Word64)
    (f32 : Word32 → Word32 → Word32) :
    aluOp f64 f32 o s = Claim.wrote s o.d (aluW f64 f32 o.w (t.src o.a) (t.src o.b)) 2 :=
  scalarOp_wrote h 2 _

/-- An instruction of several cycles on a free unit issues as `wroteLate` does, and takes the unit (R91). -/
theorem slowOp_issues {s : State} {t : Task} {srcs : List SSrc} {d : SDst} (h : CanIssue s t srcs d) (lat n : Nat)
    (take_ : State → State) (f : Task → Word64) :
    slowOp lat true take_ srcs d n f s = .next ((take_ (s.fresh.modCur (fun u =>
      u.slowResult d (f t) s.nextId s.curSt.pc (s.cyc + BitVec.ofNat 64 lat)))).finish n) := by
  obtain ⟨ht, hs, hd, hp⟩ := h
  unfold Task.ready at hs
  rw [slowOp, onTask_some ht]
  simp only [hs, hd, hp, Bool.and_self, if_true]
  have hfresh : s.fresh.curTask = some t := ht
  rw [modCur_congr hfresh (f := fun u => u.slowResult d (f u) s.nextId s.curSt.pc (s.cyc + BitVec.ofNat 64 lat))
    (g := fun u => u.slowResult d (f t) s.nextId s.curSt.pc (s.cyc + BitVec.ofNat 64 lat)) rfl]

theorem slowOp_waits {s : State} {t : Task} {srcs : List SSrc} {d : SDst} {free : Bool} (h : s.curTask = some t)
    (hw : (t.ready srcs && t.dstReady d && t.canPend && free) = false) (lat n : Nat) (take_ : State → State) (f : Task → Word64) :
    slowOp lat free take_ srcs d n f s = .next s := by
  unfold Task.ready at hw
  rw [slowOp, onTask_some h]
  simp [hw]

theorem mulOp_wrote {s : State} {t : Task} {o : Alu} (h : CanIssue s t [o.a, o.b] o.d) (f64 : Word64 → Word64 → Word64)
    (f32 : Word32 → Word32 → Word32) :
    mulOp f64 f32 o s = .next (wroteLate s o.d (aluW f64 f32 o.w (t.src o.a) (t.src o.b)) 3 2) :=
  slowOp_issues h 3 2 id _

/-- The state after a quotient or remainder v: in flight for 34 cycles, 18 in a .W form, the divider taken for 2 fewer (R91). -/
def tookDivider (s : State) (o : Alu) (v : Word64) : State :=
  ((s.fresh.modCur (fun u => u.slowResult o.d v s.nextId s.curSt.pc (s.cyc + if o.w then 18 else 34))).modCurCore
    (fun k => { k with divAt := s.cyc + if o.w then 16 else 32 })).finish 2

theorem divOp_issues {s : State} {t : Task} {o : Alu} (h : CanIssue s t [o.a, o.b] o.d)
    (hfree : s.curCore.divAt.toNat ≤ s.cyc.toNat) (f64 : Word64 → Word64 → Word64) (f32 : Word32 → Word32 → Word32) :
    divOp f64 f32 o s = .next (tookDivider s o (aluW f64 f32 o.w (t.src o.a) (t.src o.b))) := by
  have hlat : BitVec.ofNat 64 (if o.w then 18 else 34) = if o.w then 18 else 34 := by cases o.w <;> rfl
  unfold divOp
  rw [decide_eq_true hfree, slowOp_issues h, hlat]
  rfl

/-! ## The results of Table 4-4 (R94 to R96) -/

/-- The number that a rule for every width gives at the width of a form (R94, R95). -/
abbrev atWidth (r : ∀ n, BitVec n → BitVec n → Int) (a b : Word64) : Bool → Int
  | true => r 32 (a.setWidth 32) (b.setWidth 32)
  | false => r 64 a b

section
variable {f : ∀ n, BitVec n → BitVec n → BitVec n} {r : ∀ n, BitVec n → BitVec n → Int} {s : State} {t : Task} {o : Alu}

/-- What is exact at every width is exact at 64 bits, and at 32 in the .W form. -/
theorem aluW_exact (e : ∀ n x y, f n x y = BitVec.ofInt n (r n x y)) (w : Bool) (a b : Word64) :
    aluW (f 64) (f 32) w a b = narrowed w (atWidth r a b w) := by
  cases w
  · exact e 64 a b
  · exact congrArg wordResult (e 32 _ _)

theorem aluOp_exact (e : ∀ n x y, f n x y = BitVec.ofInt n (r n x y)) (h : CanIssue s t [o.a, o.b] o.d) :
    aluOp (f 64) (f 32) o s = Claim.wrote s o.d (narrowed o.w (atWidth r (t.src o.a) (t.src o.b) o.w)) 2 :=
  aluW_exact e o.w _ _ ▸ aluOp_wrote h (f 64) (f 32)

theorem mulOp_exact (e : ∀ n x y, f n x y = BitVec.ofInt n (r n x y)) (h : CanIssue s t [o.a, o.b] o.d) :
    mulOp (f 64) (f 32) o s = .next (wroteLate s o.d (narrowed o.w (atWidth r (t.src o.a) (t.src o.b) o.w)) 3 2) :=
  aluW_exact e o.w _ _ ▸ mulOp_wrote h (f 64) (f 32)

theorem divOp_exact (e : ∀ n x y, f n x y = BitVec.ofInt n (r n x y)) (h : CanIssue s t [o.a, o.b] o.d)
    (hfree : s.curCore.divAt.toNat ≤ s.cyc.toNat) :
    divOp (f 64) (f 32) o s = .next (tookDivider s o (narrowed o.w (atWidth r (t.src o.a) (t.src o.b) o.w))) :=
  aluW_exact e o.w _ _ ▸ divOp_issues h hfree (f 64) (f 32)
end

theorem add_exact (n : Nat) (x y : BitVec n) : x + y = BitVec.ofInt n (x.toNat + y.toNat) := by
  simp [BitVec.ofInt_add]

theorem sub_exact (n : Nat) (x y : BitVec n) : x - y = BitVec.ofInt n (x.toNat - y.toNat) := by
  rw [Int.sub_eq_add_neg, BitVec.ofInt_add, BitVec.ofInt_neg, BitVec.sub_eq_add_neg]
  simp

theorem mul_exact (n : Nat) (x y : BitVec n) : x * y = BitVec.ofInt n (x.toNat * y.toNat) := by
  simp [BitVec.ofInt_mul]

theorem shl_exact (n : Nat) (x y : BitVec n) : x <<< (y.toNat % n) = BitVec.ofInt n (x.toNat * 2 ^ (y.toNat % n)) := by
  refine Eq.trans ?_ (BitVec.ofInt_natCast n (x.toNat * 2 ^ (y.toNat % n))).symm
  exact BitVec.eq_of_toNat_eq (by rw [BitVec.toNat_shiftLeft, Nat.shiftLeft_eq, BitVec.toNat_ofNat])

/-- A number of the width is exact where the model computes it among the naturals. -/
theorem ofNat_exact {n : Nat} (x : BitVec n) {k : Nat} (h : x.toNat = k) : x = BitVec.ofInt n k := by
  rw [BitVec.ofInt_natCast, ← h, BitVec.ofNat_toNat, BitVec.setWidth_eq]

theorem shr_exact (n : Nat) (x y : BitVec n) : x >>> (y.toNat % n) = BitVec.ofInt n (x.toNat / 2 ^ (y.toNat % n)) :=
  ofNat_exact (k := x.toNat / 2 ^ (y.toNat % n)) _ (by rw [BitVec.toNat_ushiftRight, Nat.shiftRight_eq_div_pow])

theorem sar_exact (n : Nat) (x y : BitVec n) : x.sshiftRight (y.toNat % n) = BitVec.ofInt n (x.toInt / 2 ^ (y.toNat % n)) := by
  rw [← BitVec.ofInt_toInt (x := x.sshiftRight _), BitVec.toInt_sshiftRight, Int.shiftRight_eq_div_pow]
  rfl

theorem mulhS_exact (n : Nat) (x y : BitVec n) : mulhS n x y = BitVec.ofInt n (x.toInt * y.toInt / 2 ^ n) := rfl

theorem mulhU_exact (n : Nat) (x y : BitVec n) : mulhU n x y = BitVec.ofInt n (x.toNat * y.toNat / 2 ^ n) :=
  (BitVec.ofInt_natCast n _).symm

theorem toNat_eq_zero_iff {n : Nat} (y : BitVec n) : (y.toNat : Int) = 0 ↔ y = 0 := by
  rw [Int.natCast_eq_zero]
  exact ⟨fun h => BitVec.eq_of_toNat_eq h, fun h => by rw [h]; rfl⟩

theorem allOnes_exact (n : Nat) : BitVec.allOnes n = BitVec.ofInt n (-1) := by
  rw [BitVec.ofInt_neg]
  exact (BitVec.neg_one_eq_allOnes).symm

theorem divS_exact (n : Nat) (x y : BitVec n) :
    divS n x y = BitVec.ofInt n (if (y.toNat : Int) = 0 then -1 else x.toInt.tdiv y.toInt) := by
  simp only [divS, toNat_eq_zero_iff]
  split
  · exact allOnes_exact n
  · rfl

theorem divU_exact (n : Nat) (x y : BitVec n) :
    divU n x y = BitVec.ofInt n (if (y.toNat : Int) = 0 then -1 else (x.toNat : Int) / y.toNat) := by
  simp only [divU, toNat_eq_zero_iff]
  split
  · exact allOnes_exact n
  · exact (BitVec.ofInt_natCast n _).symm

theorem remS_exact (n : Nat) (x y : BitVec n) :
    remS n x y = BitVec.ofInt n (if (y.toNat : Int) = 0 then x.toInt else x.toInt - y.toInt * x.toInt.tdiv y.toInt) := by
  simp only [remS, toNat_eq_zero_iff]
  split
  · exact BitVec.ofInt_toInt.symm
  · rfl

theorem remU_exact (n : Nat) (x y : BitVec n) :
    remU n x y = BitVec.ofInt n (if (y.toNat : Int) = 0 then (x.toNat : Int) else x.toNat - y.toNat * ((x.toNat : Int) / y.toNat)) := by
  simp only [remU, toNat_eq_zero_iff]
  split
  · exact ofNat_exact x rfl
  · rw [← Int.emod_def, ← Int.natCast_emod, BitVec.ofInt_natCast]

/-- A choice between two numbers of the width is exact where both are. -/
theorem ite_exact {n : Nat} {c d : Prop} [Decidable c] [Decidable d] {x y : BitVec n} {p q : Int} (hc : c ↔ d)
    (hx : x = BitVec.ofInt n p) (hy : y = BitVec.ofInt n q) : (if c then x else y) = BitVec.ofInt n (if d then p else q) := by
  by_cases h : d
  · rw [if_pos h, if_pos (hc.2 h), hx]
  · rw [if_neg h, if_neg (fun k => h (hc.1 k)), hy]

theorem ult_iff {n : Nat} (x y : BitVec n) : x.ult y = true ↔ (x.toNat : Int) < y.toNat := by
  rw [BitVec.ult_eq_decide, decide_eq_true_iff, Int.ofNat_lt]

theorem minS_exact (n : Nat) (x y : BitVec n) : minS x y = BitVec.ofInt n (min x.toInt y.toInt) := by
  rw [min_comm, min_def_lt]
  exact ite_exact BitVec.slt_iff_toInt_lt BitVec.ofInt_toInt.symm BitVec.ofInt_toInt.symm

theorem maxS_exact (n : Nat) (x y : BitVec n) : maxS x y = BitVec.ofInt n (max x.toInt y.toInt) := by
  rw [max_def_lt]
  exact ite_exact BitVec.slt_iff_toInt_lt BitVec.ofInt_toInt.symm BitVec.ofInt_toInt.symm

theorem minU_exact (n : Nat) (x y : BitVec n) : minU x y = BitVec.ofInt n (min (x.toNat : Int) y.toNat) := by
  rw [min_comm, min_def_lt]
  exact ite_exact (ult_iff y x) (ofNat_exact y rfl) (ofNat_exact x rfl)

theorem maxU_exact (n : Nat) (x y : BitVec n) : maxU x y = BitVec.ofInt n (max (x.toNat : Int) y.toNat) := by
  rw [max_def_lt]
  exact ite_exact (ult_iff x y) (ofNat_exact y rfl) (ofNat_exact x rfl)

theorem one_exact (n : Nat) : (1 : BitVec n) = BitVec.ofInt n 1 := (BitVec.ofInt_natCast n 1).symm
theorem zero_exact (n : Nat) : (0 : BitVec n) = BitVec.ofInt n 0 := (BitVec.ofInt_natCast n 0).symm

theorem sltS_exact (n : Nat) (x y : BitVec n) : sltS x y = BitVec.ofInt n (if x.toInt < y.toInt then 1 else 0) :=
  ite_exact BitVec.slt_iff_toInt_lt (one_exact n) (zero_exact n)

theorem sltU_exact (n : Nat) (x y : BitVec n) : sltU x y = BitVec.ofInt n (if (x.toNat : Int) < y.toNat then 1 else 0) :=
  ite_exact (ult_iff x y) (one_exact n) (zero_exact n)

theorem seqB_exact (n : Nat) (x y : BitVec n) : seqB x y = BitVec.ofInt n (if (x.toNat : Int) = y.toNat then 1 else 0) :=
  ite_exact (by rw [Int.natCast_inj, BitVec.toNat_inj]) (one_exact n) (zero_exact n)

theorem shiftOf_eq (w : Bool) (b : Word64) :
    Claim.shiftOf w b = if w then (b.setWidth 32).toNat % 32 else b.toNat % 64 := by
  unfold Claim.shiftOf
  rw [BitVec.toNat_setWidth, Nat.mod_mod_of_dvd _ (by decide)]

/-- Settles O1: each instruction issues with the result of its operation, which is exact at both widths. -/
theorem aluArithmeticMatchesTable44 : Obligations.AluArithmeticMatchesTable44 := by
  unfold Obligations.AluArithmeticMatchesTable44
  rintro s t ⟨d, a, b, _ | _⟩ h
  all_goals
    simp only [shiftOf_eq]
    exact ⟨(aluOp_exact add_exact h :), (aluOp_exact sub_exact h :), (aluOp_exact shl_exact h :), (aluOp_exact shr_exact h :),
      (aluOp_exact sar_exact h :), (mulOp_exact mul_exact h :), (mulOp_exact mulhS_exact h :), (mulOp_exact mulhU_exact h :),
      (divOp_exact divS_exact h :), (divOp_exact divU_exact h :), (divOp_exact remS_exact h :), (divOp_exact remU_exact h :),
      (aluOp_exact minS_exact h :), (aluOp_exact maxS_exact h :), (aluOp_exact minU_exact h :), (aluOp_exact maxU_exact h :),
      (aluOp_exact sltS_exact h :), (aluOp_exact sltU_exact h :), (aluOp_exact seqB_exact h :)⟩

end Sys2Proof.ScalarResults
end

section
/-!
PROOFS. What a result that an S instruction writes changes, at once or with a latency (spec/04 R86 to R90, spec/11 R288).
-/

namespace Sys2Proof.ResultFrame
open Sys2Proof Sys2Proof.Machine Sys2Proof.Laws Sys2Proof.Claim Sys2Proof.Control Sys2Proof.VectorIssue

/-! ## The task (R86 to R88) -/

/-- What a register holds; a destination that names none holds 0. -/
def heldBy (t : Task) : SDst → Word64
  | .s r => t.sreg r.val
  | .none => 0

/-- The tag, destination and result of an entry in flight: all but its place in the queue. -/
def flight (p : SPend) : Nat × SDst × SRes := (p.tag, p.dst, p.res)

section
variable (t : Task) (d : SDst) (v : Word64)

theorem q_result : (t.result d v).q = v :: t.q.take 15 := by cases d <;> rfl

theorem sreg_result (r : Fin 16) : (t.result d v).sreg r.val = if d = .s r then v else t.sreg r.val := by
  cases d with
  | none => rfl
  | s n =>
    refine (sreg_setSreg (t.shiftQ v) n.val r.val v).trans ?_
    simp only [SDst.s.injEq, Fin.ext_iff, eq_comm (a := r.val)]
    rfl

theorem flights_shiftQ : (t.shiftQ v).pend.map flight = t.pend.map flight := by
  simp only [Task.shiftQ, List.map_map]
  rfl

theorem flights_result : (t.result d v).pend.map flight = t.pend.map flight := by
  cases d <;> exact flights_shiftQ t v

theorem result_but : { t.result d v with s := t.s, q := t.q, pend := t.pend } = t := by cases d <;> rfl

variable (tag : Nat) (pc : BitVec 17) (vis : Word64) (load : Bool)

theorem flights_slowResult : (t.slowResult d v tag pc vis load).pend.map flight
    = t.pend.map flight ++ [(tag, d, .fixed v (heldBy t d) vis)] := by
  refine (List.map_append ..).trans ?_
  rw [flights_result]
  cases d <;> rfl

end

/-! ## The device (R288) -/

theorem oneTask_finish {s s' : State} (h : OneTask s s') (n : Nat) : OneTask s (s'.finish n) := by
  refine OneTask.modCur ?_ _
  unfold State.chargeIssue State.chargeCur
  split
  · split
    · exact h
    · exact h.charge ..
  · exact h

/-- The issuing task changed, but for its contexts and its launch record, and its S stream moved on. -/
theorem finish_modCur {s : State} {t : Task} (h : s.curTask = some t) (hs : s.cur.stream = .s) {f : Task → Task}
    (hcr : (f t).cr = t.cr) (n : Nat) :
    ((s.modCur f).finish n).curTask = some ((f t).modSt .s (fun x => x.advance n)) ∧ OneTask s ((s.modCur f).finish n)
      ∧ ∀ a, mfind a ((s.modCur f).finish n).accts = (mfind a s.accts).map (fun x =>
          if a = t.cr.lacct.toNat then { x with charge := x.charge + 1 } else x) := by
  have ht := curTask_modCur h f
  have hst : (s.modCur f).cur.stream = .s := by rw [modCur_cur, hs]
  refine ⟨?_, oneTask_finish ((OneTask.refl s).modCur f) n, fun a => ?_⟩
  · rw [curTask_finish ht, hst]
  · refine (congrArg (mfind a) (modSt_accts ..)).trans ?_
    rw [accts_chargeIssue ht, hst, hcr, modCur_accts]
    simp only [true_and]

/-- The contexts and the rest of a task whose S stream has moved on after a change of registers, queue and results in flight. -/
theorem movedOn_task {t u : Task} (hu : { u with s := t.s, q := t.q, pend := t.pend } = t) (n : Nat) :
    (∀ k, k ≠ Stream.s → (u.modSt .s (fun x => x.advance n)).st k = t.st k)
      ∧ (u.modSt .s (fun x => x.advance n)).st .s = (t.st .s).advance n
      ∧ { u.modSt .s (fun x => x.advance n) with s := t.s, q := t.q, pend := t.pend, strm := t.strm } = t := by
  have hst : ∀ k, u.st k = t.st k := fun k => (congrArg (fun x : Task => x.st k) hu :)
  refine ⟨fun k hk => (st_modSt_other u hk _).trans (hst k), ?_, ?_⟩
  · rw [st_modSt_same, hst]
  · exact (congrArg (fun x : Task => { x with strm := t.strm }) hu :)

/-- Settles O5: the task by its result, the rest of the device by `finish_modCur`. -/
theorem scalarResultFrame : Obligations.ScalarResultFrame := by
  unfold Obligations.ScalarResultFrame
  intro s s' t d v n lat late ht hs hs'
  have hcr : (t.result d v).cr = t.cr := (congrArg Task.cr (result_but t d v) :)
  obtain ⟨hst, hadv, hbut⟩ := movedOn_task (result_but t d v) n
  cases late with
  | false =>
    obtain rfl := Host.Outcome.next.inj hs'
    obtain ⟨htask, hone, haccts⟩ := finish_modCur ht hs (f := fun u => u.result d v) hcr n
    refine ⟨⟨_, htask, q_result t d v, sreg_result t d v, (flights_result t d v).trans (List.append_nil _).symm, hst, hadv, hbut⟩,
      hone.others, hone.cores, haccts, (congrArg State.nextId hone.rest :), ?_, hone.byteK⟩
    exact (congrArg (fun x : State => { x with nextId := s.nextId }) hone.rest :)
  | true =>
    obtain rfl := Host.Outcome.next.inj hs'
    obtain ⟨htask, hone, haccts⟩ := finish_modCur (s := s.fresh) ht hs
      (f := fun u => u.slowResult d v s.nextId s.curSt.pc (s.cyc + BitVec.ofNat 64 lat)) hcr n
    refine ⟨⟨_, htask, q_result t d v, sreg_result t d v, ?_, hst, hadv, hbut⟩,
      hone.others, hone.cores, haccts, (congrArg State.nextId hone.rest :), ?_, hone.byteK⟩
    · exact (flights_slowResult t d v ..).trans (by cases d <;> rfl)
    · exact (congrArg (fun x : State => { x with nextId := s.nextId }) hone.rest :)

end Sys2Proof.ResultFrame
end

section
/-!
PROOFS. Results bit by bit (spec/04 R94, R95, R101, R102): the bitwise operations, the counts of bits, and the bit fields.
-/

namespace Sys2Proof.ResultBits
open Sys2Proof Sys2Proof.Machine Sys2Proof.Laws Sys2Proof.Claim Sys2Proof.Formats Sys2Proof.VectorStores Sys2Proof.ScalarResults

/-! ## AND, OR, XOR and ANDN -/

/-- Of a function of the same bits of both sources a .W form repeats bit 31 above it (R95). -/
theorem getLsbD_aluW {f : ∀ n, BitVec n → BitVec n → BitVec n} {g : Bool → Bool → Bool}
    (h : ∀ n x y j, j < n → (f n x y).getLsbD j = g (x.getLsbD j) (y.getLsbD j)) (w : Bool) (a b : Word64) {j : Nat} (hj : j < 64) :
    (aluW (f 64) (f 32) w a b).getLsbD j =
      let i := if w && decide (32 ≤ j) then 31 else j
      g (a.getLsbD i) (b.getLsbD i) := by
  cases w with
  | false => exact h 64 a b j hj
  | true =>
    change (BitVec.signExtend 64 (f 32 (a.setWidth 32) (b.setWidth 32))).getLsbD j = _
    rw [BitVec.getLsbD_signExtend, BitVec.msb_eq_getLsbD_last, decide_eq_true hj, Bool.true_and, Bool.true_and]
    by_cases h32 : 32 ≤ j
    · rw [if_neg (by omega), h _ _ _ _ (by omega), decide_eq_true h32]
      simp
    · have hlt : j < 32 := by omega
      rw [if_pos hlt, h _ _ _ _ hlt, decide_eq_false h32]
      simp [hlt]

/-! ## Counts of bits -/

/-- A count of at most 32 is the same number in the .W form. -/
theorem wordResult_count {k : Nat} (h : k ≤ 32) : wordResult (BitVec.ofNat 32 k) = BitVec.ofNat 64 k := by
  have hmsb : (BitVec.ofNat 32 k).msb = false := by
    rw [BitVec.msb_eq_decide, decide_eq_false_iff_not, BitVec.toNat_ofNat, Nat.mod_eq_of_lt (by omega)]
    omega
  unfold wordResult
  rw [BitVec.signExtend_eq_setWidth_of_msb_false hmsb]
  exact BitVec.eq_of_toNat_eq (by simp only [BitVec.toNat_setWidth, BitVec.toNat_ofNat]; omega)

/-- The low bits of a source, as wide as the operands of a form. -/
theorem getLsbD_operand (w : Bool) (x : Word64) {i : Nat} (h : i < widthOf w) : (x.setWidth (widthOf w)).getLsbD i = x.getLsbD i := by
  rw [BitVec.getLsbD_setWidth, decide_eq_true h, Bool.true_and]

/-- An instruction that counts bits of its operand completes with the count of the operand's width. -/
theorem aluOp1_wrote {s : State} {t : Task} {o : Alu1} (h : CanIssue s t [o.a] o.d) {c : ∀ n, BitVec n → Nat} (hle : ∀ n x, c n x ≤ n) :
    aluOp1 (fun x => BitVec.ofNat 64 (c 64 x)) (fun x => BitVec.ofNat 32 (c 32 x)) o s
      = Claim.wrote s o.d (BitVec.ofNat 64 (c (widthOf o.w) ((t.src o.a).setWidth (widthOf o.w)))) 2 := by
  refine (scalarOp_wrote h 2 _).trans (congrArg (Claim.wrote s o.d · 2) ?_)
  cases o.w with
  | false => exact congrArg (fun x => BitVec.ofNat 64 (c 64 x)) (BitVec.setWidth_eq _).symm
  | true => exact wordResult_count (hle 32 _)

theorem widthOf_pos (w : Bool) : 0 < widthOf w := by cases w <;> decide

theorem bitLen_top {m : Nat} (h : bitLen m ≠ 0) : m.testBit (bitLen m - 1) = true := by
  unfold bitLen at h ⊢
  split at h
  · exact absurd rfl h
  · next hm => rw [if_neg hm]; exact Nat.testBit_log2 hm

theorem lt_two_pow_bitLen (m : Nat) : m < 2 ^ bitLen m := by
  unfold bitLen
  split
  · omega
  · exact Nat.lt_log2_self

/-- Leading zeros: the bits above the bit length. -/
theorem leading_zeros (n : Nat) (x : BitVec n) :
    (∀ i, i < n - bitLen x.toNat → x.getLsbD (n - 1 - i) = false)
      ∧ (n - bitLen x.toNat < n → x.getLsbD (n - 1 - (n - bitLen x.toNat)) = true) := by
  have hn : bitLen x.toNat ≤ n := bitLen_le x.isLt
  refine ⟨fun i hi => ?_, fun h => ?_⟩
  · rw [← BitVec.testBit_toNat]
    exact Nat.testBit_lt_two_pow ((lt_two_pow_bitLen _).trans_le (Nat.pow_le_pow_right (by omega) (by omega)))
  · rw [← BitVec.testBit_toNat, show n - 1 - (n - bitLen x.toNat) = bitLen x.toNat - 1 by omega]
    exact bitLen_top (by omega)

/-- Trailing zeros: the bits below the first one bit. -/
theorem trailing_zeros (n m : Nat) : ctzFrom m n ≤ n ∧ (∀ i, i < ctzFrom m n → m.testBit i = false)
    ∧ (ctzFrom m n < n → m.testBit (ctzFrom m n) = true) := by
  induction n generalizing m with
  | zero => exact ⟨Nat.le_refl 0, fun i hi => absurd hi (Nat.not_lt_zero i), fun h => absurd h (Nat.lt_irrefl 0)⟩
  | succ n ih =>
    obtain ⟨hle, hzero, hone⟩ := ih (m / 2)
    unfold ctzFrom
    split
    case isTrue h => exact ⟨by omega, fun i hi => absurd hi (Nat.not_lt_zero i), fun _ => by simpa using h⟩
    case isFalse h =>
      rw [Nat.add_comm]
      refine ⟨by omega, fun i hi => ?_, fun hk => ?_⟩
      · cases i with
        | zero => simpa using h
        | succ i => rw [Nat.testBit_succ]; exact hzero i (by omega)
      · rw [Nat.testBit_succ]
        exact hone (by omega)

theorem popFrom_eq_countP (n m : Nat) : popFrom m n = (List.range n).countP (fun i => m.testBit i) := by
  induction n generalizing m with
  | zero => rfl
  | succ n ih =>
    rw [popFrom, ih, List.range_succ_eq_map, List.countP_cons, List.countP_map]
    simp only [Function.comp_def, Nat.testBit_succ, Nat.testBit_zero, decide_eq_true_eq]
    split <;> omega

theorem popFrom_le (n m : Nat) : popFrom m n ≤ n := by
  rw [popFrom_eq_countP]
  exact List.countP_le_length.trans_eq List.length_range

/-- Settles O2: each bit of a bitwise result, and the three counts over the operand's width. -/
theorem bitOperationsMatchTable44 : Obligations.BitOperationsMatchTable44 := by
  unfold Obligations.BitOperationsMatchTable44
  refine ⟨fun s t o h => ?_, fun s t o h => ⟨?clz, ?ctz, ?popc⟩⟩
  · have does {f : ∀ n, BitVec n → BitVec n → BitVec n} {g : Bool → Bool → Bool}
        (hbit : ∀ n x y j, j < n → (f n x y).getLsbD j = g (x.getLsbD j) (y.getLsbD j)) :=
      And.intro (fun j (hj : j < 64) => getLsbD_aluW hbit o.w (t.src o.a) (t.src o.b) hj) (aluOp_wrote h (f 64) (f 32))
    exact ⟨⟨_, (does fun _ _ _ _ _ => BitVec.getLsbD_and :)⟩, ⟨_, (does fun _ _ _ _ _ => BitVec.getLsbD_or :)⟩,
      ⟨_, (does fun _ _ _ _ _ => BitVec.getLsbD_xor :)⟩,
      ⟨_, (does (f := fun _ x y => x &&& ~~~y) (g := fun p q => p && !q) fun n x y j hj => by simp [hj] :)⟩⟩
  case clz =>
    obtain ⟨hzero, hone⟩ := leading_zeros (widthOf o.w) ((t.src o.a).setWidth (widthOf o.w))
    have hpos := widthOf_pos o.w
    exact ⟨_, Nat.sub_le .., fun i hi => (getLsbD_operand o.w _ (by omega)).symm.trans (hzero i hi),
      fun hk => (getLsbD_operand o.w _ (by omega)).symm.trans (hone hk),
      (aluOp1_wrote h (c := fun n x => n - bitLen x.toNat) fun n x => Nat.sub_le .. :)⟩
  case ctz =>
    obtain ⟨hle, hzero, hone⟩ := trailing_zeros (widthOf o.w) ((t.src o.a).setWidth (widthOf o.w)).toNat
    exact ⟨_, hle, fun i hi => (getLsbD_operand o.w _ (by omega)).symm.trans (hzero i hi),
      fun hk => (getLsbD_operand o.w _ hk).symm.trans (hone hk),
      (aluOp1_wrote h (c := fun n x => ctzFrom x.toNat n) fun n x => (trailing_zeros n x.toNat).1 :)⟩
  case popc =>
    have hcount : popFrom ((t.src o.a).setWidth (widthOf o.w)).toNat (widthOf o.w)
        = (List.range (widthOf o.w)).countP (fun i => (t.src o.a).getLsbD i) := by
      rw [popFrom_eq_countP]
      refine List.countP_congr fun i hi => ?_
      rw [BitVec.testBit_toNat, getLsbD_operand o.w _ (List.mem_range.1 hi)]
    exact hcount ▸ (aluOp1_wrote h (c := fun n x => popFrom x.toNat n) fun n x => popFrom_le n x.toNat :)

/-! ## Bit fields (R101, R102) -/

theorem testBit_foldl (g : Nat → Bool) (m : Nat) :
    (List.range m).foldl (fun n i => n + b2n (g i) * 2 ^ i) 0 < 2 ^ m
      ∧ ∀ j, ((List.range m).foldl (fun n i => n + b2n (g i) * 2 ^ i) 0).testBit j = (decide (j < m) && g j) := by
  have hstep : (fun n i => n + b2n (g i) * 2 ^ i) = fun n i => if g i = false then n else n + 2 ^ i := by
    funext n i
    cases g i <;> simp [b2n]
  obtain ⟨hlt, hbit⟩ := testBit_setBits (fun i => g i = false) m
  rw [hstep]
  exact ⟨hlt, fun j => (hbit j).trans (by simp)⟩

/-- A number of w bits read as a signed one. -/
theorem sext_eq_toInt {w : Nat} (h : 0 < w) (x : Nat) : sext x w = (BitVec.ofNat w x).toInt := by
  obtain ⟨w, rfl⟩ := Nat.exists_eq_succ_of_ne_zero h.ne'
  rw [BitVec.toInt_eq_toNat_cond, BitVec.toNat_ofNat]
  have hp : 2 ^ (w + 1) = 2 * 2 ^ w := by rw [pow_succ, mul_comm]
  simp only [sext, Nat.succ_eq_add_one, Nat.add_sub_cancel, hp, Nat.mul_lt_mul_left (by omega : 0 < 2)]

theorem testBit_bfField (sgn : Bool) (a : Word64) (off w j : Nat) : (bfField sgn a off w).testBit j
    = (decide (j < w) && if off + j ≤ 63 then a.getLsbD (off + j) else sgn && a.getLsbD 63) :=
  (testBit_foldl _ w).2 j

theorem getLsbD_bfxOf_false (a : Word64) (off width : Nat) {i : Nat} (hi : i < 64) :
    (bfxOf false a off width).getLsbD i = (decide (i < min width 64) && if off + i ≤ 63 then a.getLsbD (off + i) else false) := by
  unfold bfxOf
  dsimp only
  split
  case isTrue h => simp [h]
  case isFalse =>
    rw [if_neg Bool.false_ne_true, BitVec.getLsbD_ofNat, testBit_bfField, decide_eq_true hi, Bool.true_and, Bool.false_and]

theorem getLsbD_bfxOf_true (a : Word64) (off width : Nat) {i : Nat} (hi : i < 64) :
    (bfxOf true a off width).getLsbD i = (decide (min width 64 ≠ 0) &&
      let j := min i (min width 64 - 1)
      if off + j ≤ 63 then a.getLsbD (off + j) else a.getLsbD 63) := by
  unfold bfxOf
  dsimp only
  generalize min width 64 = w
  split
  case isTrue h => simp [h]
  case isFalse h =>
    rw [if_pos rfl, sext_eq_toInt (by omega), decide_eq_true h, Bool.true_and]
    refine (BitVec.getLsbD_signExtend _).trans ?_
    simp only [BitVec.msb_eq_getLsbD_last, BitVec.getLsbD_ofNat, testBit_bfField, decide_eq_true hi, Bool.true_and]
    by_cases hw : i < w
    · rw [if_pos hw, decide_eq_true hw, Bool.true_and, Bool.true_and, show min i (w - 1) = i by omega]
    · rw [if_neg hw, decide_eq_true (show w - 1 < w by omega), Bool.true_and, Bool.true_and, show min i (w - 1) = w - 1 by omega]

theorem getLsbD_bfiOf (d a : Word64) (off width : Nat) {i : Nat} (hi : i < 64) :
    (bfiOf d a off width).getLsbD i = if off ≤ i ∧ i < off + min width 64 then a.getLsbD (i - off) else d.getLsbD i := by
  obtain ⟨-, hbit⟩ := testBit_foldl
    (fun p => if off ≤ p ∧ p < off + min width 64 then a.getLsbD (p - off) else d.getLsbD p) 64
  refine (BitVec.getLsbD_ofNat ..).trans ?_
  rw [hbit, decide_eq_true hi, Bool.true_and, Bool.true_and]

/-- Settles O4: the bits of each field operation. -/
theorem bitFieldsBitByBit : Obligations.BitFieldsBitByBit := by
  unfold Obligations.BitFieldsBitByBit
  rintro s t ⟨d, a, off, width⟩
  refine ⟨fun h => ⟨⟨_, fun i hi => ?_, (scalarOp_wrote h 2 _ :)⟩, ⟨_, fun i hi => ?_, (scalarOp_wrote h 2 _ :)⟩⟩, fun n hd h => ?_⟩
  · exact getLsbD_bfxOf_false (t.src a) off.toNat width.toNat hi
  · exact getLsbD_bfxOf_true (t.src a) off.toNat width.toNat hi
  · subst hd
    exact ⟨_, fun i hi => getLsbD_bfiOf (t.sreg n.val) (t.src a) off.toNat width.toNat hi, scalarOp_wrote h 2 _⟩

end Sys2Proof.ResultBits
end

section
/-!
PROOFS. Immediates and compact forms (spec/04 R97 to R100), and the conditional branches (spec/04 R103, R106, spec/08 R219).
-/

namespace Sys2Proof.Immediates
open Sys2Proof Sys2Proof.Machine Sys2Proof.Laws Sys2Proof.Claim Sys2Proof.Control Sys2Proof.ScalarResults

theorem add_signExtend {k : Nat} (x : Word64) (i : BitVec k) : x + i.signExtend 64 = BitVec.ofInt 64 (x.toInt + i.toInt) := by
  rw [BitVec.ofInt_add, BitVec.ofInt_toInt]
  rfl

theorem toInt_immOf (i : BitVec 14) : (Machine.immOf i).toInt = i.toInt := BitVec.toInt_signExtend_of_le (by decide)

theorem sltS_immOf (x : Word64) (i : BitVec 14) : sltS x (Machine.immOf i) = if x.toInt < i.toInt then 1 else 0 := by
  simp only [sltS, BitVec.slt_eq_decide, toInt_immOf, decide_eq_true_eq]

theorem sltU_immOf (x : Word64) (i : BitVec 14) :
    sltU x (Machine.immOf i) = if x.toNat < (BitVec.ofInt 64 i.toInt).toNat then 1 else 0 := by
  simp only [sltU, BitVec.ult_eq_decide, decide_eq_true_eq]
  rfl

/-- An immediate shift amount is below 64. -/
theorem amount_of_imm (n : BitVec 6) : (n.setWidth 64).toNat % 64 = n.toNat := by
  have := n.isLt
  rw [BitVec.toNat_setWidth]
  omega

theorem shl64_imm (x : Word64) (n : BitVec 6) : shl64 x (n.setWidth 64) = BitVec.ofNat 64 (x.toNat * 2 ^ n.toNat) := by
  have h := shl_exact 64 x (n.setWidth 64)
  rw [amount_of_imm] at h
  exact (congrArg (x <<< ·) (amount_of_imm n)).trans (h.trans (BitVec.ofInt_natCast 64 (x.toNat * 2 ^ n.toNat)))

theorem shr64_imm (x : Word64) (n : BitVec 6) : shr64 x (n.setWidth 64) = BitVec.ofNat 64 (x.toNat / 2 ^ n.toNat) := by
  have h := shr_exact 64 x (n.setWidth 64)
  rw [amount_of_imm] at h
  exact (congrArg (x >>> ·) (amount_of_imm n)).trans (h.trans (BitVec.ofInt_natCast 64 (x.toNat / 2 ^ n.toNat)))

theorem sar64_imm (x : Word64) (n : BitVec 6) : sar64 x (n.setWidth 64) = BitVec.ofInt 64 (x.toInt / 2 ^ n.toNat) := by
  have h := sar_exact 64 x (n.setWidth 64)
  rw [amount_of_imm] at h
  exact (congrArg x.sshiftRight (amount_of_imm n)).trans h

theorem lui_value (i : BitVec 19) : i.signExtend 64 <<< 13 = BitVec.ofInt 64 (i.toInt * 2 ^ 13) := by
  rw [BitVec.ofInt_mul, BitVec.shiftLeft_eq_mul_twoPow]
  rfl

/-- Settles O3: each form issues with its value, which the lemmas above give for the immediates. -/
theorem immediateAndCompactResults : Obligations.ImmediateAndCompactResults := by
  unfold Obligations.ImmediateAndCompactResults
  refine ⟨fun s t d a h => ?_, fun s t d i h => ?_, fun s t d a h => (scalarOp_wrote h 1 _ :), fun s t o h => ?_, fun s t o h => ?_,
    fun s t d i j h => ?_⟩
  · have does (f : Word64 → Word64 → Word64) : compactOp f d a s = Claim.wrote s (.s d) (f (t.src (.s d)) (t.src a)) 1 :=
      scalarOp_wrote h 1 _
    exact ⟨(does (· + ·) :), (does (· - ·) :), (does (· &&& ·) :), (does (· ||| ·) :)⟩
  · exact add_signExtend (t.src (.s d)) i ▸ (scalarOp_wrote h 1 (fun t => t.sreg d.val + i.signExtend 64) :)
  · have does (f : Word64 → Word64 → Word64) {v : Word64} (hv : f (t.src o.a) (Machine.immOf o.imm) = v) :
        immOp f o s = Claim.wrote s o.d v 2 := hv ▸ scalarOp_wrote h 2 _
    exact ⟨(does _ (add_signExtend (t.src o.a) o.imm) :), (does (· &&& ·) rfl :), (does (· ||| ·) rfl :), (does (· ^^^ ·) rfl :),
      (does _ (sltS_immOf ..) :), (does _ (sltU_immOf ..) :)⟩
  · have does (f : Word64 → Word64 → Word64) {v : Word64} (hv : f (t.src o.a) (o.amt.setWidth 64) = v) :
        shiftOp f o s = Claim.wrote s o.d v 2 := hv ▸ scalarOp_wrote h 2 _
    exact ⟨(does _ (shl64_imm ..) :), (does _ (shr64_imm ..) :), (does _ (sar64_imm ..) :)⟩
  · exact ⟨lui_value i ▸ (scalarOp_wrote h 2 (fun _ => i.signExtend 64 <<< 13) :), (scalarOp_wrote h 3 _ :)⟩

/-! ## Conditional branches -/

/-- A branch goes to its target where its condition holds, and moves on where it does not. -/
def Branches (s : State) (t : Task) (p : Int) (taken : Prop) (o : Out) : Prop :=
  (taken → GoodTarget s t p → o = jumped s p) ∧ (¬ taken → o = .next (s.finish 2))

theorem branches_ite {s : State} {t : Task} {p : Int} {b : Bool} {taken : Prop} (hb : b = true ↔ taken) :
    Branches s t p taken (.next (if b then s.branchTo t p else s.finish 2)) := by
  refine ⟨fun h hg => ?_, fun h => ?_⟩
  · rw [if_pos (hb.2 h), branchTo_good hg]
  · rw [if_neg fun e => h (hb.1 e)]

theorem cmpBranch_branches {s : State} {t : Task} {o : CmpBr} (ht : s.curTask = some t) (hr : t.ready [o.a, o.b] = true)
    {c : Word64 → Word64 → Bool} {taken : Prop} (hc : c (t.src o.a) (t.src o.b) = true ↔ taken) :
    Branches s t (s.curSt.pc.toNat + o.off.toInt) taken (cmpBranch c o s) := by
  have h : cmpBranch c o s = .next (if c (t.src o.a) (t.src o.b) then s.branchTo t (s.curSt.pc.toNat + o.off.toInt) else s.finish 2) := by
    refine (onTask_some ht _).trans ?_
    simp only [hr, Bool.not_true, Bool.false_eq_true, if_false]
  rw [h]
  exact branches_ite hc

theorem testBranch_branches (s : State) (t : Task) {zero : Bool} {v : Word64} {taken : Prop} (off : BitVec 14)
    (hz : decide (v = 0) = zero ↔ taken) :
    Branches s t (s.curSt.pc.toNat + off.toInt) taken (.next (testBranch zero t v off s)) := by
  have h := branches_ite (s := s) (t := t) (p := s.curSt.pc.toNat + off.toInt) (b := decide (decide (v = 0) = zero))
    (decide_eq_true_iff.trans hz)
  simp only [decide_eq_true_eq] at h
  exact h

/-- Settles O6: the six comparisons and the two tests decide a branch each. -/
theorem conditionalBranches : Obligations.ConditionalBranches := by
  unfold Obligations.ConditionalBranches
  refine ⟨fun s t o ht hr => ?_, fun s t off ht => ⟨fun a ha => ?_, fun a => ?_⟩⟩
  · have does {c : Word64 → Word64 → Bool} {taken : Prop} (hc : c (t.src o.a) (t.src o.b) = true ↔ taken) :=
      cmpBranch_branches ht hr hc
    have hslt : ∀ x y : Word64, x.slt y = true ↔ x.toInt < y.toInt := fun _ _ => BitVec.slt_iff_toInt_lt
    have hult : ∀ x y : Word64, x.ult y = true ↔ x.toNat < y.toNat := fun x y => by rw [BitVec.ult_eq_decide, decide_eq_true_iff]
    refine ⟨(does (c := fun a b => decide (a = b)) decide_eq_true_iff :), (does (c := fun a b => decide (a ≠ b)) decide_eq_true_iff :),
      (does (c := fun a b => a.slt b) (hslt ..) :), (does (c := fun a b => !a.slt b) ?_ :), (does (c := fun a b => a.ult b) (hult ..) :),
      (does (c := fun a b => !a.ult b) ?_ :)⟩
    · rw [Bool.not_eq_true', ← Bool.not_eq_true, hslt, Int.not_lt]
    · rw [Bool.not_eq_true', ← Bool.not_eq_true, hult, Nat.not_lt]
  · have does {zero : Bool} {taken : Prop} (hz : decide (t.src a = 0) = zero ↔ taken) :
        Branches s t (s.curSt.pc.toNat + off.toInt) taken (onTask s fun t => if t.srcReady a then testBranch zero t (t.src a) off s else s) := by
      rw [onTask_some ht, if_pos ha]
      exact testBranch_branches s t off hz
    exact ⟨(does decide_eq_true_iff :), (does decide_eq_false_iff_not :)⟩
  · have does {zero : Bool} {taken : Prop} (hz : decide (t.a s.cur.stream a.val = 0) = zero ↔ taken) :
        Branches s t (s.curSt.pc.toNat + off.toInt) taken (onTask s fun t => testBranch zero t (s.areg t a.val) off s) := by
      rw [onTask_some ht]
      exact testBranch_branches s t off hz
    exact ⟨(does decide_eq_true_iff :), (does decide_eq_false_iff_not :)⟩

end Sys2Proof.Immediates
end

section
/-!
PROOFS. Scalar accesses up to their checks (spec/04 R90, R91, R107, R109, R113): which access each form makes once its operands are ready,
what holds it at issue, and the faults of Table 4-7.
-/

namespace Sys2Proof.AccessChecks
open Sys2Proof Sys2Proof.Machine Sys2Proof.Laws Sys2Proof.Claim Sys2Proof.ScalarResults

/-! ## The access that each form makes (R107, R108, R113, R114) -/

theorem smAddr_eq_smEa (b : Word64) (off : BitVec 9) (n : Nat) : smAddr b off n = smEa b off n := by
  unfold smAddr smEa
  rw [BitVec.ofInt_add, BitVec.ofInt_mul, BitVec.ofInt_natCast, BitVec.ofInt_natCast, BitVec.ofNat_toNat, BitVec.setWidth_eq]
  rfl

section
variable {s : State} {t : Task} (ht : s.curTask = some t)
include ht

theorem exec_load (acq : Bool) (o : LoadOp) (hr : (t.ready [o.base] && t.dstReady o.d) = true) :
    exec (if acq then .ldacq o else .ld o) s
      = .next (loadAt t o.d (smEa (t.src o.base) o.off o.size.bytes) o.size.bytes o.sx acq o.rd.val s) := by
  have h : exec (if acq then .ldacq o else .ld o) s = execLoad acq o s := by cases acq <;> rfl
  rw [h, execLoad, onTask_some ht, if_pos hr, smAddr_eq_smEa]

theorem exec_load_waits (acq : Bool) (o : LoadOp) (hr : (t.ready [o.base] && t.dstReady o.d) = false) :
    exec (if acq then .ldacq o else .ld o) s = .next s := by
  have h : exec (if acq then .ldacq o else .ld o) s = execLoad acq o s := by cases acq <;> rfl
  rw [h, execLoad, onTask_some ht, if_neg (Bool.not_eq_true _ ▸ hr)]

theorem exec_store (rel : Bool) (o : StoreOp) (hr : t.ready [o.src, o.base] = true) :
    exec (if rel then .strel o else .st o) s = .next (storeAt t (t.src o.src) (smEa (t.src o.base) o.off o.size.bytes)
      o.size.bytes rel o.rd.val s) := by
  have h : exec (if rel then .strel o else .st o) s = execStore rel o s := by cases rel <;> rfl
  rw [h, execStore, onTask_some ht, if_pos hr, smAddr_eq_smEa]

theorem exec_store_waits (rel : Bool) (o : StoreOp) (hr : t.ready [o.src, o.base] = false) :
    exec (if rel then .strel o else .st o) s = .next s := by
  have h : exec (if rel then .strel o else .st o) s = execStore rel o s := by cases rel <;> rfl
  rw [h, execStore, onTask_some ht, if_neg (Bool.not_eq_true _ ▸ hr)]

theorem exec_amo {o : AmoF} {p : AmoOp × Instr} (hp : p ∈ amos o) (hr : (t.ready [o.addr, o.val] && t.dstReady o.d) = true) :
    exec p.2 s = .next (let n := atomBytes o
      let v := (t.src o.val).toNat % 2 ^ (8 * n)
      atomicAt t o.d (t.src o.addr) n o.scope (fun old => some (amoNew p.1 n old v)) (.amo p.1 n (BitVec.ofNat 64 v)) 2 s) := by
  have h : exec p.2 s = execAmo p.1 o s := by
    simp only [amos, List.mem_cons, List.not_mem_nil, or_false] at hp
    rcases hp with rfl | rfl | rfl | rfl | rfl | rfl | rfl | rfl | rfl <;> rfl
  rw [h]
  refine (onTask_some ht _).trans ?_
  dsimp only
  rw [if_pos hr]
  rfl

theorem exec_cas {o : AmoF} {cmp : SSrc} (hr : (t.ready [o.addr, o.val, cmp] && t.dstReady o.d) = true) :
    exec (.cas o cmp) s = .next (let n := atomBytes o
      let v := (t.src o.val).toNat % 2 ^ (8 * n)
      let c := (t.src cmp).toNat % 2 ^ (8 * n)
      atomicAt t o.d (t.src o.addr) n o.scope (fun old => if old = c then some v else none)
        (.cas n (BitVec.ofNat 64 c) (BitVec.ofNat 64 v)) 3 s) := by
  refine (onTask_some ht _).trans ?_
  dsimp only
  rw [if_pos hr]
  rfl

end

/-! ## The checks of Table 4-7 (R109) -/

theorem withAccess_misaligned {s : State} {t : Task} {va : Word64} {n : Nat} (h : va.toNat % n ≠ 0) (acc : AccKind)
    (f : Leaf → Nat → State) : withAccess s t va n acc f = s.takeFault fAlign va := if_pos h

theorem withAccess_bad {s : State} {t : Task} {va : Word64} {n : Nat} {acc : AccKind} {c : BitVec 8} (h : va.toNat % n = 0)
    (hx : xlate s s.curDie t.pav va.toNat acc = .bad c) (f : Leaf → Nat → State) :
    withAccess s t va n acc f = s.takeMemFault c va.toNat := by
  simp only [withAccess, h, hx, ne_eq, not_true, if_false]

theorem withAccess_ok {s : State} {t : Task} {va : Word64} {n : Nat} {acc : AccKind} {l : Leaf} {pa : Nat} (h : va.toNat % n = 0)
    (hx : xlate s s.curDie t.pav va.toNat acc = .ok l pa) (f : Leaf → Nat → State) : withAccess s t va n acc f = f l pa := by
  simp only [withAccess, h, hx, ne_eq, not_true, if_false]

/-- A checked access that is misaligned, or whose translation fails, takes its fault at the address. -/
theorem faults_of_withAccess {s : State} {t : Task} {va : Word64} {n : Nat} {acc : AccKind} {f : Leaf → Nat → State} {o : Out}
    (h : o = .next (withAccess s t va n acc f)) :
    (va.toNat % n ≠ 0 → o = .next (s.takeFault fAlign va))
      ∧ ∀ c, va.toNat % n = 0 → xlate s s.curDie t.pav va.toNat acc = .bad c → o = .next (s.takeMemFault c va.toNat) :=
  ⟨fun hm => by rw [h, withAccess_misaligned hm], fun c ha hx => by rw [h, withAccess_bad ha hx]⟩

/-- What an access may not do to a page: check 3 of Table 4-7. -/
theorem leafCheck_perm {p : Pav} {acc : AccKind} {va : Nat} {l : Leaf}
    (h : acc = .read ∧ l.r = false ∨ acc ≠ .read ∧ l.w = false ∨ acc = .store ∧ l.cls = .rshr) : leafCheck p acc va l = .bad fPerm := by
  unfold leafCheck
  exact if_pos (by simpa [or_assoc] using h)

theorem leafCheck_retired {p : Pav} {acc : AccKind} {va : Nat} {l : Leaf}
    (h : ¬ (acc = .read ∧ l.r = false ∨ acc ≠ .read ∧ l.w = false ∨ acc = .store ∧ l.cls = .rshr)) (hk : l.key ≠ p.key)
    (hr : l.key ∈ p.retired) : leafCheck p acc va l = .bad fKeyRetired := by
  unfold leafCheck
  exact (if_neg (by simpa [or_assoc] using h)).trans (if_pos (by simp [hk, hr]))

/-- Settles O17: what waits, form by form, and each checked access by its checks. -/
theorem scalarHazardsAndAccessChecks : Obligations.ScalarHazardsAndAccessChecks := by
  unfold Obligations.ScalarHazardsAndAccessChecks
  refine ⟨fun s t ht => ⟨fun o hw => ?_, fun o hbusy => ?_, fun o hw => ?_, fun o hw => ?_, fun o hw => ?_⟩, fun s t ht => ?_⟩
  · have alu (f64 f32) : aluOp f64 f32 o s = .next s := scalarOp_waits ht hw 2 _
    have mul (f64 f32) : mulOp f64 f32 o s = .next s := slowOp_waits ht (by rw [hw, Bool.false_and]) ..
    have div (f64 f32) : divOp f64 f32 o s = .next s := slowOp_waits ht (by rw [hw, Bool.false_and]) ..
    exact ⟨(alu (· + ·) (· + ·) :), (alu (· - ·) (· - ·) :), (mul (· * ·) (· * ·) :), (div (divS 64) (divS 32) :),
      (alu seqB seqB :)⟩
  · have slow (f64 f32) : divOp f64 f32 o s = .next s :=
      slowOp_waits ht (by rw [decide_eq_false (Nat.not_le.2 hbusy), Bool.and_false]) ..
    exact ⟨(slow (divS 64) (divS 32) :), (slow (divU 64) (divU 32) :), (slow (remS 64) (remS 32) :), (slow (remU 64) (remU 32) :)⟩
  · exact ⟨(exec_load_waits ht false o hw :), (exec_load_waits ht true o hw :)⟩
  · exact ⟨(exec_store_waits ht false o hw :), (exec_store_waits ht true o hw :)⟩
  · have waits (c) : cmpBranch c o s = .next s := (onTask_some ht _).trans (by rw [hw]; rfl)
    exact ⟨(waits (fun a b => decide (a = b)) :), (waits (fun a b => a.ult b) :)⟩
  · refine ⟨fun o h => ?_, fun o hr => ?_, fun o h p hp => ?_, fun l p acc va => ⟨leafCheck_perm, leafCheck_retired⟩⟩
    · obtain ⟨-, hb, hd, -⟩ := h
      have hr : (t.ready [o.base] && t.dstReady o.d) = true := by rw [hb, hd]; rfl
      exact ⟨faults_of_withAccess (exec_load ht false o hr), faults_of_withAccess (exec_load ht true o hr)⟩
    · exact ⟨faults_of_withAccess (exec_store ht false o hr), faults_of_withAccess (exec_store ht true o hr)⟩
    · obtain ⟨-, hb, hd, -⟩ := h
      exact faults_of_withAccess (exec_amo ht hp (by rw [hb, hd]; rfl))

end Sys2Proof.AccessChecks
end

section
/-!
PROOFS. Words that the spec writes out (Tables 4-3, 4-8, 5-2, 6-7, 7-12, 8-7, spec/04 R100), decoded.
-/

namespace Sys2Proof.WrittenWords
open Sys2Proof Sys2Proof.Machine

/-- Settles O59: the decoder evaluated on the ten words. -/
theorem writtenOutWordsDecode : Obligations.WrittenOutWordsDecode := by
  unfold Obligations.WrittenOutWordsDecode
  decide +kernel

end Sys2Proof.WrittenWords
end

section
/-!
PROOFS. The bytes of a line that an access reads and writes (spec/00 R4, spec/04 R107, R108, R113).
-/

namespace Sys2Proof.LineBytes
open Sys2Proof Sys2Proof.Machine Sys2Proof.Claim

/-! ## Bytes and numbers (R4) -/

@[simp] theorem length_bytesOf (n w : Nat) : (bytesOf n w).length = n := by
  induction n generalizing w with
  | zero => rfl
  | succ n ih => rw [bytesOf, List.length_cons, ih]

@[simp] theorem length_slice (bs : List Byte) (off n : Nat) : (slice bs off n).length = n := by
  unfold slice
  simp only [List.length_append, List.length_replicate, List.length_take, List.length_drop]
  omega

theorem natOf_lt (bs : List Byte) : natOf bs < 2 ^ (8 * bs.length) := by
  induction bs with
  | nil => exact Nat.one_pos
  | cons b bs ih =>
    have hb := b.isLt
    rw [natOf, List.length_cons, show 8 * (bs.length + 1) = 8 * bs.length + 8 by omega, pow_add]
    omega

theorem field_lt (bs : List Byte) (off n : Nat) : field bs off n < 2 ^ (8 * n) :=
  (natOf_lt _).trans_eq (by rw [length_slice])

theorem natOf_bytesOf {n w : Nat} (h : w < 2 ^ (8 * n)) : natOf (bytesOf n w) = w := by
  induction n generalizing w with
  | zero => simp only [mul_zero, pow_zero, Nat.lt_one_iff] at h; rw [h]; rfl
  | succ n ih =>
    rw [show 8 * (n + 1) = 8 * n + 8 by omega, pow_add] at h
    rw [bytesOf, natOf, ih (by omega), BitVec.toNat_ofNat]
    omega

/-- A number of n bytes read as a signed one: the upper half is negative. -/
theorem sext_of_lt {n w : Nat} (h : w < 2 ^ (8 * n)) :
    sext w (8 * n) = if w < 2 ^ (8 * n - 1) then (w : Int) else (w : Int) - 2 ^ (8 * n) := by
  simp only [sext, Nat.mod_eq_of_lt h, Nat.cast_pow, Nat.cast_ofNat]

/-- The value of a load is that of its bytes, extended as its form says (R107). -/
theorem loadValue_eq_extended (sx : Bool) (bs : List Byte) : loadValue sx bs.length bs = extended sx bs.length (natOf bs) := by
  unfold loadValue extended
  cases sx with
  | false => rfl
  | true =>
    rw [if_pos rfl, sext_of_lt (natOf_lt bs), Bool.true_and]
    by_cases h : natOf bs < 2 ^ (8 * bs.length - 1)
    · rw [if_pos h, decide_eq_false (by omega), if_neg Bool.false_ne_true, BitVec.ofInt_natCast]
    · rw [if_neg h, decide_eq_true (by omega), if_pos rfl]

theorem loadValue_slice (sx : Bool) (n : Nat) (bs : List Byte) (off : Nat) :
    loadValue sx n (slice bs off n) = extended sx n (field bs off n) := by
  have h := loadValue_eq_extended sx (slice bs off n)
  rwa [length_slice] at h

/-! ## A span of a line (R108) -/

theorem getLsbD_spanMask {off n j : Nat} (hj : j < 128) : (spanMask off n).getLsbD j = decide (off ≤ j ∧ j < off + n) := by
  rw [spanMask, BitVec.getLsbD_ofNat, Nat.testBit_mul_two_pow, Nat.testBit_two_pow_sub_one, decide_eq_true hj, Bool.true_and,
    ← Bool.decide_and, decide_eq_decide]
  omega

theorem getD_spanData {off j : Nat} {bs : List Byte} (h1 : off ≤ j) (h2 : j < off + bs.length) :
    (spanData off bs).getD j 0 = bs.getD (j - off) 0 := by
  have hlen : (slice (List.replicate 128 0) 0 off).length = off := length_slice ..
  unfold spanData splice
  rw [List.append_assoc, List.getD_append_right _ _ _ _ (by omega), hlen, List.getD_append _ _ _ _ (by omega)]

theorem getD_maskMerge {mask : BitVec 128} {new old : List Byte} {j : Nat} (hj : j < 128) :
    (maskMerge mask new old).getD j 0 = if mask.getLsbD j then new.getD j 0 else old.getD j 0 := by
  unfold maskMerge tab
  rw [List.getD_eq_getElem _ _ (by simpa using hj)]
  simp

/-- A line with a span of it written. -/
theorem getD_written {off n j : Nat} {bs : List Byte} (hn : bs.length = n) (old : List Byte) (hj : j < 128) :
    (maskMerge (spanMask off n) (spanData off bs) old).getD j 0
      = if off ≤ j ∧ j < off + n then bs.getD (j - off) 0 else old.getD j 0 := by
  rw [getD_maskMerge hj, getLsbD_spanMask hj]
  by_cases h : off ≤ j ∧ j < off + n
  · rw [if_pos h, decide_eq_true h, if_pos rfl, getD_spanData h.1 (hn ▸ h.2)]
  · rw [if_neg h, decide_eq_false h, if_neg Bool.false_ne_true]

theorem getD_slice {ls : List Byte} {off n i : Nat} (hi : i < n) : (slice ls off n).getD i 0 = ls.getD (off + i) 0 := by
  have hlen : ((ls.drop off).take n).length = min n (ls.length - off) := by simp
  unfold slice
  by_cases h : off + i < ls.length
  · rw [List.getD_append _ _ _ _ (by omega), List.getD_eq_getElem _ _ (by omega), List.getD_eq_getElem _ _ h]
    simp
  · rw [List.getD_append_right _ _ _ _ (by omega), List.getD_eq_default ls _ (by omega), List.getD_replicate _ (by omega)]

theorem slice_eq_of_getD {ls bs : List Byte} {off n : Nat} (hn : bs.length = n)
    (h : ∀ i, i < n → ls.getD (off + i) 0 = bs.getD i 0) : slice ls off n = bs := by
  refine List.ext_getElem ((length_slice ..).trans hn.symm) fun i h1 h2 => ?_
  rw [← List.getD_eq_getElem _ 0 h1, ← List.getD_eq_getElem _ 0 h2, getD_slice (by omega), h i (by omega)]

theorem spanMask_ne_zero {off n : Nat} (h : off < 128) (hn : 0 < n) : spanMask off n ≠ 0 := by
  intro e
  have hbit : (spanMask off n).getLsbD off = true := (getLsbD_spanMask h).trans (decide_eq_true (by omega))
  rw [e] at hbit
  simp at hbit

/-- What an access reads of a span that has been written. -/
theorem field_written {off n v : Nat} (h : off + n ≤ 128) (hv : v < 2 ^ (8 * n)) (old : List Byte) :
    field (maskMerge (spanMask off n) (spanData off (bytesOf n v)) old) off n = v := by
  have hs : slice (maskMerge (spanMask off n) (spanData off (bytesOf n v)) old) off n = bytesOf n v := by
    refine slice_eq_of_getD (length_bytesOf n v) fun i hi => ?_
    rw [getD_written (length_bytesOf n v) old (by omega), if_pos (by omega), Nat.add_sub_cancel_left]
  rw [field, hs, natOf_bytesOf hv]

end Sys2Proof.LineBytes
end

section
/-!
PROOFS. The lines that a core finds and keeps in its caches (spec/16 R332 to R334): which line a fetch answers, that it stands in the L1
after it and after a write, and that releases and acquires touch neither tasks, requests nor bytes of memory.
-/

namespace Sys2Proof.CoreLines
open Sys2Proof Sys2Proof.Machine Sys2Proof.Laws Sys2Proof.Claim Sys2Proof.Control Sys2Proof.Traffic Sys2Proof.LineBytes

/-! ## Lines by line number and key -/

theorem lineFind_some {ls : List CLine} {key line : Nat} {coh : Bool} {x : CLine} (h : lineFind ls key line coh = some x) :
    x.line = line ∧ x.key = key ∧ x.coh = coh := by
  have := List.find?_some h
  simpa [and_assoc] using this

theorem lineFind_linePut (ls : List CLine) (l : CLine) (lru : Bool) : lineFind (linePut ls l lru) l.key l.line l.coh = some l := by
  have hnone : (ls.filter (fun x => !x.same l)).find? (fun x => x.line = l.line && x.key = l.key && x.coh = l.coh) = none := by
    simp only [List.find?_eq_none, List.mem_filter]
    rintro x ⟨-, hx⟩ hsame
    rw [show x.same l = true from hsame] at hx
    exact Bool.false_ne_true hx
  unfold lineFind linePut
  cases lru with
  | true => simp
  | false => simp [hnone]

theorem lineFind_lineSet {ls : List CLine} {l y : CLine} (h : lineFind ls l.key l.line l.coh = some y) :
    lineFind (lineSet ls l) l.key l.line l.coh = some l := by
  induction ls with
  | nil => exact absurd h (by simp [lineFind])
  | cons x ls ih =>
    unfold lineFind lineSet at *
    by_cases hx : x.same l = true
    · simp [hx]
    · have hp : (decide (x.line = l.line) && decide (x.key = l.key) && decide (x.coh = l.coh)) = false := by
        simpa [CLine.same] using hx
      rw [List.find?_cons_of_neg (by simpa using hp)] at h
      rw [List.map_cons, if_neg hx, List.find?_cons_of_neg (by simpa using hp)]
      exact ih h

/-- What a search finds first it finds first among those that stay with it. -/
theorem find?_filter_of_stays {α : Type} {l : List α} {p stay : α → Bool} {x : α} (h : l.find? p = some x) (hx : stay x = true) :
    (l.filter stay).find? p = some x := by
  induction l with
  | nil => exact h
  | cons y l ih =>
    by_cases hy : p y = true
    · rw [List.find?_cons_of_pos hy] at h
      obtain rfl := Option.some.inj h
      rw [List.filter_cons_of_pos hx, List.find?_cons_of_pos hy]
    · rw [List.find?_cons_of_neg hy] at h
      by_cases hs : stay y = true
      · rw [List.filter_cons_of_pos hs, List.find?_cons_of_neg hy]; exact ih h
      · rw [List.filter_cons_of_neg hs]; exact ih h

/-! ## The line of a core (R332) -/

/-- A PRIV or RSHR line as a core finds it: in its L1, in its die's DLC, in memory. -/
def foundLine (s : State) (c pav key line : Nat) : CLine :=
  match lineFind (s.core c).l1 key line false with
  | some x => x
  | none => dlcLine s (dieOf c) pav key line

theorem foundLine_l1 {s : State} {c key line : Nat} {x : CLine} (h : lineFind (s.core c).l1 key line false = some x) (pav : Nat) :
    foundLine s c pav key line = x := by
  unfold foundLine
  rw [h]

theorem foundLine_dlc {s : State} {c key line : Nat} (h : lineFind (s.core c).l1 key line false = none) (pav : Nat) :
    foundLine s c pav key line = dlcLine s (dieOf c) pav key line := by
  unfold foundLine
  rw [h]

theorem dlcLine_names (s : State) (d pav key line : Nat) :
    (dlcLine s d pav key line).line = line ∧ (dlcLine s d pav key line).key = key ∧ (dlcLine s d pav key line).coh = false := by
  unfold dlcLine
  dsimp only
  split
  case h_1 l h =>
    obtain ⟨h1, h2, h3⟩ := lineFind_some h
    split
    · exact ⟨h1, h2, h3⟩
    · exact ⟨h1, h2, h3⟩
  case h_2 => exact ⟨rfl, rfl, rfl⟩

theorem lineFind_putL1 (s : State) (c : Nat) (l : CLine) (lru : Bool) :
    lineFind ((s.putL1 c l lru).core c).l1 l.key l.line l.coh = some l := by
  unfold State.putL1
  rw [core_modCore_same]
  exact lineFind_linePut ..

/-- A fetch answers the line that the core finds, all but its dirty bytes. -/
theorem fetchPriv_line (s : State) (c pav key line rd : Nat) (load : Bool) :
    (s.fetchPriv c pav key line rd load).2.line = line ∧ (s.fetchPriv c pav key line rd load).2.key = key
      ∧ (s.fetchPriv c pav key line rd load).2.coh = false
      ∧ (s.fetchPriv c pav key line rd load).2.data = (foundLine s c pav key line).data
      ∧ (s.fetchPriv c pav key line rd load).2.poison = (foundLine s c pav key line).poison := by
  unfold State.fetchPriv
  split
  case h_1 l h =>
    obtain ⟨h1, h2, h3⟩ := lineFind_some h
    rw [foundLine_l1 h]
    exact ⟨h1, h2, h3, rfl, rfl⟩
  case h_2 h =>
    obtain ⟨h1, h2, h3⟩ := dlcLine_names s (dieOf c) pav key line
    rw [foundLine_dlc h]
    dsimp only
    split
    · exact ⟨h1, h2, h3, rfl, rfl⟩
    · exact ⟨h1, h2, h3, rfl, rfl⟩

/-- After a fetch for a store the line stands in the L1. -/
theorem lineFind_fetchPriv (s : State) (c pav key line rd : Nat) :
    lineFind ((s.fetchPriv c pav key line rd false).1.core c).l1 key line false = some (s.fetchPriv c pav key line rd false).2 := by
  obtain ⟨h1, h2, h3, -, -⟩ := fetchPriv_line s c pav key line rd false
  have hput : ∃ s1 lru, (s.fetchPriv c pav key line rd false).1 = State.putL1 s1 c (s.fetchPriv c pav key line rd false).2 lru := by
    unfold State.fetchPriv
    split
    · exact ⟨_, _, rfl⟩
    · simp only [Bool.false_and, Bool.false_eq_true, if_false]
      exact ⟨_, _, rfl⟩
  obtain ⟨s1, lru, h⟩ := hput
  have hfound := lineFind_putL1 s1 c (s.fetchPriv c pav key line rd false).2 lru
  rwa [h1, h2, h3, ← h] at hfound

/-- After a write the L1 holds the line that the core found, with the bytes of the mask written over it and dirty. -/
theorem lineFind_writePriv (s : State) (o : Orig) (c pav key line rd : Nat) (mask : BitVec 128) (data : List Byte) :
    ∃ x dirty, lineFind ((s.writePriv o c pav key line rd mask data).core c).l1 key line false = some x
      ∧ x.data = maskMerge mask data (foundLine s c pav key line).data ∧ x.dirty = dirty ||| mask := by
  obtain ⟨h1, h2, h3, hdata, -⟩ := fetchPriv_line s c pav key line rd false
  have hfind := lineFind_fetchPriv s c pav key line rd
  unfold State.writePriv
  generalize s.fetchPriv c pav key line rd false = r at h1 h2 h3 hdata hfind ⊢
  obtain ⟨s1, l⟩ := r
  dsimp only at h1 h2 h3 hdata hfind ⊢
  subst h1 h2
  rw [core_modCore_same, ← hdata]
  rw [← h3] at hfind ⊢
  exact ⟨_, l.dirty, lineFind_lineSet (l := { l with
    data := maskMerge mask data l.data
    dirty := l.dirty ||| mask
    orig := o
    poison := l.poison && decide (mask ≠ BitVec.allOnes 128) }) hfind, rfl, rfl⟩

/-! ## What keeps requests and numbers -/

/-- No request changes, and the numbers given out only grow. -/
structure Quiet (s s' : State) : Prop where
  reqs : s'.reqs = s.reqs
  nextId : s.nextId ≤ s'.nextId

theorem Quiet.refl (s : State) : Quiet s s := ⟨rfl, Nat.le_refl _⟩
theorem Quiet.trans {s s' s'' : State} (h : Quiet s s') (h' : Quiet s' s'') : Quiet s s'' :=
  ⟨h'.reqs.trans h.reqs, h.nextId.trans h'.nextId⟩
theorem Quiet.of_eq {s s' : State} (hr : s'.reqs = s.reqs) (hn : s'.nextId = s.nextId) : Quiet s s' := ⟨hr, hn.ge⟩
theorem quiet_ite {s x y : State} {p : Prop} [Decidable p] (hx : Quiet s x) (hy : Quiet s y) : Quiet s (if p then x else y) := by
  split
  · exact hx
  · exact hy
theorem quiet_each {α : Type} {f : α → State → State} (hf : ∀ a x, Quiet x (f a x)) (l : List α) (s : State) : Quiet s (each l f s) :=
  each_keeps (Quiet s) f (fun a x h => h.trans (hf a x)) l s (Quiet.refl s)

theorem quiet_toMem (s : State) (d : Nat) (l : CLine) : Quiet s (s.toMem d l) := ⟨rfl, Nat.le_succ _⟩

theorem quiet_roomDlc (s : State) (d line : Nat) : Quiet s (s.roomDlc d line) := by
  unfold State.roomDlc
  refine quiet_ite (Quiet.refl s) ?_
  split
  · exact Quiet.refl s
  · exact (quiet_ite (Quiet.refl s) (quiet_toMem ..)).trans (Quiet.of_eq rfl rfl)

theorem quiet_putDlc (s : State) (d : Nat) (l : CLine) (lru : Bool) : Quiet s (s.putDlc d l lru) := by
  unfold State.putDlc
  exact (quiet_ite (Quiet.refl s) (quiet_roomDlc ..)).trans (Quiet.of_eq rfl rfl)

theorem quiet_toDlc (s : State) (c : Nat) (l : CLine) : Quiet s (s.toDlc c l) := by
  unfold State.toDlc
  exact (quiet_putDlc s (dieOf c) _ false).trans (Quiet.of_eq rfl rfl)

theorem quiet_roomL1 (s : State) (c line : Nat) : Quiet s (s.roomL1 c line) := by
  unfold State.roomL1
  refine quiet_ite (Quiet.refl s) ?_
  split
  · exact Quiet.refl s
  · exact (quiet_ite (Quiet.refl s) (quiet_toDlc ..)).trans (Quiet.of_eq rfl rfl)

theorem quiet_putL1 (s : State) (c : Nat) (l : CLine) (lru : Bool) : Quiet s (s.putL1 c l lru) := by
  unfold State.putL1
  exact (quiet_ite (Quiet.refl s) (quiet_roomL1 ..)).trans (Quiet.of_eq rfl rfl)

theorem quiet_fetchPriv (s : State) (c pav key line rd : Nat) (load : Bool) : Quiet s (s.fetchPriv c pav key line rd load).1 := by
  unfold State.fetchPriv
  split
  · exact quiet_putL1 ..
  · dsimp only
    split
    · exact quiet_putDlc ..
    · exact (quiet_putDlc ..).trans (quiet_putL1 ..)

theorem quiet_writePriv (s : State) (o : Orig) (c pav key line rd : Nat) (mask : BitVec 128) (data : List Byte) :
    Quiet s (s.writePriv o c pav key line rd mask data) := by
  have h := quiet_fetchPriv s c pav key line rd false
  unfold State.writePriv
  generalize s.fetchPriv c pav key line rd false = r at h ⊢
  exact h.trans (Quiet.of_eq rfl rfl)

/-! ## Releases and acquires (R334, R345) -/

theorem quiet_releaseCaches (s : State) (c pav key : Nat) (dev : Bool) : Quiet s (s.releaseCaches c pav key dev) := by
  unfold State.releaseCaches
  have h := quiet_each (fun l x => quiet_toDlc x c l)
    ((s.core c).l1.filter (fun l => !l.coh && l.key = key && l.pav = pav && l.dirty ≠ 0)) s
  exact quiet_ite (h.trans (quiet_each (fun l x => quiet_toMem x _ l) _ _)) h

theorem onlyTraffic_releaseCaches (s : State) (c pav key : Nat) (dev : Bool) : OnlyTraffic s (s.releaseCaches c pav key dev) := by
  unfold State.releaseCaches
  have h := OnlyTraffic.each (fun l x => onlyTraffic_toDlc x c l)
    ((s.core c).l1.filter (fun l => !l.coh && l.key = key && l.pav = pav && l.dirty ≠ 0)) s
  exact onlyTraffic_ite (h.trans (OnlyTraffic.each (fun l x => onlyTraffic_toMem x _ l) _ _)) h

/-- A core whose LTIME is raised to a time, where that is later (R345). -/
def raisedTo (w : Word32) (k : Core) : Core :=
  if later 32 w.toNat k.ltime.toNat then { k with ltime := w, raised := true } else k

/-- Raising LTIME leaves the tasks and the lines of a core. -/
theorem raisedTo_but_ltime (w : Word32) (k : Core) : (raisedTo w k).slots = k.slots ∧ (raisedTo w k).l1 = k.l1 := by
  unfold raisedTo
  generalize later 32 w.toNat k.ltime.toNat = b
  cases b
  · exact ⟨rfl, rfl⟩
  · exact ⟨rfl, rfl⟩

theorem raiseLtime_eq (s : State) (c : Nat) (w : Word32) : s.raiseLtime c w = s.modCore c (raisedTo w) := rfl

theorem onlyTraffic_raiseLtime (s : State) (c : Nat) (w : Word32) : OnlyTraffic s (s.raiseLtime c w) :=
  raiseLtime_eq s c w ▸ OnlyTraffic.modCore s c fun k => (raisedTo_but_ltime w k).1

theorem l1_raiseLtime (s : State) (c : Nat) (w : Word32) : ((s.raiseLtime c w).core c).l1 = (s.core c).l1 := by
  rw [raiseLtime_eq, core_modCore_same]
  exact (raisedTo_but_ltime w _).2

theorem onlyTraffic_releaseAt (s : State) (c : Nat) (t : Task) (sc : Scope) : OnlyTraffic s (s.releaseAt c t sc) := by
  unfold State.releaseAt
  have h := onlyTraffic_ite (p := scopeNum sc ≥ 2) (onlyTraffic_releaseCaches s c t.pav t.key (scopeNum sc ≥ 3)) (OnlyTraffic.refl s)
  exact onlyTraffic_ite (h.trans (onlyTraffic_raiseLtime ..)) h

theorem quiet_releaseAt (s : State) (c : Nat) (t : Task) (sc : Scope) : Quiet s (s.releaseAt c t sc) := by
  unfold State.releaseAt
  have h := quiet_ite (p := scopeNum sc ≥ 2) (quiet_releaseCaches s c t.pav t.key (scopeNum sc ≥ 3)) (Quiet.refl s)
  exact quiet_ite (h.trans (Quiet.of_eq rfl rfl)) h

theorem onlyTraffic_acquireCaches (s : State) (c pav key : Nat) (dev : Bool) : OnlyTraffic s (s.acquireCaches c pav key dev) := by
  unfold State.acquireCaches
  extract_lets stay s1
  have h : OnlyTraffic s s1 := OnlyTraffic.modCore s c fun _ => rfl
  exact onlyTraffic_ite (h.trans (OnlyTraffic.modDie ..)) h

theorem onlyTraffic_acquireAt (s : State) (c : Nat) (t : Task) (sc : Scope) (w : Word32) : OnlyTraffic s (s.acquireAt c t sc w) := by
  unfold State.acquireAt
  have h := onlyTraffic_ite (p := scopeNum sc ≥ 2) (onlyTraffic_acquireCaches s c t.pav t.key (scopeNum sc ≥ 3)) (OnlyTraffic.refl s)
  exact onlyTraffic_ite (h.trans (onlyTraffic_raiseLtime ..)) h

theorem l1_acquireCaches (s : State) (c pav key : Nat) (dev : Bool) : ((s.acquireCaches c pav key dev).core c).l1
    = (s.core c).l1.filter (fun l => l.coh || l.key ≠ key || l.pav ≠ pav || l.dirty ≠ 0) := by
  unfold State.acquireCaches
  extract_lets stay s1
  have h : (s1.core c).l1 = (s.core c).l1.filter stay := congrArg Core.l1 (core_modCore_same s c _)
  cases dev
  · exact h
  · exact h

/-- A dirty line of a core outlives its acquires (R334). -/
theorem lineFind_acquireAt {s : State} {c : Nat} {key line : Nat} {x : CLine} (h : lineFind (s.core c).l1 key line false = some x)
    (hd : x.dirty ≠ 0) (t : Task) (sc : Scope) (w : Word32) : lineFind ((s.acquireAt c t sc w).core c).l1 key line false = some x := by
  have hcaches : lineFind ((s.acquireCaches c t.pav t.key (scopeNum sc ≥ 3)).core c).l1 key line false = some x := by
    rw [l1_acquireCaches]
    exact find?_filter_of_stays h (Bool.or_eq_true_iff.2 (Or.inr (decide_eq_true hd)))
  unfold State.acquireAt
  dsimp only
  by_cases h2 : scopeNum sc ≥ 2
  · rw [if_pos h2]
    split
    · rw [l1_raiseLtime]; exact hcaches
    · exact hcaches
  · rw [if_neg h2, if_neg (by omega)]
    exact h

theorem acquireAt_core {sc : Scope} (h : scopeNum sc < 2) (s : State) (c : Nat) (t : Task) (w : Word32) : s.acquireAt c t sc w = s := by
  unfold State.acquireAt
  dsimp only
  rw [if_neg (by omega), if_neg (by omega)]

end Sys2Proof.CoreLines
end

section
/-!
PROOFS. The end of a scalar access (spec/04 R87, R88, R91, R92, spec/16 R332, R345): the issuing task with a result, a reserved result or
none, moved on, while caches, requests and times change around it.
-/

namespace Sys2Proof.AccessEnds
open Sys2Proof Sys2Proof.Machine Sys2Proof.Laws Sys2Proof.Claim Sys2Proof.Control Sys2Proof.Traffic Sys2Proof.VectorIssue
  Sys2Proof.VectorLoads Sys2Proof.ResultFrame Sys2Proof.LineBytes Sys2Proof.CoreLines

/-- What an instruction has made of the issuing task so far; the other tasks, the cycle and the bytes of memory are as they were. -/
structure Made (s s' : State) (u : Task) : Prop where
  task : s'.curTask = some u
  cur : s'.cur = s.cur
  cyc : s'.cyc = s.cyc
  others : ∀ c l, (c, l) ≠ (s.cur.core.val, s.cur.slot.val) → s'.task? c l = s.task? c l
  bytes : SameBytes s s'

namespace Made
variable {s s' s'' : State} {t u : Task}

theorem start (h : s.curTask = some t) : Made s s t := ⟨h, rfl, rfl, fun _ _ _ => rfl, fun _ => rfl, fun _ _ => rfl⟩

theorem traffic (h : Made s s' u) (h' : OnlyTraffic s' s'') : Made s s'' u :=
  ⟨h'.curTask.trans h.task, h'.cur.trans h.cur, (congrArg State.cyc h'.rest :).trans h.cyc,
    fun c l hcl => (h'.tasks c l).trans (h.others c l hcl), sameBytes_trans h.bytes h'.sameBytes⟩

theorem oneTask (h : Made s s' u) (h' : OneTask s' s'') {v : Task} (hv : s''.curTask = some v) : Made s s'' v :=
  ⟨hv, h'.cur.trans h.cur, (congrArg State.cyc h'.rest :).trans h.cyc,
    fun c l hcl => (h'.others c l (h.cur ▸ hcl)).trans (h.others c l hcl), sameBytes_trans h.bytes (sameBytes_of_oneTask h')⟩

theorem modCur (h : Made s s' u) (f : Task → Task) : Made s (s'.modCur f) (f u) :=
  h.oneTask ((OneTask.refl s').modCur f) (curTask_modCur h.task f)

theorem finish (h : Made s s' u) (hs : s.cur.stream = .s) (n : Nat) : Made s (s'.finish n) (u.modSt .s (fun x => x.advance n)) := by
  refine h.oneTask (oneTask_finish (OneTask.refl s') n) ?_
  rw [curTask_finish h.task, h.cur, hs]

end Made

/-- An entry in flight that waits for memory or for a time of its own (R88). -/
def entry (tag : Nat) (d : SDst) (pc : BitVec 17) (va : Nat) (acq : Bool) (res : SRes) : SPend :=
  { tag := tag, dst := d, qpos := some 0, iaddr := pc, faddr := BitVec.ofNat 64 va, holds := true, acq := acq, res := res }

theorem Made.pendResult {s s' : State} {u : Task} (h : Made s s' u) (d : SDst) (va : Nat) (acq : Bool) (res : SRes) :
    Made s (s'.pendResult d va acq res) (u.reserve (entry s'.nextId d s'.curSt.pc va acq res)) := h.modCur _

/-! ## Results out of a line (R88, R91 to R93) -/

/-- The results in flight after a value from a core's caches has been asked for (R88): as `GotResult` lists them. -/
def cacheFlight (s : State) (t : Task) (d : SDst) (v : Word64) : Option Nat → SRes
  | some n => .fixed v (heldBy t d) (s.cyc + BitVec.ofNat 64 n)
  | none => .value v

/-- `GotResult` of a task that has moved on, from what that task was before it did. -/
theorem gotResult_of_made {s s' : State} {t u : Task} {d : SDst} {v : Word64} {lat : Option Nat} {len tag : Nat}
    (h : Made s s' (u.modSt .s (fun x => x.advance len))) (hn : s.nextId ≤ tag)
    (hq : u.q = (if lat.isSome then v else 0) :: t.q.take 15)
    (hreg : ∀ r : Fin 16, u.sreg r.val = if d = .s r ∧ lat.isSome = true then v else t.sreg r.val)
    (hpend : u.pend.map flight = t.pend.map flight ++ [(tag, d, cacheFlight s t d v lat)])
    (hlast : u.pend.getLast?.map SPend.qpos = some (some 0))
    (hbut : { u with s := t.s, q := t.q, pend := t.pend, rdts := t.rdts } = t) :
    GotResult s s' t d v lat len ∧ SameBytes s s' := by
  have hst : u.st .s = t.st .s := (congrArg (fun x : Task => x.st .s) hbut :)
  refine ⟨⟨⟨_, tag, h.task, hn, hq, hreg, hpend.trans ?_, hlast, ?_, ?_⟩, h.others⟩, h.bytes⟩
  · cases d <;> cases lat <;> rfl
  · rw [st_modSt_same, hst]
  · exact (congrArg (fun x : Task => { x with strm := t.strm }) hbut :)

section
variable {s s1 s2 : State} {t : Task} {w : Word32} {d : SDst} {va : Nat} {v : Word64}
  (h1 : Made s s1 { t with rdts := w }) (hs : s.cur.stream = .s) (hn : s.nextId ≤ s1.nextId)
include h1 hs hn

/-- A result that stands in the L1, whatever the caches and times do after it. -/
theorem gotResult_fixed {lat : Nat} (after : OnlyTraffic (s1.hitResult d va v false (some lat)) s2) (len : Nat) :
    GotResult s (s2.finish len) t d v (some lat) len ∧ SameBytes s (s2.finish len) := by
  have hmade := (((h1.traffic (OnlyTraffic.fresh s1)).modCur (fun x =>
    x.slowResult d v s1.nextId s1.curSt.pc (s1.cyc + BitVec.ofNat 64 lat) true)).traffic after).finish hs len
  refine gotResult_of_made hmade hn (q_result { t with rdts := w } d v) (fun r => ?_) ?_ ?_ ?_
  · exact (sreg_result { t with rdts := w } d v r).trans (by simp only [Option.isSome_some, and_true]; rfl)
  · exact (flights_slowResult { t with rdts := w } d v _ _ _ _).trans (by rw [h1.cyc]; cases d <;> rfl)
  · exact congrArg (Option.map SPend.qpos) List.getLast?_concat
  · exact (congrArg (fun x : Task => { x with rdts := t.rdts }) (result_but { t with rdts := w } d v) :)

/-- A result of the DLC, which a reserved entry waits for. -/
theorem gotResult_later (after : OnlyTraffic (s1.hitResult d va v false none) s2) (len : Nat) :
    GotResult s (s2.finish len) t d v none len ∧ SameBytes s (s2.finish len) := by
  have hmade := (((h1.pendResult d va false (.value v)).traffic (OnlyTraffic.fresh _)).traffic after).finish hs len
  refine gotResult_of_made hmade hn rfl (fun r => ?_) ?_ ?_ rfl
  · simp only [Option.isSome_none, Bool.false_eq_true, and_false, if_false]
    rfl
  · exact (List.map_append ..).trans (congrArg (· ++ _) (flights_shiftQ _ 0))
  · exact congrArg (Option.map SPend.qpos) List.getLast?_concat

/-- A result out of a line without poison, from the L1 or from the DLC alone. -/
theorem gotResult_hit {lat : Option Nat} (after : OnlyTraffic (s1.hitResult d va v false lat) s2) (len : Nat) :
    GotResult s (s2.finish len) t d v lat len ∧ SameBytes s (s2.finish len) := by
  cases lat with
  | none => exact gotResult_later h1 hs hn after len
  | some lat => exact gotResult_fixed h1 hs hn after len

end

/-! ## Results reserved and requests sent (R88, R361, R411) -/

theorem reqs_finish (s : State) (n : Nat) : (s.finish n).reqs = s.reqs :=
  reqs_of_oneTask (oneTask_finish (OneTask.refl s) n)

theorem reasm_finish (s : State) (n c : Nat) : ((s.finish n).core c).reasm = (s.core c).reasm :=
  reasm_of_oneTask (oneTask_finish (OneTask.refl s) n) c

theorem l1_finish (s : State) (n c : Nat) : ((s.finish n).core c).l1 = (s.core c).l1 :=
  (congrArg Core.l1 ((oneTask_finish (OneTask.refl s) n).cores c) :)

theorem l1_modCur (s : State) (f : Task → Task) (c : Nat) : ((s.modCur f).core c).l1 = (s.core c).l1 :=
  (congrArg Core.l1 (((OneTask.refl s).modCur f).cores c) :)

/-- The requests after one has been sent: it stands under the number that comes next. -/
theorem reqs_request (s : State) (t : Task) (va pa : Nat) (l : Leaf) (sc : Scope) (rd : Nat) (k : ReqKind) :
    (s.request t va pa l sc rd k).reqs = mset s.nextId (s.reqOf t va pa l sc rd k .sent) s.reqs := by
  unfold State.request
  dsimp only
  split <;> rfl

/-- The reassembly entries after a request whose answer takes two flits (R411). -/
theorem reasm_request {k : ReqKind} (hk : 1 < k.answerFlits.2) (s : State) (t : Task) (va pa : Nat) (l : Leaf) (sc : Scope) (rd : Nat) :
    ((s.request t va pa l sc rd k).core s.cur.core.val).reasm
      = mset (lowestFree s.curCore.reasm) (s.nextId, lineOf pa) s.curCore.reasm := by
  have hlong : (s.reqOf t va pa l sc rd k .sent).long = true := decide_eq_true hk
  unfold State.request
  dsimp only
  rw [if_pos hlong]
  have htaken : ((s.takeEntry s.cur.core.val s.nextId (lineOf pa)).core s.cur.core.val).reasm
      = mset (lowestFree s.curCore.reasm) (s.nextId, lineOf pa) s.curCore.reasm := congrArg Core.reasm (core_modCore_same ..)
  exact htaken

/-- A request of the issuing stream noted as sent or held, in a state that has the numbers and requests of `s`. -/
theorem sent_of_reqs {s s1 s' : State} {t : Task} {va pa : Nat} {l : Leaf} {sc : Scope} {rd : Nat} {k : ReqKind} {stage : ReqStage}
    (hcur : s1.cur = s.cur) (h : s'.reqs = mset s.nextId (s1.reqOf t va pa l sc rd k stage) s.reqs) :
    Sent s s' t l pa sc k stage := by
  refine ⟨⟨s1.reqOf t va pa l sc rd k stage, ?_, rfl, rfl, rfl, rfl, rfl, rfl, hcur, rfl⟩, fun j hj => ?_⟩
  · rw [h, mfind_mset_same]
  · rw [h, mfind_mset_other hj]

theorem pend_modSt (t : Task) (k : Stream) (f : StreamCtx → StreamCtx) : (t.modSt k f).pend = t.pend := rfl

theorem pend_reserve (t : Task) (p : SPend) : (t.reserve p).pend = (t.shiftQ 0).pend ++ [{ p with qpos := some 0 }] := rfl

theorem tags_shiftQ (t : Task) (v : Word64) : (t.shiftQ v).pend.map SPend.tag = t.pend.map SPend.tag := by
  simp only [Task.shiftQ, List.map_map]
  rfl

/-- The issuing task with a reserved entry that waits for memory, moved on. -/
theorem reserved_of_made {s s' : State} {t : Task} {d : SDst} {va : Nat} {acq : Bool} {len : Nat}
    (h : Made s s' ((t.reserve (entry s.nextId d (t.st .s).pc va acq .waiting)).modSt .s (fun x => x.advance len))) :
    Reserved s s' t d acq len := by
  unfold Reserved
  refine ⟨⟨_, entry s.nextId d (t.st .s).pc va acq .waiting, h.task, ?_, ?_, ?_, ?_, rfl, rfl, rfl, rfl, rfl, rfl,
    ?_, ?_⟩, h.others⟩
  · rfl
  · rfl
  · exact st_modSt_same ..
  · rw [pend_modSt, pend_reserve, List.getLast?_concat]
    rfl
  · rw [pend_modSt, pend_reserve, List.map_append, tags_shiftQ]
    rfl
  · rfl

/-- An access whose result comes later: reserved and asked for. -/
def askedFor (s : State) (t : Task) (d : SDst) (va pa : Nat) (acq : Bool) (l : Leaf) (sc : Scope) (rd : Nat) (k : ReqKind) : State :=
  (s.pendResult d va acq .waiting).request t va pa l sc rd k

theorem reserved_askedFor {s : State} {t : Task} (ht : s.curTask = some t) (hs : s.cur.stream = .s) (d : SDst) (va pa : Nat)
    (acq : Bool) (l : Leaf) (sc : Scope) (rd : Nat) (k : ReqKind) (len : Nat) :
    Reserved s ((askedFor s t d va pa acq l sc rd k).finish len) t d acq len
      ∧ Sent s ((askedFor s t d va pa acq l sc rd k).finish len) t l pa sc k
      ∧ SameBytes s ((askedFor s t d va pa acq l sc rd k).finish len) := by
  have hmade : Made s (askedFor s t d va pa acq l sc rd k) _ :=
    ((Made.start ht).pendResult d va acq .waiting).traffic (onlyTraffic_request _ t va pa l sc rd k)
  rw [curSt_eq ht, hs] at hmade
  have hid : (s.pendResult d va acq .waiting).nextId = s.nextId := modCur_nextId ..
  have hreqs : (s.pendResult d va acq .waiting).reqs = s.reqs := modCur_reqs ..
  refine ⟨reserved_of_made (hmade.finish hs len), ?_, (hmade.finish hs len).bytes⟩
  refine sent_of_reqs (s1 := s.pendResult d va acq .waiting) (rd := rd) (va := va) (modCur_cur ..) ?_
  rw [reqs_finish, askedFor, reqs_request, hid, hreqs]

end Sys2Proof.AccessEnds
end

section
/-!
PROOFS. LD and LDACQ (spec/04 R107, R110, R111, spec/16 R332, R335, R345): a load whose line the core has takes its bytes, any other one
reserves its result and asks the home.
-/

namespace Sys2Proof.Loads
open Sys2Proof Sys2Proof.Machine Sys2Proof.Laws Sys2Proof.Claim Sys2Proof.Traffic Sys2Proof.VectorIssue Sys2Proof.LineBytes
  Sys2Proof.CoreLines Sys2Proof.AccessChecks Sys2Proof.AccessEnds

/-- The acquire of a load that has one (R115, R345). -/
def acquired (s : State) (t : Task) (acq : Bool) (w : Word32) : State :=
  if acq then s.acquireAt s.cur.core.val t .dev w else s

theorem onlyTraffic_acquired (s : State) (t : Task) (acq : Bool) (w : Word32) : OnlyTraffic s (acquired s t acq w) :=
  onlyTraffic_ite (onlyTraffic_acquireAt ..) (OnlyTraffic.refl s)

/-- A DEV access that may go finds nothing to write back. -/
theorem devReady_state {s : State} {t : Task} (h : (s.devReady t).2 = true) : (s.devReady t).1 = s := by
  unfold State.devReady State.devReadyAt at h ⊢
  dsimp only at h ⊢
  split at h
  · cases h
  · next hd => rw [if_neg hd]

section
variable {s : State} {t : Task} {d : SDst} {va : Word64} {n : Nat} {sx acq : Bool} {rd : Nat} {l : Leaf} {pa : Nat}
  (hr : Reaches s t va n .read l pa) (hfree : Unheld s t true pa) (hp : t.canPend = true)
include hr hfree hp

theorem loadAt_cached (hc : Cached l) (hit : InCaches s l pa) :
    let r := s.fetchPriv s.cur.core.val t.pav l.key (lineOf pa) rd true
    let s2 := r.1.lineResult r.2 d va.toNat pa n sx (hitLat s l.key pa 4)
    loadAt t d va n sx acq rd s = (acquired s2 t acq s2.curCore.ltime).finish 2 := by
  obtain ⟨-, -, hva, -, hx⟩ := hr
  obtain ⟨hheld, hbusy⟩ := hfree
  unfold InCaches at hit
  rw [loadAt, withAccess_ok hva hx]
  rcases hc with hc | hc <;> simp [hheld, hbusy, hp, hc, hit, acquired]

theorem loadAt_coh {x : CLine} (hc : l.cls = .coh) (hx : cohCopy s l.key pa = some x) :
    let s1 := (s.modCur (fun t => t.sawTime x.wts)).putL1 s.cur.core.val x false
    let s2 := s1.lineResult x d va.toNat pa n sx (some 4)
    loadAt t d va n sx acq rd s = (acquired s2 t acq x.wts).finish 2 := by
  obtain ⟨-, -, hva, -, hpage⟩ := hr
  obtain ⟨hheld, hbusy⟩ := hfree
  rw [loadAt, withAccess_ok hva hpage]
  simp [hheld, hbusy, hp, hc, hx, acquired]

theorem loadAt_asks (ha : Asks s t l pa) (hcoh : l.cls = .coh → cohCopy s l.key pa = none)
    (hroom : reasmFree s s.cur.core.val = true) :
    loadAt t d va n sx acq rd s = (askedFor s t d va.toNat pa acq l .dev rd (.load n sx acq)).finish 2 := by
  obtain ⟨-, -, hva, -, hx⟩ := hr
  obtain ⟨hheld, hbusy⟩ := hfree
  rw [loadAt, withAccess_ok hva hx]
  rcases ha with ⟨hc, hmiss⟩ | hc | ⟨hc, hidle, hdev⟩
  · unfold InCaches at hmiss
    rcases hc with hc | hc <;> simp [hheld, hbusy, hp, hc, hmiss, hroom, askedFor]
  · simp [hheld, hbusy, hp, hc, hcoh hc, hroom, askedFor]
  · simp [hheld, hbusy, hp, hc, hidle, hdev, devReady_state hdev, hroom, askedFor]

end

/-- The requested result leaves every other reassembly entry; a load's answer takes the lowest free one (R411). -/
theorem reasm_askedFor {k : ReqKind} (hk : 1 < k.answerFlits.2) (s : State) (t : Task) (d : SDst) (va pa : Nat) (acq : Bool) (l : Leaf)
    (sc : Scope) (rd len : Nat) :
    (((askedFor s t d va pa acq l sc rd k).finish len).core s.cur.core.val).reasm
      = mset (lowestFree s.curCore.reasm) (s.nextId, lineOf pa) s.curCore.reasm := by
  have hcur : (s.pendResult d va acq .waiting).cur = s.cur := modCur_cur ..
  have hid : (s.pendResult d va acq .waiting).nextId = s.nextId := modCur_nextId ..
  have hreasm : (s.pendResult d va acq .waiting).curCore.reasm = s.curCore.reasm := by
    unfold State.curCore
    rw [hcur]
    exact VectorLoads.reasm_of_oneTask ((OneTask.refl s).modCur _) s.cur.core.val
  have h := reasm_request hk (s.pendResult d va acq .waiting) t va pa l sc rd
  rw [hcur, hid, hreasm] at h
  rw [reasm_finish]
  exact h

/-- Settles O14: the three kinds of line, a result by `gotResult_hit`, a request by `reserved_askedFor`. -/
theorem loadsComplete : Obligations.LoadsComplete := by
  unfold Obligations.LoadsComplete
  intro s t o acq l pa ⟨ht, hb, hd, hp⟩ n i value hr hfree
  have hs : s.cur.stream = .s := hr.2.1
  have hexec : exec i s = _ := exec_load ht acq o (by rw [hb, hd]; rfl)
  refine ⟨fun hc hit hpoison => ?_, fun x hc hx hpoison => ?_, fun ha hcoh hroom => ?_⟩
  · obtain ⟨-, -, -, hdata, hpois⟩ := fetchPriv_line s s.cur.core.val t.pav l.key (lineOf pa) o.rd.val true
    rw [loadAt_cached hr hfree hp hc hit, State.lineResult, loadValue_slice, hdata, hpois.trans hpoison] at hexec
    have hmade : Made s (s.fetchPriv s.cur.core.val t.pav l.key (lineOf pa) o.rd.val true).1 { t with rdts := t.rdts } :=
      (Made.start ht).traffic (onlyTraffic_fetchPriv ..)
    exact ⟨_, hexec, gotResult_hit hmade hs (quiet_fetchPriv ..).nextId (onlyTraffic_acquired ..) 2⟩
  · rw [loadAt_coh hr hfree hp hc hx, State.lineResult, loadValue_slice, hpoison] at hexec
    have hmade : Made s ((s.modCur (fun t => t.sawTime x.wts)).putL1 s.cur.core.val x false) { t with rdts := tmax x.wts t.rdts } :=
      ((Made.start ht).modCur (fun t => t.sawTime x.wts)).traffic (onlyTraffic_putL1 ..)
    have hid := (quiet_putL1 (s.modCur (fun t => t.sawTime x.wts)) s.cur.core.val x false).nextId
    rw [modCur_nextId] at hid
    exact ⟨_, hexec, gotResult_hit hmade hs hid (onlyTraffic_acquired ..) 2⟩
  · rw [loadAt_asks hr hfree hp ha hcoh hroom] at hexec
    obtain ⟨hres, hsent, hbytes⟩ := reserved_askedFor ht hs o.d (smEa (t.src o.base) o.off n).toNat pa acq l .dev o.rd.val
      (.load n o.sx acq) 2
    exact ⟨_, hexec, hres, hsent, hbytes, reasm_askedFor (k := .load n o.sx acq) Nat.one_lt_two ..⟩

end Sys2Proof.Loads
end

section
/-!
PROOFS. ST and STREL (spec/04 R108, R111, spec/16 R334, R339, R412): the bytes in the line of the issuing core, or a request with them.
-/

namespace Sys2Proof.Stores
open Sys2Proof Sys2Proof.Machine Sys2Proof.Laws Sys2Proof.Claim Sys2Proof.Traffic Sys2Proof.VectorIssue Sys2Proof.LineBytes
  Sys2Proof.CoreLines Sys2Proof.AccessChecks Sys2Proof.AccessEnds

/-! ## The release actions before an access (R334) -/

theorem onlyTraffic_released (s : State) (t : Task) (sc : Option Scope) : OnlyTraffic s (released s t sc) := by
  cases sc with
  | none => exact OnlyTraffic.refl s
  | some sc => exact onlyTraffic_releaseAt ..

theorem quiet_released (s : State) (t : Task) (sc : Option Scope) : Quiet s (released s t sc) := by
  cases sc with
  | none => exact Quiet.refl s
  | some sc => exact quiet_releaseAt ..

@[simp] theorem released_cur (s : State) (t : Task) (sc : Option Scope) : (released s t sc).cur = s.cur := (onlyTraffic_released s t sc).cur

theorem release_of_store (s : State) (t : Task) (rel : Bool) :
    (if rel then s.releaseAt s.cur.core.val t .dev else s) = released s t (if rel then some .dev else none) := by
  cases rel <;> rfl

/-- The release actions change no request, so the stream finds the same ones at a line. -/
theorem ownLine_released (s : State) (t : Task) (sc : Option Scope) (pa : Nat) :
    ownLine (released s t sc) t pa = ownLine s t pa := by
  unfold ownLine
  rw [(quiet_released s t sc).reqs, released_cur]

theorem lineHere_released (s : State) (t : Task) (sc : Option Scope) (l : Leaf) (pa : Nat) :
    lineHere (released s t sc) t l pa = foundLine (released s t sc) s.cur.core.val t.pav l.key (lineOf pa) :=
  released_cur s t sc ▸ rfl

/-! ## The access -/

/-- An aligned access lies in one line. -/
theorem span_in_line {n pa : Nat} (hn : n ∣ 128) (hpa : pa % n = 0) : pa % 128 + n ≤ 128 := by
  have hoff : n ∣ pa % 128 := (Nat.dvd_mod_iff hn).2 (Nat.dvd_of_mod_eq_zero hpa)
  obtain ⟨k, hk⟩ := hn
  obtain ⟨j, hj⟩ := hoff
  have hlt : pa % 128 < 128 := Nat.mod_lt _ (by decide)
  have hjk : j + 1 ≤ k := Nat.lt_of_mul_lt_mul_left (a := n) (by rw [← hj, ← hk]; exact hlt)
  calc pa % 128 + n = n * (j + 1) := by rw [hj, Nat.mul_succ]
    _ ≤ n * k := Nat.mul_le_mul_left n hjk
    _ = 128 := hk.symm

theorem bytes_dvd (z : Size) : z.bytes ∣ 128 := by cases z <;> decide

/-- A DEV access may go: nothing is outstanding, and no line is to be written back (R335). -/
def DevFree (s : State) (t : Task) (l : Leaf) : Prop := l.cls = .dev → sReqs s t = [] ∧ (s.devReady t).2 = true

theorem devFree_of_ne {s : State} {t : Task} {l : Leaf} (h : l.cls ≠ .dev) : DevFree s t l := fun hd => absurd hd h

theorem devFree_of_away {s : State} {t : Task} {l : Leaf} {p : Prop}
    (h : (l.cls = .priv ∧ p) ∨ l.cls = .coh ∨ (l.cls = .dev ∧ sReqs s t = [] ∧ (s.devReady t).2 = true)) : DevFree s t l := by
  rcases h with ⟨hc, -⟩ | hc | ⟨-, hidle⟩
  · exact devFree_of_ne (by rw [hc]; decide)
  · exact devFree_of_ne (by rw [hc]; decide)
  · exact fun _ => hidle

/-- The two conditions under which a DEV access would wait do not hold. -/
theorem DevFree.waits_not {s : State} {t : Task} {l : Leaf} (h : DevFree s t l) :
    (decide (l.cls = .dev) && !(sReqs s t).isEmpty) = false ∧ (decide (l.cls = .dev) && !(s.devReady t).2) = false := by
  by_cases hc : l.cls = .dev
  · obtain ⟨hidle, hready⟩ := h hc
    simp [hidle, hready]
  · simp [hc]

/-- An access that asks memory for its line is no hit in the core's caches. -/
theorem not_hit_of_away {s : State} {l : Leaf} {pa : Nat} (h : (l.cls = .priv ∧ ¬ InCaches s l pa) ∨ l.cls = .coh ∨ l.cls = .dev) :
    ((l.cls = .priv || l.cls = .rshr) && privHit s s.cur.core.val l.key (lineOf pa)) = false := by
  rcases h with ⟨hc, hmiss⟩ | hc | hc
  · rw [hc]; exact Bool.not_eq_true _ ▸ hmiss
  · rw [hc]; rfl
  · rw [hc]; rfl

/-- A number of n bytes written into a core's line. -/
def wroteLine (s : State) (c : Nat) (t : Task) (v n rd : Nat) (l : Leaf) (pa : Nat) : State :=
  s.writePriv (t.eff.orig c) c t.pav l.key (lineOf pa) rd (spanMask (pa % 128) n) (spanData (pa % 128) (bytesOf n v))

/-- A request to write the bytes of a source. -/
def storeKind (v : Word64) (n pa : Nat) (rel : Bool) : ReqKind :=
  .store (spanMask (pa % 128) n) (spanData (pa % 128) (bytesOf n v.toNat)) rel

/-- What a store does after its release actions: of a line in the caches it writes the line, of any other it makes a request. -/
def stored (s : State) (t : Task) (v va : Word64) (n rd : Nat) (rel : Bool) (l : Leaf) (pa : Nat) : State :=
  if ((l.cls = .priv || l.cls = .rshr) && privHit s s.cur.core.val l.key (lineOf pa)) = true then
    wroteLine s s.cur.core.val t v.toNat n rd l pa
  else s.requestStore t va.toNat pa l rd (storeKind v n pa rel)

section
variable {s : State} {t : Task} {v va : Word64} {n rd : Nat} {rel : Bool} {l : Leaf} {pa : Nat}
  (hr : Reaches s t va n .store l pa) (hfree : heldBack s t false = false) (hbusy : storeBusy s t l.cls pa = false)
  (hloads : (sReqs s t).any Req.loads = false) (hrel : rel = true → releaseReady s t .dev = true) (hdev : DevFree s t l)

include hr hfree hbusy hloads hrel hdev in
/-- A store that nothing holds, after its release actions. -/
theorem storeAt_free :
    storeAt t v va n rel rd s = (stored (released s t (if rel then some .dev else none)) t v va n rd rel l pa).finish 2 := by
  obtain ⟨-, -, hva, -, hx⟩ := hr
  have hrel' : (rel && !releaseReady s t .dev) = false := by
    cases rel with
    | false => rfl
    | true => rw [hrel rfl]; rfl
  obtain ⟨hout, hready⟩ := hdev.waits_not
  rw [storeAt, withAccess_ok hva hx, hfree, hbusy, hloads, hrel', hout, hready]
  dsimp only
  rw [release_of_store]
  unfold stored
  exact (apply_ite (fun x : State => x.finish 2) _ _ _).symm

end

/-! ## What the access leaves -/

theorem stored_here {s : State} {l : Leaf} {pa : Nat} (hc : l.cls = .priv) (hit : InCaches s l pa) (t : Task) (v va : Word64) (n rd : Nat)
    (rel : Bool) : stored s t v va n rd rel l pa = wroteLine s s.cur.core.val t v.toNat n rd l pa :=
  if_pos (by rw [hc]; exact hit)

theorem stored_away {s : State} {l : Leaf} {pa : Nat} (h : (l.cls = .priv ∧ ¬ InCaches s l pa) ∨ l.cls = .coh ∨ l.cls = .dev) (t : Task)
    (v va : Word64) (n rd : Nat) (rel : Bool) :
    stored s t v va n rd rel l pa = s.requestStore t va.toNat pa l rd (storeKind v n pa rel) := by
  rw [stored, not_hit_of_away h]
  rfl

theorem onlyTraffic_stored (s : State) (t : Task) (v va : Word64) (n rd : Nat) (rel : Bool) (l : Leaf) (pa : Nat) :
    OnlyTraffic s (stored s t v va n rd rel l pa) :=
  onlyTraffic_ite (onlyTraffic_writePriv ..) (onlyTraffic_requestStore ..)

/-- The line that the core finds after a store, byte by byte, and the bytes of it that are dirty. -/
theorem lineFind_wroteLine (s : State) (t : Task) (v : Word64) {n pa : Nat} (hspan : pa % 128 + n ≤ 128) (rd : Nat) (l : Leaf) :
    ∃ x, lineFind ((wroteLine s s.cur.core.val t v.toNat n rd l pa).core s.cur.core.val).l1 l.key (lineOf pa) false = some x
      ∧ (∀ j, j < 128 → x.data.getD j 0 = if pa % 128 ≤ j ∧ j < pa % 128 + n then (bytesOf n v.toNat).getD (j - pa % 128) 0
          else (lineHere s t l pa).data.getD j 0)
      ∧ ∀ j, pa % 128 ≤ j → j < pa % 128 + n → x.dirty.getLsbD j = true := by
  obtain ⟨x, dirty, hx, hdata, hdirty⟩ := lineFind_writePriv s (t.eff.orig s.cur.core.val) s.cur.core.val t.pav l.key (lineOf pa) rd
    (spanMask (pa % 128) n) (spanData (pa % 128) (bytesOf n v.toNat))
  refine ⟨x, hx, fun j hj => ?_, fun j h1 h2 => ?_⟩
  · rw [hdata, getD_written (length_bytesOf ..) _ hj]
    rfl
  · rw [hdirty, BitVec.getLsbD_or, getLsbD_spanMask (h2.trans_le hspan), decide_eq_true ⟨h1, h2⟩, Bool.or_true]

theorem movedOn_of_made {s s' : State} {t : Task} {len : Nat} (h : Made s s' (t.modSt .s (fun x => x.advance len))) :
    MovedOn s s' t len :=
  ⟨⟨_, h.task, st_modSt_same .., rfl⟩, h.others⟩

/-- A store is noted as sent, or as held behind earlier accesses of its stream to a COH line (R412). -/
theorem reqs_requestStore (s : State) (t : Task) (va pa : Nat) (l : Leaf) (rd : Nat) (k : ReqKind) :
    (s.requestStore t va pa l rd k).reqs = mset s.nextId
      (s.reqOf t va pa l .dev rd k (if l.cls = .coh ∧ ownLine s t pa = true then .held else .sent)) s.reqs := by
  unfold State.requestStore
  by_cases h : l.cls = .coh ∧ ownLine s t pa = true
  · rw [if_pos h, if_pos (by simpa using h)]
  · rw [if_neg h, if_neg (by simpa using h), reqs_request]

/-- Settles O15: `storeAt_free` with the line of `lineFind_wroteLine` or with the request of `reqs_requestStore`. -/
theorem storesComplete : Obligations.StoresComplete := by
  unfold Obligations.StoresComplete
  intro s t o rel l pa hready n i off bs s0 hr hfree hbusy hloads hrel
  obtain ⟨ht, hs, -, hpa, -⟩ := id hr
  have hcur : s0.cur = s.cur := released_cur ..
  have hexec : exec i s = _ := exec_store ht rel o hready
  have hdone : Made s ((stored s0 t (t.src o.src) (smEa (t.src o.base) o.off n) n o.rd.val rel l pa).finish 2) _ :=
    (((Made.start ht).traffic (onlyTraffic_released ..)).traffic (onlyTraffic_stored ..)).finish hs 2
  refine ⟨fun hc hit => ?_, fun ha => ?_⟩
  · rw [storeAt_free hr hfree hbusy hloads hrel (devFree_of_ne (by rw [hc]; decide))] at hexec
    obtain ⟨x, hx, hdata, hdirty⟩ := lineFind_wroteLine s0 t (t.src o.src) (span_in_line (bytes_dvd o.size) hpa) o.rd.val l
    rw [← stored_here hc hit t _ (smEa (t.src o.base) o.off n) n o.rd.val rel, ← l1_finish _ 2, hcur] at hx
    exact ⟨_, x, hexec, movedOn_of_made hdone, hx, hdata, hdirty, hdone.bytes⟩
  · rw [storeAt_free hr hfree hbusy hloads hrel (devFree_of_away ha)] at hexec
    have hreqs := reqs_requestStore s0 t (smEa (t.src o.base) o.off n).toNat pa l o.rd.val (storeKind (t.src o.src) n pa rel)
    rw [ownLine_released, ← stored_away (ha.imp id (Or.imp id And.left)), ← reqs_finish _ 2] at hreqs
    exact ⟨_, spanMask off n, spanData off bs, hexec, movedOn_of_made hdone, sent_of_reqs rfl hreqs, fun j hj => getLsbD_spanMask hj,
      fun j h1 h2 => getD_spanData h1 ((length_bytesOf ..).symm ▸ h2), hdone.bytes⟩

end Sys2Proof.Stores
end

section
/-!
PROOFS. AMOs and CAS (spec/04 R113 to R116, spec/16 R334): the old value out of the core's line and the new one in it, or a request that
the home answers.
-/

namespace Sys2Proof.Atomics
open Sys2Proof Sys2Proof.Machine Sys2Proof.Laws Sys2Proof.Claim Sys2Proof.Traffic Sys2Proof.VectorIssue Sys2Proof.LineBytes
  Sys2Proof.CoreLines Sys2Proof.AccessChecks Sys2Proof.AccessEnds Sys2Proof.Stores

/-! ## The values (R113) -/

theorem atomBytes_eq (o : AmoF) : o.dword = true ∧ atomBytes o = 8 ∨ o.dword = false ∧ atomBytes o = 4 := by
  unfold atomBytes
  cases o.dword <;> simp

theorem atomBytes_pos (o : AmoF) : 0 < atomBytes o := by
  rcases atomBytes_eq o with ⟨-, h⟩ | ⟨-, h⟩ <;> rw [h] <;> decide

theorem atomBytes_dvd (o : AmoF) : atomBytes o ∣ 128 := by
  rcases atomBytes_eq o with ⟨-, h⟩ | ⟨-, h⟩ <;> rw [h] <;> decide

/-- The old value as an atomic returns it: a word sign-extended, a dword as it is. -/
theorem oldValue_eq_extended (o : AmoF) {old : Nat} (h : old < 2 ^ (8 * atomBytes o)) :
    oldValue (atomBytes o) old = extended (!o.dword) (atomBytes o) old := by
  have hform : decide (atomBytes o = 4) = !o.dword := by
    rcases atomBytes_eq o with ⟨hd, hn⟩ | ⟨hd, hn⟩ <;> rw [hd, hn] <;> rfl
  have hval := loadValue_eq_extended (!o.dword) (bytesOf (atomBytes o) old)
  rw [length_bytesOf, natOf_bytesOf h] at hval
  rw [oldValue, hform, hval]

theorem two_mul_lt_iff {n x : Nat} (hn : 0 < n) : 2 * (x : Int) < 2 ^ (8 * n) ↔ x < 2 ^ (8 * n - 1) := by
  have hpow : (2 : Nat) ^ (8 * n) = 2 * 2 ^ (8 * n - 1) := by rw [← pow_succ', Nat.sub_add_cancel (by omega)]
  have hcast : (2 : Int) ^ (8 * n) = ((2 ^ (8 * n) : Nat) : Int) := by norm_cast
  rw [hcast, hpow]
  omega

/-- The signed value of n bytes as R113 writes it. -/
theorem sext_eq_signed {n x : Nat} (hn : 0 < n) (h : x < 2 ^ (8 * n)) :
    sext x (8 * n) = if 2 * (x : Int) < 2 ^ (8 * n) then (x : Int) else (x : Int) - 2 ^ (8 * n) := by
  rw [sext_of_lt h]
  exact if_congr (two_mul_lt_iff hn).symm rfl rfl

theorem amoNew_eq_amoResult (op : AmoOp) {n old v : Nat} (hn : 0 < n) (ho : old < 2 ^ (8 * n)) (hv : v < 2 ^ (8 * n)) :
    amoNew op n old v = amoResult op n old v := by
  unfold amoNew amoResult
  cases op
  case min | max => dsimp only; rw [sext_eq_signed hn ho, sext_eq_signed hn hv]
  case minu => exact (min_def_lt v old).symm
  case maxu => exact ((max_comm v old).trans (max_def_lt old v)).symm
  all_goals rfl

theorem amoResult_lt (op : AmoOp) {n old v : Nat} (ho : old < 2 ^ (8 * n)) (hv : v < 2 ^ (8 * n)) : amoResult op n old v < 2 ^ (8 * n) := by
  unfold amoResult
  cases op
  case add => exact Nat.mod_lt _ (Nat.two_pow_pos _)
  case and => exact (Nat.and_le_left).trans_lt ho
  case or => exact Nat.or_lt_two_pow ho hv
  case xor => exact Nat.xor_lt_two_pow ho hv
  case min | max => exact iteInduction (motive := (· < 2 ^ (8 * n))) (fun _ => hv) fun _ => ho
  case minu => exact (min_le_left ..).trans_lt hv
  case maxu => exact max_lt hv ho
  case swap => exact hv

/-! ## The access -/

/-- The core's line after an atomic has found it: with the new value, if there is one. -/
def overwritten (s : State) (c : Nat) (t : Task) (n : Nat) (l : Leaf) (pa : Nat) : Option Nat → State
  | some v => wroteLine s c t v n 0 l pa
  | none => s

/-- An atomic of a line in the core's caches, before the task moves on: the new value written, the old one in flight, the acquire. -/
def atomHere (s : State) (c : Nat) (t : Task) (d : SDst) (va n : Nat) (sc : Scope) (l : Leaf) (pa old : Nat) (new : Option Nat) : State :=
  let s1 := overwritten (s.fetchPriv c t.pav l.key (lineOf pa) 0 false).1 c t n l pa new
  let s2 := s1.hitResult d va (oldValue n old) false (hitLat s l.key pa 6)
  s2.acquireAt c t sc s2.curCore.ltime

section
variable {s : State} {t : Task} {d : SDst} {va : Word64} {n : Nat} {sc : Scope} {f : Nat → Option Nat} {k : ReqKind} {len : Nat} {l : Leaf}
  {pa : Nat} (hr : Reaches s t va n .store l pa) (hfree : AtomicFree s t sc pa) (hp : t.canPend = true)
include hr hfree hp

theorem atomicAt_here (hc : l.cls = .priv) (hit : InCaches (released s t (some sc)) l pa)
    (hpoison : (lineHere (released s t (some sc)) t l pa).poison = false) :
    let old := field (lineHere (released s t (some sc)) t l pa).data (pa % 128) n
    atomicAt t d va n sc f k len s
      = (atomHere (released s t (some sc)) s.cur.core.val t d va.toNat n sc l pa old (f old)).finish len := by
  obtain ⟨-, -, hva, -, hx⟩ := hr
  obtain ⟨⟨hheld, hbusy⟩, hheld', hloads, hready⟩ := hfree
  have hhit : ((l.cls = .priv || l.cls = .rshr) && privHit (s.releaseAt s.cur.core.val t sc) s.cur.core.val l.key (lineOf pa)) = true := by
    unfold InCaches at hit
    rw [released_cur] at hit
    rw [hc]
    exact hit
  obtain ⟨hout, hdev⟩ := (devFree_of_ne (s := s) (t := t) (l := l) (by rw [hc]; decide)).waits_not
  rw [lineHere_released] at hpoison ⊢
  obtain ⟨-, -, -, hdata, hpois⟩ := fetchPriv_line (released s t (some sc)) s.cur.core.val t.pav l.key (lineOf pa) 0 false
  rw [← hdata]
  rw [← hpois] at hpoison
  rw [atomicAt, withAccess_ok hva hx, hheld, hbusy, hheld', hloads, hready, hout, hdev, hp]
  dsimp only
  rw [if_neg (by decide), if_neg (by decide), if_neg (by rw [hhit]; decide)]
  rw [show ((s.releaseAt s.cur.core.val t sc).fetchPriv s.cur.core.val t.pav l.key (lineOf pa) 0 false).2.poison = false from hpoison]
  rfl

theorem atomicAt_away (ha : (l.cls = .priv ∧ ¬ InCaches (released s t (some sc)) l pa) ∨ l.cls = .coh
      ∨ (l.cls = .dev ∧ sReqs s t = [] ∧ (s.devReady t).2 = true)) :
    atomicAt t d va n sc f k len s = (askedFor (released s t (some sc)) t d va.toNat pa true l sc 0 k).finish len := by
  obtain ⟨-, -, hva, -, hx⟩ := hr
  obtain ⟨⟨hheld, hbusy⟩, hheld', hloads, hready⟩ := hfree
  have hmiss := not_hit_of_away (ha.imp id (Or.imp id And.left))
  rw [released_cur] at hmiss
  obtain ⟨hout, hdev⟩ := (devFree_of_away ha).waits_not
  rw [atomicAt, withAccess_ok hva hx, hheld, hbusy, hheld', hloads, hready, hout, hdev, hp]
  dsimp only
  rw [if_neg (by decide), if_neg (by decide)]
  refine if_pos ?_
  exact congrArg not hmiss

end

/-! ## What the access leaves -/

section
variable {s : State} {c : Nat} {t : Task} {d : SDst} {va n : Nat} {sc : Scope} {l : Leaf} {pa old : Nat}

theorem onlyTraffic_overwritten (s : State) (c : Nat) (t : Task) (n : Nat) (l : Leaf) (pa : Nat) (new : Option Nat) :
    OnlyTraffic s (overwritten s c t n l pa new) := by
  cases new with
  | none => exact OnlyTraffic.refl s
  | some v => exact onlyTraffic_writePriv ..

theorem quiet_overwritten (s : State) (c : Nat) (t : Task) (n : Nat) (l : Leaf) (pa : Nat) (new : Option Nat) :
    Quiet s (overwritten s c t n l pa new) := by
  cases new with
  | none => exact Quiet.refl s
  | some v => exact quiet_writePriv ..

theorem l1_hitResult (s : State) (d : SDst) (va : Nat) (v : Word64) (lat : Option Nat) (c : Nat) :
    ((s.hitResult d va v false lat).core c).l1 = (s.core c).l1 := by
  cases lat with
  | none => exact l1_modCur ..
  | some n => exact l1_modCur ..

/-- The old value is in flight, out of the L1 or of the DLC (R92, R113). -/
theorem gotResult_atomHere {s0 : State} (h : Made s s0 t) (hs : s.cur.stream = .s) (hn : s.nextId ≤ s0.nextId) (new : Option Nat)
    (len : Nat) :
    GotResult s ((atomHere s0 c t d va n sc l pa old new).finish len) t d (oldValue n old) (hitLat s0 l.key pa 6) len := by
  have hmade : Made s (overwritten (s0.fetchPriv c t.pav l.key (lineOf pa) 0 false).1 c t n l pa new) { t with rdts := t.rdts } :=
    (h.traffic (onlyTraffic_fetchPriv ..)).traffic (onlyTraffic_overwritten ..)
  have hid := ((quiet_fetchPriv s0 c t.pav l.key (lineOf pa) 0 false).trans (quiet_overwritten _ c t n l pa new)).nextId
  exact (gotResult_hit hmade hs (hn.trans hid) (onlyTraffic_acquireAt ..) len).1

/-- The new value stands in the core's line, and outlives the acquire there, for it is dirty (R334). -/
theorem line_of_atomHere_some (s : State) {new : Nat} (hspan : pa % 128 + n ≤ 128) (hn : 0 < n) (hnew : new < 2 ^ (8 * n)) (len : Nat) :
    ∃ x, lineFind (((atomHere s c t d va n sc l pa old (some new)).finish len).core c).l1 l.key (lineOf pa) false = some x
      ∧ field x.data (pa % 128) n = new := by
  obtain ⟨x, dirty, hx, hdata, hdirty⟩ := lineFind_writePriv (s.fetchPriv c t.pav l.key (lineOf pa) 0 false).1 (t.eff.orig c) c t.pav
    l.key (lineOf pa) 0 (spanMask (pa % 128) n) (spanData (pa % 128) (bytesOf n new))
  have hd : x.dirty ≠ 0 := fun h => spanMask_ne_zero (by omega) hn (BitVec.or_eq_zero_iff.1 (hdirty.symm.trans h)).2
  refine ⟨x, ?_, by rw [hdata, field_written hspan hnew]⟩
  rw [l1_finish]
  exact lineFind_acquireAt (by rw [l1_hitResult]; exact hx) hd ..

/-- An atomic that writes nothing leaves the old value in the line, which an acquire at task or core scope keeps. -/
theorem line_of_atomHere_none (s : State) (hsc : scopeNum sc < 2) (len : Nat) :
    ∃ x, lineFind (((atomHere s c t d va n sc l pa old none).finish len).core c).l1 l.key (lineOf pa) false = some x
      ∧ x.data = (foundLine s c t.pav l.key (lineOf pa)).data := by
  obtain ⟨-, -, -, hdata, -⟩ := fetchPriv_line s c t.pav l.key (lineOf pa) 0 false
  refine ⟨_, ?_, hdata⟩
  rw [l1_finish, atomHere, acquireAt_core hsc, l1_hitResult]
  exact lineFind_fetchPriv ..

end

section
variable {s : State} {t : Task} {o : AmoF} {l : Leaf} {pa : Nat} {i : Instr} {f : Nat → Option Nat} {k : ReqKind} {len : Nat}
  (hexec : exec i s = .next (atomicAt t o.d (t.src o.addr) (atomBytes o) o.scope f k len s))
  (hr : Reaches s t (t.src o.addr) (atomBytes o) .store l pa) (hfree : AtomicFree s t o.scope pa) (hp : t.canPend = true)
include hexec hr hfree hp

theorem atomic_here (hc : l.cls = .priv) (hit : InCaches (released s t (some o.scope)) l pa)
    (hpoison : (lineHere (released s t (some o.scope)) t l pa).poison = false) (new : Option Nat)
    (hnew : ∀ w, new = some w →
      let old := field (lineHere (released s t (some o.scope)) t l pa).data (pa % 128) (atomBytes o)
      f old = some w ∧ w < 2 ^ (8 * atomBytes o) ∨ f old = none ∧ scopeNum o.scope < 2 ∧ w = old) :
    ∃ s', exec i s = .next s'
      ∧ GotResult s s' t o.d (extended (!o.dword) (atomBytes o)
          (field (lineHere (released s t (some o.scope)) t l pa).data (pa % 128) (atomBytes o)))
          (hitLat (released s t (some o.scope)) l.key pa 6) len
      ∧ ∀ w, new = some w → ∃ x, lineFind (s'.core s.cur.core.val).l1 l.key (lineOf pa) false = some x
          ∧ field x.data (pa % 128) (atomBytes o) = w := by
  obtain ⟨ht, hs, -, hpa, -⟩ := id hr
  rw [atomicAt_here hr hfree hp hc hit hpoison] at hexec
  have hmade : Made s (released s t (some o.scope)) t := (Made.start ht).traffic (onlyTraffic_released ..)
  refine ⟨_, hexec, ?_, fun w hw => ?_⟩
  · rw [← oldValue_eq_extended o (field_lt ..)]
    exact gotResult_atomHere hmade hs (quiet_released ..).nextId ..
  · rcases hnew w hw with ⟨hf, hlt⟩ | ⟨hf, hsc, rfl⟩
    · rw [hf]
      exact line_of_atomHere_some _ (span_in_line (atomBytes_dvd o) hpa) (atomBytes_pos o) hlt len
    · rw [hf]
      obtain ⟨x, hx, hdata⟩ := line_of_atomHere_none (released s t (some o.scope)) (c := s.cur.core.val) (t := t) (d := o.d)
        (va := (t.src o.addr).toNat) (n := atomBytes o) (l := l) (pa := pa)
        (old := field (lineHere (released s t (some o.scope)) t l pa).data (pa % 128) (atomBytes o)) hsc len
      exact ⟨x, hx, by rw [hdata, lineHere_released]⟩

theorem atomic_away (ha : (l.cls = .priv ∧ ¬ InCaches (released s t (some o.scope)) l pa) ∨ l.cls = .coh
      ∨ (l.cls = .dev ∧ sReqs s t = [] ∧ (s.devReady t).2 = true)) :
    ∃ s', exec i s = .next s' ∧ Reserved (released s t (some o.scope)) s' t o.d true len
      ∧ Sent (released s t (some o.scope)) s' t l pa o.scope k := by
  obtain ⟨ht, hs, -, -, -⟩ := id hr
  rw [atomicAt_away hr hfree hp ha] at hexec
  obtain ⟨hres, hsent, -⟩ := reserved_askedFor ((onlyTraffic_released s t (some o.scope)).curTask.trans ht)
    ((released_cur s t (some o.scope)).symm ▸ hs) o.d (t.src o.addr).toNat pa true l o.scope 0 k len
  exact ⟨_, hexec, hres, hsent⟩

end

/-- Settles O16: each form by `atomic_here` and `atomic_away`, with the value that its operation writes. -/
theorem atomicsIssue : Obligations.AtomicsIssue := by
  unfold Obligations.AtomicsIssue
  intro s t o l pa n s0 old v hr hfree here away inLine asked
  have hv : v < 2 ^ (8 * n) := Nat.mod_lt _ (Nat.two_pow_pos _)
  have hold : old < 2 ^ (8 * n) := field_lt ..
  refine ⟨fun ⟨ht, hb, hd, hp⟩ p hmem => ?_, fun cmp ⟨ht, hb, hd, hp⟩ => ?_⟩
  · have hexec := exec_amo ht hmem (by rw [hb, hd]; rfl)
    refine ⟨fun ⟨hc, hit, hpoison⟩ => atomic_here hexec hr hfree hp hc hit hpoison _ ?_, atomic_away hexec hr hfree hp⟩
    rintro w ⟨⟩
    exact Or.inl ⟨congrArg some (amoNew_eq_amoResult p.1 (atomBytes_pos o) hold hv), amoResult_lt p.1 hold hv⟩
  · intro c
    have hexec := exec_cas ht (o := o) (cmp := cmp) (by rw [hb, hd]; rfl)
    refine ⟨fun ⟨hc, hit, hpoison⟩ => atomic_here hexec hr hfree hp hc hit hpoison _ fun w hw => ?_, atomic_away hexec hr hfree hp⟩
    by_cases heq : old = c
    · rw [if_pos heq] at hw
      obtain rfl := Option.some.inj hw
      exact Or.inl ⟨if_pos heq, hv⟩
    · rw [if_neg heq] at hw
      by_cases hsc : scopeNum o.scope < 2
      · rw [if_pos hsc] at hw
        exact Or.inr ⟨if_neg heq, hsc, (Option.some.inj hw).symm⟩
      · rw [if_neg hsc] at hw
        cases hw

end Sys2Proof.Atomics
end

section
/-!
PROOFS. The end of a V instruction (spec/05 R122, spec/11 R288): the account is charged, the stream moves on, and nothing of the device
but the issuing task and the accounts differs.
-/

namespace Sys2Proof.VectorIssue
open Sys2Proof Sys2Proof.Machine Sys2Proof.Laws

theorem OneTask.chargeCur {s s' : State} (h : OneTask s s') (n : Nat) : OneTask s (s'.chargeCur n) := by
  unfold State.chargeCur
  split
  · exact h
  · exact h.charge ..

theorem OneTask.vDone {s s' : State} (h : OneTask s s') (ch n : Nat) : OneTask s (s'.vDone ch n) :=
  ResultFrame.oneTask_finish (h.chargeCur ch) n

section
variable {s s' : State} (h : OneTask s s')
include h

theorem OneTask.mem : s'.mem = s.mem := (congrArg State.mem h.rest :)

theorem OneTask.memKey : s'.memKey = s.memKey := (congrArg State.memKey h.rest :)

theorem OneTask.dies : s'.dies = s.dies := (congrArg State.dies h.rest :)

theorem OneTask.banks (c : Nat) : (s'.core c).banks = (s.core c).banks := (congrArg Core.banks (h.cores c) :)

end

/-- The issuing task after its instruction: its stream has moved on. -/
theorem curTask_vDone {s : State} {t : Task} (h : s.curTask = some t) (ch n : Nat) :
    (s.vDone ch n).curTask = some (t.modSt s.cur.stream (fun x => x.advance n)) := by
  have hcharge : (s.chargeCur ch).curTask = some t := by
    rw [← h]
    simp only [State.curTask, chargeCur_cur, task_chargeCur]
  rw [← chargeCur_cur s ch]
  exact curTask_finish hcharge n

/-- A name taken after a change of the issuing task is one taken before it. -/
theorem fresh_modCur (s : State) (f : Task → Task) : (s.modCur f).fresh = s.fresh.modCur f := by
  unfold State.modCur State.modTask
  rw [show s.fresh.task? s.fresh.cur.core.val s.fresh.cur.slot.val = s.task? s.cur.core.val s.cur.slot.val from rfl]
  split
  all_goals rfl

end Sys2Proof.VectorIssue
end

section
/-!
PROOFS. What a V instruction that issues leaves in its cells (spec/05 R117 to R119): a source gives 1,024 cells, a result takes the new
cells under its mask and keeps or zeroes the others.
-/

namespace Sys2Proof.VectorCells
open Sys2Proof Sys2Proof.Machine Sys2Proof.Laws Sys2Proof.Claim Sys2Proof.VectorIssue

/-! ## Issue (R45, R120, R121) -/

/-- An instruction that uses only sources that are full and in the window issues, whichever of them trap. -/
theorem vecIssue_passes {s : State} {t : Task} {srcs : List VSrc} {dsts : List Nat} {uses : List VUse} (h : VecCan s t srcs dsts)
    (hu : ∀ u ∈ uses, u.src ∈ srcs) (f : Task → State) : vecIssue uses dsts s f = .next (f t) := by
  obtain ⟨ht, hs, hd⟩ := h
  have hin : (uses.all (fun u => t.inWindow u.src) && dsts.all (fun d => decide (d < t.window))) = true := by
    simp only [Bool.and_eq_true, List.all_eq_true, decide_eq_true_eq]
    exact ⟨fun u hu' => (hs _ (hu u hu')).1, fun d hd' => (hd d hd').1⟩
  have hfull : ∀ p : VUse → Bool, uses.any (fun u => p u && !t.full u.src) = false := by
    intro p
    simp only [List.any_eq_false]
    exact fun u hu' => by simp [(hs _ (hu u hu')).2]
  have hfill : dsts.any t.filling = false := by
    simp only [List.any_eq_false]
    exact fun d hd' => by simp [(hd d hd').2]
  refine (onTask_some ht _).trans ?_
  simp only [hin, hfull (fun u => !u.trap), hfull (fun u => u.trap), hfill, Bool.not_true, Bool.false_eq_true, if_false]

/-! ## Cells, one by one -/

@[simp] theorem length_tab {α : Type} (n : Nat) (f : Nat → α) : (tab n f).length = n := by simp [tab]

theorem getD_tab {α : Type} {n j : Nat} (h : j < n) (f : Nat → α) (d : α) : (tab n f).getD j d = f j := by
  simp [tab, List.getD_eq_getElem?_getD, h]

theorem getD_map {α β : Type} {l : List α} {j : Nat} (h : j < l.length) (f : α → β) (d : α) (e : β) :
    (l.map f).getD j e = f (l.getD j d) := by
  simp [List.getD_eq_getElem?_getD, h]

theorem getD_zipWith {α β γ : Type} {l : List α} {m : List β} {j : Nat} (hl : j < l.length) (hm : j < m.length) (f : α → β → γ)
    (d : α) (e : β) (g : γ) : (List.zipWith f l m).getD j g = f (l.getD j d) (m.getD j e) := by
  simp [List.getD_eq_getElem?_getD, hl, hm]

theorem getD_replicate {α : Type} {n j : Nat} (h : j < n) (a d : α) : (List.replicate n a).getD j d = a := by
  simp [List.getD_eq_getElem?_getD, h]

theorem length_vsrc {t : Task} (h : FullRegs t) (a : VSrc) : (t.vsrc a).length = 1024 := by
  cases a with
  | v n => exact h n.val
  | zero => exact List.length_replicate
  | cellIdx => exact length_tab ..
  | rowIdx => exact length_tab ..
  | colIdx => exact length_tab ..
  | a n => exact List.length_replicate

theorem getD_maskCells {j : Nat} (h : j < 1024) (k : BitVec 1024) (zm : Bool) (old new : Cells) :
    (maskCells k zm old new).getD j 0 = if k.getLsbD j then new.getD j 0 else if zm then 0 else old.getD j 0 := getD_tab h ..

/-! ## Results (R118, R119) -/

section
variable {s : State} {t : Task} {i : Instr} {d : VReg} {k : KReg} {zm : Bool} {lat ch n : Nat} {c : Cells} {new : Nat → Word32}

/-- A masked result gives the new cell where the mask bit is 1. -/
theorem vecDoes_masked (hi : exec i s = .next ((s.putMasked t d k zm lat c).vDone ch n))
    (hc : ∀ j, j < 1024 → c.getD j 0 = new j) : VecDoes s t i d k zm lat ch n new :=
  ⟨maskCells (t.kreg k.val) zm (t.vreg d.val) c, length_tab .., fun j hj => by rw [getD_maskCells hj, hc j hj], hi⟩

/-- A result without a mask gives every new cell. -/
theorem vecDoes_whole (hi : exec i s = .next ((s.putAll d lat c).vDone ch n)) (hlen : c.length = 1024)
    (hc : ∀ j, j < 1024 → c.getD j 0 = new j) : VecDoes s t i d 0 false lat ch n new :=
  ⟨c, hlen, fun j hj => by
    have hone : (t.kreg (0 : KReg).val).getLsbD j = true := (BitVec.getLsbD_allOnes ..).trans (decide_eq_true hj)
    rw [hc j hj, if_pos hone], hi⟩

theorem VecDoes.congr {new' : Nat → Word32} (h : VecDoes s t i d k zm lat ch n new) (e : ∀ j, j < 1024 → new j = new' j) :
    VecDoes s t i d k zm lat ch n new' := by
  obtain ⟨c, hlen, hc, hi⟩ := h
  exact ⟨c, hlen, fun j hj => by rw [hc j hj, e j hj], hi⟩

end

section
variable {s : State} {t : Task} {i : Instr} (hr : FullRegs t)
include hr

/-- A masked operation of two sources, cell by cell (Table 5-1). -/
theorem vec3_does {o : V3} {lat : Nat} {f : ETy → Word32 → Word32 → Word32} (h : VecCan s t [o.a, o.b] [o.d.val])
    (hi : exec i s = vec3 lat f o s) :
    VecDoes s t i o.d o.k o.zm lat 60 3 (fun j => f o.ty (cell t o.a j) (cell t o.b j)) := by
  refine vecDoes_masked (hi.trans (vecIssue_passes h (by simp) _)) fun j hj => ?_
  exact getD_zipWith (by rwa [length_vsrc hr]) (by rwa [length_vsrc hr]) ..

/-- A masked operation of one source, cell by cell. -/
theorem vec3u_does {o : V3u} {lat : Nat} {f : ETy → Word32 → Word32} (h : VecCan s t [o.a] [o.d.val])
    (hi : exec i s = vec3u lat f o s) : VecDoes s t i o.d o.k o.zm lat 60 3 (fun j => f o.ty (cell t o.a j)) := by
  refine vecDoes_masked (hi.trans (vecIssue_passes h (by simp) _)) fun j hj => ?_
  exact getD_map (by rwa [length_vsrc hr]) ..

/-- A fused multiply-add, whose destination is its third source (R120). -/
theorem vecFma_does {o : V3} {np nz : Bool} (h : VecCan s t [o.a, o.b] [o.d.val]) (hd : t.full (.v o.d) = true)
    (hi : exec i s = vecFma np nz o s) :
    VecDoes s t i o.d o.k o.zm 10 60 3 (fun j => ffmaCell np nz o.ty (cell t o.a j) (cell t o.b j) (cell t (.v o.d) j)) := by
  have hcan : VecCan s t [o.a, o.b, .v o.d] [o.d.val] := by
    obtain ⟨ht, hs, hds⟩ := h
    have hin : t.inWindow (.v o.d) = true := decide_eq_true (hds _ (List.mem_singleton_self _)).1
    refine ⟨ht, fun a ha => ?_, hds⟩
    simp only [List.mem_cons, List.not_mem_nil, or_false] at hs ha
    rcases ha with rfl | rfl | rfl
    · exact hs _ (.inl rfl)
    · exact hs _ (.inr rfl)
    · exact ⟨hin, hd⟩
  have ha := length_vsrc hr o.a
  have hb := length_vsrc hr o.b
  refine vecDoes_masked (hi.trans (vecIssue_passes hcan (by simp) _)) fun j hj => ?_
  have hpair : ((t.vsrc o.a).zip (t.vsrc o.b)).getD j (0, 0) = (cell t o.a j, cell t o.b j) :=
    getD_zipWith (by rwa [ha]) (by rwa [hb]) ..
  refine (getD_zipWith (d := (0, 0)) (e := 0) (by simpa [ha, hb] using hj) (by rwa [hr]) ..).trans ?_
  rw [hpair]
  rfl

/-- An operation on whole registers (R132 to R136). -/
theorem vec2_does {d : VReg} {a : VSrc} {lat : Nat} {f : Cells → Cells} {new : Nat → Word32} (h : VecCan s t [a] [d.val])
    (hi : exec i s = vec2 lat f d a s) (hlen : ∀ c : Cells, c.length = 1024 → (f c).length = 1024)
    (hc : ∀ j, j < 1024 → (f (t.vsrc a)).getD j 0 = new j) : VecDoes s t i d 0 false lat 60 2 new :=
  vecDoes_whole (hi.trans (vecIssue_passes h (by simp) _)) (hlen _ (length_vsrc hr a)) hc

end

end Sys2Proof.VectorCells
end

section
/-!
PROOFS. The floating vector operations (spec/05 R124, R125, Tables 5-4 and 5-5).
-/

namespace Sys2Proof.VectorFloats
open Sys2Proof Sys2Proof.Machine Sys2Proof.Claim Sys2Proof.VectorCells

theorem nbit_toNat {n : Nat} (w : BitVec n) (i : Nat) : nbit w.toNat i = w.getLsbD i := by
  rw [nbit, BitVec.getLsbD, Nat.testBit_eq_decide_div_mod_eq]

/-- A field of a pattern does not depend on bits above it. -/
theorem nbits_mod (w : Nat) {hi lo m : Nat} (h : hi < m) (hl : lo ≤ hi + 1) : nbits (w % 2 ^ m) hi lo = nbits w hi lo := by
  unfold nbits
  apply Nat.eq_of_testBit_eq
  intro b
  simp only [Nat.testBit_mod_two_pow, Nat.testBit_div_two_pow]
  by_cases hb : b < hi + 1 - lo
  · simp [hb, show b + lo < m by omega]
  · simp [hb]

/-- An F32 cell holds the number that was encoded into it. -/
theorem cellNum_f32 (n : Nat) : cellNum .f32 (BitVec.ofNat 32 n) = decodeF fmtF32 n := by
  have hsign : nbit (n % 2 ^ 32) 31 = nbit n 31 := by
    simp only [nbit, decide_eq_decide]
    omega
  simp only [cellNum, BitVec.toNat_ofNat, decodeF, fmtF32]
  rw [show 8 + 24 - 1 = 31 from rfl, hsign, nbits_mod n (by omega) (by omega), nbits_mod n (by omega) (by omega)]
  rfl

/-- A special function rounds to F32 and, for a narrower type, once more (R125). -/
theorem specialCell_eq (f : FNum → FNum) (ty : ETy) (x : Word32) :
    specialCell f ty x = if ty = .f32 then numCell .f32 .rne (f (cellNum ty x))
      else numCell ty .rne (cellNum .f32 (numCell .f32 .rne (f (cellNum ty x)))) := by
  have h : cellNum .f32 (numCell .f32 .rne (f (cellNum ty x))) = decodeF fmtF32 (encodeF fmtF32 .rne (f (cellNum ty x))) := cellNum_f32 _
  rw [h]
  by_cases ht : ty = .f32
  · subst ht
    rfl
  · rw [if_neg ht]
    cases ty
    case f32 => exact absurd rfl ht
    all_goals rfl

/-- Settles O27: each operation by its cells, the fused ones by three sources, the special functions by their two roundings. -/
theorem vectorFloatResults : Obligations.VectorFloatResults := by
  unfold Obligations.VectorFloatResults
  refine ⟨fun s t o hr h => ?_, fun s t o hr h => ?_⟩
  · refine ⟨vec3_does (f := faddCell) hr h rfl, vec3_does (f := fsubCell) hr h rfl, vec3_does (f := fmulCell) hr h rfl,
      vec3_does (f := fminCell) hr h rfl, vec3_does (f := fmaxCell) hr h rfl, ?_, fun hd => ⟨vecFma_does (np := false) (nz := false) hr h hd rfl,
        vecFma_does (np := false) (nz := true) hr h hd rfl, vecFma_does (np := true) (nz := false) hr h hd rfl⟩⟩
    refine VecDoes.congr (vec3_does (f := fcpsgnCell) hr h rfl) fun j _ => ?_
    dsimp only
    rw [← nbit_toNat]
    rfl
  · have hspecial : ∀ {i : Instr} {f : FNum → FNum}, exec i s = vec3u 16 (specialCell f) o s →
        VecDoes s t i o.d o.k o.zm 16 60 3 (fun j => if o.ty = .f32 then numCell .f32 .rne (f (cellNum o.ty (cell t o.a j)))
          else numCell o.ty .rne (cellNum .f32 (numCell .f32 .rne (f (cellNum o.ty (cell t o.a j)))))) :=
      fun hi => VecDoes.congr (vec3u_does hr h hi) fun j _ => specialCell_eq ..
    exact ⟨vec3u_does (f := fabsCell) hr h rfl, vec3u_does (f := fnegCell) hr h rfl, hspecial rfl, hspecial rfl, hspecial rfl, hspecial rfl, hspecial rfl⟩

end Sys2Proof.VectorFloats
end

section
/-!
PROOFS. The integer, bitwise and shift operations of the V stream (spec/05 R126, R127): the integer that a cell holds, and the cell of an
integer modulo its type's range.
-/

namespace Sys2Proof.VectorIntegers
open Sys2Proof Sys2Proof.Machine Sys2Proof.Claim Sys2Proof.VectorCells

theorem bits_pos (ty : ETy) : 0 < ty.bits := by cases ty <;> decide

theorem cellInt_eq_intOf (ty : ETy) (c : Word32) : cellInt ty c = intOf ty c := by
  unfold cellInt intOf
  split
  · rw [ResultBits.sext_eq_toInt (bits_pos ty), BitVec.ofNat_toNat]
  · rw [BitVec.toNat_setWidth]

theorem ibits_eq_toNat (x : Int) (w : Nat) : ibits x w = (BitVec.ofInt w x).toNat := (BitVec.toNat_ofInt ..).symm

theorem intCell_eq_cellOf (ty : ETy) (x : Int) : intCell ty x = cellOf ty x := by
  unfold intCell cellOf
  rw [ibits_eq_toNat]
  split
  · rw [ResultBits.sext_eq_toInt (bits_pos ty), BitVec.ofNat_toNat, BitVec.setWidth_eq]
    rfl
  · exact BitVec.ofNat_toNat ..

/-- An integer clamped to a type's range (R127). -/
theorem clamp_eq (ty : ETy) (x : Int) : ty.clamp x = max ty.lo (min x ty.hi) := by
  have hle : ty.lo ≤ ty.hi := by cases ty <;> decide
  unfold ETy.clamp
  split
  · omega
  · split
    all_goals omega

theorem shl_eq (x : Word32) (n : Nat) : x <<< n = BitVec.ofNat 32 (x.toNat * 2 ^ n) := by
  apply BitVec.eq_of_toNat_eq
  rw [BitVec.toNat_shiftLeft, Nat.shiftLeft_eq, BitVec.toNat_ofNat]

theorem shr_eq (x : Word32) (n : Nat) : x >>> n = BitVec.ofNat 32 (x.toNat / 2 ^ n) := by
  apply BitVec.eq_of_toNat_eq
  rw [BitVec.toNat_ushiftRight, Nat.shiftRight_eq_div_pow, BitVec.toNat_ofNat, Nat.mod_eq_of_lt]
  exact (Nat.div_le_self ..).trans_lt x.isLt

theorem sar_eq (x : Word32) (n : Nat) : x.sshiftRight n = BitVec.ofInt 32 (x.toInt / 2 ^ n) := by
  rw [BitVec.sshiftRight, Int.shiftRight_eq_div_pow]
  norm_cast

/-- An operation on the integers of its cells is one on the cells. -/
theorem num_does {s : State} {t : Task} {o : V3} {i : Instr} {lat : Nat} (hr : FullRegs t) (h : VecCan s t [o.a, o.b] [o.d.val])
    (r : Int → Int → Int) (hi : exec i s = vec3 lat (fun ty x y => intCell ty (r (cellInt ty x) (cellInt ty y))) o s) :
    VecDoes s t i o.d o.k o.zm lat 60 3 (fun j => cellOf o.ty (r (intOf o.ty (cell t o.a j)) (intOf o.ty (cell t o.b j)))) :=
  VecDoes.congr (vec3_does hr h hi) fun j _ => by rw [intCell_eq_cellOf, cellInt_eq_intOf, cellInt_eq_intOf]

theorem clamped_does {s : State} {t : Task} {o : V3} {i : Instr} {lat : Nat} (hr : FullRegs t) (h : VecCan s t [o.a, o.b] [o.d.val])
    (r : Int → Int → Int) (hi : exec i s = vec3 lat (fun ty x y => intCell ty (ty.clamp (r (cellInt ty x) (cellInt ty y)))) o s) :
    VecDoes s t i o.d o.k o.zm lat 60 3
      (fun j => cellOf o.ty (max o.ty.lo (min (r (intOf o.ty (cell t o.a j)) (intOf o.ty (cell t o.b j))) o.ty.hi))) :=
  VecDoes.congr (vec3_does hr h hi) fun j _ => by rw [intCell_eq_cellOf, clamp_eq, cellInt_eq_intOf, cellInt_eq_intOf]

/-- Settles O29: wrapping and saturating operations by the integers of the cells, the bitwise ones by the cells themselves. -/
theorem vectorIntegerResults : Obligations.VectorIntegerResults := by
  unfold Obligations.VectorIntegerResults
  intro s t o hr h
  refine ⟨fun _ => ⟨num_does hr h (· + ·) rfl, num_does hr h (· - ·) rfl, num_does hr h (· * ·) rfl, num_does hr h min rfl,
    num_does hr h max rfl, clamped_does hr h (· + ·) rfl, clamped_does hr h (· - ·) rfl, ?_⟩,
    vec3_does (f := fun _ x y => x &&& y) hr h rfl, vec3_does (f := fun _ x y => x ||| y) hr h rfl,
    vec3_does (f := fun _ x y => x ^^^ y) hr h rfl, vec3_does (f := fun _ x y => x &&& ~~~y) hr h rfl, ?_, ?_, ?_⟩
  · refine VecDoes.congr (vec3_does (f := imulhCell) hr h rfl) fun j _ => ?_
    simp only [imulhCell, intCell_eq_cellOf, cellInt_eq_intOf, Nat.cast_pow, Nat.cast_ofNat]
  · exact VecDoes.congr (vec3_does (f := fun _ x y => x <<< (y.toNat % 32)) hr h rfl) fun j _ => shl_eq ..
  · exact VecDoes.congr (vec3_does (f := fun _ x y => x >>> (y.toNat % 32)) hr h rfl) fun j _ => shr_eq ..
  · exact VecDoes.congr (vec3_does (f := fun _ x y => x.sshiftRight (y.toNat % 32)) hr h rfl) fun j _ => sar_eq ..

end Sys2Proof.VectorIntegers
end

section
/-!
PROOFS. VCMP, VSEL, the mask operations and VFE (spec/05 R128 to R130, R149).
-/

namespace Sys2Proof.VectorMasks
open Sys2Proof Sys2Proof.Machine Sys2Proof.Laws Sys2Proof.Claim Sys2Proof.VectorIssue Sys2Proof.VectorCells

/-! ## Mask registers (R118) -/

theorem getLsbD_maskOf (f : Nat → Bool) {j : Nat} (hj : j < 1024) : (maskOf f).getLsbD j = f j := by
  obtain ⟨-, hbit⟩ := VectorStores.testBit_setBits (fun i => ¬ f i = true) 1024
  simp only [ite_not] at hbit
  rw [maskOf, BitVec.getLsbD_ofNat, hbit]
  simp [hj]

theorem getLsbD_maskBits (k : BitVec 1024) (zm : Bool) (old new : BitVec 1024) {j : Nat} (hj : j < 1024) :
    (maskBits k zm old new).getLsbD j = if k.getLsbD j then new.getLsbD j else if zm then false else old.getLsbD j := by
  unfold maskBits
  cases zm
  all_goals simp only [BitVec.getLsbD_or, BitVec.getLsbD_and, if_true, if_false, Bool.false_eq_true]
  · rw [BitVec.getLsbD_not, decide_eq_true hj]
    cases k.getLsbD j <;> simp
  · rw [show (0 : BitVec 1024).getLsbD j = false from BitVec.getLsbD_zero]
    cases k.getLsbD j <;> simp

theorem kreg_setK (t : Task) (n m : Nat) (v : BitVec 1024) : (t.setK n v).kreg m = if m = n ∧ n ≠ 0 then v else t.kreg m := by
  unfold Task.setK
  by_cases hn : n = 0
  · simp [hn]
  · rw [if_neg hn]
    by_cases hm : m = n
    · subst hm
      rw [if_pos ⟨rfl, hn⟩, Task.kreg, if_neg hn]
      exact mget_mset_same ..
    · rw [if_neg fun h => hm h.1]
      unfold Task.kreg
      rw [mget_mset_other hm]

/-- A task with the result of VCMP written: in flight, but for K0, which ignores writes. -/
def withMask (d : KReg) (new : BitVec 1024) (cyc : Word64) (t u : Task) : Task :=
  if d.val = 0 then u.setK d.val new else (u.setK d.val new).flying (.k d.val) (.mask (t.kreg d.val)) cyc 4 false

theorem kreg_withMask (d : KReg) (new : BitVec 1024) (cyc : Word64) (t u : Task) (m : Nat) :
    (withMask d new cyc t u).kreg m = if m = d.val ∧ d.val ≠ 0 then new else u.kreg m := by
  rw [← kreg_setK]
  unfold withMask
  split
  all_goals rfl

theorem withMask_but (d : KReg) (new : BitVec 1024) (cyc : Word64) (t u : Task) :
    { withMask d new cyc t u with k := u.k, fly := u.fly } = u := by
  unfold withMask Task.setK
  split
  all_goals rfl

/-- VCMP compares each pair of cells under its mask (R128). -/
theorem vcmp_does {s : State} {t : Task} {a b : VSrc} (h : VecCan s t [a, b] []) (c : Cond) (d : KReg) (ta tb : Bool) (k : KReg)
    (ty : ETy) (zm : Bool) :
    ∃ s' t', exec (.vcmp c d a b ta tb k ty zm) s = .next s' ∧ s'.curTask = some t'
      ∧ (∀ j, j < 1024 → (t'.kreg d.val).getLsbD j = if d.val = 0 then true
          else if (t.kreg k.val).getLsbD j then cmpCell c ty (cell t a j) (cell t b j)
          else if zm then false else (t.kreg d.val).getLsbD j)
      ∧ (∀ m, m ≠ d.val → t'.kreg m = t.kreg m) ∧ t'.v = t.v ∧ t'.empty = t.empty ∧ s'.mem = s.mem
      ∧ (d.val ≠ 0 → ∃ f, t'.fly = t.fly ++ [f] ∧ f.dst = .k d.val ∧ f.old = .mask (t.kreg d.val)) := by
  let new := maskBits (t.kreg k.val) zm (t.kreg d.val) (maskOf (fun i => cmpCell c ty (cell t a i) (cell t b i)))
  have hbut := withMask_but d new s.cyc t t
  have htask : (s.modCur (withMask d new s.cyc t)).curTask = some (withMask d new s.cyc t t) := curTask_modCur h.1 _
  refine ⟨(s.modCur (withMask d new s.cyc t)).vDone vCharge 3, _, vecIssue_passes h (by simp) _, curTask_vDone htask .., ?_, ?_,
    (congrArg Task.v hbut :), (congrArg Task.empty hbut :), (((OneTask.refl s).modCur _).vDone ..).mem, ?_⟩
  · intro j hj
    refine (congrArg (·.getLsbD j) (kreg_withMask d new s.cyc t t d.val)).trans ?_
    by_cases hd : d.val = 0
    · rw [if_neg (fun e => e.2 hd), if_pos hd, hd, kreg_zero]
      exact (BitVec.getLsbD_allOnes ..).trans (decide_eq_true hj)
    · rw [if_pos ⟨rfl, hd⟩, if_neg hd]
      exact (getLsbD_maskBits _ _ _ _ hj).trans (by rw [getLsbD_maskOf _ hj])
  · intro m hm
    exact (kreg_withMask d new s.cyc t t m).trans (if_neg fun e => hm e.1)
  · intro hd
    have hfly : withMask d new s.cyc t t = (t.setK d.val new).flying (.k d.val) (.mask (t.kreg d.val)) s.cyc 4 false := if_neg hd
    obtain ⟨f, hf, hdst, hold, -⟩ := fly_vis (t.setK d.val new) (.k d.val) (.mask (t.kreg d.val)) s.cyc 4 false
    have hkeep : (t.setK d.val new).fly = t.fly := by
      unfold Task.setK
      rw [if_neg hd]
    exact ⟨f, (congrArg Task.fly hfly).trans (hf.trans (by rw [hkeep])), hdst, hold⟩

/-- VSEL takes a where the mask bit is 1, and b elsewhere (R129). -/
theorem vsel_does {s : State} {t : Task} {d : VReg} {a b : VSrc} (h : VecCan s t [a, b] [d.val]) (ta tb : Bool) (k : KReg) :
    VecDoes s t (.vsel d a b ta tb k) d 0 false 4 60 3 (fun j => if (t.kreg k.val).getLsbD j then cell t a j else cell t b j) :=
  vecDoes_whole (vecIssue_passes h (by simp) _) (length_tab ..) fun _ hj => getD_maskCells hj ..

/-! ## Full and empty (R149) -/

theorem mem_ldel (x y : Nat) (l : List Nat) : x ∈ ldel y l ↔ x ≠ y ∧ x ∈ l := by
  simp [ldel, and_comm]

/-- VFE changes the bit of its register and of no other. -/
theorem vfe_does {s : State} {t : Task} {v : VReg} (h : VecCan s t [] [v.val]) {i : Instr} {len : Nat} {empty : Bool}
    (hi : exec i s = vfe v.val empty len s) :
    ∃ s' t', exec i s = .next s' ∧ s'.curTask = some t' ∧ t'.v = t.v
      ∧ (∀ m, m ∈ t'.empty ↔ if m = v.val then empty = true else m ∈ t.empty)
      ∧ t'.st s.cur.stream = (t.st s.cur.stream).advance len ∧ s'.mem = s.mem := by
  let set := fun (t : Task) => { t with empty := if empty then ladd v.val t.empty else ldel v.val t.empty }
  have hlast := curTask_finish (curTask_modCur h.1 set) len
  rw [show (s.modCur set).cur = s.cur from modTask_cur ..] at hlast
  refine ⟨_, _, hi.trans (vecIssue_passes h (by simp) _), hlast, rfl, fun m => ?_, st_modSt_same ..,
    (ResultFrame.oneTask_finish ((OneTask.refl s).modCur set) len).mem⟩
  change m ∈ (if empty then ladd v.val t.empty else ldel v.val t.empty) ↔ _
  cases empty
  · rw [if_neg Bool.false_ne_true, mem_ldel]
    by_cases hm : m = v.val
    · simp [hm]
    · simp [hm]
  · rw [if_pos rfl, VectorLoads.mem_ladd]
    by_cases hm : m = v.val
    · simp [hm]
    · simp [hm]

/-- Settles O30: VCMP and VSEL cell by cell, the mask operations as they stand, VFE by the list of empty registers. -/
theorem vectorMasksAndSelection : Obligations.VectorMasksAndSelection := by
  unfold Obligations.VectorMasksAndSelection
  refine fun s t => ⟨fun c d a b ta tb k ty zm h => vcmp_does h c d ta tb k ty zm, fun d a b ta tb k _ h => vsel_does h ta tb k,
    fun h d a => ?_, fun v h => ⟨vfe_does h rfl, vfe_does h rfl, vfe_does h rfl⟩⟩
  exact ⟨onTask_some h _, onTask_some h _, onTask_some h _, onTask_some h _, onTask_some h _⟩

end Sys2Proof.VectorMasks
end

section
/-!
PROOFS. Conversions, moves, rotations, broadcasts, transposes, permutation, extraction and reductions (spec/05 R131 to R136).
-/

namespace Sys2Proof.VectorMoves
open Sys2Proof Sys2Proof.Machine Sys2Proof.Claim Sys2Proof.VectorIssue Sys2Proof.VectorCells

/-! ## The tree of a reduction (R136) -/

theorem tree_congr (op : RedOp) (ty : ETy) {n : Nat} {f g : Nat → Word32} (h : ∀ i, i < 2 ^ n → f i = g i) :
    tree op ty n f = tree op ty n g := by
  induction n generalizing f g with
  | zero => exact h 0 Nat.one_pos
  | succ n ih =>
    have hpow : 2 ^ (n + 1) = 2 * 2 ^ n := pow_succ' 2 n
    exact ih fun i hi => by rw [h (2 * i) (by omega), h (2 * i + 1) (by omega)]

/-- A level halves a list of even length. -/
theorem length_redLevel (op : RedOp) (ty : ETy) {n : Nat} {l : List Word32} (h : l.length = 2 * n) : (redLevel op ty l).length = n := by
  induction n generalizing l with
  | zero =>
    obtain rfl := List.length_eq_zero_iff.1 h
    rfl
  | succ n ih =>
    match l, h with
    | x :: y :: l, h =>
      have hl : l.length = 2 * n := by simpa [Nat.mul_succ] using h
      simp [redLevel, ih hl]

theorem getD_redLevel (op : RedOp) (ty : ETy) {n i : Nat} {l : List Word32} (h : l.length = 2 * n) (hi : i < n) :
    (redLevel op ty l).getD i 0 = redCell op ty (l.getD (2 * i) 0) (l.getD (2 * i + 1) 0) := by
  induction n generalizing l i with
  | zero => omega
  | succ n ih =>
    match l, h with
    | x :: y :: l, h =>
      have hl : l.length = 2 * n := by simpa [Nat.mul_succ] using h
      cases i with
      | zero => rfl
      | succ i =>
        rw [redLevel, List.getD_cons_succ, ih hl (by omega)]
        rfl

/-- A reduction of 2^n cells is their pairwise tree. -/
theorem reduce_eq_tree (op : RedOp) (ty : ETy) {n : Nat} {l : List Word32} (h : l.length = 2 ^ n) :
    reduce op ty n l = tree op ty n (fun i => l.getD i 0) := by
  induction n generalizing l with
  | zero => rfl
  | succ n ih =>
    have hl : l.length = 2 * 2 ^ n := h.trans (pow_succ' 2 n)
    exact (ih (length_redLevel op ty hl)).trans (tree_congr op ty fun i hi => getD_redLevel op ty hl hi)

/-! ## Rows repeated -/

theorem length_flatMap_replicate {α : Type} (m : Nat) (l : List α) : (l.flatMap (List.replicate m)).length = l.length * m := by
  simp [List.length_flatMap]

/-- Each entry of a list written m times. -/
theorem getD_flatMap_replicate {α : Type} {m : Nat} (hm : 0 < m) (d : α) (l : List α) {j : Nat} (hj : j < m * l.length) :
    (l.flatMap (List.replicate m)).getD j d = l.getD (j / m) d := by
  induction l generalizing j with
  | nil => simp at hj
  | cons x l ih =>
    rw [List.flatMap_cons]
    rcases Nat.lt_or_ge j m with h | h
    · rw [List.getD_append _ _ _ _ (by simpa using h), getD_replicate h, Nat.div_eq_of_lt h, List.getD_cons_zero]
    · rw [List.length_cons, Nat.mul_succ] at hj
      rw [List.getD_append_right _ _ _ _ (by simpa using h), List.length_replicate, ih (by omega), Nat.div_eq_sub_div hm h,
        List.getD_cons_succ]

/-- A list written n times. -/
theorem getD_flatten_replicate {α : Type} (n : Nat) (row : List α) (d : α) {j : Nat} (hj : j < n * row.length) :
    (List.replicate n row).flatten.getD j d = row.getD (j % row.length) d := by
  induction n generalizing j with
  | zero => simp at hj
  | succ n ih =>
    rw [List.replicate_succ, List.flatten_cons]
    rcases Nat.lt_or_ge j row.length with h | h
    · rw [List.getD_append _ _ _ _ h, Nat.mod_eq_of_lt h]
    · rw [Nat.succ_mul] at hj
      rw [List.getD_append_right _ _ _ _ h, ih (by omega), Nat.mod_eq_sub_mod h]

/-- The cells of one row of 64. -/
theorem getD_row (c : Cells) (r : Nat) {j : Nat} (hj : j < 64) : ((c.drop (64 * r)).take 64).getD j 0 = c.getD (64 * r + j) 0 := by
  simp [List.getD_eq_getElem?_getD, hj]

/-- The tree of each row, in every cell of the row. -/
def rowTrees (op : RedOp) (ty : ETy) (c : Cells) : Cells :=
  (tab 16 (fun r => reduce op ty 6 ((c.drop (64 * r)).take 64))).flatMap (List.replicate 64)

/-- The tree of each column, in every cell of the column. -/
def colTrees (op : RedOp) (ty : ETy) (c : Cells) : Cells :=
  (List.replicate 16 (tab 64 (fun j => reduce op ty 4 (tab 16 (fun r => c.getD (64 * r + j) 0))))).flatten

theorem exec_vredr (d : VReg) (a : VSrc) (op : RedOp) (ty : ETy) (s : State) :
    exec (.vredr d a op ty) s = vec2 14 (rowTrees op ty) d a s := rfl

theorem exec_vredc (d : VReg) (a : VSrc) (op : RedOp) (ty : ETy) (s : State) :
    exec (.vredc d a op ty) s = vec2 8 (colTrees op ty) d a s := rfl

theorem length_rowTrees (op : RedOp) (ty : ETy) (c : Cells) : (rowTrees op ty c).length = 1024 := by
  rw [rowTrees, length_flatMap_replicate, length_tab]

theorem length_colTrees (op : RedOp) (ty : ETy) (c : Cells) : (colTrees op ty c).length = 1024 := by
  simp [colTrees]

theorem getD_rowTrees (op : RedOp) (ty : ETy) {c : Cells} (hc : c.length = 1024) {j : Nat} (hj : j < 1024) :
    (rowTrees op ty c).getD j 0 = tree op ty 6 (fun i => c.getD (j / 64 * 64 + i) 0) := by
  have hlen : ((c.drop (64 * (j / 64))).take 64).length = 2 ^ 6 := by
    simp [hc]
    omega
  rw [rowTrees, getD_flatMap_replicate (by omega) 0 _ (by rw [length_tab]; omega), getD_tab (by omega), reduce_eq_tree op ty hlen]
  exact tree_congr op ty fun i hi => by rw [getD_row _ _ hi, Nat.mul_comm]

theorem getD_colTrees (op : RedOp) (ty : ETy) (c : Cells) {j : Nat} (hj : j < 1024) :
    (colTrees op ty c).getD j 0 = tree op ty 4 (fun r => c.getD (64 * r + j % 64) 0) := by
  rw [colTrees, getD_flatten_replicate 16 _ 0 (by rw [length_tab]; omega), length_tab, getD_tab (by omega)]
  refine (reduce_eq_tree op ty (n := 4) (length_tab 16 _)).trans ?_
  exact tree_congr op ty fun r hr => getD_tab hr ..

section
variable {s : State} {t : Task} {d : VReg} {a : VSrc} (hr : FullRegs t) (h : VecCan s t [a] [d.val])
include hr h

/-- A movement of cells: each takes the source cell that a rule names (R132, R134). -/
theorem move_does {i : Instr} {lat : Nat} {f : Nat → Nat} (hi : exec i s = vec2 lat (moveCells f) d a s) :
    VecDoes s t i d 0 false lat 60 2 (fun j => cell t a (f j)) :=
  vec2_does hr h hi (fun _ _ => length_tab ..) fun _ hj => getD_tab hj ..

theorem vredr_does (op : RedOp) (ty : ETy) :
    VecDoes s t (.vredr d a op ty) d 0 false 14 60 2 (fun i => tree op ty 6 (fun j => cell t a (i / 64 * 64 + j))) :=
  vec2_does hr h (exec_vredr ..) (fun _ _ => length_rowTrees ..) fun _ hj => getD_rowTrees op ty (length_vsrc hr a) hj

theorem vredc_does (op : RedOp) (ty : ETy) :
    VecDoes s t (.vredc d a op ty) d 0 false 8 60 2 (fun i => tree op ty 4 (fun r => cell t a (64 * r + i % 64))) :=
  vec2_does hr h (exec_vredc ..) (fun _ _ => length_colTrees ..) fun _ hj => getD_colTrees op ty _ hj

theorem vcvt_does (ta : Bool) (k : KReg) (st dt : ETy) (rm : RMode) (zm : Bool) :
    VecDoes s t (.vcvt d a ta k st dt rm zm) d k zm 8 60 3 (fun i => numCell dt rm (cellNum st (cell t a i))) :=
  vecDoes_masked (vecIssue_passes h (by simp) _) fun _ hj => getD_map (by rwa [length_vsrc hr]) ..

omit hr in
theorem vmovi_does (imm : BitVec 31) : VecDoes s t (.vmovi d imm) d 0 false 4 60 3 (fun _ => BitVec.ofNat 32 (2 * imm.toNat)) := by
  have himm : (imm ++ 0#1 : BitVec 32) = BitVec.ofNat 32 (2 * imm.toNat) := by
    apply BitVec.eq_of_toNat_eq
    rw [BitVec.toNat_append, BitVec.toNat_ofNat]
    have := imm.isLt
    simp only [BitVec.toNat_ofNat, Nat.zero_mod, Nat.or_zero, Nat.shiftLeft_eq]
    omega
  have hcan : VecCan s t [] [d.val] := ⟨h.1, by simp, h.2.2⟩
  refine vecDoes_whole (vecIssue_passes hcan (by simp) _) List.length_replicate fun j hj => ?_
  exact (getD_replicate hj ..).trans himm

end

/-- VPERM takes the cell that its index names, 0 where bit 31 of it is set (R135). -/
theorem vperm_does {s : State} {t : Task} {d : VReg} {a b : VSrc} (hr : FullRegs t) (h : VecCan s t [a, b] [d.val]) (ta tb : Bool)
    (k : KReg) (zm : Bool) : VecDoes s t (.vperm d a b ta tb k zm) d k zm 72 480 3
      (fun i => if (cell t b i).getLsbD 31 then 0 else cell t a ((cell t b i).toNat % 1024)) :=
  vecDoes_masked (vecIssue_passes h (by simp) _) fun _ hj => getD_map (by rwa [length_vsrc hr]) ..

/-- Settles O31: movements by the cell that each takes, reductions by their tree. -/
theorem vectorMovesAndReductions : Obligations.VectorMovesAndReductions := by
  unfold Obligations.VectorMovesAndReductions
  intro s t d a hr h
  refine ⟨vec2_does hr h rfl (fun _ hc => hc) fun _ _ => rfl, fun n => move_does hr h rfl, fun n => move_does hr h rfl,
    fun n => move_does hr h rfl, fun n => move_does hr h rfl, move_does hr h rfl, vredr_does hr h, vredc_does hr h, vcvt_does hr h,
    vmovi_does h, fun b ta tb k zm hb => vperm_does hr hb ta tb k zm, fun e n => ?_⟩
  exact vecIssue_passes (dsts := []) ⟨h.1, h.2.1, by simp⟩ (by simp) _

end Sys2Proof.VectorMoves
end

section
/-!
PROOFS. VACVT and VAFIL (spec/05 R145 to R148): what a drain leaves in its register and when it lands; what a fill leaves in its bank and
in the others.
-/

namespace Sys2Proof.VectorBanks
open Sys2Proof Sys2Proof.Machine Sys2Proof.Laws Sys2Proof.Claim Sys2Proof.VectorIssue Sys2Proof.VectorCells Sys2Proof.VectorMasks

/-! ## Rows (R145) -/

/-- Does a cell lie in the rows that a band names? -/
def InRows (band : Option (Fin 4)) (j : Nat) : Prop :=
  match band with | none => True | some b => 4 * b.val ≤ j / 64 ∧ j / 64 < 4 * b.val + 4

theorem inRows_iff (band : Option (Fin 4)) {j : Nat} (hj : j < 1024) :
    InRows band j ↔ (bandRows band).1 ≤ j / 64 ∧ j / 64 < (bandRows band).1 + (bandRows band).2 := by
  cases band with
  | none =>
    simp only [InRows, bandRows, true_iff]
    omega
  | some b => rfl

/-! ## Results as they land (R88, R119, R424) -/

/-- A result that is due makes its register full, and sets STATUS bit 0 where its bank was not allocated. -/
theorem land_result {t : Task} {f : VFly} {cyc : Word64} (hf : f ∈ t.fly) (hvis : f.vis.toNat ≤ cyc.toNat) (hs : t.stopped = false)
    (hv : t.saving = none) : (∀ n, f.dst = .v n → n ∉ (t.land cyc).empty) ∧ (f.accu = true → (t.land cyc).status.getLsbD 0 = true) := by
  have hdue : f ∈ t.fly.filter (fun f => decide (f.vis.toNat ≤ cyc.toNat)) := List.mem_filter.2 ⟨hf, decide_eq_true hvis⟩
  have hbit : ∀ w : Word64, (w ||| BitVec.ofNat 64 (2 ^ statAccUnalloc)).getLsbD 0 = true := by
    intro w
    simp [statAccUnalloc]
  unfold Task.land
  rw [hs, hv, Option.isSome_none, Bool.or_false, if_neg Bool.false_ne_true]
  refine ⟨fun n hn hmem => ?_, fun ha => ?_⟩
  · have hall := (List.mem_filter.1 hmem).2
    rw [List.all_eq_true] at hall
    exact of_decide_eq_true (hall f hdue) hn
  · dsimp only
    split
    · exact hbit t.status
    · rw [if_pos (List.any_eq_true.2 ⟨f, hdue, ha⟩)]
      exact hbit t.status

/-! ## Drains (R145, R147, R148) -/

/-- A task with a drain's cells in the rows of its register, in flight for 24 cycles. -/
def withDrain (o : VAcc VReg) (mask : BitVec 1024) (cyc : Word64) (accu : Bool) (old new : Cells) (u : Task) : Task :=
  (u.setV o.v.val mask (putRows (bandRows o.band).1 (bandRows o.band).2 old new)).flying (.v o.v.val) (.cells old) cyc 24 accu

theorem getD_putRows (band : Option (Fin 4)) (old new : Cells) {j : Nat} (hj : j < 1024) :
    (InRows band j → (putRows (bandRows band).1 (bandRows band).2 old new).getD j 0 = new.getD j 0)
      ∧ (¬ InRows band j → (putRows (bandRows band).1 (bandRows band).2 old new).getD j 0 = old.getD j 0) := by
  rw [inRows_iff band hj, putRows, getD_tab hj]
  exact ⟨fun h => if_pos h, fun h => if_neg h⟩

/-- A fill of rows of a bank, as it is noted; a drain adds its register and its cells (R148). -/
def fillOf (s : State) (band : Option (Fin 4)) (p : Nat) : Drain :=
  { bank := p, row0 := (bandRows band).1, rows := (bandRows band).2, v := 0, serial := s.nextId, left := 0, stored := [] }

/-- A drain noted, those left out that stand before all that the M stream has seen of its banks (R148). -/
def noteDrain (d : Drain) (u : Task) : Task :=
  { u with drains := u.drains.filter (fun x => decide (u.mseen ≤ x.serial) || !(heldBanks u).contains x.bank) ++ [d] }

/-- What VACVT with some new cells leaves: the clauses of R122, R145 and R146. -/
def Drained (s : State) (t : Task) (o : VAcc VReg) (i : Instr) (new : Nat → Word32) (accu : Bool) : Prop :=
  ∃ s' t' f, exec i s = .next s' ∧ s'.curTask = some t'
    ∧ (∀ j, j < 1024 → InRows o.band j → (t'.vreg o.v.val).getD j 0 = new j)
    ∧ (∀ j, j < 1024 → ¬ InRows o.band j → (t'.vreg o.v.val).getD j 0 = (t.vreg o.v.val).getD j 0)
    ∧ (∀ m, m ≠ o.v.val → t'.vreg m = t.vreg m) ∧ t'.empty = t.empty ∧ t'.status = t.status ∧ t'.s = t.s ∧ t'.q = t.q
    ∧ t'.fly = t.fly ++ [f] ∧ f.dst = .v o.v.val ∧ f.old = .cells (t.vreg o.v.val)
    ∧ (t.fly = [] → f.vis = s.cyc + 24)
    ∧ (∀ cyc : Word64, f.vis.toNat ≤ cyc.toNat → t.stopped = false → t.saving = none →
        o.v.val ∉ (t'.land cyc).empty ∧ (accu = true → (t'.land cyc).status.getLsbD 0 = true))
    ∧ (∀ c, (s'.core c).banks = (s.core c).banks) ∧ s'.mem = s.mem ∧ s'.memKey = s.memKey

/-- A task that differs from one with a drain's result by its list of drains and its streams alone. -/
theorem drained_of_but {s s0 s' : State} {t t' : Task} {o : VAcc VReg} {i : Instr} {mask : BitVec 1024} {cells : Cells} {new : Nat → Word32}
    {accu : Bool} (hi : exec i s = .next s') (ht : s'.curTask = some t') (hone : OneTask s0 s') (hcores : s0.cores = s.cores)
    (hmem : s0.mem = s.mem) (hkey : s0.memKey = s.memKey)
    (hbut : { t' with drains := t.drains, strm := t.strm }
      = { withDrain o mask s.cyc accu (t.vreg o.v.val) cells t with drains := t.drains, strm := t.strm })
    (hc : ∀ j, j < 1024 → cells.getD j 0 = new j) : Drained s t o i new accu := by
  obtain ⟨f, hfly, hdst, hold, hvis⟩ := fly_vis (t.setV o.v.val mask (putRows (bandRows o.band).1 (bandRows o.band).2 (t.vreg o.v.val) cells))
    (.v o.v.val) (.cells (t.vreg o.v.val)) s.cyc 24 accu
  have haccu : f.accu = accu := by
    have := congrArg (fun l : List VFly => l.getLast?.map VFly.accu) hfly
    simpa [Task.flying] using this.symm
  have hvreg : ∀ m, t'.vreg m = if m = o.v.val then putRows (bandRows o.band).1 (bandRows o.band).2 (t.vreg o.v.val) cells else t.vreg m :=
    fun m => (congrArg (fun u : Task => u.vreg m) hbut :).trans (vreg_setV t o.v.val m mask _)
  have hfly' : t'.fly = t.fly ++ [f] := (congrArg Task.fly hbut :).trans hfly
  refine ⟨s', t', f, hi, ht, fun j hj hin => ?_, fun j hj hout => ?_, fun m hm => ?_, (congrArg Task.empty hbut :),
    (congrArg Task.status hbut :), (congrArg Task.s hbut :), (congrArg Task.q hbut :), hfly', hdst, hold, hvis, fun cyc hle hs hv => ?_,
    fun c => ?_, hone.mem.trans hmem, hone.memKey.trans hkey⟩
  · rw [hvreg, if_pos rfl, (getD_putRows o.band _ _ hj).1 hin, hc j hj]
  · rw [hvreg, if_pos rfl, (getD_putRows o.band _ _ hj).2 hout]
  · rw [hvreg, if_neg hm]
  · obtain ⟨hempty, hstatus⟩ := land_result (t := t') (f := f) (by rw [hfly']; exact List.mem_append_right _ (List.mem_singleton_self f))
      hle ((congrArg Task.stopped hbut :).trans hs) ((congrArg Task.saving hbut :).trans hv)
    exact ⟨hempty _ hdst, haccu ▸ hstatus⟩
  · rw [hone.banks, State.core, hcores, State.core]

section
variable {s : State} {t : Task} {o : VAcc VReg} (h : VecCan s t [] [o.v.val]) (rm : RMode)
include h

/-- A bank that is not allocated drains as zeros, and its result sets STATUS bit 0 (R147). -/
theorem vacvt_unallocated (hp : t.phys o.bank.val = none) (ha : t.eff.accu = false) : Drained s t o (.vacvt o rm) (fun _ => 0) true := by
  let mask := maskOf (fun i => decide ((bandRows o.band).1 ≤ i / 64 ∧ i / 64 < (bandRows o.band).1 + (bandRows o.band).2))
  let write := withDrain o mask s.cyc true (t.vreg o.v.val) zeroCells
  have hi : exec (.vacvt o rm) s = .next ((s.modCur write).vDone (bandCharge o.band) 3) := by
    refine (vecIssue_passes h (by simp) _).trans (congrArg Host.Outcome.next ?_)
    simp only [hp, ha, Bool.false_eq_true, if_false]
    rfl
  exact drained_of_but hi (curTask_vDone (curTask_modCur h.1 write) ..) (((OneTask.refl s).modCur write).vDone ..) rfl rfl rfl rfl
    fun j hj => getD_replicate hj ..

/-- A bank whose bands the slot owns, ordered before the stream, drains as its elements converted (R146, R148). -/
theorem vacvt_owned {p : Nat} (hp : t.phys o.bank.val = some p)
    (howns : ownsBands (s.curCore.bank p) s.cur.slot.val o.band = true) (hord : t.vOrdered p = true)
    (hlen : (s.curCore.bank p).els.length = 1024) : Drained s t o (.vacvt o rm)
      (fun j => drainCell o.ty rm (anchorOf (s.curCore.bank p)) ((s.curCore.bank p).els.getD j zeroElem)) false := by
  let mask := maskOf (fun i => decide ((bandRows o.band).1 ≤ i / 64 ∧ i / 64 < (bandRows o.band).1 + (bandRows o.band).2))
  let s0 : State := ({ s with free := s.free + 1024 } : State).fresh
  let write := withDrain o mask s.cyc false (t.vreg o.v.val)
    ((s.curCore.bank p).els.map (drainCell o.ty rm (anchorOf (s.curCore.bank p))))
  let note := noteDrain { fillOf s o.band p with v := o.v.val, left := mask }
  have hi : exec (.vacvt o rm) s = .next (((s0.modCur write).modCur note).vDone (bandCharge o.band) 3) := by
    refine (vecIssue_passes h (by simp) _).trans (congrArg Host.Outcome.next ?_)
    simp only [hp, howns, hord, Bool.not_true, Bool.false_eq_true, if_false, if_true]
    rw [fresh_modCur]
    rfl
  have ht0 : s0.curTask = some t := h.1
  exact drained_of_but hi (curTask_vDone (curTask_modCur (curTask_modCur ht0 write) note) ..)
    ((((OneTask.refl s0).modCur write).modCur note).vDone ..) rfl rfl rfl rfl fun j hj => getD_map (by rwa [hlen]) ..

/-- An accurate region traps on a bank that is not allocated (R147). -/
theorem vacvt_accurate (hp : t.phys o.bank.val = none) (ha : t.eff.accu = true) :
    exec (.vacvt o rm) s = .next (s.takeFault fAccUnalloc 0) := by
  refine (vecIssue_passes h (by simp) _).trans (congrArg Host.Outcome.next ?_)
  simp only [hp, ha, if_true]

theorem vacvt_not_owned {p : Nat} (hp : t.phys o.bank.val = some p)
    (howns : ownsBands (s.curCore.bank p) s.cur.slot.val o.band = false) : exec (.vacvt o rm) s = .next (s.takeFault fAccBand 0) := by
  refine (vecIssue_passes h (by simp) _).trans (congrArg Host.Outcome.next ?_)
  simp only [hp, howns, Bool.not_false, if_true]

end

/-! ## Fills (R146, R148) -/

theorem mfind_map {α β : Type} (f : α → β) (k : Nat) (m : SMap α) : mfind k (m.map (fun p => (p.1, f p.2))) = (mfind k m).map f := by
  induction m with
  | nil => rfl
  | cons p m ih =>
    rw [List.map_cons, mfind, mfind]
    split
    · rfl
    · exact ih

/-- The changes that the M streams of a core have still to make, changed by a rule. -/
def withChanges (g : Pending → Pending) (k : Core) : Core :=
  { k with slots := k.slots.map (fun u => (u.1, { u.2 with mq := u.2.mq.map g })) }

theorem curTask_withChanges {s : State} {t : Task} (h : s.curTask = some t) (g : Pending → Pending) :
    (s.modCore s.cur.core.val (withChanges g)).curTask = some { t with mq := t.mq.map g } := by
  unfold State.curTask State.task? at h ⊢
  rw [modCore_cur, core_modCore_same]
  exact (mfind_map (fun u : Task => { u with mq := u.mq.map g }) _ _).trans (congrArg _ h)

theorem bank_modBank (s : State) (c p q : Nat) (f : Bank → Bank) :
    ((s.modBank c p f).core c).bank q = if q = p then f ((s.core c).bank p) else (s.core c).bank q := by
  unfold State.modBank
  rw [core_modCore_same]
  by_cases hq : q = p
  · subst hq
    rw [if_pos rfl]
    exact mget_mset_same ..
  · rw [if_neg hq]
    exact mget_mset_other hq ..

theorem curTask_modBank (s : State) (c p : Nat) (f : Bank → Bank) : (s.modBank c p f).curTask = s.curTask :=
  task_modCore rfl

theorem bank_of_banks {k k' : Core} (h : k'.banks = k.banks) (q : Nat) : k'.bank q = k.bank q := congrArg (mget q freshBank) h

/-- A fill keeps the elements of the rows that it does not name. -/
theorem els_bankFill (ty : ETy) (band : Option (Fin 4)) (cells : Cells) {b : Bank} (hlen : b.els.length = 1024) {j : Nat} (hj : j < 1024)
    (hout : ¬ InRows band j) :
    (bankFill ty (bandRows band).1 (bandRows band).2 cells b).els.getD j zeroElem = b.els.getD j zeroElem := by
  rw [inRows_iff band hj] at hout
  refine (getD_zipWith (d := zeroElem) (e := none) (by rwa [hlen]) (by rwa [length_tab]) ..).trans ?_
  rw [getD_tab hj, if_neg hout]

/-- A fill noted, as a drain is. -/
def noteFill (d : Drain) (u : Task) : Task := { u with bfills := u.bfills.filter (fun x => decide (u.mseen ≤ x.serial)) ++ [d] }

/-- A change to a bank that the V stream has not seen, noted as one that a fill of some rows may or may not keep (R148). -/
def mixedUnder (t : Task) (p : Nat) (rows : Nat × Nat) (free : Nat) (x : Pending) : Pending :=
  if x.bank = p && decide (mget p 0 t.vseen ≤ x.n) then { x with mix := x.mix ++ [(rows.1, rows.2, free)] } else x

/-- The device with the rows of a bank filled. -/
def filledBank (s : State) (t : Task) (o : VAcc VSrc) (p : Nat) : State :=
  (({ s with free := s.free + 1024 } : State).fresh.modCore s.cur.core.val
    (withChanges (mixedUnder t p (bandRows o.band) s.free))).modBank s.cur.core.val p
      (fun _ => bankFill o.ty (bandRows o.band).1 (bandRows o.band).2 (t.vsrc o.v) (s.curCore.bank p))

theorem curTask_filledBank {s : State} {t : Task} (h : s.curTask = some t) (o : VAcc VSrc) (p : Nat) :
    (filledBank s t o p).curTask = some { t with mq := t.mq.map (mixedUnder t p (bandRows o.band) s.free) } :=
  (curTask_modBank ..).trans (curTask_withChanges (s := ({ s with free := s.free + 1024 } : State).fresh) h _)

theorem bank_filledBank (s : State) (t : Task) (o : VAcc VSrc) (p q : Nat) :
    ((filledBank s t o p).core s.cur.core.val).bank q = if q = p then
      bankFill o.ty (bandRows o.band).1 (bandRows o.band).2 (t.vsrc o.v) (s.curCore.bank p) else s.curCore.bank q := by
  refine (bank_modBank ..).trans ?_
  rw [core_modCore_same]
  rfl

section
variable {s : State} {t : Task} {o : VAcc VSrc} (h : VecCan s t [o.v] [])
include h

/-- VAFIL of a bank whose bands the slot owns and whose changes the stream has all seen (R146, R148). -/
theorem exec_vafil_ordered {p : Nat} (hp : t.phys o.bank.val = some p)
    (howns : ownsBands (s.curCore.bank p) s.cur.slot.val o.band = true) (hlate : lateOn s s.cur.core.val t p = []) :
    exec (.vafil o) s = .next (((filledBank s t o p).modCur (noteFill (fillOf s o.band p))).vDone (bandCharge o.band) 3) := by
  refine (vecIssue_passes h (by simp) _).trans (congrArg Host.Outcome.next ?_)
  simp only [hp, howns, hlate, Bool.not_true, Bool.false_eq_true, if_false]
  rfl

theorem vafil_fills {p : Nat} (hp : t.phys o.bank.val = some p)
    (howns : ownsBands (s.curCore.bank p) s.cur.slot.val o.band = true) (hlate : lateOn s s.cur.core.val t p = []) :
    ∃ s' t', exec (.vafil o) s = .next s' ∧ s'.curTask = some t' ∧ t'.v = t.v ∧ t'.empty = t.empty
      ∧ (∀ q, (s'.core s.cur.core.val).bank q = if q = p then
          bankFill o.ty (bandRows o.band).1 (bandRows o.band).2 (t.vsrc o.v) (s.curCore.bank p) else s.curCore.bank q)
      ∧ s'.mem = s.mem := by
  have hone := (((OneTask.refl (filledBank s t o p)).modCur (noteFill (fillOf s o.band p))).vDone (bandCharge o.band) 3)
  exact ⟨_, _, exec_vafil_ordered h hp howns hlate, curTask_vDone (curTask_modCur (curTask_filledBank h.1 o p) _) .., rfl, rfl,
    fun q => (bank_of_banks (hone.banks _) q).trans (bank_filledBank ..), hone.mem⟩

theorem vafil_unallocated (hp : t.phys o.bank.val = none) : exec (.vafil o) s = .next (s.takeFault fAccUnalloc 0) := by
  refine (vecIssue_passes h (by simp) _).trans (congrArg Host.Outcome.next ?_)
  simp only [hp]

end

/-- Settles O34: VACVT by what it leaves in its register and when that lands, VAFIL by the bank that it fills. -/
theorem accumulatorDrainsAndFills : Obligations.AccumulatorDrainsAndFills := by
  unfold Obligations.AccumulatorDrainsAndFills
  intro s t _ _
  refine ⟨fun o h rm => ⟨fun p hp howns hord hlen => vacvt_owned h rm hp howns hord hlen, fun hp ha => vacvt_unallocated h rm hp ha,
    fun hp ha => vacvt_accurate h rm hp ha, fun p hp howns => vacvt_not_owned h rm hp howns⟩,
    fun o h => ⟨fun p hp howns hlate hlen => ?_, vafil_unallocated h⟩⟩
  obtain ⟨s', t', hi, ht, hv, hempty, hbank, hmem⟩ := vafil_fills h hp howns hlate
  have hfilled := (hbank p).trans (if_pos rfl)
  refine ⟨s', t', hi, ht, hv, hempty, ⟨hfilled, (congrArg Bank.rule hfilled).trans rfl, fun j hj hout => ?_⟩, fun q hq => (hbank q).trans (if_neg hq),
    hmem⟩
  rw [hfilled]
  exact els_bankFill o.ty o.band (t.vsrc o.v) hlen hj hout

end Sys2Proof.VectorBanks
end

section
/-!
PROOFS. What tile messages, fills and evictions leave (spec/12 R297 to R305, spec/21 R410, R421): lines, pins, latches, messages and
flits may change; no task, no stream's turn and no byte of memory does.
-/

namespace Sys2Proof.TileTraffic
open Sys2Proof Sys2Proof.Machine Sys2Proof.Laws Sys2Proof.Traffic Sys2Proof.VectorIssue

/-- Every task, the turn and memory are as before. -/
structure SameTasks (s s' : State) : Prop where
  tasks : ∀ b l, s'.task? b l = s.task? b l
  cur : s'.cur = s.cur
  mem : s'.mem = s.mem

namespace SameTasks
variable {s s' s'' : State}

theorem refl (s : State) : SameTasks s s := ⟨fun _ _ => rfl, rfl, rfl⟩

theorem trans (h : SameTasks s s') (h' : SameTasks s' s'') : SameTasks s s'' :=
  ⟨fun b l => (h'.tasks b l).trans (h.tasks b l), h'.cur.trans h.cur, h'.mem.trans h.mem⟩

theorem of_traffic (h : OnlyTraffic s s') : SameTasks s s' := ⟨h.tasks, h.cur, (congrArg State.mem h.rest :)⟩

theorem curTask (h : SameTasks s s') : s'.curTask = s.curTask := by
  unfold State.curTask
  rw [h.cur, h.tasks]

theorem modDie (s : State) (d : Nat) (f : Die → Die) : SameTasks s (s.modDie d f) := ⟨fun _ _ => rfl, rfl, rfl⟩

theorem modCore (s : State) (c : Nat) {f : Core → Core} (h : ∀ k, (f k).slots = k.slots) : SameTasks s (s.modCore c f) :=
  of_traffic (OnlyTraffic.modCore s c h)

theorem each {α : Type} {f : α → State → State} (hf : ∀ a x, SameTasks x (f a x)) (l : List α) (s : State) :
    SameTasks s (each l f s) :=
  each_keeps (SameTasks s) f (fun a x h => h.trans (hf a x)) l s (refl s)

theorem ite {x y : State} {p : Prop} [Decidable p] (hx : SameTasks s x) (hy : SameTasks s y) : SameTasks s (if p then x else y) := by
  split
  · exact hx
  · exact hy

theorem ite_fst {α : Type} {x y : State × α} {p : Prop} [Decidable p] (hx : SameTasks s x.1) (hy : SameTasks s y.1) :
    SameTasks s (if p then x else y).1 := by
  split
  · exact hx
  · exact hy

end SameTasks

open SameTasks

/-! ## Messages (R304, R410, R421) -/

theorem sameTasks_tell (s : State) (m : TMsg) : SameTasks s (s.tell m) := by
  unfold State.tell
  extract_lets s'
  repeat' split
  all_goals exact ⟨fun _ _ => rfl, rfl, rfl⟩

theorem sameTasks_addRop (s : State) (op : RemoteOp) (cap : Nat) : SameTasks s (s.addRop op cap) := by
  unfold State.addRop
  extract_lets id s'
  split
  all_goals exact ⟨fun _ _ => rfl, rfl, rfl⟩

theorem sameTasks_askP (s : State) (c : Nat) (t : Task) (g : TTag) (desc : List Byte) (r : TReader) :
    SameTasks s (s.askP c t g desc r).1 :=
  ite_fst (sameTasks_tell ..) ((sameTasks_tell ..).trans (sameTasks_addRop ..))

/-! ## Lines that leave (R300, R301, R303) -/

theorem sameTasks_modLine (s : State) (die way : Nat) (f : TLine → TLine) : SameTasks s (s.modLine die way f) := modDie ..

theorem sameTasks_unlatch (s : State) (die : Nat) (g : TTag) : SameTasks s (s.unlatch die g) := by
  unfold State.unlatch
  refine SameTasks.each (fun c x => ?_) _ s
  exact modCore x c.1 fun _ => rfl

theorem sameTasks_removeLine (s : State) (die way : Nat) (l : TLine) : SameTasks s (s.removeLine die way l) := by
  unfold State.removeLine
  refine ((modDie s die _).trans (sameTasks_unlatch ..)).trans (SameTasks.each (fun c x => ?_) _ _)
  exact modCore x c.1 fun _ => rfl

theorem sameTasks_dropLine (s : State) (die way : Nat) (l : TLine) : SameTasks s (s.dropLine die way l) :=
  SameTasks.ite ((sameTasks_removeLine ..).trans (sameTasks_tell ..)) (sameTasks_removeLine ..)

theorem sameTasks_beginWb (s : State) (m : TMsg) (ver : Nat) : SameTasks s (s.beginWb m ver) := by
  unfold State.beginWb
  extract_lets s'
  split
  · exact sameTasks_tell ..
  · exact (sameTasks_tell ..).trans (sameTasks_addRop ..)

theorem sameTasks_evict (s : State) (die way : Nat) (l : TLine) (uid : Nat) : SameTasks s (s.evict die way l uid).1 :=
  ite_fst ((sameTasks_removeLine ..).trans (sameTasks_beginWb ..)) (sameTasks_dropLine ..)

theorem sameTasks_victim {s s' : State} {die : Nat} {cs : List (Nat × TLine)} {p : Nat × TLine}
    (h : s.victim die cs = some (s', p)) : SameTasks s s' := by
  obtain ⟨_, _, hp⟩ := Option.map_eq_some_iff.mp h
  cases hp
  exact SameTasks.each (fun _ _ => sameTasks_modLine ..) _ s

/-! ## Fills (R298, R300, R304) -/

theorem sameTasks_findWay (s : State) (c : Nat) (t : Task) (g : TTag) : SameTasks s (s.findWay c t g).1 := by
  unfold State.findWay
  extract_lets die _ _ _ _ _ _ s1 forget wayStep
  have hforget : ∀ x, SameTasks x (forget x) := fun x => modDie ..
  have hway : ∀ x, SameTasks x (wayStep x).1 := by
    intro x
    unfold wayStep
    split
    · exact hforget x
    · split
      · exact refl x
      · rename_i x' i l hv
        exact ((sameTasks_victim hv).trans (sameTasks_evict x' die i l t.uid)).trans (hforget _)
  have h1 : SameTasks s s1 := modDie ..
  refine ite_fst ?_ (h1.trans (hway s1))
  split
  · exact h1
  · rename_i x' i l hv
    have h2 := (h1.trans (sameTasks_victim hv)).trans (sameTasks_evict x' die i l t.uid)
    exact ite_fst h2 ((h2.trans (modDie ..)).trans (hway _))

theorem sameTasks_sendFill (s : State) (id : Nat) : SameTasks s (s.sendFill id) := by
  unfold State.sendFill
  split
  · exact refl s
  · extract_lets s1 d
    have h1 : SameTasks s s1 := ⟨fun _ _ => rfl, rfl, rfl⟩
    split
    · exact h1.trans (sameTasks_tell ..)
    · exact h1.trans (sameTasks_addRop ..)

theorem sameTasks_startFill (s : State) (c : Nat) (t : Task) (g : TTag) (desc : List Byte) (need : TNeed) (way : Nat) (wbs : List Nat)
    (hold : Bool) : SameTasks s (s.startFill c t g desc need way wbs hold) := by
  unfold State.startFill
  extract_lets f id _ s1
  have h0 : SameTasks s { s.fresh with tfills := mset id f s.tfills } := ⟨fun _ _ => rfl, rfl, rfl⟩
  have h1 : SameTasks s s1 := h0.trans (of_traffic (OnlyTraffic.takeEntry ..))
  exact SameTasks.ite h1 (h1.trans (sameTasks_sendFill ..))

theorem sameTasks_missTile (s : State) (c : Nat) (t : Task) (g : TTag) (desc : List Byte) (need : TNeed) (inPlace : Option Nat) :
    SameTasks s (s.missTile c t g desc need inPlace).1 := by
  unfold State.missTile
  extract_lets die
  refine ite_fst (refl s) ?_
  split
  · split
    · exact refl s
    · have h := sameTasks_unlatch s die g
      exact ((SameTasks.ite (h.trans (sameTasks_beginWb ..)) h).trans (sameTasks_modLine ..)).trans (sameTasks_startFill ..)
  · split
    · exact sameTasks_findWay ..
    · dsimp only
      exact ((sameTasks_findWay ..).trans (modDie ..)).trans (sameTasks_startFill ..)

/-! ## Reads (R206, R299, R340) -/

theorem onlyTraffic_addPin (s : State) (c slot : Nat) (t : Task) (way : Nat) (l : TLine) : OnlyTraffic s (s.addPin c slot t way l).1 := by
  unfold State.addPin
  split
  · exact OnlyTraffic.modCore s c (f := fun k => { k with pins := bumpPin slot l.tag k.pins }) fun _ => rfl
  · exact OnlyTraffic.refl s

theorem sameTasks_acquireTile (s : State) (c : Nat) (t : Task) (l : TLine) : SameTasks s (s.acquireTile c t l) :=
  of_traffic (CoreLines.onlyTraffic_acquireAt ..)

/-! ## The issuing task on its way -/

/-- What the issuing task has become; the turn and memory are as before. -/
structure Reached (s s' : State) (u : Task) : Prop where
  task : s'.curTask = some u
  cur : s'.cur = s.cur
  mem : s'.mem = s.mem

namespace Reached
variable {s s' s'' : State} {u : Task}

theorem around (h : Reached s s' u) (h' : SameTasks s' s'') : Reached s s'' u :=
  ⟨h'.curTask.trans h.task, h'.cur.trans h.cur, h'.mem.trans h.mem⟩

theorem modCur (h : Reached s s' u) (f : Task → Task) : Reached s (s'.modCur f) (f u) :=
  ⟨curTask_modCur h.task f, (modTask_cur ..).trans h.cur, (modTask_mem ..).trans h.mem⟩

theorem modTask (h : Reached s s' u) (f : Task → Task) : Reached s (s'.modTask s.cur.core.val s.cur.slot.val f) (f u) := by
  have h1 := h.modCur f
  unfold State.modCur at h1
  rwa [h.cur] at h1

theorem vDone (h : Reached s s' u) (ch n : Nat) : Reached s (s'.vDone ch n) (u.modSt s.cur.stream (fun x => x.advance n)) :=
  have hone := (OneTask.refl s').vDone ch n
  ⟨h.cur ▸ curTask_vDone h.task ch n, hone.cur.trans h.cur, hone.mem.trans h.mem⟩

/-- A read of an accepted line by the issuing task records its version, where it is to be noted (R297). -/
theorem readTile (h : Reached s s' u) (t : Task) (w : Nat) (l : TLine) (need : TNeed) (hit note : Bool) :
    Reached s (s'.readTile s.cur.core.val s.cur.slot.val t w l need hit note) (if note then u.noteTile l.tag l.ver else u) := by
  have h1 := h.around (sameTasks_modLine s' (dieOf s.cur.core.val) w (fun l => l.read need hit s'.cyc))
  have h2 := h1.around (SameTasks.ite (p := need.hint = .pin) (of_traffic (onlyTraffic_addPin _ s.cur.core.val s.cur.slot.val t w l))
    (SameTasks.refl _))
  unfold State.readTile
  cases note
  · exact h2.around (sameTasks_acquireTile ..)
  · exact (h2.modTask fun u => u.noteTile l.tag l.ver).around (sameTasks_acquireTile ..)

end Reached

end Sys2Proof.TileTraffic
end

section
/-!
PROOFS. VTLD and VTST (spec/05 R142 to R144, spec/12 R297, R298, R302): what the lookup of a tile gives the issuing task, and the line
into which a store is merged.
-/

namespace Sys2Proof.TileAccesses
open Sys2Proof Sys2Proof.Machine Sys2Proof.Laws Sys2Proof.Claim Sys2Proof.VectorIssue Sys2Proof.VectorCells Sys2Proof.TileTraffic

/-! ## Versions recorded (R297) -/

/-- The version recorded last is the one that the task has observed. -/
theorem seen_noteTile (t : Task) (g : TTag) (v : Nat) : (t.noteTile g v).seen g = some v := by
  have hfind : ∀ l : List (TTag × Nat), (∀ e ∈ l, e.1 ≠ g) → ((l ++ [(g, v)]).find? (fun e => e.1 = g)).map (·.2) = some v := by
    intro l hl
    have hnone : l.find? (fun e => decide (e.1 = g)) = none := List.find?_eq_none.2 fun e he => by simpa using hl e he
    rw [List.find?_append, hnone, Option.none_or, List.find?_cons_of_pos (by simp)]
    rfl
  have hall : ∀ e ∈ t.obs.filter (fun e => e.1 ≠ g), e.1 ≠ g := fun e he => of_decide_eq_true (List.mem_filter.1 he).2
  unfold Task.noteTile Task.seen
  dsimp only
  split
  case isTrue hlong =>
    have hpos : 0 < (t.obs.filter (fun e => e.1 ≠ g)).length := by
      rw [List.length_append, List.length_singleton] at hlong
      omega
    dsimp only
    rw [List.drop_append_of_le_length hpos]
    exact hfind _ fun e he => hall e (List.mem_of_mem_drop he)
  case isFalse => exact hfind _ hall

theorem noteTile_but (t : Task) (g : TTag) (v : Nat) : { t.noteTile g v with obs := t.obs, ovf := t.ovf } = t := by
  unfold Task.noteTile
  dsimp only
  split
  all_goals rfl

/-- The line that a lookup hits is the tile's. -/
theorem tag_of_hit {s : State} {die : Nat} {t : Task} {g : TTag} {need : TNeed} {p : Option Nat} {w : Nat} {l : TLine}
    (h : lookTile s die t g need p = .hit w l) : l.tag = g := by
  unfold lookTile at h
  split at h
  · cases h
  · rename_i w' l' hline
    have htag : l'.tag = g := by simpa using List.find?_some hline
    split at h
    · cases h
    · split at h
      · cases h
        exact htag
      · cases h
      · cases h

theorem lookTile_congr {s s' : State} (h : s'.dies = s.dies) (die : Nat) (t : Task) (g : TTag) (need : TNeed) (p : Option Nat) :
    lookTile s' die t g need p = lookTile s die t g need p := by
  unfold lookTile State.line? State.die
  rw [h]

/-! ## What of the task stays -/

/-- All that a tile access changes of a task before its stream moves on. -/
def ButTile (t u : Task) : Prop :=
  { u with empty := t.empty, fills := t.fills, stores := t.stores, drains := t.drains, obs := t.obs, ovf := t.ovf, itin := t.itin } = t

namespace ButTile
variable {t u : Task}

theorem noteTile (h : ButTile t u) (g : TTag) (v : Nat) : ButTile t (u.noteTile g v) := by
  unfold ButTile at h ⊢
  have h1 := congrArg (fun x : Task => { x with empty := t.empty, fills := t.fills, stores := t.stores, drains := t.drains,
                                                obs := t.obs, ovf := t.ovf, itin := t.itin }) (noteTile_but u g v)
  exact Eq.trans h1 h

theorem consume (h : ButTile t u) (g : TTag) : ButTile t (u.consume g) := h

theorem readyFill (h : ButTile t u) (id : Nat) (cells : Cells) : ButTile t (u.readyFill id cells) := h

theorem stores (h : ButTile t u) (l : List VStore) : ButTile t { u with stores := l } := h

/-- A task that has moved on after a tile access: the fields that `TileLoadsAndStores` lists. -/
theorem kept (h : ButTile t u) :
    let t' := u.modSt .v (fun x => x.advance 3)
    t'.s = t.s ∧ t'.q = t.q ∧ t'.v = t.v ∧ t'.k = t.k ∧ t'.areg = t.areg ∧ t'.status = t.status
      ∧ t'.bmap = t.bmap ∧ t'.mq = t.mq ∧ t'.tslot = t.tslot ∧ t'.st .v = (t.st .v).advance 3 := by
  unfold ButTile at h
  refine ⟨(congrArg Task.s h :), (congrArg Task.q h :), (congrArg Task.v h :), (congrArg Task.k h :), (congrArg Task.areg h :),
    (congrArg Task.status h :), (congrArg Task.bmap h :), (congrArg Task.mq h :), (congrArg Task.tslot h :), ?_⟩
  rw [st_modSt_same]
  exact (congrArg (fun x : Task => (x.st .v).advance 3) h :)

end ButTile

/-! ## Loads (R143) -/

/-- The tile that an access names (R142). -/
def tagOf {α : Type} (t : Task) (o : VTile α) (b : List Byte) : TTag := tileTag t (readDesc b) (t.a .v o.coord.val)

/-- What an access asks of its line (R142). -/
def needBy {α : Type} (t : Task) (o : VTile α) (b : List Byte) : TNeed := needOf t (readDesc b) o.slot.val o.xv o.hint o.rd.val

/-- VTLD passes its checks: an existing sub-block, pages that it may read, no stall. -/
structure LoadCan (s : State) (t : Task) (o : VTile VReg) (b : List Byte) : Prop where
  can : VecCan s t [] [o.v.val]
  desc : t.desc o.slot.val = some b
  sub : o.sub.val < subBlocks (tyOf (readDesc b).ty)
  pages : ∃ pg, tilePages s t (readDesc b) (footPages (readDesc b) (tagOf t o b)) .read = .ok pg
  stall : tileStall s t (tagOf t o b) (needBy t o b) = false
  dev : vDevOpen s t = false

section
variable {s : State} {t : Task} {o : VTile VReg} {b : List Byte}

/-- The fill that VTLD begins. -/
def tileFill (s : State) (t : Task) (o : VTile VReg) (b : List Byte) : FillKind :=
  .tile s.nextId (tagOf t o b) b (needBy t o b) o.sub.val (t.kreg o.k.val)

/-- A task whose register waits for a tile. -/
def awaitingTile (n : Nat) (o : VTile VReg) (k : FillKind) (u : Task) : Task := u.beginFill n o.v.val (u.st .v).blkId (u.st .v).pc k

theorem butTile_awaitingTile (n : Nat) (o : VTile VReg) (k : FillKind) (u : Task) : ButTile u (awaitingTile n o k u) := rfl

theorem mem_empty_awaitingTile (n : Nat) (o : VTile VReg) (k : FillKind) (u : Task) : o.v.val ∈ (awaitingTile n o k u).empty :=
  (VectorLoads.mem_ladd ..).2 (.inl rfl)

/-- A task whose lookup hits: the line's version recorded, an itinerary past it, the fill ready with the line's cells. -/
def loadHit (id : Nat) (g : TTag) (l : TLine) (cells : Cells) (u : Task) : Task := ((u.noteTile l.tag l.ver).consume g).readyFill id cells

theorem butTile_loadHit (h : ButTile t u) (id : Nat) (g : TTag) (l : TLine) (cells : Cells) : ButTile t (loadHit id g l cells u) :=
  ((h.noteTile l.tag l.ver).consume g).readyFill id cells

theorem empty_loadHit (id : Nat) (g : TTag) (l : TLine) (cells : Cells) (u : Task) : (loadHit id g l cells u).empty = u.empty := by
  have h : (u.noteTile l.tag l.ver).empty = u.empty := (congrArg Task.empty (noteTile_but u l.tag l.ver) :)
  exact h

theorem seen_loadHit (id : Nat) (l : TLine) (cells : Cells) (u : Task) : (loadHit id l.tag l cells u).seen l.tag = some l.ver := by
  have h := seen_noteTile u l.tag l.ver
  exact h

/-- The fill just begun is the one that the line makes ready. -/
theorem ready_of_loadHit (n : Nat) (o : VTile VReg) (g : TTag) (b : List Byte) (need : TNeed) (mask : BitVec 1024) (l : TLine)
    (cells : Cells) (t : Task) :
    ∃ f ∈ (loadHit n g l cells (awaitingTile n o (.tile n g b need o.sub.val mask) t)).fills, f.v = o.v.val ∧ f.kind = .ready cells mask := by
  let u := awaitingTile n o (.tile n g b need o.sub.val mask) t
  have hfills : (u.noteTile l.tag l.ver).fills = u.fills := (congrArg Task.fills (noteTile_but u l.tag l.ver) :)
  unfold loadHit Task.readyFill Task.consume
  dsimp only
  rw [hfills]
  refine ⟨_, List.mem_map_of_mem (List.mem_append_right _ (List.mem_singleton_self _)), ?_⟩
  simp only [if_true, and_self]

/-- The issuing task with its fill begun. -/
def loadIssued (s : State) (t : Task) (o : VTile VReg) (b : List Byte) : State :=
  s.fresh.modCur (awaitingTile s.nextId o (tileFill s t o b))

theorem cur_loadIssued (s : State) (t : Task) (o : VTile VReg) (b : List Byte) : (loadIssued s t o b).cur = s.cur := modTask_cur ..

theorem reached_loadIssued (h : s.curTask = some t) (o : VTile VReg) (b : List Byte) :
    Reached s (loadIssued s t o b) (awaitingTile s.nextId o (tileFill s t o b) t) := by
  have hfresh : Reached s s.fresh t := ⟨h, rfl, rfl⟩
  exact hfresh.modCur _

theorem lookTile_loadIssued (s : State) (t : Task) (o : VTile VReg) (b : List Byte) (g : TTag) (need : TNeed) :
    lookTile (loadIssued s t o b) (dieOf s.cur.core.val) t g need none = lookTile s s.curDie t g need none :=
  lookTile_congr (modTask_dies ..) ..

/-- VTLD that passes its checks: its fill begun, its lookup made unless an earlier access of the task waits for the tile. -/
theorem exec_vtld (h : LoadCan s t o b) :
    exec (.vtld o) s = .next ((if tileWaits t (tagOf t o b) then loadIssued s t o b
      else (loadIssued s t o b).vtldLook s.cur.core.val s.cur.slot.val t s.nextId (tagOf t o b) b (needBy t o b) o.sub.val none).vDone
        vCharge 3) := by
  obtain ⟨hcan, hb, hsub, ⟨pg, hpg⟩, hstall, hdev⟩ := h
  unfold tagOf needBy at hstall
  unfold tagOf at hpg
  refine (vecIssue_passes hcan (by simp) _).trans (congrArg Host.Outcome.next ?_)
  rw [← cur_loadIssued s t o b]
  simp only [hb, hpg, hstall, hdev, if_neg (Nat.not_le.2 hsub), Bool.false_eq_true, if_false]
  rfl

/-- A lookup that hits reads the line, records its version and makes the fill ready (R143, R297, R298). -/
theorem vtldLook_hit {s1 : State} {c slot id sub : Nat} {g : TTag} {desc : List Byte} {need : TNeed} {w : Nat} {l : TLine}
    (h : lookTile s1 (dieOf c) t g need none = .hit w l) :
    s1.vtldLook c slot t id g desc need sub none
      = (s1.readTile c slot t w l need (!(t.fillWaited id)) true).modTask c slot (fun u =>
          (u.consume g).readyFill id (tileCells (readDesc desc) l.data sub)) := by
  unfold State.vtldLook
  rw [h]

/-- Any other lookup changes no task (R298). -/
theorem sameTasks_vtldLook {s1 : State} {c slot id sub : Nat} {g : TTag} {desc : List Byte} {need : TNeed}
    (h : ∀ w l, lookTile s1 (dieOf c) t g need none ≠ .hit w l) :
    SameTasks s1 (s1.vtldLook c slot t id g desc need sub none) := by
  unfold State.vtldLook
  split
  · next w l hl => exact absurd hl (h w l)
  · exact SameTasks.refl s1
  · exact sameTasks_missTile ..
  · exact sameTasks_askP ..

/-- VTLD whose lookup hits: the version recorded, the register waiting for its fill, which is ready (R143). -/
theorem exec_vtld_hit (h : LoadCan s t o b) (hv : s.cur.stream = .v) (hwait : tileWaits t (tagOf t o b) = false) {w : Nat} {l : TLine}
    (hit : lookTile s s.curDie t (tagOf t o b) (needBy t o b) none = .hit w l) :
    ∃ s' u, exec (.vtld o) s = .next s' ∧ Reached s s' (u.modSt .v (fun x => x.advance 3)) ∧ ButTile t u ∧ o.v.val ∈ u.empty
      ∧ u.seen (tagOf t o b) = some l.ver
      ∧ ∃ f ∈ u.fills, f.v = o.v.val ∧ f.kind = .ready (tileCells (readDesc b) l.data o.sub.val) (t.kreg o.k.val) := by
  have hissue := exec_vtld h
  rw [hwait, if_neg Bool.false_ne_true, vtldLook_hit ((lookTile_loadIssued ..).trans hit)] at hissue
  have hread := (reached_loadIssued h.can.1 o b).readTile t w l (needBy t o b) (!(t.fillWaited s.nextId)) true
  have hdone := (hread.modTask fun u => (u.consume (tagOf t o b)).readyFill s.nextId (tileCells (readDesc b) l.data o.sub.val)).vDone vCharge 3
  rw [hv] at hdone
  refine ⟨_, loadHit s.nextId (tagOf t o b) l (tileCells (readDesc b) l.data o.sub.val) (awaitingTile s.nextId o (tileFill s t o b) t),
    hissue, hdone, butTile_loadHit (butTile_awaitingTile ..) .., ?_, ?_, ready_of_loadHit ..⟩
  · exact empty_loadHit _ _ _ _ (awaitingTile s.nextId o (tileFill s t o b) t) ▸ mem_empty_awaitingTile ..
  · exact tag_of_hit hit ▸ seen_loadHit ..

/-- VTLD that finds no such line, or stands behind an earlier access to the tile: its fill waits for the tile (R143, R298). -/
theorem exec_vtld_waits (h : LoadCan s t o b) (hv : s.cur.stream = .v)
    (hwait : tileWaits t (tagOf t o b) = true ∨ ∀ w l, lookTile s s.curDie t (tagOf t o b) (needBy t o b) none ≠ .hit w l) :
    ∃ s', exec (.vtld o) s = .next s'
      ∧ Reached s s' ((awaitingTile s.nextId o (tileFill s t o b) t).modSt .v (fun x => x.advance 3)) := by
  have hreached := reached_loadIssued h.can.1 o b
  refine ⟨_, exec_vtld h, hv ▸ Reached.vDone ?_ vCharge 3⟩
  rcases hwait with hwait | hmiss
  · rw [if_pos hwait]
    exact hreached
  · refine hreached.around (SameTasks.ite (SameTasks.refl _) (sameTasks_vtldLook fun w l => ?_))
    rw [lookTile_loadIssued]
    exact hmiss w l

end

/-! ## The line of a store (R144, R302) -/

/-- Every tarn is as before. -/
structure SameTarns (s s' : State) : Prop where
  tarn : ∀ d, (s'.die d).tarn = (s.die d).tarn

namespace SameTarns
variable {s s' s'' : State}

theorem refl (s : State) : SameTarns s s := ⟨fun _ => rfl⟩

theorem trans (h : SameTarns s s') (h' : SameTarns s' s'') : SameTarns s s'' := ⟨fun d => (h'.tarn d).trans (h.tarn d)⟩

theorem of_dies (h : s'.dies = s.dies) : SameTarns s s' := ⟨fun d => congrArg (fun m => (mget d Die.reset m).tarn) h⟩

theorem modDie (s : State) (d : Nat) {f : Die → Die} (h : ∀ x, (f x).tarn = x.tarn) : SameTarns s (s.modDie d f) := by
  refine ⟨fun b => ?_⟩
  by_cases hb : b = d
  · rw [hb, die_modDie_same, h]
  · rw [die_modDie_other s hb]

theorem ite {x y : State} {p : Prop} [Decidable p] (hx : SameTarns s x) (hy : SameTarns s y) : SameTarns s (if p then x else y) := by
  split
  · exact hx
  · exact hy

theorem unlatch (s : State) (die : Nat) (g : TTag) : SameTarns s (s.unlatch die g) := by
  unfold State.unlatch
  refine each_keeps (SameTarns s) _ (fun c x h => ?_) _ s (refl s)
  exact h.trans (of_dies rfl)

theorem addPin (s : State) (c slot : Nat) (t : Task) (way : Nat) (l : TLine) : SameTarns s (s.addPin c slot t way l).1 := by
  unfold State.addPin
  split
  · exact of_dies rfl
  · exact refl s

theorem acquireAt (s : State) (c : Nat) (t : Task) (sc : Scope) (w : Word32) : SameTarns s (s.acquireAt c t sc w) := by
  unfold State.acquireAt
  have hcaches : SameTarns s (if scopeNum sc ≥ 2 then s.acquireCaches c t.pav t.key (scopeNum sc ≥ 3) else s) := by
    unfold State.acquireCaches
    refine ite (ite (SameTarns.trans ?_ (modDie _ (dieOf c) ?_)) (of_dies rfl)) (refl s)
    · exact of_dies rfl
    · exact fun _ => rfl
  exact ite (hcaches.trans (of_dies rfl)) hcaches

end SameTarns

theorem tarn_modLine {s : State} {d w : Nat} {l : TLine} (h : mfind w (s.die d).tarn = some l) (f : TLine → TLine) :
    mfind w ((s.modLine d w f).die d).tarn = some (f l) := by
  unfold State.modLine
  rw [die_modDie_same]
  simp only [h, mfind_mset_same]

/-- What the merge of a store into a line `l` makes of the line at its place (R144, R302). -/
def merged (l : TLine) (x : VStore) (k : TLine) : TLine :=
  let data := mergeCells (readDesc x.desc) l.data x.sub x.mask x.cells
  { k with
    data := data
    ver := if x.pub then (l.ver + 1) % 2 ^ 16 else l.ver
    dirty := true
    zero := tileZero (readDesc x.desc) data
    spec := tileSpec (readDesc x.desc) data
    desc := x.desc }

theorem data_read_merged (l k : TLine) (x : VStore) (need : TNeed) (hit : Bool) (cyc : Word64) :
    ((merged l x k).read need hit cyc).data = mergeCells (readDesc x.desc) l.data x.sub x.mask x.cells := by
  unfold TLine.read merged
  with_reducible rfl

theorem zero_read_merged (l k : TLine) (x : VStore) (need : TNeed) (hit : Bool) (cyc : Word64) :
    ((merged l x k).read need hit cyc).zero = tileZero (readDesc x.desc) ((merged l x k).read need hit cyc).data := by
  unfold TLine.read merged
  with_reducible rfl

theorem spec_read_merged (l k : TLine) (x : VStore) (need : TNeed) (hit : Bool) (cyc : Word64) :
    ((merged l x k).read need hit cyc).spec = tileSpec (readDesc x.desc) ((merged l x k).read need hit cyc).data := by
  unfold TLine.read merged
  with_reducible rfl

theorem tarn_readTile {s : State} {c slot w : Nat} {t : Task} {l l' : TLine} {need : TNeed} {hit : Bool}
    (h : mfind w (s.die (dieOf c)).tarn = some l) :
    mfind w ((s.readTile c slot t w l' need hit false).die (dieOf c)).tarn = some (l.read need hit s.cyc) := by
  have hline := tarn_modLine h fun l => l.read need hit s.cyc
  have hpin := SameTarns.ite (p := need.hint = .pin) (SameTarns.addPin (s.modLine (dieOf c) w fun l => l.read need hit s.cyc) c slot t w l')
    (SameTarns.refl _)
  unfold State.readTile State.acquireTile
  exact (congrArg (mfind w) ((hpin.trans (SameTarns.acquireAt ..)).tarn (dieOf c))).trans hline

theorem tarn_mergeTile {s : State} {c slot w : Nat} {t : Task} {l : TLine} {x : VStore} {hit : Bool}
    (h : mfind w (s.die (dieOf c)).tarn = some l) :
    ∃ cyc, mfind w ((s.mergeTile c slot t w l x hit).die (dieOf c)).tarn = some ((merged l x l).read x.need hit cyc) := by
  have hline : mfind w ((s.modLine (dieOf c) w (merged l x)).die (dieOf c)).tarn = some (merged l x l) := tarn_modLine h (merged l x)
  have hread := tarn_readTile (slot := slot) (t := t) (l' := l) (need := x.need) (hit := hit) hline
  have hafter : SameTarns ((s.modLine (dieOf c) w (merged l x)).readTile c slot t w l x.need hit false) (s.mergeTile c slot t w l x hit) :=
    (SameTarns.of_dies (modTask_dies ..)).trans (SameTarns.unlatch _ (dieOf c) l.tag)
  exact ⟨_, (congrArg (mfind w) (hafter.tarn (dieOf c))).trans hread⟩

theorem reached_mergeTile {s s1 : State} {u : Task} (h : Reached s s1 u) (t : Task) (w : Nat) (l : TLine) (x : VStore) (hit : Bool) :
    Reached s (s1.mergeTile s.cur.core.val s.cur.slot.val t w l x hit) (u.noteTile l.tag (merged l x l).ver) :=
  ((((h.around (sameTasks_modLine ..)).readTile t w l x.need hit false).modTask fun u => u.noteTile l.tag (merged l x l).ver)).around
    (sameTasks_unlatch ..)

/-! ## Stores (R144) -/

section
variable {s : State} {t : Task} {o : VTile VSrc} {b : List Byte} {pub : Bool}

/-- VTST passes its checks: an existing sub-block, pages that it may write where its mask reaches them, no stall. -/
structure StoreCan (s : State) (t : Task) (o : VTile VSrc) (b : List Byte) : Prop where
  can : VecCan s t [o.v] []
  desc : t.desc o.slot.val = some b
  sub : o.sub.val < subBlocks (tyOf (readDesc b).ty)
  pages : ∃ pg, tilePages s t (readDesc b) (maskPages (readDesc b) (tagOf t o b) o.sub.val (t.kreg o.k.val)) .store = .ok pg
  stall : tileStall s t (tagOf t o b) (needBy t o b) = false
  dev : vDevOpen s t = false

/-- The store that VTST begins. -/
def tileStore (s : State) (t : Task) (o : VTile VSrc) (b : List Byte) (pub : Bool) : VStore :=
  { id := s.nextId, waited := false, blk := s.curSt.blkId, iaddr := s.curSt.pc, tag := tagOf t o b, desc := b, need := needBy t o b,
    sub := o.sub.val, mask := t.kreg o.k.val, cells := t.vsrc o.v, pub := pub }

/-- A task whose store is begun, noted in the drains of its source register (R148). -/
def storing (x : VStore) (v : VSrc) (u : Task) : Task :=
  { u with stores := u.stores ++ [x] }.noteKept v (fun left => .tile x.id u.pav x.tag x.desc x.sub (left &&& x.mask) x.cells)

theorem butTile_storing (x : VStore) (v : VSrc) (u : Task) : ButTile u (storing x v u) := rfl

/-- The issuing task with its store begun. -/
def storeIssued (s : State) (t : Task) (o : VTile VSrc) (b : List Byte) (pub : Bool) : State :=
  s.fresh.modCur (storing (tileStore s t o b pub) o.v)

theorem cur_storeIssued (s : State) (t : Task) (o : VTile VSrc) (b : List Byte) (pub : Bool) : (storeIssued s t o b pub).cur = s.cur :=
  modTask_cur ..

theorem dies_storeIssued (s : State) (t : Task) (o : VTile VSrc) (b : List Byte) (pub : Bool) : (storeIssued s t o b pub).dies = s.dies :=
  modTask_dies ..

theorem reached_storeIssued (h : s.curTask = some t) (o : VTile VSrc) (b : List Byte) (pub : Bool) :
    Reached s (storeIssued s t o b pub) (storing (tileStore s t o b pub) o.v t) := by
  have hfresh : Reached s s.fresh t := ⟨h, rfl, rfl⟩
  exact hfresh.modCur _

/-- VTST that passes its checks: its store begun, its lookup made unless an earlier access of the task waits for the tile. -/
theorem exec_vtst (h : StoreCan s t o b) (pub : Bool) :
    exec (.vtst o pub) s = .next ((if tileWaits t (tagOf t o b) then storeIssued s t o b pub
      else (storeIssued s t o b pub).vtstLook s.cur.core.val s.cur.slot.val t (tileStore s t o b pub) none).vDone vCharge 3) := by
  obtain ⟨hcan, hb, hsub, ⟨pg, hpg⟩, hstall, hdev⟩ := h
  unfold tagOf needBy at hstall
  unfold tagOf at hpg
  refine (vecIssue_passes hcan (by simp) _).trans (congrArg Host.Outcome.next ?_)
  rw [← cur_storeIssued s t o b pub]
  simp only [hb, hpg, hstall, hdev, if_neg (Nat.not_le.2 hsub), Bool.false_eq_true, if_false]
  rfl

/-- A lookup that hits merges the store into the line and ends it (R144). -/
theorem vtstLook_hit {s1 : State} {c slot : Nat} {x : VStore} {w : Nat} {l : TLine}
    (h : lookTile s1 (dieOf c) t x.tag x.need none = .hit w l) :
    s1.vtstLook c slot t x none
      = (s1.mergeTile c slot t w l x (!x.waited)).modTask c slot (fun u => { u with stores := u.stores.filter (fun y => y.id ≠ x.id) }) := by
  unfold State.vtstLook
  rw [h]

/-- A task whose store a line has taken: the line's new version recorded, the store ended. -/
def storeHit (x : VStore) (l : TLine) (u : Task) : Task :=
  let v := u.noteTile l.tag (merged l x l).ver
  { v with stores := v.stores.filter (fun y => y.id ≠ x.id) }

theorem butTile_storeHit (h : ButTile t u) (x : VStore) (l : TLine) : ButTile t (storeHit x l u) :=
  ButTile.stores (h.noteTile l.tag (merged l x l).ver) _

theorem empty_storeHit (x : VStore) (l : TLine) (u : Task) : (storeHit x l u).empty = u.empty := by
  have h : (u.noteTile l.tag (merged l x l).ver).empty = u.empty := (congrArg Task.empty (noteTile_but u l.tag (merged l x l).ver) :)
  exact h

theorem seen_storeHit (x : VStore) (l : TLine) (u : Task) : (storeHit x l u).seen l.tag = some (merged l x l).ver := by
  have h := seen_noteTile u l.tag (merged l x l).ver
  exact h

/-- VTST whose lookup hits: its cells merged into the line at its place, the version recorded (R144, R302). -/
theorem exec_vtst_hit (h : StoreCan s t o b) (hv : s.cur.stream = .v) (pub : Bool) (hwait : tileWaits t (tagOf t o b) = false) {w : Nat}
    {l : TLine} (hit : lookTile s s.curDie t (tagOf t o b) (needBy t o b) none = .hit w l)
    (hline : mfind w (s.die s.curDie).tarn = some l) :
    ∃ s' u cyc, exec (.vtst o pub) s = .next s' ∧ Reached s s' (u.modSt .v (fun x => x.advance 3)) ∧ ButTile t u ∧ u.empty = t.empty
      ∧ u.seen (tagOf t o b) = some (merged l (tileStore s t o b pub) l).ver
      ∧ mfind w (s'.die s.curDie).tarn = some ((merged l (tileStore s t o b pub) l).read (needBy t o b) true cyc) := by
  have hlook : lookTile (storeIssued s t o b pub) (dieOf s.cur.core.val) t (tagOf t o b) (needBy t o b) none = .hit w l :=
    (lookTile_congr (dies_storeIssued ..) ..).trans hit
  have hissue := exec_vtst h pub
  rw [hwait, if_neg Bool.false_ne_true, vtstLook_hit hlook] at hissue
  have hmerge := reached_mergeTile (reached_storeIssued h.can.1 o b pub) t w l (tileStore s t o b pub) true
  have hdone := (hmerge.modTask fun u => { u with stores := u.stores.filter (fun y => y.id ≠ s.nextId) }).vDone vCharge 3
  rw [hv] at hdone
  have hissued : mfind w ((storeIssued s t o b pub).die (dieOf s.cur.core.val)).tarn = some l :=
    (congrArg (mfind w) ((SameTarns.of_dies (dies_storeIssued s t o b pub)).tarn _)).trans hline
  obtain ⟨cyc, hmerged⟩ := tarn_mergeTile (slot := s.cur.slot.val) (t := t) (x := tileStore s t o b pub) (hit := true) hissued
  have hafter := (SameTarns.of_dies (modTask_dies ((storeIssued s t o b pub).mergeTile s.cur.core.val s.cur.slot.val t w l
    (tileStore s t o b pub) true) s.cur.core.val s.cur.slot.val fun u => { u with stores := u.stores.filter (fun y => y.id ≠ s.nextId) })).trans
      (SameTarns.of_dies ((OneTask.refl _).vDone vCharge 3).dies)
  refine ⟨_, storeHit (tileStore s t o b pub) l (storing (tileStore s t o b pub) o.v t), cyc, hissue, hdone,
    butTile_storeHit (butTile_storing ..) .., empty_storeHit .., ?_, ?_⟩
  · exact tag_of_hit hit ▸ seen_storeHit ..
  · exact (congrArg (mfind w) (hafter.tarn (dieOf s.cur.core.val))).trans hmerged

end

/-! ## What they refuse (R142) -/

section
variable {s : State} {t : Task}

theorem exec_vtld_noDesc {o : VTile VReg} (h : VecCan s t [] [o.v.val]) (hb : t.desc o.slot.val = none) :
    exec (.vtld o) s = .next (s.takeFault fDescInvalid 0) :=
  (vecIssue_passes h (by simp) _).trans (by simp only [hb])

theorem exec_vtst_noDesc {o : VTile VSrc} (h : VecCan s t [o.v] []) (hb : t.desc o.slot.val = none) (pub : Bool) :
    exec (.vtst o pub) s = .next (s.takeFault fDescInvalid 0) :=
  (vecIssue_passes h (by simp) _).trans (by simp only [hb])

theorem exec_vtld_noSub {o : VTile VReg} {b : List Byte} (h : VecCan s t [] [o.v.val]) (hb : t.desc o.slot.val = some b)
    (hsub : subBlocks (tyOf (readDesc b).ty) ≤ o.sub.val) : exec (.vtld o) s = .next (s.takeFault fIllegalOperand 0) :=
  (vecIssue_passes h (by simp) _).trans (by simp only [hb, if_pos hsub])

theorem exec_vtst_noSub {o : VTile VSrc} {b : List Byte} (h : VecCan s t [o.v] []) (hb : t.desc o.slot.val = some b)
    (hsub : subBlocks (tyOf (readDesc b).ty) ≤ o.sub.val) (pub : Bool) : exec (.vtst o pub) s = .next (s.takeFault fIllegalOperand 0) :=
  (vecIssue_passes h (by simp) _).trans (by simp only [hb, if_pos hsub])

end

/-- Settles O35: each access by the outcome of its lookup, followed through what the lookup leaves to the task and to the line. -/
theorem tileLoadsAndStores : Obligations.TileLoadsAndStores := by
  unfold Obligations.TileLoadsAndStores
  intro s t _ hv
  refine ⟨fun o b hcan hb => ⟨fun hsub pg hpg hstall hdev => ⟨fun hwait w l hit => ?_, fun hwait => ?_⟩, exec_vtld_noSub hcan hb⟩,
    fun o b hcan hb => ⟨fun pub hsub => exec_vtst_noSub hcan hb hsub pub, fun pub hsub pg hpg hdev hstall hwait w l hit hline => ?_⟩,
    fun o hb hcan => exec_vtld_noDesc hcan hb, fun o pub hb hcan => exec_vtst_noDesc hcan hb pub⟩
  · obtain ⟨s', u, hexec, hreached, hbut, hempty, hseen, hready⟩ := exec_vtld_hit ⟨hcan, hb, hsub, ⟨pg, hpg⟩, hstall, hdev⟩ hv hwait hit
    exact ⟨s', _, hexec, hreached.task, hbut.kept, hempty, hseen, hready, hreached.mem⟩
  · obtain ⟨s', hexec, hreached⟩ := exec_vtld_waits ⟨hcan, hb, hsub, ⟨pg, hpg⟩, hstall, hdev⟩ hv hwait
    exact ⟨s', _, hexec, hreached.task, (butTile_awaitingTile ..).kept, mem_empty_awaitingTile s.nextId o (tileFill s t o b) t,
      ⟨_, List.mem_append_right _ (List.mem_singleton_self _), rfl, rfl⟩, hreached.mem⟩
  · obtain ⟨s', u, cyc, hexec, hreached, hbut, hempty, hseen, hmerged⟩ :=
      exec_vtst_hit ⟨hcan, hb, hsub, ⟨pg, hpg⟩, hstall, hdev⟩ hv pub hwait hit hline
    have htag : l.tag = tagOf t o b := tag_of_hit hit
    exact ⟨s', _, (merged l (tileStore s t o b pub) l).read (needBy t o b) true cyc, hexec, hreached.task, hbut.kept, hempty, hmerged, htag,
      rfl, rfl, hseen, data_read_merged .., zero_read_merged .., spec_read_merged .., hreached.mem⟩

end Sys2Proof.TileAccesses
end

section
/-!
PROOFS. The landing of a change (spec/06 R148, R153, R154): its turn, its bank and its place in the order of issue.
-/

namespace Sys2Proof.BankLandings
open Sys2Proof Sys2Proof.Machine Sys2Proof.Laws Sys2Proof.Claim Sys2Proof.VectorBanks Sys2Proof.Control

/-- What depends on no landing cycle is not changed by setting them. -/
theorem filterMap_landOrder {α : Type} {f : Pending → Option α} (hf : ∀ x d, f { x with due := d } = f x) (done l : List Pending) :
    (landOrder done l).filterMap f = (done ++ l).filterMap f := by
  induction l generalizing done with
  | nil => rw [landOrder, List.append_nil]
  | cons x l ih =>
    have hx : ∀ d, f (if x.open_ = true then x else { x with due := d }) = f x := by
      intro d
      split
      · rfl
      · exact hf x d
    rw [landOrder, ih]
    simp only [List.filterMap_append, List.filterMap_cons, List.filterMap_nil, List.append_assoc, hx]
    cases f x
    · rfl
    · rfl

/-- The bank from which a change takes its source (R157). -/
def sourceBank (k : Core) (op : Change) : Option Bank :=
  match op with
  | .scale none .. => some freshBank
  | op => op.source.map k.bank

/-- A task one of whose changes has landed. -/
def afterLanding (mq : List Pending) (x y : Pending) (t : Task) : Task :=
  { (if x.op.fromNone then t.setFlag statAccUnalloc else t) with
    mq := mq
    past := t.past ++ [y] }

/-- A change that is due, and that follows none of those before it, lands. -/
theorem landChange_of_turn {s : State} {c l : Nat} {t : Task} {pre post : List Pending} {x : Pending} (ht : s.task? c l = some t)
    (hmq : t.mq = pre ++ x :: post) (hopen : x.open_ = false) (hmix : x.mix = []) (hdue : x.due ≤ s.cyc)
    (hpre : ∀ y ∈ pre, y.n ≠ x.n ∧ x.after y = false) :
    ∃ y, s.landChange c l x.n =
      (s.modBank c x.bank (fun _ => applyChange (sourceBank (s.core c) x.op) x.op ((s.core c).bank x.bank))).modTask c l
        (afterLanding (pre ++ post) x y) := by
  have htake : t.mq.takeWhile (fun y => decide (y.n ≠ x.n) || y.open_) = pre := by
    rw [hmq, List.takeWhile_append_of_pos fun y hy => by simp [(hpre y hy).1]]
    simp [hopen]
  have hturn : (decide (s.cyc < x.due) || pre.any (fun y => x.after y)) = false := by
    rw [decide_eq_false (BitVec.not_lt.2 hdue), Bool.false_or, List.any_eq_false]
    exact fun y hy => by simp [(hpre y hy).2]
  refine ⟨{ x with due := s.cyc, op := x.op.alone (sourceBank (s.core c) x.op) ((s.core c).bank x.bank) }, ?_⟩
  unfold State.landChange
  simp only [ht, htake]
  rw [hmq, List.drop_left]
  simp only [hturn, hmix, List.foldl_nil, Bool.false_eq_true, if_false]
  rfl

theorem afterLanding_of_source {x : Pending} (h : x.op.fromNone = false) (mq : List Pending) (y : Pending) (t : Task) :
    { afterLanding mq x y t with mq := t.mq, past := t.past } = t := by
  rw [afterLanding, h]
  rfl

theorem afterLanding_of_none {x : Pending} (h : x.op.fromNone = true) (mq : List Pending) (y : Pending) (t : Task) :
    (afterLanding mq x y t).status = t.status ||| 1
      ∧ { afterLanding mq x y t with mq := t.mq, past := t.past, status := t.status, flagged := t.flagged } = t := by
  rw [afterLanding, h]
  exact ⟨rfl, rfl⟩


/-- BANK_LANDING of a change whose turn it is (R153, R154). -/
theorem bankLanding_lands {s : State} {core : CoreId} {slot : SlotId} {t : Task} (ht : s.task? core.val slot.val = some t)
    {pre post : List Pending} {x : Pending} (hmq : t.mq = pre ++ x :: post) (hopen : x.open_ = false) (hmix : x.mix = [])
    (hdue : x.due ≤ s.cyc) (hpre : ∀ y ∈ pre, y.n ≠ x.n ∧ x.after y = false) :
    ∃ s' t', exec (.bankLanding core slot x.n) s = .next s' ∧ s'.task? core.val slot.val = some t' ∧ t'.mq = pre ++ post
      ∧ (s'.core core.val).bank x.bank = applyChange (sourceBank (s.core core.val) x.op) x.op ((s.core core.val).bank x.bank)
      ∧ (∀ q, q ≠ x.bank → (s'.core core.val).bank q = (s.core core.val).bank q)
      ∧ (x.op.fromNone = false → { t' with mq := t.mq, past := t.past } = t)
      ∧ (x.op.fromNone = true → t'.status = t.status ||| 1
          ∧ { t' with mq := t.mq, past := t.past, status := t.status, flagged := t.flagged } = t) ∧ s'.mem = s.mem := by
  obtain ⟨y, hland⟩ := landChange_of_turn ht hmq hopen hmix hdue hpre
  have hbanks := fun s c f q => bank_of_banks (congrArg Core.banks (core_modTask_but_slots s c slot.val f c)) q
  refine ⟨_, _, congrArg Host.Outcome.next hland, task_modTask_same ((task_modCore rfl).trans ht) _, rfl, ?_, fun q hq => ?_,
    fun h => afterLanding_of_source h .., fun h => afterLanding_of_none h .., modTask_mem ..⟩
  · exact (hbanks ..).trans ((bank_modBank ..).trans (if_pos rfl))
  · exact (hbanks ..).trans ((bank_modBank ..).trans (if_neg hq))

end Sys2Proof.BankLandings
end

section
/-!
PROOFS. Stamped issue (spec/06 R172, R173, spec/11 R287, Table 11-4): what an instruction comes to on its stamped cycle and after it.
-/

namespace Sys2Proof.StampedIssue
open Sys2Proof Sys2Proof.Machine Sys2Proof.Laws Sys2Proof.Claim Sys2Proof.Control Sys2Proof.VectorIssue

/-! ## Reading from memory (Table 6-2) -/

/-- A matrix instruction that has begun no reading ends none. -/
theorem mEnd_of_noAsk {s : State} {t : Task} (h : s.curTask = some t) (hask : t.mAsk = none) : s.mEnd = s := by
  unfold State.mEnd
  rw [h, Option.bind_some, hask]

/-! ## The stamped cycle (R173, Table 11-4) -/

section
variable {s : State} {t : Task} {off : BitVec 9} {f : Task → MGo} {s1 : State} {n : Nat}

/-- A task whose stamped instruction has issued, late or on its cycle. -/
def unstamped (late : Bool) (t : Task) : Task := { (if late then t.missed else t) with stamp := none }

/-- A stamped instruction that reads no memory and is ready issues from its cycle on, or misses it. -/
theorem mInsn_stamped (h : s.curTask = some t) (hstamp : t.stamp = some off) (hask : t.mAsk = none) (hcyc : stampAt t off ≤ s.cyc.toNat)
    (hf : f t = .issue s1 n false) :
    mInsn s f = .next (if (decide (stampAt t off < s.cyc.toNat) && missFault t) = true then s.takeFault fSchedMiss 0
      else (s1.mEnd.modCur (unstamped (decide (stampAt t off < s.cyc.toNat)))).mDone n) := by
  refine (onTask_some h _).trans (congrArg Host.Outcome.next ?_)
  simp only [hstamp, hask, hf, if_neg (Nat.not_lt.2 hcyc), mEnd_of_noAsk h hask, Bool.false_or]
  rfl

end

/-- A missed stamp shows in STATUS alone. -/
theorem missed_eq (t : Task) : ∃ w, t.missed = { t with status := w } := by
  unfold Task.missed
  exact ⟨_, rfl⟩

/-- MISSES counts one more, up to 65535, and no other bit of STATUS changes. -/
theorem status_missed (t : Task) : t.missed.status.toNat / 2 ^ 48 = min (t.status.toNat / 2 ^ 48 + 1) 65535
    ∧ t.missed.status.toNat % 2 ^ 48 = t.status.toNat % 2 ^ 48 := by
  have hlt : t.status.toNat < 2 ^ 64 := t.status.isLt
  have hmisses : statMisses t.status = t.status.toNat / 2 ^ 48 := by
    simp only [statMisses, nbits]
    omega
  have hstatus : t.missed.status.toNat = (t.status.toNat % 2 ^ 48 + min (t.status.toNat / 2 ^ 48 + 1) 65535 * 2 ^ 48) % 2 ^ 64 := by
    rw [← hmisses]
    exact BitVec.toNat_ofNat ..
  rw [hstatus]
  omega

/-! ## MSTB behind a stamp -/

section
variable {s : State} {core : CoreId} {slot : SlotId} {t : Task} {off : BitVec 9}

/-- Before its cycle a stamped instruction is not tried. -/
theorem stampedIssue_early (h : s.task? core.val slot.val = some t) (hstamp : t.stamp = some off)
    (hcyc : s.cyc.toNat < stampAt t off) : exec (.stampedIssue core slot) s = .next s := by
  change execStampedIssue core slot s = _
  unfold execStampedIssue
  simp only [h, hstamp]
  split
  · rename_i hoff _
    cases hoff
    rw [decide_eq_true hcyc, Bool.or_true, if_pos rfl]
  · rfl

/-- From its cycle on it is. -/
theorem stampedIssue_tries {i : Instr} {n : Nat} (h : s.task? core.val slot.val = some t) (hstamp : t.stamp = some off)
    (hcyc : stampAt t off ≤ s.cyc.toNat) (hcan : canIssue s { core := core, slot := slot, stream := .m } = true)
    (hi : decode .m ((t.st .m).lbuf.drop ((t.st .m).pc - (t.st .m).blk - 2).toNat) = .ok (i, n)) {s' : State}
    (hs' : stampedMeaning i { s with cur := { core := core, slot := slot, stream := .m } } = .next s') :
    exec (.stampedIssue core slot) s = .next { s' with cur := s.cur } := by
  change execStampedIssue core slot s = _
  unfold execStampedIssue
  simp only [h, hstamp, hi, hcan, hs', decide_eq_false (Nat.not_lt.2 hcyc), Bool.not_true, Bool.or_false, Bool.false_eq_true, if_false]

/-- What MSTB writes (R172). -/
def withStampBase (base : Word64) (per : BitVec 12) (t : Task) : Task := { t with stbase := base, stper := per }

/-- MSTB behind a stamp, as its stream finds it. -/
theorem exec_mstb_stamped {s : State} {t : Task} (h : s.curTask = some t) (hstamp : t.stamp = some off) (hask : t.mAsk = none)
    (hcyc : stampAt t off ≤ s.cyc.toNat) (a : AReg) (per : BitVec 12) :
    exec (.mstb a per) s = .next (if (decide (stampAt t off < s.cyc.toNat) && missFault t) = true then s.takeFault fSchedMiss 0
      else ((s.modCur (withStampBase (t.a .m a.val) per)).modCur (unstamped (decide (stampAt t off < s.cyc.toNat)))).finish 2) := by
  have h1 : (s.modCur (withStampBase (t.a .m a.val) per)).curTask = some (withStampBase (t.a .m a.val) per t) := curTask_modCur h _
  have hissue := mInsn_stamped (f := fun t => .issue (s.modCur (withStampBase (t.a .m a.val) per)) 2 false) h hstamp hask hcyc rfl
  rw [mEnd_of_noAsk h1 hask] at hissue
  exact hissue

/-- The task that an MSTB behind its stamp leaves. -/
def afterStampedMstb (late : Bool) (base : Word64) (per : BitVec 12) (t : Task) : Task :=
  (unstamped late (withStampBase base per t)).modSt .m (fun x => x.advance 2)

theorem unstamped_eq (late : Bool) (t : Task) : ∃ w, unstamped late t = { t with status := w, stamp := none } := by
  obtain ⟨w, hw⟩ := missed_eq t
  unfold unstamped
  cases late
  · exact ⟨t.status, rfl⟩
  · exact ⟨w, by rw [hw]; rfl⟩

theorem afterStampedMstb_but (late : Bool) (base : Word64) (per : BitVec 12) (t : Task) :
    { afterStampedMstb late base per t with
        stamp := t.stamp, status := t.status, stbase := t.stbase, stper := t.stper, strm := t.strm } = t := by
  obtain ⟨w, hw⟩ := unstamped_eq late (withStampBase base per t)
  rw [afterStampedMstb, hw]
  rfl

theorem st_afterStampedMstb (late : Bool) (base : Word64) (per : BitVec 12) (t : Task) :
    (afterStampedMstb late base per t).st .m = (t.st .m).advance 2
      ∧ (afterStampedMstb late base per t).stamp = none ∧ (afterStampedMstb late base per t).stbase = base
      ∧ (afterStampedMstb late base per t).stper = per := by
  obtain ⟨w, hw⟩ := unstamped_eq late (withStampBase base per t)
  rw [afterStampedMstb, hw]
  exact ⟨st_modSt_same .., rfl, rfl, rfl⟩

/-- STAMPED_ISSUE of an MSTB that misses its cycle in a MISSFAULT block (R287). -/
theorem stampedMstb_traps (h : s.task? core.val slot.val = some t) (hstamp : t.stamp = some off) (hask : t.mAsk = none)
    (hcan : canIssue s { core := core, slot := slot, stream := .m } = true) {a : AReg} {per : BitVec 12} {n : Nat}
    (hi : decode .m ((t.st .m).lbuf.drop ((t.st .m).pc - (t.st .m).blk - 2).toNat) = .ok (.mstb a per, n))
    (hlate : stampAt t off < s.cyc.toNat) (hmiss : missFault t = true) {s0 : State}
    (hs0 : s0 = { s with cur := { core := core, slot := slot, stream := .m } }) :
    ∃ s', exec (.mstb a per) s0 = .next s' ∧ s' = s0.takeFault fSchedMiss 0
      ∧ exec (.stampedIssue core slot) s = .next { s' with cur := s.cur } := by
  subst hs0
  have hexec := exec_mstb_stamped (s := { s with cur := { core := core, slot := slot, stream := .m } }) h hstamp hask hlate.le a per
  rw [if_pos (by simp [hlate, hmiss])] at hexec
  generalize hs' : ({ s with cur := { core := core, slot := slot, stream := .m } } : State).takeFault fSchedMiss 0 = s' at hexec
  exact ⟨s', hexec, rfl, stampedIssue_tries h hstamp hlate.le hcan hi hexec⟩

/-- MSTB behind a stamp on its cycle, or late where the block takes no SCHED_MISS. -/
theorem mstb_stamped_issues {s : State} {t : Task} (h : s.curTask = some t) (hm : s.cur.stream = .m) (hstamp : t.stamp = some off)
    (hask : t.mAsk = none) (hcyc : stampAt t off ≤ s.cyc.toNat) (hmiss : stampAt t off = s.cyc.toNat ∨ missFault t = false) (a : AReg)
    (per : BitVec 12) :
    ∃ s', exec (.mstb a per) s = .next s'
      ∧ s'.curTask = some (afterStampedMstb (decide (stampAt t off < s.cyc.toNat)) (t.a .m a.val) per t)
      ∧ s'.cur = s.cur ∧ s'.mem = s.mem := by
  have hexec := exec_mstb_stamped h hstamp hask hcyc a per
  rw [if_neg (by rcases hmiss with he | hmiss <;> simp [*])] at hexec
  have htask := curTask_finish (curTask_modCur (curTask_modCur h (withStampBase (t.a .m a.val) per))
    (unstamped (decide (stampAt t off < s.cyc.toNat)))) 2
  rw [modCur_cur, modCur_cur, hm] at htask
  exact ⟨_, hexec, htask, (finish_cur ..).trans ((modCur_cur ..).trans (modCur_cur ..)),
    (finish_mem ..).trans ((modCur_mem ..).trans (modCur_mem ..))⟩

/-- STAMPED_ISSUE of an MSTB on its cycle, or late where the block takes no SCHED_MISS (R287). -/
theorem stampedMstb_issues (h : s.task? core.val slot.val = some t) (hstamp : t.stamp = some off) (hask : t.mAsk = none)
    (hcyc : stampAt t off ≤ s.cyc.toNat) (hcan : canIssue s { core := core, slot := slot, stream := .m } = true) {a : AReg}
    {per : BitVec 12} {n : Nat}
    (hi : decode .m ((t.st .m).lbuf.drop ((t.st .m).pc - (t.st .m).blk - 2).toNat) = .ok (.mstb a per, n))
    (hmiss : stampAt t off = s.cyc.toNat ∨ missFault t = false) :
    ∃ s', exec (.stampedIssue core slot) s = .next s'
      ∧ s'.task? core.val slot.val = some (afterStampedMstb (decide (stampAt t off < s.cyc.toNat)) (t.a .m a.val) per t)
      ∧ s'.cur = s.cur ∧ s'.mem = s.mem := by
  obtain ⟨s', hexec, htask, hcur, hmem⟩ := mstb_stamped_issues
    (s := { s with cur := { core := core, slot := slot, stream := .m } }) h rfl hstamp hask hcyc hmiss a per
  rw [State.curTask, hcur] at htask
  exact ⟨_, stampedIssue_tries h hstamp hcyc hcan hi hexec, htask, rfl, hmem⟩

/-- MISSES counts a late issue and no other (Table 11-4). -/
theorem status_afterStampedMstb (base : Word64) (per : BitVec 12) (t : Task) :
    (afterStampedMstb false base per t).status = t.status
      ∧ (afterStampedMstb true base per t).status = t.missed.status := by
  refine ⟨rfl, ?_⟩
  unfold afterStampedMstb unstamped withStampBase Task.modSt Task.setSt Task.missed
  rw [if_pos rfl]

end

end Sys2Proof.StampedIssue
end

section
/-!
PROOFS. Bank-ready tokens and the release of freed banks (spec/06 R171, spec/13 R313).
-/

namespace Sys2Proof.ReadyTokens
open Sys2Proof Sys2Proof.Machine Sys2Proof.Laws Sys2Proof.Claim Sys2Proof.Control Sys2Proof.VectorBanks

/-! ## Tokens -/

section
variable {s : State} {core : CoreId} {slot : SlotId} {t : Task} {r : ReadyTok} {rest : List ReadyTok}

/-- Have the changes that a token waits for landed on an earlier cycle? -/
def allLanded (s : State) (t : Task) (r : ReadyTok) : Bool :=
  t.mq.all (fun x => x.bank ≠ r.bank || decide (r.after_ < x.n))
    && t.past.all (fun x => x.bank ≠ r.bank || decide (r.after_ < x.n) || decide (x.due < s.cyc))

/-- Has the FIFO of a slot's task to V room for a token? -/
def slotRoom (s : State) (c o : Nat) : Bool :=
  match s.task? c o with
  | some u => u.room .m .v 1
  | none => true

/-- The owners to whom a token is still to be sent. -/
def tokenOwed (k : Core) (slot : Nat) (r : ReadyTok) : List Nat :=
  match r.left with
  | some o => o
  | none =>
    match (k.bank r.bank).owners with
    | none => [slot]
    | some o => uniq o

/-- Is a token to be sent to some owner now? -/
def sendable (s : State) (c slot : Nat) (t : Task) (r : ReadyTok) : Bool :=
  allLanded s t r && (tokenOwed (s.core c) slot r).any (slotRoom s c)

/-- The token as it is sent. -/
def readyToken (s : State) (t : Task) (r : ReadyTok) : Tok :=
  { upto := r.after_ + 1, seen := (t.st .m).seen, bank := some r.bank, at_ := s.cyc }

/-- A token sent to the owners that have room for it; the others are noted. -/
def sentToken (s : State) (c slot : Nat) (t : Task) (r : ReadyTok) : State :=
  let owed := tokenOwed (s.core c) slot r
  let rest := owed.filter (fun o => !slotRoom s c o)
  let tok := readyToken s t r
  (each (owed.filter (slotRoom s c)) (fun o s => s.modTask c o (fun u => u.sendToks .m .v [tok])) s).modTask c slot (fun t =>
    { t with rtoks :=
        if rest.isEmpty then t.rtoks.filter (· ≠ r) else t.rtoks.map (fun x => if x = r then { r with left := some rest } else x) })

/-- BANK_READY_TOKEN sends the first token whose changes have landed and that an owner has room for (R171). -/
theorem exec_bankReadyToken (h : s.task? core.val slot.val = some t) : exec (.bankReadyToken core slot) s =
    match t.rtoks.find? (sendable s core.val slot.val t) with
    | none => .next s
    | some r => .next (sentToken s core.val slot.val t r) := by
  change execBankReadyToken core slot s = _
  unfold execBankReadyToken
  simp only [h]
  rfl

theorem slotRoom_eq (h : s.task? core.val slot.val = some t) : slotRoom s core.val slot.val = t.room .m .v 1 := by
  unfold slotRoom
  rw [h]

theorem tokenOwed_unbanded {k : Core} {l : Nat} (hleft : r.left = none) (hown : (k.bank r.bank).owners = none) : tokenOwed k l r = [l] := by
  unfold tokenOwed
  rw [hleft, hown]

/-- The task whose token has been sent to itself. -/
def withToken (tok : Tok) (r : ReadyTok) (t : Task) : Task :=
  { t.sendToks .m .v [tok] with rtoks := t.rtoks.filter (· ≠ r) }

theorem sentToken_unbanded (h : s.task? core.val slot.val = some t) (hleft : r.left = none)
    (hown : ((s.core core.val).bank r.bank).owners = none) (hroom : t.room .m .v 1 = true) :
    (sentToken s core.val slot.val t r).task? core.val slot.val = some (withToken (readyToken s t r) r t)
      ∧ (sentToken s core.val slot.val t r).mem = s.mem := by
  have hfit : slotRoom s core.val slot.val = true := (slotRoom_eq h).trans hroom
  unfold sentToken
  simp only [tokenOwed_unbanded hleft hown, List.filter_cons, List.filter_nil, hfit, Bool.not_true, Bool.false_eq_true, if_true, if_false,
    List.isEmpty_nil]
  exact ⟨task_modTask_same (task_modTask_same h _) _, (modTask_mem ..).trans (modTask_mem ..)⟩

theorem room_iff (t : Task) : t.room .m .v 1 = true ↔ (t.fifo .m .v).length < 15 := by
  unfold Task.room fifoDepth
  rw [decide_eq_true_eq]
  omega

/-- The first token of a bank without bands is sent once its changes have landed. -/
theorem bankReadyToken_sends (h : s.task? core.val slot.val = some t) (hr : t.rtoks = r :: rest) (hleft : r.left = none)
    (hmq : ∀ x ∈ t.mq, x.bank ≠ r.bank ∨ r.after_ < x.n) (hpast : ∀ x ∈ t.past, x.bank ≠ r.bank ∨ r.after_ < x.n ∨ x.due < s.cyc)
    (hown : ((s.core core.val).bank r.bank).owners = none) (hroom : (t.fifo .m .v).length < 15) :
    ∃ s' t', exec (.bankReadyToken core slot) s = .next s' ∧ s'.task? core.val slot.val = some t'
      ∧ t'.fifo .m .v = t.fifo .m .v ++ [readyToken s t r] ∧ r ∉ t'.rtoks ∧ { t' with toks := t.toks, rtoks := t.rtoks } = t
      ∧ s'.mem = s.mem := by
  have hfit := (room_iff t).2 hroom
  have hland : allLanded s t r = true := by
    unfold allLanded
    rw [Bool.and_eq_true, List.all_eq_true, List.all_eq_true]
    exact ⟨fun x hx => by simpa using hmq x hx, fun x hx => by simpa [or_assoc] using hpast x hx⟩
  have hfirst : sendable s core.val slot.val t r = true := by
    rw [sendable, hland, tokenOwed_unbanded hleft hown, List.any_cons, slotRoom_eq h, hfit]
    rfl
  obtain ⟨htask, hmem⟩ := sentToken_unbanded h hleft hown hfit
  refine ⟨_, _, ?_, htask, ?_, fun hmem => ?_, rfl, hmem⟩
  · rw [exec_bankReadyToken h, hr, List.find?_cons_of_pos hfirst]
  · exact (Blocks.fifo_setFifo t .m .v .m .v _).trans (if_pos ⟨rfl, rfl⟩)
  · exact of_decide_eq_true (List.mem_filter.1 hmem).2 rfl

/-- A token for which the FIFO has no room waits. -/
theorem bankReadyToken_waits (h : s.task? core.val slot.val = some t) (hr : t.rtoks = [r]) (hleft : r.left = none)
    (hown : ((s.core core.val).bank r.bank).owners = none) (hroom : 15 ≤ (t.fifo .m .v).length) :
    exec (.bankReadyToken core slot) s = .next s := by
  have hfull : t.room .m .v 1 = false := by
    rw [← Bool.not_eq_true, room_iff]
    omega
  rw [exec_bankReadyToken h, hr, List.find?_cons_of_neg]
  · rfl
  · rw [sendable, tokenOwed_unbanded hleft hown, List.any_cons, slotRoom_eq h, hfull]
    simp

end

/-! ## Freed banks -/

/-- BANK_RELEASE of a bank that is being freed (R313). -/
theorem bankRelease_frees {s : State} {core : CoreId} {bank : BankNo} (h : bank.val ∈ (s.core core.val).freeing) :
    ∃ s', exec (.bankRelease core bank) s = .next s'
      ∧ bank.val ∉ (s'.core core.val).freeing ∧ (s'.core core.val).bank bank.val = freshBank
      ∧ (∀ q, q ≠ bank.val → (s'.core core.val).bank q = (s.core core.val).bank q
          ∧ (q ∈ (s'.core core.val).freeing ↔ q ∈ (s.core core.val).freeing)) ∧ s'.mem = s.mem := by
  have hmem : (s.core core.val).freeing.contains bank.val = true := List.contains_iff_mem.2 h
  refine ⟨_, congrArg Host.Outcome.next (if_pos hmem), ?_, ?_, fun q hq => ⟨?_, ?_⟩, rfl⟩
  · rw [core_modCore_same]
    exact fun h1 => of_decide_eq_true (List.mem_filter.1 h1).2 rfl
  · rw [core_modCore_same]
    exact mget_mset_same ..
  · rw [core_modCore_same]
    exact mget_mset_other hq ..
  · rw [core_modCore_same]
    simp [ldel, hq]

end Sys2Proof.ReadyTokens
end

section
/-!
PROOFS. Re-entry of a parked product (spec/06 R156, R158, spec/12 R305, R306): what reading its operands leaves, and the place that
its change takes in the order of issue.
-/

namespace Sys2Proof.Reentry
open Sys2Proof Sys2Proof.Machine Sys2Proof.Laws Sys2Proof.Claim Sys2Proof.Traffic Sys2Proof.TileTraffic Sys2Proof.TileAccesses
open Sys2Proof.StampedIssue

/-! ## Operands read (R156, R297, R299, R303) -/

/-- Of the task in a slot only what it has seen of tiles differs, and memory is as before. -/
structure Reads (s s' : State) (c l : Nat) (t u : Task) : Prop where
  task : s'.task? c l = some u
  but : { u with obs := t.obs, ovf := t.ovf, itin := t.itin } = t
  mem : s'.mem = s.mem

namespace Reads
variable {s s' s'' : State} {c l : Nat} {t u : Task}

theorem refl (h : s.task? c l = some t) : Reads s s c l t t := ⟨h, rfl, rfl⟩

theorem around (h : Reads s s' c l t u) (h' : SameTasks s' s'') : Reads s s'' c l t u :=
  ⟨(h'.tasks c l).trans h.task, h.but, h'.mem.trans h.mem⟩

theorem modTask (h : Reads s s' c l t u) (f : Task → Task) (hf : { f u with obs := t.obs, ovf := t.ovf, itin := t.itin } = t) :
    Reads s (s'.modTask c l f) c l t (f u) :=
  ⟨task_modTask_same h.task f, hf, (modTask_mem ..).trans h.mem⟩

theorem consume (h : Reads s s' c l t u) (g : TTag) : Reads s (s'.modTask c l (fun u => u.consume g)) c l t (u.consume g) :=
  h.modTask _ h.but

theorem but_noteTile (h : Reads s s' c l t u) (g : TTag) (v : Nat) :
    { u.noteTile g v with obs := t.obs, ovf := t.ovf, itin := t.itin } = t :=
  (congrArg (fun x : Task => { x with obs := t.obs, ovf := t.ovf, itin := t.itin }) (noteTile_but u g v)).trans h.but

theorem noteConsume (h : Reads s s' c l t u) (g : TTag) (v : Nat) :
    Reads s (s'.modTask c l (fun u => (u.noteTile g v).consume g)) c l t ((u.noteTile g v).consume g) :=
  h.modTask _ (h.but_noteTile g v)

theorem latchIn (h : Reads s s' c l t u) (x : Latch) : Reads s (s'.latchIn c x) c l t u :=
  h.around (SameTasks.modCore s' c fun _ => rfl)

theorem readTile (h : Reads s s' c l t u) (t0 : Task) (w : Nat) (x : TLine) (need : TNeed) (hit note : Bool) :
    ∃ v, Reads s (s'.readTile c l t0 w x need hit note) c l t v := by
  have h1 := h.around (sameTasks_modLine s' (dieOf c) w (fun x => x.read need hit s'.cyc))
  have h2 := h1.around (SameTasks.ite (p := need.hint = .pin) (SameTasks.of_traffic (onlyTraffic_addPin _ c l t0 w x)) (SameTasks.refl _))
  unfold State.readTile
  cases note
  · exact ⟨u, h2.around (sameTasks_acquireTile ..)⟩
  · exact ⟨_, (h2.modTask (fun u => u.noteTile x.tag x.ver) (h2.but_noteTile ..)).around (sameTasks_acquireTile ..)⟩

theorem readOp (h : Reads s s' c l t u) (g : TTag) (need : TNeed) (waited : Bool) (o : OpLook) :
    ∃ v, Reads s (s'.readOp c l g need false waited o) c l t v := by
  unfold State.readOp
  simp only [h.task, Bool.false_eq_true, if_false]
  cases o with
  | latched x =>
    dsimp only
    split
    · obtain ⟨v, hv⟩ := h.readTile u _ _ need false false
      exact ⟨_, (hv.noteConsume g x.ver).latchIn x⟩
    · exact ⟨_, (h.noteConsume g x.ver).latchIn x⟩
  | line w x =>
    obtain ⟨v, hv⟩ := h.readTile u w x need (!waited) true
    exact ⟨_, (hv.consume g).latchIn _⟩
  | shared | miss | ask => exact ⟨u, h⟩

theorem readProd (h : Reads s s' c l t u) (t0 : Task) (p : Prod) (la lb : OpLook) (waited : List TTag) :
    ∃ v, Reads s (s'.readProd c l t0 p la lb [] waited) c l t v := by
  obtain ⟨v, hv⟩ := h.readOp p.atag p.aneed (waited.contains p.atag) la
  obtain ⟨w, hw⟩ := hv.readOp p.btag p.bneed (waited.contains p.btag) lb
  exact ⟨w, (task_charge ..).trans hw.task, hw.but, (charge_mem ..).trans hw.mem⟩

end Reads

/-! ## The place in the order of issue (R154, R305, R306) -/

theorem insertBefore_at {n : Nat} {x : Pending} (hn : x.n = n) (hopen : x.open_ = true) (f : Pending → Pending) (post : List Pending)
    {pre : List Pending} (hpre : ∀ y ∈ pre, y.n ≠ n) : insertBefore n f (pre ++ x :: post) = pre ++ f x :: x :: post := by
  induction pre with
  | nil =>
    rw [List.nil_append, insertBefore, if_pos (by simp [hn, hopen])]
    rfl
  | cons y pre ih =>
    rw [List.cons_append, insertBefore, if_neg (by simp [hpre y List.mem_cons_self]), ih fun z hz => hpre z (List.mem_cons_of_mem _ hz)]
    rfl

/-- Does a change stand for the parked command of a number? -/
def placeOf (n : Nat) (x : Pending) : Bool := x.n = n && x.open_

/-- The changes but for the place of a parked command. -/
def changesBut (n : Nat) (l : List Pending) : List (Nat × Change × Bool) :=
  l.filterMap (fun x => if placeOf n x then none else some (x.bank, x.op, x.open_))

theorem changes_filter (n : Nat) (l : List Pending) : changes (l.filter (fun x => !placeOf n x)) = changesBut n l := by
  induction l with
  | nil => rfl
  | cons x l ih =>
    rw [changesBut, List.filterMap_cons, List.filter_cons]
    cases placeOf n x
    · exact congrArg ((x.bank, x.op, x.open_) :: ·) ih
    · exact ih

theorem changesBut_of_others {n : Nat} {l : List Pending} (h : ∀ y ∈ l, y.n ≠ n) : changesBut n l = changes l := by
  rw [← changes_filter, List.filter_eq_self.2 fun y hy => by simp [placeOf, h y hy]]

/-- A product that takes the place that was kept for it stands there, and every other change where it stood. -/
theorem changes_fired {n : Nat} {x y : Pending} (hn : x.n = n) (hopen : x.open_ = true) (hy : y.open_ = false) {pre post : List Pending}
    (hothers : ∀ z ∈ pre ++ post, z.n ≠ n) {f : Pending → Pending} (hf : f x = y) :
    changes ((landOrder [] (insertBefore n f (pre ++ x :: post))).filter (fun z => !placeOf n z))
      = changes pre ++ (y.bank, y.op, false) :: changes post := by
  have hpre : ∀ z ∈ pre, z.n ≠ n := fun z hz => hothers z (List.mem_append_left _ hz)
  have hpost : ∀ z ∈ post, z.n ≠ n := fun z hz => hothers z (List.mem_append_right _ hz)
  have hplace : placeOf n x = true ∧ placeOf n y = false := by simp [placeOf, hn, hopen, hy]
  rw [changes_filter, insertBefore_at hn hopen f post hpre, hf]
  unfold changesBut
  rw [BankLandings.filterMap_landOrder fun _ _ => rfl, List.nil_append, List.filterMap_append, List.filterMap_cons, List.filterMap_cons,
    hplace.1, hplace.2, hy]
  exact congrArg₂ (fun a b => a ++ (y.bank, y.op, false) :: b) (changesBut_of_others hpre) (changesBut_of_others hpost)

/-! ## The product performed (R158, R306) -/

section
variable {s : State} {c : Nat} {t : Task} {e : Parked}

/-- The change of a parked product as it takes its place, on some cycle (R306). -/
def fire (op : Change) (cyc : Word64) (x : Pending) : Pending := { x with open_ := false, due := BitVec.ofNat 64 (cyc.toNat + 28), op := op }

/-- A task of which a parked product takes its place in the order of issue. -/
def withFired (e : Parked) (op : Change) (cyc : Word64) (t : Task) : Task :=
  { (if e.late then t.missed else t) with mq := landOrder [] (insertBefore e.n (fire op cyc) t.mq) }

theorem reFire_product (hrun : e.run = none) (la lb : OpLook) (a b : List Byte) :
    s.reFire c t e la lb a b = ((s.readProd c e.slot t e.prod la lb e.took e.waited).modTask c e.slot (withFired e (e.prod.change a b)
      (s.readProd c e.slot t e.prod la lb e.took e.waited).cyc)).freeParked c e := by
  unfold State.reFire
  simp only [hrun, Option.bind_none]
  rfl

/-- A task from whose order the place of a parked command has gone, with a run stopped at it. -/
def withoutPlace (e : Parked) (t : Task) : Task :=
  { t with
    mq := t.mq.filter (fun x => !placeOf e.n x)
    run := t.run.filter (fun r => !(r.parked && r.iaddr = e.iaddr)) }

theorem freeParked_leaves (h : s.task? c e.slot = some t) :
    (s.freeParked c e).task? c e.slot = some (withoutPlace e t) ∧ (∀ f ∈ ((s.freeParked c e).core c).replay, f.n ≠ e.n)
      ∧ (s.freeParked c e).mem = s.mem := by
  refine ⟨task_modTask_same ((task_modCore rfl).trans h) _, fun f hf => ?_, modTask_mem ..⟩
  have hcore := congrArg Core.replay (Control.core_modTask_but_slots (s.modCore c (fun k => { k with replay := k.replay.filter (fun x => x.n ≠ e.n) }))
    c e.slot (withoutPlace e) c)
  have hmem : f ∈ ((s.modCore c (fun k => { k with replay := k.replay.filter (fun x => x.n ≠ e.n) })).core c).replay := hcore ▸ hf
  rw [core_modCore_same] at hmem
  exact of_decide_eq_true (List.mem_filter.1 hmem).2

theorem kept_withoutPlace (e : Parked) (op : Change) (cyc : Word64) (t : Task) : MKept t (withoutPlace e (withFired e op cyc t)) := by
  obtain ⟨w, hw⟩ := missed_eq t
  unfold withFired
  rw [hw]
  cases e.late
  · exact ⟨rfl, rfl, rfl, rfl, rfl, rfl, rfl, rfl, rfl, fun _ => rfl⟩
  · exact ⟨rfl, rfl, rfl, rfl, rfl, rfl, rfl, rfl, rfl, fun _ => rfl⟩

theorem mKept_of_reads {t u v : Task} (hbut : { u with obs := t.obs, ovf := t.ovf, itin := t.itin } = t) (h : MKept u v) : MKept t v := by
  obtain ⟨h1, h2, h3, h4, h5, h6, h7, h8, h9, h10⟩ := h
  exact ⟨h1.trans (congrArg Task.s hbut :), h2.trans (congrArg Task.q hbut :), h3.trans (congrArg Task.pend hbut :),
    h4.trans (congrArg Task.areg hbut :), h5.trans (congrArg Task.k hbut :), h6.trans (congrArg Task.empty hbut :),
    h7.trans (congrArg Task.toks hbut :), h8.trans (congrArg Task.tslot hbut :), h9.trans (congrArg Task.tver hbut :),
    fun hd => (h10 ((congrArg Task.drains hbut :).trans hd)).trans (congrArg Task.v hbut :)⟩

/-- A parked product with both operands at hand takes its place, and its entry leaves the queue. -/
theorem reFire_enters (h : s.task? c e.slot = some t) (hrun : e.run = none) (htook : e.took = []) (la lb : OpLook) (a b : List Byte)
    {pre post : List Pending} {x : Pending} (hmq : t.mq = pre ++ x :: post) (hn : x.n = e.n) (hopen : x.open_ = true)
    (hothers : ∀ y ∈ pre ++ post, y.n ≠ e.n) :
    ∃ t', (s.reFire c t e la lb a b).task? c e.slot = some t'
      ∧ changes t'.mq = changes pre ++ (x.bank, e.prod.change a b, false) :: changes post
      ∧ (∀ f ∈ ((s.reFire c t e la lb a b).core c).replay, f.n ≠ e.n) ∧ MKept t t' ∧ (s.reFire c t e la lb a b).mem = s.mem := by
  obtain ⟨u, hread⟩ := (Reads.refl h).readProd t e.prod la lb e.waited
  rw [← htook] at hread
  obtain ⟨htask, hreplay, hmem⟩ := freeParked_leaves (task_modTask_same hread.task (withFired e (e.prod.change a b) _))
  rw [reFire_product hrun]
  refine ⟨_, htask, ?_, hreplay, mKept_of_reads hread.but (kept_withoutPlace ..), hmem.trans ((modTask_mem ..).trans hread.mem)⟩
  have hu : u.mq = pre ++ x :: post := (congrArg Task.mq hread.but :).trans hmq
  unfold withoutPlace withFired
  rw [hu]
  exact changes_fired hn hopen rfl hothers rfl

end

/-! ## REPLAY_REENTRY -/

/-- REPLAY_REENTRY of a product whose operands its lookups find: what it has taken before is none of them (R156). -/
theorem replayReentry_enters {s : State} {core : CoreId} {slot : SlotId} {t : Task} (h : s.task? core.val slot.val = some t) {e : Parked}
    (hfind : (s.core core.val).replay.find? (parkedReady s core.val) = some e) (hslot : e.slot = slot.val) (hrun : e.run = none)
    (htook : e.took = []) {pre post : List Pending} {x : Pending} (hmq : t.mq = pre ++ x :: post) (hn : x.n = e.n) (hopen : x.open_ = true)
    (hothers : ∀ y ∈ pre ++ post, y.n ≠ e.n) (hpages : ∃ pg, prodPages s (dieOf core.val) t e.prod = .ok pg) {a b : List Byte}
    (ha : (lookOp s core.val t e.prod.atag e.prod.aneed e.known).data = some a)
    (hb : (lookOp s core.val t e.prod.btag e.prod.bneed e.known).data = some b) :
    ∃ s' t', exec (.replayReentry core) s = .next s' ∧ s'.task? core.val slot.val = some t'
      ∧ changes t'.mq = changes pre ++ (x.bank, e.prod.change a b, false) :: changes post
      ∧ (∀ f ∈ (s'.core core.val).replay, f.n ≠ e.n) ∧ MKept t t' ∧ s'.mem = s.mem := by
  rw [← hslot] at h ⊢
  obtain ⟨pg, hpages⟩ := hpages
  have hentering : e.entering t = .inl e := by
    unfold Parked.entering
    rw [hrun]
    cases t.run.filter (fun r => r.parked && r.iaddr = e.iaddr)
    · rfl
    · rfl
  have hexec : exec (.replayReentry core) s = .next (s.reFire core.val t e (lookOp s core.val t e.prod.atag e.prod.aneed e.known)
      (lookOp s core.val t e.prod.btag e.prod.bneed e.known) a b) := by
    change execReplayReentry core s = _
    unfold execReplayReentry State.reEnter
    simp only [hfind, h, hentering, hpages, ha, hb, htook, List.find?_nil, Option.map_some, Option.map_none, Option.getD_none]
  obtain ⟨t', htask, hrest⟩ := reFire_enters h hrun htook (lookOp s core.val t e.prod.atag e.prod.aneed e.known)
    (lookOp s core.val t e.prod.btag e.prod.bneed e.known) a b hmq hn hopen hothers
  exact ⟨_, t', hexec, htask, hrest⟩

end Sys2Proof.Reentry
end

section
/-!
PROOFS. The events of the matrix stream (spec/06 R153, R154, R171, spec/11 R287, spec/12 R305, R306, spec/13 R313).
-/

namespace Sys2Proof.BankEventClauses
open Sys2Proof Sys2Proof.Machine Sys2Proof.Claim

theorem missFault_eq (t : Task) : missFault t = (t.st .m).hdr.getLsbD 0 := by
  unfold missFault nbit
  rw [pow_zero, Nat.div_one, BitVec.getLsbD, Nat.testBit_zero]

/-- Settles O41: a landing by its turn, a stamp by its cycle, a token by its FIFO, a re-entry by the place that its product takes. -/
theorem bankEvents : Obligations.BankEvents := by
  unfold Obligations.BankEvents
  intro s core slot t h
  refine ⟨fun pre post x hmq hopen hmix hdue hpre => BankLandings.bankLanding_lands h hmq hopen hmix hdue hpre,
    fun off hstamp => ⟨StampedIssue.stampedIssue_early h hstamp, fun hask hcyc hcan a per n hi => ⟨fun hlate hmiss => ?_, fun hmiss => ?_⟩⟩,
    fun r rest hr hleft hmqs hpast hown => ⟨ReadyTokens.bankReadyToken_sends h hr hleft hmqs hpast hown,
      fun hroom hrest => ReadyTokens.bankReadyToken_waits h (hrest ▸ hr) hleft hown hroom⟩,
    fun bank => ReadyTokens.bankRelease_frees,
    fun e pre post x u v hfind hslot hrun htook hmq hn hopen hothers hpages ha hb =>
      Reentry.replayReentry_enters h hfind hslot hrun htook hmq hn hopen hothers hpages ha hb⟩
  · exact StampedIssue.stampedMstb_traps h hstamp hask hcan hi hlate ((missFault_eq t).trans hmiss) rfl
  · obtain ⟨s', hexec, htask, hcur, hmem⟩ := StampedIssue.stampedMstb_issues h hstamp hask hcyc hcan hi
      (hmiss.imp_right (missFault_eq t).trans)
    obtain ⟨hst, hnone, hbase, hper⟩ := StampedIssue.st_afterStampedMstb (decide (stampAt t off < s.cyc.toNat)) (t.a .m a.val) per t
    obtain ⟨honTime, hlate⟩ := StampedIssue.status_afterStampedMstb (t.a .m a.val) per t
    refine ⟨s', _, hexec, htask, hnone, hbase, hper, hst, fun he => ?_, fun hl => ?_, StampedIssue.afterStampedMstb_but .., hcur, hmem⟩
    · rw [decide_eq_false (Nat.not_lt.2 he.ge), honTime]
    · rw [decide_eq_true hl, hlate]
      exact StampedIssue.status_missed t

end Sys2Proof.BankEventClauses
end

section
/-!
PROOFS. A task slot that is listed twice. The statements about MANCH, MMA and GROW claim that a task without drains keeps its vector
registers (`MKept`), for every state. A state may list the issuing slot's number twice: the first entry is the task, and the second
one holds a drain that is not ordered before the change. The change spoils the drains of every entry, and what that drain has still
to write then goes to the first task under that number, which has no drain itself (`State.spoilBank`, spec/06 R148).
-/

namespace Sys2Proof.ListedTwice
open Sys2Proof Sys2Proof.Machine Sys2Proof.Claim

/-! ## The device -/

/-- A drain of bank 0 into V0 with one cell still to write, behind no token that the M stream has seen. -/
def openDrain : Drain := { bank := 0, row0 := 0, rows := 16, v := 0, serial := 0, left := 1, stored := [] }

/-- A core that lists slot 0 twice: the task that every access to slot 0 reads, and behind it the same task with a drain of bank 0. -/
def twice (t : Task) : Core := { Core.reset with slots := [(0, t), (0, { t with drains := [openDrain] })] }

/-- The M stream of slot 0 issues on such a core, which holds these tiles in its operand latches. -/
def issuing (t : Task) (latch : List Latch) : State :=
  { State.reset with
    cur := { core := 0, slot := 0, stream := .m }
    cores := [(0, { twice t with latch := latch })] }

/-- A task that has written no vector register, has no drain and owns bank 0. -/
def owner : Task := newTask 0 0 probeCr noEff 1 none 0 0 [(0, .own 0)]

/-- Does an outcome leave the issuing task with no vector register written? -/
def unwritten : Out → Bool
  | .next s => (s.curTask.map (fun t => t.v.isEmpty)).getD true
  | _ => true

/-- A task without drains that keeps what `MKept` names is left with no vector register written where it had none. -/
theorem unwritten_of_mKept {s' : State} {t t' : Task} (h : s'.curTask = some t') (kept : MKept t t') (hd : t.drains = []) (hv : t.v = []) :
    unwritten (.next s') = true := by
  obtain ⟨-, -, -, -, -, -, -, -, -, v⟩ := kept
  simp [unwritten, h, v hd, hv]

theorem unwritten_of_issued {s s' : State} {t : Task} {ops : List (Nat × Change)} {n : Nat} (h : Issued s s' t ops n)
    (hd : t.drains = []) (hv : t.v = []) : unwritten (.next s') = true := by
  obtain ⟨t', cur, -, -, kept, -⟩ := h
  exact unwritten_of_mKept cur kept hd hv

theorem unwritten_of_entered {s s' : State} {t : Task} {q : Prod} {x y : List Byte} {tok : Bool} {st : StreamCtx}
    (h : Entered s s' t q x y tok st) (hd : t.drains = []) (hv : t.v = []) : unwritten (.next s') = true := by
  obtain ⟨t', cur, -, -, kept, -⟩ := h
  exact unwritten_of_mKept cur kept hd hv

/-! ## A bank operation -/

theorem mCan_owner : MCan (issuing owner []) owner := ⟨rfl, rfl, rfl⟩

theorem owns_owner : Owns (issuing owner []) owner 0 0 := ⟨rfl, rfl⟩

/-- MANCH of bank 0 writes a cell of V0. -/
theorem manch_writes_vector : unwritten (exec (.manch 0 0) (issuing owner [])) = false := by decide +kernel

/-- Refutes O39: where slot 0 is listed twice, MANCH changes V0 of a task that has no drain. -/
theorem not_bankOperations : ¬ Obligations.BankOperations := by
  unfold Obligations.BankOperations
  intro h
  obtain ⟨closed, -⟩ := h _ _ mCan_owner
  obtain ⟨-, manch, -⟩ := closed (fun y hy => nomatch hy)
  obtain ⟨⟨s', hs, issued⟩, -⟩ := manch 0 0 0 owns_owner
  have kept := unwritten_of_issued issued rfl rfl
  rw [← hs, manch_writes_vector] at kept
  exact absurd kept (by decide)

/-! ## A product -/

/-- A BF16 descriptor of tensor 0, of tiles of one element, at remote addresses, whose pages the product does not check. -/
def tileDesc : List Byte :=
  bytesOf 8 0 ++ bytesOf 2 0 ++ bytesOf 2 0x81 ++ bytesOf 2 1 ++ bytesOf 2 1 ++ bytesOf 4 1 ++ bytesOf 4 1 ++ bytesOf 2 1 ++ bytesOf 2 1
    ++ List.replicate 36 0

/-- The task with that descriptor in T0. -/
def multiplier : Task := { owner with tslot := [(0, tileDesc)] }

/-- Bank 0 gains the product of the tile that T0 and A0 name with itself. -/
def operands : MOps := { bank := 0, aslot := 0, acoord := 0, bslot := 0, bcoord := 0, ctl := .acc, fmt := .bf16, xv := false }

/-- That product. -/
def square : Prod := mkProd multiplier operands 0 (tileDesc, tileDesc) 0 0 0 .none .none false none

/-- The device with its tile in the operand latches. -/
def squaring : State := issuing multiplier [{ tag := square.atag, ver := 0, data := [], spec := false }]

theorem mCan_multiplier : MCan squaring multiplier := ⟨rfl, rfl, rfl⟩

theorem owns_multiplier : Owns squaring multiplier 0 0 := ⟨rfl, rfl⟩

theorem formats_multiplier : Formats multiplier operands tileDesc tileDesc :=
  ⟨by decide +kernel, by decide +kernel, by decide +kernel, by decide +kernel⟩

theorem atHand_square : AtHand squaring multiplier square [] [] := by
  refine ⟨⟨[], by rfl⟩, by decide +kernel, by decide +kernel, ?_, by decide +kernel⟩
  exact fun e he => nomatch he

/-- MMA of that product writes a cell of V0. -/
theorem mma_writes_vector : unwritten (exec (.mma operands 0 0 .none .none false) squaring) = false := by decide +kernel

/-- Refutes O40: where slot 0 is listed twice, MMA with both operands at hand changes V0 of a task that has no drain. -/
theorem not_productsEnter : ¬ Obligations.ProductsEnter := by
  unfold Obligations.ProductsEnter
  intro h
  obtain ⟨mma, -⟩ := h _ _ operands 0 _ _ mCan_multiplier rfl owns_multiplier formats_multiplier (fun hc => nomatch hc)
  obtain ⟨atHand, -⟩ := mma 0 .none .none false (by decide)
  obtain ⟨s', hs, entered⟩ := atHand [] [] atHand_square
  have kept := unwritten_of_entered entered rfl rfl
  rw [← hs, mma_writes_vector] at kept
  exact absurd kept (by decide)

/-! ## The rows of a grammar page -/

/-- The task with a page of no rule and one empty row in the grammar unit, and its window at V0. -/
def parser : Task :=
  { owner with gram := { page := some ([0, 0, 1], []), pageVa := 0, win := some (0, false), base := 0, count := 0, anchor := 0, slots := [] } }

/-- The sums of that page read these. -/
def parserEnv : GEnv :=
  { page := [0, 0, 1], syms := pageSyms [0, 0, 1], bf16 := false, vals := [], input := winInput parser 0, anchor := 0 }

theorem mCan_parser : MCan (issuing parser []) parser := ⟨rfl, rfl, rfl⟩

theorem owns_parser : Owns (issuing parser []) parser 0 0 := ⟨rfl, rfl⟩

/-- Its window is full: no register of the task is empty. -/
theorem winFull_parser : winFull parser = true := by decide +kernel

/-- Row 0 of the page refers to no rule. -/
theorem span_parser : spanOf parserEnv.page parserEnv.syms 0 = [] := by decide +kernel

/-- GROW of row 0 into bank 0 writes a cell of V0. -/
theorem grow_writes_vector : unwritten (exec (.grow 0 0 false 1) (issuing parser [])) = false := by decide +kernel

/-- Refutes O42: where slot 0 is listed twice, GROW of an empty row changes V0 of a task that has no drain. -/
theorem not_grammarInstructions : ¬ Obligations.GrammarInstructions := by
  unfold Obligations.GrammarInstructions
  intro h
  obtain ⟨-, -, -, -, grow, -⟩ := h _ _ mCan_parser
  obtain ⟨rows, -⟩ := grow 0 0 false 1 0 parserEnv owns_parser (by rfl) (by decide +kernel) (by decide) (by decide) (by decide +kernel)
    winFull_parser (by decide +kernel)
  have noRule : ∀ i, i < (1 : Fin 32).val → ∀ m, refersTo parserEnv ((gHead parserEnv.page).nrule + (parser.a .m 0).toNat % 2 ^ 16 + i) m →
      ∃ x, slotVal (issuing parser []) parser m = some x := by
    intro i hi m hm
    obtain rfl : i = 0 := by have : (1 : Fin 32).val = 1 := rfl; omega
    have hm' : GSym.ref m ∈ spanOf parserEnv.page parserEnv.syms 0 := hm
    simp [span_parser] at hm'
  obtain ⟨s', _, hs, issued, -⟩ := rows noRule
  have kept := unwritten_of_issued issued rfl rfl
  rw [← hs, grow_writes_vector] at kept
  exact absurd kept (by decide)

end Sys2Proof.ListedTwice
end

section
/-!
PROOFS. How copy instructions issue (spec/07 R180, R182, R195 to R199, R211): their checks, and the slot that one claims for its work.
-/

namespace Sys2Proof.CopyClaims
open Sys2Proof Sys2Proof.Machine Sys2Proof.Laws Sys2Proof.Claim Sys2Proof.Traffic Sys2Proof.Control Sys2Proof.VectorIssue
  Sys2Proof.VectorLoads Sys2Proof.ResultFrame

/-! ## The sync word (Table 7-1) -/

theorem checkSync_ok {s : State} {t : Task} {f : SwF} {w : Option (Nat × Nat)} (hc : s.cur.stream = .c) (h : SyncOk s t f w) :
    checkSync s t f = .ok w := by
  unfold checkSync State.areg
  rw [hc]
  rcases h with ⟨huse, rfl⟩ | ⟨l, pa, huse, halign, hcoh, rfl, hx⟩
  · simp [huse]
  · simp [huse, halign, hx, hcoh]

theorem checkSync_misaligned {s : State} {t : Task} {f : SwF} (hc : s.cur.stream = .c) (huse : f.use = true)
    (h : (t.a .c f.sw.val).toNat % 16 ≠ 0) : checkSync s t f = .bad fAlign (t.a .c f.sw.val) := by
  unfold checkSync State.areg
  rw [hc]
  simp [huse, h]

theorem checkSync_notCoh {s : State} {t : Task} {f : SwF} {l : Leaf} {pa : Nat} (hc : s.cur.stream = .c) (huse : f.use = true)
    (halign : (t.a .c f.sw.val).toNat % 16 = 0) (hx : xlate s s.curDie t.pav (t.a .c f.sw.val).toNat .write = .ok l pa)
    (hcoh : l.cls ≠ .coh) : checkSync s t f = .bad fSyncClass (t.a .c f.sw.val) := by
  unfold checkSync State.areg
  rw [hc]
  simp [huse, halign, hx, hcoh]

/-! ## The slot (R180, R182) -/

/-- The slot that an instruction of the issuing stream claims. -/
def newSlot (s : State) (t : Task) (major : Nat) (desc : List Byte) (w : Option (Nat × Nat)) (rd : Nat) (op : CopyOp) : CopySlot :=
  { id := s.nextId, seen := (t.st s.cur.stream).seen, ctx := s.cur, uid := t.uid, task := t.taskid, pav := t.pav, key := t.key,
    region := t.cr.region.toNat, acct := t.cr.lacct.toNat, blk := s.curSt.blkId, iaddr := s.curSt.pc, major := BitVec.ofNat 8 major,
    state := 0, cause := 0, detail := 0, bytes := 0, count2 := 0, faddr := 0, sync := w, desc := desc, rd := rd, op := op,
    stage := .start, adds := [], parkN := 0, waited := false, carry := [] }

/-- The issuing core's lowest free slot. -/
def freeSlotNo (s : State) : Nat := lowestFree s.curCore.copies

/-- The state in which the issuing stream has claimed a slot and moved on. -/
def claimedBy (s : State) (x : CopySlot) (prep : State → State) : State :=
  ((prep s.fresh).putSlot s.cur.core.val (freeSlotNo s) x).finish 3

section
variable {s : State} {t : Task} {major rd : Nat} {f : SwF} {desc : List Byte} {op : CopyOp} {prep : State → State}
  {w : Option (Nat × Nat)}

theorem claim_free (h : checkSync s t f = .ok w) (hfree : s.curCore.copies.length < 1024) :
    s.claim t major f desc rd op prep = claimedBy s (newSlot s t major desc w rd op) prep := by
  unfold State.claim
  simp only [h, if_neg (Nat.not_le.2 hfree)]
  rfl

theorem claim_full (h : checkSync s t f = .ok w) (hfull : 1024 ≤ s.curCore.copies.length) :
    s.claim t major f desc rd op prep = s := by
  unfold State.claim
  simp only [h, if_pos hfull]

theorem claim_bad {c : BitVec 8} {va : Word64} (h : checkSync s t f = .bad c va) :
    s.claim t major f desc rd op prep = (dropFailed s s.curDie t.pav va.toNat).takeFault c va := by
  unfold State.claim
  simp only [h]

end

/-! ## What a claim leaves -/

/-- Putting a slot away leaves tasks and memory. -/
theorem onlyTraffic_putSlot (s : State) (c n : Nat) (x : CopySlot) : OnlyTraffic s (s.putSlot c n x) :=
  OnlyTraffic.modCore s c fun _ => rfl

theorem copies_putSlot (s : State) (c n : Nat) (x : CopySlot) : ((s.putSlot c n x).core c).copies = mset n x (s.core c).copies :=
  congrArg Core.copies (core_modCore_same s c _)

theorem copies_of_oneTask {s s' : State} (h : OneTask s s') (b : Nat) : (s'.core b).copies = (s.core b).copies :=
  (congrArg Core.copies (h.cores b) :)

/-- A claim that changes the issuing task to `u`: the task moved on, the slot put in a free place, memory and requests as before. -/
theorem claimedBy_leaves {s : State} {u : Task} {x : CopySlot} {prep : State → State} (hc : s.cur.stream = .c)
    (hprep : OneTask s.fresh (prep s.fresh)) (hu : (prep s.fresh).curTask = some u) :
    (claimedBy s x prep).curTask = some (u.modSt .c (fun y => y.advance 3))
    ∧ (claimedBy s x prep).curCore.copies = mset (freeSlotNo s) x s.curCore.copies
    ∧ SameBytes s (claimedBy s x prep) ∧ (claimedBy s x prep).reqs = s.reqs ∧ (claimedBy s x prep).cur = s.cur := by
  have hput := onlyTraffic_putSlot (prep s.fresh) s.cur.core.val (freeSlotNo s) x
  have hfin := oneTask_finish (OneTask.refl ((prep s.fresh).putSlot s.cur.core.val (freeSlotNo s) x)) 3
  have hcur : ((prep s.fresh).putSlot s.cur.core.val (freeSlotNo s) x).cur = s.cur := hput.cur.trans hprep.cur
  refine ⟨?_, ?_, ?_, ?_, hfin.cur.trans hcur⟩
  · unfold claimedBy
    rw [curTask_finish (hput.curTask.trans hu), hcur, hc]
  · unfold State.curCore claimedBy
    rw [hfin.cur, hcur, copies_of_oneTask hfin, copies_putSlot, copies_of_oneTask hprep]
    rfl
  · have hready := sameBytes_trans (OnlyTraffic.fresh s).sameBytes (sameBytes_of_oneTask hprep)
    exact sameBytes_trans (sameBytes_trans hready hput.sameBytes) (sameBytes_of_oneTask hfin)
  · have hreqs := reqs_of_oneTask hprep
    exact (reqs_of_oneTask hfin).trans hreqs

theorem claimed_of_free {s : State} {t : Task} (ht : s.curTask = some t) (hc : s.cur.stream = .c) (major : Nat)
    (w : Option (Nat × Nat)) (rd : Nat) (op : CopyOp) :
    Claimed s (claimedBy s (newSlot s t major [] w rd op) id) t major w rd op := by
  obtain ⟨htask, hcopies, hbytes, hreqs, -⟩ :=
    claimedBy_leaves (prep := id) (x := newSlot s t major [] w rd op) hc (OneTask.refl s.fresh) ht
  refine ⟨⟨_, htask, st_modSt_same .., modSt_but_strm ..⟩, ⟨freeSlotNo s, newSlot s t major [] w rd op, mfind_lowestFree _, ?_, rfl, rfl, rfl,
    rfl, rfl, rfl, ?_, rfl, rfl, rfl, ?_, fun m hm => ?_⟩, hbytes, hreqs⟩
  · rw [hcopies, mfind_mset_same]
  · exact (congrArg StreamCtx.pc (curSt_eq ht)).trans (by rw [hc])
  · show (t.st s.cur.stream).seen = _
    rw [hc]
  · rw [hcopies, mfind_mset_other hm]

/-! ## The instructions (R195 to R199, R211) -/

section
variable {s : State} {t : Task} {major rd : Nat} {f : SwF} {ok : Task → Bool} {op : Task → CopyOp}

/-- A copy instruction whose operands pass: by what its sync word comes to. -/
theorem copyInsn_passes (ht : s.curTask = some t) (h : ok t = true) :
    copyInsn major f rd ok op s = .next (s.claim t major f [] rd (op t) id) := by
  unfold copyInsn
  rw [onTask_some ht, h]
  rfl

theorem copyInsn_refused (ht : s.curTask = some t) (h : ok t = false) :
    copyInsn major f rd ok op s = .next (s.takeFault fIllegalOperand 0) := by
  unfold copyInsn
  rw [onTask_some ht, h]
  rfl

/-- The clause of `CopyInstructionsClaimSlots` for one instruction. -/
theorem copyInsn_claims {i : Instr} {good : Prop} {work : CopyOp} (ht : s.curTask = some t) (hc : s.cur.stream = .c)
    (hi : exec i s = copyInsn major f rd ok op s) (hgood : ok t = true ↔ good) (hop : op t = work) :
    let a := fun (r : AReg) => (t.a .c r.val).toNat
    (good → ∀ w, SyncOk s t f w →
        (s.curCore.copies.length < 1024 → ∃ s', exec i s = .next s' ∧ Claimed s s' t major w rd work)
        ∧ (1024 ≤ s.curCore.copies.length → exec i s = .next s))
      ∧ (¬ good → exec i s = .next (s.takeFault fIllegalOperand 0))
      ∧ (good → f.use = true → (a f.sw % 16 ≠ 0 → exec i s = .next ((dropFailed s s.curDie t.pav (a f.sw)).takeFault fAlign (t.a .c f.sw.val)))
        ∧ (∀ l pa, a f.sw % 16 = 0 → xlate s s.curDie t.pav (a f.sw) .write = .ok l pa → l.cls ≠ .coh →
            exec i s = .next ((dropFailed s s.curDie t.pav (a f.sw)).takeFault fSyncClass (t.a .c f.sw.val)))) := by
  have hpass : good → exec i s = .next (s.claim t major f [] rd work id) := fun h =>
    hi.trans (hop ▸ copyInsn_passes ht (hgood.2 h))
  refine ⟨fun h w hw => ⟨fun hfree => ⟨_, (hpass h).trans ?_, claimed_of_free ht hc major w rd work⟩, fun hfull => (hpass h).trans ?_⟩,
    fun h => hi.trans (copyInsn_refused ht (Bool.eq_false_iff.2 fun e => h (hgood.1 e))),
    fun h huse => ⟨fun hmis => (hpass h).trans ?_, fun l pa hal hx hcls => (hpass h).trans ?_⟩⟩
  · rw [claim_free (checkSync_ok hc hw) hfree]
  · rw [claim_full (checkSync_ok hc hw) hfull]
  · rw [claim_bad (checkSync_misaligned hc huse hmis)]
  · rw [claim_bad (checkSync_notCoh hc huse hal hx hcls)]

end

theorem areg_of_copy {s : State} (hc : s.cur.stream = .c) (t : Task) (n : Nat) : s.areg t n = t.a .c n := by
  unfold State.areg
  rw [hc]

theorem lenOk_iff (v : Word64) : lenOk v = true ↔ v.toNat < 2 ^ 36 := decide_eq_true_iff

theorem dimOk_iff {s : State} (hc : s.cur.stream = .c) (t : Task) (len : AReg) (m : Dim2) :
    dimOk s t len m = true ↔ (t.a .c len.val).toNat < 2 ^ 36 ∧ (t.a .c m.cnt.val).toNat < 2 ^ 32 := by
  simp only [dimOk, areg_of_copy hc, Bool.and_eq_true, lenOk_iff, decide_eq_true_iff]

/-- The target register of CPYR as it is read: the node and the pavilion (R197). -/
theorem nbits_target (v : Nat) : nbits v 15 0 = v % 2 ^ 16 ∧ nbits v 22 16 = v / 2 ^ 16 % 2 ^ 7 := by
  simp [nbits]

/-- Settles O36: each instruction by its operand check and the work it reads, the claim by the sync word and the free slots. -/
theorem copyInstructionsClaimSlots : Obligations.CopyInstructionsClaimSlots := by
  unfold Obligations.CopyInstructionsClaimSlots
  intro s t ht hc
  have areg := areg_of_copy hc t
  refine ⟨fun dst src len sw rd => ⟨?_, fun m => ⟨?_, ?_, ?_⟩, fun z => ?_, fun tok tgt => ?_, fun tok tgt op => ?_, fun win => ⟨?_, ?_⟩⟩,
    fun sw amt => ?_⟩
  · exact copyInsn_claims ht hc rfl (by rw [areg, lenOk_iff]) (by simp only [areg])
  · exact copyInsn_claims ht hc rfl (dimOk_iff hc t len m) (by simp only [areg])
  · exact copyInsn_claims ht hc rfl (dimOk_iff hc t len m) (by simp only [areg])
  · exact copyInsn_claims ht hc rfl (dimOk_iff hc t len m) (by simp only [areg])
  · exact copyInsn_claims ht hc rfl (by simp only [areg, Bool.and_eq_true, lenOk_iff, decide_eq_true_iff, and_assoc]) (by simp only [areg])
  · exact copyInsn_claims ht hc rfl (by simp only [areg, Bool.and_eq_true, lenOk_iff, targetOk, decide_eq_true_iff])
      (by simp only [areg, nbits_target])
  · exact copyInsn_claims ht hc rfl (by simp only [areg, Bool.and_eq_true, lenOk_iff, targetOk, decide_eq_true_iff, and_assoc])
      (by simp only [areg, nbits_target])
  · exact copyInsn_claims ht hc rfl (by simp only [areg, Bool.and_eq_true, lenOk_iff, winOk, decide_eq_true_iff]) (by simp only [areg])
  · exact copyInsn_claims ht hc rfl (by simp only [areg, Bool.and_eq_true, lenOk_iff, winOk, decide_eq_true_iff]) (by simp only [areg])
  · exact copyInsn_claims ht hc rfl (by rw [areg, lenOk_iff]) (by simp only [areg])

end Sys2Proof.CopyClaims
end

section
/-!
PROOFS. Stores of entries: what deletion leaves, and what is listed where (the sparse stores of Machine/Maps).
-/

namespace Sys2Proof.Stored
open Sys2Proof Sys2Proof.Machine

theorem mfind_mdel_same {α : Type} (k : Nat) (m : SMap α) : mfind k (mdel k m) = none := by
  induction m with
  | nil => rfl
  | cons p m ih =>
    obtain ⟨j, w⟩ := p
    unfold mdel
    split
    · exact ih
    · next h => rw [mfind, if_neg h, ih]

theorem mfind_mdel_other {α : Type} {j k : Nat} (h : j ≠ k) (m : SMap α) : mfind j (mdel k m) = mfind j m := by
  induction m with
  | nil => rfl
  | cons p m ih =>
    obtain ⟨i, w⟩ := p
    unfold mdel
    split
    · next hi => rw [ih, mfind, if_neg fun e => h (e.symm.trans hi)]
    · rw [mfind, mfind, ih]

theorem mem_of_mfind {α : Type} {k : Nat} {v : α} {m : SMap α} (h : mfind k m = some v) : (k, v) ∈ m := by
  induction m with
  | nil => cases h
  | cons p m ih =>
    obtain ⟨j, w⟩ := p
    rw [mfind] at h
    split at h
    · next hj => cases h; exact hj ▸ List.mem_cons_self
    · exact List.mem_cons_of_mem _ (ih h)

/-- An entry is listed after a store is set only if it is the one set, or was listed before. -/
theorem mem_mset {α : Type} {k : Nat} {v : α} {m : SMap α} {e : Nat × α} (h : e ∈ mset k v m) : e = (k, v) ∨ e ∈ m := by
  induction m with
  | nil => exact .inl (List.mem_singleton.1 h)
  | cons p m ih =>
    obtain ⟨j, w⟩ := p
    unfold mset at h
    split at h
    · exact List.mem_cons.1 h
    · split at h
      · exact (List.mem_cons.1 h).imp_right (List.mem_cons_of_mem _)
      · rcases List.mem_cons.1 h with h | h
        · exact .inr (h ▸ List.mem_cons_self)
        · exact (ih h).imp_right (List.mem_cons_of_mem _)

end Sys2Proof.Stored
end

section
/-!
PROOFS. Tile slots and queries of the copy stream (spec/07 R201 to R206, R209, R210, spec/12 R297, R298): a tile instruction claims its
slot and acts at once on the line that its lookup hits.
-/

namespace Sys2Proof.TileSlots
open Sys2Proof Sys2Proof.Machine Sys2Proof.Laws Sys2Proof.Claim Sys2Proof.Traffic Sys2Proof.VectorIssue Sys2Proof.VectorLoads
  Sys2Proof.Control Sys2Proof.ResultFrame Sys2Proof.TileTraffic Sys2Proof.TileAccesses Sys2Proof.CopyClaims Sys2Proof.Stored

/-! ## Owners of slots (R180) -/

/-- A task that a slot holds is among the resident ones. -/
theorem mem_tasks {s : State} {c l : Nat} {t : Task} (h : s.task? c l = some t) : (c, l, t) ∈ s.tasks := by
  have hslot := mem_of_mfind h
  have hcore : (c, s.core c) ∈ s.cores := by
    unfold State.core mget at hslot ⊢
    cases hfind : mfind c s.cores with
    | none => rw [hfind] at hslot; cases hslot
    | some k => exact mem_of_mfind hfind
  exact List.mem_flatMap.2 ⟨_, hcore, List.mem_map.2 ⟨_, hslot, rfl⟩⟩

/-- The identity of a resident task names a task. -/
theorem byUid_isSome {s : State} {c l : Nat} {t : Task} (h : s.task? c l = some t) : ∃ u, s.byUid t.uid = some u := by
  have hfind : (s.tasks.find? (fun p => p.2.2.uid = t.uid)).isSome = true :=
    List.find?_isSome.2 ⟨_, mem_tasks h, decide_eq_true rfl⟩
  obtain ⟨⟨c', l', u⟩, hu⟩ := Option.isSome_iff_exists.1 hfind
  exact ⟨u, by simp only [State.byUid, ownerOf, hu]⟩

/-! ## Lines and pins (R206) -/

/-- A tile that no task of a die has pinned stays so while a core is changed but for its pins. -/
theorem not_pinned_modCore {s : State} {c die : Nat} {g : TTag} {f : Core → Core} (hf : ∀ k, (f k).pins = k.pins)
    (h : pinned s die g = false) : pinned (s.modCore c f) die g = false := by
  have hnone : ∀ e ∈ s.cores, dieOf e.1 = die → ∀ p ∈ e.2.pins, p.tag ≠ g := by
    simpa [pinned, dieCores] using h
  suffices ∀ e ∈ (s.modCore c f).cores, dieOf e.1 = die → ∀ p ∈ e.2.pins, p.tag ≠ g by simpa [pinned, dieCores] using this
  intro e he hd p hp
  rcases mem_mset he with rfl | he
  · rw [hf] at hp
    unfold State.core mget at hp
    cases hfind : mfind c s.cores with
    | none => rw [hfind] at hp; cases hp
    | some k =>
      rw [hfind] at hp
      exact hnone _ (mem_of_mfind hfind) hd p hp
  · exact hnone e he hd p hp

theorem not_pinned_modTask {s : State} {c l die : Nat} {g : TTag} (f : Task → Task) (h : pinned s die g = false) :
    pinned (s.modTask c l f) die g = false := by
  unfold State.modTask
  split
  · exact not_pinned_modCore (fun _ => rfl) h
  · exact h

/-! ## What an act on a tile leaves -/

/-- The issuing task keeps all but its itinerary, and memory its bytes. -/
structure Acts (s s' : State) : Prop where
  cur : s'.cur = s.cur
  mem : s'.mem = s.mem
  task : ∀ u, s.curTask = some u → ∃ v, s'.curTask = some v ∧ { v with itin := u.itin } = u

namespace Acts
variable {s s' s'' : State}

theorem trans (h : Acts s s') (h' : Acts s' s'') : Acts s s'' := by
  refine ⟨h'.cur.trans h.cur, h'.mem.trans h.mem, fun u hu => ?_⟩
  obtain ⟨v, hv, hvu⟩ := h.task u hu
  obtain ⟨w, hw, hwv⟩ := h'.task v hv
  exact ⟨w, hw, (congrArg (fun x : Task => { x with itin := u.itin }) hwv).trans hvu⟩

theorem of_sameTasks (h : SameTasks s s') : Acts s s' := ⟨h.cur, h.mem, fun u hu => ⟨u, h.curTask.trans hu, rfl⟩⟩

/-- A task that moves on in its itinerary, whichever it is (R209). -/
theorem modUid_consume (s : State) (uid : Nat) (g : TTag) : Acts s (s.modUid uid (fun t => t.consume g)) := by
  unfold State.modUid
  split
  case h_1 c l _ _ =>
    refine ⟨modTask_cur .., modTask_mem .., fun u hu => ?_⟩
    by_cases hcl : (s.cur.core.val, s.cur.slot.val) = (c, l)
    · obtain ⟨rfl, rfl⟩ := Prod.mk.inj hcl
      exact ⟨u.consume g, curTask_modCur hu _, rfl⟩
    · refine ⟨u, ?_, rfl⟩
      unfold State.curTask
      rw [modTask_cur, task_modTask_other s hcl]
      exact hu
  case h_2 => exact ⟨rfl, rfl, fun u hu => ⟨u, hu, rfl⟩⟩
  case h_3 => exact of_sameTasks (SameTasks.refl s)

end Acts

theorem sameTasks_pinFor (s : State) (x : CopySlot) (t : Task) (way : Nat) (l : TLine) : SameTasks s (s.pinFor x t way l).1 := by
  unfold State.pinFor
  split
  · exact SameTasks.ite_fst (SameTasks.of_traffic (onlyTraffic_addPin ..)) (SameTasks.refl s)
  · exact ⟨fun _ _ => rfl, rfl, rfl⟩
  · exact SameTasks.refl s

theorem sameTarns_pinFor (s : State) (x : CopySlot) (t : Task) (way : Nat) (l : TLine) : SameTarns s (s.pinFor x t way l).1 := by
  unfold State.pinFor
  split
  · split
    · exact SameTarns.addPin ..
    · exact SameTarns.refl s
  · exact SameTarns.of_dies rfl
  · exact SameTarns.refl s

theorem sameTarns_modUid (s : State) (uid : Nat) (f : Task → Task) : SameTarns s (s.modUid uid f) := by
  unfold State.modUid
  split
  · exact SameTarns.of_dies (modTask_dies ..)
  · exact SameTarns.of_dies rfl
  · exact SameTarns.refl s

/-- A slot's read that records no version marks the line read, takes the pin that its hint asks for, and acquires the line's publish. -/
theorem slotReads_unnoted (s : State) (x : CopySlot) (t : Task) (way : Nat) (l : TLine) (need : TNeed) (hit : Bool) :
    ∃ s', SameTasks (s.modLine (dieOf x.ctx.core.val) way (fun l => l.read need hit s.cyc)) s'
      ∧ SameTarns (s.modLine (dieOf x.ctx.core.val) way (fun l => l.read need hit s.cyc)) s'
      ∧ (s.slotReads x t way l need hit false).1 = s' := by
  refine ⟨_, ?_, ?_, rfl⟩
  · unfold State.slotReads
    dsimp only
    rw [if_neg Bool.false_ne_true]
    refine SameTasks.trans ?_ (sameTasks_acquireTile ..)
    exact SameTasks.ite_fst (sameTasks_pinFor ..) (SameTasks.refl _)
  · unfold State.slotReads
    dsimp only
    rw [if_neg Bool.false_ne_true]
    refine SameTarns.trans ?_ (SameTarns.acquireAt ..)
    split
    · exact sameTarns_pinFor ..
    · exact SameTarns.refl _

/-- A slot's read of a line that it does not note: the tasks stay (R298, R340). -/
theorem sameTasks_slotReads (s : State) (x : CopySlot) (t : Task) (way : Nat) (l : TLine) (need : TNeed) (hit : Bool) :
    SameTasks s (s.slotReads x t way l need hit false).1 := by
  obtain ⟨s', htasks, -, h⟩ := slotReads_unnoted s x t way l need hit
  rw [h]
  exact (sameTasks_modLine ..).trans htasks

/-- It stands in its place as the read leaves it. -/
theorem tarn_slotReads {s : State} {x : CopySlot} {way : Nat} {k : TLine} (h : mfind way (s.die (dieOf x.ctx.core.val)).tarn = some k)
    (t : Task) (l : TLine) (need : TNeed) (hit : Bool) :
    mfind way ((s.slotReads x t way l need hit false).1.die (dieOf x.ctx.core.val)).tarn = some (k.read need hit s.cyc) := by
  obtain ⟨s', -, htarns, h'⟩ := slotReads_unnoted s x t way l need hit
  rw [h', htarns.tarn]
  exact tarn_modLine h fun l => l.read need hit s.cyc

/-! ## The slot's tile (R201 to R206) -/

/-- A slot of the issuing core at its only tile, whose line the lookup hits, without a sync word. -/
structure AtTile (s : State) (c : Nat) (x : CopySlot) (t : Task) (a : TAct) (g : TTag) (need : TNeed) (w : Nat) (l : TLine) : Prop where
  op : x.op = .tile a [g] false need
  core : x.ctx.core.val = c
  sync : x.sync = none
  fresh : x.waited = false ∧ x.count2 = 0
  hit : lookTile s (dieOf c) t g need none = .hit w l

theorem addSync_none {x : CopySlot} (h : x.sync = none) (s : State) (n : Nat) : s.addSync x n = (s, x) := by
  unfold State.addSync
  rw [h]

/-- The outcome of an act on the only tile of a slot: how many tiles it has counted, and what has become of its die's tarn. -/
structure Ended (s s' : State) (c : Nat) (x y : CopySlot) (a : TAct) (need : TNeed) (n : Nat) (Q : SMap TLine → Prop) : Prop where
  acts : Acts s s'
  op : y.op = .tile a [] false need
  uid : y.uid = x.uid
  count : y.count2 = n
  tarn : Q (s'.die (dieOf c)).tarn

/-- A tile's line stays in its place with its version and data. -/
def Stays (w : Nat) (g : TTag) (l : TLine) (tarn : SMap TLine) : Prop :=
  ∃ l', mfind w tarn = some l' ∧ l'.tag = g ∧ l'.data = l.data ∧ l'.ver = l.ver

/-- A line has gone, and no other. -/
def Goes (w : Nat) (old tarn : SMap TLine) : Prop := mfind w tarn = none ∧ ∀ v, v ≠ w → mfind v tarn = mfind v old

theorem nextTile_op {x : CopySlot} {a : TAct} {g : TTag} {need : TNeed} (h : x.op = .tile a [g] false need) (b : Bool) :
    x.nextTile b = { x with op := .tile a [] false need, stage := .start, waited := false, count2 := x.count2 + b2n b } := by
  unfold CopySlot.nextTile
  rw [h]

section
variable {s : State} {c : Nat} {x : CopySlot} {t : Task} {g : TTag} {need : TNeed} {w : Nat} {l : TLine}

theorem slotLook_one {a : TAct} (h : AtTile s c x t a g need w l) : slotLook s x t g false need none = .hit w l := by
  unfold slotLook
  rw [if_neg Bool.false_ne_true, h.core]
  exact h.hit

theorem stays_read {tarn : SMap TLine} {hit : Bool} {cyc : Word64} (hg : l.tag = g) (h : mfind w tarn = some (l.read need hit cyc)) :
    Stays w g l tarn := ⟨_, h, hg, rfl, rfl⟩

/-- CPYT without delivery of a line that is present counts its tile (R201). -/
theorem tileStep_fill (h : AtTile s c x t (.fill none) g need w l) (hw : mfind w (s.die (dieOf c)).tarn = some l) :
    ∃ s' y, s.tileStep c x t (.fill none) g false need none = (s', y) ∧ Ended s s' c x y (.fill none) need 1 (Stays w g l) := by
  have hlook := slotLook_one h
  have hg := tag_of_hit h.hit
  obtain ⟨hop, rfl, hsync, ⟨hwait, hcount⟩, -⟩ := h
  have hstep : s.tileStep x.ctx.core.val x t (.fill none) g false need none = s.tilePresent x t w l (.fill none) need true := by
    unfold State.tileStep
    rw [hlook, ← Bool.not_false, ← hwait]
  unfold State.tilePresent at hstep
  dsimp only at hstep
  rw [if_pos rfl, addSync_none (x := { x with bytes := x.bytes + 4096 }) hsync,
    nextTile_op (x := { x with bytes := x.bytes + 4096 }) hop] at hstep
  refine ⟨_, _, hstep, (Acts.of_sameTasks (sameTasks_slotReads ..)).trans (Acts.modUid_consume ..), rfl, rfl,
    congrArg (· + 1) hcount, ?_⟩
  exact stays_read hg ((congrArg (mfind w) ((sameTarns_modUid ..).tarn _)).trans (tarn_slotReads hw t l need true))

/-- TCPIN of a line that is present counts it, pinned or refused (R205, R206). -/
theorem tileStep_pin (h : AtTile s c x t .pin g need w l) (hw : mfind w (s.die (dieOf c)).tarn = some l) :
    ∃ s' y, s.tileStep c x t .pin g false need none = (s', y) ∧ Ended s s' c x y .pin need 1 (Stays w g l) := by
  have hlook := slotLook_one h
  have hg := tag_of_hit h.hit
  obtain ⟨hop, rfl, -, ⟨-, hcount⟩, -⟩ := h
  have hstep : s.tileStep x.ctx.core.val x t .pin g false need none = s.tilePresent x t w l .pin need (!x.waited) := by
    unfold State.tileStep
    rw [hlook]
  unfold State.tilePresent at hstep
  dsimp only at hstep
  rw [nextTile_op hop] at hstep
  refine ⟨_, _, hstep, Acts.of_sameTasks ((sameTasks_slotReads ..).trans (sameTasks_pinFor ..)), rfl, rfl, congrArg (· + 1) hcount, ?_⟩
  exact stays_read hg ((congrArg (mfind w) ((sameTarns_pinFor ..).tarn _)).trans (tarn_slotReads hw t l need (!x.waited)))

/-- CPYW of a clean line counts it and leaves it, at the value that the hint `last` asks for (R203). -/
theorem tileStep_wb (h : AtTile s c x t .wb g need w l) (hw : mfind w (s.die (dieOf c)).tarn = some l) (hd : l.dirty = false) :
    ∃ s' y, s.tileStep c x t .wb g false need none = (s', y) ∧ Ended s s' c x y .wb need 1 (Stays w g l) := by
  have hlook := slotLook_one h
  have hg := tag_of_hit h.hit
  obtain ⟨hop, rfl, hsync, ⟨-, hcount⟩, -⟩ := h
  have hstep : ∃ s', s' = s.modLine (dieOf x.ctx.core.val) w (fun l => if need.hint = .last then { l with rrpv := 7 } else l)
      ∧ s.tileStep x.ctx.core.val x t .wb g false need none = ((s'.wbCounted x g).1, (s'.wbCounted x g).2.nextTile true) := by
    refine ⟨_, rfl, ?_⟩
    unfold State.tileStep
    rw [hlook]
    dsimp only
    rw [hd, if_neg Bool.false_ne_true]
  obtain ⟨s', hs', hstep⟩ := hstep
  unfold State.wbCounted at hstep
  dsimp only at hstep
  rw [addSync_none (x := { x with bytes := x.bytes + footBytes (readDesc x.desc) g }) hsync,
    nextTile_op (x := { x with bytes := x.bytes + footBytes (readDesc x.desc) g }) hop] at hstep
  refine ⟨_, _, hstep, hs' ▸ Acts.of_sameTasks (sameTasks_modLine ..), rfl, rfl, congrArg (· + 1) hcount, ?_⟩
  rw [hs']
  refine ⟨_, tarn_modLine hw _, ?_⟩
  split
  · exact ⟨hg, rfl, rfl⟩
  · exact ⟨hg, rfl, rfl⟩

/-- TCUNP takes a pin of the slot's task, where it has one, and goes on; no task and no line changes (R206). -/
theorem tileStep_unpins (hlook : slotLook s x t g false need none = .hit w l) :
    ∃ s' b, s.tileStep c x t .unpin g false need none = (s', x.nextTile b) ∧ SameTasks s s' ∧ s'.dies = s.dies := by
  unfold State.tileStep
  rw [hlook]
  dsimp only
  cases ownerOf s x.uid
  case resident c' slot u =>
    dsimp only
    split
    · refine ⟨_, _, rfl, ?_, rfl⟩
      exact SameTasks.modCore s c' fun _ => rfl
    · exact ⟨_, _, rfl, SameTasks.refl s, rfl⟩
  case saved id v =>
    dsimp only
    split
    · exact ⟨_, _, rfl, ⟨fun _ _ => rfl, rfl, rfl⟩, rfl⟩
    · exact ⟨_, _, rfl, SameTasks.refl s, rfl⟩
  case gone => exact ⟨s, false, rfl, SameTasks.refl s, rfl⟩

theorem tileStep_unpin (h : AtTile s c x t .unpin g need w l) (hw : mfind w (s.die (dieOf c)).tarn = some l) :
    ∃ s' y n, s.tileStep c x t .unpin g false need none = (s', y) ∧ Ended s s' c x y .unpin need n (Stays w g l) := by
  obtain ⟨s', b, hstep, htasks, hdies⟩ := tileStep_unpins (c := c) (slotLook_one h)
  rw [nextTile_op h.op] at hstep
  refine ⟨s', _, _, hstep, Acts.of_sameTasks htasks, rfl, rfl, rfl, l, ?_, tag_of_hit h.hit, rfl, rfl⟩
  rw [(SameTarns.of_dies hdies).tarn]
  exact hw

theorem sameTarns_tell (s : State) (m : TMsg) : SameTarns s (s.tell m) := by
  unfold State.tell
  extract_lets s'
  repeat' split
  all_goals exact SameTarns.of_dies rfl

/-- A line dropped is gone from its die's tarn, and no other (R301). -/
theorem goes_dropLine (s : State) (die w : Nat) (l : TLine) :
    Goes w (s.die die).tarn ((s.dropLine die w l).die die).tarn := by
  have hremove : ((s.removeLine die w l).die die).tarn = mdel w (s.die die).tarn := by
    unfold State.removeLine
    dsimp only
    have hpins : ∀ (cs : List (Nat × Core)) (x : State), SameTarns x (each cs (fun c s => s.modCore c.1 (fun k =>
        { k with pins := k.pins.filter (fun y => y.tag ≠ l.tag) })) x) := by
      refine fun cs x => each_keeps (SameTarns x) _ (fun c y h => ?_) cs x (SameTarns.refl x)
      exact h.trans (SameTarns.of_dies rfl)
    refine ((hpins _ _).tarn die).trans (((SameTarns.unlatch _ die l.tag).tarn die).trans ?_)
    exact congrArg Die.tarn (die_modDie_same ..)
  have hdrop : ((s.dropLine die w l).die die).tarn = mdel w (s.die die).tarn := by
    unfold State.dropLine
    dsimp only
    split
    · exact ((sameTarns_tell ..).tarn die).trans hremove
    · exact hremove
  rw [hdrop]
  exact ⟨mfind_mdel_same .., fun v hv => mfind_mdel_other hv _⟩

/-- TCINV takes a line without pins out of the tarn (R204). -/
theorem tileStep_inv (h : AtTile s c x t .inv g need w l) (hp : pinned s (dieOf c) g = false) :
    ∃ s' y, s.tileStep c x t .inv g false need none = (s', y) ∧ Ended s s' c x y .inv need 1 (Goes w (s.die (dieOf c)).tarn) := by
  have hlook := slotLook_one h
  obtain ⟨hop, rfl, hsync, ⟨hwait, hcount⟩, -⟩ := h
  unfold State.tileStep
  simp only [hlook, hp, Bool.false_eq_true, if_false]
  rw [nextTile_op hop]
  exact ⟨_, _, rfl, Acts.of_sameTasks (sameTasks_dropLine ..), rfl, rfl, by rw [hcount]; rfl, goes_dropLine ..⟩

/-- TCFLS takes a clean line without pins out of the tarn (R204). -/
theorem tileStep_flush (h : AtTile s c x t .flush g need w l) (hp : pinned s (dieOf c) g = false) (hd : l.dirty = false) :
    ∃ s' y, s.tileStep c x t .flush g false need none = (s', y) ∧ Ended s s' c x y .flush need 1 (Goes w (s.die (dieOf c)).tarn) := by
  have hlook := slotLook_one h
  obtain ⟨hop, rfl, hsync, ⟨hwait, hcount⟩, -⟩ := h
  unfold State.tileStep
  simp only [hlook, hp, hd, Bool.false_eq_true, if_false]
  rw [nextTile_op hop]
  exact ⟨_, _, rfl, Acts.of_sameTasks (sameTasks_dropLine ..), rfl, rfl, by rw [hcount]; rfl, goes_dropLine ..⟩

end

/-! ## The instruction (R200, R298) -/

/-- A slot whose only tile is acted on at once ends there. -/
theorem pumpSlot_one {s s' : State} {c n : Nat} {x y : CopySlot} {t : Task} {a : TAct} {g : TTag} {need : TNeed}
    (hx : s.slot? c n = some x) (hstart : x.stage = .start) (hop : x.op = .tile a [g] false need) (hu : s.byUid x.uid = some t)
    (hstep : s.tileStep c x t a g false need none = (s', y)) (hy : y.op = .tile a [] false need) :
    s.pumpSlot c n none = s'.putSlot c n { y with stage := .landed } := by
  have hsame : { x with stage := CStage.start } = x := by rw [← hstart]
  have hleft : x.tilesLeft = 1 := by unfold CopySlot.tilesLeft; rw [hop]; rfl
  have hpump : pumpTiles (x.tilesLeft + 1) c none s x = (s', { y with stage := .landed }) := by
    rw [hleft]
    simp only [pumpTiles, hop, hu, hstep, hy, List.length_nil, if_true]
  unfold State.pumpSlot
  simp only [hx, hsame, hpump]

/-- The slot of an instruction on one tile. -/
def tileSlot (s : State) (t : Task) (major : Nat) (b : List Byte) (a : TAct) (g : TTag) (need : TNeed) : CopySlot :=
  newSlot s t major b none need.rd (.tile a [g] false need)

/-- The state in which it has been claimed. -/
def tileClaimed (s : State) (t : Task) (major : Nat) (b : List Byte) (a : TAct) (g : TTag) (need : TNeed) : State :=
  claimedBy s (tileSlot s t major b a g need) (fun s => s.modCur fun t => t)

theorem nextId_claimedBy {s : State} (x : CopySlot) (f : Task → Task) : (claimedBy s x (fun s => s.modCur f)).nextId = s.nextId + 1 := by
  unfold claimedBy
  rw [finish_nextId]
  exact modTask_nextId ..

theorem dies_claimedBy {s : State} (x : CopySlot) (f : Task → Task) : (claimedBy s x (fun s => s.modCur f)).dies = s.dies := by
  unfold claimedBy
  rw [finish_dies]
  exact modTask_dies ..

/-- A claim takes no pin (R206). -/
theorem not_pinned_claimedBy {s : State} (hc : s.cur.stream = .c) {die : Nat} {g : TTag} (h : pinned s die g = false) (x : CopySlot)
    (f : Task → Task) : pinned (claimedBy s x (fun s => s.modCur f)) die g = false := by
  have hstream : ((s.fresh.modCur f).putSlot s.cur.core.val (freeSlotNo s) x).cur = s.cur := modTask_cur ..
  unfold claimedBy
  rw [finish_of_not_s (by rw [hstream, hc]; exact Stream.noConfusion)]
  refine not_pinned_modTask _ (not_pinned_modCore (fun _ => rfl) (not_pinned_modTask f ?_))
  exact h

section
variable {s : State} {t : Task} {major slot : Nat} {b : List Byte} {a : TAct} {g : TTag} {need : TNeed}

/-- The slot stands in its place, and what it may act on is at hand. -/
theorem slot_tileClaimed (ht : s.curTask = some t) (hc : s.cur.stream = .c) :
    (tileClaimed s t major b a g need).slot? s.cur.core.val (freeSlotNo s) = some (tileSlot s t major b a g need) := by
  obtain ⟨-, hcopies, -, -, hcur⟩ := claimedBy_leaves (x := tileSlot s t major b a g need) (prep := fun s => s.modCur fun t => t) hc
    ((OneTask.refl s.fresh).modCur fun t => t) (curTask_modCur (s := s.fresh) ht fun t => t)
  unfold State.curCore at hcopies
  rw [hcur] at hcopies
  unfold State.slot? tileClaimed
  rw [hcopies, mfind_mset_same]

theorem tileInsn_one {f : SwF} {ok : Task → Desc → Bool} {act : Task → TAct} {tiles : State → Task → Desc → List TTag}
    {needs : Task → Desc → TNeed} {prep : Task → Task} {all : Bool} {out : Out}
    (hi : out = tileInsn major slot f ok act tiles all needs prep s) (ht : s.curTask = some t) (hc : s.cur.stream = .c) (hb : t.desc slot = some b)
    (hfree : s.curCore.copies.length < 1024) (huse : f.use = false) (hok : ok t (readDesc b) = true) (hact : act t = a)
    (htiles : tiles s t (readDesc b) = [g]) (hall : all = false) (hneed : needs t (readDesc b) = need) (hprep : prep = fun t => t) :
    out = .next ((tileClaimed s t major b a g need).pumpSlot s.cur.core.val (freeSlotNo s) none) := by
  have hclaim : s.claim t major f b need.rd (.tile a [g] false need) (fun s => s.modCur fun t => t) = tileClaimed s t major b a g need :=
    claim_free (checkSync_ok hc (.inl ⟨huse, rfl⟩)) hfree
  have hid : ¬ (tileClaimed s t major b a g need).nextId = s.nextId := by
    rw [tileClaimed, nextId_claimedBy]
    omega
  have hwas : s.slot? s.cur.core.val (freeSlotNo s) = none := mfind_lowestFree s.curCore.copies
  have hnow := slot_tileClaimed (major := major) (b := b) (a := a) (g := g) (need := need) ht hc
  subst hi hprep hall
  unfold tileInsn
  rw [onTask_some ht]
  simp only [hb, hok, hact, htiles, hneed, hclaim, Bool.not_true, Bool.false_eq_true, if_false, if_neg hid]
  unfold freeSlotNo at hwas hnow ⊢
  rw [hwas, hnow]
  rfl

/-- The parts of the issuing task that `TileMaintenance` lists as kept, its stream moved on by three parcels. -/
def MovedOn (s s' : State) (t : Task) : Prop :=
  s'.mem = s.mem ∧ ∃ t', s'.curTask = some t' ∧ t'.st .c = (t.st .c).advance 3 ∧ t'.s = t.s
    ∧ t'.q = t.q ∧ t'.areg = t.areg ∧ t'.v = t.v ∧ t'.k = t.k ∧ t'.status = t.status

theorem movedOn_of_acts {s s1 s' : State} {t : Task} (hmem : s1.mem = s.mem)
    (ht : s1.curTask = some (t.modSt .c (fun x => x.advance 3))) (h : Acts s1 s') : MovedOn s s' t := by
  obtain ⟨v, hv, hbut⟩ := h.task _ ht
  refine ⟨h.mem.trans hmem, v, hv, ?_, (congrArg Task.s hbut :), (congrArg Task.q hbut :), (congrArg Task.areg hbut :),
    (congrArg Task.v hbut :), (congrArg Task.k hbut :), (congrArg Task.status hbut :)⟩
  exact (congrArg (fun x : Task => x.st .c) hbut :).trans (st_modSt_same ..)

/-- A claimed slot that has landed, with the number of tiles that it counted. -/
def SlotEnds (s s' : State) (t : Task) (n : Nat) : Prop :=
  ∃ m x, mfind m s.curCore.copies = none ∧ mfind m s'.curCore.copies = some x
    ∧ x.uid = t.uid ∧ x.stage = .landed ∧ x.count2 = n ∧ ∃ act need, x.op = .tile act [] false need

/-- A claimed slot of an instruction on one tile, whose line any lookup finds, stands at that tile. -/
theorem atTile_tileClaimed {w : Nat} {l : TLine} (ht : s.curTask = some t) (hc : s.cur.stream = .c)
    (hit : ∀ u, lookTile s s.curDie u g need none = .hit w l) :
    ∃ u, (tileClaimed s t major b a g need).byUid t.uid = some u
      ∧ AtTile (tileClaimed s t major b a g need) s.cur.core.val (tileSlot s t major b a g need) u a g need w l := by
  obtain ⟨htask, -⟩ := claimedBy_leaves (x := tileSlot s t major b a g need) (prep := fun s => s.modCur fun t => t) hc
    ((OneTask.refl s.fresh).modCur fun t => t) (curTask_modCur (s := s.fresh) ht fun t => t)
  obtain ⟨u, hu⟩ := byUid_isSome (s := tileClaimed s t major b a g need) htask
  exact ⟨u, hu, rfl, rfl, rfl, ⟨rfl, rfl⟩, (lookTile_congr (dies_claimedBy ..) ..).trans (hit u)⟩

theorem tarn_tileClaimed (die : Nat) : ((tileClaimed s t major b a g need).die die).tarn = (s.die die).tarn :=
  (SameTarns.of_dies (dies_claimedBy ..)).tarn die

/-- An instruction on one tile: its slot claimed, the act on the line done, the slot landed. -/
theorem exec_tile {i : Instr} {n : Nat} {u : Task} {Q : SMap TLine → Prop} (ht : s.curTask = some t) (hc : s.cur.stream = .c)
    (hi : exec i s = .next ((tileClaimed s t major b a g need).pumpSlot s.cur.core.val (freeSlotNo s) none))
    (hu : (tileClaimed s t major b a g need).byUid t.uid = some u)
    (hstep : ∃ s2 y,
      (tileClaimed s t major b a g need).tileStep s.cur.core.val (tileSlot s t major b a g need) u a g false need none = (s2, y)
        ∧ Ended (tileClaimed s t major b a g need) s2 s.cur.core.val (tileSlot s t major b a g need) y a need n Q) :
    ∃ s', exec i s = .next s' ∧ MovedOn s s' t ∧ SlotEnds s s' t n ∧ Q (s'.die s.curDie).tarn := by
  have hprep := (OneTask.refl s.fresh).modCur fun t => t
  obtain ⟨htask, -, -, -, hcur⟩ := claimedBy_leaves (x := tileSlot s t major b a g need) (prep := fun s => s.modCur fun t => t) hc
    hprep (curTask_modCur (s := s.fresh) ht fun t => t)
  have hmem : (tileClaimed s t major b a g need).mem = s.mem := (finish_mem ..).trans (congrArg State.mem hprep.rest :)
  obtain ⟨s2, y, hstep, hend⟩ := hstep
  have hput := onlyTraffic_putSlot s2 s.cur.core.val (freeSlotNo s) { y with stage := .landed }
  have hacts := hend.acts.trans (Acts.of_sameTasks (SameTasks.of_traffic hput))
  rw [pumpSlot_one (slot_tileClaimed ht hc) rfl rfl hu hstep hend.op] at hi
  refine ⟨_, hi, movedOn_of_acts hmem htask hacts, ⟨freeSlotNo s, { y with stage := .landed }, mfind_lowestFree _, ?_, hend.uid,
    rfl, hend.count, a, need, hend.op⟩, hend.tarn⟩
  unfold State.curCore
  rw [hacts.cur]
  unfold tileClaimed
  rw [hcur, copies_putSlot, mfind_mset_same]

end

/-! ## Queries and itineraries (R209, R210) -/

theorem tileReport_none {s : State} {t : Task} {g : TTag} (need : TNeed) (h : s.line? s.curDie g = none) :
    tileReport s t g need = some 0 := by
  unfold tileReport
  dsimp only
  rw [h]

/-- Table 7-11: presence, the dirty bit, the value of the line and its version in a report. -/
theorem report_fields {ver rrpv : Nat} (spec zero mine pin dirty : Bool) :
    let v : Word64 := BitVec.ofNat 64 (ver * 2 ^ 16 + b2n spec * 2 ^ 9 + b2n zero * 2 ^ 8 + rrpv * 2 ^ 4 + b2n mine * 2 ^ 3 + b2n pin * 2 ^ 2
      + b2n dirty * 2 + 1)
    (rrpv < 8 → v.toNat / 2 ^ 16 % 2 ^ 16 = ver % 2 ^ 16) ∧ v.getLsbD 0 = true ∧ v.getLsbD 1 = dirty := by
  have hb : ∀ x : Bool, b2n x ≤ 1 := fun x => by cases x <;> decide
  have h1 := hb spec
  have h2 := hb zero
  have h3 := hb mine
  have h4 := hb pin
  refine ⟨fun hr => ?_, ?_, ?_⟩
  · have h5 := hb dirty
    rw [BitVec.toNat_ofNat]
    omega
  · rw [BitVec.getLsbD_ofNat, Nat.testBit_eq_decide_div_mod_eq]
    simp only [Bool.and_eq_true, decide_eq_true_eq]
    omega
  · rw [BitVec.getLsbD_ofNat, Nat.testBit_eq_decide_div_mod_eq, decide_eq_true (by omega), Bool.true_and]
    cases dirty
    · have h5 : b2n false = 0 := rfl
      exact decide_eq_false (by omega)
    · have h5 : b2n true = 1 := rfl
      exact decide_eq_true (by omega)

section
variable {s : State} {t : Task} {slot : TSlot} {coord : AReg} {b : List Byte} {xv : Bool}

/-- TCQRY whose report is at hand. -/
theorem exec_tcqry {v : Nat} (ht : s.curTask = some t) (hb : t.desc slot.val = some b)
    (h : tileReport s t (tileTag t (readDesc b) (t.a .c coord.val)) (needOf t (readDesc b) slot.val xv .none 0) = some v) (e : AReg) :
    exec (.tcqry e slot coord xv) s
      = .next ((s.modCur (fun u => { u.setA .c e.val (BitVec.ofNat 64 v) with report := none })).finish 3) := by
  refine (onTask_some ht _).trans (congrArg Host.Outcome.next ?_)
  dsimp only
  rw [hb]
  dsimp only
  rw [h]

theorem tileReport_line {g : TTag} {need : TNeed} {w : Nat} {l : TLine} (hline : s.line? s.curDie g = some (w, l))
    (hfill : l.filling = false) (hacc : ∀ p, accepts t g need l.ver p = .yes) :
    ∃ mine : Bool, tileReport s t g need = some (l.ver * 2 ^ 16 + b2n l.spec * 2 ^ 9 + b2n l.zero * 2 ^ 8 + l.rrpv * 2 ^ 4
      + b2n mine * 2 ^ 3 + b2n (pinned s s.curDie g) * 2 ^ 2 + b2n l.dirty * 2 + 1) := by
  unfold tileReport
  dsimp only
  rw [hline]
  dsimp only
  rw [hfill, if_neg Bool.false_ne_true, hacc]
  exact ⟨_, rfl⟩

/-- TCITN of an aligned list: a slot claimed and the itinerary begun (R209). -/
theorem exec_tcitn {addr cnt : AReg} {hint : Hint} {win : BitVec 6} (ht : s.curTask = some t) (hc : s.cur.stream = .c)
    (hfree : s.curCore.copies.length < 1024) (halign : (t.a .c addr.val).toNat % 16 = 0) (hcnt : (t.a .c cnt.val).toNat < 2 ^ 32) :
    ∃ s' t', exec (.tcitn addr cnt hint win) s = .next s' ∧ s'.curTask = some t' ∧ t'.st .c = (t.st .c).advance 3 ∧ SameBytes s s'
      ∧ t'.itin = some { va := t.a .c addr.val, count := (t.a .c cnt.val).toNat, win := if win = 0 then 64 else win.toNat,
                         hint := hint, p := 0, f := 0, got := [], open_ := [] }
      ∧ { t' with strm := t.strm, itin := t.itin } = t := by
  let x : Itin := { va := t.a .c addr.val, count := (t.a .c cnt.val).toNat, win := if win = 0 then 64 else win.toNat, hint := hint,
                    p := 0, f := 0, got := [], open_ := [] }
  have hi : exec (.tcitn addr cnt hint win) s = .next (s.claim t 0x0C { sw := 0, use := false } [] 0 .itin
      (fun s => s.modCur (fun t => { t with itin := some x }))) := by
    refine (onTask_some ht _).trans (congrArg Host.Outcome.next ?_)
    simp only [areg_of_copy hc]
    rw [if_neg (by omega)]
  rw [claim_free (checkSync_ok hc (.inl ⟨rfl, rfl⟩)) hfree] at hi
  obtain ⟨htask, -, hbytes, -⟩ := claimedBy_leaves (x := newSlot s t 0x0C [] none 0 .itin)
    (prep := fun s => s.modCur (fun u => { u with itin := some x })) hc ((OneTask.refl s.fresh).modCur _)
    (curTask_modCur (s := s.fresh) ht _)
  exact ⟨_, _, hi, htask, st_modSt_same .., hbytes, rfl, rfl⟩

end

/-! ## The obligation -/

/-- At the version that its slot requires a line is accepted by every task and found by every lookup (R297, R298). -/
theorem accepts_exact {u : Task} {g : TTag} {need : TNeed} {v : Nat} (hex : need.exact = true) (hv : v = need.ver) (p : Option Nat) :
    accepts u g need v p = .yes := by
  unfold accepts
  rw [if_pos hex, hv, decide_eq_true rfl]
  rfl

theorem lookTile_exact {s : State} {die : Nat} {u : Task} {g : TTag} {need : TNeed} {w : Nat} {l : TLine}
    (hline : s.line? die g = some (w, l)) (hfill : l.filling = false) (hex : need.exact = true) (hv : l.ver = need.ver) :
    lookTile s die u g need none = .hit w l := by
  unfold lookTile
  rw [hline]
  dsimp only
  rw [hfill, if_neg Bool.false_ne_true, accepts_exact (u := u) hex hv]

/-- CPYT without a delivery claims its slot for its tile (R201). -/
theorem exec_cpyt {s : State} {t : Task} {slot : TSlot} {b : List Byte} (ht : s.curTask = some t) (hc : s.cur.stream = .c)
    (hb : t.desc slot.val = some b) (hfree : s.curCore.copies.length < 1024) (coord : AReg) (sw : SwF) (huse : sw.use = false)
    (rd : Fin 4) (xv : Bool) (hint : Hint) :
    exec (.cpyt coord none sw rd slot xv hint) s
      = .next ((tileClaimed s t 0x04 b (.fill none) (tileTag t (readDesc b) (t.a .c coord.val))
          (needOf t (readDesc b) slot.val xv hint rd.val)).pumpSlot s.cur.core.val (freeSlotNo s) none) := by
  refine (onTask_some ht _).trans (congrArg Host.Outcome.next ?_)
  dsimp only
  rw [if_neg Bool.false_ne_true]
  generalize hout : tileInsn _ _ _ _ _ _ _ _ _ _ = out
  rw [tileInsn_one (a := .fill none) hout.symm ht hc hb hfree huse rfl rfl rfl rfl rfl rfl]

/-- CPYW claims its slot for its tile (R203). -/
theorem exec_cpyw {s : State} {t : Task} {slot : TSlot} {b : List Byte} (ht : s.curTask = some t) (hc : s.cur.stream = .c)
    (hb : t.desc slot.val = some b) (hfree : s.curCore.copies.length < 1024) (coord : AReg) (sw : SwF) (huse : sw.use = false)
    (xv last : Bool) :
    exec (.cpyw coord sw slot xv last) s
      = .next ((tileClaimed s t 0x05 b .wb (tileTag t (readDesc b) (t.a .c coord.val))
          (needOf t (readDesc b) slot.val xv (if last then .last else .none) 0)).pumpSlot s.cur.core.val (freeSlotNo s) none) := by
  have hi : exec (.cpyw coord sw slot xv last) s = execCpyw coord sw slot xv last s := rfl
  unfold execCpyw at hi
  exact tileInsn_one hi ht hc hb hfree huse rfl rfl rfl rfl rfl rfl

/-- An instruction of the tile form on one tile claims its slot for it (Table 7-8). -/
theorem maintain_one {s : State} {t : Task} {slot : TSlot} {b : List Byte} (ht : s.curTask = some t) (hc : s.cur.stream = .c)
    (hb : t.desc slot.val = some b) (hfree : s.curCore.copies.length < 1024) (major : Nat) (act : TAct) (coord : AReg) (xv : Bool) :
    maintain major act { range := .one, slot := slot, coord := coord, xv := xv } s
      = .next ((tileClaimed s t major b act (tileTag t (readDesc b) (t.a .c coord.val))
          (needOf t (readDesc b) slot.val xv .none (readDesc b).rddef)).pumpSlot s.cur.core.val (freeSlotNo s) none) :=
  tileInsn_one rfl ht hc hb hfree rfl rfl rfl rfl (decide_eq_false nofun) rfl rfl

/-- Settles O37: each instruction claims its slot and acts on the line that its lookup hits; TCQRY by its report, TCITN by its claim. -/
theorem tileMaintenance : Obligations.TileMaintenance := by
  unfold Obligations.TileMaintenance
  intro s t slot coord b xv ht hc hb
  refine ⟨fun w l hline hw hfill hex hver hfree => ?_, fun hline e => exec_tcqry ht hb (tileReport_none _ hline) e,
    fun addr cnt hint win hfree halign hcnt => exec_tcitn ht hc hfree halign hcnt⟩
  generalize hg : tileTag t (readDesc b) (t.a .c coord.val) = g at hline
  have hit : ∀ hint rd u, lookTile s s.curDie u g (needOf t (readDesc b) slot.val xv hint rd) none = .hit w l :=
    fun hint rd u => lookTile_exact hline hfill hex hver
  have hwas : ∀ major a need, mfind w ((tileClaimed s t major b a g need).die (dieOf s.cur.core.val)).tarn = some l :=
    fun major a need => (congrArg (mfind w) (tarn_tileClaimed ..)).trans hw
  have hnoPin : ∀ major a need, pinned s s.curDie g = false → pinned (tileClaimed s t major b a g need) (dieOf s.cur.core.val) g = false :=
    fun major a need h => not_pinned_claimedBy hc h _ _
  subst hg
  refine ⟨fun rd hint => ?_, fun last hd => ?_, ?_, ?_, fun hp => ?_, fun hp hd => ?_, fun e => ?_⟩
  · obtain ⟨u, hu, hat⟩ := atTile_tileClaimed (major := 0x04) (b := b) (a := .fill none) ht hc (hit hint rd.val)
    exact exec_tile ht hc (exec_cpyt ht hc hb hfree coord _ rfl rd xv hint) hu (tileStep_fill hat (hwas ..))
  · obtain ⟨u, hu, hat⟩ := atTile_tileClaimed (major := 0x05) (b := b) (a := .wb) ht hc (hit (if last then .last else .none) 0)
    exact exec_tile ht hc (exec_cpyw ht hc hb hfree coord _ rfl xv last) hu (tileStep_wb hat (hwas ..) hd)
  · obtain ⟨u, hu, hat⟩ := atTile_tileClaimed (major := 0x08) (b := b) (a := .pin) ht hc (hit .none (readDesc b).rddef)
    exact exec_tile (i := .tcpin { range := .one, slot := slot, coord := coord, xv := xv }) ht hc
      (maintain_one ht hc hb hfree _ _ coord xv) hu (tileStep_pin hat (hwas ..))
  · obtain ⟨u, hu, hat⟩ := atTile_tileClaimed (major := 0x09) (b := b) (a := .unpin) ht hc (hit .none (readDesc b).rddef)
    obtain ⟨s2, y, n, hstep⟩ := tileStep_unpin hat (hwas ..)
    obtain ⟨s', h⟩ := exec_tile (i := .tcunp { range := .one, slot := slot, coord := coord, xv := xv }) ht hc
      (maintain_one ht hc hb hfree _ _ coord xv) hu ⟨s2, y, hstep⟩
    exact ⟨s', n, h⟩
  · obtain ⟨u, hu, hat⟩ := atTile_tileClaimed (major := 0x0A) (b := b) (a := .inv) ht hc (hit .none (readDesc b).rddef)
    have h := exec_tile (i := .tcinv { range := .one, slot := slot, coord := coord, xv := xv }) ht hc
      (maintain_one ht hc hb hfree _ _ coord xv) hu (tileStep_inv hat (hnoPin _ _ _ hp))
    rwa [tarn_tileClaimed] at h
  · obtain ⟨u, hu, hat⟩ := atTile_tileClaimed (major := 0x0B) (b := b) (a := .flush) ht hc (hit .none (readDesc b).rddef)
    have h := exec_tile (i := .tcfls { range := .one, slot := slot, coord := coord, xv := xv }) ht hc
      (maintain_one ht hc hb hfree _ _ coord xv) hu (tileStep_flush hat (hnoPin _ _ _ hp) hd)
    rwa [tarn_tileClaimed] at h
  · obtain ⟨mine, hreport⟩ := tileReport_line hline hfill (fun p => accepts_exact (u := t) hex hver p)
    exact ⟨_, exec_tcqry ht hb hreport e, report_fields ..⟩

end Sys2Proof.TileSlots
end

section
/-!
PROOFS. What leaves the copy slots of every core: the releases and acquires of caches, and a posted fault record.
-/

namespace Sys2Proof.SlotFrames
open Sys2Proof Sys2Proof.Machine Sys2Proof.Laws

/-- No core's copy slots have changed. -/
structure SameCopies (s s' : State) : Prop where
  copies : ∀ c, (s'.core c).copies = (s.core c).copies

namespace SameCopies
variable {a s s' : State}

theorem refl (s : State) : SameCopies s s := ⟨fun _ => rfl⟩

theorem slot? (h : SameCopies a s) (c n : Nat) : s.slot? c n = a.slot? c n := congrArg (mfind n) (h.copies c)

theorem of_cores (h : SameCopies a s) (hc : s'.cores = s.cores) : SameCopies a s' :=
  ⟨fun c => (congrArg (fun m => (mget c Core.reset m).copies) hc).trans (h.copies c)⟩

theorem modCore {c : Nat} {f : Core → Core} (h : SameCopies a s) (hf : ∀ k, (f k).copies = k.copies) :
    SameCopies a (s.modCore c f) := by
  refine ⟨fun b => Eq.trans ?_ (h.copies b)⟩
  by_cases hb : b = c
  · rw [hb, core_modCore_same, hf]
  · rw [core_modCore_other s hb]

theorem modTask {c l : Nat} {f : Task → Task} (h : SameCopies a s) : SameCopies a (s.modTask c l f) := by
  unfold State.modTask
  split
  · exact h.modCore fun _ => rfl
  · exact h

theorem modPav {p : Nat} {f : Pav → Pav} (h : SameCopies a s) : SameCopies a (s.modPav p f) := by
  unfold State.modPav
  split
  · exact h.of_cores rfl
  · exact h

theorem modDie {d : Nat} {f : Die → Die} (h : SameCopies a s) : SameCopies a (s.modDie d f) := h.of_cores rfl

theorem modHome {d : Nat} {f : Home → Home} (h : SameCopies a s) : SameCopies a (s.modHome d f) := h.of_cores rfl

theorem modDev {f : Dev → Dev} (h : SameCopies a s) : SameCopies a (s.modDev f) := h.of_cores rfl

theorem each {α : Type} {f : α → State → State} {l : List α} (h : SameCopies a s) (hf : ∀ x s, SameCopies a s → SameCopies a (f x s)) :
    SameCopies a (each l f s) :=
  each_keeps (SameCopies a) f hf l s h

theorem ite {x y : State} {p : Prop} [Decidable p] (hx : SameCopies s x) (hy : SameCopies s y) :
    SameCopies s (if p then x else y) := by
  split
  · exact hx
  · exact hy

theorem iteFst {α : Type} {x y : State × α} {p : Prop} [Decidable p] (hx : SameCopies s x.1) (hy : SameCopies s y.1) :
    SameCopies s (if p then x else y).1 := by
  split
  · exact hx
  · exact hy

end SameCopies

section
variable {a s : State}

/-! ## Caches (R343, R381) -/

theorem copies_toMem {d : Nat} {l : CLine} (h : SameCopies a s) : SameCopies a (s.toMem d l) := h.of_cores rfl

theorem copies_roomDlc {d line : Nat} (h : SameCopies a s) : SameCopies a (s.roomDlc d line) := by
  unfold State.roomDlc
  refine SameCopies.ite h ?_
  split
  · exact h
  · exact (SameCopies.ite h (copies_toMem h)).of_cores rfl

theorem copies_putDlc {d : Nat} {l : CLine} {lru : Bool} (h : SameCopies a s) : SameCopies a (s.putDlc d l lru) :=
  (SameCopies.ite h (copies_roomDlc h)).of_cores rfl

theorem copies_toDlc {c : Nat} {l : CLine} (h : SameCopies a s) : SameCopies a (s.toDlc c l) := by
  unfold State.toDlc
  exact SameCopies.modCore (copies_putDlc h) fun _ => rfl

theorem copies_releaseCaches {c pav key : Nat} {dev : Bool} (h : SameCopies a s) : SameCopies a (s.releaseCaches c pav key dev) :=
  SameCopies.ite ((h.each fun _ _ => copies_toDlc).each fun _ _ => copies_toMem) (h.each fun _ _ => copies_toDlc)

theorem copies_acquireCaches {c pav key : Nat} {dev : Bool} (h : SameCopies a s) : SameCopies a (s.acquireCaches c pav key dev) :=
  SameCopies.ite (SameCopies.modDie (SameCopies.modCore h fun _ => rfl)) (SameCopies.modCore h fun _ => rfl)

/-! ## A fault record (R384, R385) -/

theorem cores_putBytes (key : Nat) (bs : List Byte) (n : Nat) (s : State) : (s.putBytes key n bs).cores = s.cores := by
  induction bs generalizing n s with
  | nil => rfl
  | cons b bs ih => exact ih (n + 1) _

theorem copies_putLine {key line : Nat} {mask : BitVec 128} {data : List Byte} (h : SameCopies a s) :
    SameCopies a (s.putLine key line mask data) := by
  unfold State.putLine
  generalize List.range 128 = is
  have hbytes := h.each (l := is) (f := fun i x => if mask.getLsbD i then x.putByte key (128 * line + i) (data.getD i 0) else x)
    fun i x h => SameCopies.ite (h.of_cores rfl) h
  exact SameCopies.ite (hbytes.of_cores rfl) hbytes

theorem copies_applyPay {r : DReq} (h : SameCopies a s) : SameCopies a (s.applyPay r) := by
  unfold State.applyPay
  split
  · exact h
  · exact SameCopies.ite ((copies_putLine h).of_cores rfl) (copies_putLine h)

theorem copies_countMiss {r : DReq} (h : SameCopies a s) : SameCopies a (s.countMiss r) := SameCopies.ite (h.of_cores rfl) h

theorem copies_settle {f : DReq → Bool} (h : SameCopies a s) : SameCopies a (s.settle f) :=
  SameCopies.ite h ((h.each fun _ _ h => copies_applyPay (copies_countMiss h)).of_cores rfl)

theorem copies_atFloor (f : Word32) (k : Core) : (Core.atFloor f k).copies = k.copies := by
  rw [Core.atFloor]

theorem copies_broadcast (h : SameCopies a s) : SameCopies a s.broadcast := by
  unfold State.broadcast
  generalize List.range 256 = cs
  generalize List.range 64 = hs
  exact SameCopies.modDev (SameCopies.each (SameCopies.each h fun _ _ h => SameCopies.modCore h (copies_atFloor _))
    fun _ _ h => SameCopies.modHome h)

theorem copies_floorFor {w : State → Word32} (h : SameCopies a s) : SameCopies a (s.floorFor w) := by
  unfold State.floorFor
  split
  · exact copies_broadcast h
  · exact h

theorem copies_stamp {pa : Nat} {w : Word32} (h : SameCopies a s) : SameCopies a (s.stamp pa w) := h.modHome

theorem copies_store {key pa : Nat} {bs : List Byte} (h : SameCopies a s) : SameCopies a (s.store key pa bs) :=
  h.of_cores (cores_putBytes ..)

theorem copies_writeVa {die pav va : Nat} {bs : List Byte} {lts : List Word32} (h : SameCopies a s) :
    SameCopies a (s.writeVa die pav va bs lts) := by
  unfold State.writeVa
  split
  · dsimp only
    split
    · exact copies_stamp (copies_floorFor (copies_store (copies_settle h)))
    · exact copies_store (copies_settle h)
  · exact h

theorem copies_postEvent {pav : Nat} {v : Word64} (h : SameCopies a s) : SameCopies a (s.postEvent pav v) := by
  unfold State.postEvent
  split
  · rename_i s' hpost
    unfold State.postNq at hpost
    split at hpost
    · exact nomatch hpost
    · split at hpost
      · exact nomatch hpost
      · cases hpost
        exact h.modPav
  · exact h.modPav

theorem copies_submitHandler {pav region fq : Nat} (h : SameCopies a s) : SameCopies a (s.submitHandler pav region fq) := by
  unfold State.submitHandler
  split
  · exact h
  · exact SameCopies.ite h (h.of_cores rfl)

theorem copies_writeRecord {fq : Nat} {r : FRec} (h : SameCopies a s) : SameCopies a (s.writeRecord fq r).1 := by
  unfold State.writeRecord
  split
  · exact h
  · exact SameCopies.iteFst (copies_submitHandler (copies_postEvent (copies_writeVa (copies_writeVa h)))) (copies_writeVa h)

theorem copies_beginSave {c l why : Nat} (h : SameCopies a s) : SameCopies a (s.beginSave c l why) := by
  unfold State.beginSave State.stopStreams
  exact SameCopies.modTask (SameCopies.modCore h fun _ => rfl)

theorem copies_violation {pav : Nat} (h : SameCopies a s) : SameCopies a (s.violation pav) := by
  unfold State.violation State.beginFreeze
  split
  · exact h.modPav
  · exact SameCopies.ite h.modPav (h.modPav.modPav.each fun _ _ => copies_beginSave)

theorem copies_modLaunch {acct : Nat} {f : Launch → Launch} (h : SameCopies a s) : SameCopies a (s.modLaunch acct f) := by
  unfold State.modLaunch
  split
  · exact h
  · exact h.modPav

theorem copies_countFault {pav region storm acct : Nat} (h : SameCopies a s) : SameCopies a (s.countFault pav region storm acct) := by
  unfold State.countFault
  split
  · exact h
  · exact SameCopies.ite (copies_violation (copies_modLaunch h.modPav)) (copies_modLaunch h.modPav)

theorem copies_postRecord {fq : Nat} {r : FRec} {storm acct : Nat} (h : SameCopies a s) :
    SameCopies a (s.postRecord fq r storm acct).1 :=
  SameCopies.ite (copies_countFault (copies_writeRecord h)) (copies_writeRecord h)

/-- A record without a policy. -/
theorem copies_postFaultOf {t : Task} {r : FRec} {kill : State → State} {other : Nat → Nat → Bool} (h : SameCopies a s) :
    SameCopies a (s.postFaultOf t r false kill other) := copies_postRecord h

theorem copies_postOnly {c l : Nat} {r : FRec} (h : SameCopies a s) : SameCopies a (s.postOnly c l r) := by
  unfold State.postOnly
  split
  · exact h
  · exact copies_postFaultOf h

end

end Sys2Proof.SlotFrames
end

section
/-!
PROOFS. How copy slots end, fail and pause (spec/07 R180, R183, R184).
-/

namespace Sys2Proof.SlotEnds
open Sys2Proof Sys2Proof.Machine Sys2Proof.Laws Sys2Proof.Claim Sys2Proof.Traffic Sys2Proof.CoreLines Sys2Proof.Stored
  Sys2Proof.SlotFrames

variable {s : State} {c n : Nat} {x : CopySlot}

/-! ## A slot returned to the pool -/

theorem onlyTraffic_followTask (s : State) (c : Nat) (x : CopySlot) : OnlyTraffic s (s.followTask c x) := by
  unfold State.followTask
  split
  · exact onlyTraffic_ite (OnlyTraffic.refl s) ((onlyTraffic_releaseCaches ..).trans (onlyTraffic_acquireCaches ..))
  · exact onlyTraffic_releaseCaches ..
  · exact OnlyTraffic.refl s

theorem copies_followTask (s : State) (c : Nat) (x : CopySlot) : SameCopies s (s.followTask c x) := by
  unfold State.followTask
  split
  · exact SameCopies.ite (SameCopies.refl s) (copies_acquireCaches (copies_releaseCaches (SameCopies.refl s)))
  · exact copies_releaseCaches (SameCopies.refl s)
  · exact SameCopies.refl s

/-- A slot freed: it is gone, the others and the bytes of memory stay. -/
structure Freed (s s' : State) (c n : Nat) : Prop where
  gone : s'.slot? c n = none
  others : ∀ m, m ≠ n → s'.slot? c m = s.slot? c m
  bytes : SameBytes s s'
  mem : s'.mem = s.mem

/-- The state in which a slot has followed its task and left its core. -/
def withoutSlot (s : State) (c n : Nat) (x : CopySlot) : State :=
  (s.followTask c x).modCore c (fun k => { k with copies := mdel n k.copies })

/-- A freed slot of a saved task leaves but its record. -/
theorem freeSlot_but_saved (s : State) (c n : Nat) (x : CopySlot) :
    { s.freeSlot c n x with saved := s.saved } = { withoutSlot s c n x with saved := s.saved } := by
  unfold State.freeSlot withoutSlot
  dsimp only
  split <;> rfl

theorem freed_freeSlot (s : State) (c n : Nat) (x : CopySlot) : Freed s (s.freeSlot c n x) c n := by
  have hbut := freeSlot_but_saved s c n x
  have hcopies : ((s.freeSlot c n x).core c).copies = mdel n (s.core c).copies := by
    refine (congrArg (fun b : State => (b.core c).copies) hbut).trans ?_
    change ((withoutSlot s c n x).core c).copies = _
    rw [withoutSlot, core_modCore_same]
    exact congrArg (mdel n) ((copies_followTask s c x).copies c)
  have hslot : ∀ m, (s.freeSlot c n x).slot? c m = mfind m (mdel n (s.core c).copies) := fun m => congrArg (mfind m) hcopies
  have hrest := (onlyTraffic_followTask s c x).rest
  have hmem : (s.freeSlot c n x).mem = s.mem := (congrArg State.mem hbut :).trans (congrArg State.mem hrest :)
  refine ⟨(hslot n).trans (mfind_mdel_same ..), fun m hm => (hslot m).trans (mfind_mdel_other hm _), sameBytes_of_eq hmem ?_ ?_, hmem⟩
  · exact (congrArg State.memKey hbut :).trans (congrArg State.memKey hrest :)
  · exact (congrArg State.free hbut :).trans (congrArg State.free hrest :)

/-! ## Slots that go no further (R180) -/

theorem advanceSlot_landed (h0 : x.state = 0) (hf : slotFrozen s x = false) (h : x.stage = .landed) : s.advanceSlot c x = (s, x) := by
  obtain ⟨⟩ := x
  cases h
  cases h0
  simp [State.advanceSlot, hf]

theorem advanceSlot_failed (h0 : x.state = 0) (hf : slotFrozen s x = false) (h : x.stage = .failed) : s.advanceSlot c x = (s, x) := by
  obtain ⟨⟩ := x
  cases h
  cases h0
  simp [State.advanceSlot, hf]

/-- COPY_SLOT_END of a slot that has got to its end. -/
theorem copySlotEnd_ends {core : CoreId} {s' : State} {y : CopySlot} (hs : s.slot? core.val n = some x) (hf : slotFrozen s x = false)
    (ha : s.advanceSlot core.val x = (s', y)) (hy : y.stage = .landed) (hadds : y.adds = []) :
    exec (.copySlotEnd core n) s = .next (s'.freeSlot core.val n { y with state := 1 }) := by
  have hi : exec (.copySlotEnd core n) s = execCopySlotEnd core n s := rfl
  rw [hi]
  unfold execCopySlotEnd
  simp only [hs, ha, hf, hy, hadds]
  rfl

/-- COPY_SLOT_FAIL of a failed slot that does not pause (R183). -/
theorem copySlotFail_fails {core : CoreId} (hs : s.slot? core.val n = some x) (hf : slotFrozen s x = false)
    (ha : s.advanceSlot core.val x = (s, x)) (hx : x.stage = .failed) (hp : pauses s x = false) :
    exec (.copySlotFail core n) s
      = .next (((s.undeliver { x with state := 2 }).freeSlot core.val n { x with state := 2 }).copyFault { x with state := 2 }) := by
  have hi : exec (.copySlotFail core n) s = execCopySlotFail core n s := rfl
  rw [hi]
  unfold execCopySlotFail
  simp only [hs, ha, hf, hx, hp]
  rfl

/-- COPY_SLOT_PAUSE of a failed slot in a recovery region: the slot is kept, paused (R184). -/
theorem copySlotPause_pauses {core : CoreId} (hs : s.slot? core.val n = some x) (hf : slotFrozen s x = false) (h0 : x.state = 0)
    (ha : s.advanceSlot core.val x = (s, x)) (hx : x.stage = .failed) (hp : pauses s x = true) :
    ∃ s' y, exec (.copySlotPause core n) s = .next s' ∧ s'.slot? core.val n = some y
      ∧ y.state = 4 ∧ y.bytes = x.bytes ∧ y.count2 = x.count2 ∧ y.cause = x.cause := by
  have hi : exec (.copySlotPause core n) s = execCopySlotPause core n s := rfl
  rw [hi]
  unfold execCopySlotPause
  simp only [hs, ha, hf, hx, hp, h0, Bool.not_false, Bool.and_true, decide_true, if_true]
  generalize hy : ({ x with state := 4, parkN := _, stage := _ } : CopySlot) = y
  have hput : (s.fresh.putSlot core.val n y).slot? core.val n = some y := by
    unfold State.slot?
    rw [CopyClaims.copies_putSlot]
    exact mfind_mset_same ..
  refine ⟨_, y, rfl, Eq.trans ?_ hput, by subst hy; exact ⟨rfl, rfl, rfl, rfl⟩⟩
  refine SameCopies.slot? (a := s.fresh.putSlot core.val n y) ?_ _ _
  split
  · exact copies_postOnly (SameCopies.refl _)
  · exact copies_postFaultOf (SameCopies.refl _)
  · exact SameCopies.refl _

theorem copyFault_taken {l c' : Nat} {t : Task} (ho : ownerOf s x.uid = .resident c' l t) (hstop : t.stopped = false) :
    s.copyFault x = s.takeFaultOf c' l .c fCopyFault false 0 x.iaddr x.faddr (slotRec x) := by
  unfold State.copyFault
  rw [ho]
  simp [hstop]

end Sys2Proof.SlotEnds
end

section
/-!
PROOFS. ITINERARY_PREFETCH of the next entry (spec/07 R209).
-/

namespace Sys2Proof.Itineraries
open Sys2Proof Sys2Proof.Machine Sys2Proof.Laws Sys2Proof.Claim Sys2Proof.Traffic Sys2Proof.Control Sys2Proof.TileTraffic
  Sys2Proof.TileAccesses

variable {s : State} {core : CoreId} {slot : SlotId} {t : Task} {it : Itin}

theorem sameBytes_modTask (s : State) (c l : Nat) (f : Task → Task) : SameBytes s (s.modTask c l f) := by
  have h := modTask_but_cores s c l f
  exact sameBytes_of_eq (congrArg State.mem h :) (congrArg State.memKey h :) (congrArg State.free h :)

/-- A read of a line that is not noted leaves every task. -/
theorem sameTasks_readTile (s : State) (c l : Nat) (t : Task) (w : Nat) (x : TLine) (need : TNeed) (hit : Bool) :
    SameTasks s (s.readTile c l t w x need hit false) := by
  unfold State.readTile
  exact ((sameTasks_modLine ..).trans (SameTasks.ite (SameTasks.of_traffic (onlyTraffic_addPin ..)) (SameTasks.refl _))).trans
    (sameTasks_acquireTile ..)

/-- An itinerary whose next entry can be read now, and no prefetch of it is under way. -/
structure AtEntry (s : State) (core : CoreId) (slot : SlotId) (t : Task) (it : Itin) : Prop where
  task : s.task? core.val slot.val = some t
  itin : t.itin = some it
  idle : it.open_ = []
  line : ∀ lf pa, xlateNow s (dieOf core.val) t.pav (it.va.toNat + 16 * it.f) .read = .ok lf pa → lineWaits s pa = false
  running : t.stopped = false
  stays : t.saving = none
  given : it.p < it.count
  left : it.f < it.count
  window : it.f < it.p + it.win

theorem pumpPres_idle (h : AtEntry s core slot t it) : s.pumpPres core.val slot.val none = s := by
  unfold State.pumpPres
  rw [h.task]
  simp only [Option.bind_some, h.itin, h.idle]
  rfl

/-- An entry that asks for no prefetch is passed. -/
theorem prefetch_passes (h : AtEntry s core slot t it) (hpre : preOf s (dieOf core.val) t it = none) :
    exec (.itineraryPrefetch core slot) s
      = .next (s.modTask core.val slot.val (fun t => t.modItin (fun y => { y with f := y.f + 1 }))) := by
  have hi : exec (.itineraryPrefetch core slot) s = execItineraryPrefetch core slot s := rfl
  rw [hi]
  unfold execItineraryPrefetch
  simp only [h.task, h.itin, h.running, h.stays, pumpPres_idle h, Option.isSome_none, Bool.or_self, Bool.false_eq_true, if_false, hpre,
    h.given, h.left, h.window, decide_true, Bool.and_self, Bool.not_true, Bool.false_or]
  split
  · rename_i hx
    exact if_neg (ne_true_of_eq_false (h.line _ _ hx))
  · rfl

/-- The task whose itinerary has a prefetch of its next entry under way. -/
def fetching (t : Task) (p : Pre) : Task :=
  t.modItin (fun y => { y with f := y.f + 1, got := y.got ++ [(y.f, p.tag)], open_ := y.open_ ++ [p] })

/-- An entry's prefetch starts. -/
theorem prefetch_starts {p : Pre} (h : AtEntry s core slot t it) (hpre : preOf s (dieOf core.val) t it = some p) :
    exec (.itineraryPrefetch core slot) s
      = .next ((s.modTask core.val slot.val (fun t => fetching t p)).prefetch core.val slot.val (fetching t p) p) := by
  have hi : exec (.itineraryPrefetch core slot) s = execItineraryPrefetch core slot s := rfl
  have htask := task_modTask_same h.task fun t => fetching t p
  rw [hi]
  unfold fetching at htask ⊢
  unfold execItineraryPrefetch
  simp only [h.task, h.itin, h.running, h.stays, pumpPres_idle h, Option.isSome_none, Bool.or_self, Bool.false_eq_true, if_false, hpre,
    h.given, h.left, h.window, decide_true, Bool.and_self, Bool.not_true, Bool.false_or]
  split
  · rename_i hx
    rw [if_neg (ne_true_of_eq_false (h.line _ _ hx)), htask]
  · rw [if_neg Bool.false_ne_true, htask]

/-- What an itinerary's step leaves: the task but for its itinerary, and memory. -/
theorem entry_passed (h : AtEntry s core slot t it) {e : List Byte} (he : s.readVa (dieOf core.val) t.pav (it.va.toNat + 16 * it.f) 16 = some e)
    (hbits : field e 4 4 ≠ 0) :
    ∃ s' t', exec (.itineraryPrefetch core slot) s = .next s' ∧ s'.task? core.val slot.val = some t'
      ∧ t'.itin = some { it with f := it.f + 1 } ∧ { t' with itin := t.itin } = t ∧ SameBytes s s' := by
  have hpre : preOf s (dieOf core.val) t it = none := by
    unfold preOf
    simp [he, hbits]
  refine ⟨_, _, prefetch_passes h hpre, task_modTask_same h.task _, ?_, rfl, sameBytes_modTask ..⟩
  exact congrArg (Option.map _) h.itin

/-- A prefetch of a line that the die has ends at once. -/
theorem entry_present (h : AtEntry s core slot t it) {p : Pre} {w : Nat} {l : TLine} (hpre : preOf s (dieOf core.val) t it = some p)
    (hn : p.n = it.f) (hknown : p.known = none) (hlook : lookTile s (dieOf core.val) t p.tag p.need none = .hit w l)
    (hask : asked s (.prefetch core.val slot.val it.f) = false) :
    ∃ s' t', exec (.itineraryPrefetch core slot) s = .next s' ∧ s'.task? core.val slot.val = some t'
      ∧ t'.itin = some { it with f := it.f + 1, got := it.got ++ [(it.f, p.tag)] } ∧ { t' with itin := t.itin } = t ∧ s'.mem = s.mem := by
  generalize hs1 : s.modTask core.val slot.val (fun t => fetching t p) = s1
  have hbut : { s1 with cores := s.cores } = s := hs1 ▸ modTask_but_cores ..
  have htask : s1.task? core.val slot.val = some (fetching t p) := hs1 ▸ task_modTask_same h.task _
  have hasked : asked s1 (.prefetch core.val slot.val p.n) = false :=
    hn ▸ (congrArg (fun s : State => asked s (.prefetch core.val slot.val it.f)) hbut :).trans hask
  have hhit : lookTile s1 (dieOf core.val) (fetching t p) p.tag p.need p.known = .hit w l :=
    hknown ▸ (lookTile_congr (congrArg State.dies hbut :) _ _ _ _ _).trans hlook
  have hgo : s1.prefetch core.val slot.val (fetching t p) p
      = (s1.readTile core.val slot.val (fetching t p) w l p.need (!p.waited) false).modTask core.val slot.val (fun t => t.dropPre p.n) := by
    unfold State.prefetch
    simp only [hasked, hhit, Bool.false_eq_true, if_false]
  have hread := sameTasks_readTile s1 core.val slot.val (fetching t p) w l p.need (!p.waited)
  refine ⟨_, _, (prefetch_starts h hpre).trans (by rw [hs1, hgo]), task_modTask_same ((hread.tasks _ _).trans htask) _, ?_, rfl, ?_⟩
  · simp [Task.dropPre, fetching, Task.modItin, h.itin, h.idle]
  · exact (modTask_mem ..).trans (hread.mem.trans (congrArg State.mem hbut :))

end Sys2Proof.Itineraries
end

section
/-!
PROOFS. One line moved by a copy slot (spec/07 R186 to R189, R195): what a masked write of a line leaves in memory, the parts of a range
within a line, and the performing of one part on a DEV page.
-/

namespace Sys2Proof.LineCopies
open Sys2Proof Sys2Proof.Machine Sys2Proof.Laws Sys2Proof.Claim Sys2Proof.Traffic Sys2Proof.VectorLoads Sys2Proof.VectorLands
  Sys2Proof.LineBytes Sys2Proof.SlotFrames Sys2Proof.SlotEnds

variable {s : State}

/-! ## The bytes of a masked write (R108) -/

/-- The first n bytes of a line written under a mask. -/
def maskedBytes (key line : Nat) (mask : BitVec 128) (data : List Byte) (n : Nat) (s : State) : State :=
  each (List.range n) (fun i s => if mask.getLsbD i then s.putByte key (128 * line + i) (data.getD i 0) else s) s

theorem maskedBytes_succ (key line : Nat) (mask : BitVec 128) (data : List Byte) (n : Nat) (s : State) :
    maskedBytes key line mask data (n + 1) s
      = if mask.getLsbD n then (maskedBytes key line mask data n s).putByte key (128 * line + n) (data.getD n 0)
        else maskedBytes key line mask data n s := by
  unfold maskedBytes each
  rw [List.range_succ, List.foldl_append]
  rfl

/-- A byte of memory after a masked write. -/
theorem memRead_maskedBytes (h : WfMem s) (key line : Nat) (mask : BitVec 128) (data : List Byte) (n a : Nat) :
    WfMem (maskedBytes key line mask data n s) ∧ memRead a (maskedBytes key line mask data n s).mem
      = if 128 * line ≤ a ∧ a < 128 * line + n ∧ mask.getLsbD (a - 128 * line) = true then data.getD (a - 128 * line) 0
        else memRead a s.mem := by
  induction n with
  | zero => exact ⟨h, (if_neg (by omega)).symm⟩
  | succ n ih =>
    obtain ⟨hwf, hread⟩ := ih
    rw [maskedBytes_succ]
    by_cases hbit : mask.getLsbD n = true
    · rw [if_pos hbit]
      refine ⟨wf_putByte hwf .., ?_⟩
      by_cases ha : a = 128 * line + n
      · subst ha
        rw [if_pos ⟨by omega, by omega, by rwa [Nat.add_sub_cancel_left]⟩, Nat.add_sub_cancel_left]
        exact memRead_write_same _ _ hwf
      · refine (memRead_write_other ha _ hwf).trans (hread.trans (if_congr ?_ rfl rfl))
        exact and_congr_right fun _ => and_congr_left fun _ => by omega
    · rw [if_neg hbit]
      refine ⟨hwf, hread.trans (if_congr ?_ rfl rfl)⟩
      refine and_congr_right fun hle => ⟨fun ⟨hlt, hm⟩ => ⟨by omega, hm⟩, fun ⟨hlt, hm⟩ => ⟨?_, hm⟩⟩
      have hne : a - 128 * line ≠ n := fun e => hbit (e ▸ hm)
      omega

theorem mem_putLine (key line : Nat) (mask : BitVec 128) (data : List Byte) :
    (s.putLine key line mask data).mem = (maskedBytes key line mask data 128 s).mem := by
  unfold State.putLine maskedBytes
  generalize List.range 128 = is
  dsimp only
  split <;> rfl

/-- A byte of memory after a span of a line is written. -/
theorem memRead_putSpan (h : WfMem s) (key : Nat) {pa : Nat} {bs : List Byte} (hspan : pa % 128 + bs.length ≤ 128) (a : Nat) :
    memRead a (s.putLine key (lineOf pa) (spanMask (pa % 128) bs.length) (spanData (pa % 128) bs)).mem
      = if pa ≤ a ∧ a < pa + bs.length then bs.getD (a - pa) 0 else memRead a s.mem := by
  rw [mem_putLine, (memRead_maskedBytes h ..).2, lineOf]
  by_cases hin : pa ≤ a ∧ a < pa + bs.length
  · have hbit : (spanMask (pa % 128) bs.length).getLsbD (a - 128 * (pa / 128)) = true := by
      rw [getLsbD_spanMask (by omega)]
      exact decide_eq_true (by omega)
    rw [if_pos hin, if_pos ⟨by omega, by omega, hbit⟩, getD_spanData (by omega) (by omega),
      show a - 128 * (pa / 128) - pa % 128 = a - pa by omega]
  · rw [if_neg hin, if_neg]
    rintro ⟨hle, hlt, hm⟩
    rw [getLsbD_spanMask (by omega)] at hm
    have := of_decide_eq_true hm
    omega

/-! ## A range within a line -/

theorem cuts_line {va len : Nat} (h0 : 0 < len) (h : va % 128 + len ≤ 128) : cuts va len = [(0, len)] := by
  have hlines : (va + len - 1) / 128 - va / 128 + 1 = 1 := by omega
  have hlen : min len (128 * (va / 128 + 1) - va) = len := by omega
  unfold cuts
  rw [if_neg (by omega), hlines]
  simp [hlen]

theorem pagesOf_line {va len : Nat} (h0 : 0 < len) (h : va % 128 + len ≤ 128) : pagesOf va len = [va] := by
  have hpages : (va + len - 1) / 4096 - va / 4096 = 0 := by omega
  unfold pagesOf
  rw [if_neg (by omega), hpages]
  rfl

theorem walkIn_cached {die pav : Nat} {vas : List Nat} (h : ∀ va ∈ vas, (tcLeaf (s.die die).tc pav va).isSome = true) :
    s.walkIn die pav vas = s := by
  unfold State.walkIn
  induction vas with
  | nil => rfl
  | cons va vas ih =>
    refine (congrArg (each vas _) ?_).trans (ih fun v hv => h v (List.mem_cons_of_mem _ hv))
    exact if_pos (h va List.mem_cons_self)

/-- A cached page is read in the same way while pavilions and caches stay. -/
theorem xlateNow_cached {s' : State} {die pav va : Nat} (hp : s'.pavs = s.pavs) (hd : s'.dies = s.dies)
    (h : (tcLeaf (s.die die).tc pav va).isSome = true) (acc : AccKind) : xlateNow s' die pav va acc = xlateNow s die pav va acc := by
  obtain ⟨l, hl⟩ := Option.isSome_iff_exists.1 h
  have hpav : s'.pav? pav = s.pav? pav := congrArg (mfind pav) hp
  have hdie : s'.die die = s.die die := congrArg (mget die Die.reset) hd
  unfold xlateNow
  rw [hpav, hdie, hl]

theorem slotParts_line {x : CopySlot} {va len : Nat} {acc : AccKind} {lf : Leaf} {pa : Nat} (h0 : 0 < len) (h : va % 128 + len ≤ 128)
    (hva : va < 2 ^ 64) (hx : xlateNow s (dieOf x.ctx.core.val) x.pav va acc = .ok lf pa) :
    slotParts s x va len acc = [{ pa := pa, n := len, key := lf.key, cls := lf.cls }] := by
  unfold slotParts
  rw [cuts_line h0 h, List.map_singleton, Nat.add_zero, Nat.mod_eq_of_lt hva, hx]
  rfl

theorem rowPieces_line {dst len : Nat} (h0 : 0 < len) (h : dst % 128 + len ≤ 128) (hdst : dst < 2 ^ 64)
    (src : Nat → Nat → Nat × Nat × Xform) :
    rowPieces dst len src
      = [{ dst := dst, n := len, src := (src 0 len).1 % 2 ^ 64, srcN := (src 0 len).2.1, f := (src 0 len).2.2, last := true }] := by
  unfold rowPieces
  rw [cuts_line h0 h, List.map_singleton, Nat.add_zero, Nat.mod_eq_of_lt hdst, Nat.zero_add, decide_eq_true rfl]

/-! ## One part performed -/

/-- The state in which a slot has written a span of a DEV line. -/
def written (s : State) (x : CopySlot) (lf : Leaf) (pa : Nat) (bs : List Byte) : State :=
  (((taken s x.ctx.core.val x.id).putLine lf.key (lineOf pa) (spanMask (pa % 128) bs.length) (spanData (pa % 128) bs)).lineAnswer
    x.ctx.core.val flAck x.id 1 pa x.pav).charge x.acct 100

theorem runPieces_dev {x : CopySlot} {p : Piece} {new : List Byte} {lf : Leaf} {pa : Nat}
    (hwalk : s.walkIn (dieOf x.ctx.core.val) x.pav (pagesOf p.src p.srcN ++ pagesOf p.dst p.n) = s) (hhave : p.have_ x = 0)
    (hprior : slotPrior s x = [])
    (hneeds : (s.slotNeeds x (slotParts s x p.src p.srcN .read) (slotParts s x p.dst p.n .write)).2 = true)
    (hread : (taken s x.ctx.core.val x.id).slotRead x p.src p.srcN = (taken s x.ctx.core.val x.id, .ok new none))
    (hx : xlateNow (taken s x.ctx.core.val x.id) (dieOf x.ctx.core.val) x.pav p.dst .write = .ok lf pa) (hcls : lf.cls = .dev)
    (hsync : x.sync = none) :
    ∃ y, runPieces [p] 0 s x = (written s x lf pa (p.f.bytes p.n new), y) ∧ y.stage = .landed ∧ y.adds = x.adds := by
  have hbehind : ∀ ps, slotBehind s x ps = false := fun ps => by
    unfold slotBehind
    rw [hprior]
    rfl
  unfold taken at hread hx
  unfold runPieces
  simp only [hwalk, hhave, hbehind, hneeds, hread, hx, Nat.lt_irrefl, if_false, Bool.false_eq_true, Bool.not_true, Nat.add_zero, Nat.sub_zero,
    List.take_zero, List.nil_append, State.slotWrite, hcls, Option.isSome_none, State.addSync, hsync]
  exact ⟨_, rfl, rfl, rfl⟩

end Sys2Proof.LineCopies
end

section
/-!
PROOFS. Progress of copy slots (spec/07 R183 to R189, R195, R209): a fill and a copy of one DEV line to their end, and the obligation.
-/

namespace Sys2Proof.SlotProgress
open Sys2Proof Sys2Proof.Machine Sys2Proof.Laws Sys2Proof.Claim Sys2Proof.Traffic Sys2Proof.VectorLoads Sys2Proof.VectorLands
  Sys2Proof.VectorCells Sys2Proof.SlotFrames Sys2Proof.SlotEnds Sys2Proof.LineCopies Sys2Proof.Itineraries

variable {s : State} {x : CopySlot}

/-! ## Served requests -/

/-- Reads that memory has served ask for nothing more. -/
theorem drams_needLines_served {c : Nat} {o : Orig} {own pav cap : Nat} {ps : List VPart} (h : ∀ p ∈ ps, Served s own p.pa) :
    (s.needLines c o own pav cap ps).1.drams = s.drams := by
  have hnone : (needed s c ps).filter (fun p => (dramOf s own p.pa).isNone) = [] := by
    refine List.filter_eq_nil_iff.2 fun p hp => ?_
    obtain ⟨r, hr, -⟩ := (h p (mem_of_mem_partLines (List.mem_filter.1 hp).1)).1
    simp [hr]
  rw [needLines_eq, hnone]
  exact each_keeps (fun x : State => x.drams = s.drams) (fun (p : VPart) s => s.freeLine c own (lineOf p.pa)) (fun _ _ h => h) _ s rfl

/-- A part whose lines memory has served needs nothing more. -/
theorem slotNeeds_served {src : List VPart} {pa n key : Nat} (hsrc : ∀ p ∈ src, Served s x.id p.pa) (hdst : Served s x.id pa) :
    (s.slotNeeds x src [{ pa := pa, n := n, key := key, cls := .dev }]).2 = true := by
  obtain ⟨⟨r, hr, hserved⟩, -⟩ := hdst
  have hneed := needLines_served (c := x.ctx.core.val) (o := slotOrig s x) (pav := x.pav) (cap := slotCap s x) hsrc
  have hdram := dramOf_congr (drams_needLines_served (c := x.ctx.core.val) (o := slotOrig s x) (pav := x.pav) (cap := slotCap s x) hsrc) x.id pa
  rw [hr] at hdram
  unfold State.slotNeeds
  simp [State.needWrite, hneed, hdram, hserved]

/-! ## A part read -/

theorem xlateNow_taken {die pav va : Nat} (h : (tcLeaf (s.die die).tc pav va).isSome = true) (c id : Nat) (acc : AccKind) :
    xlateNow (taken s c id) die pav va acc = xlateNow s die pav va acc := by
  have hpavs : (taken s c id).pavs = s.pavs := rfl
  have hdies : (taken s c id).dies = s.dies := rfl
  exact xlateNow_cached hpavs hdies h acc

theorem slotRead_line {va len sp : Nat} {sf : Leaf} (h0 : 0 < len) (h : va % 128 + len ≤ 128) (hva : va < 2 ^ 64)
    (hx : xlateNow s (dieOf x.ctx.core.val) x.pav va .read = .ok sf sp) (hcls : sf.cls = .dev) (hpois : lineOf sp ∉ s.poison) :
    s.slotRead x va len = (s, .ok (s.bytesK sf.key sp len) none) := by
  unfold State.slotRead
  rw [cuts_line h0 h]
  simp only [List.foldl_cons, List.foldl_nil, Nat.add_zero, Nat.mod_eq_of_lt hva, hx, hcls]
  simp [hpois]

/-! ## The parts of a line's copy -/

theorem pieces_fill {dst len k : Nat} {pat : Word64} (h0 : 0 < len) (h : dst % 128 + len ≤ 128) (hdst : dst < 2 ^ 64) :
    pieces (.fill dst len k pat) []
      = [{ dst := dst, n := len, src := 0, srcN := 0, f := .lit (tab len (fun i => BitVec.ofNat 8 (pat.toNat / 2 ^ (8 * (i % k))))),
           last := true }] := by
  unfold pieces
  dsimp only
  rw [rowPieces_line h0 h hdst]
  simp

theorem rowAt_zero {base : Nat} (h : base < 2 ^ 64) : rowAt base 0 0 = base := by
  unfold rowAt ibits
  simp
  omega

theorem pieces_mem {dst src len : Nat} (h0 : 0 < len) (h : dst % 128 + len ≤ 128) (hdst : dst < 2 ^ 64) (hsrc : src < 2 ^ 64) :
    pieces (.mem dst src len 1 0 0) [] = [{ dst := dst, n := len, src := src, srcN := len, f := .plain, last := true }] := by
  have hrow : pieces (.mem dst src len 1 0 0) [] = rowPieces (rowAt dst 0 0) len (fun o n => (rowAt src 0 0 + o, n, .plain)) := by
    unfold pieces
    simp
  rw [hrow, rowAt_zero hdst, rowAt_zero hsrc, rowPieces_line h0 h hdst]
  simp only [Nat.add_zero, Nat.mod_eq_of_lt hsrc]

/-! ## A slot carried on -/

theorem devReadyAt_ready {c pav key : Nat} (h : (s.devReadyAt c pav key).2 = true) : s.devReadyAt c pav key = (s, true) := by
  unfold State.devReadyAt at h ⊢
  dsimp only at h ⊢
  split
  · rename_i hdirty
    rw [if_pos hdirty] at h
    exact nomatch h
  · rename_i hdirty
    rw [if_neg hdirty] at h
    exact congrArg (Prod.mk s) h

/-- A slot that nothing holds back starts its work. -/
theorem advanceSlot_starts {c : Nat} (h0 : x.state = 0) (hf : slotFrozen s x = false) (hstart : x.stage = .start)
    (hheld : devHeld s x = false) (hready : (s.devReadyAt c x.pav x.key).2 = true)
    (hop : (∃ dst len k pat, x.op = .fill dst len k pat) ∨ ∃ dst src len, x.op = .mem dst src (len + 1) 1 0 0) :
    s.advanceSlot c x = runPieces (pieces x.op []) x.bytes s x := by
  have hdev : (if x.stage = .start && slotDev s x then s.devReadyAt c x.pav x.key else (s, true)) = (s, true) := by
    split
    · exact devReadyAt_ready hready
    · rfl
  unfold State.advanceSlot
  rw [if_neg (by simp [h0, hf, hheld]), hdev]
  rcases hop with ⟨dst, len, k, pat, hop⟩ | ⟨dst, src, len, hop⟩
  · rw [hop, hstart]
    rfl
  · rw [hop, hstart]
    rfl

theorem copies_written (s : State) (x : CopySlot) (lf : Leaf) (pa : Nat) (bs : List Byte) : SameCopies s (written s x lf pa bs) := by
  have htaken : SameCopies s (taken s x.ctx.core.val x.id) := by
    unfold taken State.freeEntry
    exact SameCopies.modCore (SameCopies.of_cores (SameCopies.refl s) rfl) fun _ => rfl
  exact SameCopies.of_cores (copies_putLine htaken) (charge_cores ..)

theorem mem_written (s : State) (x : CopySlot) (lf : Leaf) (pa : Nat) (bs : List Byte) :
    (written s x lf pa bs).mem
      = ((taken s x.ctx.core.val x.id).putLine lf.key (lineOf pa) (spanMask (pa % 128) bs.length) (spanData (pa % 128) bs)).mem :=
  charge_mem ..

/-- A slot that has performed its only part, on a DEV page, ends with its bytes written. -/
theorem copySlotEnd_written {core : CoreId} {n : Nat} {p : Piece} {new : List Byte} {lf : Leaf} {pa : Nat} {y : CopySlot}
    (hs : s.slot? core.val n = some x) (hf : slotFrozen s x = false)
    (ha : s.advanceSlot core.val x = (written s x lf pa (p.f.bytes p.n new), y)) (hy : y.stage = .landed) (hadds : y.adds = [])
    (hwf : Memory.wf s.mem = true) (hlen : pa % 128 + (p.f.bytes p.n new).length ≤ 128) :
    ∃ s', exec (.copySlotEnd core n) s = .next s'
      ∧ (s'.slot? core.val n = none ∧ ∀ m, m ≠ n → s'.slot? core.val m = s.slot? core.val m)
      ∧ ∀ a, memRead a s'.mem = if pa ≤ a ∧ a < pa + (p.f.bytes p.n new).length then (p.f.bytes p.n new).getD (a - pa) 0
          else memRead a s.mem := by
  have hfreed := freed_freeSlot (written s x lf pa (p.f.bytes p.n new)) core.val n { y with state := 1 }
  refine ⟨_, copySlotEnd_ends hs hf ha hy hadds, ⟨hfreed.gone, fun m hm => ?_⟩, fun a => ?_⟩
  · exact (hfreed.others m hm).trans ((copies_written ..).slot? _ _)
  · rw [hfreed.mem, mem_written]
    exact memRead_putSpan (s := taken s x.ctx.core.val x.id) hwf lf.key hlen a

/-- A slot that starts its work on one part of a line of a DEV page: nothing holds it, the page is cached, memory has served the line. -/
structure OneLine (s : State) (x : CopySlot) (core : CoreId) (dst len : Nat) (lf : Leaf) (pa : Nat) : Prop where
  state : x.state = 0
  adds : x.adds = []
  frozen : slotFrozen s x = false
  start : x.stage = .start
  bytes : x.bytes = 0
  sync : x.sync = none
  ctx : x.ctx.core = core
  held : devHeld s x = false
  ready : (s.devReadyAt core.val x.pav x.key).2 = true
  prior : slotPrior s x = []
  cached : (tcLeaf (s.die (dieOf core.val)).tc x.pav dst).isSome = true
  filled : 0 < len
  line : dst % 128 + len ≤ 128
  same : pa % 128 = dst % 128
  low : dst + len ≤ 2 ^ 48
  page : xlateNow s (dieOf core.val) x.pav dst .write = .ok lf pa
  dev : lf.cls = .dev
  served : Served s x.id pa
  wf : Memory.wf s.mem = true

section
variable {core : CoreId} {n dst len pa : Nat} {lf : Leaf}

/-- A slot of one part within a DEV line ends with the part's bytes written, its source being at hand. -/
theorem OneLine.ends {p : Piece} {new : List Byte} (h : OneLine s x core dst len lf pa) (hs : s.slot? core.val n = some x)
    (ha : s.advanceSlot core.val x = runPieces (pieces x.op []) x.bytes s x) (hp : pieces x.op [] = [p]) (hdst : p.dst = dst) (hn : p.n = len)
    (hhave : p.have_ x = 0) (hsrc : ∀ va ∈ pagesOf p.src p.srcN, (tcLeaf (s.die (dieOf core.val)).tc x.pav va).isSome = true)
    (hserved : ∀ q ∈ slotParts s x p.src p.srcN .read, Served s x.id q.pa)
    (hread : (taken s core.val x.id).slotRead x p.src p.srcN = (taken s core.val x.id, .ok new none))
    (hbytes : (p.f.bytes p.n new).length = len) :
    ∃ s', exec (.copySlotEnd core n) s = .next s'
      ∧ (s'.slot? core.val n = none ∧ ∀ m, m ≠ n → s'.slot? core.val m = s.slot? core.val m)
      ∧ ∀ a, memRead a s'.mem = if pa ≤ a ∧ a < pa + len then (p.f.bytes p.n new).getD (a - pa) 0 else memRead a s.mem := by
  have hlow := h.low
  have hpages : pagesOf p.dst p.n = [dst] := by rw [hdst, hn, pagesOf_line h.filled h.line]
  have hwalk : s.walkIn (dieOf core.val) x.pav (pagesOf p.src p.srcN ++ pagesOf p.dst p.n) = s := by
    refine walkIn_cached fun va hva => ?_
    rw [hpages] at hva
    rcases List.mem_append.1 hva with hva | hva
    · exact hsrc va hva
    · rw [List.mem_singleton.1 hva]
      exact h.cached
  have hparts : slotParts s x p.dst p.n .write = [{ pa := pa, n := len, key := lf.key, cls := .dev }] := by
    rw [hdst, hn, slotParts_line h.filled h.line (by omega) (by rw [h.ctx]; exact h.page), h.dev]
  have hneeds : (s.slotNeeds x (slotParts s x p.src p.srcN .read) (slotParts s x p.dst p.n .write)).2 = true := by
    rw [hparts]
    exact slotNeeds_served hserved h.served
  have hx : xlateNow (taken s core.val x.id) (dieOf core.val) x.pav p.dst .write = .ok lf pa := by
    rw [hdst]
    exact (xlateNow_taken h.cached ..).trans h.page
  rw [← h.ctx] at hwalk hread hx
  obtain ⟨y, hrun, hy, hadds⟩ := runPieces_dev hwalk hhave h.prior hneeds hread hx h.dev h.sync
  have hdone : s.advanceSlot core.val x = (written s x lf pa (p.f.bytes p.n new), y) := by rw [ha, hp, h.bytes, hrun]
  have hspan : pa % 128 + (p.f.bytes p.n new).length ≤ 128 := by
    rw [hbytes, h.same]
    exact h.line
  obtain ⟨s', hs', hfreed, hmem⟩ := copySlotEnd_written hs h.frozen hdone hy (hadds.trans h.adds) h.wf hspan
  rw [hbytes] at hmem
  exact ⟨s', hs', hfreed, hmem⟩

/-- A fill writes its pattern (R195). -/
theorem OneLine.fill {k : Nat} {pat : Word64} (h : OneLine s x core dst len lf pa) (hs : s.slot? core.val n = some x)
    (hop : x.op = .fill dst len k pat) :
    ∃ s', exec (.copySlotEnd core n) s = .next s'
      ∧ (s'.slot? core.val n = none ∧ ∀ m, m ≠ n → s'.slot? core.val m = s.slot? core.val m)
      ∧ ∀ a, memRead a s'.mem = if pa ≤ a ∧ a < pa + len then BitVec.ofNat 8 (pat.toNat / 2 ^ (8 * ((a - pa) % k)))
          else memRead a s.mem := by
  have hlow := h.low
  have ha := advanceSlot_starts h.state h.frozen h.start h.held h.ready (.inl ⟨dst, len, k, pat, hop⟩)
  have hp : pieces x.op [] = _ := (congrArg (pieces · []) hop).trans (pieces_fill h.filled h.line (by omega))
  obtain ⟨s', hs', hfreed, hmem⟩ := h.ends (new := []) hs ha hp rfl rfl rfl nofun nofun rfl (length_tab ..)
  refine ⟨s', hs', hfreed, fun a => (hmem a).trans ?_⟩
  by_cases hin : pa ≤ a ∧ a < pa + len
  · rw [if_pos hin, if_pos hin]
    exact getD_tab (by omega) _ _
  · rw [if_neg hin, if_neg hin]

/-- A copy writes the bytes of its source (R195). -/
theorem OneLine.copy {src sp : Nat} {sf : Leaf} (h : OneLine s x core dst len lf pa) (hs : s.slot? core.val n = some x)
    (hop : x.op = .mem dst src len 1 0 0) (hline : src % 128 + len ≤ 128) (hlow : src + len ≤ 2 ^ 48)
    (hcached : (tcLeaf (s.die (dieOf core.val)).tc x.pav src).isSome = true)
    (hpage : xlateNow s (dieOf core.val) x.pav src .read = .ok sf sp) (hdev : sf.cls = .dev) (hserved : Served s x.id sp)
    (hpois : lineOf sp ∉ s.poison) :
    ∃ s', exec (.copySlotEnd core n) s = .next s'
      ∧ (s'.slot? core.val n = none ∧ ∀ m, m ≠ n → s'.slot? core.val m = s.slot? core.val m)
      ∧ ∀ a, memRead a s'.mem = if pa ≤ a ∧ a < pa + len then s.byteK sf.key (sp + (a - pa)) else memRead a s.mem := by
  have hdlow := h.low
  obtain ⟨m, rfl⟩ : ∃ m, len = m + 1 := ⟨len - 1, by have := h.filled; omega⟩
  have ha := advanceSlot_starts h.state h.frozen h.start h.held h.ready (.inr ⟨dst, src, m, hop⟩)
  have hp : pieces x.op [] = _ := (congrArg (pieces · []) hop).trans (pieces_mem h.filled h.line (by omega) (by omega))
  have hparts : slotParts s x src (m + 1) .read = [{ pa := sp, n := m + 1, key := sf.key, cls := sf.cls }] :=
    slotParts_line h.filled hline (by omega) (by rw [h.ctx]; exact hpage)
  have hread : (taken s core.val x.id).slotRead x src (m + 1)
      = (taken s core.val x.id, .ok ((taken s core.val x.id).bytesK sf.key sp (m + 1)) none) := by
    refine slotRead_line h.filled hline (by omega) ?_ hdev hpois
    rw [h.ctx]
    exact (xlateNow_taken hcached ..).trans hpage
  obtain ⟨s', hs', hfreed, hmem⟩ := h.ends hs ha hp rfl rfl rfl
    (fun va hva => by
      rw [pagesOf_line h.filled hline] at hva
      rw [List.mem_singleton.1 hva]
      exact hcached)
    (fun q hq => by
      rw [hparts] at hq
      rw [List.mem_singleton.1 hq]
      exact hserved)
    hread (length_tab ..)
  refine ⟨s', hs', hfreed, fun a => (hmem a).trans ?_⟩
  by_cases hin : pa ≤ a ∧ a < pa + (m + 1)
  · rw [if_pos hin, if_pos hin]
    exact getD_tab (by omega) _ _
  · rw [if_neg hin, if_neg hin]

end

/-- Settles O38: what ends a slot is read off its stage, its only part off the lines that memory serves, an entry off the lookup of its line. -/
theorem copySlotsProgress : Obligations.CopySlotsProgress := by
  unfold Obligations.CopySlotsProgress
  intro s core n x hs h0 hadds hf
  refine ⟨fun l t _ hst => ?_, fun l t dst len lf pa src _ hst hb hsync hctx hheld hready hprior hcached hlen hline hsame hlow hx hcls
      hserved hwf hwork => ?_, fun hst hp => copySlotFail_fails hs hf (advanceSlot_failed h0 hf hst) hst hp,
    fun l t c' ho hstop => copyFault_taken ho hstop,
    fun hst hp => copySlotPause_pauses hs hf h0 (advanceSlot_failed h0 hf hst) hst hp,
    fun slot t it e b ht hit hopen hwait hrun hsave hp hcnt hwin he => ?_⟩
  · have hfreed := freed_freeSlot s core.val n { x with state := 1 }
    exact ⟨_, copySlotEnd_ends hs hf (advanceSlot_landed h0 hf hst) hst hadds, ⟨hfreed.gone, hfreed.others⟩, hfreed.bytes⟩
  · have h : OneLine s x core dst len lf pa := ⟨h0, hadds, hf, hst, hb, hsync, hctx, hheld, hready, hprior, hcached, hlen, hline, hsame,
      hlow, hx, hcls, hserved, hwf⟩
    rcases hwork with ⟨k, pat, hop, -, hsrc⟩ | ⟨from_, sf, sp, hop, hfline, hflow, hfcached, hfx, hfcls, hfserved, hpois, -, hsrc⟩
    · obtain ⟨s', hs', hfreed, hmem⟩ := h.fill hs hop
      refine ⟨s', hs', hfreed, fun a => (hmem a).trans ?_⟩
      by_cases hin : pa ≤ a ∧ a < pa + len
      · rw [if_pos hin, if_pos hin, hsrc _ (by omega)]
      · rw [if_neg hin, if_neg hin]
    · obtain ⟨s', hs', hfreed, hmem⟩ := h.copy hs hop hfline hflow hfcached hfx hfcls hfserved hpois
      refine ⟨s', hs', hfreed, fun a => (hmem a).trans ?_⟩
      by_cases hin : pa ≤ a ∧ a < pa + len
      · rw [if_pos hin, if_pos hin, hsrc _ (by omega)]
      · rw [if_neg hin, if_neg hin]
  · have h : AtEntry s core slot t it := ⟨ht, hit, hopen, hwait, hrun, hsave, hp, hcnt, hwin⟩
    refine ⟨fun hbits => entry_passed h he hbits, fun hslot hflag hzero hdesc => ?_⟩
    intro g n0 w l hlook hask
    refine entry_present h (p := { n := it.f, tag := g, desc := b, need := { n0 with ver := field e 2 2 }, known := none, waited := false })
      ?_ rfl rfl hlook hask
    unfold preOf
    simp [he, hslot, hflag, hzero, hdesc, g, n0]

end Sys2Proof.SlotProgress
end

section
/-!
PROOFS. A pavilion's record and what its endpoint sends (spec/10 R248, R263, R268, R269): changes of one pavilion's record alone, a
message sent, notification messages and their acknowledgements.
-/

namespace Sys2Proof.Endpoints
open Sys2Proof Sys2Proof.Machine Sys2Proof.Laws Sys2Proof.Claim Sys2Proof.Stored

/-! ## One pavilion's record -/

section
variable {s s' s'' : State} {n : Nat} {p q r : Pav}

theorem modPav_eq (hp : s.pav? n = some p) (f : Pav → Pav) : s.modPav n f = { s with pavs := mset n (f p) s.pavs } := by
  unfold State.modPav
  rw [hp]

theorem onlyPav_modPav (hp : s.pav? n = some p) (f : Pav → Pav) : OnlyPav s (s.modPav n f) n (f p) := by
  rw [modPav_eq hp]
  exact ⟨mfind_mset_same .., fun m hm => mfind_mset_other hm .., rfl⟩

theorem OnlyPav.trans (h : OnlyPav s s' n q) (h' : OnlyPav s' s'' n r) : OnlyPav s s'' n r := by
  obtain ⟨-, hother, hrest⟩ := h
  obtain ⟨hr, hother', hrest'⟩ := h'
  refine ⟨hr, fun m hm => (hother' m hm).trans (hother m hm), ?_⟩
  exact (congrArg (fun x : State => { x with pavs := s.pavs }) hrest').trans hrest

theorem OnlyPav.modPav (h : OnlyPav s s' n q) (f : Pav → Pav) : OnlyPav s (s'.modPav n f) n (f q) :=
  OnlyPav.trans h (onlyPav_modPav h.1 f)

theorem OnlyPav.count (h : OnlyPav s s' n q) (f : Counters → Counters) : OnlyPav s (s'.count n f) n { q with ctr := f q.ctr } :=
  OnlyPav.modPav h _

theorem onlyPav_count (hp : s.pav? n = some p) (f : Counters → Counters) : OnlyPav s (s.count n f) n { p with ctr := f p.ctr } :=
  onlyPav_modPav hp _

theorem OnlyPav.bridgeUp (h : OnlyPav s s' n q) (k : Nat) : bridgeUp s' k = bridgeUp s k :=
  (congrArg (fun x : State => x.dev.bridges.contains (bridgeDie k)) h.2.2 :)

/-! ## A message sent -/

theorem send_lost (h : bridgeUp s n = false) (m : HostMsg) : s.send n m = s := by
  unfold State.send
  rw [h, if_neg Bool.false_ne_true]

/-- Beside what was sent, only the record of the sending pavilion has changed. -/
structure Sent (s s' : State) (n : Nat) (m : HostMsg) (q : Pav) : Prop where
  out : s'.out = s.out ++ [m]
  only : OnlyPav { s with out := s'.out } s' n q

/-- The record of a pavilion that has sent one message more. -/
def sentOne (p : Pav) : Pav := { p with ctr := { p.ctr with txf := p.ctr.txf + 1 } }

theorem OnlyPav.send (h : OnlyPav s s' n q) (hb : Machine.bridgeUp s n = true) (m : HostMsg) : Sent s (s'.send n m) n m (sentOne q) := by
  have hup : Machine.bridgeUp s' n = true := (OnlyPav.bridgeUp h n).trans hb
  have hsend : s'.send n m = { s'.count n (fun c => { c with txf := c.txf + 1 }) with out := s'.out ++ [m] } := by
    unfold State.send
    rw [hup, if_pos rfl]
  obtain ⟨hq, hother, hrest⟩ := OnlyPav.count h fun c => { c with txf := c.txf + 1 }
  have hout : s'.out = s.out := (congrArg State.out h.2.2 :)
  rw [hsend, hout]
  exact ⟨rfl, hq, hother, congrArg (fun x : State => { x with out := s.out ++ [m] }) hrest⟩

end

/-! ## Notification messages (R263, R269) -/

section
variable {s : State} {pav : PavId} {p : Pav}

theorem notificationSend_waits {q : BitVec 8} {nq : NQueue} (hp : s.pav? pav.val = some p) (hq : mfind q.toNat p.nqs = some nq)
    (h : p.st ≠ .running ∨ nq.due s.cyc = false ∨ nq.rate.toNat ≤ (if nq.sent.1 = s.cyc.toNat / 800000 then nq.sent.2 else 0)) :
    exec (.notificationSend pav q) s = .next s := by
  have hi : exec (.notificationSend pav q) s = execNotificationSend pav q s := rfl
  rw [hi]
  unfold execNotificationSend
  simp only [hp, hq]
  refine if_pos ?_
  rcases h with h | h | h
  · simp [h]
  · simp [h]
  · simp only [decide_eq_true h, Bool.or_true]

/-- The record of a pavilion whose queue has sent a message. -/
def notified (p : Pav) (q : BitVec 8) (nq : NQueue) (m : List Byte) (cyc : Word64) : Pav :=
  let now := cyc.toNat / 800000
  { p with
    nqs := mset q.toNat { nq with vals := nq.vals.drop 64, dropped := 0, dropSince := none,
                                  sent := (now, (if nq.sent.1 = now then nq.sent.2 else 0) + 1) } p.nqs
    unacked := mset p.outSeq.toNat { ip := nq.ip, port := nq.port, bytes := m, last := cyc, resent := 0 } p.unacked
    outSeq := p.outSeq + 1 }

theorem notificationSend_sends {q : BitVec 8} {nq : NQueue} {m : List Byte} (hp : s.pav? pav.val = some p) (hq : mfind q.toNat p.nqs = some nq)
    (hst : p.st = .running) (hdue : nq.due s.cyc = true)
    (hrate : (if nq.sent.1 = s.cyc.toNat / 800000 then nq.sent.2 else 0) < nq.rate.toNat)
    (hm : m = actMessage p.net.cmdkey 0x40 2 pav.val p.outSeq 0 (nq.message q.toNat)) :
    exec (.notificationSend pav q) s
      = .next ((s.modPav pav.val (fun p => notified p q nq m s.cyc)).send pav.val (.notice pav.val nq.ip nq.port m)) := by
  have hi : exec (.notificationSend pav q) s = execNotificationSend pav q s := rfl
  rw [hi, hm]
  unfold execNotificationSend
  simp only [hp, hq]
  refine (if_neg ?_).trans ?_
  · simp [hst, hdue, Nat.not_le.2 hrate]
  · rw [modPav_eq hp, modPav_eq hp]
    rfl

variable {seq : Word32} {m : NMsg}

theorem retransmit_waits (hp : s.pav? pav.val = some p) (hm : mfind seq.toNat p.unacked = some m)
    (h : p.st ≠ .running ∨ (s.cyc - m.last).toNat < 800000) : exec (.notificationRetransmit pav seq) s = .next s := by
  have hi : exec (.notificationRetransmit pav seq) s = execNotificationRetransmit pav seq s := rfl
  rw [hi]
  unfold execNotificationRetransmit
  simp only [hp, hm]
  refine if_pos ?_
  rcases h with h | h
  · simp [h]
  · simp only [decide_eq_true h, Bool.or_true]

theorem retransmit_again (hp : s.pav? pav.val = some p) (hm : mfind seq.toNat p.unacked = some m) (hst : p.st = .running)
    (hlate : 800000 ≤ (s.cyc - m.last).toNat) (h8 : m.resent < 8) :
    exec (.notificationRetransmit pav seq) s
      = .next ((s.modPav pav.val (fun p => { p with
          unacked := mset seq.toNat { m with last := s.cyc, resent := m.resent + 1 } p.unacked })).send pav.val
            (.notice pav.val m.ip m.port m.bytes)) := by
  have hi : exec (.notificationRetransmit pav seq) s = execNotificationRetransmit pav seq s := rfl
  rw [hi]
  unfold execNotificationRetransmit
  simp only [hp, hm]
  refine (if_neg ?_).trans (if_pos h8)
  simp only [hst, decide_eq_false (Nat.not_lt.2 hlate)]
  decide

theorem retransmit_discards (hp : s.pav? pav.val = some p) (hm : mfind seq.toNat p.unacked = some m) (hst : p.st = .running)
    (hlate : 800000 ≤ (s.cyc - m.last).toNat) (h8 : 8 ≤ m.resent) :
    exec (.notificationRetransmit pav seq) s
      = .next (s.modPav pav.val (fun p => { p with unacked := mdel seq.toNat p.unacked, ctr := { p.ctr with nqDisc := p.ctr.nqDisc + 1 } })) := by
  have hi : exec (.notificationRetransmit pav seq) s = execNotificationRetransmit pav seq s := rfl
  rw [hi]
  unfold execNotificationRetransmit
  simp only [hp, hm]
  refine (if_neg ?_).trans (if_neg (Nat.not_lt.2 h8))
  simp only [hst, decide_eq_false (Nat.not_lt.2 hlate)]
  decide

theorem notifyAck_done (hp : s.pav? pav.val = some p) (hm : mfind seq.toNat p.unacked = some m) :
    exec (.notifyAck pav seq) s = .next (s.modPav pav.val (fun p => { p with unacked := mdel seq.toNat p.unacked })) := by
  have hi : exec (.notifyAck pav seq) s = execNotifyAck pav seq s := rfl
  rw [hi]
  unfold execNotifyAck
  simp only [hp, hm]
  rfl

theorem notifyAck_unknown (hp : s.pav? pav.val = some p) (hm : mfind seq.toNat p.unacked = none) :
    exec (.notifyAck pav seq) s = .next (s.count pav.val (fun c => { c with dropAct := c.dropAct + 1 })) := by
  have hi : exec (.notifyAck pav seq) s = execNotifyAck pav seq s := rfl
  rw [hi]
  unfold execNotifyAck
  simp only [hp, hm]
  rfl

end

end Sys2Proof.Endpoints
end

section
/-!
PROOFS. Memory read and written by the device for a pavilion (spec/16 R352): it does not depend on what the pavilion's endpoint has
counted, and a write leaves tasks, pavilions and what was sent.
-/

namespace Sys2Proof.HostAccesses
open Sys2Proof Sys2Proof.Machine Sys2Proof.Laws Sys2Proof.Claim Sys2Proof.Endpoints

/-! ## Records of pavilions that a write does not look at -/

/-- A state with other records of pavilions. -/
def withPavs (q : SMap Pav) (s : State) : State := { s with pavs := q }

section
variable {q : SMap Pav}

theorem each_withPavs {α : Type} {f : α → State → State} (hf : ∀ a s, f a (withPavs q s) = withPavs q (f a s)) (l : List α) (s : State) :
    each l f (withPavs q s) = withPavs q (each l f s) := by
  induction l generalizing s with
  | nil => rfl
  | cons a l ih => exact (congrArg (each l f) (hf a s)).trans (ih _)

theorem ite_withPavs {p : Prop} [Decidable p] {x y x' y' : State} (hx : x' = withPavs q x) (hy : y' = withPavs q y) :
    (if p then x' else y') = withPavs q (if p then x else y) := by
  split
  · exact hx
  · exact hy

theorem putBytes_withPavs (key : Nat) (bs : List Byte) (a : Nat) (s : State) :
    (withPavs q s).putBytes key a bs = withPavs q (s.putBytes key a bs) := by
  induction bs generalizing a s with
  | nil => rfl
  | cons b bs ih => exact ih (a + 1) (s.putByte key a b)

theorem store_withPavs (key a : Nat) (bs : List Byte) (s : State) : (withPavs q s).store key a bs = withPavs q (s.store key a bs) := by
  unfold State.store
  rw [putBytes_withPavs]
  rfl

theorem putLine_withPavs (key line : Nat) (mask : BitVec 128) (data : List Byte) (s : State) :
    (withPavs q s).putLine key line mask data = withPavs q (s.putLine key line mask data) := by
  unfold State.putLine
  generalize List.range 128 = is
  rw [each_withPavs (q := q) (f := fun i x => if mask.getLsbD i then x.putByte key (128 * line + i) (data.getD i 0) else x)
    fun i x => ite_withPavs rfl rfl]
  exact ite_withPavs rfl rfl

theorem countMiss_withPavs (r : DReq) (s : State) : (withPavs q s).countMiss r = withPavs q (s.countMiss r) := ite_withPavs rfl rfl

theorem applyPay_withPavs (r : DReq) (s : State) : (withPavs q s).applyPay r = withPavs q (s.applyPay r) := by
  unfold State.applyPay
  rcases r.pay with _ | w
  · rfl
  · dsimp only
    rw [putLine_withPavs]
    exact ite_withPavs rfl rfl

theorem settle_withPavs (f : DReq → Bool) (s : State) : (withPavs q s).settle f = withPavs q (s.settle f) := by
  unfold State.settle
  refine ite_withPavs rfl ?_
  rw [show (withPavs q s).drams = s.drams from rfl, each_withPavs (q := q) fun r x => by rw [countMiss_withPavs, applyPay_withPavs]]
  rfl

theorem modCore_withPavs (c : Nat) (f : Core → Core) (s : State) : (withPavs q s).modCore c f = withPavs q (s.modCore c f) := rfl
theorem modHome_withPavs (h : Nat) (f : Home → Home) (s : State) : (withPavs q s).modHome h f = withPavs q (s.modHome h f) := rfl
theorem modDev_withPavs (f : Dev → Dev) (s : State) : (withPavs q s).modDev f = withPavs q (s.modDev f) := rfl

theorem broadcast_withPavs (s : State) : (withPavs q s).broadcast = withPavs q s.broadcast := by
  have hl : latestLtime (withPavs q s) = latestLtime s := by
    unfold latestLtime
    generalize List.range 256 = cs
    rfl
  unfold State.broadcast
  rw [hl, show (withPavs q s).dev = s.dev from rfl]
  generalize List.range 256 = cs
  generalize List.range 64 = hs
  have hcores := fun f => each_withPavs (q := q) (f := fun c x => x.modCore c (Core.atFloor f)) (fun _ _ => modCore_withPavs ..) cs s
  have hhomes := fun o f s => each_withPavs (q := q) (f := fun h x => x.modHome h (Home.atFloor o f)) (fun _ _ => modHome_withPavs ..) hs s
  dsimp only
  rw [hcores, hhomes, modDev_withPavs]

theorem floorFor_withPavs {w : State → Word32} {s : State} (hw : w (withPavs q s) = w s) :
    (withPavs q s).floorFor w = withPavs q (s.floorFor w) := by
  unfold State.floorFor
  rw [hw, broadcast_withPavs]
  exact ite_withPavs rfl rfl

/-! ## Pages -/

variable {s : State} {n : Nat} {p : Pav} {c : Counters}

theorem dword_withPavs (a : Nat) (s : State) : (withPavs q s).dword a = s.dword a := by
  unfold State.dword
  rw [settle_withPavs]
  rfl

theorem groupValid_withPavs (t idx : Nat) (s : State) : groupValid (withPavs q s) t idx = groupValid s t idx := by
  unfold groupValid
  simp only [dword_withPavs]

/-- A walk does not look at a pavilion's counters. -/
theorem walkFrom_counters (tc : List TcEntry) (va k t : Nat) :
    walkFrom (withPavs q s) n { p with ctr := c } tc va k t = walkFrom s n p tc va k t := by
  induction k generalizing t with
  | zero => rfl
  | succ k ih =>
    unfold walkFrom
    simp only [ih, dword_withPavs, groupValid_withPavs]
    rfl

/-- Pages of a pavilion are read in the same way while but its counters differ. -/
theorem xlateNow_counters (hp : s.pav? n = some p) (hq : mfind n q = some { p with ctr := c }) (die va : Nat) (acc : AccKind) :
    xlateNow (withPavs q s) die n va acc = xlateNow s die n va acc := by
  have hq' : (withPavs q s).pav? n = some { p with ctr := c } := hq
  have hwalk : walk (withPavs q s) n va ((withPavs q s).die die).tc = walk s n va (s.die die).tc := by
    unfold walk
    rw [hp, hq']
    exact congrArg _ (walkFrom_counters ..)
  unfold xlateNow
  rw [hwalk, hp, hq']
  rfl

end

/-! ## What a write leaves -/

/-- Only bytes, poison, requests, timestamps and the floor have changed. -/
structure OnlyBytes (s s' : State) : Prop where
  tasks : ∀ b l, s'.task? b l = s.task? b l
  bridges : s'.dev.bridges = s.dev.bridges
  rest : { s' with mem := s.mem, memKey := s.memKey, poison := s.poison, losses := s.losses, cores := s.cores, homes := s.homes,
                   drams := s.drams, dev := s.dev } = s

namespace OnlyBytes
variable {a s s' : State}

theorem refl (s : State) : OnlyBytes s s := ⟨fun _ _ => rfl, rfl, rfl⟩

theorem trans (h : OnlyBytes a s) (h' : OnlyBytes s s') : OnlyBytes a s' :=
  ⟨fun b l => (h'.tasks b l).trans (h.tasks b l), h'.bridges.trans h.bridges,
    (congrArg (fun x : State => { x with mem := a.mem, memKey := a.memKey, poison := a.poison, losses := a.losses, cores := a.cores,
                                         homes := a.homes, drams := a.drams, dev := a.dev }) h'.rest).trans h.rest⟩

theorem pavs (h : OnlyBytes s s') : s'.pavs = s.pavs := (congrArg State.pavs h.rest :)

theorem each {α : Type} {f : α → State → State} {l : List α} (h : OnlyBytes a s) (hf : ∀ x s, OnlyBytes a s → OnlyBytes a (f x s)) :
    OnlyBytes a (each l f s) :=
  each_keeps (OnlyBytes a) f hf l s h

theorem ite {x y : State} {p : Prop} [Decidable p] (hx : OnlyBytes s x) (hy : OnlyBytes s y) : OnlyBytes s (if p then x else y) := by
  split
  · exact hx
  · exact hy

theorem putByte (h : OnlyBytes a s) (key n : Nat) (b : Byte) : OnlyBytes a (s.putByte key n b) := h.trans ⟨fun _ _ => rfl, rfl, rfl⟩

theorem putBytes (h : OnlyBytes a s) (key n : Nat) (bs : List Byte) : OnlyBytes a (s.putBytes key n bs) := by
  induction bs generalizing n s with
  | nil => exact h
  | cons b bs ih => exact ih (h.putByte key n b) (n + 1)

theorem unpoison (h : OnlyBytes a s) (l : List Nat) : OnlyBytes a { s with poison := l } := h.trans ⟨fun _ _ => rfl, rfl, rfl⟩

theorem store (h : OnlyBytes a s) (key n : Nat) (bs : List Byte) : OnlyBytes a (s.store key n bs) := (h.putBytes key n bs).unpoison _

theorem putLine (h : OnlyBytes a s) (key line : Nat) (mask : BitVec 128) (data : List Byte) :
    OnlyBytes a (s.putLine key line mask data) := by
  unfold State.putLine
  generalize List.range 128 = is
  have hbytes := h.each (l := is) (f := fun i x => if mask.getLsbD i then x.putByte key (128 * line + i) (data.getD i 0) else x)
    fun i x h => OnlyBytes.ite (h.putByte ..) h
  exact OnlyBytes.ite (hbytes.unpoison _) hbytes

theorem modHome (h : OnlyBytes a s) (d : Nat) (f : Home → Home) : OnlyBytes a (s.modHome d f) := h.trans ⟨fun _ _ => rfl, rfl, rfl⟩

theorem modCore (h : OnlyBytes a s) (c : Nat) {f : Core → Core} (hf : ∀ k, (f k).slots = k.slots) : OnlyBytes a (s.modCore c f) :=
  h.trans ⟨fun _ _ => task_modCore (hf _), rfl, rfl⟩

theorem floor (h : OnlyBytes a s) (f : Dev → Dev) (hf : ∀ d, (f d).bridges = d.bridges) : OnlyBytes a (s.modDev f) :=
  h.trans ⟨fun _ _ => rfl, hf _, rfl⟩

theorem lose (h : OnlyBytes a s) (x : List (Nat × Nat × Nat)) : OnlyBytes a { s with losses := x } := h.trans ⟨fun _ _ => rfl, rfl, rfl⟩

theorem applyPay (h : OnlyBytes a s) (r : DReq) : OnlyBytes a (s.applyPay r) := by
  unfold State.applyPay
  split
  · exact h
  · exact OnlyBytes.ite (((h.putLine ..).unpoison _).lose _) (h.putLine ..)

theorem countMiss (h : OnlyBytes a s) (r : DReq) : OnlyBytes a (s.countMiss r) := OnlyBytes.ite (h.modHome ..) h

theorem dropDram (h : OnlyBytes a s) (f : DReq → Bool) : OnlyBytes a (s.dropDram f) := h.trans ⟨fun _ _ => rfl, rfl, rfl⟩

theorem settle (h : OnlyBytes a s) (f : DReq → Bool) : OnlyBytes a (s.settle f) :=
  OnlyBytes.ite h ((h.each fun r _ h => (h.countMiss r).applyPay r).dropDram _)

theorem slots_atFloor (f : Word32) (k : Core) : (Core.atFloor f k).slots = k.slots := by
  rw [Core.atFloor]

theorem broadcast (h : OnlyBytes a s) : OnlyBytes a s.broadcast := by
  unfold State.broadcast
  generalize List.range 256 = cs
  generalize List.range 64 = hs
  exact OnlyBytes.floor (OnlyBytes.each (h.each fun c _ h => h.modCore c (slots_atFloor _)) fun d _ h => h.modHome d _) _ fun _ => rfl

theorem floorFor (h : OnlyBytes a s) (w : State → Word32) : OnlyBytes a (s.floorFor w) := by
  unfold State.floorFor
  split
  · exact h.broadcast
  · exact h

theorem stamp (h : OnlyBytes a s) (pa : Nat) (w : Word32) : OnlyBytes a (s.stamp pa w) := h.modHome ..

theorem writeVa (h : OnlyBytes a s) (die pav va : Nat) (bs : List Byte) (lts : List Word32) :
    OnlyBytes a (s.writeVa die pav va bs lts) := by
  unfold State.writeVa
  split
  · dsimp only
    split
    · exact (((h.settle _).store ..).floorFor _).stamp ..
    · exact (h.settle _).store ..
  · exact h

theorem hostWrite (h : OnlyBytes a s) (pav va : Nat) (bs : List Byte) : OnlyBytes a (s.hostWrite pav va bs) :=
  h.each fun _ _ h => h.writeVa ..

end OnlyBytes

/-! ## Accesses of a pavilion whose counters differ -/

section
variable {q : SMap Pav} {s : State} {n : Nat} {p : Pav} {c : Counters}

theorem stamp_withPavs (pa : Nat) (w : Word32) (s : State) : (withPavs q s).stamp pa w = withPavs q (s.stamp pa w) := by
  have hbusy : busyLines (withPavs q s) = busyLines s := rfl
  unfold State.stamp
  rw [hbusy, modHome_withPavs]

/-- The write time of a line that the device writes. -/
def writeTime (pa : Nat) (lts : List Word32) (s : State) : Word32 := storeTime (s.home (homeOf pa)) s.dev.floor (lineOf pa) lts

theorem writeTime_withPavs (pa : Nat) (lts : List Word32) (s : State) : writeTime pa lts (withPavs q s) = writeTime pa lts s := rfl

theorem writeVa_counters (hp : s.pav? n = some p) (hq : mfind n q = some { p with ctr := c }) (die va : Nat) (bs : List Byte)
    (lts : List Word32) :
    (withPavs q s).writeVa die n va bs lts = withPavs q (s.writeVa die n va bs lts) := by
  unfold State.writeVa
  rw [xlateNow_counters hp hq]
  split
  · rename_i l pa hx
    dsimp only
    rw [settle_withPavs, store_withPavs]
    generalize State.store _ _ _ _ = s'
    have htime := fun y => writeTime_withPavs (q := q) pa lts y
    unfold writeTime at htime
    rw [floorFor_withPavs (htime s'), stamp_withPavs, htime]
    exact ite_withPavs rfl rfl
  · rfl

theorem hostWrite_counters (hp : s.pav? n = some p) (hq : mfind n q = some { p with ctr := c }) (va : Nat) (bs : List Byte) :
    (withPavs q s).hostWrite n va bs = withPavs q (s.hostWrite n va bs) := by
  unfold State.hostWrite
  generalize cuts va bs.length = cs
  induction cs generalizing s with
  | nil => rfl
  | cons k cs ih =>
    have hwrite := writeVa_counters hp hq (bridgeDie n) (va + k.1) (slice bs k.1 k.2) []
    have hpavs := ((OnlyBytes.refl s).writeVa (bridgeDie n) n (va + k.1) (slice bs k.1 k.2) []).pavs
    exact (congrArg (each cs _) hwrite).trans (ih ((congrArg (mfind n) hpavs).trans hp))

theorem readVa_counters (hp : s.pav? n = some p) (hq : mfind n q = some { p with ctr := c }) (die va len : Nat) :
    (withPavs q s).readVa die n va len = s.readVa die n va len := by
  unfold State.readVa
  simp only [xlateNow_counters hp hq, settle_withPavs]
  rfl

theorem rangePoison_counters (hp : s.pav? n = some p) (hq : mfind n q = some { p with ctr := c }) (va len : Nat) :
    rangePoison (withPavs q s) n va len = rangePoison s n va len := by
  unfold rangePoison vaPoison
  simp only [xlateNow_counters hp hq]
  rfl

theorem devWin_counters (hp : s.pav? n = some p) (hq : mfind n q = some { p with ctr := c }) (win off len right : Nat) (acc : AccKind) :
    devWin (withPavs q s) n win off len right acc = devWin s n win off len right acc := by
  have hq' : (withPavs q s).pav? n = some { p with ctr := c } := hq
  have hpages : ∀ va, pagesPass (withPavs q s) n va len acc = pagesPass s n va len acc := fun va => by
    unfold pagesPass
    simp only [xlateNow_counters hp hq]
  have hpage : ∀ va, windowPage (withPavs q s) n va = windowPage s n va := fun va => by
    unfold windowPage State.classAt
    rw [xlateNow_counters hp hq]
  unfold devWin
  rw [hp, hq']
  simp only [hpages, hpage, Option.bind_some]

/-- A device window that gives an address is one of a running pavilion, with the right and the range (R352). -/
theorem devWin_some {win off len right : Nat} {acc : AccKind} {va : Nat} (hp : s.pav? n = some p)
    (h : devWin s n win off len right acc = some va) :
    p.st = .running ∧ ∃ w, mfind win p.dwins = some w ∧ va = w.va.toNat + off ∧ off + len ≤ w.len.toNat ∧ w.rights.getLsbD right = true := by
  unfold devWin at h
  rw [hp] at h
  simp only [Option.bind_some] at h
  by_cases hrun : p.st = .running
  · rw [if_pos hrun] at h
    rcases hw : mfind win p.dwins with _ | w
    · rw [hw] at h
      exact nomatch h
    · rw [hw] at h
      dsimp only at h
      split at h
      · rename_i hok
        simp only [Bool.and_eq_true, decide_eq_true_eq] at hok
        obtain ⟨⟨⟨hright, hlen⟩, -⟩, -⟩ := hok
        exact ⟨hrun, w, rfl, (Option.some.inj h).symm, hlen, hright⟩
      · exact nomatch h
  · rw [if_neg hrun] at h
    exact nomatch h

end

end Sys2Proof.HostAccesses
end

section
/-!
PROOFS. Host RDMA, the retransmission of a slot's requests, and frames at the host port (spec/10 R247, R248, spec/16 R352, spec/07
R199).
-/

namespace Sys2Proof.HostFrames
open Sys2Proof Sys2Proof.Machine Sys2Proof.Laws Sys2Proof.Claim Sys2Proof.Endpoints Sys2Proof.HostAccesses

/-! ## What counting and sending leave -/

theorem modPav_but (s : State) (n : Nat) (f : Pav → Pav) : { s.modPav n f with pavs := s.pavs } = s := by
  unfold State.modPav
  split <;> rfl

theorem send_but (s : State) (n : Nat) (m : HostMsg) : { s.send n m with pavs := s.pavs, out := s.out } = s := by
  unfold State.send State.count State.modPav
  split
  · split <;> rfl
  · rfl

theorem send_out {s : State} {n : Nat} (h : bridgeUp s n = true) (m : HostMsg) : (s.send n m).out = s.out ++ [m] := by
  unfold State.send
  rw [h, if_pos rfl]

/-! ## Host RDMA (R352) -/

/-- A pavilion whose endpoint has received one frame more. -/
def received (s : State) (n : Nat) : State := s.count n (fun c => { c with rxf := c.rxf + 1 })

section
variable {s : State} {pav : PavId} {p : Pav} {win : BitVec 8} {off : Nat}

/-- The record of a pavilion that has received one frame more. -/
def gotOne (p : Pav) : Pav := { p with ctr := { p.ctr with rxf := p.ctr.rxf + 1 } }

theorem onlyPav_received {n : Nat} (hp : s.pav? n = some p) : OnlyPav s (received s n) n (gotOne p) := onlyPav_count hp _

theorem received_eq {n : Nat} (hp : s.pav? n = some p) : received s n = withPavs (mset n (gotOne p) s.pavs) s := modPav_eq hp _

theorem rdmaLost_stopped (h : s.stage ≠ .running) (n : Nat) : rdmaLost s n = some s := by
  unfold rdmaLost
  simp [h]

theorem rdmaLost_none {n : Nat} (hrun : s.stage = .running) (hb : bridgeUp s n = true) (hp : s.pav? n = some p) : rdmaLost s n = none := by
  unfold rdmaLost
  simp [hrun, hb, hp]

theorem rdmaLost_unknown {n : Nat} (hrun : s.stage = .running) (hb : bridgeUp s n = true) (hp : s.pav? n = none) :
    rdmaLost s n = some (s.count 128 (fun c => { c with dropOpt := c.dropOpt + 1 })) := by
  unfold rdmaLost
  simp [hrun, hb, hp]

theorem hostRdmaWrite_lost {data : List Byte} {s' : State} (h : rdmaLost s pav.val = some s') :
    exec (.hostRdmaWrite pav win off data) s = .next s' := by
  have hi : exec (.hostRdmaWrite pav win off data) s = execHostRdmaWrite pav win off data s := rfl
  rw [hi]
  unfold execHostRdmaWrite
  simp only [h]

theorem hostRdmaRead_lost {len : Nat} {s' : State} (h : rdmaLost s pav.val = some s') :
    exec (.hostRdmaRead pav win off len) s = .next s' := by
  have hi : exec (.hostRdmaRead pav win off len) s = execHostRdmaRead pav win off len s := rfl
  rw [hi]
  unfold execHostRdmaRead
  simp only [h]

/-- A pavilion's window gives the same addresses after its frame has been counted. -/
theorem devWin_received (hp : s.pav? pav.val = some p) (len right : Nat) (acc : AccKind) :
    devWin (received s pav.val) pav.val win.toNat off len right acc = devWin s pav.val win.toNat off len right acc := by
  rw [received_eq hp]
  exact devWin_counters hp (mfind_mset_same ..) ..

theorem nak_send (hp : s.pav? pav.val = some p) (hb : bridgeUp s pav.val = true) :
    Nak s ((received s pav.val).send pav.val (.rdmaAck pav.val false)) pav.val p := by
  obtain ⟨hout, honly⟩ := OnlyPav.send (onlyPav_received hp) hb (.rdmaAck pav.val false)
  exact ⟨hout, honly⟩

theorem hostRdmaWrite_nak {data : List Byte} (hlost : rdmaLost s pav.val = none) (hp : s.pav? pav.val = some p)
    (hwin : devWin s pav.val win.toNat off data.length 1 .write = none) :
    exec (.hostRdmaWrite pav win off data) s = .next ((received s pav.val).send pav.val (.rdmaAck pav.val false)) := by
  have hi : exec (.hostRdmaWrite pav win off data) s = execHostRdmaWrite pav win off data s := rfl
  have hwin' := (devWin_received hp ..).trans hwin
  unfold received at hwin'
  rw [hi]
  unfold execHostRdmaWrite
  simp only [hlost, hwin']
  rfl

theorem hostRdmaWrite_acked {data : List Byte} {va : Nat} (hlost : rdmaLost s pav.val = none) (hp : s.pav? pav.val = some p)
    (hwin : devWin s pav.val win.toNat off data.length 1 .write = some va) :
    exec (.hostRdmaWrite pav win off data) s
      = .next ((((received s pav.val).hostWrite pav.val va data).noteHost pav.val va data.length).send pav.val (.rdmaAck pav.val true)) := by
  have hi : exec (.hostRdmaWrite pav win off data) s = execHostRdmaWrite pav win off data s := rfl
  have hwin' := (devWin_received hp ..).trans hwin
  unfold received at hwin'
  rw [hi]
  unfold execHostRdmaWrite
  simp only [hlost, hwin']
  rfl

/-- The time of a host's write is noted in its pavilion's record alone. -/
theorem noteHost_but (s : State) (n va len : Nat) : { s.noteHost n va len with pavs := s.pavs } = s := modPav_but ..

theorem hostRdmaWrite_writes {data : List Byte} {va : Nat} (hlost : rdmaLost s pav.val = none) (hp : s.pav? pav.val = some p)
    (hb : bridgeUp s pav.val = true) (hwin : devWin s pav.val win.toNat off data.length 1 .write = some va) :
    ∃ s', exec (.hostRdmaWrite pav win off data) s = .next s' ∧ s'.out = s.out ++ [.rdmaAck pav.val true]
      ∧ s'.mem = (s.hostWrite pav.val va data).mem ∧ ∀ c l, s'.task? c l = s.task? c l := by
  have hwrite : (received s pav.val).hostWrite pav.val va data = withPavs (mset pav.val (gotOne p) s.pavs) (s.hostWrite pav.val va data) := by
    rw [received_eq hp]
    exact hostWrite_counters hp (mfind_mset_same ..) ..
  have hbytes : OnlyBytes s (s.hostWrite pav.val va data) := (OnlyBytes.refl s).hostWrite ..
  have hdone := hostRdmaWrite_acked hlost hp hwin
  rw [hwrite] at hdone
  generalize s.hostWrite pav.val va data = w at hdone hbytes ⊢
  generalize hx : withPavs (mset pav.val (gotOne p) s.pavs) w = x at hdone
  have hnote := noteHost_but x pav.val va data.length
  generalize x.noteHost pav.val va data.length = y at hdone hnote
  have hsend := send_but y pav.val (.rdmaAck pav.val true)
  have hup : bridgeUp y pav.val = true := by
    refine (congrArg (fun z : State => bridgeUp z pav.val) hnote :).trans ?_
    rw [← hx]
    exact (congrArg (fun b => b.contains (bridgeDie pav.val)) hbytes.bridges :).trans hb
  have hout : y.out = s.out := by
    refine (congrArg State.out hnote :).trans ?_
    rw [← hx]
    exact (congrArg State.out hbytes.rest :)
  refine ⟨_, hdone, ?_, ?_, fun c l => ?_⟩
  · rw [send_out hup, hout]
  · refine (congrArg State.mem hsend :).trans ((congrArg State.mem hnote :).trans ?_)
    rw [← hx]
    rfl
  · refine (congrArg (fun z : State => z.task? c l) hsend :).trans ((congrArg (fun z : State => z.task? c l) hnote :).trans ?_)
    rw [← hx]
    exact hbytes.tasks c l

/-- A read of a window that is refused. -/
theorem hostRdmaRead_nak {len : Nat} (hlost : rdmaLost s pav.val = none) (hp : s.pav? pav.val = some p)
    (hwin : devWin s pav.val win.toNat off len 0 .read = none ∨ ∃ va, devWin s pav.val win.toNat off len 0 .read = some va
      ∧ rangePoison s pav.val va len = true) :
    exec (.hostRdmaRead pav win off len) s = .next ((received s pav.val).send pav.val (.rdmaAck pav.val false)) := by
  have hi : exec (.hostRdmaRead pav win off len) s = execHostRdmaRead pav win off len s := rfl
  have hwin' : devWin (received s pav.val) pav.val win.toNat off len 0 .read = _ := devWin_received hp ..
  have hpois : ∀ va, rangePoison (received s pav.val) pav.val va len = rangePoison s pav.val va len := fun va => by
    rw [received_eq hp]
    exact rangePoison_counters hp (mfind_mset_same ..) ..
  unfold received at hwin' hpois
  rw [hi]
  unfold execHostRdmaRead
  rcases hwin with hnone | ⟨va, hsome, hbad⟩
  · simp only [hlost, hwin', hnone]
    rfl
  · simp only [hlost, hwin', hsome, hpois, hbad, if_true]
    rfl

theorem hostRdmaRead_reads {len va : Nat} {bs : List Byte} (hlost : rdmaLost s pav.val = none) (hp : s.pav? pav.val = some p)
    (hwin : devWin s pav.val win.toNat off len 0 .read = some va) (hpois : rangePoison s pav.val va len = false)
    (hread : s.readVa (bridgeDie pav.val) pav.val va len = some bs) :
    exec (.hostRdmaRead pav win off len) s = .next ((received s pav.val).send pav.val (.rdmaData pav.val bs)) := by
  have hi : exec (.hostRdmaRead pav win off len) s = execHostRdmaRead pav win off len s := rfl
  have hwin' := (devWin_received hp len 0 .read).trans hwin
  have hpois' : rangePoison (received s pav.val) pav.val va len = false := by
    rw [received_eq hp]
    exact (rangePoison_counters hp (mfind_mset_same ..) ..).trans hpois
  have hread' : (received s pav.val).readVa (bridgeDie pav.val) pav.val va len = some bs := by
    rw [received_eq hp]
    exact (readVa_counters hp (mfind_mset_same ..) ..).trans hread
  unfold received at hwin' hpois' hread'
  rw [hi]
  unfold execHostRdmaRead
  simp only [hlost, hwin', hpois', hread', Bool.false_eq_true, if_false]
  rfl

end

end Sys2Proof.HostFrames
end

section
/-!
PROOFS. Requests of copy slots to hosts, and frames at the host port (spec/07 R199, spec/10 R247, R248).
-/

namespace Sys2Proof.HostReplies
open Sys2Proof Sys2Proof.Machine Sys2Proof.Laws Sys2Proof.Claim Sys2Proof.Endpoints Sys2Proof.HostFrames

variable {s : State}

theorem slot_putSlot (s : State) (c j : Nat) (x : CopySlot) : (s.putSlot c j x).slot? c j = some x := by
  unfold State.slot?
  rw [CopyClaims.copies_putSlot, mfind_mset_same]

/-! ## Requests sent again (R199) -/

section
variable {core : CoreId} {i : Nat} {x : CopySlot}

theorem retransmit_other (hs : s.slot? core.val i = some x) (h : ¬ HostSlot x ∨ x.stage ≠ .sent) (lost : Bool) :
    exec (.rocev2Retransmit core i lost) s = .next s := by
  have hi : exec (.rocev2Retransmit core i lost) s = execRocev2Retransmit core i lost s := rfl
  rw [hi]
  unfold execRocev2Retransmit
  simp only [hs]
  refine if_pos ?_
  rcases h with h | h
  · split
    · rename_i hop
      exact absurd (.inl ⟨_, _, _, _, hop⟩) h
    · rename_i hop
      exact absurd (.inr ⟨_, _, _, _, hop⟩) h
    · rfl
  · rw [decide_eq_true h, Bool.or_true]

/-- A slot of a host with a request under way that is lost fails. -/
theorem retransmit_lost (hs : s.slot? core.val i = some x) (hx : HostSlot x) (hst : x.stage = .sent) :
    exec (.rocev2Retransmit core i true) s = .next (s.putSlot core.val i (x.fail fCopyFault 5 0)) := by
  have hi : exec (.rocev2Retransmit core i true) s = execRocev2Retransmit core i true s := rfl
  rw [hi]
  unfold execRocev2Retransmit
  rcases hx with ⟨d, o, l, w, hop⟩ | ⟨o, a, l, w, hop⟩
  · simp [hs, hst, hop]
  · simp [hs, hst, hop]

/-- Messages sent after a count leave the slots, and of the counters but TXF. -/
theorem sent_keeps {n : Nat} {p : Pav} (hp : s.pav? n = some p) (l : List HostMsg) (f : Counters → Counters) :
    (each l (fun m s => s.send n m) (s.count n f)).cores = s.cores
      ∧ ∃ p', (each l (fun m s => s.send n m) (s.count n f)).pav? n = some p' ∧ p'.ctr.retx = (f p.ctr).retx := by
  refine each_keeps (fun y : State => y.cores = s.cores ∧ ∃ p', y.pav? n = some p' ∧ p'.ctr.retx = (f p.ctr).retx) _ ?_ l _ ?_
  · rintro m y ⟨hcores, p', hp', hretx⟩
    refine ⟨(congrArg State.cores (send_but y n m) :).trans hcores, ?_⟩
    unfold State.send
    split
    · exact ⟨_, (onlyPav_count hp' _).1, hretx⟩
    · exact ⟨p', hp', hretx⟩
  · exact ⟨(congrArg State.cores (modPav_but s n _) :), _, (onlyPav_count hp f).1, rfl⟩

/-- A request sent again is counted; the slot stays (R268). -/
theorem retransmit_again {n : Nat} {p : Pav} (hp : s.pav? n = some p) (hs : s.slot? core.val i = some x) (hx : HostSlot x) (hst : x.stage = .sent)
    (hn : x.pav = n) :
    ∃ s', exec (.rocev2Retransmit core i false) s = .next s' ∧ s'.slot? core.val i = some x
      ∧ ∃ p', s'.pav? n = some p' ∧ p'.ctr.retx = p.ctr.retx + 1 := by
  subst hn
  have hkeeps := fun l => sent_keeps hp l fun k => { k with retx := k.retx + 1 }
  have hslot : ∀ {y : State}, y.cores = s.cores → y.slot? core.val i = some x :=
    fun h => (congrArg (fun m => mfind i (mget core.val Core.reset m).copies) h).trans hs
  have hi : exec (.rocev2Retransmit core i false) s = execRocev2Retransmit core i false s := rfl
  unfold execRocev2Retransmit at hi
  rcases hx with ⟨d, o, l, w, hop⟩ | ⟨o, a, l, w, hop⟩
  · simp only [hs, hop, hst] at hi
    exact ⟨_, hi, hslot (hkeeps _).1, (hkeeps _).2⟩
  · simp only [hs, hop, hst] at hi
    exact ⟨_, hi, hslot (hkeeps _).1, (hkeeps _).2⟩

end

/-! ## Frames (R247, R248) -/

section
variable {f : HostFrame} {pav : PavId} {p : Pav}

theorem echo_none (h : endpointOf s f = none) : exec (.neighbourEchoReply f) s = .next s := by
  have hi : exec (.neighbourEchoReply f) s = execNeighbourEchoReply f s := rfl
  rw [hi]
  unfold execNeighbourEchoReply
  rw [h]

theorem echo_some {n : Nat} (h : endpointOf s f = some n) :
    exec (.neighbourEchoReply f) s = .next (if s.stage = Stage.running then s.send n (.echo n f) else s) := by
  have hi : exec (.neighbourEchoReply f) s = execNeighbourEchoReply f s := rfl
  rw [hi]
  unfold execNeighbourEchoReply
  rw [h]

theorem frame_dead (h : portAlive s = false) : exec (.hostFrameReceive f) s = .next s := by
  have hi : exec (.hostFrameReceive f) s = execHostFrameReceive f s := rfl
  rw [hi]
  unfold execHostFrameReceive
  simp [h]

theorem frame_unmatched (ha : portAlive s = true) (h : endpointOf s f = none) :
    exec (.hostFrameReceive f) s = .next (s.count 128 (fun c => { c with dropOpt := c.dropOpt + 1 })) := by
  have hi : exec (.hostFrameReceive f) s = execHostFrameReceive f s := rfl
  rw [hi]
  unfold execHostFrameReceive
  simp [ha, h]

theorem frame_unsupported {n : Nat} (ha : portAlive s = true) (h : endpointOf s f = some n) (hb : bridgeUp s n = true)
    (hf : f.supported = false) :
    exec (.hostFrameReceive f) s = .next ((received s n).count n (fun c => { c with dropOpt := c.dropOpt + 1 })) := by
  have hi : exec (.hostFrameReceive f) s = execHostFrameReceive f s := rfl
  rw [hi]
  unfold execHostFrameReceive
  simp [ha, h, hb, hf, received]

theorem frame_cnp {n : Nat} (ha : portAlive s = true) (h : endpointOf s f = some n) (hb : bridgeUp s n = true)
    (hf : f.supported = true) (hbody : f.body = .cnp) :
    exec (.hostFrameReceive f) s = .next ((received s n).count n (fun c => { c with cnp := c.cnp + 1 })) := by
  have hi : exec (.hostFrameReceive f) s = execHostFrameReceive f s := rfl
  rw [hi]
  unfold execHostFrameReceive
  simp [ha, h, hb, hf, hbody, received]

theorem frame_reply {n j id : Nat} {core : CoreId} {ok : Bool} {data : List Byte} {x : CopySlot} (ha : portAlive s = true)
    (h : endpointOf s f = some n) (hb : bridgeUp s n = true) (hf : f.supported = true) (hbody : f.body = .rdmaReply core id ok data)
    (hs : s.slotId? core.val id = some (j, x)) (hx : HostSlot x) (hn : x.pav = n) (hst : x.stage = .sent) :
    exec (.hostFrameReceive f) s
      = .next ((received s n).putSlot core.val j { x with stage := .back (if ok then 0 else fCopyFault) data }) := by
  have hi : exec (.hostFrameReceive f) s = execHostFrameReceive f s := rfl
  have hs' : (received s n).slotId? core.val id = some (j, x) :=
    (congrArg (fun y : State => y.slotId? core.val id) (modPav_but s n _) :).trans hs
  unfold received at hs' ⊢
  rw [hi]
  unfold execHostFrameReceive
  rcases hx with ⟨d, o, l, w, hop⟩ | ⟨o, a, l, w, hop⟩
  · simp only [ha, h, hb, hf, hbody, hs', hop, hn, hst, Bool.not_true, Bool.false_eq_true, if_false, decide_true, Bool.and_self, if_true]
  · simp only [ha, h, hb, hf, hbody, hs', hop, hn, hst, Bool.not_true, Bool.false_eq_true, if_false, decide_true, Bool.and_self, if_true]

theorem frame_act {m : List Byte} (ha : portAlive s = true) (h : endpointOf s f = some pav.val) (hb : bridgeUp s pav.val = true)
    (hp : s.pav? pav.val = some p) (hf : f.supported = true) (hbody : f.body = .act m) (hport : actPort p = f.port) :
    exec (.hostFrameReceive f) s = exec (.actMessageReceive pav m) (received s pav.val) := by
  have hi : exec (.hostFrameReceive f) s = execHostFrameReceive f s := rfl
  have hto : (⟨pav.val % 129, Nat.mod_lt _ (by decide)⟩ : PavId) = pav := Fin.ext (Nat.mod_eq_of_lt pav.isLt)
  have hp' : (received s pav.val).pav? pav.val = some (gotOne p) := (onlyPav_received hp).1
  have hport' : actPort (gotOne p) = f.port := hport
  unfold received at hp' ⊢
  rw [hi]
  unfold execHostFrameReceive
  simp only [ha, h, hb, hf, hbody, hp', hport', hto, Option.any_some, decide_true, Bool.not_true, Bool.false_eq_true, if_false, if_true]
  rfl

end

end Sys2Proof.HostReplies
end

section
/-!
PROOFS. ACT messages (spec/10 R250 to R252, spec/19 R389): the checks of a message in their order, and a command whose turn it is.
-/

namespace Sys2Proof.ActChecks
open Sys2Proof Sys2Proof.Machine Sys2Proof.Laws Sys2Proof.Claim Sys2Proof.Endpoints Sys2Proof.HostFrames

variable {s : State} {pav : PavId} {p : Pav} {m : List Byte}

/-! ## A violation (R389) -/

theorem beginSave_but_cores (s : State) (c l why : Nat) : { s.beginSave c l why with cores := s.cores } = s := by
  unfold State.beginSave State.stopStreams State.modTask
  split <;> rfl

/-- A violation is counted, and the pavilion runs no longer. -/
theorem violation_counts {n : Nat} (hp : s.pav? n = some p) :
    ∃ p', (s.violation n).pav? n = some p' ∧ p'.viol = satInc p.viol ∧ p'.st ≠ .running ∧ (s.violation n).mem = s.mem
      ∧ (s.violation n).out = s.out := by
  obtain ⟨hp1, -, hrest⟩ := onlyPav_modPav hp fun p => { p with viol := satInc p.viol }
  generalize hs1 : s.modPav n (fun p => { p with viol := satInc p.viol }) = s1 at hp1 hrest
  have hmem : s1.mem = s.mem := (congrArg State.mem hrest :)
  have hout : s1.out = s.out := (congrArg State.out hrest :)
  unfold State.violation State.beginFreeze
  rw [hs1, hp1]
  dsimp only
  split
  · rename_i hst
    exact ⟨_, hp1, rfl, hst, hmem, hout⟩
  · obtain ⟨hp2, -, hrest2⟩ := onlyPav_modPav hp1 fun p => { p with st := .freezing }
    have hkeep : ∀ l : List (Nat × Nat × Task), ∀ s2 : State,
        { each l (fun t s => s.beginSave t.1 t.2.1 2) s2 with cores := s2.cores } = s2 := fun l s2 =>
      each_keeps (fun y : State => { y with cores := s2.cores } = s2) (fun (t : Nat × Nat × Task) s => s.beginSave t.1 t.2.1 2)
        (fun t y hy => (congrArg (fun z : State => { z with cores := s2.cores }) (beginSave_but_cores y t.1 t.2.1 2) :).trans hy) l s2 rfl
    generalize hs2 : s1.modPav n (fun p => { p with st := .freezing }) = s2 at hp2 hrest2
    have hend := hkeep (s2.tasks.filter (fun t => t.2.2.pav = n)) s2
    refine ⟨_, (congrArg (fun y : State => y.pav? n) hend :).trans hp2, rfl, nofun, ?_, ?_⟩
    · exact (congrArg State.mem hend :).trans ((congrArg State.mem hrest2 :).trans hmem)
    · exact (congrArg State.out hend :).trans ((congrArg State.out hrest2 :).trans hout)

/-! ## The checks in their order (R250) -/

theorem authentic_iff (n : Nat) : Authentic p n m ↔ (decide (m.length < 24) || decide (8216 < m.length) || decide (field m 4 1 ≠ n)
    || decide (field m 0 1 ≠ 1) || !tagOk p.net.cmdkey m) = false := by
  unfold Authentic
  simp only [Bool.or_eq_false_iff, decide_eq_false_iff_not, Bool.not_eq_false', Nat.not_lt, ne_eq, not_not]
  tauto

theorem formed_iff : Formed m ↔ (decide (4 ≤ field m 2 2) || decide (field m 5 1 ≠ 0) || decide (field m 13 3 ≠ 0)
    || decide (field m 6 2 ≠ (m.drop 24).length)) = false := by
  unfold Formed
  simp only [Bool.or_eq_false_iff, decide_eq_false_iff_not, Nat.not_le, ne_eq, not_not, List.length_drop]
  tauto

/-- What becomes of a message that is authentic, formed, and no acknowledgement. -/
def asCommand (s : State) (pav : PavId) (p : Pav) (m : List Byte) : Out :=
  let n := pav.val
  let d := (BitVec.ofNat 32 (field m 8 4) - p.nseq).toNat
  if !(decide (d < 64) || decide (2 ^ 32 - 64 ≤ d)) || (decide (0x80 ≤ field m 1 1) && decide (field m 1 1 ≤ 0x8F) && decide (n ≠ 128))
      || checkPayload (field m 1 1) (m.drop 24) = Check.violation then .next (s.violation n)
  else if field m 2 2 ≠ 0 && checkPayload (field m 1 1) (m.drop 24) ≠ Check.unknown then
    .next (s.count n (fun c => { c with dropAct := c.dropAct + 1 }))
  else if s.stage = Stage.noDram && field m 1 1 ≠ 0x05 then .next s
  else .next (s.inOrder pav p m)

section
variable (hp : s.pav? pav.val = some p) (hb : bridgeUp s pav.val = true)
include hp hb

theorem act_forged (h : ¬ Authentic p pav.val m) :
    exec (.actMessageReceive pav m) s = .next (s.count pav.val (fun c => { c with dropAct := c.dropAct + 1 })) := by
  have hi : exec (.actMessageReceive pav m) s = execActMessageReceive pav m s := rfl
  rw [authentic_iff, Bool.not_eq_false] at h
  rw [hi]
  unfold execActMessageReceive
  simp only [hb, hp, Bool.not_true, Bool.false_eq_true, if_false]
  exact if_pos h

theorem act_malformed (ha : Authentic p pav.val m) (h : ¬ Formed m) : exec (.actMessageReceive pav m) s = .next (s.violation pav.val) := by
  have hi : exec (.actMessageReceive pav m) s = execActMessageReceive pav m s := rfl
  rw [authentic_iff] at ha
  rw [formed_iff, Bool.not_eq_false] at h
  rw [hi]
  unfold execActMessageReceive
  simp only [hb, hp, Bool.not_true, Bool.false_eq_true, if_false]
  exact (if_neg (ne_true_of_eq_false ha)).trans (if_pos h)

theorem act_ack (ha : Authentic p pav.val m) (hf : Formed m) (h3 : field m 2 2 = 3) (hop : field m 1 1 = 0x40) (hbody : m.drop 24 = []) :
    exec (.actMessageReceive pav m) s = exec (.notifyAck pav (BitVec.ofNat 32 (field m 8 4))) s := by
  have hi : exec (.actMessageReceive pav m) s = execActMessageReceive pav m s := rfl
  rw [authentic_iff] at ha
  rw [formed_iff] at hf
  rw [hi]
  unfold execActMessageReceive
  simp only [hb, hp, Bool.not_true, Bool.false_eq_true, if_false]
  refine (if_neg (ne_true_of_eq_false ha)).trans ((if_neg (ne_true_of_eq_false hf)).trans (if_pos ?_))
  simp [h3, hop, hbody]

theorem act_command (ha : Authentic p pav.val m) (hf : Formed m) (h : ¬ (field m 2 2 = 3 ∧ field m 1 1 = 0x40 ∧ m.drop 24 = [])) :
    exec (.actMessageReceive pav m) s = asCommand s pav p m := by
  have hi : exec (.actMessageReceive pav m) s = execActMessageReceive pav m s := rfl
  rw [authentic_iff] at ha
  rw [formed_iff] at hf
  rw [hi]
  unfold execActMessageReceive asCommand
  simp only [hb, hp, Bool.not_true, Bool.false_eq_true, if_false]
  refine (if_neg (ne_true_of_eq_false ha)).trans ((if_neg (ne_true_of_eq_false hf)).trans (if_neg ?_))
  intro hack
  simp only [Bool.and_eq_true, decide_eq_true_eq, List.isEmpty_iff] at hack
  obtain ⟨⟨h3, hop⟩, hbody⟩ := hack
  exact h ⟨h3, hop, hbody⟩

end

/-- A command that passes the checks of its window, its OP and its payload. -/
structure Valid (pav : PavId) (p : Pav) (m : List Byte) : Prop where
  window : (BitVec.ofNat 32 (field m 8 4) - p.nseq).toNat < 64 ∨ 2 ^ 32 - 64 ≤ (BitVec.ofNat 32 (field m 8 4) - p.nseq).toNat
  owner : ¬ (0x80 ≤ field m 1 1 ∧ field m 1 1 ≤ 0x8F ∧ pav.val ≠ 128)
  payload : checkPayload (field m 1 1) (m.drop 24) ≠ .violation

theorem asCommand_violates (h : ¬ Valid pav p m) : asCommand s pav p m = .next (s.violation pav.val) := by
  refine if_pos ?_
  by_contra hno
  simp only [Bool.or_eq_true, Bool.and_eq_true, Bool.not_eq_true', Bool.or_eq_false_iff, decide_eq_true_eq, decide_eq_false_iff_not,
    not_or, not_and] at hno
  obtain ⟨⟨hwindow, howner⟩, hpayload⟩ := hno
  exact h ⟨by tauto, fun ⟨h1, h2, h3⟩ => howner ⟨h1, h2⟩ h3, hpayload⟩

theorem valid_passes (h : Valid pav p m) : (!(decide ((BitVec.ofNat 32 (field m 8 4) - p.nseq).toNat < 64)
    || decide (2 ^ 32 - 64 ≤ (BitVec.ofNat 32 (field m 8 4) - p.nseq).toNat))
    || (decide (0x80 ≤ field m 1 1) && decide (field m 1 1 ≤ 0x8F) && decide (pav.val ≠ 128))
    || decide (checkPayload (field m 1 1) (m.drop 24) = Check.violation)) ≠ true := by
  obtain ⟨hwindow, howner, hpayload⟩ := h
  simp only [ne_eq, Bool.or_eq_true, Bool.and_eq_true, Bool.not_eq_true', Bool.or_eq_false_iff, decide_eq_true_eq, decide_eq_false_iff_not,
    not_or, not_and]
  tauto

theorem asCommand_marked (h : Valid pav p m) (hflags : field m 2 2 ≠ 0) (hknown : checkPayload (field m 1 1) (m.drop 24) ≠ .unknown) :
    asCommand s pav p m = .next (s.count pav.val (fun c => { c with dropAct := c.dropAct + 1 })) :=
  (if_neg (valid_passes h)).trans (if_pos (by simp [hflags, hknown]))

theorem asCommand_inOrder (h : Valid pav p m) (hflags : field m 2 2 = 0 ∨ ¬ checkPayload (field m 1 1) (m.drop 24) ≠ .unknown)
    (hstage : s.stage ≠ .noDram) : asCommand s pav p m = .next (s.inOrder pav p m) := by
  refine (if_neg (valid_passes h)).trans ((if_neg ?_).trans (if_neg (by simp [hstage])))
  rcases hflags with hflags | hknown
  · simp [hflags]
  · simp [not_not.1 hknown]

/-! ## The order of SEQ (R251) -/

theorem drain_stops {k : Nat} (hp : s.pav? pav.val = some p) (h : mfind p.nseq.toNat p.heldCmds = none) : State.drain k pav s = s := by
  cases k with
  | zero => rfl
  | succ k =>
    unfold State.drain
    simp only [hp, h]
    rcases p.pendingReply with _ | ⟨x, xs⟩
    · rfl
    · rfl

theorem drain_next {k : Nat} (hp : s.pav? pav.val = some p) (hidle : p.pendingReply = []) (h : mfind p.nseq.toNat p.heldCmds = some m) :
    State.drain (k + 1) pav s
      = State.drain k pav ((s.modPav pav.val (fun p => { p with heldCmds := mdel p.nseq.toNat p.heldCmds })).runMessage pav m) := by
  rw [State.drain]
  simp only [hp, hidle, h]

/-- A command that is not yet due is kept. -/
theorem inOrder_keeps (hp : s.pav? pav.val = some p) (h0 : (BitVec.ofNat 32 (field m 8 4) - p.nseq).toNat ≠ 0)
    (h64 : (BitVec.ofNat 32 (field m 8 4) - p.nseq).toNat < 64) (hnone : mfind p.nseq.toNat p.heldCmds = none) :
    s.inOrder pav p m
      = s.modPav pav.val (fun p => { p with heldCmds := mset (BitVec.ofNat 32 (field m 8 4)).toNat m p.heldCmds }) := by
  have hne : p.nseq.toNat ≠ (BitVec.ofNat 32 (field m 8 4)).toNat := fun h => h0 (by rw [BitVec.eq_of_toNat_eq h, BitVec.sub_self]; rfl)
  unfold State.inOrder
  rw [if_pos h64]
  exact drain_stops (onlyPav_modPav hp _).1 ((mfind_mset_other hne ..).trans hnone)

/-- A command that has been answered gets its stored response. -/
theorem inOrder_answered {r : List Byte} (hold : 2 ^ 32 - 64 ≤ (BitVec.ofNat 32 (field m 8 4) - p.nseq).toNat)
    (hr : mfind (BitVec.ofNat 32 (field m 8 4)).toNat p.replies = some r) : s.inOrder pav p m = s.send pav.val (.act pav.val r) := by
  unfold State.inOrder
  rw [if_neg (by omega)]
  simp only [hr]

/-! ## A command executed (R252) -/

/-- The state in which a command's turn has come: N has gone past it. -/
def turned (s : State) (pav : PavId) : State := s.modPav pav.val (fun p => { p with nseq := p.nseq + 1 })

theorem run_unknown (h : checkPayload (field m 1 1) (m.drop 24) = .unknown) :
    s.runMessage pav m = (turned s pav).respond pav (BitVec.ofNat 32 (field m 8 4)) (field m 1 1) 0xA1 [] := by
  unfold State.runMessage
  exact if_pos h

theorem run_frozen (hp : s.pav? pav.val = some p) (hst : p.st = .frozen ∨ p.st = .resetting)
    (hknown : checkPayload (field m 1 1) (m.drop 24) ≠ .unknown) (h5 : field m 1 1 ≠ 0x05) (h8 : field m 1 1 ≠ 0x08)
    (hmgmt : ¬ (pav.val = 128 ∧ 0x80 ≤ field m 1 1 ∧ field m 1 1 ≤ 0x8F)) :
    s.runMessage pav m = (turned s pav).respond pav (BitVec.ofNat 32 (field m 8 4)) (field m 1 1) 0xA5 [] := by
  have hp1 : (turned s pav).pav? pav.val = some { p with nseq := p.nseq + 1 } := (onlyPav_modPav hp _).1
  have hpav : pav = mgmt ↔ pav.val = 128 := Fin.ext_iff
  unfold turned at hp1
  unfold State.runMessage
  refine (if_neg hknown).trans (if_pos ?_)
  rw [hp1]
  simp only [Option.any_some, Bool.and_eq_true, Bool.or_eq_true, decide_eq_true_eq, Bool.not_eq_true', Bool.and_eq_false_iff,
    decide_eq_false_iff_not, hpav]
  tauto

theorem not_frozen (hp : s.pav? pav.val = some p) (hst : ¬ (p.st = .frozen ∨ p.st = .resetting)) :
    ((turned s pav).pav? pav.val).any (fun p => p.st = PState.frozen || p.st = PState.resetting) = false := by
  have hp1 : (turned s pav).pav? pav.val = some { p with nseq := p.nseq + 1 } := (onlyPav_modPav hp _).1
  rw [hp1, Option.any_some]
  simpa using hst

theorem run_refused {off : Nat} (hp : s.pav? pav.val = some p) (hst : p.st = .running ∨ p.st = .freezing)
    (h : checkPayload (field m 1 1) (m.drop 24) = .refuse off) :
    s.runMessage pav m
      = (turned s pav).respond pav (BitVec.ofNat 32 (field m 8 4)) (field m 1 1) 4 (bytesOf 8 (4 + off % 256 * 2 ^ 8)) := by
  have hno : ¬ (p.st = .frozen ∨ p.st = .resetting) := by rcases hst with hst | hst <;> simp [hst]
  have hfrozen := not_frozen hp hno
  unfold turned at hfrozen
  unfold State.runMessage
  refine (if_neg (by rw [h]; exact nofun)).trans ((if_neg ?_).trans ?_)
  · simp only [hfrozen, Bool.false_and, Bool.false_eq_true, not_false_eq_true]
  · rw [h]
    rfl

theorem run_counters (hp : s.pav? pav.val = some p) (hstage : s.stage ≠ .noDram) (hop : field m 1 1 = 0x05)
    (h : checkPayload (field m 1 1) (m.drop 24) = .ok) (h2 : field (m.drop 24) 0 1 = 2) (h0 : field (m.drop 24) 8 8 = 0) :
    s.runMessage pav m
      = (turned s pav).respond pav (BitVec.ofNat 32 (field m 8 4)) (field m 1 1) 0 (counterBytes pav.val p.ctr) := by
  have hp1 : (turned s pav).pav? pav.val = some { p with nseq := p.nseq + 1 } := (onlyPav_modPav hp _).1
  have hst : (turned s pav).stage ≠ .noDram := (modPav_stage ..).trans_ne hstage
  have hrun : runCommand pav (BitVec.ofNat 32 (field m 8 4)) 0x05 (m.drop 24) (turned s pav)
      = .next ((turned s pav).respond pav (BitVec.ofNat 32 (field m 8 4)) 0x05 0 (counterBytes pav.val p.ctr)) := by
    unfold runCommand
    simp only [h2, h0]
    refine (if_neg (by decide)).trans ((if_neg (by decide)).trans ?_)
    unfold execStatusCounters onCommand
    simp [hp1, bringupOr, hst, stDone]
  unfold turned at hrun
  unfold State.runMessage
  refine (if_neg (by rw [h]; exact nofun)).trans ((if_neg ?_).trans ?_)
  · simp [hop]
  · rw [h, hop]
    simp only [hrun]
    rfl

/-! ## A command that is due (R251) -/

/-- A response is sent and stored; SEQ and the commands that wait stay. -/
theorem respond_sent {s' : State} {q : Pav} (h : OnlyPav s s' pav.val q) (hb : bridgeUp s pav.val = true) (seq : Word32) (op stat : Nat)
    (b : List Byte) :
    ∃ q', Sent s (s'.respond pav seq op stat b) pav.val (.act pav.val (actMessage q.net.cmdkey op 1 pav.val seq stat b)) q'
      ∧ q'.nseq = q.nseq ∧ q'.heldCmds = q.heldCmds := by
  unfold State.respond
  rw [h.1]
  exact ⟨_, OnlyPav.send (OnlyPav.modPav h _) hb _, rfl, rfl⟩

section
variable (hp : s.pav? pav.val = some p) (hd : (BitVec.ofNat 32 (field m 8 4) - p.nseq).toNat = 0) (hheld : p.heldCmds = [])
  (hidle : p.pendingReply = [])
include hp hd hheld hidle

/-- A command that is due runs where nothing of its pavilion's record has changed. -/
theorem inOrder_due : ∃ s2, OnlyPav s s2 pav.val p ∧ s.inOrder pav p m = State.drain 63 pav (s2.runMessage pav m) := by
  have hseq : BitVec.ofNat 32 (field m 8 4) = p.nseq := sub_eq_zero.1 (BitVec.eq_of_toNat_eq hd)
  have h1 := onlyPav_modPav hp fun p => { p with heldCmds := mset (BitVec.ofNat 32 (field m 8 4)).toNat m p.heldCmds }
  have h2 := OnlyPav.modPav h1 fun p => { p with heldCmds := mdel p.nseq.toNat p.heldCmds }
  have hback : ({ p with heldCmds := mdel p.nseq.toNat (mset (BitVec.ofNat 32 (field m 8 4)).toNat m p.heldCmds) } : Pav) = p := by
    have hnil : mdel p.nseq.toNat (mset (BitVec.ofNat 32 (field m 8 4)).toNat m p.heldCmds) = p.heldCmds := by
      rw [hseq, hheld]
      exact if_pos rfl
    rw [hnil]
  refine ⟨_, hback ▸ h2, ?_⟩
  unfold State.inOrder
  rw [if_pos (by omega)]
  exact drain_next h1.1 hidle (by rw [hseq]; exact mfind_mset_same ..)

/-- A due command that is answered is answered once, and N goes past it. -/
theorem due_answered (hb : bridgeUp s pav.val = true) {op stat : Nat} {b : List Byte}
    (hrun : ∀ s2, OnlyPav s s2 pav.val p → s2.runMessage pav m
      = (turned s2 pav).respond pav (BitVec.ofNat 32 (field m 8 4)) op stat b) :
    ∃ s' p', s.inOrder pav p m = s' ∧ Ans s s' pav (BitVec.ofNat 32 (field m 8 4)) op stat b ∧ s'.pav? pav.val = some p'
      ∧ p'.nseq = p.nseq + 1 ∧ s'.mem = s.mem := by
  obtain ⟨s2, honly, hdue⟩ := inOrder_due hp hd hheld hidle
  rw [hrun s2 honly] at hdue
  have hturn : OnlyPav s (turned s2 pav) pav.val { p with nseq := p.nseq + 1 } := OnlyPav.modPav honly _
  obtain ⟨q, ⟨hout, hq⟩, hnseq, hcmds⟩ := respond_sent hturn hb (BitVec.ofNat 32 (field m 8 4)) op stat b
  have hcmds' : q.heldCmds = [] := hcmds.trans hheld
  refine ⟨_, q, hdue.trans (drain_stops hq.1 (by rw [hcmds']; rfl)), ⟨p, hp, hout⟩, hq.1, hnseq, ?_⟩
  exact (congrArg State.mem hq.2.2 :)

end

end Sys2Proof.ActChecks
end

section
/-!
PROOFS. The traffic of a pavilion's host: the obligation, assembled from its parts.
-/

namespace Sys2Proof.HostTraffic
open Sys2Proof Sys2Proof.Machine Sys2Proof.Laws Sys2Proof.Claim Sys2Proof.Stored Sys2Proof.Endpoints Sys2Proof.HostAccesses
  Sys2Proof.HostFrames Sys2Proof.HostReplies Sys2Proof.ActChecks

variable {s : State} {pav : PavId} {p : Pav} {m : List Byte}

theorem act_lost (hb : bridgeUp s pav.val = false) : exec (.actMessageReceive pav m) s = .next s := by
  have hi : exec (.actMessageReceive pav m) s = execActMessageReceive pav m s := rfl
  rw [hi]
  unfold execActMessageReceive
  simp [hb]

theorem echo_stopped {f : HostFrame} (h : s.stage ≠ .running) : exec (.neighbourEchoReply f) s = .next s := by
  rcases he : endpointOf s f with _ | n
  · exact echo_none he
  · rw [echo_some he, if_neg h]

theorem not_running_of_dead (h : portAlive s = false) : s.stage ≠ .running := by
  intro hrun
  unfold portAlive at h
  simp [hrun] at h

/-- A message that violates is counted so, and the pavilion is frozen (R389). -/
theorem act_violates (hp : s.pav? pav.val = some p) (h : exec (.actMessageReceive pav m) s = .next (s.violation pav.val)) :
    ∃ s' p', exec (.actMessageReceive pav m) s = .next s' ∧ s'.pav? pav.val = some p' ∧ p'.viol = satInc p.viol ∧ p'.st ≠ .running
      ∧ s'.mem = s.mem ∧ s'.out = s.out := by
  obtain ⟨p', hp', hviol, hst, hmem, hout⟩ := violation_counts hp
  exact ⟨_, p', h, hp', hviol, hst, hmem, hout⟩

/-- A message that is dropped is counted in DROPACT (R268). -/
theorem act_dropped (hp : s.pav? pav.val = some p)
    (h : exec (.actMessageReceive pav m) s = .next (s.count pav.val (fun c => { c with dropAct := c.dropAct + 1 }))) :
    ∃ s', exec (.actMessageReceive pav m) s = .next s'
      ∧ OnlyPav s s' pav.val { p with ctr := { p.ctr with dropAct := p.ctr.dropAct + 1 } } :=
  ⟨_, h, onlyPav_count hp _⟩

/-- Settles O52: each piece of traffic is read off its own rule; of an ACT message, which check it meets first. -/
theorem hostTrafficIsCheckedAndCounted : Obligations.HostTrafficIsCheckedAndCounted := by
  unfold Obligations.HostTrafficIsCheckedAndCounted
  intro s pav p hp n
  refine ⟨fun hb => ⟨fun m => act_lost hb, send_lost hb⟩, fun hb => ?_⟩
  refine ⟨fun q nq hq => ⟨fun hst hdue hrate => ?_, notificationSend_waits hp hq⟩, fun seq m hm => ?_,
    fun seq hm => ⟨_, notifyAck_unknown hp hm, onlyPav_count hp _⟩, fun win off len right acc va h => devWin_some hp h,
    fun win off data => ?_, fun win off len => ?_, fun k hk hrun hbk hn win off len data i hi => ?_,
    fun core i x hx => ?_, fun f => ?_, fun m => ?_⟩
  · obtain ⟨hout, honly⟩ := OnlyPav.send (onlyPav_modPav hp fun p => notified p q nq _ s.cyc) hb (.notice n nq.ip nq.port _)
    exact ⟨_, _, _, notificationSend_sends hp hq hst hdue hrate rfl, rfl, hout, honly, rfl, mfind_mset_same .., mfind_mset_same ..⟩
  · refine ⟨retransmit_waits hp hm, fun hst hlate h8 => ?_, fun hst hlate h8 => ?_, ?_⟩
    · obtain ⟨hout, honly⟩ := OnlyPav.send (onlyPav_modPav hp fun p => { p with
        unacked := mset seq.toNat { m with last := s.cyc, resent := m.resent + 1 } p.unacked }) hb (.notice n m.ip m.port m.bytes)
      exact ⟨_, _, retransmit_again hp hm hst hlate h8, hout, honly, mfind_mset_same ..⟩
    · exact ⟨_, _, retransmit_discards hp hm hst hlate h8, onlyPav_modPav hp _, mfind_mdel_same .., rfl⟩
    · exact ⟨_, _, notifyAck_done hp hm, onlyPav_modPav hp _, mfind_mdel_same .., fun j hj => mfind_mdel_other hj _⟩
  · exact ⟨fun h => hostRdmaWrite_lost (rdmaLost_stopped h _),
      fun hrun hw => ⟨_, hostRdmaWrite_nak (rdmaLost_none hrun hb hp) hp hw, nak_send hp hb⟩,
      fun va hrun hw => hostRdmaWrite_writes (rdmaLost_none hrun hb hp) hp hb hw⟩
  · refine ⟨fun h => hostRdmaRead_lost (rdmaLost_stopped h _),
      fun hrun hw => ⟨_, hostRdmaRead_nak (rdmaLost_none hrun hb hp) hp (.inl hw), nak_send hp hb⟩, fun va hrun hw =>
      ⟨fun hbad => ⟨_, hostRdmaRead_nak (rdmaLost_none hrun hb hp) hp (.inr ⟨va, hw, hbad⟩), nak_send hp hb⟩, fun bs hgood hread => ?_⟩⟩
    obtain ⟨hout, honly⟩ := OnlyPav.send (onlyPav_received hp) hb (.rdmaData n bs)
    exact ⟨_, hostRdmaRead_reads (rdmaLost_none hrun hb hp) hp hw hgood hread, hout, honly⟩
  · have hlost := rdmaLost_unknown hrun hbk hk
    have hcount := onlyPav_count hp fun c => { c with dropOpt := c.dropOpt + 1 }
    rw [← hn] at hlost
    simp only [List.mem_cons, List.not_mem_nil, or_false] at hi
    rcases hi with rfl | rfl
    · exact ⟨_, hostRdmaWrite_lost hlost, hcount⟩
    · exact ⟨_, hostRdmaRead_lost hlost, hcount⟩
  · exact ⟨retransmit_other hx, fun hhost hst => ⟨⟨_, retransmit_lost hx hhost hst, slot_putSlot .., rfl⟩,
      fun hn => retransmit_again hp hx hhost hst hn⟩⟩
  · intro ctr
    have hctr : ∀ {s' : State} {c : Counters}, OnlyPav s s' n { p with ctr := c } → ctr c s' := fun h => ⟨h.1, h.2.2⟩
    refine ⟨fun h => ⟨frame_dead h, echo_stopped (not_running_of_dead h)⟩, fun ha h => ⟨echo_none h, fun hn => ?_⟩, fun ha h => ?_⟩
    · have hframe := frame_unmatched ha h
      rw [← hn] at hframe
      exact ⟨_, hframe, hctr (onlyPav_count hp _)⟩
    · refine ⟨fun hrun => ⟨_, (echo_some h).trans (by rw [if_pos hrun]), send_out hb _⟩, fun hst => echo_stopped (by rw [hst]; exact nofun),
        fun hf => ⟨_, frame_unsupported ha h hb hf, hctr (OnlyPav.count (onlyPav_received hp) _)⟩,
        fun hf hbody => ⟨_, frame_cnp ha h hb hf hbody, hctr (OnlyPav.count (onlyPav_received hp) _)⟩,
        fun core id ok data j x hf hbody hs hx hn hst => ⟨_, frame_reply ha h hb hf hbody hs hx hn hst, slot_putSlot ..⟩,
        fun m hf hbody hport => frame_act ha h hb hp hf hbody hport⟩
  · intro op seq body d runs violates flags known command dropped valid allowed
    have hcommand : command → runs = asCommand s pav p m := fun ⟨ha, hf, hack⟩ => act_command hp hb ha hf hack
    have hvalid : valid → Valid pav p m := fun ⟨hwindow, howner, hpayload⟩ => ⟨hwindow, howner, hpayload⟩
    have hviolates : command → ¬ Valid pav p m → violates := fun hc h => act_violates hp ((hcommand hc).trans (asCommand_violates h))
    have hinOrder : command → allowed → runs = .next (s.inOrder pav p m) := fun hc ⟨hv, hflags, hstage⟩ =>
      (hcommand hc).trans (asCommand_inOrder (hvalid hv) hflags hstage)
    refine ⟨fun h => act_dropped hp (act_forged hp hb h), fun ha hf => act_violates hp (act_malformed hp hb ha hf),
      fun ha hf h3 hop hbody => act_ack hp hb ha hf h3 hop hbody, fun hc h1 h2 => hviolates hc fun h => ?_,
      fun hc h1 h2 h3 => hviolates hc fun h => h.owner ⟨h1, h2, h3⟩, fun hc h1 => hviolates hc fun h => h.payload h1,
      fun hc hv hflags hknown => act_dropped hp ((hcommand hc).trans (asCommand_marked (hvalid hv) hflags hknown)),
      fun hc hal h0 h64 hnone => ?_, fun r hc hal hold hr => ?_, fun hc hal h0 hheld hidle => ?_⟩
    · exact h.window.elim (fun h => absurd h (Nat.not_lt.2 h1)) fun h => absurd h (Nat.not_le.2 h2)
    · rw [show runs = _ from hinOrder hc hal, inOrder_keeps hp h0 h64 hnone]
      exact ⟨_, _, rfl, onlyPav_modPav hp _, mfind_mset_same .., rfl⟩
    · rw [show runs = _ from hinOrder hc hal, inOrder_answered hold hr]
      have hbut := send_but s n (.act n r)
      exact ⟨_, rfl, send_out hb _, (congrArg State.mem hbut :), (congrArg State.images hbut :), (congrArg State.dies hbut :)⟩
    · intro answers
      have hanswers : ∀ {stat b}, (∀ s2, OnlyPav s s2 n p → s2.runMessage pav m = (turned s2 pav).respond pav seq op stat b) →
          answers stat b := fun hrun => by
        obtain ⟨s', p', hs', hans, hp', hnseq, hmem⟩ := due_answered hp h0 hheld hidle hb hrun
        exact ⟨s', p', (hinOrder hc hal).trans (congrArg Host.Outcome.next hs'), hans, hp', hnseq, hmem⟩
      refine ⟨fun hst hknown h5 h8 hmgmt => hanswers fun s2 h2 => run_frozen h2.1 hst hknown h5 h8 hmgmt,
        fun h => hanswers fun s2 _ => run_unknown h, fun off hst h => hanswers fun s2 h2 => run_refused h2.1 hst h,
        fun hop hok h2 h8 => hanswers fun s2 honly => run_counters honly.1 ?_ hop hok h2 h8⟩
      exact (congrArg State.stage honly.2.2 :).trans_ne hal.2.2

end Sys2Proof.HostTraffic
end
